-- ==== Sys2Proof/Word.lean ====
section
/-! DEFINITION. The word types of the Calser: 64-bit registers and addresses (R90, R219), bytes of memory (R7),
32-bit instruction words (R13), and the 5-bit register field of an instruction word (R14). -/

namespace Sys2Proof

/-- A 64-bit register, address or operand. -/
abbrev Word := BitVec 64

/-- A byte of memory. -/
abbrev Byte := BitVec 8

/-- An instruction word (R13). -/
abbrev IWord := BitVec 32

/-- A 5-bit register field as it stands in the word (R14): what it names depends on the instruction. -/
abbrev Reg := BitVec 5

end Sys2Proof
end

