-- ==== Sys2Proof/Config.lean ====
section
/-! DEFINITION. The free values: what the spec leaves open where the machine goes on. Nothing can be proved of them.
`n` is the state's counter `freeCtr`, which every use advances, so that no two uses share a value. -/

namespace Sys2Proof.Config

/-- A free choice between two outcomes that the spec both allows (R239, R396; log 8). -/
opaque freeBool (n : Nat) : Bool

/-- A free byte (log 12, log 13). -/
opaque freeByte (n : Nat) : Byte

/-- A free word (log 20, log 21). -/
opaque freeWord (n : Nat) : Word

/-- Byte n of the public part of the module's device identity key (R468, R470; log 20). -/
opaque identityKey (n : Nat) : Byte

/-- The priority at which the network engines' frames travel, modulo 8 (R446; log 82). -/
opaque framePriority (n : Nat) : Nat

end Sys2Proof.Config
end

