-- ==== Sys2Proof/Machine/Numbers.lean ====
section
/-! DEFINITION. Element types, floating formats, rounding and arithmetic (05_numbers, R127 to R151). A value is held
exactly as a sign, a natural number and a power of two, and is rounded once (R133 to R136). -/

namespace Sys2Proof.Machine

/-- The element types of R44 (codes 0 to 14). -/
inductive ETy where
  | i8 | i16 | i32 | i64 | c8 | c16 | c32 | c64 | e4m3 | e5m2 | f16 | bf16 | f32 | f64 | n4
deriving DecidableEq, Repr

/-- The type of a code; 15 is reserved for ETA (R44). -/
def etyOfCode (c : Nat) : Option ETy :=
  match c with
  | 0 => some .i8
  | 1 => some .i16
  | 2 => some .i32
  | 3 => some .i64
  | 4 => some .c8
  | 5 => some .c16
  | 6 => some .c32
  | 7 => some .c64
  | 8 => some .e4m3
  | 9 => some .e5m2
  | 10 => some .f16
  | 11 => some .bf16
  | 12 => some .f32
  | 13 => some .f64
  | 14 => some .n4
  | _ => none

/-- The width in bits (R44). -/
def etyBits (t : ETy) : Nat :=
  match t with
  | .i8 | .c8 | .e4m3 | .e5m2 => 8
  | .i16 | .c16 | .f16 | .bf16 => 16
  | .i32 | .c32 | .f32 => 32
  | .i64 | .c64 | .f64 => 64
  | .n4 => 4

/-- The signed integer types In (R127). -/
def etySigned (t : ETy) : Bool :=
  match t with
  | .i8 | .i16 | .i32 | .i64 => true
  | _ => false

/-- The integer types (R127). -/
def etyIsInt (t : ETy) : Bool :=
  match t with
  | .i8 | .i16 | .i32 | .i64 | .c8 | .c16 | .c32 | .c64 => true
  | _ => false

/-- The floating formats of R129. -/
def etyIsFp (t : ETy) : Bool :=
  match t with
  | .e4m3 | .e5m2 | .f16 | .bf16 | .f32 | .f64 => true
  | _ => false

/-- A type `fs` and the `va` floating forms compute in: F16, BF16, F32, F64 (R111). -/
def etyIsArith (t : ETy) : Bool :=
  match t with
  | .f16 | .bf16 | .f32 | .f64 => true
  | _ => false

/-! ### FLAGS bits (R140) -/

/-- The six FLAGS bits. -/
abbrev Flags := BitVec 6

/-- NV. -/
def fNV : Flags := 1#6
/-- DZ. -/
def fDZ : Flags := 2#6
/-- OF. -/
def fOF : Flags := 4#6
/-- UF. -/
def fUF : Flags := 8#6
/-- NX. -/
def fNX : Flags := 16#6
/-- SAT. -/
def fSAT : Flags := 32#6
/-- A flag raised when a condition holds. -/
def flagIf (c : Bool) (f : Flags) : Flags := if c then f else 0#6

/-! ### Integers (R127, R128) -/

/-- The value of the low bits of an encoding as type t. -/
def intVal (t : ETy) (x : Nat) : Int :=
  let n := etyBits t
  let u := x % 2 ^ n
  if etySigned t && decide (2 ^ (n - 1) ≤ u) then (u : Int) - 2 ^ n else u

/-- wrap(x, n) as an encoding (R128). -/
def wrapN (n : Nat) (x : Int) : Nat := (x % (2 ^ n : Nat)).toNat

/-- The least value of an integer type. -/
def intMin (t : ETy) : Int := if etySigned t then -(2 ^ (etyBits t - 1) : Nat) else 0

/-- The greatest value of an integer type. -/
def intMax (t : ETy) : Int :=
  if etySigned t then (2 ^ (etyBits t - 1) : Nat) - 1 else (2 ^ etyBits t : Nat) - 1

/-- An exact integer result delivered in type t: wrapped, or clamped with FLAGS.SAT (R128). -/
def intResult (t : ETy) (sat : Bool) (x : Int) : Nat × Flags :=
  if intMin t ≤ x ∧ x ≤ intMax t then (wrapN (etyBits t) x, 0#6)
  else if sat then (wrapN (etyBits t) (if x < intMin t then intMin t else intMax t), fSAT)
  else (wrapN (etyBits t) x, 0#6)

/-- Division at width n with R95's corners: quotient. -/
def intDiv (t : ETy) (a b : Nat) : Nat :=
  let n := etyBits t
  if b % 2 ^ n = 0 then 2 ^ n - 1
  else wrapN n ((intVal t a).tdiv (intVal t b))

/-- Division at width n with R95's corners: remainder. -/
def intRem (t : ETy) (a b : Nat) : Nat :=
  let n := etyBits t
  if b % 2 ^ n = 0 then a % 2 ^ n
  else wrapN n ((intVal t a).tmod (intVal t b))

/-! ### Floating values (R129, R130) -/

/-- The layout of a floating format (R129). -/
structure Fmt where
  bits : Nat
  f    : Nat
  bias : Nat
  noInf : Bool
deriving DecidableEq, Repr

/-- The format of a floating type (R129). -/
def fmtOf (t : ETy) : Fmt :=
  match t with
  | .f64 => ⟨64, 52, 1023, false⟩
  | .f16 => ⟨16, 10, 15, false⟩
  | .bf16 => ⟨16, 7, 127, false⟩
  | .e5m2 => ⟨8, 2, 15, false⟩
  | .e4m3 => ⟨8, 3, 7, true⟩
  | _ => ⟨32, 23, 127, false⟩

/-- The default NaN (R129). -/
def defaultNaN (t : ETy) : Nat :=
  match t with
  | .f64 => 0x7FF8000000000000
  | .f16 => 0x7E00
  | .bf16 => 0x7FC0
  | .e5m2 => 0x7E
  | .e4m3 => 0x7F
  | _ => 0x7FC00000

/-- A floating value: a NaN (signalling or quiet), an infinity, or ±m·2^e exactly. -/
inductive FVal where
  | nan (sig : Bool)
  | inf (neg : Bool)
  | fin (neg : Bool) (m : Nat) (e : Int)
deriving DecidableEq, Repr

/-- The value of an encoding (R129, R130, R131). -/
def unpack (t : ETy) (x : Nat) : FVal :=
  let q := fmtOf t
  let s := decide ((x / 2 ^ (q.bits - 1)) % 2 = 1)
  let ew := q.bits - 1 - q.f
  let e := (x / 2 ^ q.f) % 2 ^ ew
  let fr := x % 2 ^ q.f
  if e = 2 ^ ew - 1 then
    if q.noInf then
      if fr = 2 ^ q.f - 1 then .nan false
      else .fin s (2 ^ q.f + fr) ((e : Int) - q.bias - q.f)
    else if fr = 0 then .inf s
    else .nan (decide (fr < 2 ^ (q.f - 1)))
  else if e = 0 then .fin s fr (1 - (q.bias : Int) - q.f)
  else .fin s (2 ^ q.f + fr) ((e : Int) - q.bias - q.f)

/-- An exact or nearly exact magnitude: |x| = m·2^e, or strictly between m·2^e and (m+1)·2^e when `st`. -/
structure Mag where
  m  : Nat
  e  : Int
  st : Bool
deriving DecidableEq, Repr

/-- A rounding mode of R133; RS carries its 23-bit draw (R134, R138). -/
inductive RMode where
  | rne | rtz | rdn | rup | rna
  | rs (r : Nat)
deriving DecidableEq, Repr

/-- The magnitude as a multiple of 2^qe chosen by the mode (R133, R134), and whether it differs from |x|. -/
def roundMag (md : RMode) (neg : Bool) (x : Mag) (qe : Int) : Nat × Bool :=
  let sh := (qe - x.e).toNat
  let mm := x.m * 2 ^ (x.e - qe).toNat
  let lo := mm / 2 ^ sh
  let rem := mm % 2 ^ sh
  let inexact := decide (rem ≠ 0) || x.st
  let up :=
    match md with
    | .rne => decide (2 ^ sh < 2 * rem) ||
        (decide (2 * rem = 2 ^ sh) && (x.st || decide (lo % 2 = 1)))
    | .rtz => false
    | .rdn => inexact && neg
    | .rup => inexact && !neg
    | .rna => decide (2 ^ sh ≤ 2 * rem)
    | .rs r => inexact && decide (2 ^ 23 ≤ rem * 2 ^ 23 / 2 ^ sh + r)
  (if up then lo + 1 else lo, inexact)

/-- The number of significant bits. -/
def bitLen (m : Nat) : Nat := if m = 0 then 0 else Nat.log2 m + 1

/-- A floating result: its encoding and the flags it raises. -/
structure FRes where
  bits : Nat
  fl   : Flags
deriving DecidableEq, Repr

/-- The encoding of ±(mag·2^qe), where mag is at most 2^(f+1) and qe is the spacing R133 names. -/
def encodeFin (q : Fmt) (neg : Bool) (mag : Nat) (qe : Int) : Nat :=
  let (mag, qe) := if mag = 2 ^ (q.f + 1) then (2 ^ q.f, qe + 1) else (mag, qe)
  let s := if neg then 2 ^ (q.bits - 1) else 0
  if mag < 2 ^ q.f then s + mag
  else s + (qe + q.f + q.bias).toNat * 2 ^ q.f + (mag - 2 ^ q.f)

/-- A signed zero. -/
def zeroOf (t : ETy) (neg : Bool) : Nat := if neg then 2 ^ ((fmtOf t).bits - 1) else 0

/-- An infinity of a format that has them. -/
def infOf (t : ETy) (neg : Bool) : Nat :=
  let q := fmtOf t
  zeroOf t neg + (2 ^ (q.bits - 1 - q.f) - 1) * 2 ^ q.f

/-- The largest finite value. -/
def maxOf (t : ETy) (neg : Bool) : Nat :=
  match t with
  | .e4m3 => zeroOf t neg + 0x7E
  | _ => infOf t neg - 1

/-- The largest significand and the exponent of its spacing (R129). -/
def maxMag (t : ETy) : Nat × Int :=
  let q := fmtOf t
  match t with
  | .e4m3 => (14, 5)
  | _ => (2 ^ (q.f + 1) - 1, (q.bias : Int) - q.f)

/-- The result of an overflow (R135). -/
def overflowResult (t : ETy) (md : RMode) (sat neg : Bool) : FRes :=
  match t with
  | .e4m3 =>
    if sat then ⟨maxOf t neg, fOF ||| fNX ||| fSAT⟩ else ⟨defaultNaN t, fOF ||| fNX⟩
  | _ =>
    let toInf :=
      match md with
      | .rtz => false
      | .rdn => neg
      | .rup => !neg
      | _ => true
    if sat && decide (t = .e5m2) then ⟨maxOf t neg, fOF ||| fNX ||| flagIf toInf fSAT⟩
    else ⟨if toInf then infOf t neg else maxOf t neg, fOF ||| fNX⟩

/-- Rounds ±x to the floating type t (R133 to R136). -/
def roundFp (t : ETy) (md : RMode) (sat neg : Bool) (x : Mag) : FRes :=
  let q := fmtOf t
  if x.m = 0 ∧ x.st = false then ⟨zeroOf t neg, 0#6⟩
  else
    let ex : Int := (bitLen x.m : Int) - 1 + x.e
    let emin : Int := 1 - (q.bias : Int)
    let qe : Int := (if ex < emin then emin else ex) - q.f
    let r := roundMag md neg x qe
    let top := maxMag t
    let carried := decide (r.1 = 2 ^ (q.f + 1))
    let qe' := if carried then qe + 1 else qe
    if top.2 < qe' ∨ (qe' = top.2 ∧ carried = false ∧ top.1 < r.1) then overflowResult t md sat neg
    else
      let tiny := decide (ex < emin) &&
        (decide (ex < emin - 1) || decide ((roundMag md neg x (ex - q.f)).1 < 2 ^ (q.f + 1)))
      ⟨encodeFin q neg r.1 qe, flagIf r.2 fNX ||| flagIf (tiny && r.2) fUF⟩

/-- An invalid operation: the default NaN, with NV (R130, R141). -/
def invalid (t : ETy) : FRes := ⟨defaultNaN t, fNV⟩

/-- NV for a signalling NaN among two operands (R141). -/
def sigFlag (a b : FVal) : Flags :=
  flagIf (decide (a = .nan true) || decide (b = .nan true)) fNV

/-- A signed exact number ±m·2^e. -/
structure Term where
  neg : Bool
  m   : Nat
  e   : Int
deriving DecidableEq, Repr

/-- The exact sum of terms as an integer multiple of 2^e, where e is the least exponent of them. -/
def sumTerms (ts : List Term) : Int × Int :=
  let e := ts.foldl (fun (k : Int) (x : Term) => if x.e < k then x.e else k)
    (match ts with | [] => 0 | x :: _ => x.e)
  (ts.foldl (fun (k : Int) (x : Term) =>
    let v : Int := x.m * 2 ^ (x.e - e).toNat
    if x.neg then k - v else k + v) 0, e)

/-- The sign of an exact zero sum (R132): kept when every term has it, else + (− under RDN). -/
def zeroSign (md : RMode) (ts : List Term) : Bool :=
  match ts with
  | [] => false
  | x :: rest =>
    if ts.all (fun y => decide (y.m = 0)) && rest.all (fun y => y.neg == x.neg) then x.neg
    else decide (md = .rdn)

/-- The exact sum of terms, rounded once (R132, R133, R150). -/
def roundSum (t : ETy) (md : RMode) (sat : Bool) (ts : List Term) : FRes :=
  let v := sumTerms ts
  if v.1 = 0 then ⟨zeroOf t (zeroSign md ts), 0#6⟩
  else roundFp t md sat (decide (v.1 < 0)) ⟨v.1.natAbs, v.2, false⟩

/-- Negates a value. -/
def FVal.negate : FVal → FVal
  | .nan s => .nan s
  | .inf n => .inf (!n)
  | .fin n m e => .fin (!n) m e

/-- a + b of two values, rounded to t (R130, R132, R141). -/
def addV (t : ETy) (md : RMode) (sat : Bool) (a b : FVal) : FRes :=
  match a, b with
  | .nan _, _ => ⟨defaultNaN t, sigFlag a b⟩
  | _, .nan _ => ⟨defaultNaN t, sigFlag a b⟩
  | .inf x, .inf y => if x = y then ⟨infOf t x, 0#6⟩ else invalid t
  | .inf x, .fin _ _ _ => ⟨infOf t x, 0#6⟩
  | .fin _ _ _, .inf y => ⟨infOf t y, 0#6⟩
  | .fin n m e, .fin n' m' e' => roundSum t md sat [⟨n, m, e⟩, ⟨n', m', e'⟩]

/-- add (R112, R169). -/
def fAdd (t : ETy) (md : RMode) (sat : Bool) (a b : Nat) : FRes := addV t md sat (unpack t a) (unpack t b)

/-- sub. -/
def fSub (t : ETy) (md : RMode) (sat : Bool) (a b : Nat) : FRes :=
  addV t md sat (unpack t a) (unpack t b).negate

/-- a × b of two values, rounded to t (R130, R141). -/
def mulV (t : ETy) (md : RMode) (sat : Bool) (x y : FVal) : FRes :=
  match x, y with
  | .nan _, _ => ⟨defaultNaN t, sigFlag x y⟩
  | _, .nan _ => ⟨defaultNaN t, sigFlag x y⟩
  | .inf n, .inf n' => ⟨infOf t (n ^^ n'), 0#6⟩
  | .inf n, .fin n' m _ => if m = 0 then invalid t else ⟨infOf t (n ^^ n'), 0#6⟩
  | .fin n m _, .inf n' => if m = 0 then invalid t else ⟨infOf t (n ^^ n'), 0#6⟩
  | .fin n m e, .fin n' m' e' => roundFp t md sat (n ^^ n') ⟨m * m', e + e', false⟩

/-- mul. -/
def fMul (t : ETy) (md : RMode) (sat : Bool) (a b : Nat) : FRes := mulV t md sat (unpack t a) (unpack t b)

/-- The exact quotient of two nonzero magnitudes to 256 extra bits, with what is left as `st`. -/
def divMag (m m' : Nat) (e e' : Int) : Mag :=
  ⟨m * 2 ^ 256 / m', e - e' - 256, decide (m * 2 ^ 256 % m' ≠ 0)⟩

/-- div (R112, R141). -/
def fDiv (t : ETy) (md : RMode) (sat : Bool) (a b : Nat) : FRes :=
  let x := unpack t a
  let y := unpack t b
  match x, y with
  | .nan _, _ => ⟨defaultNaN t, sigFlag x y⟩
  | _, .nan _ => ⟨defaultNaN t, sigFlag x y⟩
  | .inf _, .inf _ => invalid t
  | .inf n, .fin n' _ _ => ⟨infOf t (n ^^ n'), 0#6⟩
  | .fin n _ _, .inf n' => ⟨zeroOf t (n ^^ n'), 0#6⟩
  | .fin n m e, .fin n' m' e' =>
    if m' = 0 then
      if m = 0 then invalid t else ⟨infOf t (n ^^ n'), fDZ⟩
    else if m = 0 then ⟨zeroOf t (n ^^ n'), 0#6⟩
    else roundFp t md sat (n ^^ n') (divMag m m' e e')

/-- The integer square root of m, searched bit by bit from bit k - 1 down. -/
def isqrtGo (m : Nat) : Nat → Nat → Nat
  | 0, r => r
  | k + 1, r => if (r + 2 ^ k) * (r + 2 ^ k) ≤ m then isqrtGo m k (r + 2 ^ k) else isqrtGo m k r

/-- The integer square root. -/
def isqrt (m : Nat) : Nat := isqrtGo m (bitLen m / 2 + 1) 0

/-- The square root of m·2^e to 128 extra bits. -/
def sqrtMag (m : Nat) (e : Int) : Mag :=
  let m1 := if e % 2 = 0 then m else m * 2
  let e1 := if e % 2 = 0 then e else e - 1
  let r := isqrt (m1 * 2 ^ 256)
  ⟨r, e1 / 2 - 128, decide (r * r ≠ m1 * 2 ^ 256)⟩

/-- sqrt (R112). -/
def fSqrt (t : ETy) (md : RMode) (sat : Bool) (a : Nat) : FRes :=
  let x := unpack t a
  match x with
  | .nan _ => ⟨defaultNaN t, sigFlag x x⟩
  | .inf n => if n then invalid t else ⟨infOf t false, 0#6⟩
  | .fin n m e =>
    if m = 0 then ⟨zeroOf t n, 0#6⟩
    else if n then invalid t
    else roundFp t md sat false (sqrtMag m e)

/-- rsqrt (R141, R170): 1 / √a. -/
def fRsqrt (t : ETy) (md : RMode) (sat : Bool) (a : Nat) : FRes :=
  let x := unpack t a
  match x with
  | .nan _ => ⟨defaultNaN t, sigFlag x x⟩
  | .inf n => if n then invalid t else ⟨zeroOf t false, 0#6⟩
  | .fin n m e =>
    if m = 0 then ⟨infOf t n, fDZ⟩
    else if n then invalid t
    else
      let m1 := if e % 2 = 0 then m else m * 2
      let e1 := if e % 2 = 0 then e else e - 1
      let r := isqrt (2 ^ 512 / m1)
      roundFp t md sat false ⟨r, -(e1 / 2) - 256, decide (r * r * m1 ≠ 2 ^ 512)⟩

/-- recip (R141, R170): 1 / a. -/
def fRecip (t : ETy) (md : RMode) (sat : Bool) (a : Nat) : FRes :=
  let x := unpack t a
  match x with
  | .nan _ => ⟨defaultNaN t, sigFlag x x⟩
  | .inf n => ⟨zeroOf t n, 0#6⟩
  | .fin n m e =>
    if m = 0 then ⟨infOf t n, fDZ⟩
    else roundFp t md sat n (divMag 1 m 0 e)

/-- ±(a·b) ± c, rounded once (R149): `np` and `nc` negate the product and the addend. -/
def fFmaT (t : ETy) (md : RMode) (sat np nc : Bool) (a b c : Nat) : FRes :=
  let x := unpack t a
  let y := unpack t b
  let z := unpack t c
  let sg := sigFlag x y ||| sigFlag z z
  let prodInvalid :=
    match x, y with
    | .inf _, .fin _ m _ => decide (m = 0)
    | .fin _ m _, .inf _ => decide (m = 0)
    | _, _ => false
  if prodInvalid then ⟨defaultNaN t, fNV⟩
  else
    match x, y, z with
    | .nan _, _, _ => ⟨defaultNaN t, sg⟩
    | _, .nan _, _ => ⟨defaultNaN t, sg⟩
    | _, _, .nan _ => ⟨defaultNaN t, sg⟩
    | .fin n m e, .fin n' m' e', .fin n'' m'' e'' =>
      roundSum t md sat [⟨(n ^^ n') ^^ np, m * m', e + e'⟩, ⟨n'' ^^ nc, m'', e''⟩]
    | .fin _ _ _, .fin _ _ _, .inf n'' => ⟨infOf t (n'' ^^ nc), 0#6⟩
    | .inf n, .inf n', .inf n'' =>
      if ((n ^^ n') ^^ np) = (n'' ^^ nc) then ⟨infOf t (n'' ^^ nc), 0#6⟩ else invalid t
    | .inf n, .inf n', .fin _ _ _ => ⟨infOf t ((n ^^ n') ^^ np), 0#6⟩
    | .inf n, .fin n' _ _, .inf n'' =>
      if ((n ^^ n') ^^ np) = (n'' ^^ nc) then ⟨infOf t (n'' ^^ nc), 0#6⟩ else invalid t
    | .inf n, .fin n' _ _, .fin _ _ _ => ⟨infOf t ((n ^^ n') ^^ np), 0#6⟩
    | .fin n _ _, .inf n', .inf n'' =>
      if ((n ^^ n') ^^ np) = (n'' ^^ nc) then ⟨infOf t (n'' ^^ nc), 0#6⟩ else invalid t
    | .fin n _ _, .inf n', .fin _ _ _ => ⟨infOf t ((n ^^ n') ^^ np), 0#6⟩

/-- The exact order of two numbers that are not NaN: negative, zero or positive like a − b, with −0 equal to +0. -/
def cmpFin (a b : FVal) : Int :=
  match a, b with
  | .inf x, .inf y => if x = y then 0 else if x then -1 else 1
  | .inf x, _ => if x then -1 else 1
  | _, .inf y => if y then 1 else -1
  | .fin n m e, .fin n' m' e' => (sumTerms [⟨n, m, e⟩, ⟨!n', m', e'⟩]).1
  | _, _ => 0

/-- A NaN. -/
def isNaN : FVal → Bool
  | .nan _ => true
  | _ => false

/-- The sign of a value. -/
def signOf : FVal → Bool
  | .nan _ => false
  | .inf n => n
  | .fin n _ _ => n

/-- min and max (R112): `mx` chooses max; −0 < +0. -/
def fMinMax (t : ETy) (mx : Bool) (a b : Nat) : FRes :=
  let x := unpack t a
  let y := unpack t b
  let fl := sigFlag x y
  let w := 2 ^ (fmtOf t).bits
  match isNaN x, isNaN y with
  | true, true => ⟨defaultNaN t, fl⟩
  | true, false => ⟨b % w, fl⟩
  | false, true => ⟨a % w, fl⟩
  | false, false =>
    let c := cmpFin x y
    let aLess := decide (c < 0) || (decide (c = 0) && signOf x && !signOf y)
    ⟨(if aLess == mx then b else a) % w, 0#6⟩

/-- eq (R112): NV only for a signalling NaN. -/
def fEq (t : ETy) (a b : Nat) : Bool × Flags :=
  let x := unpack t a
  let y := unpack t b
  (!(isNaN x || isNaN y) && decide (cmpFin x y = 0), sigFlag x y)

/-- lt and le (R112): NV when either operand is a NaN. -/
def fLess (t : ETy) (orEq : Bool) (a b : Nat) : Bool × Flags :=
  let x := unpack t a
  let y := unpack t b
  let nan := isNaN x || isNaN y
  (!nan && (decide (cmpFin x y < 0) || (orEq && decide (cmpFin x y = 0))), flagIf nan fNV)

/-- The class bit of cls (R112). -/
def fClass (t : ETy) (a : Nat) : Nat :=
  let q := fmtOf t
  match unpack t a with
  | .nan s => if s then 2 ^ 8 else 2 ^ 9
  | .inf n => if n then 1 else 2 ^ 7
  | .fin n m _ =>
    if m = 0 then (if n then 2 ^ 3 else 2 ^ 4)
    else if m < 2 ^ q.f then (if n then 2 ^ 2 else 2 ^ 5)
    else (if n then 2 ^ 1 else 2 ^ 6)

/-! ### Conversions (R143) -/

/-- An integer to a floating type. -/
def cvtIntFp (t : ETy) (md : RMode) (sat : Bool) (x : Int) : FRes :=
  if x = 0 then ⟨0, 0#6⟩ else roundFp t md sat (decide (x < 0)) ⟨x.natAbs, 0, false⟩

/-- A floating value to a floating type (R135, R143). -/
def cvtFpFp (t : ETy) (md : RMode) (sat : Bool) (x : FVal) : FRes :=
  match x with
  | .nan s => ⟨defaultNaN t, flagIf s fNV⟩
  | .inf n =>
    if (fmtOf t).noInf then
      if sat then ⟨maxOf t n, fSAT⟩ else ⟨defaultNaN t, fNV⟩
    else ⟨infOf t n, 0#6⟩
  | .fin n m e => roundFp t md sat n ⟨m, e, false⟩

/-- A floating value to an integer type (R143). -/
def cvtFpInt (t : ETy) (md : RMode) (sat : Bool) (x : FVal) : Nat × Flags :=
  match x with
  | .nan _ => (0, fNV)
  | .inf n =>
    if sat then (wrapN (etyBits t) (if n then intMin t else intMax t), fNV ||| fSAT) else (0, fNV)
  | .fin n m e =>
    let r := roundMag md n ⟨m, e, false⟩ 0
    let v : Int := if n then -(r.1 : Int) else r.1
    if intMin t ≤ v ∧ v ≤ intMax t then (wrapN (etyBits t) v, flagIf r.2 fNX)
    else if sat then (wrapN (etyBits t) (if v < intMin t then intMin t else intMax t), fNV ||| fSAT)
    else (wrapN (etyBits t) v, fNV)

/-- A conversion between two types other than N4 (R143). -/
def convert (src dst : ETy) (md : RMode) (sat : Bool) (x : Nat) : Nat × Flags :=
  if etyIsInt src then
    if etyIsInt dst then intResult dst sat (intVal src x)
    else
      let r := cvtIntFp dst md sat (intVal src x)
      (r.bits, r.fl)
  else if etyIsInt dst then cvtFpInt dst md sat (unpack src x)
  else
    let r := cvtFpFp dst md sat (unpack src x)
    (r.bits, r.fl)

/-! ### exp2 and log2 (R170), to 256 bits below the point -/

/-- The terms 1/(k·2^k) of ln 2, k from 1 up, scaled by 2^p. -/
def ln2Go (p : Nat) : Nat → Nat → Nat
  | 0, _ => 0
  | n + 1, k => 2 ^ p / (k * 2 ^ k) + ln2Go p n (k + 1)

/-- ln 2 scaled by 2^320 (a sum of 330 terms). -/
def ln2 : Nat := ln2Go 320 330 1

/-- The Taylor terms of e^y scaled by 2^320: `term` is y^k/k!. -/
def expGo (y : Nat) : Nat → Nat → Nat → Nat
  | 0, _, _ => 0
  | n + 1, k, term => term + expGo y n (k + 1) (term * y / 2 ^ 320 / (k + 1))

/-- 2^(f / 2^320) scaled by 2^320, for f below 2^320. -/
def exp2Frac (f : Nat) : Nat := expGo (f * ln2 / 2 ^ 320) 90 0 (2 ^ 320)

/-- exp2 (R170). The value of a finite operand that is no integer is held to 256 bits before it is rounded. -/
def fExp2 (t : ETy) (md : RMode) (sat : Bool) (a : Nat) : FRes :=
  let x := unpack t a
  match x with
  | .nan _ => ⟨defaultNaN t, sigFlag x x⟩
  | .inf n => if n then ⟨zeroOf t false, 0#6⟩ else ⟨infOf t false, 0#6⟩
  | .fin n m e =>
    if m = 0 then roundFp t md sat false ⟨1, 0, false⟩
    else if 13 < (bitLen m : Int) + e then
      -- |a| is at least 8,192: far outside every format
      if n then roundFp t md sat false ⟨2 ^ 300, -5000, true⟩ else overflowResult t md sat false
    else
      -- a·2^320, rounded down to an integer
      let sc : Int := (if n then -(m : Int) else m) * 2 ^ (e + 320).toNat
      let fx : Int := sc / (2 ^ (-(e + 320)).toNat : Nat)
      let cut := decide (sc % (2 ^ (-(e + 320)).toNat : Nat) ≠ 0)
      let ip := fx / (2 ^ 320 : Nat)
      let fp := (fx % (2 ^ 320 : Nat)).toNat
      if fp = 0 ∧ cut = false then roundFp t md sat false ⟨1, ip, false⟩
      else roundFp t md sat false ⟨exp2Frac fp / 2 ^ 64, ip - 256, true⟩

/-- The bits of log2 of y / 2^p, y / 2^p in [1, 2): each squaring gives one. -/
def log2Go (p : Nat) : Nat → Nat → Nat → Nat
  | 0, _, r => r
  | n + 1, y, r =>
    let y2 := y * y / 2 ^ p
    if 2 ^ (p + 1) ≤ y2 then log2Go p n (y2 / 2) (2 * r + 1) else log2Go p n y2 (2 * r)

/-- log2 (R141, R170). The value of a finite operand that is no power of two is held to 256 bits before it is
rounded. -/
def fLog2 (t : ETy) (md : RMode) (sat : Bool) (a : Nat) : FRes :=
  let x := unpack t a
  match x with
  | .nan _ => ⟨defaultNaN t, sigFlag x x⟩
  | .inf n => if n then invalid t else ⟨infOf t false, 0#6⟩
  | .fin n m e =>
    if m = 0 then ⟨infOf t true, fDZ⟩
    else if n then invalid t
    else
      let l := bitLen m - 1
      let ip : Int := (l : Int) + e
      if m = 2 ^ l then cvtIntFp t md sat ip
      else
        let v : Int := ip * (2 ^ 256 : Nat) + (log2Go 640 256 (m * 2 ^ 640 / 2 ^ l) 0 : Nat)
        if v < 0 then roundFp t md sat true ⟨v.natAbs - 1, -256, true⟩
        else roundFp t md sat false ⟨v.natAbs, -256, true⟩

/-! ### N4 (R144 to R148) -/

/-- The magnitudes of codes 0 to 7 of types 1 to 3, in halves (R144). -/
def n4Mags (ty : Nat) : List Nat :=
  match ty with
  | 1 => [0, 1, 2, 3, 4, 6, 8, 12]
  | 2 => [0, 2, 4, 8, 16, 32, 64, 128]
  | _ => [0, 2, 4, 6, 8, 12, 16, 32]

/-- The value of a code in a block of type `ty` whose scale field is `e` (R144). -/
def n4Val (ty e code : Nat) : FVal :=
  if e = 63 then .nan false
  else if ty = 0 then
    if code < 8 then .fin false code ((e : Int) - 31) else .fin true (16 - code) ((e : Int) - 31)
  else .fin (decide (8 ≤ code)) ((n4Mags ty).getD (code % 8) 0) ((e : Int) - 32)

/-- The value of a code under a scale byte (R144). -/
def n4Decode (scale code : Nat) : FVal := n4Val (scale / 64 % 4) (scale % 64) (code % 16)

/-- The least e from `k` up to 62 whose scaled range holds M = m·2^me, with `mg` the type's largest magnitude. -/
def n4ScaleGo (mg m : Nat) (me : Int) : Nat → Nat → Nat
  | 0, k => k
  | n + 1, k =>
    if (sumTerms [⟨false, m, me⟩, ⟨true, mg, (k : Int) - 31⟩]).1 ≤ 0 then k else n4ScaleGo mg m me n (k + 1)

/-- Chooses the index of the magnitude nearest v = n/d halves; ties go to the even index. -/
def n4NearGo (v : Nat) (d : Nat) : List Nat → Nat → Nat → Nat → Nat
  | [], _, best, _ => best
  | x :: xs, i, best, dist =>
    let dd := if x * d ≤ v then v - x * d else x * d - v
    if dd < dist ∨ (dd = dist ∧ i % 2 = 0 ∧ best % 2 = 1) then n4NearGo v d xs (i + 1) i dd
    else n4NearGo v d xs (i + 1) best dist

/-- The code of one value in a block of type `ty` and scale field `e`, and its flags (R148). DESIGN CHOICE (log 35): for type 0, whose
largest magnitude is 7 above zero and 8 below, SAT is judged for the value's own sign. -/
def n4Code (ty e : Nat) (x : FVal) : Nat × Flags :=
  match x with
  | .fin n m me =>
    -- v in halves: m·2^(me - (e - 31) + 1) = num / den
    let ex : Int := me - ((e : Int) - 31) + 1
    let num := m * 2 ^ ex.toNat
    let den := 2 ^ (-ex).toNat
    if ty = 0 then
      let r := roundMag .rne n ⟨m, me - ((e : Int) - 31), false⟩ 0
      let v : Int := if n then -(r.1 : Int) else r.1
      let past := if n then decide (16 * den < num) else decide (14 * den < num)
      let c : Int := if v < -8 then -8 else if 7 < v then 7 else v
      (wrapN 4 c, flagIf past fSAT ||| flagIf (r.2 || decide (c ≠ v)) fNX)
    else
      let mags := n4Mags ty
      let top := mags.getD 7 0
      let s := if n then 8 else 0
      if top * den < num then (s + 7, fSAT ||| fNX)
      else
        let i := n4NearGo num den mags 0 0 (num + 1)
        (s + i, flagIf (decide (mags.getD i 0 * den ≠ num)) fNX)
  | _ => (0, 0#6)

/-- The larger of two magnitudes. -/
def magMax (a b : Nat × Int) : Nat × Int :=
  if (sumTerms [⟨false, a.1, a.2⟩, ⟨true, b.1, b.2⟩]).1 < 0 then b else a

/-- Packs a block of 32 values to type `ty`: the scale byte, the codes and the flags (R148). -/
def n4Pack (ty : Nat) (xs : List FVal) : Nat × List Nat × Flags :=
  let bad := xs.any (fun x => match x with | .fin _ _ _ => false | _ => true)
  if bad then (ty * 64 + 63, xs.map (fun _ => 0), fNV)
  else
    let mg := xs.foldl (fun k x => match x with | .fin _ m e => magMax k (m, e) | _ => k) (0, 0)
    let top := match ty with | 0 => 7 | 1 => 6 | 2 => 64 | _ => 16
    let e := if mg.1 = 0 then 0 else n4ScaleGo top mg.1 mg.2 62 0
    let cs := xs.map (n4Code ty e)
    (ty * 64 + e, cs.map (·.1), cs.foldl (fun k c => k ||| c.2) 0#6)

/-! ### Fused sums of products (R150) -/

/-- One product of a fused sum, from its two operands. -/
inductive Prod where
  | nan
  | invalid
  | inf (neg : Bool)
  | fin (x : Term)
deriving DecidableEq, Repr

/-- The product of two values (R150). -/
def prodOf (a b : FVal) : Prod :=
  match a, b with
  | .nan _, _ => .nan
  | _, .nan _ => .nan
  | .inf n, .inf n' => .inf (n ^^ n')
  | .inf n, .fin n' m _ => if m = 0 then .invalid else .inf (n ^^ n')
  | .fin n m _, .inf n' => if m = 0 then .invalid else .inf (n ^^ n')
  | .fin n m e, .fin n' m' e' => .fin ⟨n ^^ n', m * m', e + e'⟩

/-- The accumulator plus the exact sum of products, rounded once to t (R150). `sig` tells of a signalling NaN among
the operands or the accumulator (R141). DESIGN CHOICE (log 37): with a quiet NaN among the operands, infinite terms of both signs raise no
NV; the spec does not say which comes first. -/
def dotRound (t : ETy) (md : RMode) (sat sig : Bool) (acc : FVal) (ps : List Prod) : FRes :=
  let anyInvalid := ps.any (fun p => decide (p = .invalid))
  let anyNaN := ps.any (fun p => decide (p = .nan)) || isNaN acc
  let infs := ps.filterMap (fun p => match p with | .inf n => some n | _ => none)
  let infs := match acc with | .inf n => n :: infs | _ => infs
  if anyInvalid then ⟨defaultNaN t, fNV⟩
  else if anyNaN then ⟨defaultNaN t, flagIf sig fNV⟩
  else if infs.any id && infs.any (fun n => !n) then ⟨defaultNaN t, fNV⟩
  else
    match infs with
    | n :: _ => ⟨infOf t n, 0#6⟩
    | [] =>
      let ts := ps.filterMap (fun p => match p with | .fin x => some x | _ => none)
      match acc with
      | .fin n m e => roundSum t md sat (⟨n, m, e⟩ :: ts)
      | _ => roundSum t md sat ts

end Sys2Proof.Machine
end

