-- ==== Sys2Proof/Syntax.lean ====
section
/-! DEFINITION. The Calser's instructions and the module's events: one constructor for each row of the opcode table.
A word's constructor carries the register and immediate fields of its encoding (R13 to R42), raw as they stand in the
word; what a field may hold is checked in WellFormed. An event's constructor (95_what_each_step_holds) carries what the
event's environment chooses: which strand, quad, request or message it concerns. -/

namespace Sys2Proof

/-- The second source of a two-source V-format form: S = 0 names a vector, S = 1 a scalar register (R31, R56). -/
inductive VSrc where
  | v (r : Reg)
  | s (r : Reg)
deriving DecidableEq, Repr

/-- The ORD field of `at` and `vat` (R40). -/
inductive AOrd where
  | rlx | acq | rel | ar
deriving DecidableEq, Repr

/-- A message of a reduction ring (R444): a join, or the contribution leaving position `pos` with its encodings. -/
structure CollMsg where
  collid : Nat
  seq    : Nat
  pos    : Nat
  join   : Bool
  n      : Nat
  eta    : Nat
  op     : Nat
  npos   : Nat
  devs   : List Nat
  vals   : List Word
deriving DecidableEq, Repr

/-- A datagram as it reaches this module (R446, R449): the port, the sender's IPv6 address, and the UDP payload, which is the 32-byte
transfer header and the data. -/
structure Datagram where
  port    : Nat
  addr6   : Nat
  payload : List Byte
deriving DecidableEq, Repr

/-- A peer range of a PARTITION body (R472). -/
structure PeerRange where
  dev  : Nat
  key  : Nat
  base : Nat
  len  : Nat
deriving DecidableEq, Repr

/-- The body of a PARTITION request with OP SET (R472). -/
structure PartBody where
  part      : Nat
  borrower  : Nat
  plo       : Nat
  phi       : Nat
  qways     : Nat
  tcount    : Nat
  ptbase    : Word
  asid      : BitVec 16
  vecbase   : Nat
  veccnt    : Nat
  iflags    : Nat
  fqbase    : Word
  spillBase : Nat
  spillLen  : Nat
  quads     : List Nat
  keymask   : Word
  dieBase   : Nat
  dieCnt    : Nat
  pkgBase   : Nat
  pkgCnt    : Nat
  podBase   : Nat
  podCnt    : Nat
  peers     : List PeerRange
deriving DecidableEq, Repr

/-- An outbound scale-out endpoint (R447, R473). -/
structure Endpoint where
  addr6  : Nat
  udpSrc : Nat
  udpDst : Nat
  mac    : Nat
  ports  : Nat
  rpart  : Nat
  wbase  : Nat
  wlen   : Nat
deriving DecidableEq, Repr

/-- An inbound grant (R447, R473). -/
structure InGrant where
  addr6 : Nat
  spart : Nat
  key   : Nat
  base  : Nat
  len   : Nat
deriving DecidableEq, Repr

/-- A registration of a subscriber as it reaches the publisher's engine (R440): `vword` and `pages` name the pages by their physical
addresses and key ids, `vva` and `va` are the virtual addresses of the version word and of the copy; `uid` is the strand that waits for
the answer when the subscriber is on this module. -/
structure SubReq where
  pubid  : Nat
  dev    : Nat
  part   : Nat
  len    : Nat
  vword  : Nat
  pages  : List Nat
  vva    : Nat
  va     : Nat
  uid    : Option Nat
deriving DecidableEq, Repr

/-- Every row of the opcode table: the words with operands in the table's order, then a word that is no instruction, the
words without operands, and the events. -/
inductive Instr where
  | iaAdd (d a b : Reg)
  | iaSub (d a b : Reg)
  | iaMul (d a b : Reg)
  | iaMulh (d a b : Reg)
  | iaMulhu (d a b : Reg)
  | iaDiv (d a b : Reg)
  | iaDivu (d a b : Reg)
  | iaRem (d a b : Reg)
  | iaRemu (d a b : Reg)
  | iaAnd (d a b : Reg)
  | iaOr (d a b : Reg)
  | iaXor (d a b : Reg)
  | iaAndn (d a b : Reg)
  | iaShl (d a b : Reg)
  | iaShr (d a b : Reg)
  | iaSra (d a b : Reg)
  | iaRol (d a b : Reg)
  | iaSlt (d a b : Reg)
  | iaSltu (d a b : Reg)
  | iaMin (d a b : Reg)
  | iaMax (d a b : Reg)
  | iaMinu (d a b : Reg)
  | iaMaxu (d a b : Reg)
  | iaClz (d a : Reg)
  | iaCtz (d a : Reg)
  | iaPopc (d a : Reg)
  | iaSext (d a w : Reg)
  | iaZext (d a w : Reg)
  | iiAdd (d a : Reg) (i : BitVec 12)
  | iiAnd (d a : Reg) (i : BitVec 12)
  | iiOr (d a : Reg) (i : BitVec 12)
  | iiXor (d a : Reg) (i : BitVec 12)
  | iiSlt (d a : Reg) (i : BitVec 12)
  | iiSltu (d a : Reg) (i : BitVec 12)
  | iiShl (d a : Reg) (h : BitVec 6)
  | iiShr (d a : Reg) (h : BitVec 6)
  | iiSra (d a : Reg) (h : BitVec 6)
  | luHi (d : Reg) (i : BitVec 20)
  | laPc (d : Reg) (i : BitVec 20)
  | brEq (a b : Reg) (o : BitVec 12)
  | brNe (a b : Reg) (o : BitVec 12)
  | brLt (a b : Reg) (o : BitVec 12)
  | brGe (a b : Reg) (o : BitVec 12)
  | brLtu (a b : Reg) (o : BitVec 12)
  | brGeu (a b : Reg) (o : BitVec 12)
  | jl (o : BitVec 25)
  | jr (d a : Reg) (i : BitVec 15)
  | lpL0 (a : Reg) (l : BitVec 12)
  | lpL1 (a : Reg) (l : BitVec 12)
  | ldB (d a : Reg) (o : BitVec 10)
  | ldBu (d a : Reg) (o : BitVec 10)
  | ldH (d a : Reg) (o : BitVec 10)
  | ldHu (d a : Reg) (o : BitVec 10)
  | ldW (d a : Reg) (o : BitVec 10)
  | ldWu (d a : Reg) (o : BitVec 10)
  | ldD (d a : Reg) (o : BitVec 10)
  | ldBP (d a : Reg) (o : BitVec 10)
  | ldBuP (d a : Reg) (o : BitVec 10)
  | ldHP (d a : Reg) (o : BitVec 10)
  | ldHuP (d a : Reg) (o : BitVec 10)
  | ldWP (d a : Reg) (o : BitVec 10)
  | ldWuP (d a : Reg) (o : BitVec 10)
  | ldDP (d a : Reg) (o : BitVec 10)
  | stB (d a : Reg) (o : BitVec 10)
  | stH (d a : Reg) (o : BitVec 10)
  | stW (d a : Reg) (o : BitVec 10)
  | stD (d a : Reg) (o : BitVec 10)
  | fsAdd (d a b : Reg)
  | fsSub (d a b : Reg)
  | fsMul (d a b : Reg)
  | fsDiv (d a b : Reg)
  | fsSqrt (d a : Reg)
  | fsFma (d a b : Reg)
  | fsMin (d a b : Reg)
  | fsMax (d a b : Reg)
  | fsEq (d a b : Reg)
  | fsLt (d a b : Reg)
  | fsLe (d a b : Reg)
  | fsCvti (d a : Reg)
  | fsCvtf (d a : Reg)
  | fsCls (d a : Reg)
  | fsCvt (d a : Reg)
  | qPush (q a : Reg)
  | qPop (d q : Reg)
  | qCnt (d q : Reg)
  | mdSet (i : BitVec 24)
  | mrPut (a : Reg)
  | mrGet (d : Reg)
  | syRd (d : Reg) (x : BitVec 10)
  | syWr (a : Reg) (x : BitVec 10)
  | syTrap (c : BitVec 10)
  | syTime (d : Reg)
  | syTlbinv (a : Reg)
  | syPgreq (a : Reg)
  | syResume (a : Reg)
  | syCtxsave (a : Reg)
  | syCtxrest (a : Reg)
  | syHalt (a : Reg)
  | syIntr (a : Reg)
  | brk (c : BitVec 25)
  | vaAdd (d a : Reg) (b : VSrc)
  | vaSub (d a : Reg) (b : VSrc)
  | vaMul (d a : Reg) (b : VSrc)
  | vaMulh (d a : Reg) (b : VSrc)
  | vaFma (d a : Reg) (b : VSrc)
  | vaFms (d a : Reg) (b : VSrc)
  | vaFnma (d a : Reg) (b : VSrc)
  | vaDiv (d a : Reg) (b : VSrc)
  | vaSqrt (d a : Reg)
  | vaRsqrt (d a : Reg)
  | vaRecip (d a : Reg)
  | vaExp2 (d a : Reg)
  | vaLog2 (d a : Reg)
  | vaMin (d a : Reg) (b : VSrc)
  | vaMax (d a : Reg) (b : VSrc)
  | vaAbs (d a : Reg)
  | vaNeg (d a : Reg)
  | vaAnd (d a : Reg) (b : VSrc)
  | vaOr (d a : Reg) (b : VSrc)
  | vaXor (d a : Reg) (b : VSrc)
  | vaShl (d a : Reg) (b : VSrc)
  | vaShr (d a : Reg) (b : VSrc)
  | vaSra (d a : Reg) (b : VSrc)
  | vaCvt (d a : Reg)
  | vaMulw (d a : Reg) (b : VSrc)
  | vaDotw (d a : Reg) (b : VSrc)
  | vaClip (d a : Reg) (b : VSrc)
  | vmEq (d a : Reg) (b : VSrc)
  | vmNe (d a : Reg) (b : VSrc)
  | vmLt (d a : Reg) (b : VSrc)
  | vmLe (d a : Reg) (b : VSrc)
  | vmGt (d a : Reg) (b : VSrc)
  | vmGe (d a : Reg) (b : VSrc)
  | vmUnord (d a : Reg) (b : VSrc)
  | vmAnd (d a b : Reg)
  | vmOr (d a b : Reg)
  | vmXor (d a b : Reg)
  | vmAndn (d a b : Reg)
  | vmNot (d a : Reg)
  | vmPop (d a : Reg)
  | vmFirst (d a : Reg)
  | vmFill (d a : Reg)
  | vpMv (d a : Reg)
  | vpBcast (d b : Reg)
  | vpIota (d : Reg)
  | vpSlup (d a b : Reg)
  | vpSldn (d a b : Reg)
  | vpPerm (d a b : Reg)
  | vpCompress (d a : Reg)
  | vpSel (d a : Reg) (b : VSrc)
  | vpRsum (d a : Reg)
  | vpRmax (d a : Reg)
  | vpRmin (d a : Reg)
  | vpExt (a b : Reg)
  | vpIns (d b : Reg)
  | vlSet (d a : Reg)
  | vlGet (d : Reg)
  | vfGo (o : BitVec 24)
  | vldU (d a : Reg) (eo ov p : Bool)
  | vldS (d a b : Reg) (eo ov p : Bool)
  | vldX (d a b : Reg) (eo ov p : Bool)
  | vstU (d a : Reg) (eo ov : Bool)
  | vstS (d a b : Reg) (eo ov : Bool)
  | vstX (d a b : Reg) (eo ov : Bool)
  | vbDecl (d a : Reg)
  | vbLd (a b : Reg)
  | vbTake (d : Reg)
  | vbFree (d : Reg)
  | mxShape (a : Reg)
  | mxZero (d : Reg)
  | mxOpa (d a b : Reg)
  | mxOpaSa (d a b : Reg)
  | mxOpaSb (d a b : Reg)
  | mxOpaSs (d a b : Reg)
  | mxRd (d a b : Reg)
  | mxWr (d a b : Reg)
  | mxLd (d a b : Reg)
  | mxSt (d a b : Reg)
  | mxWait (d : Reg)
  | mxCvt (d : Reg)
  | tnDef (a b : Reg)
  | tnInv (a : Reg)
  | tnRd (d a b : Reg)
  | tnTld (d a b : Reg)
  | tnTst (d a b : Reg)
  | tnPack (a b : Reg)
  | tnUnpack (a b : Reg)
  | trTurn (l a b : Reg)
  | trInval (l a b : Reg)
  | trAcq (d a b : Reg)
  | trRel (d a b : Reg)
  | trRetain (d a b : Reg)
  | trUnpin (a : Reg)
  | trLock (d a : Reg)
  | trUnlock (a : Reg)
  | atAdd (d a b : Reg) (nr : Bool) (r : AOrd) (ac : Bool)
  | atAnd (d a b : Reg) (nr : Bool) (r : AOrd) (ac : Bool)
  | atOr (d a b : Reg) (nr : Bool) (r : AOrd) (ac : Bool)
  | atXor (d a b : Reg) (nr : Bool) (r : AOrd) (ac : Bool)
  | atMin (d a b : Reg) (nr : Bool) (r : AOrd) (ac : Bool)
  | atMax (d a b : Reg) (nr : Bool) (r : AOrd) (ac : Bool)
  | atMinu (d a b : Reg) (nr : Bool) (r : AOrd) (ac : Bool)
  | atMaxu (d a b : Reg) (nr : Bool) (r : AOrd) (ac : Bool)
  | atSwap (d a b : Reg) (nr : Bool) (r : AOrd) (ac : Bool)
  | atCas (d a b : Reg) (r : AOrd)
  | atFadd (d a b : Reg) (nr : Bool) (r : AOrd) (ac : Bool)
  | atFmin (d a b : Reg) (nr : Bool) (r : AOrd) (ac : Bool)
  | atFmax (d a b : Reg) (nr : Bool) (r : AOrd) (ac : Bool)
  | vatAdd (d a b : Reg) (nr : Bool) (r : AOrd) (ac : Bool)
  | vatAnd (d a b : Reg) (nr : Bool) (r : AOrd) (ac : Bool)
  | vatOr (d a b : Reg) (nr : Bool) (r : AOrd) (ac : Bool)
  | vatXor (d a b : Reg) (nr : Bool) (r : AOrd) (ac : Bool)
  | vatMin (d a b : Reg) (nr : Bool) (r : AOrd) (ac : Bool)
  | vatMax (d a b : Reg) (nr : Bool) (r : AOrd) (ac : Bool)
  | vatMinu (d a b : Reg) (nr : Bool) (r : AOrd) (ac : Bool)
  | vatMaxu (d a b : Reg) (nr : Bool) (r : AOrd) (ac : Bool)
  | vatSwap (d a b : Reg) (nr : Bool) (r : AOrd) (ac : Bool)
  | vatFadd (d a b : Reg) (nr : Bool) (r : AOrd) (ac : Bool)
  | vatFmin (d a b : Reg) (nr : Bool) (r : AOrd) (ac : Bool)
  | vatFmax (d a b : Reg) (nr : Bool) (r : AOrd) (ac : Bool)
  | cfTsb (d a : Reg)
  | cfTst (d a : Reg)
  | cfClr (a : Reg)
  | cfRd (d a : Reg)
  | cfWr (a b : Reg)
  | cfArrive (a : Reg)
  | cfWait (a : Reg)
  | cfSync (a : Reg)
  | cfTwait (d a b : Reg)
  | cfCfg (a b : Reg)
  | cpSet (k a x : Reg)
  | cpGo (d k : Reg)
  | cpWait (k b : Reg)
  | cpMask (m k : Reg)
  | cpCbacq (d k : Reg)
  | cpCbrel (k : Reg)
  | cpCbcfg (k b : Reg)
  | cpStat (d k : Reg)
  | xrRed (d a : Reg)
  | xrPub (a : Reg)
  | xrSub (d a b : Reg)
  | xrWaitv (a b : Reg)
  | lnGo (d a : Reg)
  | lnStat (d a : Reg)
  | illegalWord (w : IWord)
  | syEret
  | syFenceAll
  | syFenceLd
  | syFenceSt
  | syFenceVec
  | syFenceEng
  | syFenceMat
  | syEnd
  | syYield
  | vfEnd
  | qdeadlockDetect (uid : Nat)
  | modeWrite (v : Word)
  | stsWrite (v : Word)
  | flagsWrite (v : Word)
  | seedWrite (v : Word)
  | lendWrite (k : Bool) (v : Word)
  | ecauseWrite (v : Word)
  | tshapeWrite (v : Word)
  | fqtailWrite (v : Word)
  | stripFilled (uid buf : Nat)
  | tokenGrant (tok : Nat)
  | twaitTimeout (uid : Nat)
  | barrierPhaseDelivery (uid : Nat)
  | transferStart (uid ch : Nat)
  | chunkComplete (uid ch chunk : Nat)
  | flashBlockCheck (uid ch block : Nat)
  | collectiveMessage (msg : CollMsg)
  | waitvRecheck (uid : Nat)
  | crewPlace (part quad base : Nat)
  | schedulerPreempt (part : Nat)
  | crewRestore (crew quad base : Nat)
  | dependencePoll (handle : Word)
  | completionWordWrite (handle : Word)
  | strandRestart (part : Nat)
  | faultQueueWrite (part : Nat)
  | mirrorDelivery (eff : Nat)
  | spanBoundary (quad : Nat)
  | platformRelease (quad : Nat)
  | strikeReport (quad : Nat)
  | rollbackComplete (quad : Nat)
  | sliceRequest (req : Nat)
  | requestRetry (req : Nat)
  | sliceFillArrival (line : Nat)
  | stationCombine (passing waiting : Nat)
  | replySplit (req : Nat)
  | flitCrcFail (segment : Nat)
  | segmentRetire (segment : Nat)
  | bucketMoveStart (bucket slice : Nat)
  | bucketMoveFinish (bucket : Nat)
  | heatHalving
  | hostRead (pa n : Nat)
  | hostWrite (pa : Nat) (bytes : List Byte)
  | msixUnmask (vec : Nat)
  | datagramData (dg : Datagram)
  | datagramSignal (dg : Datagram)
  | datagramAck (part sep seq : Nat)
  | datagramRefusal (part sep seq : Nat)
  | datagramRetransmit (part sep seq : Nat)
  | frameDrop (port : Nat)
  | pauseFrame (port frame : Nat)
  | droopTrip (island : Nat)
  | droopClear (island : Nat)
  | quadAgingFlag (quad : Nat)
  | noprePreemptTimeout (quad : Nat)
  | quadSpareCopy (quad : Nat)
  | moduleReset
  | attest (tag : Word) (nonce : BitVec 256)
  | partitionSet (tag : Word) (body : PartBody)
  | partitionLend (tag : Word) (part borrower : Nat) (quads : List Nat)
  | partitionRecall (tag : Word) (part borrower : Nat) (quads : List Nat)
  | register (tag : Word) (part ssd : Nat) (raw : Bool) (nsid slba : Nat)
  | unregister (tag : Word) (handle : BitVec 32)
  | status (tag : Word)
  | extend (tag : Word) (slot : Nat) (digest : BitVec 256)
  | start (tag : Word) (part : Nat) (lpb : Word)
  | endpointSet (tag : Word) (part idx : Nat) (ep : Endpoint)
  | endpointClear (tag : Word) (part idx : Nat)
  | grant (tag : Word) (part idx : Nat) (gr : InGrant)
  | revoke (tag : Word) (part idx : Nat)
  | localAddress (tag : Word) (port mac addr6 : Nat)
  | keyGenerate (tag : Word) (keyid : Nat)
  | keyBind (tag : Word) (keyid hslot base len : Nat)
  | keyUnbind (tag : Word) (hslot : Nat)
  | malformedRequest (tag : Word) (kind detail : Nat)
  | replyArrival (req : Nat)
  | subscriptionRegistration (sub : SubReq)
  | publicationDelivery (pubid slot : Nat)
  | subscriberDrop (pubid slot : Nat)
  | sliceRetire (slice spare : Nat)
  | laneReplace (link lane : Nat)
  | hbmRowRepair (base len : Nat)
  | nvmeError (uid ch block : Nat)
deriving DecidableEq, Repr

end Sys2Proof
end

