-- ==== Sys2Proof/WellFormed.lean ====
section
/-! DEFINITION. Which fields an instruction word may hold (R14, R15, R20 to R42). Every check stands here; a word whose
fields fail one raises ILLEGAL (R14). An event is well formed when the units it names exist. -/

namespace Sys2Proof

/-- A tile field: 0 to 7 (R37). -/
def isTile (t : Reg) : Bool := decide (t.toNat < 8)

/-- A mask source: m0 to m7 (R32). -/
def isMask (m : Reg) : Bool := decide (m.toNat < 8)

/-- A mask destination: m1 to m7, because m0 is fixed at all ones (R32). -/
def isMaskDst (m : Reg) : Bool := decide (0 < m.toNat) && decide (m.toNat < 8)

/-- A queue the scalar stream may push: q0 and q2 (R27). -/
def isPushQ (q : Reg) : Bool := decide (q.toNat = 0) || decide (q.toNat = 2)

/-- A queue the scalar stream may pop or count: q1 and q3 (R27). -/
def isPopQ (q : Reg) : Bool := decide (q.toNat = 1) || decide (q.toNat = 3)

/-- A scalar pair field: n even and from 2 to 30 (R37). -/
def isPair (n : Reg) : Bool := decide (n.toNat % 2 = 0) && decide (2 ≤ n.toNat)

/-- A turnaround level: 0 to 3 (R39). -/
def isLevel (l : Reg) : Bool := decide (l.toNat < 4)

/-- A copy channel: 0 to 3 (R42). -/
def isChan (k : Reg) : Bool := decide (k.toNat < 4)

/-- A circular buffer: 0 to 7 (R42). -/
def isBuf (k : Reg) : Bool := decide (k.toNat < 8)

/-- A shadow register of a channel: 0 to 7 (R42). -/
def isShadow (x : Reg) : Bool := decide (x.toNat < 8)

/-- With NR = 1 the result field D of `at` must be 0 (R40). -/
def nrOk (nr : Bool) (d : Reg) : Bool := !nr || decide (d = 0)

/-- The fields of an instruction word are those the spec admits; the units an event names exist. -/
def Instr.wf (i : Instr) : Bool :=
  match i with
  | .iaAdd _ _ _ => true
  | .iaSub _ _ _ => true
  | .iaMul _ _ _ => true
  | .iaMulh _ _ _ => true
  | .iaMulhu _ _ _ => true
  | .iaDiv _ _ _ => true
  | .iaDivu _ _ _ => true
  | .iaRem _ _ _ => true
  | .iaRemu _ _ _ => true
  | .iaAnd _ _ _ => true
  | .iaOr _ _ _ => true
  | .iaXor _ _ _ => true
  | .iaAndn _ _ _ => true
  | .iaShl _ _ _ => true
  | .iaShr _ _ _ => true
  | .iaSra _ _ _ => true
  | .iaRol _ _ _ => true
  | .iaSlt _ _ _ => true
  | .iaSltu _ _ _ => true
  | .iaMin _ _ _ => true
  | .iaMax _ _ _ => true
  | .iaMinu _ _ _ => true
  | .iaMaxu _ _ _ => true
  | .iaClz _ _ => true
  | .iaCtz _ _ => true
  | .iaPopc _ _ => true
  | .iaSext _ _ w => decide (w.toNat < 3)
  | .iaZext _ _ w => decide (w.toNat < 3)
  | .iiAdd _ _ _ => true
  | .iiAnd _ _ _ => true
  | .iiOr _ _ _ => true
  | .iiXor _ _ _ => true
  | .iiSlt _ _ _ => true
  | .iiSltu _ _ _ => true
  | .iiShl _ _ _ => true
  | .iiShr _ _ _ => true
  | .iiSra _ _ _ => true
  | .luHi _ _ => true
  | .laPc _ _ => true
  | .brEq _ _ _ => true
  | .brNe _ _ _ => true
  | .brLt _ _ _ => true
  | .brGe _ _ _ => true
  | .brLtu _ _ _ => true
  | .brGeu _ _ _ => true
  | .jl _ => true
  | .jr _ _ _ => true
  | .lpL0 _ l => decide (l ≠ 0)
  | .lpL1 _ l => decide (l ≠ 0)
  | .ldB _ _ _ => true
  | .ldBu _ _ _ => true
  | .ldH _ _ _ => true
  | .ldHu _ _ _ => true
  | .ldW _ _ _ => true
  | .ldWu _ _ _ => true
  | .ldD _ _ _ => true
  | .ldBP _ _ _ => true
  | .ldBuP _ _ _ => true
  | .ldHP _ _ _ => true
  | .ldHuP _ _ _ => true
  | .ldWP _ _ _ => true
  | .ldWuP _ _ _ => true
  | .ldDP _ _ _ => true
  | .stB _ _ _ => true
  | .stH _ _ _ => true
  | .stW _ _ _ => true
  | .stD _ _ _ => true
  | .fsAdd _ _ _ => true
  | .fsSub _ _ _ => true
  | .fsMul _ _ _ => true
  | .fsDiv _ _ _ => true
  | .fsSqrt _ _ => true
  | .fsFma _ _ _ => true
  | .fsMin _ _ _ => true
  | .fsMax _ _ _ => true
  | .fsEq _ _ _ => true
  | .fsLt _ _ _ => true
  | .fsLe _ _ _ => true
  | .fsCvti _ _ => true
  | .fsCvtf _ _ => true
  | .fsCls _ _ => true
  | .fsCvt _ _ => true
  | .qPush q _ => isPushQ q
  | .qPop _ q => isPopQ q
  | .qCnt _ q => isPopQ q
  | .mdSet _ => true
  | .mrPut _ => true
  | .mrGet _ => true
  | .syRd _ _ => true
  | .syWr _ _ => true
  | .syTrap _ => true
  | .syEret => true
  | .syFenceAll => true
  | .syFenceLd => true
  | .syFenceSt => true
  | .syFenceVec => true
  | .syFenceEng => true
  | .syFenceMat => true
  | .syEnd => true
  | .syYield => true
  | .syTime _ => true
  | .syTlbinv _ => true
  | .syPgreq _ => true
  | .syResume _ => true
  | .syCtxsave _ => true
  | .syCtxrest _ => true
  | .syHalt _ => true
  | .syIntr _ => true
  | .brk _ => true
  | .vaAdd _ _ _ => true
  | .vaSub _ _ _ => true
  | .vaMul _ _ _ => true
  | .vaMulh _ _ _ => true
  | .vaFma _ _ _ => true
  | .vaFms _ _ _ => true
  | .vaFnma _ _ _ => true
  | .vaDiv _ _ _ => true
  | .vaSqrt _ _ => true
  | .vaRsqrt _ _ => true
  | .vaRecip _ _ => true
  | .vaExp2 _ _ => true
  | .vaLog2 _ _ => true
  | .vaMin _ _ _ => true
  | .vaMax _ _ _ => true
  | .vaAbs _ _ => true
  | .vaNeg _ _ => true
  | .vaAnd _ _ _ => true
  | .vaOr _ _ _ => true
  | .vaXor _ _ _ => true
  | .vaShl _ _ _ => true
  | .vaShr _ _ _ => true
  | .vaSra _ _ _ => true
  | .vaCvt _ _ => true
  | .vaMulw _ _ _ => true
  | .vaDotw _ _ _ => true
  | .vaClip _ _ _ => true
  | .vmEq d _ _ => isMaskDst d
  | .vmNe d _ _ => isMaskDst d
  | .vmLt d _ _ => isMaskDst d
  | .vmLe d _ _ => isMaskDst d
  | .vmGt d _ _ => isMaskDst d
  | .vmGe d _ _ => isMaskDst d
  | .vmUnord d _ _ => isMaskDst d
  | .vmAnd d a b => isMaskDst d && isMask a && isMask b
  | .vmOr d a b => isMaskDst d && isMask a && isMask b
  | .vmXor d a b => isMaskDst d && isMask a && isMask b
  | .vmAndn d a b => isMaskDst d && isMask a && isMask b
  | .vmNot d a => isMaskDst d && isMask a
  | .vmPop _ a => isMask a
  | .vmFirst _ a => isMask a
  | .vmFill d _ => isMaskDst d
  | .vpMv _ _ => true
  | .vpBcast _ _ => true
  | .vpIota _ => true
  | .vpSlup _ _ _ => true
  | .vpSldn _ _ _ => true
  | .vpPerm _ _ _ => true
  | .vpCompress _ _ => true
  | .vpSel _ _ _ => true
  | .vpRsum _ _ => true
  | .vpRmax _ _ => true
  | .vpRmin _ _ => true
  | .vpExt _ _ => true
  | .vpIns _ _ => true
  | .vlSet _ _ => true
  | .vlGet _ => true
  | .vfGo _ => true
  | .vfEnd => true
  | .vldU _ _ _ _ _ => true
  | .vldS _ _ _ _ _ _ => true
  | .vldX _ _ _ _ _ _ => true
  | .vstU _ _ _ _ => true
  | .vstS _ _ _ _ _ => true
  | .vstX _ _ _ _ _ => true
  | .vbDecl _ _ => true
  | .vbLd _ _ => true
  | .vbTake _ => true
  | .vbFree _ => true
  | .mxShape _ => true
  | .mxZero d => isTile d
  | .mxOpa d _ _ => isTile d
  | .mxOpaSa d a _ => isTile d && isPair a
  | .mxOpaSb d _ b => isTile d && isPair b
  | .mxOpaSs d a b => isTile d && isPair a && isPair b
  | .mxRd _ a _ => isTile a
  | .mxWr d _ _ => isTile d
  | .mxLd d _ _ => isTile d
  | .mxSt d _ _ => isTile d
  | .mxWait d => isTile d
  | .mxCvt d => isTile d
  | .tnDef _ _ => true
  | .tnInv _ => true
  | .tnRd _ _ _ => true
  | .tnTld _ _ _ => true
  | .tnTst _ _ _ => true
  | .tnPack _ _ => true
  | .tnUnpack _ _ => true
  | .trTurn l _ _ => isLevel l
  | .trInval l _ _ => isLevel l
  | .trAcq _ _ _ => true
  | .trRel _ _ _ => true
  | .trRetain _ _ _ => true
  | .trUnpin _ => true
  | .trLock _ _ => true
  | .trUnlock _ => true
  | .atAdd d _ _ nr _ _ => nrOk nr d
  | .atAnd d _ _ nr _ _ => nrOk nr d
  | .atOr d _ _ nr _ _ => nrOk nr d
  | .atXor d _ _ nr _ _ => nrOk nr d
  | .atMin d _ _ nr _ _ => nrOk nr d
  | .atMax d _ _ nr _ _ => nrOk nr d
  | .atMinu d _ _ nr _ _ => nrOk nr d
  | .atMaxu d _ _ nr _ _ => nrOk nr d
  | .atSwap d _ _ nr _ _ => nrOk nr d
  | .atCas _ _ _ _ => true
  | .atFadd d _ _ nr _ _ => nrOk nr d
  | .atFmin d _ _ nr _ _ => nrOk nr d
  | .atFmax d _ _ nr _ _ => nrOk nr d
  | .vatAdd _ _ _ _ _ _ => true
  | .vatAnd _ _ _ _ _ _ => true
  | .vatOr _ _ _ _ _ _ => true
  | .vatXor _ _ _ _ _ _ => true
  | .vatMin _ _ _ _ _ _ => true
  | .vatMax _ _ _ _ _ _ => true
  | .vatMinu _ _ _ _ _ _ => true
  | .vatMaxu _ _ _ _ _ _ => true
  | .vatSwap _ _ _ _ _ _ => true
  | .vatFadd _ _ _ _ _ _ => true
  | .vatFmin _ _ _ _ _ _ => true
  | .vatFmax _ _ _ _ _ _ => true
  | .cfTsb _ _ => true
  | .cfTst _ _ => true
  | .cfClr _ => true
  | .cfRd _ _ => true
  | .cfWr _ _ => true
  | .cfArrive _ => true
  | .cfWait _ => true
  | .cfSync _ => true
  | .cfTwait _ _ _ => true
  | .cfCfg _ _ => true
  | .cpSet k _ x => isChan k && isShadow x
  | .cpGo _ k => isChan k
  | .cpWait k _ => isChan k
  | .cpMask m k => isMaskDst m && isChan k
  | .cpCbacq _ k => isBuf k
  | .cpCbrel k => isBuf k
  | .cpCbcfg k _ => isBuf k
  | .cpStat _ k => isChan k
  | .xrRed _ _ => true
  | .xrPub _ => true
  | .xrSub _ _ _ => true
  | .xrWaitv _ _ => true
  | .lnGo _ _ => true
  | .lnStat _ _ => true
  | .qdeadlockDetect _ => true
  | .modeWrite _ => true
  | .stsWrite _ => true
  | .flagsWrite _ => true
  | .seedWrite _ => true
  | .lendWrite _ _ => true
  | .ecauseWrite _ => true
  | .tshapeWrite _ => true
  | .fqtailWrite _ => true
  | .illegalWord _ => true
  | .stripFilled _ buf => decide (buf < 8)
  | .tokenGrant tok => decide (tok < 4096)
  | .twaitTimeout _ => true
  | .barrierPhaseDelivery _ => true
  | .transferStart _ ch => decide (ch < 4)
  | .chunkComplete _ ch _ => decide (ch < 4)
  | .flashBlockCheck _ ch _ => decide (ch < 4)
  | .collectiveMessage _ => true
  | .waitvRecheck _ => true
  | .crewPlace part quad _ => decide (part < 16) && decide (quad < 144)
  | .schedulerPreempt part => decide (part < 16)
  | .crewRestore _ quad _ => decide (quad < 144)
  | .dependencePoll _ => true
  | .completionWordWrite _ => true
  | .strandRestart part => decide (part < 16)
  | .faultQueueWrite part => decide (part < 16)
  | .mirrorDelivery _ => true
  | .spanBoundary quad => decide (quad < 144)
  | .platformRelease quad => decide (quad < 144)
  | .strikeReport quad => decide (quad < 144)
  | .rollbackComplete quad => decide (quad < 144)
  | .sliceRequest _ => true
  | .requestRetry _ => true
  | .sliceFillArrival _ => true
  | .stationCombine _ _ => true
  | .replySplit _ => true
  | .flitCrcFail _ => true
  | .segmentRetire _ => true
  | .bucketMoveStart bucket slice => decide (bucket < 4096) && decide (slice < 512)
  | .bucketMoveFinish bucket => decide (bucket < 4096)
  | .heatHalving => true
  | .hostRead _ _ => true
  | .hostWrite _ _ => true
  | .msixUnmask vec => decide (vec < 2048)
  | .datagramData dg => decide (dg.port < 8)
  | .datagramSignal dg => decide (dg.port < 8)
  | .datagramAck part _ _ => decide (part < 16)
  | .datagramRefusal part _ _ => decide (part < 16)
  | .datagramRetransmit part _ _ => decide (part < 16)
  | .frameDrop port => decide (port < 8)
  | .pauseFrame port frame => decide (port < 8) && decide (frame < 2 ^ 24)
  | .droopTrip _ => true
  | .droopClear _ => true
  | .quadAgingFlag quad => decide (quad < 144)
  | .noprePreemptTimeout quad => decide (quad < 144)
  | .quadSpareCopy quad => decide (quad < 144)
  | .moduleReset => true
  | .attest _ _ => true
  | .partitionSet _ _ => true
  | .partitionLend _ _ _ _ => true
  | .partitionRecall _ _ _ _ => true
  | .register _ _ _ _ _ _ => true
  | .unregister _ _ => true
  | .status _ => true
  | .extend _ _ _ => true
  | .start _ _ _ => true
  | .endpointSet _ _ _ _ => true
  | .endpointClear _ _ _ => true
  | .grant _ _ _ _ => true
  | .revoke _ _ _ => true
  | .localAddress _ _ _ _ => true
  | .keyGenerate _ _ => true
  | .keyBind _ _ _ _ _ => true
  | .keyUnbind _ _ => true
  | .malformedRequest _ _ _ => true
  | .replyArrival _ => true
  | .subscriptionRegistration _ => true
  | .publicationDelivery _ _ => true
  | .subscriberDrop _ _ => true
  | .sliceRetire slice _ => decide (slice < 512)
  | .laneReplace _ _ => true
  | .hbmRowRepair _ _ => true
  | .nvmeError _ ch _ => decide (ch < 4)

end Sys2Proof
end

