-- ==== Sys2Proof/Decode.lean ====
section
/-! DEFINITION. Decoding of instruction words (R13 to R42) and, after it, the encoder written from the same tables. A
word that is no instruction is rejected by name (R18); every rejection raises ILLEGAL (R18, R50 step 1). -/

namespace Sys2Proof

/-- Why a word is no instruction (R14, R15, R18). Safe: the machine raises ILLEGAL for each (R18). -/
inductive Reject where
  /-- MAJ is 0x00 or from 0x21 to 0x7E. -/
  | reservedMajor
  /-- The function, condition, address-mode or size value is not assigned. -/
  | unassigned
  /-- A must-be-zero field, or a field the instruction does not use, is nonzero. -/
  | mustBeZero
  /-- A field holds a value outside its legal range. -/
  | outOfRange
  /-- Fewer than four bytes. -/
  | short
deriving DecidableEq, Repr

/-! ### Fields of the word (R13) -/

/-- MAJ, bits 31-25. -/
def fMaj (w : IWord) : BitVec 7 := w.extractLsb' 25 7
/-- D, bits 24-20. -/
def fD (w : IWord) : Reg := w.extractLsb' 20 5
/-- A, bits 19-15. -/
def fA (w : IWord) : Reg := w.extractLsb' 15 5
/-- B, OP5, or PB with the size fields of `ld` and `st`: bits 14-10. -/
def fB (w : IWord) : Reg := w.extractLsb' 10 5
/-- FN, IDX, or OFF10: bits 9-0. -/
def fLow (w : IWord) : BitVec 10 := w.extractLsb' 0 10
/-- FN3 or COND, bits 14-12. -/
def fFn3 (w : IWord) : BitVec 3 := w.extractLsb' 12 3
/-- IMM12 or OFF12, bits 11-0. -/
def fImm12 (w : IWord) : BitVec 12 := w.extractLsb' 0 12
/-- Bits 11-6 of a shift form of `ii` (R21). -/
def fHi6 (w : IWord) : BitVec 6 := w.extractLsb' 6 6
/-- The shift amount of `ii`, bits 5-0 (R21). -/
def fLo6 (w : IWord) : BitVec 6 := w.extractLsb' 0 6
/-- IMM20, bits 19-0. -/
def fImm20 (w : IWord) : BitVec 20 := w.extractLsb' 0 20
/-- IMM15, bits 14-0. -/
def fImm15 (w : IWord) : BitVec 15 := w.extractLsb' 0 15
/-- IMM25 or OFF25, bits 24-0. -/
def fImm25 (w : IWord) : BitVec 25 := w.extractLsb' 0 25
/-- Bit 24: E of `vf` (R35), the reserved bit of `md.set` (R28). -/
def fTop (w : IWord) : BitVec 1 := w.extractLsb' 24 1
/-- Bits 23-0. -/
def fImm24 (w : IWord) : BitVec 24 := w.extractLsb' 0 24
/-- S of format V, bit 9. -/
def fS (w : IWord) : BitVec 1 := w.extractLsb' 9 1
/-- OP of format V, bits 8-0. -/
def fOp9 (w : IWord) : BitVec 9 := w.extractLsb' 0 9
/-- op of `at` and `vat`, bits 5-0 (R40). -/
def fOp6 (w : IWord) : BitVec 6 := w.extractLsb' 0 6
/-- NR of `at` and `vat`, bit 9 (R40). -/
def fNR (w : IWord) : Bool := w.extractLsb' 9 1 == 1#1
/-- AC of `at` and `vat`, bit 6 (R40). -/
def fAC (w : IWord) : Bool := w.extractLsb' 6 1 == 1#1
/-- ORD of `at` and `vat`, bits 8-7 (R40). -/
def fOrd (w : IWord) : AOrd :=
  match (w.extractLsb' 7 2).toNat with
  | 0 => .rlx
  | 1 => .acq
  | 2 => .rel
  | _ => .ar
/-- EO of format W, bit 9. -/
def fEO (w : IWord) : Bool := w.extractLsb' 9 1 == 1#1
/-- OV of format W, bit 8. -/
def fOV (w : IWord) : Bool := w.extractLsb' 8 1 == 1#1
/-- PB of format W, bit 7. -/
def fPB (w : IWord) : Bool := w.extractLsb' 7 1 == 1#1
/-- AM of format W, bits 6-5. -/
def fAM (w : IWord) : BitVec 2 := w.extractLsb' 5 2
/-- The must-be-zero bits 4-0 of format W. -/
def fLow5 (w : IWord) : BitVec 5 := w.extractLsb' 0 5
/-- The second source of a format V word: S = 1 makes B a scalar register (R31). -/
def vsrc (w : IWord) : VSrc := if fS w = 1#1 then .s (fB w) else .v (fB w)

/-- The instruction, when the fields it does not use hold what they must (R15). -/
def needZero (ok : Bool) (i : Instr) : Except Reject Instr := if ok then .ok i else .error .mustBeZero

/-! ### One function per major -/

/-- Words of major `ia` (R20). -/
def decIa (w : IWord) : Except Reject Instr :=
  match (fLow w).toNat with
  | 0 => .ok (.iaAdd (fD w) (fA w) (fB w))
  | 1 => .ok (.iaSub (fD w) (fA w) (fB w))
  | 2 => .ok (.iaMul (fD w) (fA w) (fB w))
  | 3 => .ok (.iaMulh (fD w) (fA w) (fB w))
  | 4 => .ok (.iaMulhu (fD w) (fA w) (fB w))
  | 5 => .ok (.iaDiv (fD w) (fA w) (fB w))
  | 6 => .ok (.iaDivu (fD w) (fA w) (fB w))
  | 7 => .ok (.iaRem (fD w) (fA w) (fB w))
  | 8 => .ok (.iaRemu (fD w) (fA w) (fB w))
  | 9 => .ok (.iaAnd (fD w) (fA w) (fB w))
  | 10 => .ok (.iaOr (fD w) (fA w) (fB w))
  | 11 => .ok (.iaXor (fD w) (fA w) (fB w))
  | 12 => .ok (.iaAndn (fD w) (fA w) (fB w))
  | 13 => .ok (.iaShl (fD w) (fA w) (fB w))
  | 14 => .ok (.iaShr (fD w) (fA w) (fB w))
  | 15 => .ok (.iaSra (fD w) (fA w) (fB w))
  | 16 => .ok (.iaRol (fD w) (fA w) (fB w))
  | 17 => .ok (.iaSlt (fD w) (fA w) (fB w))
  | 18 => .ok (.iaSltu (fD w) (fA w) (fB w))
  | 19 => .ok (.iaMin (fD w) (fA w) (fB w))
  | 20 => .ok (.iaMax (fD w) (fA w) (fB w))
  | 21 => .ok (.iaMinu (fD w) (fA w) (fB w))
  | 22 => .ok (.iaMaxu (fD w) (fA w) (fB w))
  | 23 => needZero (decide (fB w = 0)) (.iaClz (fD w) (fA w))
  | 24 => needZero (decide (fB w = 0)) (.iaCtz (fD w) (fA w))
  | 25 => needZero (decide (fB w = 0)) (.iaPopc (fD w) (fA w))
  | 26 => .ok (.iaSext (fD w) (fA w) (fB w))
  | 27 => .ok (.iaZext (fD w) (fA w) (fB w))
  | _ => .error .unassigned

/-- Words of major `ii` (R21). -/
def decIi (w : IWord) : Except Reject Instr :=
  match (fFn3 w).toNat with
  | 0 => .ok (.iiAdd (fD w) (fA w) (fImm12 w))
  | 1 => .ok (.iiAnd (fD w) (fA w) (fImm12 w))
  | 2 => .ok (.iiOr (fD w) (fA w) (fImm12 w))
  | 3 => .ok (.iiXor (fD w) (fA w) (fImm12 w))
  | 4 => .ok (.iiSlt (fD w) (fA w) (fImm12 w))
  | 5 => .ok (.iiSltu (fD w) (fA w) (fImm12 w))
  | 6 => needZero (decide (fHi6 w = 0)) (.iiShl (fD w) (fA w) (fLo6 w))
  | _ => match (fHi6 w).toNat with
    | 0 => .ok (.iiShr (fD w) (fA w) (fLo6 w))
    | 32 => .ok (.iiSra (fD w) (fA w) (fLo6 w))
    | _ => .error .mustBeZero

/-- Words of major `lu` (R22). -/
def decLu (w : IWord) : Except Reject Instr :=
  .ok (.luHi (fD w) (fImm20 w))

/-- Words of major `la` (R22). -/
def decLa (w : IWord) : Except Reject Instr :=
  .ok (.laPc (fD w) (fImm20 w))

/-- Words of major `br` (R23). -/
def decBr (w : IWord) : Except Reject Instr :=
  match (fFn3 w).toNat with
  | 0 => .ok (.brEq (fD w) (fA w) (fImm12 w))
  | 1 => .ok (.brNe (fD w) (fA w) (fImm12 w))
  | 2 => .ok (.brLt (fD w) (fA w) (fImm12 w))
  | 3 => .ok (.brGe (fD w) (fA w) (fImm12 w))
  | 4 => .ok (.brLtu (fD w) (fA w) (fImm12 w))
  | 5 => .ok (.brGeu (fD w) (fA w) (fImm12 w))
  | _ => .error .unassigned

/-- Words of major `jl` (R23). -/
def decJl (w : IWord) : Except Reject Instr :=
  .ok (.jl (fImm25 w))

/-- Words of major `jr` (R23). -/
def decJr (w : IWord) : Except Reject Instr :=
  .ok (.jr (fD w) (fA w) (fImm15 w))

/-- Words of major `lp` (R24). -/
def decLp (w : IWord) : Except Reject Instr :=
  match (fFn3 w).toNat with
  | 0 => needZero (decide (fD w = 0)) (.lpL0 (fA w) (fImm12 w))
  | 1 => needZero (decide (fD w = 0)) (.lpL1 (fA w) (fImm12 w))
  | _ => .error .unassigned

/-- Words of major `ld` (R25). -/
def decLd (w : IWord) : Except Reject Instr :=
  match (fB w).toNat with
  | 0 => .ok (.ldBu (fD w) (fA w) (fLow w))
  | 1 => .ok (.ldB (fD w) (fA w) (fLow w))
  | 2 => .ok (.ldHu (fD w) (fA w) (fLow w))
  | 3 => .ok (.ldH (fD w) (fA w) (fLow w))
  | 4 => .ok (.ldWu (fD w) (fA w) (fLow w))
  | 5 => .ok (.ldW (fD w) (fA w) (fLow w))
  | 6 => .ok (.ldD (fD w) (fA w) (fLow w))
  | 16 => .ok (.ldBuP (fD w) (fA w) (fLow w))
  | 17 => .ok (.ldBP (fD w) (fA w) (fLow w))
  | 18 => .ok (.ldHuP (fD w) (fA w) (fLow w))
  | 19 => .ok (.ldHP (fD w) (fA w) (fLow w))
  | 20 => .ok (.ldWuP (fD w) (fA w) (fLow w))
  | 21 => .ok (.ldWP (fD w) (fA w) (fLow w))
  | 22 => .ok (.ldDP (fD w) (fA w) (fLow w))
  | _ => .error .unassigned

/-- Words of major `st` (R25). -/
def decSt (w : IWord) : Except Reject Instr :=
  match (fB w).toNat with
  | 0 => .ok (.stB (fD w) (fA w) (fLow w))
  | 2 => .ok (.stH (fD w) (fA w) (fLow w))
  | 4 => .ok (.stW (fD w) (fA w) (fLow w))
  | 6 => .ok (.stD (fD w) (fA w) (fLow w))
  | _ => .error .unassigned

/-- Words of major `fs` (R26). -/
def decFs (w : IWord) : Except Reject Instr :=
  match (fLow w).toNat with
  | 0 => .ok (.fsAdd (fD w) (fA w) (fB w))
  | 1 => .ok (.fsSub (fD w) (fA w) (fB w))
  | 2 => .ok (.fsMul (fD w) (fA w) (fB w))
  | 3 => .ok (.fsDiv (fD w) (fA w) (fB w))
  | 4 => needZero (decide (fB w = 0)) (.fsSqrt (fD w) (fA w))
  | 5 => .ok (.fsFma (fD w) (fA w) (fB w))
  | 6 => .ok (.fsMin (fD w) (fA w) (fB w))
  | 7 => .ok (.fsMax (fD w) (fA w) (fB w))
  | 8 => .ok (.fsEq (fD w) (fA w) (fB w))
  | 9 => .ok (.fsLt (fD w) (fA w) (fB w))
  | 10 => .ok (.fsLe (fD w) (fA w) (fB w))
  | 11 => needZero (decide (fB w = 0)) (.fsCvti (fD w) (fA w))
  | 12 => needZero (decide (fB w = 0)) (.fsCvtf (fD w) (fA w))
  | 13 => needZero (decide (fB w = 0)) (.fsCls (fD w) (fA w))
  | 14 => needZero (decide (fB w = 0)) (.fsCvt (fD w) (fA w))
  | _ => .error .unassigned

/-- Words of major `q` (R27). -/
def decQ (w : IWord) : Except Reject Instr :=
  match (fLow w).toNat with
  | 0 => needZero (decide (fB w = 0)) (.qPush (fD w) (fA w))
  | 1 => needZero (decide (fB w = 0)) (.qPop (fD w) (fA w))
  | 2 => needZero (decide (fB w = 0)) (.qCnt (fD w) (fA w))
  | _ => .error .unassigned

/-- Words of major `md` (R28). -/
def decMd (w : IWord) : Except Reject Instr :=
  needZero (decide (fTop w = 0)) (.mdSet (fImm24 w))

/-- Words of major `mr` (R28). -/
def decMr (w : IWord) : Except Reject Instr :=
  match (fLow w).toNat with
  | 0 => needZero (decide (fD w = 0) && decide (fB w = 0)) (.mrPut (fA w))
  | 1 => needZero (decide (fA w = 0) && decide (fB w = 0)) (.mrGet (fD w))
  | _ => .error .unassigned

/-- Words of major `sy` (R29). -/
def decSy (w : IWord) : Except Reject Instr :=
  match (fB w).toNat with
  | 0 => needZero (decide (fA w = 0)) (.syRd (fD w) (fLow w))
  | 1 => needZero (decide (fD w = 0)) (.syWr (fA w) (fLow w))
  | 2 => needZero (decide (fD w = 0) && decide (fA w = 0)) (.syTrap (fLow w))
  | 3 => needZero (decide (fD w = 0) && decide (fA w = 0) && decide (fLow w = 0)) (.syEret)
  | 4 => match (fLow w).toNat with
    | 0 => needZero (decide (fD w = 0) && decide (fA w = 0)) (.syFenceAll)
    | 1 => needZero (decide (fD w = 0) && decide (fA w = 0)) (.syFenceLd)
    | 2 => needZero (decide (fD w = 0) && decide (fA w = 0)) (.syFenceSt)
    | 3 => needZero (decide (fD w = 0) && decide (fA w = 0)) (.syFenceVec)
    | 4 => needZero (decide (fD w = 0) && decide (fA w = 0)) (.syFenceEng)
    | 5 => needZero (decide (fD w = 0) && decide (fA w = 0)) (.syFenceMat)
    | _ => .error .unassigned
  | 5 => needZero (decide (fD w = 0) && decide (fA w = 0) && decide (fLow w = 0)) (.syEnd)
  | 6 => needZero (decide (fD w = 0) && decide (fA w = 0) && decide (fLow w = 0)) (.syYield)
  | 7 => needZero (decide (fA w = 0) && decide (fLow w = 0)) (.syTime (fD w))
  | 8 => needZero (decide (fD w = 0) && decide (fLow w = 0)) (.syTlbinv (fA w))
  | 9 => needZero (decide (fD w = 0) && decide (fLow w = 0)) (.syPgreq (fA w))
  | 10 => needZero (decide (fD w = 0) && decide (fLow w = 0)) (.syResume (fA w))
  | 11 => needZero (decide (fD w = 0) && decide (fLow w = 0)) (.syCtxsave (fA w))
  | 12 => needZero (decide (fD w = 0) && decide (fLow w = 0)) (.syCtxrest (fA w))
  | 13 => needZero (decide (fD w = 0) && decide (fLow w = 0)) (.syHalt (fA w))
  | 14 => needZero (decide (fD w = 0) && decide (fLow w = 0)) (.syIntr (fA w))
  | _ => .error .unassigned

/-- Words of major `va` (R31). -/
def decVa (w : IWord) : Except Reject Instr :=
  match (fOp9 w).toNat with
  | 0 => .ok (.vaAdd (fD w) (fA w) (vsrc w))
  | 1 => .ok (.vaSub (fD w) (fA w) (vsrc w))
  | 2 => .ok (.vaMul (fD w) (fA w) (vsrc w))
  | 3 => .ok (.vaMulh (fD w) (fA w) (vsrc w))
  | 4 => .ok (.vaFma (fD w) (fA w) (vsrc w))
  | 5 => .ok (.vaFms (fD w) (fA w) (vsrc w))
  | 6 => .ok (.vaFnma (fD w) (fA w) (vsrc w))
  | 7 => .ok (.vaDiv (fD w) (fA w) (vsrc w))
  | 8 => needZero (decide (fB w = 0) && decide (fS w = 0#1)) (.vaSqrt (fD w) (fA w))
  | 9 => needZero (decide (fB w = 0) && decide (fS w = 0#1)) (.vaRsqrt (fD w) (fA w))
  | 10 => needZero (decide (fB w = 0) && decide (fS w = 0#1)) (.vaRecip (fD w) (fA w))
  | 11 => needZero (decide (fB w = 0) && decide (fS w = 0#1)) (.vaExp2 (fD w) (fA w))
  | 12 => needZero (decide (fB w = 0) && decide (fS w = 0#1)) (.vaLog2 (fD w) (fA w))
  | 13 => .ok (.vaMin (fD w) (fA w) (vsrc w))
  | 14 => .ok (.vaMax (fD w) (fA w) (vsrc w))
  | 15 => needZero (decide (fB w = 0) && decide (fS w = 0#1)) (.vaAbs (fD w) (fA w))
  | 16 => needZero (decide (fB w = 0) && decide (fS w = 0#1)) (.vaNeg (fD w) (fA w))
  | 17 => .ok (.vaAnd (fD w) (fA w) (vsrc w))
  | 18 => .ok (.vaOr (fD w) (fA w) (vsrc w))
  | 19 => .ok (.vaXor (fD w) (fA w) (vsrc w))
  | 20 => .ok (.vaShl (fD w) (fA w) (vsrc w))
  | 21 => .ok (.vaShr (fD w) (fA w) (vsrc w))
  | 22 => .ok (.vaSra (fD w) (fA w) (vsrc w))
  | 23 => needZero (decide (fB w = 0) && decide (fS w = 0#1)) (.vaCvt (fD w) (fA w))
  | 24 => .ok (.vaMulw (fD w) (fA w) (vsrc w))
  | 25 => .ok (.vaDotw (fD w) (fA w) (vsrc w))
  | 26 => .ok (.vaClip (fD w) (fA w) (vsrc w))
  | _ => .error .unassigned

/-- Words of major `vm` (R32). -/
def decVm (w : IWord) : Except Reject Instr :=
  match (fOp9 w).toNat with
  | 0 => .ok (.vmEq (fD w) (fA w) (vsrc w))
  | 1 => .ok (.vmNe (fD w) (fA w) (vsrc w))
  | 2 => .ok (.vmLt (fD w) (fA w) (vsrc w))
  | 3 => .ok (.vmLe (fD w) (fA w) (vsrc w))
  | 4 => .ok (.vmGt (fD w) (fA w) (vsrc w))
  | 5 => .ok (.vmGe (fD w) (fA w) (vsrc w))
  | 6 => .ok (.vmUnord (fD w) (fA w) (vsrc w))
  | 16 => needZero (decide (fS w = 0#1)) (.vmAnd (fD w) (fA w) (fB w))
  | 17 => needZero (decide (fS w = 0#1)) (.vmOr (fD w) (fA w) (fB w))
  | 18 => needZero (decide (fS w = 0#1)) (.vmXor (fD w) (fA w) (fB w))
  | 19 => needZero (decide (fS w = 0#1)) (.vmAndn (fD w) (fA w) (fB w))
  | 20 => needZero (decide (fB w = 0) && decide (fS w = 0#1)) (.vmNot (fD w) (fA w))
  | 21 => needZero (decide (fB w = 0) && decide (fS w = 0#1)) (.vmPop (fD w) (fA w))
  | 22 => needZero (decide (fB w = 0) && decide (fS w = 0#1)) (.vmFirst (fD w) (fA w))
  | 23 => needZero (decide (fB w = 0) && decide (fS w = 1#1)) (.vmFill (fD w) (fA w))
  | _ => .error .unassigned

/-- Words of major `vp` (R33). -/
def decVp (w : IWord) : Except Reject Instr :=
  match (fOp9 w).toNat with
  | 0 => needZero (decide (fB w = 0) && decide (fS w = 0#1)) (.vpMv (fD w) (fA w))
  | 1 => needZero (decide (fA w = 0) && decide (fS w = 1#1)) (.vpBcast (fD w) (fB w))
  | 2 => needZero (decide (fA w = 0) && decide (fB w = 0) && decide (fS w = 0#1)) (.vpIota (fD w))
  | 3 => needZero (decide (fS w = 1#1)) (.vpSlup (fD w) (fA w) (fB w))
  | 4 => needZero (decide (fS w = 1#1)) (.vpSldn (fD w) (fA w) (fB w))
  | 5 => needZero (decide (fS w = 0#1)) (.vpPerm (fD w) (fA w) (fB w))
  | 6 => needZero (decide (fB w = 0) && decide (fS w = 0#1)) (.vpCompress (fD w) (fA w))
  | 7 => .ok (.vpSel (fD w) (fA w) (vsrc w))
  | 8 => needZero (decide (fB w = 0) && decide (fS w = 0#1)) (.vpRsum (fD w) (fA w))
  | 9 => needZero (decide (fB w = 0) && decide (fS w = 0#1)) (.vpRmax (fD w) (fA w))
  | 10 => needZero (decide (fB w = 0) && decide (fS w = 0#1)) (.vpRmin (fD w) (fA w))
  | 11 => needZero (decide (fD w = 0) && decide (fS w = 1#1)) (.vpExt (fA w) (fB w))
  | 12 => needZero (decide (fA w = 0) && decide (fS w = 1#1)) (.vpIns (fD w) (fB w))
  | _ => .error .unassigned

/-- Words of major `vl` (R34). -/
def decVl (w : IWord) : Except Reject Instr :=
  match (fLow w).toNat with
  | 0 => needZero (decide (fB w = 0)) (.vlSet (fD w) (fA w))
  | 1 => needZero (decide (fA w = 0) && decide (fB w = 0)) (.vlGet (fD w))
  | _ => .error .unassigned

/-- Words of major `vf` (R35). -/
def decVf (w : IWord) : Except Reject Instr :=
  match (fTop w).toNat with
  | 0 => .ok (.vfGo (fImm24 w))
  | _ => needZero (decide (fImm24 w = 0)) .vfEnd

/-- Words of major `vld` (R36). -/
def decVld (w : IWord) : Except Reject Instr :=
  match (fAM w).toNat with
  | 0 => needZero (decide (fB w = 0) && decide (fLow5 w = 0)) (.vldU (fD w) (fA w) (fEO w) (fOV w) (fPB w))
  | 1 => needZero (decide (fLow5 w = 0)) (.vldS (fD w) (fA w) (fB w) (fEO w) (fOV w) (fPB w))
  | 2 => needZero (decide (fLow5 w = 0)) (.vldX (fD w) (fA w) (fB w) (fEO w) (fOV w) (fPB w))
  | _ => .error .unassigned

/-- Words of major `vst` (R36). -/
def decVst (w : IWord) : Except Reject Instr :=
  match (fAM w).toNat with
  | 0 => needZero (decide (fB w = 0) && decide (fLow5 w = 0) && !fPB w) (.vstU (fD w) (fA w) (fEO w) (fOV w))
  | 1 => needZero (decide (fLow5 w = 0) && !fPB w) (.vstS (fD w) (fA w) (fB w) (fEO w) (fOV w))
  | 2 => needZero (decide (fLow5 w = 0) && !fPB w) (.vstX (fD w) (fA w) (fB w) (fEO w) (fOV w))
  | _ => .error .unassigned

/-- Words of major `vb` (R34). -/
def decVb (w : IWord) : Except Reject Instr :=
  match (fLow w).toNat with
  | 0 => needZero (decide (fB w = 0)) (.vbDecl (fD w) (fA w))
  | 1 => needZero (decide (fD w = 0)) (.vbLd (fA w) (fB w))
  | 2 => needZero (decide (fA w = 0) && decide (fB w = 0)) (.vbTake (fD w))
  | 3 => needZero (decide (fA w = 0) && decide (fB w = 0)) (.vbFree (fD w))
  | _ => .error .unassigned

/-- Words of major `mx` (R37). -/
def decMx (w : IWord) : Except Reject Instr :=
  match (fLow w).toNat with
  | 0 => needZero (decide (fD w = 0) && decide (fB w = 0)) (.mxShape (fA w))
  | 1 => needZero (decide (fA w = 0) && decide (fB w = 0)) (.mxZero (fD w))
  | 2 => .ok (.mxOpa (fD w) (fA w) (fB w))
  | 3 => .ok (.mxOpaSa (fD w) (fA w) (fB w))
  | 4 => .ok (.mxOpaSb (fD w) (fA w) (fB w))
  | 5 => .ok (.mxOpaSs (fD w) (fA w) (fB w))
  | 6 => .ok (.mxRd (fD w) (fA w) (fB w))
  | 7 => .ok (.mxWr (fD w) (fA w) (fB w))
  | 8 => .ok (.mxLd (fD w) (fA w) (fB w))
  | 9 => .ok (.mxSt (fD w) (fA w) (fB w))
  | 10 => needZero (decide (fA w = 0) && decide (fB w = 0)) (.mxWait (fD w))
  | 11 => needZero (decide (fA w = 0) && decide (fB w = 0)) (.mxCvt (fD w))
  | _ => .error .unassigned

/-- Words of major `tn` (R38). -/
def decTn (w : IWord) : Except Reject Instr :=
  match (fLow w).toNat with
  | 0 => needZero (decide (fD w = 0)) (.tnDef (fA w) (fB w))
  | 1 => needZero (decide (fD w = 0) && decide (fB w = 0)) (.tnInv (fA w))
  | 2 => .ok (.tnRd (fD w) (fA w) (fB w))
  | 3 => .ok (.tnTld (fD w) (fA w) (fB w))
  | 4 => .ok (.tnTst (fD w) (fA w) (fB w))
  | 5 => needZero (decide (fD w = 0)) (.tnPack (fA w) (fB w))
  | 6 => needZero (decide (fD w = 0)) (.tnUnpack (fA w) (fB w))
  | _ => .error .unassigned

/-- Words of major `tr` (R39). -/
def decTr (w : IWord) : Except Reject Instr :=
  match (fLow w).toNat with
  | 0 => .ok (.trTurn (fD w) (fA w) (fB w))
  | 1 => .ok (.trInval (fD w) (fA w) (fB w))
  | 2 => .ok (.trAcq (fD w) (fA w) (fB w))
  | 3 => .ok (.trRel (fD w) (fA w) (fB w))
  | 4 => .ok (.trRetain (fD w) (fA w) (fB w))
  | 5 => needZero (decide (fD w = 0) && decide (fB w = 0)) (.trUnpin (fA w))
  | 6 => needZero (decide (fB w = 0)) (.trLock (fD w) (fA w))
  | 7 => needZero (decide (fD w = 0) && decide (fB w = 0)) (.trUnlock (fA w))
  | _ => .error .unassigned

/-- Words of major `at` (R40). -/
def decAt (w : IWord) : Except Reject Instr :=
  match (fOp6 w).toNat with
  | 0 => .ok (.atAdd (fD w) (fA w) (fB w) (fNR w) (fOrd w) (fAC w))
  | 1 => .ok (.atAnd (fD w) (fA w) (fB w) (fNR w) (fOrd w) (fAC w))
  | 2 => .ok (.atOr (fD w) (fA w) (fB w) (fNR w) (fOrd w) (fAC w))
  | 3 => .ok (.atXor (fD w) (fA w) (fB w) (fNR w) (fOrd w) (fAC w))
  | 4 => .ok (.atMin (fD w) (fA w) (fB w) (fNR w) (fOrd w) (fAC w))
  | 5 => .ok (.atMax (fD w) (fA w) (fB w) (fNR w) (fOrd w) (fAC w))
  | 6 => .ok (.atMinu (fD w) (fA w) (fB w) (fNR w) (fOrd w) (fAC w))
  | 7 => .ok (.atMaxu (fD w) (fA w) (fB w) (fNR w) (fOrd w) (fAC w))
  | 8 => .ok (.atSwap (fD w) (fA w) (fB w) (fNR w) (fOrd w) (fAC w))
  | 9 => needZero (!fNR w && !fAC w) (.atCas (fD w) (fA w) (fB w) (fOrd w))
  | 10 => .ok (.atFadd (fD w) (fA w) (fB w) (fNR w) (fOrd w) (fAC w))
  | 11 => .ok (.atFmin (fD w) (fA w) (fB w) (fNR w) (fOrd w) (fAC w))
  | 12 => .ok (.atFmax (fD w) (fA w) (fB w) (fNR w) (fOrd w) (fAC w))
  | _ => .error .unassigned

/-- Words of major `vat` (R41). -/
def decVat (w : IWord) : Except Reject Instr :=
  match (fOp6 w).toNat with
  | 0 => .ok (.vatAdd (fD w) (fA w) (fB w) (fNR w) (fOrd w) (fAC w))
  | 1 => .ok (.vatAnd (fD w) (fA w) (fB w) (fNR w) (fOrd w) (fAC w))
  | 2 => .ok (.vatOr (fD w) (fA w) (fB w) (fNR w) (fOrd w) (fAC w))
  | 3 => .ok (.vatXor (fD w) (fA w) (fB w) (fNR w) (fOrd w) (fAC w))
  | 4 => .ok (.vatMin (fD w) (fA w) (fB w) (fNR w) (fOrd w) (fAC w))
  | 5 => .ok (.vatMax (fD w) (fA w) (fB w) (fNR w) (fOrd w) (fAC w))
  | 6 => .ok (.vatMinu (fD w) (fA w) (fB w) (fNR w) (fOrd w) (fAC w))
  | 7 => .ok (.vatMaxu (fD w) (fA w) (fB w) (fNR w) (fOrd w) (fAC w))
  | 8 => .ok (.vatSwap (fD w) (fA w) (fB w) (fNR w) (fOrd w) (fAC w))
  | 10 => .ok (.vatFadd (fD w) (fA w) (fB w) (fNR w) (fOrd w) (fAC w))
  | 11 => .ok (.vatFmin (fD w) (fA w) (fB w) (fNR w) (fOrd w) (fAC w))
  | 12 => .ok (.vatFmax (fD w) (fA w) (fB w) (fNR w) (fOrd w) (fAC w))
  | _ => .error .unassigned

/-- Words of major `cf` (R42). -/
def decCf (w : IWord) : Except Reject Instr :=
  match (fLow w).toNat with
  | 0 => needZero (decide (fB w = 0)) (.cfTsb (fD w) (fA w))
  | 1 => needZero (decide (fB w = 0)) (.cfTst (fD w) (fA w))
  | 2 => needZero (decide (fD w = 0) && decide (fB w = 0)) (.cfClr (fA w))
  | 3 => needZero (decide (fB w = 0)) (.cfRd (fD w) (fA w))
  | 4 => needZero (decide (fD w = 0)) (.cfWr (fA w) (fB w))
  | 5 => needZero (decide (fD w = 0) && decide (fB w = 0)) (.cfArrive (fA w))
  | 6 => needZero (decide (fD w = 0) && decide (fB w = 0)) (.cfWait (fA w))
  | 7 => needZero (decide (fD w = 0) && decide (fB w = 0)) (.cfSync (fA w))
  | 8 => .ok (.cfTwait (fD w) (fA w) (fB w))
  | 9 => needZero (decide (fD w = 0)) (.cfCfg (fA w) (fB w))
  | _ => .error .unassigned

/-- Words of major `cp` (R42). -/
def decCp (w : IWord) : Except Reject Instr :=
  match (fLow w).toNat with
  | 0 => .ok (.cpSet (fD w) (fA w) (fB w))
  | 1 => needZero (decide (fB w = 0)) (.cpGo (fD w) (fA w))
  | 2 => needZero (decide (fD w = 0)) (.cpWait (fA w) (fB w))
  | 3 => needZero (decide (fB w = 0)) (.cpMask (fD w) (fA w))
  | 4 => needZero (decide (fB w = 0)) (.cpCbacq (fD w) (fA w))
  | 5 => needZero (decide (fD w = 0) && decide (fB w = 0)) (.cpCbrel (fA w))
  | 6 => needZero (decide (fD w = 0)) (.cpCbcfg (fA w) (fB w))
  | 7 => needZero (decide (fB w = 0)) (.cpStat (fD w) (fA w))
  | _ => .error .unassigned

/-- Words of major `xr` (R42). -/
def decXr (w : IWord) : Except Reject Instr :=
  match (fLow w).toNat with
  | 0 => needZero (decide (fB w = 0)) (.xrRed (fD w) (fA w))
  | 1 => needZero (decide (fD w = 0) && decide (fB w = 0)) (.xrPub (fA w))
  | 2 => .ok (.xrSub (fD w) (fA w) (fB w))
  | 3 => needZero (decide (fD w = 0)) (.xrWaitv (fA w) (fB w))
  | _ => .error .unassigned

/-- Words of major `ln` (R42). -/
def decLn (w : IWord) : Except Reject Instr :=
  match (fLow w).toNat with
  | 0 => needZero (decide (fB w = 0)) (.lnGo (fD w) (fA w))
  | 1 => needZero (decide (fB w = 0)) (.lnStat (fD w) (fA w))
  | _ => .error .unassigned

/-- Words of major `brk` (R30). -/
def decBrk (w : IWord) : Except Reject Instr :=
  .ok (.brk (fImm25 w))

/-- The word as an instruction, before the range checks of its fields (R17, R18). -/
def decodeRaw (w : IWord) : Except Reject Instr :=
  match (fMaj w).toNat with
  | 1 => decIa w
  | 2 => decIi w
  | 3 => decLu w
  | 4 => decLa w
  | 5 => decBr w
  | 6 => decJl w
  | 7 => decJr w
  | 8 => decLp w
  | 9 => decLd w
  | 10 => decSt w
  | 11 => decFs w
  | 12 => decQ w
  | 13 => decMd w
  | 14 => decMr w
  | 15 => decSy w
  | 16 => decVa w
  | 17 => decVm w
  | 18 => decVp w
  | 19 => decVl w
  | 20 => decVf w
  | 21 => decVld w
  | 22 => decVst w
  | 23 => decVb w
  | 24 => decMx w
  | 25 => decTn w
  | 26 => decTr w
  | 27 => decAt w
  | 28 => decVat w
  | 29 => decCf w
  | 30 => decCp w
  | 31 => decXr w
  | 32 => decLn w
  | 127 => decBrk w
  | _ => .error .reservedMajor

/-- The instruction a word holds, or why it is none (R14 to R18). Total on every word. -/
def decode (w : IWord) : Except Reject Instr :=
  match decodeRaw w with
  | .ok i => if i.wf then .ok i else .error .outOfRange
  | .error e => .error e

/-- The word in four bytes, the lowest address first (R7, R13). -/
def wordOfBytes (b0 b1 b2 b3 : Byte) : IWord := b3 ++ b2 ++ b1 ++ b0

/-- The four bytes of a word, the lowest address first (R7). -/
def bytesOfWord (w : IWord) : List Byte :=
  [w.extractLsb' 0 8, w.extractLsb' 8 8, w.extractLsb' 16 8, w.extractLsb' 24 8]

/-- Decodes the first word of a list of bytes and gives the bytes after it. -/
def decodeBytes (bs : List Byte) : Except Reject (Instr × List Byte) :=
  match bs with
  | b0 :: b1 :: b2 :: b3 :: rest =>
    match decode (wordOfBytes b0 b1 b2 b3) with
    | .ok i => .ok (i, rest)
    | .error e => .error e
  | _ => .error .short

/-- What the decoder reads from an instruction of the opcode table: one 32-bit word whose bits above `nbits` are 0. -/
def decodeTableWord (nbits w : Nat) : Option Instr :=
  match decodeBytes (bytesOfWord (BitVec.ofNat 32 (w % 2 ^ nbits))) with
  | .ok (i, _) => some i
  | .error _ => none

/-! ### The encoder -/

/-- Formats A, M, V, W and X: five bits each of D, A and B over ten low bits (R13). -/
def packA (m : BitVec 7) (d a b : BitVec 5) (f : BitVec 10) : IWord := m ++ d ++ a ++ b ++ f
/-- Formats K and B (R13). -/
def packK (m : BitVec 7) (d a : BitVec 5) (f : BitVec 3) (i : BitVec 12) : IWord := m ++ d ++ a ++ f ++ i
/-- Format U (R13). -/
def packU (m : BitVec 7) (d : BitVec 5) (i : BitVec 20) : IWord := m ++ d ++ i
/-- Format I (R13). -/
def packI (m : BitVec 7) (d a : BitVec 5) (i : BitVec 15) : IWord := m ++ d ++ a ++ i
/-- Formats J and Z (R13). -/
def packZ (m : BitVec 7) (i : BitVec 25) : IWord := m ++ i
/-- The ten low bits of `at` and `vat` (R40). -/
def packAt (nr : BitVec 1) (r : BitVec 2) (ac : BitVec 1) (op : BitVec 6) : BitVec 10 := nr ++ r ++ ac ++ op
/-- The ten low bits of format W (R13). -/
def packW (eo ov p : BitVec 1) (am : BitVec 2) : BitVec 10 := eo ++ ov ++ p ++ am ++ 0#5
/-- One bit of a word. -/
def bit (b : Bool) : BitVec 1 := if b then 1#1 else 0#1
/-- The ORD field (R40). -/
def ordBits : AOrd → BitVec 2
  | .rlx => 0#2
  | .acq => 1#2
  | .rel => 2#2
  | .ar => 3#2
/-- The register of a second source. -/
def srcReg : VSrc → Reg
  | .v r => r
  | .s r => r
/-- S of a second source (R31). -/
def srcBit : VSrc → BitVec 1
  | .v _ => 0#1
  | .s _ => 1#1

/-- The word of an instruction, from the encodings of R13 to R42; an event has none. -/
def encode (i : Instr) : Option IWord :=
  match i with
  | .iaAdd d a b => some (packA 1#7 d a b 0#10)
  | .iaSub d a b => some (packA 1#7 d a b 1#10)
  | .iaMul d a b => some (packA 1#7 d a b 2#10)
  | .iaMulh d a b => some (packA 1#7 d a b 3#10)
  | .iaMulhu d a b => some (packA 1#7 d a b 4#10)
  | .iaDiv d a b => some (packA 1#7 d a b 5#10)
  | .iaDivu d a b => some (packA 1#7 d a b 6#10)
  | .iaRem d a b => some (packA 1#7 d a b 7#10)
  | .iaRemu d a b => some (packA 1#7 d a b 8#10)
  | .iaAnd d a b => some (packA 1#7 d a b 9#10)
  | .iaOr d a b => some (packA 1#7 d a b 10#10)
  | .iaXor d a b => some (packA 1#7 d a b 11#10)
  | .iaAndn d a b => some (packA 1#7 d a b 12#10)
  | .iaShl d a b => some (packA 1#7 d a b 13#10)
  | .iaShr d a b => some (packA 1#7 d a b 14#10)
  | .iaSra d a b => some (packA 1#7 d a b 15#10)
  | .iaRol d a b => some (packA 1#7 d a b 16#10)
  | .iaSlt d a b => some (packA 1#7 d a b 17#10)
  | .iaSltu d a b => some (packA 1#7 d a b 18#10)
  | .iaMin d a b => some (packA 1#7 d a b 19#10)
  | .iaMax d a b => some (packA 1#7 d a b 20#10)
  | .iaMinu d a b => some (packA 1#7 d a b 21#10)
  | .iaMaxu d a b => some (packA 1#7 d a b 22#10)
  | .iaClz d a => some (packA 1#7 d a 0#5 23#10)
  | .iaCtz d a => some (packA 1#7 d a 0#5 24#10)
  | .iaPopc d a => some (packA 1#7 d a 0#5 25#10)
  | .iaSext d a w => some (packA 1#7 d a w 26#10)
  | .iaZext d a w => some (packA 1#7 d a w 27#10)
  | .iiAdd d a i => some (packK 2#7 d a 0#3 i)
  | .iiAnd d a i => some (packK 2#7 d a 1#3 i)
  | .iiOr d a i => some (packK 2#7 d a 2#3 i)
  | .iiXor d a i => some (packK 2#7 d a 3#3 i)
  | .iiSlt d a i => some (packK 2#7 d a 4#3 i)
  | .iiSltu d a i => some (packK 2#7 d a 5#3 i)
  | .iiShl d a h => some (packK 2#7 d a 6#3 (0#6 ++ h))
  | .iiShr d a h => some (packK 2#7 d a 7#3 (0#6 ++ h))
  | .iiSra d a h => some (packK 2#7 d a 7#3 (32#6 ++ h))
  | .luHi d i => some (packU 3#7 d i)
  | .laPc d i => some (packU 4#7 d i)
  | .brEq a b o => some (packK 5#7 a b 0#3 o)
  | .brNe a b o => some (packK 5#7 a b 1#3 o)
  | .brLt a b o => some (packK 5#7 a b 2#3 o)
  | .brGe a b o => some (packK 5#7 a b 3#3 o)
  | .brLtu a b o => some (packK 5#7 a b 4#3 o)
  | .brGeu a b o => some (packK 5#7 a b 5#3 o)
  | .jl o => some (packZ 6#7 o)
  | .jr d a i => some (packI 7#7 d a i)
  | .lpL0 a l => some (packK 8#7 0#5 a 0#3 l)
  | .lpL1 a l => some (packK 8#7 0#5 a 1#3 l)
  | .ldB d a o => some (packA 9#7 d a 1#5 o)
  | .ldBu d a o => some (packA 9#7 d a 0#5 o)
  | .ldH d a o => some (packA 9#7 d a 3#5 o)
  | .ldHu d a o => some (packA 9#7 d a 2#5 o)
  | .ldW d a o => some (packA 9#7 d a 5#5 o)
  | .ldWu d a o => some (packA 9#7 d a 4#5 o)
  | .ldD d a o => some (packA 9#7 d a 6#5 o)
  | .ldBP d a o => some (packA 9#7 d a 17#5 o)
  | .ldBuP d a o => some (packA 9#7 d a 16#5 o)
  | .ldHP d a o => some (packA 9#7 d a 19#5 o)
  | .ldHuP d a o => some (packA 9#7 d a 18#5 o)
  | .ldWP d a o => some (packA 9#7 d a 21#5 o)
  | .ldWuP d a o => some (packA 9#7 d a 20#5 o)
  | .ldDP d a o => some (packA 9#7 d a 22#5 o)
  | .stB d a o => some (packA 10#7 d a 0#5 o)
  | .stH d a o => some (packA 10#7 d a 2#5 o)
  | .stW d a o => some (packA 10#7 d a 4#5 o)
  | .stD d a o => some (packA 10#7 d a 6#5 o)
  | .fsAdd d a b => some (packA 11#7 d a b 0#10)
  | .fsSub d a b => some (packA 11#7 d a b 1#10)
  | .fsMul d a b => some (packA 11#7 d a b 2#10)
  | .fsDiv d a b => some (packA 11#7 d a b 3#10)
  | .fsSqrt d a => some (packA 11#7 d a 0#5 4#10)
  | .fsFma d a b => some (packA 11#7 d a b 5#10)
  | .fsMin d a b => some (packA 11#7 d a b 6#10)
  | .fsMax d a b => some (packA 11#7 d a b 7#10)
  | .fsEq d a b => some (packA 11#7 d a b 8#10)
  | .fsLt d a b => some (packA 11#7 d a b 9#10)
  | .fsLe d a b => some (packA 11#7 d a b 10#10)
  | .fsCvti d a => some (packA 11#7 d a 0#5 11#10)
  | .fsCvtf d a => some (packA 11#7 d a 0#5 12#10)
  | .fsCls d a => some (packA 11#7 d a 0#5 13#10)
  | .fsCvt d a => some (packA 11#7 d a 0#5 14#10)
  | .qPush q a => some (packA 12#7 q a 0#5 0#10)
  | .qPop d q => some (packA 12#7 d q 0#5 1#10)
  | .qCnt d q => some (packA 12#7 d q 0#5 2#10)
  | .mdSet i => some (packZ 13#7 (0#1 ++ i))
  | .mrPut a => some (packA 14#7 0#5 a 0#5 0#10)
  | .mrGet d => some (packA 14#7 d 0#5 0#5 1#10)
  | .syRd d x => some (packA 15#7 d 0#5 0#5 x)
  | .syWr a x => some (packA 15#7 0#5 a 1#5 x)
  | .syTrap c => some (packA 15#7 0#5 0#5 2#5 c)
  | .syEret => some (packA 15#7 0#5 0#5 3#5 0#10)
  | .syFenceAll => some (packA 15#7 0#5 0#5 4#5 0#10)
  | .syFenceLd => some (packA 15#7 0#5 0#5 4#5 1#10)
  | .syFenceSt => some (packA 15#7 0#5 0#5 4#5 2#10)
  | .syFenceVec => some (packA 15#7 0#5 0#5 4#5 3#10)
  | .syFenceEng => some (packA 15#7 0#5 0#5 4#5 4#10)
  | .syFenceMat => some (packA 15#7 0#5 0#5 4#5 5#10)
  | .syEnd => some (packA 15#7 0#5 0#5 5#5 0#10)
  | .syYield => some (packA 15#7 0#5 0#5 6#5 0#10)
  | .syTime d => some (packA 15#7 d 0#5 7#5 0#10)
  | .syTlbinv a => some (packA 15#7 0#5 a 8#5 0#10)
  | .syPgreq a => some (packA 15#7 0#5 a 9#5 0#10)
  | .syResume a => some (packA 15#7 0#5 a 10#5 0#10)
  | .syCtxsave a => some (packA 15#7 0#5 a 11#5 0#10)
  | .syCtxrest a => some (packA 15#7 0#5 a 12#5 0#10)
  | .syHalt a => some (packA 15#7 0#5 a 13#5 0#10)
  | .syIntr a => some (packA 15#7 0#5 a 14#5 0#10)
  | .vaAdd d a b => some (packA 16#7 d a (srcReg b) (srcBit b ++ 0#9))
  | .vaSub d a b => some (packA 16#7 d a (srcReg b) (srcBit b ++ 1#9))
  | .vaMul d a b => some (packA 16#7 d a (srcReg b) (srcBit b ++ 2#9))
  | .vaMulh d a b => some (packA 16#7 d a (srcReg b) (srcBit b ++ 3#9))
  | .vaFma d a b => some (packA 16#7 d a (srcReg b) (srcBit b ++ 4#9))
  | .vaFms d a b => some (packA 16#7 d a (srcReg b) (srcBit b ++ 5#9))
  | .vaFnma d a b => some (packA 16#7 d a (srcReg b) (srcBit b ++ 6#9))
  | .vaDiv d a b => some (packA 16#7 d a (srcReg b) (srcBit b ++ 7#9))
  | .vaSqrt d a => some (packA 16#7 d a 0#5 8#10)
  | .vaRsqrt d a => some (packA 16#7 d a 0#5 9#10)
  | .vaRecip d a => some (packA 16#7 d a 0#5 10#10)
  | .vaExp2 d a => some (packA 16#7 d a 0#5 11#10)
  | .vaLog2 d a => some (packA 16#7 d a 0#5 12#10)
  | .vaMin d a b => some (packA 16#7 d a (srcReg b) (srcBit b ++ 13#9))
  | .vaMax d a b => some (packA 16#7 d a (srcReg b) (srcBit b ++ 14#9))
  | .vaAbs d a => some (packA 16#7 d a 0#5 15#10)
  | .vaNeg d a => some (packA 16#7 d a 0#5 16#10)
  | .vaAnd d a b => some (packA 16#7 d a (srcReg b) (srcBit b ++ 17#9))
  | .vaOr d a b => some (packA 16#7 d a (srcReg b) (srcBit b ++ 18#9))
  | .vaXor d a b => some (packA 16#7 d a (srcReg b) (srcBit b ++ 19#9))
  | .vaShl d a b => some (packA 16#7 d a (srcReg b) (srcBit b ++ 20#9))
  | .vaShr d a b => some (packA 16#7 d a (srcReg b) (srcBit b ++ 21#9))
  | .vaSra d a b => some (packA 16#7 d a (srcReg b) (srcBit b ++ 22#9))
  | .vaCvt d a => some (packA 16#7 d a 0#5 23#10)
  | .vaMulw d a b => some (packA 16#7 d a (srcReg b) (srcBit b ++ 24#9))
  | .vaDotw d a b => some (packA 16#7 d a (srcReg b) (srcBit b ++ 25#9))
  | .vaClip d a b => some (packA 16#7 d a (srcReg b) (srcBit b ++ 26#9))
  | .vmEq d a b => some (packA 17#7 d a (srcReg b) (srcBit b ++ 0#9))
  | .vmNe d a b => some (packA 17#7 d a (srcReg b) (srcBit b ++ 1#9))
  | .vmLt d a b => some (packA 17#7 d a (srcReg b) (srcBit b ++ 2#9))
  | .vmLe d a b => some (packA 17#7 d a (srcReg b) (srcBit b ++ 3#9))
  | .vmGt d a b => some (packA 17#7 d a (srcReg b) (srcBit b ++ 4#9))
  | .vmGe d a b => some (packA 17#7 d a (srcReg b) (srcBit b ++ 5#9))
  | .vmUnord d a b => some (packA 17#7 d a (srcReg b) (srcBit b ++ 6#9))
  | .vmAnd d a b => some (packA 17#7 d a b 16#10)
  | .vmOr d a b => some (packA 17#7 d a b 17#10)
  | .vmXor d a b => some (packA 17#7 d a b 18#10)
  | .vmAndn d a b => some (packA 17#7 d a b 19#10)
  | .vmNot d a => some (packA 17#7 d a 0#5 20#10)
  | .vmPop d a => some (packA 17#7 d a 0#5 21#10)
  | .vmFirst d a => some (packA 17#7 d a 0#5 22#10)
  | .vmFill d a => some (packA 17#7 d a 0#5 535#10)
  | .vpMv d a => some (packA 18#7 d a 0#5 0#10)
  | .vpBcast d b => some (packA 18#7 d 0#5 b 513#10)
  | .vpIota d => some (packA 18#7 d 0#5 0#5 2#10)
  | .vpSlup d a b => some (packA 18#7 d a b 515#10)
  | .vpSldn d a b => some (packA 18#7 d a b 516#10)
  | .vpPerm d a b => some (packA 18#7 d a b 5#10)
  | .vpCompress d a => some (packA 18#7 d a 0#5 6#10)
  | .vpSel d a b => some (packA 18#7 d a (srcReg b) (srcBit b ++ 7#9))
  | .vpRsum d a => some (packA 18#7 d a 0#5 8#10)
  | .vpRmax d a => some (packA 18#7 d a 0#5 9#10)
  | .vpRmin d a => some (packA 18#7 d a 0#5 10#10)
  | .vpExt a b => some (packA 18#7 0#5 a b 523#10)
  | .vpIns d b => some (packA 18#7 d 0#5 b 524#10)
  | .vlSet d a => some (packA 19#7 d a 0#5 0#10)
  | .vlGet d => some (packA 19#7 d 0#5 0#5 1#10)
  | .vfGo o => some (packZ 20#7 (0#1 ++ o))
  | .vfEnd => some (packZ 20#7 (1#1 ++ 0#24))
  | .vldU d a eo ov p => some (packA 21#7 d a 0#5 (packW (bit eo) (bit ov) (bit p) 0#2))
  | .vldS d a b eo ov p => some (packA 21#7 d a b (packW (bit eo) (bit ov) (bit p) 1#2))
  | .vldX d a b eo ov p => some (packA 21#7 d a b (packW (bit eo) (bit ov) (bit p) 2#2))
  | .vstU d a eo ov => some (packA 22#7 d a 0#5 (packW (bit eo) (bit ov) 0#1 0#2))
  | .vstS d a b eo ov => some (packA 22#7 d a b (packW (bit eo) (bit ov) 0#1 1#2))
  | .vstX d a b eo ov => some (packA 22#7 d a b (packW (bit eo) (bit ov) 0#1 2#2))
  | .vbDecl d a => some (packA 23#7 d a 0#5 0#10)
  | .vbLd a b => some (packA 23#7 0#5 a b 1#10)
  | .vbTake d => some (packA 23#7 d 0#5 0#5 2#10)
  | .vbFree d => some (packA 23#7 d 0#5 0#5 3#10)
  | .mxShape a => some (packA 24#7 0#5 a 0#5 0#10)
  | .mxZero d => some (packA 24#7 d 0#5 0#5 1#10)
  | .mxOpa d a b => some (packA 24#7 d a b 2#10)
  | .mxOpaSa d a b => some (packA 24#7 d a b 3#10)
  | .mxOpaSb d a b => some (packA 24#7 d a b 4#10)
  | .mxOpaSs d a b => some (packA 24#7 d a b 5#10)
  | .mxRd d a b => some (packA 24#7 d a b 6#10)
  | .mxWr d a b => some (packA 24#7 d a b 7#10)
  | .mxLd d a b => some (packA 24#7 d a b 8#10)
  | .mxSt d a b => some (packA 24#7 d a b 9#10)
  | .mxWait d => some (packA 24#7 d 0#5 0#5 10#10)
  | .mxCvt d => some (packA 24#7 d 0#5 0#5 11#10)
  | .tnDef a b => some (packA 25#7 0#5 a b 0#10)
  | .tnInv a => some (packA 25#7 0#5 a 0#5 1#10)
  | .tnRd d a b => some (packA 25#7 d a b 2#10)
  | .tnTld d a b => some (packA 25#7 d a b 3#10)
  | .tnTst d a b => some (packA 25#7 d a b 4#10)
  | .tnPack a b => some (packA 25#7 0#5 a b 5#10)
  | .tnUnpack a b => some (packA 25#7 0#5 a b 6#10)
  | .trTurn l a b => some (packA 26#7 l a b 0#10)
  | .trInval l a b => some (packA 26#7 l a b 1#10)
  | .trAcq d a b => some (packA 26#7 d a b 2#10)
  | .trRel d a b => some (packA 26#7 d a b 3#10)
  | .trRetain d a b => some (packA 26#7 d a b 4#10)
  | .trUnpin a => some (packA 26#7 0#5 a 0#5 5#10)
  | .trLock d a => some (packA 26#7 d a 0#5 6#10)
  | .trUnlock a => some (packA 26#7 0#5 a 0#5 7#10)
  | .atAdd d a b nr r ac => some (packA 27#7 d a b (packAt (bit nr) (ordBits r) (bit ac) 0#6))
  | .atAnd d a b nr r ac => some (packA 27#7 d a b (packAt (bit nr) (ordBits r) (bit ac) 1#6))
  | .atOr d a b nr r ac => some (packA 27#7 d a b (packAt (bit nr) (ordBits r) (bit ac) 2#6))
  | .atXor d a b nr r ac => some (packA 27#7 d a b (packAt (bit nr) (ordBits r) (bit ac) 3#6))
  | .atMin d a b nr r ac => some (packA 27#7 d a b (packAt (bit nr) (ordBits r) (bit ac) 4#6))
  | .atMax d a b nr r ac => some (packA 27#7 d a b (packAt (bit nr) (ordBits r) (bit ac) 5#6))
  | .atMinu d a b nr r ac => some (packA 27#7 d a b (packAt (bit nr) (ordBits r) (bit ac) 6#6))
  | .atMaxu d a b nr r ac => some (packA 27#7 d a b (packAt (bit nr) (ordBits r) (bit ac) 7#6))
  | .atSwap d a b nr r ac => some (packA 27#7 d a b (packAt (bit nr) (ordBits r) (bit ac) 8#6))
  | .atCas d a b r => some (packA 27#7 d a b (packAt 0#1 (ordBits r) 0#1 9#6))
  | .atFadd d a b nr r ac => some (packA 27#7 d a b (packAt (bit nr) (ordBits r) (bit ac) 10#6))
  | .atFmin d a b nr r ac => some (packA 27#7 d a b (packAt (bit nr) (ordBits r) (bit ac) 11#6))
  | .atFmax d a b nr r ac => some (packA 27#7 d a b (packAt (bit nr) (ordBits r) (bit ac) 12#6))
  | .vatAdd d a b nr r ac => some (packA 28#7 d a b (packAt (bit nr) (ordBits r) (bit ac) 0#6))
  | .vatAnd d a b nr r ac => some (packA 28#7 d a b (packAt (bit nr) (ordBits r) (bit ac) 1#6))
  | .vatOr d a b nr r ac => some (packA 28#7 d a b (packAt (bit nr) (ordBits r) (bit ac) 2#6))
  | .vatXor d a b nr r ac => some (packA 28#7 d a b (packAt (bit nr) (ordBits r) (bit ac) 3#6))
  | .vatMin d a b nr r ac => some (packA 28#7 d a b (packAt (bit nr) (ordBits r) (bit ac) 4#6))
  | .vatMax d a b nr r ac => some (packA 28#7 d a b (packAt (bit nr) (ordBits r) (bit ac) 5#6))
  | .vatMinu d a b nr r ac => some (packA 28#7 d a b (packAt (bit nr) (ordBits r) (bit ac) 6#6))
  | .vatMaxu d a b nr r ac => some (packA 28#7 d a b (packAt (bit nr) (ordBits r) (bit ac) 7#6))
  | .vatSwap d a b nr r ac => some (packA 28#7 d a b (packAt (bit nr) (ordBits r) (bit ac) 8#6))
  | .vatFadd d a b nr r ac => some (packA 28#7 d a b (packAt (bit nr) (ordBits r) (bit ac) 10#6))
  | .vatFmin d a b nr r ac => some (packA 28#7 d a b (packAt (bit nr) (ordBits r) (bit ac) 11#6))
  | .vatFmax d a b nr r ac => some (packA 28#7 d a b (packAt (bit nr) (ordBits r) (bit ac) 12#6))
  | .cfTsb d a => some (packA 29#7 d a 0#5 0#10)
  | .cfTst d a => some (packA 29#7 d a 0#5 1#10)
  | .cfClr a => some (packA 29#7 0#5 a 0#5 2#10)
  | .cfRd d a => some (packA 29#7 d a 0#5 3#10)
  | .cfWr a b => some (packA 29#7 0#5 a b 4#10)
  | .cfArrive a => some (packA 29#7 0#5 a 0#5 5#10)
  | .cfWait a => some (packA 29#7 0#5 a 0#5 6#10)
  | .cfSync a => some (packA 29#7 0#5 a 0#5 7#10)
  | .cfTwait d a b => some (packA 29#7 d a b 8#10)
  | .cfCfg a b => some (packA 29#7 0#5 a b 9#10)
  | .cpSet k a x => some (packA 30#7 k a x 0#10)
  | .cpGo d k => some (packA 30#7 d k 0#5 1#10)
  | .cpWait k b => some (packA 30#7 0#5 k b 2#10)
  | .cpMask m k => some (packA 30#7 m k 0#5 3#10)
  | .cpCbacq d k => some (packA 30#7 d k 0#5 4#10)
  | .cpCbrel k => some (packA 30#7 0#5 k 0#5 5#10)
  | .cpCbcfg k b => some (packA 30#7 0#5 k b 6#10)
  | .cpStat d k => some (packA 30#7 d k 0#5 7#10)
  | .xrRed d a => some (packA 31#7 d a 0#5 0#10)
  | .xrPub a => some (packA 31#7 0#5 a 0#5 1#10)
  | .xrSub d a b => some (packA 31#7 d a b 2#10)
  | .xrWaitv a b => some (packA 31#7 0#5 a b 3#10)
  | .lnGo d a => some (packA 32#7 d a 0#5 0#10)
  | .lnStat d a => some (packA 32#7 d a 0#5 1#10)
  | .brk c => some (packZ 127#7 c)
  | .qdeadlockDetect _ => none
  | .modeWrite _ => none
  | .stsWrite _ => none
  | .flagsWrite _ => none
  | .seedWrite _ => none
  | .lendWrite _ _ => none
  | .ecauseWrite _ => none
  | .tshapeWrite _ => none
  | .fqtailWrite _ => none
  | .illegalWord _ => none
  | .stripFilled _ _ => none
  | .tokenGrant _ => none
  | .twaitTimeout _ => none
  | .barrierPhaseDelivery _ => none
  | .transferStart _ _ => none
  | .chunkComplete _ _ _ => none
  | .flashBlockCheck _ _ _ => none
  | .collectiveMessage _ => none
  | .waitvRecheck _ => none
  | .crewPlace _ _ _ => none
  | .schedulerPreempt _ => none
  | .crewRestore _ _ _ => none
  | .dependencePoll _ => none
  | .completionWordWrite _ => none
  | .strandRestart _ => none
  | .faultQueueWrite _ => none
  | .mirrorDelivery _ => none
  | .spanBoundary _ => none
  | .platformRelease _ => none
  | .strikeReport _ => none
  | .rollbackComplete _ => none
  | .sliceRequest _ => none
  | .requestRetry _ => none
  | .sliceFillArrival _ => none
  | .stationCombine _ _ => none
  | .replySplit _ => none
  | .flitCrcFail _ => none
  | .segmentRetire _ => none
  | .bucketMoveStart _ _ => none
  | .bucketMoveFinish _ => none
  | .heatHalving => none
  | .hostRead _ _ => none
  | .hostWrite _ _ => none
  | .msixUnmask _ => none
  | .datagramData _ => none
  | .datagramSignal _ => none
  | .datagramAck _ _ _ => none
  | .datagramRefusal _ _ _ => none
  | .datagramRetransmit _ _ _ => none
  | .frameDrop _ => none
  | .pauseFrame _ _ => none
  | .droopTrip _ => none
  | .droopClear _ => none
  | .quadAgingFlag _ => none
  | .noprePreemptTimeout _ => none
  | .quadSpareCopy _ => none
  | .moduleReset => none
  | .attest _ _ => none
  | .partitionSet _ _ => none
  | .partitionLend _ _ _ _ => none
  | .partitionRecall _ _ _ _ => none
  | .register _ _ _ _ _ _ => none
  | .unregister _ _ => none
  | .status _ => none
  | .extend _ _ _ => none
  | .start _ _ _ => none
  | .endpointSet _ _ _ _ => none
  | .endpointClear _ _ _ => none
  | .grant _ _ _ _ => none
  | .revoke _ _ _ => none
  | .localAddress _ _ _ _ => none
  | .keyGenerate _ _ => none
  | .keyBind _ _ _ _ _ => none
  | .keyUnbind _ _ => none
  | .malformedRequest _ _ _ => none
  | .replyArrival _ => none
  | .subscriptionRegistration _ => none
  | .publicationDelivery _ _ => none
  | .subscriberDrop _ _ => none
  | .sliceRetire _ _ => none
  | .laneReplace _ _ => none
  | .hbmRowRepair _ _ => none
  | .nvmeError _ _ _ => none

end Sys2Proof
end

