-- ==== Sys2Proof/Machine/State.lean ====
section
/-! DEFINITION. The state of a module: strands, quads, memory, the fabric, the scheduler's and the lodge's records. Plain
data throughout. INVENTORY.md lists each field with the rule that names it and its reset value. -/

namespace Sys2Proof.Machine

/-- Why the machine stops. -/
inductive Fault where
  /-- An agenda entry names a unit the module does not have (a quad above 143, a partition above 15 …). Raised by
  `runAct`. Safe: no such event can occur (R2, R4, R6). -/
  | noSuchUnit
deriving DecidableEq, Repr

/-- Why an instruction is refused. -/
inductive Refusal where
  /-- Raised by an arm of `exec` without a meaning. Safe: nothing is claimed of such an instruction. -/
  | notModelled (mnemonic : String)
deriving DecidableEq, Repr

/-! ### A strand -/

/-- LEND0 or LEND1 (R103): the body length and bits 47-2 of the end address. -/
structure LoopEnd where
  len  : BitVec 12
  stop : BitVec 46
deriving DecidableEq, Repr

/-- The part of a strand that a precise trap leaves as it stood before the trapping instruction (R90, R394). The
model's own: `icount` counts completed instructions, which tells the dynamic instances of R422 apart. -/
structure Scalar where
  pc       : Word
  regs     : Vector Word 32
  mode     : BitVec 25
  fpen     : BitVec 5
  tnest    : BitVec 2
  prv      : Bool
  rolled   : Bool
  vlcut    : Bool
  nr       : Bool
  prot     : Bool
  lcnt0    : Word
  lend0    : LoopEnd
  lcnt1    : Word
  lend1    : LoopEnd
  flags    : BitVec 6
  seed     : Word
  vlc      : Nat
  epc      : Word
  ecause   : BitVec 8
  eval     : Word
  einfo    : Word
  turnprg  : BitVec 33
  trbase   : Word
  esave    : BitVec 24
  tshape   : Word
  scopectl : BitVec 5
  scopelog : Word
  retHit   : Word
  retMiss  : Word
  retOvf   : Word
  l2Hit    : Word
  l2Miss   : Word
  busy     : BitVec 8
  busyAddr : Vector Word 8
  icount   : Nat
deriving DecidableEq, Repr

/-- What a strand is doing (R90, R401, R404, R263); `ending` once it is terminated and has still to finish what R263 makes it wait
for (R264). -/
inductive Status where
  | absent | running | parked | halted | depot | ending | retired
deriving DecidableEq, Repr

/-- Where a strand stands in its crew and on the module (R6, R47, R251); `abase` and `alen` are its crew's scratchpad
allotment (R297). -/
structure Ident where
  strid  : Nat
  crewX  : Nat
  crewY  : Nat
  crewZ  : Nat
  ncrewX : Nat
  ncrewY : Nat
  ncrewZ : Nat
  nstr   : Nat
  quad   : Nat
  core   : Nat
  slot   : Nat
  devid  : Nat
  lparam : Word
  mirgrp : Nat
  part   : Nat
  crew   : Nat
  abase  : Nat
  alen   : Nat
deriving DecidableEq, Repr

/-- An un-turned grain of a strand (R225): its key, virtual address and size and its page's C; `core` after a turn at CORE,
`moved` once it was restored with a saved context (R230). -/
structure Mark where
  key   : Nat
  va    : Nat
  size  : Nat
  cach  : Bool
  core  : Bool
  moved : Bool
deriving DecidableEq, Repr

/-- A grain of the pending set, with its page's C (R220, R293). -/
structure Pend where
  key  : Nat
  va   : Nat
  size : Nat
  cach : Bool
deriving DecidableEq, Repr

/-- A place of a register file whose word is poisoned (R397): kind 0 scalar, 1 vector, 2 mask, 3 tile, 4 queue. -/
structure PoisonMark where
  kind : Nat
  reg  : Nat
  word : Nat
deriving DecidableEq, Repr

/-- A running vector-fetch block (R187 to R190): its words from `base`, the element that runs, its place in the block, the
element's register slots, the flags and the poison marks before it began, and the guard as it was read. -/
structure VfRun where
  base  : Word
  words : List IWord
  e     : Nat
  bpc   : Word
  saved : List Word
  fl    : BitVec 6
  pz    : List PoisonMark
  guard : BitVec 512
deriving DecidableEq, Repr

/-- What a page's leaf says (R220, R383). `key` is the memory key of the first byte of the page. -/
structure Page where
  va    : Nat
  size  : Nat
  key   : Nat
  grn   : Nat
  cach  : Bool
  kid   : Nat
  owner : Option Nat
  r     : Bool
  w     : Bool
  x     : Bool
  u     : Bool
  level : Nat
  dirty : Bool
deriving DecidableEq, Repr

/-- A piece of an access: bytes that lie in one page or window. `key` is the memory key of its first byte; a mirror
piece keeps its offset in `key`. -/
structure Seg where
  va   : Word
  n    : Nat
  key  : Nat
  page : Option Page
  mir  : Bool
deriving DecidableEq, Repr

/-- An element of a vector memory instruction that has passed its checks: its number, its pieces, and the bytes it stores. -/
structure VElem where
  e  : Nat
  gs : List Seg
  bs : List Byte
deriving DecidableEq, Repr

/-- An instruction waiting in the vector or matrix stream with what was captured when it was passed (R118, R157):
the whole scalar state of that moment with its poisoned registers, its channels' shadow registers and its tensor identifiers, so that a
trap can return to it (R394). `seq` is its place in
program order; `block` holds the words of a vector-fetch block (R19); `passed` holds the elements of a vector memory instruction
whose checks have been made and which cannot trap any more (R240). -/
structure Entry where
  instr  : Instr
  snap   : Scalar
  seq    : Nat
  block  : List IWord
  passed : Option (List VElem)
  pz     : List PoisonMark
  shadow : List (List Word)
  tids   : List (Nat × List Byte)
deriving DecidableEq, Repr

/-- The tiles as they stood before a matrix instruction that has passed older vector instructions, with the tiles' poison marks: a
trap of one of those takes it back (R394). -/
structure MLog where
  seq    : Nat
  tiles  : Vector (BitVec 131072) 8
  poison : List PoisonMark
deriving DecidableEq, Repr

/-- The states of a strip buffer (R180). -/
inductive BufSt where
  | free | filling | filled
  | bound (d : Nat)
deriving DecidableEq, Repr

/-- A strip load to buffer `buf` (R182): the translated pieces of each element position, and its place in program order. `got` holds
the bytes of each position, with their poison, once they have arrived: instructions older than the load do not see them (R163). -/
structure Strip where
  buf : Nat
  els : List (List Seg)
  pol : Nat
  seq : Nat
  got : Option (List (List (Byte × Bool)))
deriving DecidableEq, Repr

/-- The strip ring (R180). `order` lists the bound buffers, the longest bound first. The buffers stand apart from the register file,
so that instructions older than the ring's declaration (`seq`) see their registers as they were (R163, R181): `data` holds the
registers from `f` up, `bad` their poisoned words. `stop` is the place of the declaration that closed it. -/
structure Ring where
  f      : Nat
  c      : Nat
  g      : Nat
  bufs   : List BufSt
  fp     : Nat
  tp     : Nat
  order  : List Nat
  strips : List Strip
  data   : List (BitVec 16384)
  bad    : List (Nat × Nat)
  seq    : Nat
  stop   : Nat
deriving DecidableEq, Repr

/-- An operation of the scalar stream that a trap of an older vector or matrix instruction takes back (R394): a push or pop of queue
0 to 3, a strip load (4) or a ring declaration (5), with the ring before the last two. -/
structure QLog where
  seq  : Nat
  q    : Nat
  pop  : Option Word
  ring : Option Ring
deriving DecidableEq, Repr

/-- A pending record of a strand on a barrier (R280): the PHASE it holds, none while its arrival is still on its way
(R285), and whether the completion of that phase has reached the strand, with the timer at that moment (R283). -/
structure BarRec where
  bar   : Nat
  phase : Option (BitVec 32)
  done  : Bool
  time  : Nat
deriving DecidableEq, Repr

/-- A `cf.twait` under way (R283): its deadline, its destination and its barrier. -/
structure TWait where
  deadline : Nat
  d        : Reg
  bar      : Nat
deriving DecidableEq, Repr

/-- Bytes on their way to a place of memory or of a scratchpad, with the policy and key id of their access (R292, R477), its
virtual address, its page's C (R316) and its grain (R295). -/
structure Move where
  key  : Nat
  data : List Byte
  pol  : Nat
  kid  : Nat
  va   : Nat
  cach : Bool
  grain : Nat
deriving DecidableEq, Repr

/-- A transfer that has not completed (R353 to R374): its identifier, the snapshot of the shadow registers, the descriptor
it captured (R213), the privilege of its strand, whether its `cp.go` has left the platform, whether it has started, the slot
it reserved (controller and slot), the number of chunks whose pieces have passed their checks, what the checked ones have
still to write, the completed chunks, the source bytes they delivered, the flash blocks that have passed, its failure
(code and chunk), whether it wrote global memory, and whether its signal has been sent (R448). -/
structure Xfer where
  ident    : Nat
  words    : List Word
  desc     : List Byte
  prv      : Bool
  released : Bool
  started  : Bool
  slot     : Option (Nat × Nat)
  next     : Nat
  plan     : List (Nat × List Move)
  chunks   : List Nat
  bytes    : Nat
  blocks   : List Nat
  fail     : Option (Nat × Nat)
  glob     : Bool
  sig      : Bool
deriving DecidableEq, Repr

/-- A channel of a strand (R353 to R363). `bytesId` is the identifier that BYTES belongs to, `wrote` the first
transfer, by identifier, that wrote global memory (R362). -/
structure Chan where
  shadow  : List Word
  nextId  : Nat
  cpdone  : Nat
  bytes   : Nat
  bytesId : Nat
  code    : Nat
  fchunk  : Nat
  fidlo   : Nat
  wrote   : Option Nat
  xfers   : List Xfer
deriving DecidableEq, Repr

/-- An outward effect that an instruction has handed to the platform, and its reply once it has come (R414). -/
structure Handed where
  id    : Nat
  reply : Option (List Word)
deriving DecidableEq, Repr

/-- A chunk that reached global memory while its transfer was bound to a mask (R369): the mask, its bit, and the key and
length of the bytes written. -/
structure MaskLine where
  mask : Nat
  bit  : Nat
  key  : Nat
  len  : Nat
deriving DecidableEq, Repr

/-- A request of an atomic (R333, R334, R339). -/
structure AtReq where
  key    : Nat
  va     : Word
  width  : Nat
  op     : Nat
  ac     : Bool
  v      : Word
  expect : Word
  scope  : Nat
  dom    : Nat
  core   : Nat
  slot   : Nat
  trap   : Bool
  gkey   : Nat
  gva    : Nat
  gsize  : Nat
  crew   : Nat
  part   : Nat
  asid   : BitVec 16
  cach   : Bool
  priv   : Bool
  pol    : Nat
  kid    : Nat
deriving DecidableEq, Repr

/-- An element of an atomic that has passed its checks: its number, its operand, and the request it makes by itself (R337). -/
structure AtElt where
  e   : Nat
  v   : Nat
  req : AtReq
deriving DecidableEq, Repr

/-- An `at` or `vat` that has passed its checks and is under way (R10, R414): the elements it performs, in order; the element at which it
stops next; and the request that failed there at its executing stage, with its cause. -/
structure AtRun where
  els  : List AtElt
  stop : Nat
  fail : Option (AtReq × List Word)
deriving DecidableEq, Repr

/-- A strand (R90). The model's own: `inStream` tells whether the head of the vector (1) or matrix (2) stream executes,
`saved` then keeps the front end's scalar state; `offer` is a grant that the scheduler gives at the next `sy.yield` (R155); `vHold` and `mHold` hold a stream back; `waiting` marks an instruction
that waits, `tried` that it is being executed again; `seqNo` and `qlog` serve R394; `vat` is an
atomic under way (R10); `owedMis` keeps the mismatches that the turn of a grain has found within the quad while its bytes travel: old
scope, old domain and new scope (R309); `note` keeps what an `xr` form or `ln.go` has done so far; `syncWait` tells of a `cf.sync` that has arrived and now
waits, and `arrs` keeps withdrawn arrivals by barrier (R286). `closed` holds closed rings whose registers older instructions may still
read, the latest first (R181); `mlog` serves R394; `fences` lists the fences whose older operations may not have ended: kind and place
in program order (R123); `sure` is the place up to which a store or an atomic that has been performed lets nothing be taken back
(R394, R404); `wrote` notes the bits of poisoned words that the executing instruction has written (R397). -/
structure Strand where
  uid      : Nat
  sc       : Scalar
  status   : Status
  vlg      : Nat
  rstix    : BitVec 16
  masks    : Vector (BitVec 512) 8
  v        : Vector (BitVec 16384) 32
  ntiles   : Nat
  tiles    : Vector (BitVec 131072) 8
  q0       : List Word
  q1       : List Word
  q2       : List Word
  q3       : List Word
  ident    : Ident
  marks    : List Mark
  pend     : List Pend
  ring     : Option Ring
  closed   : List Ring
  chans    : List Chan
  barRecs  : List BarRec
  arrs     : List (Nat × Nat)
  poison   : List PoisonMark
  parkSeq  : Nat
  parkSlot : Option Nat
  handed   : Option Handed
  syncWait : Bool
  deadline : Option TWait
  vq       : List Entry
  mq       : List Entry
  vf       : Option VfRun
  seqNo    : Nat
  qlog     : List QLog
  mlog     : List MLog
  fences   : List (Nat × Nat)
  sure     : Nat
  wrote    : List (PoisonMark × Nat)
  inStream : Nat
  vHold    : Bool
  mHold    : Bool
  waiting  : Bool
  tried    : Bool
  saved    : Option Scalar
  offer    : Option Nat
  mlines   : List MaskLine
  tids     : List (Nat × List Byte)
  vat      : Option AtRun
  owedMis  : List (Nat × Nat × Nat)
  note     : Option (List Word)
deriving DecidableEq, Repr

/-! ### A quad -/

/-- A barrier (R280). `who` names the strands of the arrivals of the current phase in their order; ARRIVED is its length. -/
structure Barrier where
  id    : Nat
  count : Nat
  who   : List Nat
  phase : BitVec 32
deriving DecidableEq, Repr

/-- What the page and the policy of a store say of its bytes (R220, R292, R477): the virtual address of the byte, the size of
its grain, the page's C and key id, and POL. -/
structure Tag where
  va   : Nat
  size : Nat
  cach : Bool
  kid  : Nat
  pol  : Nat
deriving DecidableEq, Repr

/-- A byte of the outbound path (R222, R288): of core `core`'s buffer, or of the quad outbound cache when `none`;
`turned` once it may be read (R291); `owners` are the strands whose stores it holds or has replaced, the latest first; `bad`
when it lies in a poisoned sector of its stage (R398). `sent` is the model's own: the effect that carries the byte home and
on whose landing the stage gives it up. A list holds the latest entries first, which orders the lines of a stage (R294). -/
structure OutB where
  core   : Option Nat
  key    : Nat
  val    : Byte
  turned : Bool
  owners : List Nat
  tag    : Tag
  sent   : Option Nat
  bad    : Bool
deriving DecidableEq, Repr

/-- A clean copy of a grain: in core `core`'s L1, or in the quad inbound cache when `none` (R222, R291). The copies of one
512-byte line of a stage are that line's valid sectors (R294); the list holds the latest used lines first. `first` tells that
the line is evict-first (R292), `bad` lists its poisoned sectors (R398). -/
structure Copy where
  core  : Option Nat
  key   : Nat
  data  : List Byte
  first : Bool
  bad   : List Nat
deriving DecidableEq, Repr

/-- A TLB entry (R385): the leaf that translates `size` bytes from `va`, and whether D is known set. -/
structure TlbE where
  core  : Nat
  asid  : BitVec 16
  va    : Nat
  size  : Nat
  level : Nat
  leaf  : Word
  dirty : Bool
deriving DecidableEq, Repr

/-- A scope record (R305): SCOPE (0 is NONE), DOM, the writer's core and slot (WHO), EPOCH; and the virtual address by which
the writer named the grain (R310). -/
structure ScopeRec where
  key   : Nat
  scope : Nat
  dom   : Nat
  core  : Nat
  slot  : Nat
  epoch : Nat
  va    : Nat
deriving DecidableEq, Repr

/-- A grain that an atomic has fetched, with the record it carries (R305, R334): in core `core`'s lane-banked atomic cache,
tagged by virtual address and ASID, or in the quad outbound cache when `none`. `holes` lists the bytes that have been written
outward and dropped since (R334); `out` the bytes that atomics have written at CORE and that have not gone on to the quad outbound cache,
the latest first. -/
structure AtomLine where
  core  : Option Nat
  key   : Nat
  va    : Nat
  asid  : BitVec 16
  data  : List Byte
  holes : List Nat
  out   : List OutB
  rcd   : ScopeRec
deriving DecidableEq, Repr

/-- A circular-buffer controller (R372): its owner crew, its counts and indices (FREE is below 0 only while a rollback has
taken back a return whose slot was reserved again, R481), the reservations in ring order, each with
whether its transfer has completed (R374), the acquired slots, the oldest first, the strands whose `cp.cbacq` waits, and the
transfers (strand, channel, identifier) that wait for a slot, in the order in which they reached the controller (R374). -/
structure Cb where
  idx    : Nat
  owner  : Nat
  base   : Nat
  slot   : Nat
  nslot  : Nat
  free   : Int
  filled : Nat
  pi     : Nat
  ci     : Nat
  resv   : List (Nat × Bool)
  acqd   : List Nat
  waitq  : List Nat
  waits  : List (Nat × Nat × Nat)
deriving DecidableEq, Repr

/-- The state of a quad that a checkpoint keeps (R410). -/
structure QuadData where
  sem    : BitVec 64
  words  : Vector Word 32
  bars   : List Barrier
  out    : List OutB
  copies : List Copy
  tlb    : List TlbE
  atoms  : List AtomLine
  recs   : List ScopeRec
  cbs    : List Cb
deriving DecidableEq, Repr

/-- A byte that a turn carries home, with what its store's page and policy say (R292, R477), the crew whose windows may hold
its line (R316), whether it comes from a poisoned sector (R398), and the strands whose stores it holds or has replaced (R432). -/
structure HomeB where
  key  : Nat
  val  : Byte
  tag  : Tag
  crew : Nat
  bad  : Bool
  owners : List Nat
deriving DecidableEq, Repr

/-- How bytes go home (R234, R307): by a turn or release at HOME; at SYSTEM, with the ranges (key and length) whose bytes the
home slice then writes through to the host (R432); by a capacity drain. -/
inductive Carry where
  | home
  | system (through : List (Nat × Nat))
  | drain
deriving DecidableEq, Repr

/-- A byte of a host page in its home slice (R432): the strands whose stores it holds while it has not been written to the host. -/
structure HostB where
  key   : Nat
  val   : Byte
  dirty : Option (List Nat)
deriving DecidableEq, Repr

/-- A request of `xr.pub` (R439): the publication, its partition, base and length, and the pages of the region by their
physical addresses and key ids (`pageTag`). LEN 0 unbinds. -/
structure PubReq where
  pubid : Nat
  part  : Nat
  base  : Nat
  len   : Nat
  pages : List Nat
deriving DecidableEq, Repr

/-- An effect that leaves a quad (R413). -/
inductive EffKind where
  /-- Bytes that go home, and the fetched records of their grains (R234, R307). -/
  | turn (bytes : List HomeB) (rcds : List ScopeRec) (how : Carry)
  /-- The requests of an atomic at DIE scope or wider, or to a host page (R333, R337). -/
  | atomic (rs : List AtReq)
  /-- A mirror store (R299): offset and bytes. -/
  | mirror (off : Nat) (bytes : List Byte)
  /-- An arrival at a DIE, PKG or POD barrier (R285). -/
  | arrive (bar : Nat)
  /-- `cp.go` of a channel (R355). -/
  | cpGo (ch ident : Nat)
  /-- `ln.go` (R255): the 128 bytes of its LPB and the privilege of the launch. -/
  | lnGo (lpb : List Byte) (prv : Bool)
  /-- `tr.acq` of a token with an owner number (R313). -/
  | acq (token owner : Nat)
  /-- `tr.rel` of a token to the next owner (R314). -/
  | rel (token next : Nat)
  /-- `tr.lock` of a line, named by a virtual address (R319). -/
  | lock (line va : Nat)
  /-- `tr.unlock` of a line (R319). -/
  | unlock (line : Nat)
  /-- An interrupt to the host (R435). -/
  | intr (vec : Nat)
  /-- A fault-queue entry of the partition (R399). -/
  | fq (bytes : List Byte)
  /-- The retirement of the strand, at its `sy.end` or once it has been terminated (R263, R264). -/
  | retire (normal : Bool)
  /-- A publication (R439). -/
  | pub (r : PubReq)
  /-- The end of a partition's subscription (R440): publisher, publication and version word. -/
  | unsub (dev pubid vword : Nat)
  /-- A registration of a subscription with the publisher's module (R440). -/
  | sub (dev : Nat) (r : SubReq)
  /-- A contribution of a collective (R444). -/
  | coll (m : CollMsg)
deriving DecidableEq, Repr

/-- An effect on a platform: its number, strand, quad, the release tick of its span (R413) and what it does. -/
structure Eff where
  id   : Nat
  uid  : Nat
  quad : Nat
  tick : Nat
  kind : EffKind
deriving DecidableEq, Repr

/-- An `at` with NR = 1 that the strand has passed before its acknowledgement (R333): its effect once it has been handed, which waits for
the acknowledgements of older ones (R394, R414), the acquire that follows it, and the strand as it stood at the `at`. -/
structure Ahead where
  eff    : Option Nat
  req    : AtReq
  acq    : Bool
  strand : Strand
deriving DecidableEq, Repr

/-- A kept checkpoint of a quad (R410): its boundary tick, the quad's data, its strands, the poisoned words of its scratchpad, the open
retention windows of its crews, and the launches that have held a strand on the quad since (R416). The undo journal of the span that begins at it
keeps of the scratchpad (R412): `scratch`, the old bytes; `touched`, the sectors that have an entry; `cleared`, the bytes whose
mask bit is clear. -/
structure Ckpt where
  tick    : Nat
  data    : QuadData
  strands : List Strand
  scratch : List Host.Cell
  touched : List Nat
  cleared : List Nat
  poison  : List Nat
  windows : List (Nat × List (Nat × Nat × Nat))
  launches : List Word
deriving DecidableEq, Repr

/-- A quad (R6). `aging` tells that an aging sensor has flagged it, `agedAt` when (R479), `rolling` that it rolls back and
issues nothing (R416), `lastRel` is the tick of its last release (R419). `kept` holds the barriers of each saved partition that has left it (R407), `keptBad`
tells that they hold an uncorrectable error (R408). -/
structure Quad where
  id       : Nat
  d        : QuadData
  plat     : List Eff
  ckpts    : List Ckpt
  part     : Option Nat
  lentTo   : Option Nat
  aging    : Bool
  agedAt   : Nat
  rolling  : Bool
  lastRel  : Nat
  kept     : List (Nat × List Barrier)
  keptBad  : Bool
deriving DecidableEq, Repr

/-! ### The module -/

/-- A line present in a home slice (R294, R316, R327, R432), by its key / 512: its valid sectors, whether it is reserved and for which partition,
locked, the order of its last use, evict-first (R292), and for a reserved line the virtual address it was reserved under. -/
structure HLine where
  line    : Nat
  sectors : BitVec 16
  resv    : Option Nat
  locked  : Bool
  used    : Nat
  first   : Bool
  va      : Nat
deriving DecidableEq, Repr

/-- An entry of a bucket's table row that is not as at bring-up (R325), with the tick of its last move (R330). -/
structure Bucket where
  idx    : Nat
  slice  : Nat
  moving : Option Nat
  moves  : Nat
  last   : Option Nat
deriving DecidableEq, Repr

/-- How far a request on the fabric has come (R327 to R329, R340): on its way, waiting in its slice for a fill, refused, or
answered. -/
inductive ReqSt where
  | travel
  | waiting
  | refused (hint : Nat)
  | replied (vals : List Word)
deriving DecidableEq, Repr

/-- A request that combined at a station of a quad or of a link port (R339, R436): the local effect and the operand the passing request
carried. -/
structure Station where
  eff  : Eff
  a    : Word
  port : Bool
deriving DecidableEq, Repr

/-- A released effect on the fabric (R324), with the slices that its sender found in the table for its lines (R326). `entry` tells
that it holds an entry of a waiting room or of a senior queue (R327, R329), `turnNo` its place in the order of acceptance, and of
service once it is answered. -/
structure Req where
  eff      : Eff
  slices   : List (Nat × Nat)
  st       : ReqSt
  refusals : Nat
  combined : List Station
  mayComb  : Bool
  entry    : Bool
  turnNo   : Nat
deriving DecidableEq, Repr

/-- A park-table slot (R400, R401). -/
structure Parked where
  slot : Nat
  seq  : Nat
  uid  : Nat
deriving DecidableEq, Repr

/-- A partition (R250, R267, R381, R399, R472). `rot` gives, for a priority, the sequence number of the launch that was
served last (R265). -/
structure Part where
  id       : Nat
  setUp    : Bool
  quads    : List Nat
  plo      : Nat
  phi      : Nat
  pthresh  : Nat
  qways    : Nat
  tcount   : Nat
  tbase    : Nat
  ptroot   : BitVec 40
  asid     : BitVec 16
  vecbase  : Nat
  veccnt   : Nat
  fqint    : Bool
  fqbase   : BitVec 40
  fqsize   : BitVec 4
  fqhead   : BitVec 32
  fqtail   : BitVec 32
  fqwait   : List (List Byte)
  spillBase : Nat
  spillLen : Nat
  keymask  : Word
  dieBase  : Nat
  dieCnt   : Nat
  pkgBase  : Nat
  pkgCnt   : Nat
  podBase  : Nat
  podCnt   : Nat
  peers    : List PeerRange
  eps      : List (Nat × Endpoint)
  grants   : List (Nat × InGrant)
  parkSeq  : Nat
  parked   : List Parked
  restart  : List Nat
  halted   : Bool
  saved    : Bool
  launchSeq : Nat
  rot      : List (Nat × Nat)
deriving DecidableEq, Repr

/-- A crew (R249, R264): its launch, place, allotment and open retention windows (number, first and last address, R317).
`seq` is the order of placement; `depot` tells that its context is saved, `spilled` that it lies in the partition's spill area
(R268), `swapped` that it was saved by `sy.ctxsave` (R407), `stopping` that its strands have stopped and its save waits (R404, R420), `bad` that its
saved context holds an uncorrectable error (R408). -/
structure Crew where
  id      : Nat
  launch  : Word
  part    : Nat
  index   : Nat
  quad    : Nat
  base    : Nat
  nstr    : Nat
  abase   : Nat
  alen    : Nat
  flags   : BitVec 6
  faulted : Bool
  depot   : Bool
  seq     : Nat
  windows : List (Nat × Nat × Nat)
  scratch : List Host.Cell
  cbs     : List Cb
  memPoison : List Nat
  spilled : Bool
  swapped : Bool
  stopping : Bool
  bad     : Bool
deriving DecidableEq, Repr

/-- A dependence of a launch (R259): the virtual address of the word and whether DONE has been seen. -/
structure Dep where
  va  : Word
  met : Bool
deriving DecidableEq, Repr

/-- An active launch (R252 to R264): the fields of its LPB, its handle, what has been placed and what has retired. -/
structure Launch where
  handle  : Word
  part    : Nat
  entry   : Word
  param   : Word
  doneVa  : Word
  ncx     : Nat
  ncy     : Nat
  ncz     : Nat
  nstr    : Nat
  prio    : Nat
  tiles   : Nat
  prot    : Bool
  cores   : Bool
  nopre   : Bool
  sysrel  : Bool
  mirror  : Bool
  vlmin   : Nat
  vldes   : Nat
  spad    : Nat
  mgrp    : Nat
  deps    : List Dep
  prv     : Bool
  placed  : Nat
  retired : Nat
  normal  : Nat
  flags   : BitVec 6
  faulted : Bool
  ctxlost : Bool
  rolled  : Bool
deriving DecidableEq, Repr

/-- The state of a token (R311). -/
inductive TokSt where
  | handed (o : Nat)
  | held (o uid : Nat)
deriving DecidableEq, Repr

/-- A token that is not FREE (R311). -/
structure Token where
  idx : Nat
  st  : TokSt
deriving DecidableEq, Repr

/-- A request for a token in its order of arrival (R311, R313). -/
structure TokReq where
  idx   : Nat
  owner : Nat
  uid   : Nat
  eff   : Nat
deriving DecidableEq, Repr

/-- What an agenda entry makes happen next. The agenda is plain data: it says which agent moves (log 4). -/
inductive Act where
  /-- An event of the opcode table, or an instruction, happens. -/
  | ev (i : Instr)
  /-- Another strand becomes the current one. -/
  | select (uid : Nat)
  /-- The current strand's front end takes a step, whatever its streams hold. -/
  | front
  /-- The head of the current strand's vector or matrix stream is held, or let go. -/
  | hold (vec mat : Bool)
  /-- The checks of the current strand's oldest queued vector memory instruction are made before it is performed (R240). -/
  | precheck
  /-- The reference timer advances. -/
  | tick (n : Nat)
  /-- A line of clean copies is evicted. -/
  | evict (core : Option Nat) (key : Nat)
  /-- A line of a core's atomic cache is evicted (R334). -/
  | evictAtom (core key : Nat)
  /-- A home slice evicts a line of a host page (R432). -/
  | evictHost (key : Nat)
  /-- A home slice begins to write a line back (R328). -/
  | flush (line : Nat)
  /-- An uncorrectable error is found in a sector of the quad's caches (R398). -/
  | poisonQuad (key : Nat)
  /-- A TLB entry is evicted. -/
  | evictTlb (core va : Nat)
  /-- A byte of an outbound stage drains one stage outward (R228, R288). -/
  | drain (core : Option Nat) (key : Nat)
  /-- The scheduler offers a grant for a strand's next `sy.yield` (R155, R269). -/
  | offer (uid n : Nat)
  /-- The halves of the current strand's next instruction differ, at a unit and index (R422, R423). -/
  | mismatch (unit_ index : Nat)
  /-- An uncorrectable error is found in a 32-bit word of a strand's storage (R397). -/
  | poison (uid : Nat) (mark : PoisonMark)
  /-- An uncorrectable error is found in the 32-byte sector of memory that holds a key (R398). -/
  | poisonMem (key : Nat)
  /-- The host writes to a word between the tries of an emulated atomic from now on, or no longer (R433). -/
  | hostBusy (on : Bool)
  /-- The modules that links reach, and the ranges they have opened to this one (R429). -/
  | peers (links : List Nat) (opened : List PeerRange)
  /-- A kept checkpoint of a quad shows an uncorrectable error (R419). -/
  | ckptFail (quad tick : Nat)
  /-- The saved context of a crew shows an uncorrectable error (R408). -/
  | ctxFail (crew : Nat)
  /-- The saved barriers or controllers of a quad show an uncorrectable error (R408). -/
  | keptFail (quad : Nat)
  /-- A strand of another module arrives at a barrier of the pod, or configures it: its place among the eight (R278). -/
  | podArrive (bar : Nat)
  /-- The COUNT that another module gives a barrier of the pod (R278, R281). -/
  | podConfig (bar count : Nat)
  /-- Arrivals of another module's strands at a barrier of the pod are withdrawn (R278, R286). -/
  | podWithdraw (bar n : Nat)
  /-- Another module reads bytes of this module's memory (R429). -/
  | peerRead (dev pa n : Nat)
  /-- Bytes that another module's turn or release carries arrive at this module's memory (R429). -/
  | peerWrite (dev pa : Nat) (bytes : List Byte)
  /-- Another module's atomic arrives at this module's memory (R429, R436): where its strand stands, the word, its grain, the operation,
  width, operand, expected value, scope, and whether a mismatch traps. -/
  | peerAtomic (dev quad core pa grain op width : Nat) (v expect : Word) (scope : Nat) (trap : Bool)
  /-- The routing table that the lodge holds (R430). -/
  | routes (rs : List (Nat × Nat × Nat))
  /-- The host writes bytes of the request window (R469, R471). -/
  | barWrite (off : Nat) (bytes : List Byte)
  /-- The host reads bytes of the request window (R471). -/
  | barRead (off n : Nat)
  /-- A publish of another module reaches this one: publisher, publication, lines and version word (R439 to R441). -/
  | farDelivery (dev pubid : Nat) (ls : List (Nat × List Byte)) (version : Word)
  /-- The strap inputs, the SSDs present, the dies' idle spare quads, and a bring-up step that will fail with a status (R457,
  R466, R468, R479). -/
  | board (straps nssd : Nat) (spares : List Nat) (faulty : Option (Nat × Nat))
  /-- Bytes are written to a drive: SSD, namespace, logical block, offset (R457, R459). -/
  | drive (ssd nsid slba off : Nat) (bytes : List Byte)
  /-- The lodge lets a port honour pauses, or not (R446). -/
  | portPauses (port : Nat) (on : Bool)
  /-- The host masks a vector (R435). -/
  | maskVector (vec : Nat)
  /-- The host completes AtomicOps, or not (R433). -/
  | hostAtomics (on : Bool)
  /-- Outward effects travel step by step from now on, or at once again (log 6). -/
  | splitEffects (on : Bool)
deriving DecidableEq, Repr

/-- A protected-mode mismatch on record (R422): its strand, the dynamic instance, the unit and the index of R423. -/
structure MirRec where
  uid   : Nat
  inst  : Nat
  unit_ : Nat
  index : Nat
deriving DecidableEq, Repr

/-! ### Publications, the network, flash and the lodge -/

/-- A subscriber of a publication (R438 to R440): its slot, module, partition, version word and copy pages by physical
address with their key ids (`pageTag`), their virtual addresses, and whether it joined after the last publish. -/
structure Sub where
  slot  : Nat
  dev   : Nat
  part  : Nat
  vword : Nat
  pages : List Nat
  vva   : Nat
  va    : Nat
  fresh : Bool
deriving DecidableEq, Repr

/-- A subscription of this module to another module's publication (R440): publisher, publication, partition, version word and
copy pages as in `Sub`. -/
structure FarSub where
  dev   : Nat
  pubid : Nat
  part  : Nat
  vword : Nat
  pages : List Nat
  vva   : Nat
  va    : Nat
deriving DecidableEq, Repr

/-- A bound publication (R438). `dirty` lists the lines of the region whose bit is set, by line number; `seqNo` counts the
subscriptions (R440). -/
structure Pub where
  id      : Nat
  part    : Nat
  base    : Nat
  len     : Nat
  pages   : List Nat
  version : Nat
  seqNo   : Nat
  subs    : List Sub
  dirty   : List Nat
  drops   : Nat
deriving DecidableEq, Repr

/-- A publish under way (R439): its publication and version, the strand and effect that wait, for each subscriber not yet
served its slot and lines, and the number served. -/
structure PubRun where
  pubid   : Nat
  version : Nat
  uid     : Nat
  eff     : Nat
  todo    : List (Nat × List Nat)
  nsub    : Nat
deriving DecidableEq, Repr

/-- An unanswered datagram of a NETWR transfer (R448, R449): its transfer, its chunk or none for the signal, its UDP payload, and how
often it has been retransmitted. -/
structure DgOut where
  part  : Nat
  sep   : Nat
  seqNo : Nat
  uid   : Nat
  ch    : Nat
  ident : Nat
  chunk : Option Nat
  payload : List Byte
  tries : Nat
deriving DecidableEq, Repr

/-- The last SEQ used to an endpoint of a partition (R449). -/
structure DgSeq where
  part  : Nat
  sep   : Nat
  seqNo : Nat
deriving DecidableEq, Repr

/-- A datagram that the module has applied (R449). -/
structure DgKey where
  addr6 : Nat
  spart : Nat
  sep   : Nat
  seqNo : Nat
deriving DecidableEq, Repr

/-- An answer sent to a datagram: an acknowledgement, or a refusal, with its UDP payload (R449). -/
structure DgAns where
  dest    : DgKey
  ok      : Bool
  payload : List Byte
deriving DecidableEq, Repr

/-- An Ethernet port (R446, R473): its address, the frames dropped, whether it honours pauses, and the pauses in force: a priority and
the tick until which its frames wait. -/
structure Port where
  mac    : Nat
  addr6  : Nat
  drops  : Nat
  pauses : Bool
  paused : List (Nat × Nat)
deriving DecidableEq, Repr

/-- A registered image (R457 to R460): its slot and GEN, partition, drive and place, RAW, and the layout of its header. -/
structure Image where
  slot  : Nat
  gen   : Nat
  part  : Nat
  ssd   : Nat
  nsid  : Nat
  slba  : Nat
  raw   : Bool
  nblk  : Nat
  toff  : Nat
  doff  : Nat
  iid   : List Byte
deriving DecidableEq, Repr

/-- A slot of the host key map (R477). -/
structure KeySlot where
  slot : Nat
  base : Nat
  len  : Nat
  kid  : Nat
deriving DecidableEq, Repr

/-- The heat that a die's requests give a bucket (R330). -/
structure Heat where
  bucket : Nat
  die    : Nat
  count  : Nat
deriving DecidableEq, Repr

/-- A request of the host to the lodge (R469, R472 to R474, R477): its tag and the fields of its body. -/
inductive Request where
  | attest (tag : Word) (nonce : BitVec 256)
  | partitionSet (tag : Word) (body : PartBody)
  | partitionLend (tag : Word) (part borrower : Nat) (quads : List Nat)
  | partitionRecall (tag : Word) (part borrower : Nat) (quads : List Nat)
  | register (tag : Word) (part ssd : Nat) (raw : Bool) (nsid slba : Nat)
  | unregister (tag : Word) (handle : BitVec 32)
  | status (tag : Word)
  | extend (tag : Word) (slot : Nat) (digest : BitVec 256)
  | start (tag : Word) (part : Nat) (lpb : Word)
  | endpointSet (tag : Word) (part idx : Nat) (ep : Endpoint)
  | endpointClear (tag : Word) (part idx : Nat)
  | grant (tag : Word) (part idx : Nat) (gr : InGrant)
  | revoke (tag : Word) (part idx : Nat)
  | localAddress (tag : Word) (port mac addr6 : Nat)
  | keyGenerate (tag : Word) (keyid : Nat)
  | keyBind (tag : Word) (keyid hslot base len : Nat)
  | keyUnbind (tag : Word) (hslot : Nat)
  | malformed (tag : Word) (kind detail : Nat)
deriving DecidableEq, Repr

/-- The lodge (R466 to R473, R479, R480): the last bring-up step completed and the failing step's status, a step that will
fail with a status, the strap inputs, the measurement slots, the device description, the serial number, the SSDs present,
the SSDs enumerated at bring-up, the spare quads left on each die, the counts of the wear record, the exchange's sequence numbers, the
response, the bytes of the window's request area, and the requests that have arrived and are not yet served, in their order (R469,
R471). -/
structure Lodge where
  step    : Nat
  stat    : Nat
  faulty  : Option (Nat × Nat)
  straps  : Nat
  slots   : List (BitVec 256)
  desc    : List Byte
  serial  : Word
  hbm     : Word
  nssd    : Nat
  ssds    : Nat
  spares  : List Nat
  qrepl   : Nat
  sret    : Nat
  lrepl   : Nat
  reqSeq  : Word
  rspSeq  : Word
  resp    : List Byte
  area    : List Host.Cell
  waiting : List Request
deriving DecidableEq, Repr

/-- The module (R2) with everything attached to it that the spec gives state. `hostAtom` tells whether the host completes
AtomicOps (R433), `hostData` what the last host read returned (R431), `peerAns` the answer to the last access of another module (R429):
a status, 0 when it was accepted, and its words. `routes` is the lodge's routing table: module, lane and the link port of the path
(R430). `voided` keeps the joins of collectives that have mismatched, with the tick and the strand that found it (R444, R445). -/
structure State where
  cur       : Strand
  quad      : Quad
  strands   : List Strand
  quads     : List Quad
  mem       : List Host.Cell
  memPoison : List Nat
  hrecs     : List ScopeRec
  hostB     : List HostB
  lines     : List HLine
  useCtr    : Nat
  buckets   : List Bucket
  moveTick  : Option Nat
  timer     : Nat
  effSeq    : Nat
  ahead     : List Ahead
  reqs      : List Req
  fills     : List Nat
  flushes   : List Nat
  heatTick  : Nat
  parts     : List Part
  crews     : List Crew
  launches  : List Launch
  crewSeq   : Nat
  uidSeq    : Nat
  tokens    : List Token
  tokReqs   : List TokReq
  msixMask  : List Nat
  msixPend  : List Nat
  hostMsgs  : List Nat
  wideBars  : List Barrier
  devid     : Nat
  agenda    : List Act
  freeCtr   : Nat
  split     : Bool
  mirRecs   : List MirRec
  hostAtom  : Bool
  hostBusy  : Bool
  hostData  : List Byte
  heat      : List Heat
  pubs      : List Pub
  pubRuns   : List PubRun
  farSubs   : List FarSub
  colls     : List CollMsg
  voided    : List (Nat × Nat × CollMsg)
  links     : List Nat
  routes    : List (Nat × Nat × Nat)
  peerAns   : List Word
  opened    : List PeerRange
  dgOut     : List DgOut
  dgSeqs    : List DgSeq
  dgSeen    : List DgKey
  dgAns     : List DgAns
  ports     : List Port
  flash     : List Host.Cell
  images    : List Image
  imgGens   : List (Nat × Nat)
  keyGen    : List Nat
  lineKeys  : List (Nat × Nat)
  keyMap    : List KeySlot
  stretched : List Nat
  badSlices : List Nat
  lanes     : List (Nat × Nat)
  segments  : List Nat
  resends   : List (Nat × Nat)
  rowFixes  : List (Nat × Nat)
  lodge     : Lodge
deriving DecidableEq, Repr

/-! ### Reset -/

/-- A quad's data with nothing in it (R272, R280). -/
def QuadData.empty : QuadData :=
  { sem := 0, words := Vector.replicate 32 0, bars := [], out := [], copies := [], tlb := [],
    atoms := [], recs := [], cbs := [] }

/-- A quad as at reset. -/
def Quad.empty (q : Nat) : Quad :=
  { id := q, d := QuadData.empty, plat := [], ckpts := [], part := none, lentTo := none, aging := false,
    agedAt := 0, rolling := false, lastRel := 0, kept := [], keptBad := false }

/-- The registers of a strand that does not exist (R90; the values the spec does not give are log 1). -/
def Scalar.blank : Scalar :=
  { pc := 0, regs := Vector.replicate 32 0, mode := 0x40FC0, fpen := 0, tnest := 0, prv := false, rolled := false,
    vlcut := false, nr := false, prot := false, lcnt0 := 0, lend0 := ⟨0, 0⟩, lcnt1 := 0, lend1 := ⟨0, 0⟩, flags := 0,
    seed := 0x9E3779B97F4A7C15, vlc := 0, epc := 0, ecause := 0, eval := 0, einfo := 0, turnprg := 0, trbase := 0, esave := 0,
    tshape := 0x4040, scopectl := 0, scopelog := 0, retHit := 0, retMiss := 0, retOvf := 0, l2Hit := 0, l2Miss := 0, busy := 0,
    busyAddr := Vector.replicate 8 0, icount := 0 }

/-- The place of a strand that does not exist (log 1). -/
def Ident.blank : Ident :=
  { strid := 0, crewX := 0, crewY := 0, crewZ := 0, ncrewX := 0, ncrewY := 0, ncrewZ := 0, nstr := 0, quad := 0, core := 0,
    slot := 0, devid := 0, lparam := 0, mirgrp := 0, part := 0, crew := 0, abase := 0, alen := 0 }

/-- No strand. -/
def Strand.absent : Strand :=
  { uid := 0, sc := Scalar.blank, status := .absent, vlg := 32, rstix := 0, masks := Vector.replicate 8 0,
    v := Vector.replicate 32 0, ntiles := 0, tiles := Vector.replicate 8 0, q0 := [], q1 := [], q2 := [], q3 := [],
    ident := Ident.blank, marks := [], pend := [], ring := none, closed := [],
    chans := List.replicate 4 ⟨List.replicate 8 0, 1, 0, 0, 0, 0, 0, 0, none, []⟩, barRecs := [], arrs := [], poison := [],
    parkSeq := 0, parkSlot := none, handed := none, syncWait := false, deadline := none, vq := [], mq := [], vf := none,
    seqNo := 0, qlog := [], mlog := [], fences := [], sure := 0, wrote := [], inStream := 0, vHold := false, mHold := false, waiting := false, tried := false, saved := none,
    offer := none, mlines := [], tids := [], vat := none, owedMis := [], note := none }

/-- The lodge before its first bring-up step (R466 to R468, R471, R479). The straps, the serial number and the SSDs present
are log 20. -/
def Lodge.atReset : Lodge :=
  { step := 0, stat := 0, faulty := none, straps := 0, slots := List.replicate 16 0, desc := [], serial := 0, hbm := 2 ^ 40,
    nssd := 0, ssds := 0, spares := [4, 4, 4, 4], qrepl := 0, sret := 0, lrepl := 0, reqSeq := 0, rspSeq := 0, resp := [], area := [],
    waiting := [] }

/-- The module when its reset is released (R124, R466): no strand exists, and bring-up has still to run (log 3). -/
def State.reset : State :=
  { cur := Strand.absent, quad := Quad.empty 0, strands := [], quads := [], mem := [], memPoison := [], hrecs := [],
    hostB := [], ahead := [],
    lines := [], useCtr := 0, buckets := [], moveTick := none, timer := 0, effSeq := 0, reqs := [], fills := [], flushes := [], heatTick := 0, parts := [],
    crews := [], launches := [], crewSeq := 0, uidSeq := 0, tokens := [], tokReqs := [], msixMask := [], msixPend := [],
    hostMsgs := [], wideBars := [], devid := 0, agenda := [], freeCtr := 0, split := true, mirRecs := [], hostAtom := true,
    hostBusy := false, hostData := [], heat := [], pubs := [], pubRuns := [], farSubs := [], colls := [], voided := [], links := [], routes := [], peerAns := [],
    opened := [], dgOut := [], dgSeqs := [], dgSeen := [], dgAns := [], ports := List.replicate 8 ⟨0, 0, 0, false, []⟩,
    flash := [], images := [], imgGens := [], keyGen := [], lineKeys := [], keyMap := [], stretched := [], badSlices := [],
    lanes := [], segments := [], resends := [], rowFixes := [], lodge := Lodge.atReset }

end Sys2Proof.Machine
end

