-- ==== Sys2Proof/Machine/Base.lean ====
section
/-! DEFINITION. What a meaning is written in: how an instruction may end, the current strand's accessors, and lookups
over the module's lists. -/

namespace Sys2Proof.Machine

/-- Puts an item in front of the first one that it may precede. -/
def insertBy {α : Type} (le : α → α → Bool) (a : α) : List α → List α
  | [] => [a]
  | b :: r => if le a b then a :: b :: r else b :: insertBy le a r

/-- A list in the order `le`; items of one rank keep their order. -/
def sortBy {α : Type} (le : α → α → Bool) (l : List α) : List α := l.foldr (insertBy le) []

/-! ### Cause codes (R49) -/

def cILLEGAL : Nat := 0x01
def cPRIV : Nat := 0x02
def cMISALIGN : Nat := 0x03
def cPAGE_NP : Nat := 0x04
def cPAGE_PROT : Nat := 0x05
def cTURN_NEEDED : Nat := 0x06
def cSCOPE_MISMATCH : Nat := 0x07
def cACC_BUSY : Nat := 0x08
def cPOISON : Nat := 0x09
def cMIRROR : Nat := 0x0A
def cBOUNDS : Nat := 0x0B
def cHOST_ATOMIC : Nat := 0x0C
def cQDEADLOCK : Nat := 0x0D
def cFP_TRAP : Nat := 0x0E
def cSW_TRAP : Nat := 0x0F
def cBREAK : Nat := 0x10
def cLAUNCH : Nat := 0x11
def cCTX_LOST : Nat := 0x12
def cREGION : Nat := 0x13
def cPRIVATE_PAGE : Nat := 0x14
def cWINDOW : Nat := 0x15

/-- A raised cause: EVAL, EINFO and the restart element (R393, R396), and for the causes of an access its kind and
whether it writes (R387, R395). -/
structure Trap where
  cause : Nat
  eval  : Word
  einfo : Word
  rst   : Nat
  kind  : Nat
  wr    : Bool
deriving DecidableEq, Repr

/-- How an instruction ends without completing. -/
inductive Stop where
  /-- It raises a cause (R393). -/
  | trap (t : Trap)
  /-- Its strand parks on a page that is not resident (R401); `elt` tells that it goes on at element `rst`. -/
  | park (va : Word) (kind : Nat) (wr : Bool) (rst : Nat) (elt : Bool)
  /-- It waits and is executed again. -/
  | wait
deriving DecidableEq, Repr

/-- How an instruction that completes moves the PC (R92, R101, R104). -/
inductive Done where
  /-- To the next word, with the loop-end test. -/
  | adv
  /-- A taken transfer. -/
  | jump (t : Word)
  /-- To an address, with no test: `sy.eret`. -/
  | goto (t : Word)
  /-- Not at all: the instruction belongs to a stream, or ends the strand. -/
  | stay
deriving DecidableEq, Repr

/-- A meaning: a state transformer that may stop. What it wrote before a stop stands (R10). -/
abbrev M (α : Type) := EStateM Stop State α

/-- Raises a cause with EVAL and no EINFO content. -/
def raise {α : Type} (cause : Nat) (eval : Word) : M α := throw (.trap ⟨cause, eval, 0, 0, 15, false⟩)

/-- Raises a cause with EVAL, EINFO and a restart element. -/
def raiseAt {α : Type} (cause : Nat) (eval einfo : Word) (rst : Nat) : M α :=
  throw (.trap ⟨cause, eval, einfo, rst, 15, false⟩)

/-- Waits: the instruction is executed again later. -/
def block {α : Type} : M α := throw .wait

/-! ### The current strand -/

/-- Changes the current strand. -/
def State.modCur (s : State) (f : Strand → Strand) : State := { s with cur := f s.cur }

/-- Changes the current strand's scalar state. -/
def State.modSc (s : State) (f : Scalar → Scalar) : State := { s with cur := { s.cur with sc := f s.cur.sc } }

/-- Changes the current quad's data. -/
def State.modQ (s : State) (f : QuadData → QuadData) : State := { s with quad := { s.quad with d := f s.quad.d } }

/-- A scalar register; s0 reads as zero (R91). -/
def Scalar.reg (c : Scalar) (r : Reg) : Word := if r = 0 then 0 else c.regs.get r.toFin

/-- A scalar register written; s0 discards it (R91). -/
def Scalar.setReg (c : Scalar) (r : Reg) (v : Word) : Scalar :=
  if r = 0 then c else { c with regs := c.regs.set r.toNat v r.isLt }

/-- A scalar register of the current strand. -/
def State.reg (s : State) (r : Reg) : Word := s.cur.sc.reg r

/-- Writes a scalar register of the current strand; a write of the whole register clears its poison (R397). -/
def State.setReg (s : State) (r : Reg) (v : Word) : State :=
  { s with cur := { s.cur with sc := s.cur.sc.setReg r v
                               poison := s.cur.poison.filter (fun p => !(p.kind == 0 && p.reg == r.toNat)) } }

/-- The scalar register holds no poisoned word (R397). -/
def State.clean (s : State) (r : Reg) : Bool := !s.cur.poison.any (fun p => p.kind == 0 && p.reg == r.toNat)

/-- A queued `vm.pop` or `vm.first` has still to write the register (R157). -/
def State.owed (s : State) (r : Reg) : Bool :=
  s.cur.inStream == 0 && r != 0 && s.cur.vq.any (fun e =>
    match e.instr with
    | .vmPop d _ => d == r
    | .vmFirst d _ => d == r
    | _ => false)

/-- Waits while a queued vector instruction has still to write the register (R157). -/
def ready (r : Reg) : M Unit := do
  let s ← get
  if s.owed r then throw .wait else pure ()

/-- Reads a scalar register; a poisoned word raises POISON with its number (R397). -/
def rd (r : Reg) : M Word := do
  let s ← get
  if s.owed r then throw .wait
  else if s.clean r then pure (s.reg r) else raise cPOISON (BitVec.ofNat 64 r.toNat)

/-- The value of a scalar register whose poison the instruction tests later, at its place in the order of R50. -/
def rv (r : Reg) : M Word := do
  let s ← get
  if s.owed r then throw .wait else pure (s.reg r)

/-- POISON of the first poisoned register among an instruction's operands (R50, R397). -/
def sound (rs : List Reg) : M Unit := do
  let s ← get
  match rs.find? (fun r => !s.clean r) with
  | some r => raise cPOISON (BitVec.ofNat 64 r.toNat)
  | none => pure ()

/-- The strand has passed an `at` that has not been acknowledged (R333). -/
def State.isAhead (s : State) (uid : Nat) : Bool := s.ahead.any (fun a => a.strand.uid == uid)

/-- A store, an atomic or another effect outside the strand waits for the acknowledgement of every `at` that the strand has passed
(R333). -/
def behindAt : M Unit := do
  let s ← get
  if s.isAhead s.cur.uid then throw .wait else pure ()

/-- Writes a scalar register. -/
def wr (r : Reg) (v : Word) : M Unit := modify (fun s => s.setReg r v)

/-- The current strand's scalar state. -/
def sc : M Scalar := do
  let s ← get
  pure s.cur.sc

/-- Changes the current strand's scalar state. -/
def modSc (f : Scalar → Scalar) : M Unit := modify (fun s => s.modSc f)

/-- Changes the current strand. -/
def modCur (f : Strand → Strand) : M Unit := modify (fun s => s.modCur f)

/-- ORs conditions into FLAGS (R140). -/
def orFlags (f : BitVec 6) : M Unit := modSc (fun c => { c with flags := c.flags ||| f })

/-- A word of a natural number. -/
def w64 (n : Nat) : Word := BitVec.ofNat 64 n

/-- A boolean as 0 or 1. -/
def wBool (b : Bool) : Word := if b then 1 else 0

/-- Bit i of a word. -/
def bitOf (w : Word) (i : Nat) : Bool := w.getLsbD i

/-- Bits hi down to lo of a word, as a number. -/
def bitsOf (w : Word) (hi lo : Nat) : Nat := w.toNat / 2 ^ lo % 2 ^ (hi + 1 - lo)

/-! ### Other strands and quads -/

/-- The strand named `uid`: the current one or one of the list. -/
def State.strand? (s : State) (uid : Nat) : Option Strand :=
  if s.cur.uid = uid ∧ s.cur.status ≠ .absent then some s.cur else s.strands.find? (fun x => x.uid == uid)

/-- Changes the strand named `uid`. -/
def State.modStrand (s : State) (uid : Nat) (f : Strand → Strand) : State :=
  if s.cur.uid = uid ∧ s.cur.status ≠ .absent then { s with cur := f s.cur }
  else { s with strands := s.strands.map (fun x => if x.uid = uid then f x else x) }

/-- Every strand. -/
def State.all (s : State) : List Strand := if s.cur.status = .absent then s.strands else s.cur :: s.strands

/-- Changes every strand. -/
def State.mapStrands (s : State) (f : Strand → Strand) : State :=
  { s with cur := f s.cur, strands := s.strands.map f }

/-- A strand stands on a quad (its context is not in a depot). -/
def Strand.onQuad (x : Strand) (q : Nat) : Bool :=
  x.ident.quad == q && (x.status == .running || x.status == .parked || x.status == .halted || x.status == .ending)

/-- The strands of quad q. -/
def State.residents (s : State) (q : Nat) : List Strand := s.all.filter (fun x => x.onQuad q)

/-- Quad q: the current one, one of the list, or as at reset. -/
def State.getQuad (s : State) (q : Nat) : Quad :=
  if s.quad.id = q then s.quad else (s.quads.find? (fun x => x.id == q)).getD (Quad.empty q)

/-- Replaces quad q. -/
def State.setQuad (s : State) (x : Quad) : State :=
  if s.quad.id = x.id then { s with quad := x }
  else if s.quads.any (fun y => y.id == x.id) then
    { s with quads := s.quads.map (fun y => if y.id = x.id then x else y) }
  else { s with quads := s.quads ++ [x] }

/-- Changes quad q. -/
def State.modQuad (s : State) (q : Nat) (f : Quad → Quad) : State := s.setQuad (f (s.getQuad q))

/-- Changes the data of quad q, in the quad and in every checkpoint it keeps: what engines and the outside bring stands
across a rollback (R412, R418, R481). -/
def State.modQuadAll (s : State) (q : Nat) (f : QuadData → QuadData) : State :=
  s.modQuad q (fun x => { x with d := f x.d, ckpts := x.ckpts.map (fun c => { c with data := f c.data }) })

/-- Changes strand `uid`, and its copies: in every checkpoint of its quad, and at an `at` that it has passed (R333, R378). -/
def State.modStrandAll (s : State) (uid : Nat) (f : Strand → Strand) : State :=
  match s.strand? uid with
  | none => s
  | some x =>
    let t := s.modStrand uid f
    ({ t with ahead := t.ahead.map (fun (a : Ahead) =>
      if a.strand.uid = uid then ({ a with strand := f a.strand } : Ahead) else a) } : State).modQuad x.ident.quad (fun q =>
      { q with ckpts := q.ckpts.map (fun c =>
          { c with strands := c.strands.map (fun y => if y.uid = uid then f y else y) }) })

/-- The reply to effect `id` reaches strand `uid`, in its checkpoints too (R418). -/
def State.reply (s : State) (uid id : Nat) (ws : List Word) : State :=
  s.modStrandAll uid (fun x =>
    match x.handed with
    | some h => if h.id = id then { x with handed := some ⟨id, some ws⟩, waiting := false } else x
    | none => x)

/-- Makes strand `uid` the current one; its quad becomes the current quad. -/
def State.select (s : State) (uid : Nat) : State :=
  match s.strands.find? (fun x => x.uid == uid) with
  | none => s
  | some x =>
    let rest := s.strands.filter (fun y => !(y.uid == uid))
    let s1 := { s with strands := if s.cur.status = .absent then rest else rest ++ [s.cur], cur := x }
    if s1.quad.id = x.ident.quad then s1
    else
      let q := s1.getQuad x.ident.quad
      { s1 with quad := q, quads := s1.quad :: s1.quads.filter (fun y => !(y.id == q.id) && !(y.id == s1.quad.id)) }

/-- Runs a change as if strand `uid` were the current one. -/
def State.as (s : State) (uid : Nat) (f : State → State) : State :=
  if s.cur.uid = uid ∧ s.cur.status ≠ .absent then f s
  else if s.strands.any (fun x => x.uid == uid) then
    let t := f (s.select uid)
    if s.cur.status = .absent then { t with strands := t.strands ++ [t.cur], cur := s.cur } else t.select s.cur.uid
  else s

/-- The partition of a number. -/
def State.part? (s : State) (p : Nat) : Option Part := s.parts.find? (fun x => x.id == p && x.setUp)

/-- Changes partition p. -/
def State.modPart (s : State) (p : Nat) (f : Part → Part) : State :=
  { s with parts := s.parts.map (fun x => if x.id = p then f x else x) }

/-! ### Scopes and placements (R5, R6) -/

/-- COREID of a strand (R251). -/
def Ident.coreid (i : Ident) : Nat := 4 * i.quad + i.core

/-- DIEID of a quad: 36 quads a die (R6). -/
def dieOf (quad : Nat) : Nat := quad / 36

/-- The instance of scope k that holds a placement: COREID, QUADID, DIEID, DEVID, 0 for POD (R305). -/
def scopeDom (k : Nat) (i : Ident) : Nat :=
  match k with
  | 1 => i.coreid
  | 2 => i.quad
  | 3 => dieOf i.quad
  | 4 => i.devid
  | _ => 0

/-- The level a release at scope k turns to (R302): CORE, QUAD, HOME or SYSTEM. -/
def relLevel (k : Nat) : Nat :=
  match k with
  | 1 => 0
  | 2 => 1
  | 5 => 3
  | _ => 2

/-! ### MODE (R43, R44) -/

/-- MODE as a number. -/
def Scalar.md (c : Scalar) : Nat := c.mode.toNat
/-- G. -/
def modeG (m : Nat) : Nat := m % 8
/-- GN. -/
def modeGN (m : Nat) : Bool := m / 8 % 2 == 1
/-- ETA. -/
def modeETA (m : Nat) : Nat := m / 16 % 16
/-- ETB. -/
def modeETB (m : Nat) : Nat := m / 256 % 16
/-- RND. -/
def modeRND (m : Nat) : Nat := m / 4096 % 8
/-- SAT. -/
def modeSAT (m : Nat) : Bool := m / 32768 % 2 == 1
/-- GRP as a group size 1, 2, 4 or 8. -/
def modeGRP (m : Nat) : Nat := 2 ^ (m / 65536 % 4)
/-- SCP. -/
def modeSCP (m : Nat) : Nat := m / 262144 % 8
/-- POL. -/
def modePOL (m : Nat) : Nat := m / 2097152 % 4
/-- ZM. -/
def modeZM (m : Nat) : Bool := m / 8388608 % 2 == 1

/-- MODE at a strand's start and at trap entry (R43). -/
def modeReset : BitVec 25 := 0x40FC0

end Sys2Proof.Machine
end

