-- ==== Sys2Proof/Machine/Memory.lean ====
section
/-! DEFINITION. Memory: every byte of the module and of what is attached to it, in one list in canonical form. A byte's
key is its home code (R383: 0 local, 1 host, 2 peer) times 2^52 plus its physical address; home code 3 holds the
scratchpads, 2 MiB for each quad (R297). A byte that nothing has written reads as 0 (log 2). -/

namespace Sys2Proof.Machine

/-- The memory list. -/
abbrev Memory := List Host.Cell

/-- What an unlisted byte reads as. DESIGN CHOICE (log 2). -/
def unlisted : Byte := 0

/-- Canonical form: keys strictly rising from `lo`, no byte equal to what an unlisted one reads as. -/
def memWfFrom (lo : Nat) : Memory → Bool
  | [] => true
  | (a, b) :: r => decide (lo ≤ a) && decide (b ≠ unlisted) && memWfFrom (a + 1) r

/-- Canonical form of a memory. -/
def Memory.wf (m : Memory) : Bool := memWfFrom 0 m

/-- The byte at a key. -/
def memGet : Memory → Nat → Byte
  | [], _ => unlisted
  | (a, b) :: r, k => if a = k then b else if k < a then unlisted else memGet r k

/-- Writes the byte at a key and keeps the canonical form. -/
def memSet : Memory → Nat → Byte → Memory
  | [], k, v => if v = unlisted then [] else [(k, v)]
  | (a, b) :: r, k, v =>
    if k < a then (if v = unlisted then (a, b) :: r else (k, v) :: (a, b) :: r)
    else if k = a then (if v = unlisted then r else (k, v) :: r)
    else (a, b) :: memSet r k v

/-- The n bytes from a key. -/
def memGetN (m : Memory) : Nat → Nat → List Byte
  | _, 0 => []
  | k, n + 1 => memGet m k :: memGetN m (k + 1) n

/-- Writes bytes from a key up. -/
def memSetN (m : Memory) : Nat → List Byte → Memory
  | _, [] => m
  | k, b :: r => memSetN (memSet m k b) (k + 1) r

/-- The little-endian value of bytes (R7). -/
def leNat : List Byte → Nat
  | [] => 0
  | b :: r => b.toNat + 256 * leNat r

/-- The n little-endian bytes of a number (R7). -/
def leBytes : Nat → Nat → List Byte
  | 0, _ => []
  | n + 1, v => BitVec.ofNat 8 v :: leBytes n (v / 256)

/-- The key of a physical address at a home (R383). -/
def homeKey (home pa : Nat) : Nat := home * 2 ^ 52 + pa

/-- The key of byte `off` of quad q's scratchpad (R297). -/
def scratchKey (q off : Nat) : Nat := 3 * 2 ^ 52 + q * 2 ^ 21 + off

/-- The home code of a key: 0 local, 1 host, 2 peer, 3 a scratchpad. -/
def keyHome (k : Nat) : Nat := k / 2 ^ 52

/-- The physical address of a key. -/
def keyPa (k : Nat) : Nat := k % 2 ^ 52

/-- The n bytes of memory from a key. -/
def State.memRead (s : State) (k n : Nat) : List Byte := memGetN s.mem k n

/-- The 64-bit word of memory at a key, as the page walker and the engines read it (R382). -/
def State.memWord (s : State) (k : Nat) : Word := w64 (leNat (memGetN s.mem k 8))

/-- The scratchpad bytes of quad q in a checkpoint's copy. -/
def scratchCells (m : Memory) (q : Nat) : Memory :=
  m.filter (fun c => decide (scratchKey q 0 ≤ c.1) && decide (c.1 < scratchKey q 0 + 2 ^ 21))

/-- Sectors of 32 bytes that bytes written from key k up cover whole (R398). -/
def wholeSectors (k n : Nat) : List Nat :=
  (List.range (n / 32 + 2)).filterMap (fun i =>
    let sct := k / 32 + i
    if k ≤ 32 * sct ∧ 32 * sct + 32 ≤ k + n then some sct else none)

/-- A byte of a scratchpad written from outside the quad's strands, as a span's journal takes it (R412): it clears the mask bit of an entry
for its sector, and is an old byte for an entry still to be made. -/
def Ckpt.outside (c : Ckpt) (k : Nat) (v : Byte) : Ckpt :=
  if c.touched.contains (k / 32) then (if c.cleared.contains k then c else { c with cleared := k :: c.cleared })
  else { c with scratch := memSet c.scratch k v }

/-- Writes scratchpad bytes from outside the quad's strands: no rollback takes them back (R412). -/
def State.scratchWrite (s : State) (q off : Nat) (bs : List Byte) : State :=
  let k := scratchKey q off
  let ws := wholeSectors k bs.length
  let heal (l : List Nat) : List Nat := l.filter (fun p => !ws.contains (p / 8))
  let s1 := { s with mem := memSetN s.mem k bs, memPoison := heal s.memPoison }
  s1.modQuad q (fun x =>
    { x with ckpts := x.ckpts.map (fun c =>
        { bs.zipIdx.foldl (fun (c : Ckpt) b => c.outside (k + b.2) b.1) c with poison := heal c.poison }) })

/-- The quad whose scratchpad holds a key. -/
def scratchQuad (k : Nat) : Nat := (k - scratchKey 0 0) / 2 ^ 21

/-- The quad's own strands write scratchpad bytes: the first write to a sector in the present span makes a journal entry (R412). -/
def State.journal (s : State) (k n : Nat) : State :=
  if keyHome k ≠ 3 then s
  else
    let scts := (List.range (n / 32 + 2)).filterMap (fun i => if 32 * (k / 32 + i) < k + n then some (k / 32 + i) else none)
    s.modQuad (scratchQuad k) (fun q =>
      match q.ckpts with
      | [] => q
      | c :: r => { q with ckpts := { c with touched := scts.filter (fun i => !c.touched.contains i) ++ c.touched } :: r })

/-- The 512-byte lines of local memory of which writing bytes from key k up changes a byte. -/
def changedLines (m : Memory) (k : Nat) (bs : List Byte) : List Nat :=
  if keyHome k ≠ 0 then []
  else (bs.zipIdx.filterMap (fun p => if memGet m (k + p.2) = p.1 then none else some ((k + p.2) / 512))).eraseDups

/-- A local page or word as a publication keeps it: its physical address and its key id. -/
def pageTag (kid pa : Nat) : Nat := kid * 2 ^ 52 + pa
/-- The physical address. -/
def tagPa (g : Nat) : Nat := g % 2 ^ 52
/-- The key id. -/
def tagKid (g : Nat) : Nat := g / 2 ^ 52

/-- Line l lies in the region of a publication (R438). -/
def Pub.covers (p : Pub) (l : Nat) : Bool := p.pages.any (fun g => tagPa g == l / 8 * 4096)

/-- Sets the dirty bits of changed lines in every publication that covers them (R438). -/
def Pub.soil (ls : List Nat) (p : Pub) : Pub :=
  { p with dirty := p.dirty ++ ls.filter (fun l => p.covers l && !p.dirty.contains l) }

/-- Writes bytes at their home; a whole sector written loses its poison (R398), a publication's lines become dirty where a byte changes
(R438), and a scratchpad sector enters its quad's journal (R412). -/
def State.memWrite (s0 : State) (k : Nat) (bs : List Byte) : State :=
  let ws := wholeSectors k bs.length
  let s := s0.journal k bs.length
  { s with mem := memSetN s.mem k bs, memPoison := s.memPoison.filter (fun p => !ws.contains (p / 8)),
           pubs := s.pubs.map (Pub.soil (changedLines s.mem k bs)) }

/-- The sectors of 32 bytes of which every byte is among some keys. -/
def fullSectors (ks : List Nat) : List Nat :=
  (ks.map (fun k => k / 32)).eraseDups.filter (fun c => (List.range 32).all (fun i => ks.contains (32 * c + i)))

/-- Writes bytes at their homes; a sector that they cover whole loses its poison (R398). -/
def State.putBytes (s : State) (bs : List (Nat × Byte)) : State :=
  let t := bs.foldl (fun (s : State) b => s.memWrite b.1 [b.2]) s
  let ws := fullSectors (bs.map (·.1))
  { t with memPoison := t.memPoison.filter (fun p => !ws.contains (p / 8)) }

/-- Marks 32-bit words of memory poisoned. -/
def State.spoilWords (s : State) (ws : List Nat) : State :=
  { s with memPoison := ws.filter (fun w => !s.memPoison.contains w) ++ s.memPoison }

/-- Poisons the sector of a byte at its home: its eight words (R398, log 29). -/
def State.spoil (s : State) (k : Nat) : State := s.spoilWords ((List.range 8).map (fun i => k / 32 * 8 + i))

/-! ### Host pages in their home slices (R432) -/

/-- A byte of a host page as its home slice holds it, or as the host does. -/
def State.hostByte (s : State) (k : Nat) : Byte :=
  match s.hostB.find? (fun b => b.key == k) with
  | some b => b.val
  | none => memGet s.mem k

/-- n bytes as they read at their home. -/
def State.homeBytes (s : State) (k n : Nat) : List Byte :=
  if keyHome k = 1 then (List.range n).map (fun i => s.hostByte (k + i)) else s.memRead k n

/-- A read of n bytes of a host page fills their home slice. -/
def State.hostFill (s : State) (k n : Nat) : State :=
  if keyHome k ≠ 1 then s
  else
    let new_ := (List.range n).filter (fun i => !s.hostB.any (fun b => b.key == k + i))
    { s with hostB := s.hostB ++ new_.map (fun i => HostB.mk (k + i) (memGet s.mem (k + i)) none) }

/-- Bytes of host pages reach their home slice, with the strands whose stores they hold; the slice writes them to the host later, and owes a
byte that it replaces to its strands too. -/
def State.hostPut (s : State) (bs : List HomeB) : State :=
  let owners (b : HomeB) : List Nat :=
    match (s.hostB.find? (fun h => h.key == b.key)).bind (·.dirty) with
    | some us => b.owners ++ us.filter (fun u => !b.owners.contains u)
    | none => b.owners
  { s with hostB := s.hostB.filter (fun h => !bs.any (fun b => b.key == h.key)) ++
      bs.map (fun b => HostB.mk b.key b.val (some (owners b))) }

/-- The home slices write the chosen ones of the bytes they owe to the host. -/
def State.hostOut (s : State) (p : HostB → Bool) : State :=
  let go := s.hostB.filter (fun b => b.dirty.isSome && p b)
  { s with mem := go.foldl (fun m b => memSet m b.key b.val) s.mem,
           hostB := s.hostB.map (fun b => if b.dirty.isSome && p b then { b with dirty := none } else b) }

/-- A byte of a host page lies in a range. -/
def HostB.within (k n : Nat) (b : HostB) : Bool := decide (k ≤ b.key) && decide (b.key < k + n)

/-- The valid sectors of a host line are those whose bytes the slice holds; a line with none is not present (R294). -/
def State.hostTidy (s : State) : State :=
  { s with lines := s.lines.filterMap (fun x =>
      if x.line / 2 ^ 43 ≠ 1 then some x
      else
        let here := (List.range 16).filter (fun i => s.hostB.any (HostB.within (512 * x.line + 32 * i) 32))
        if here.isEmpty then none
        else some { x with sectors := x.sectors &&& here.foldl (fun m i => m ||| BitVec.ofNat 16 (2 ^ i)) 0 }) }

/-- The home slices drop those of n bytes from a key that they have written out. -/
def State.hostDrop (s : State) (k n : Nat) : State :=
  ({ s with hostB := s.hostB.filter (fun b => b.dirty.isSome || !b.within k n) }).hostTidy

/-! ### Memory keys (R477) -/

/-- The key id that a key id acts as: one never generated acts as 0. -/
def State.actKid (s : State) (kid : Nat) : Nat := if s.keyGen.contains kid then kid else 0

/-- The key id under which a line of local memory was written last. -/
def State.lineKid (s : State) (line : Nat) : Nat :=
  ((s.lineKeys.find? (fun p => p.1 == line)).map (·.2)).getD 0

/-- Bytes at a local key are held under another key than `kid` acts as. -/
def State.otherKey (s : State) (kid key : Nat) : Bool :=
  keyHome key == 0 && s.actKid (s.lineKid (key / 512)) != s.actKid kid

/-- n unrelated bytes. -/
def State.freeBytes (s : State) (n : Nat) : List Byte × State :=
  ((List.range n).map (fun i => Config.freeByte (s.freeCtr + i)), { s with freeCtr := s.freeCtr + n })

/-- n bytes within a line as they read under a key id: bytes written under another key read as unrelated ones. -/
def State.keyRead (s : State) (kid key n : Nat) : List Byte × State :=
  if s.otherKey kid key then s.freeBytes n else (s.homeBytes key n, s)

/-- A line is about to be written under a key id: what it holds under another key becomes unrelated bytes. -/
def State.keyWrite (s : State) (kid key : Nat) : State :=
  if keyHome key ≠ 0 then s
  else
    let line := key / 512
    let s1 := if s.otherKey kid key then
        let f := s.freeBytes 512
        f.2.memWrite (512 * line) f.1
      else s
    if s.lineKid line = kid then s1
    else
      let rest := s1.lineKeys.filter (fun p => p.1 != line)
      { s1 with lineKeys := if kid = 0 then rest else (line, kid) :: rest }

/-- A byte lies in a poisoned word (R398). -/
def State.poisonedAt (s : State) (k : Nat) : Bool := s.memPoison.contains (k / 4)

end Sys2Proof.Machine
end

