-- ==== Sys2Proof/Machine/Operands.lean ====
section
/-! DEFINITION. Elements of register groups, masks, the guard, and poisoned words of the vector file (R158 to R162, R188,
R368, R397). -/

namespace Sys2Proof.Machine

/-! ### Bits of a register -/

/-- w bits of a number from bit `off`. -/
def bitsAt (x off w : Nat) : Nat := x / 2 ^ off % 2 ^ w

/-- The place in program order of the instruction that executes: a stream's head, or the front end's. -/
def Strand.at_ (x : Strand) : Nat :=
  match (match x.inStream with | 1 => x.vq.head? | 2 => x.mq.head? | _ => none) with
  | some e => e.seq
  | none => x.seqNo

/-- Register n is one of the ring's buffers (R180). -/
def Ring.holds (r : Ring) (n : Nat) : Bool := decide (r.f ≤ n) && decide (n < r.f + r.c * r.g)

/-- The ring, open or closed since, whose buffer register n is for the instruction that executes (R181, R184). -/
def Strand.ringOf (x : Strand) (n : Nat) : Option Ring :=
  (x.ring.toList ++ x.closed).find? (fun r => r.holds n && decide (r.seq ≤ x.at_))

/-- Replaces w bits of a register from bit `off`. -/
def putBits {n : Nat} (r : BitVec n) (off w v : Nat) : BitVec n :=
  (r &&& ~~~(BitVec.ofNat n ((2 ^ w - 1) * 2 ^ off))) ||| BitVec.ofNat n (v % 2 ^ w * 2 ^ off)

/-- Where element e of width w stands in the group from register n of `size` bits: its register and its first bit (R158). -/
def placeIn (size n w e : Nat) : Nat × Nat :=
  if size = 0 then (n, 0) else (n + e * w / size, e * w % size)

/-- Where element e of width w stands in the group from register n: its register and its first bit (R158). -/
def Strand.place (x : Strand) (n w e : Nat) : Nat × Nat := placeIn (32 * x.vlg) n w e

/-! ### Strips in a ring's buffers (R182) -/

/-- Register n is one of the registers of buffer b. -/
def Ring.inBuf (r : Ring) (b n : Nat) : Bool := decide (r.f + b * r.g ≤ n) && decide (n < r.f + (b + 1) * r.g)

/-- A 32-bit word of a ring's registers written, with whether it is poisoned (R182). -/
def Ring.putWord (r : Ring) (n k v : Nat) (bad : Bool) : Ring :=
  { r with data := r.data.set (n - r.f) (putBits (r.data.getD (n - r.f) 0) (32 * k) 32 v)
           bad := if bad then (n, k) :: r.bad else r.bad }

/-- A buffer's registers with nothing in them. -/
def Ring.clearBuf (r : Ring) (b : Nat) : Ring :=
  { r with data := r.data.zipIdx.map (fun d => if r.inBuf b (r.f + d.2) then 0 else d.1), bad := r.bad.filter (fun k => !r.inBuf b k.1) }

/-- The words of four bytes of an element position. -/
def stripWords : List (Byte × Bool) → List (Nat × Bool)
  | a :: b :: c :: d :: r =>
    (leNat [a.1, b.1, c.1, d.1], a.2 || b.2 || c.2 || d.2) :: stripWords r
  | _ => []

/-- A strip's bytes stand in its buffer: a poisoned byte marks its word, and what lies above the strip is zero (R182). -/
def Ring.install (size : Nat) (r : Ring) (buf : Nat) (els : List (List (Byte × Bool))) : Ring :=
  els.zipIdx.foldl (fun (q : Ring) el =>
    let p := placeIn size (r.f + buf * r.g) (32 * r.g) el.2
    (stripWords el.1).zipIdx.foldl (fun (q : Ring) k => q.putWord p.1 (p.2 / 32 + k.2) k.1.1 k.1.2) q) (r.clearBuf buf)

/-- The strips whose bytes are still on their way. -/
def Ring.due (r : Ring) : List Strip := r.strips.filter (fun t => t.got.isNone)

/-- The ring as an instruction at place p sees it: with the strips that have arrived of loads that are not younger. -/
def Ring.seen (r : Ring) (size p : Nat) : Ring :=
  r.strips.foldl (fun (q : Ring) t =>
    match t.got with
    | some els => if t.seq ≤ p then q.install size t.buf els else q
    | none => q) r

/-- The ring, open or closed since, whose buffer register n is for the instruction that executes, as that sees it (R181, R184). -/
def Strand.ringSeen (x : Strand) (n : Nat) : Option Ring := (x.ringOf n).map (fun r => r.seen (32 * x.vlg) x.at_)

/-- Register n of the file, or of a ring's buffer (R184). -/
def Strand.vreg (x : Strand) (n : Nat) : BitVec 16384 :=
  match x.ringSeen n with
  | some r => r.data.getD (n - r.f) 0
  | none => if h : n < 32 then x.v.get ⟨n, h⟩ else 0

/-- A word of register n is poisoned (R397). -/
def Strand.wordPoison (x : Strand) (n k : Nat) : Bool :=
  match x.ringSeen n with
  | some r => r.bad.contains (n, k)
  | none => x.poison.any (fun m => m.kind == 1 && m.reg == n && m.word == k)

/-- Bits lo to hi - 1 of a register are written: a poisoned word of which the executing instruction has written every bit is poisoned
no longer (R397). -/
def Strand.covered (x : Strand) (kind reg lo hi : Nat) : Strand :=
  (x.poison.filter (fun m => m.kind == kind && m.reg == reg && decide (lo < 32 * m.word + 32) && decide (32 * m.word < hi))).foldl
    (fun (y : Strand) m =>
      let a := max lo (32 * m.word) - 32 * m.word
      let b := min hi (32 * m.word + 32) - 32 * m.word
      let old := ((y.wrote.find? (fun k => k.1 == m)).map (·.2)).getD 0
      let all := old ||| (2 ^ b - 2 ^ a)
      let rest := y.wrote.filter (fun k => k.1 != m)
      if all = 2 ^ 32 - 1 then { y with poison := y.poison.filter (fun k => k != m), wrote := rest }
      else { y with wrote := (m, all) :: rest }) x

/-- Writes register n. -/
def Strand.setVreg (x : Strand) (n : Nat) (b : BitVec 16384) : Strand :=
  if h : n < 32 then { x with v := x.v.set n b h } else x

/-- Element e of width w of the group from register n (R158). -/
def Strand.elt (x : Strand) (n w e : Nat) : Nat :=
  let p := x.place n w e
  bitsAt (x.vreg p.1).toNat p.2 w

/-- The words of 32 bits that w bits from bit `off` touch. -/
def wordsOf (off w : Nat) : List Nat := (List.range ((w + 31) / 32)).map (off / 32 + ·)

/-- Writes element e; words that the instruction has covered whole lose their poison (R397). -/
def Strand.setElt (x : Strand) (n w e v : Nat) : Strand :=
  let p := x.place n w e
  (x.setVreg p.1 (putBits (x.vreg p.1) p.2 w v)).covered 1 p.1 p.2 (p.2 + w)

/-- The register of element e, when a word of the element is poisoned (R397). -/
def Strand.eltPoison (x : Strand) (n w e : Nat) : Option Nat :=
  let p := x.place n w e
  if (wordsOf p.2 w).any (fun k => x.wordPoison p.1 k) then some p.1 else none

/-- The registers of a closed ring's buffers keep their contents and become ordinary registers (R181). -/
def Strand.openUp (x : Strand) (c : Ring) : Strand :=
  let r := c.seen (32 * x.vlg) c.stop
  let y := r.data.zipIdx.foldl (fun (y : Strand) d =>
    if h : r.f + d.2 < 32 then { y with v := y.v.set (r.f + d.2) d.1 h } else y) x
  { y with poison := r.bad.map (fun b => ⟨1, b.1, b.2⟩) ++ y.poison.filter (fun k => !(k.kind == 1 && r.holds k.reg)) }

/-- Rings closed before place `seq` give their registers back, the earliest closed first, once every older instruction is complete. -/
def Strand.openRings (x : Strand) (seq : Nat) : Strand :=
  let done := x.closed.filter (fun r => decide (r.stop ≤ seq))
  { done.reverse.foldl Strand.openUp x with closed := x.closed.filter (fun r => !decide (r.stop ≤ seq)) }

/-- Element e of a 64-bit pair of a vector-fetch block (R188). -/
def Strand.slot (x : Strand) (k e : Nat) : Word := w64 (x.elt k 64 e)

/-- Writes element e of a 64-bit pair. -/
def Strand.setSlot (x : Strand) (k e : Nat) (v : Word) : Strand := x.setElt k 64 e v.toNat

/-! ### Masks -/

/-- Mask m; m0 reads all ones (R161). -/
def Strand.mask (x : Strand) (m : Nat) : BitVec 512 :=
  if m = 0 then BitVec.allOnes 512 else if h : m < 8 then x.masks.get ⟨m, h⟩ else 0

/-- Writes mask m; m0 is fixed (R161). -/
def Strand.setMask (x : Strand) (m : Nat) (b : BitVec 512) : Strand :=
  if h : 0 < m ∧ m < 8 then { x with masks := x.masks.set m b h.2 } else x

/-- An instruction writes mask m, bits lo to hi - 1 of it: words covered whole lose their poison (R397). -/
def Strand.writeMask (x : Strand) (m : Nat) (b : BitVec 512) (lo hi : Nat) : Strand :=
  if 0 < m then (x.setMask m b).covered 2 m lo hi else x

/-- Bit e of mask m. -/
def Strand.maskBit (x : Strand) (m e : Nat) : Bool := (x.mask m).getLsbD e

/-- Sets bit e of a mask to b. -/
def setBit (k : BitVec 512) (e : Nat) (b : Bool) : BitVec 512 := putBits k e 1 (if b then 1 else 0)

/-- Element e is active under a guard, as the mask stood (R162): `k` is the guard mask's content. -/
def activeIn (md : Nat) (k : BitVec 512) (vlc e : Nat) : Bool :=
  decide (e < vlc) && (modeG md == 0 || (k.getLsbD e != modeGN md))

/-- Element e is active (R162). -/
def Strand.active (x : Strand) (e : Nat) : Bool := activeIn x.sc.md (x.mask (modeG x.sc.md)) x.sc.vlc e

/-- Mask m holds a poisoned word among its bits below n: kind 2 of the poison marks (R397). -/
def Strand.maskPoison (x : Strand) (m n : Nat) : Bool :=
  x.poison.any (fun k => k.kind == 2 && k.reg == m && decide (32 * k.word < n))

/-- A transfer of the strand is incomplete and bound to mask m (R368). -/
def Xfer.mask (t : Xfer) : Nat := bitsOf (t.words.getD 5 0) 10 8

/-- Mask m is bound to an incomplete transfer (R368). -/
def Strand.bound (x : Strand) (m : Nat) : Bool := m != 0 && x.chans.any (fun c => c.xfers.any (fun t => t.mask == m))

/-! ### Queues -/

/-- A queue without the poison marks of its first entry; the others move up (R397). -/
def popMarks (ps : List PoisonMark) (q : Nat) : List PoisonMark :=
  ps.filterMap (fun k =>
    if k.kind = 4 ∧ k.reg = q then (if k.word = 0 then none else some { k with word := k.word - 1 }) else some k)

/-- The poison marks of a queue to whose front an entry returns. -/
def unpopMarks (ps : List PoisonMark) (q : Nat) : List PoisonMark :=
  ps.map (fun k => if k.kind = 4 ∧ k.reg = q then { k with word := k.word + 1 } else k)

/-- The poison marks of a queue that has lost its newest entries: n are left. -/
def cutMarks (ps : List PoisonMark) (q n : Nat) : List PoisonMark :=
  ps.filter (fun k => !(k.kind == 4 && k.reg == q && decide (n ≤ k.word)))

/-- The first entry of a queue is poisoned. -/
def Strand.headPoison (x : Strand) (q : Nat) : Bool := x.poison.any (fun k => k.kind == 4 && k.reg == q && k.word == 0)

/-! ### Channels -/

/-- A channel as at a strand's start (R353). -/
def Chan.zero : Chan := ⟨List.replicate 8 0, 1, 0, 0, 0, 0, 0, 0, none, []⟩

/-- Channel k of a strand. -/
def Strand.chan (x : Strand) (k : Nat) : Chan := x.chans.getD k Chan.zero

/-- Changes channel k of a strand. -/
def Strand.modChan (x : Strand) (k : Nat) (f : Chan → Chan) : Strand :=
  { x with chans := (List.range 4).map (fun j => if j = k then f (x.chan j) else x.chan j) }

/-! ### A vector-fetch block cut short -/

/-- The registers named as destinations in a block, in the order their slots are kept: all even registers. -/
def pairRegs : List Nat := (List.range 15).map (fun i => 2 * i + 2)

/-- The register slots and flags of the element that runs return to what they were before it began (R190). -/
def Strand.undoElement (x : Strand) : Strand :=
  match x.vf with
  | none => x
  | some r =>
    let y := (pairRegs.zip r.saved).foldl (fun (y : Strand) p => y.setSlot p.1 r.e p.2) x
    { y with
      vf := none, poison := r.pz,
      sc := if y.inStream = 1 then { y.sc with flags := r.fl } else y.sc,
      vq := match y.vq with
        | e :: t => { e with snap := { e.snap with flags := r.fl } } :: t
        | [] => [] }

end Sys2Proof.Machine
end

