-- ==== Sys2Proof/Machine/Translate.lean ====
section
/-! DEFINITION. Addresses, the page walk, the TLBs and the checks of an access (R219 to R221, R381 to R388, R107). -/

namespace Sys2Proof.Machine

/-- An access for translation: its kind code (R387), and whether it reads, writes or fetches. -/
structure Acc where
  kind : Nat
  rd   : Bool
  wr   : Bool
deriving DecidableEq, Repr

/-- A scalar load (R387). -/
def accLd : Acc := ⟨1, true, false⟩
/-- A scalar store. -/
def accSt : Acc := ⟨2, false, true⟩
/-- A scalar atomic. -/
def accAt : Acc := ⟨3, true, true⟩

/-- How a walk ends (R382, R384). -/
inductive Walk where
  | leaf (e : Word) (level va size : Nat)
  | none (level : Nat) (malf nonres : Bool)
deriving DecidableEq, Repr

/-- An address is canonical when bits 63-47 are equal (R219). -/
def canonical (v : Word) : Bool := (v.toNat / 2 ^ 47 == 0) || (v.toNat / 2 ^ 47 == 2 ^ 17 - 1)

/-- An address lies in the window area (R221). -/
def inWindow (v : Word) : Bool := decide (0xFFFFFFFFF0000000 ≤ v.toNat)

/-- PPN of an entry (R383). -/
def entPpn (e : Word) : Nat := bitsOf e 51 12

/-- A valid entry whose reserved or HOME fields breach R383. -/
def entBad (e : Word) : Bool :=
  (!bitOf e 8 && bitsOf e 63 60 != 0) || bitsOf e 53 52 == 3

/-- R = W = X = 0: a pointer (R384). -/
def entIsPtr (e : Word) : Bool := !bitOf e 1 && !bitOf e 2 && !bitOf e 3

/-- A pointer that is malformed (R384). -/
def ptrBad (e : Word) : Bool := bitsOf e 63 52 != 0 || bitsOf e 11 4 != 0

/-- The size of a leaf at a level (R382). -/
def leafSize (level : Nat) : Nat := 2 ^ (12 + 9 * (4 - level))

/-- A leaf that is malformed at its level (R384). -/
def leafBad (e : Word) (level : Nat) : Bool :=
  entBad e || level == 1 || (bitOf e 9 && level != 4) ||
  (level == 3 && entPpn e % 2 ^ 9 != 0) || (level == 2 && entPpn e % 2 ^ 18 != 0)

/-- The walk from a table page at a level, with `fuel` levels left (R382, R384). -/
def walkGo (m : Memory) (va : Nat) : Nat → Nat → Nat → Walk
  | 0, _, level => .none level true false
  | fuel + 1, table, level =>
    let idx := va / 2 ^ (12 + 9 * (4 - level)) % 512
    let ent (i : Nat) : Word := w64 (leNat (memGetN m (table * 2 ^ 12 + 8 * i) 8))
    let e := ent idx
    let first := ent (idx / 16 * 16)
    if level = 4 ∧ bitOf first 0 ∧ !entIsPtr first ∧ bitOf first 9 ∧ !leafBad first 4 then
      .leaf first 4 (va / 2 ^ 16 * 2 ^ 16) (2 ^ 16)
    else if !bitOf e 0 then .none level false (bitOf e 1)
    else if entIsPtr e then
      if ptrBad e || level == 4 then .none level true false else walkGo m va fuel (entPpn e) (level + 1)
    else if leafBad e level || bitOf e 9 then .none level true false
    else .leaf e level (va / leafSize level * leafSize level) (leafSize level)

/-- The walk of a partition's tables for a virtual address (R382). -/
def State.walk (s : State) (p : Nat) (va : Word) : Walk :=
  match s.part? p with
  | none => .none 1 false false
  | some x => walkGo s.mem va.toNat 4 x.ptroot.toNat 1

/-- The page a leaf describes (R383, R384). DESIGN CHOICE (log 15): no check and no fault is stated for a local address at or above the
1 TiB of HBM (R4, R220); memory here holds a byte at every 52-bit address. -/
def pageOf (e : Word) (level va size : Nat) (dirty : Bool) : Page :=
  let ppn := if size = 2 ^ 16 then entPpn e / 16 * 16 else entPpn e
  { va := va, size := size, key := homeKey (bitsOf e 53 52) (ppn * 2 ^ 12), grn := bitsOf e 11 10, cach := bitOf e 5,
    kid := if bitOf e 8 then 0 else bitsOf e 59 54,
    owner := if bitOf e 8 then some (bitsOf e 63 54) else none,
    r := bitOf e 1, w := bitOf e 2, x := bitOf e 3, u := bitOf e 4, level := level, dirty := dirty }

/-- The size of a page's grains (R220). -/
def Page.grain (p : Page) : Nat :=
  match p.grn with
  | 1 => 32
  | 2 => 512
  | _ => 128

/-- Why an access fails on a page: its cause, the place of the cause in the order of R50, EVAL, EINFO, and whether the
page is merely not resident (R401). -/
structure Fail where
  cause  : Nat
  rank   : Nat
  eval   : Word
  einfo  : Word
  nonres : Bool
deriving DecidableEq, Repr

/-- EINFO of PAGE_NP and PAGE_PROT (R388). -/
def pageInfo (a : Acc) (malf : Bool) (level : Nat) : Word :=
  w64 ((if a.wr then 256 else 0) + 16 * a.kind + (if malf then 8 else 0) + level)

/-- The checks of a page's attributes, in the order of R50 (R220, R231). -/
def Page.check (s : State) (p : Page) (a : Acc) (va : Word) : Option Fail :=
  let prot : Fail := ⟨cPAGE_PROT, 8, va, pageInfo a false p.level, false⟩
  let km := match s.part? s.cur.ident.part with | some x => x.keymask | none => 0
  if (!s.cur.sc.prv && !p.u) || (a.rd && !p.r) || (a.wr && !p.w) || (a.kind == 0 && !p.x) || p.grn == 3 ||
      !bitOf km p.kid then some prot
  else
    match p.owner with
    | some o => if a.rd && o != s.cur.ident.coreid then some ⟨cPRIVATE_PAGE, 9, va, 0, false⟩ else none
    | none => none

/-- Bits set in the leaf that maps a page, by an atomic OR at its home (R385): the leaf's address and its new bytes. -/
def orLeafGo (m : Memory) (va bits : Nat) : Nat → Nat → Nat → Option (Nat × List Byte)
  | 0, _, _ => none
  | fuel + 1, table, level =>
    let idx := va / 2 ^ (12 + 9 * (4 - level)) % 512
    let at_ (i : Nat) := table * 2 ^ 12 + 8 * i
    let ent (i : Nat) : Word := w64 (leNat (memGetN m (at_ i) 8))
    let fi := idx / 16 * 16
    let first := ent fi
    let i := if level = 4 ∧ bitOf first 0 ∧ !entIsPtr first ∧ bitOf first 9 ∧ !leafBad first 4 then fi else idx
    let e := ent i
    if !bitOf e 0 then none
    else if entIsPtr e then orLeafGo m va bits fuel (entPpn e) (level + 1)
    else some (at_ i, leBytes 8 ((e ||| w64 bits).toNat))

/-- Sets A or D of the page that maps an address (R385). -/
def State.orLeaf (s : State) (p : Nat) (va : Word) (bits : Nat) : State :=
  match s.part? p with
  | none => s
  | some x =>
    match orLeafGo s.mem va.toNat bits 4 x.ptroot.toNat 1 with
    | some w => s.memWrite w.1 w.2
    | none => s

/-- The TLB entry of the current core that covers an address (R385). -/
def State.tlbHit (s : State) (asid : BitVec 16) (va : Nat) : Option TlbE :=
  s.quad.d.tlb.find? (fun t => t.core == s.cur.ident.core && t.asid == asid &&
    decide (t.va ≤ va) && decide (va < t.va + t.size))

/-- The page of a mapped address: from the TLB, or by a walk that sets A and fills the TLB (R385). A walk that finds
none says why. -/
def State.xlate (s : State) (va : Word) (a : Acc) : Except Fail Page × State :=
  let p := s.cur.ident.part
  let asid := match s.part? p with | some x => x.asid | none => 0
  match s.tlbHit asid va.toNat with
  | some t => (.ok (pageOf t.leaf t.level t.va t.size t.dirty), s)
  | none =>
    match s.walk p va with
    | .none level malf nonres => (.error ⟨cPAGE_NP, 7, va, pageInfo a malf level, nonres⟩, s)
    | .leaf e level v size =>
      let s1 := if bitOf e 6 then s else s.orLeaf p va 64
      let e1 := e ||| 64
      let t : TlbE := ⟨s.cur.ident.core, asid, v, size, level, e1, bitOf e 7⟩
      (.ok (pageOf e1 level v size (bitOf e 7)), s1.modQ (fun q => { q with tlb := t :: q.tlb }))

/-- The scratchpad window (R221). -/
def scratchBase : Nat := 0xFFFFFFFFFE000000
/-- The mirror window (R221). -/
def mirrorBase : Nat := 0xFFFFFFFFFC000000

/-- One piece in the window area, checked by R221. -/
def State.windowSeg (s : State) (va : Word) (n : Nat) (a : Acc) : Except Fail Seg :=
  let i := s.cur.ident
  let bounds (base : Nat) : Option Fail :=
    let off := va.toNat - base
    if i.alen < off + n then
      some ⟨cBOUNDS, 4, if i.alen ≤ off then va else w64 (base + i.alen), 0, false⟩
    else none
  if a.kind = 0 then
    if (scratchBase ≤ va.toNat ∧ va.toNat < scratchBase + 2 ^ 21) ∨
        (mirrorBase ≤ va.toNat ∧ va.toNat < mirrorBase + 2 ^ 21) then
      .error ⟨cPAGE_PROT, 8, va, pageInfo a false 0, false⟩
    else .error ⟨cPAGE_NP, 7, va, pageInfo a false 0, false⟩
  else if scratchBase ≤ va.toNat ∧ va.toNat < scratchBase + 2 ^ 21 then
    match bounds scratchBase with
    | some f => .error f
    | none => .ok ⟨va, n, scratchKey i.quad (i.abase + (va.toNat - scratchBase)), none, false⟩
  else if mirrorBase ≤ va.toNat ∧ va.toNat < mirrorBase + 2 ^ 21 then
    match bounds mirrorBase with
    | some f => .error f
    | none =>
      if a.rd then .error ⟨cWINDOW, 6, va, 0, false⟩ else .ok ⟨va, n, va.toNat - mirrorBase, none, true⟩
  else .error ⟨cPAGE_NP, 7, va, pageInfo a false 0, false⟩

/-- An access to n bytes of a peer page fails when no link reaches its module, or the module has not opened the bytes
(R429). -/
def State.peerFail (s : State) (a : Acc) (va : Word) (key n : Nat) : Option Fail :=
  if keyHome key ≠ 2 then none
  else
    let dev := keyPa key / 2 ^ 46 % 64
    let at_ := keyPa key % 2 ^ 46
    if !s.links.contains dev then some ⟨cPAGE_NP, 7, va, pageInfo a false 0, false⟩
    else if s.opened.any (fun r => r.dev == dev && decide (r.base ≤ at_) && decide (at_ + n ≤ r.base + r.len)) then none
    else some ⟨cPAGE_PROT, 8, va, pageInfo a false 0, false⟩

/-- One piece within a page, translated and checked. -/
def State.segOf (s : State) (va : Word) (n : Nat) (a : Acc) : Except Fail Seg × State :=
  if inWindow va then (s.windowSeg va n a, s)
  else if !canonical va then (.error ⟨cPAGE_NP, 7, va, pageInfo a false 0, false⟩, s)
  else
    match s.xlate va a with
    | (.error f, s1) => (.error f, s1)
    | (.ok p, s1) =>
      match p.check s1 a va with
      | some f => (.error f, s1)
      | none =>
        match s1.peerFail a va (p.key + (va.toNat - p.va)) n with
        | some f => (.error f, s1)
        | none => (.ok ⟨va, n, p.key + (va.toNat - p.va), some p, false⟩, s1)

/-- The pieces of n bytes from an address, cut at every 4 KiB. -/
def cuts (va : Word) : Nat → Nat → List (Word × Nat)
  | 0, _ => []
  | fuel + 1, n =>
    if n = 0 then []
    else
      let room := 4096 - va.toNat % 4096
      if n ≤ room then [(va, n)] else (va, room) :: cuts (va + w64 room) fuel (n - room)

/-- The failure that stands earlier in the order of R50; on a tie the earlier one (R107). -/
def worse (a : Option Fail) (b : Fail) : Option Fail :=
  match a with
  | none => some b
  | some f => if b.rank < f.rank then some b else some f

/-- Translates and checks every piece; the failure R107 names, or all the pieces. -/
def State.segsGo : List (Word × Nat) → Acc → State → Option Fail → List Seg → Except Fail (List Seg) × State
  | [], _, s, some f, _ => (.error f, s)
  | [], _, s, none, acc => (.ok acc.reverse, s)
  | (va, n) :: r, a, s, f, acc =>
    match s.segOf va n a with
    | (.error g, s1) => State.segsGo r a s1 (worse f g) acc
    | (.ok x, s1) => State.segsGo r a s1 f (x :: acc)

/-- A failure as its access reports it: PRIVATE_PAGE and WINDOW of an element of `vld`, `vst` or `vat` name the element's address (R241);
all else names the lowest address that the access touches in the failing page (R107). -/
def Fail.of (a : Acc) (va : Word) (f : Fail) : Fail :=
  if (a.kind = 4 ∨ a.kind = 5 ∨ a.kind = 6) ∧ (f.cause = cPRIVATE_PAGE ∨ f.cause = cWINDOW) then { f with eval := va } else f

/-- The pieces of an access of n bytes at va, each page translated and checked separately (R107). -/
def State.segs (s : State) (va : Word) (n : Nat) (a : Acc) : Except Fail (List Seg) × State :=
  let r := State.segsGo (cuts va (n / 4096 + 2) n) a s none []
  match r.1 with
  | .error f => (.error (f.of a va), r.2)
  | .ok _ => r

/-- A failed access stops its instruction: it parks on a page that is not resident when the partition has a fault queue,
and raises its cause otherwise (R387, R401). -/
def State.failStop (s : State) (f : Fail) (a : Acc) (rst : Nat) : Stop :=
  let hasQ := match s.part? s.cur.ident.part with | some x => decide (x.fqbase ≠ 0) | none => false
  if f.nonres && hasQ && a.kind != 0 then .park f.eval a.kind a.wr rst false
  else .trap ⟨f.cause, f.eval, f.einfo, rst, a.kind, a.wr⟩

/-- Sets D on the page of an address that the current strand has written, and in the TLB entries by which it is known (R385). -/
def State.setDirtyAt (s : State) (va : Word) : State :=
  let asid := match s.part? s.cur.ident.part with | some x => x.asid | none => 0
  (s.orLeaf s.cur.ident.part va 128).modQ (fun q => { q with tlb := q.tlb.map (fun t =>
    if t.core = s.cur.ident.core ∧ t.asid = asid ∧ t.va ≤ va.toNat ∧ va.toNat < t.va + t.size then
      { t with dirty := true, leaf := t.leaf ||| 128 } else t) })

/-- Sets D on the pages an access writes, once it has passed every check (R385). -/
def State.setDirty (s : State) (segs : List Seg) : State :=
  segs.foldl (fun s g =>
    match g.page with
    | some p => if p.dirty then s else s.setDirtyAt g.va
    | none => s) s

end Sys2Proof.Machine
end

