-- ==== Sys2Proof/Machine/Home.lean ====
section
/-! DEFINITION. The home slices: buckets and sets, residency and its counters, scope records, and the quarantine of what
leaves a quad (R305 to R307, R316, R320, R325, R327, R344, R413). -/

namespace Sys2Proof.Machine

/-- The bucket of a physical address (R325). -/
def bucketOf (pa : Nat) : Nat :=
  (pa / 2 ^ 9 % 4096) ^^^ (pa / 2 ^ 21 % 4096) ^^^ (pa / 2 ^ 33 % 4096) ^^^ (pa / 2 ^ 45 % 128)

/-- The home slice of a bucket: the table row as the shunter left it, or b mod 512 (R325). -/
def State.sliceOf (s : State) (b : Nat) : Nat :=
  match s.buckets.find? (fun x => x.idx == b) with
  | some x => x.slice
  | none => b % 512

/-- The set of a line within its slice (R344). -/
def setOf (pa : Nat) : Nat := (pa / 2 ^ 21 % 64) ^^^ (pa / 2 ^ 27 % 64)

/-- The slice and set of a line number; a host line's are those of its bus address (R432). -/
def State.place (s : State) (line : Nat) : Nat × Nat :=
  let pa := 512 * (line % 2 ^ 43)
  (s.sliceOf (bucketOf pa), setOf pa)

/-- The lines present in the set of a line. -/
def State.setLines (s : State) (line : Nat) : List HLine :=
  s.lines.filter (fun x => decide (s.place x.line = s.place line))

/-- The open windows of a crew hold an address (R316, R317). -/
def State.inWindowOf (s : State) (crew : Nat) (va : Nat) : Bool :=
  match s.crews.find? (fun c => c.id == crew) with
  | some c => c.windows.any (fun w => decide (w.2.1 ≤ va) && decide (va ≤ w.2.2))
  | none => false

/-- A reserved way of the set may go to a line of partition p (R316). -/
def State.mayReserve (s : State) (p line : Nat) : Bool :=
  let ls := s.setLines line
  let q := match s.part? p with | some x => x.qways | none => 0
  decide ((ls.filter (fun x => x.resv == some p)).length < q) &&
  decide ((ls.filter (fun x => x.resv.isSome)).length < 4)

/-- The 16-bit mask of the 32-byte sectors that n bytes from offset `o` of a line touch. -/
def sectorMask (o n : Nat) : BitVec 16 :=
  BitVec.ofNat 16 ((List.range 16).foldl (fun k i =>
    if 32 * i < o + n ∧ o < 32 * i + 32 then k + 2 ^ i else k) 0)

/-- Sets the chosen home records to NONE; EPOCH rises as at every write (R305). -/
def State.noneRecs (s : State) (p : ScopeRec → Bool) : State :=
  { s with hrecs := s.hrecs.map (fun r => if p r then { r with scope := 0, epoch := r.epoch + 1 } else r) }

/-- A line leaves its slice: a host line's bytes are written out (R432); one of local memory is written back to HBM, and its scope records
take NONE (R307). -/
def State.dropLine (s : State) (line : Nat) : State :=
  if line / 2 ^ 43 = 1 then (s.hostOut (HostB.within (512 * line) 512)).hostDrop (512 * line) 512
  else ({ s with lines := s.lines.filter (fun x => !(x.line == line)) }).noneRecs (fun r => keyHome r.key == 0 && keyPa r.key / 512 == line)

/-- The ordinary line a full set gives up: an evict-first one, else the least recently used (R292). -/
def victim (ls : List HLine) : Option HLine :=
  let ord := ls.filter (fun x => x.resv.isNone && !x.locked)
  let pool := if ord.any (fun x => x.first) then ord.filter (fun x => x.first) else ord
  pool.foldl (fun b x => match b with | none => some x | some y => if x.used < y.used then some x else b) none

/-- Allocates or touches a line: fills sectors, moves it into a reserved way when a window covers it, evicts when the
set is full (R292, R316, R344). POL makes no line of a window evict-first. The second result tells of a refused reserved way. -/
def State.touchLine (s : State) (p line : Nat) (mask : BitVec 16) (win : Bool) (pol va : Nat) : State × Bool :=
  let evict := (pol == 1 || pol == 3) && !win
  match s.lines.find? (fun x => x.line == line) with
  | some x =>
    let want := win && x.resv.isNone
    let ok := want && s.mayReserve p line
    ({ s with useCtr := s.useCtr + 1,
              lines := s.lines.map (fun y =>
                if y.line = line then
                  { y with sectors := y.sectors ||| mask, used := s.useCtr, first := y.first && evict,
                           resv := if ok then some p else y.resv, va := if ok then va else y.va }
                else y) }, want && !ok)
  | none =>
    let ok := win && s.mayReserve p line
    let ls := s.setLines line
    let s1 :=
      if ls.length < 16 then s
      else match victim ls with | some v => s.dropLine v.line | none => s
    ({ s1 with useCtr := s1.useCtr + 1,
               lines := ⟨line, mask, if ok then some p else none, false, s1.useCtr, evict, va⟩ :: s1.lines }, win && !ok)

/-- A request of a strand that a bucket's home accepts heats the bucket for the strand's die (R330). -/
def State.heatUp (s : State) (uid pa : Nat) : State :=
  match s.strand? uid with
  | none => s
  | some x =>
    let b := bucketOf pa
    let d := dieOf x.ident.quad
    if s.heat.any (fun h => h.bucket == b && h.die == d) then
      { s with heat := s.heat.map (fun (h : Heat) => if h.bucket = b ∧ h.die = d then { h with count := h.count + 1 } else h) }
    else { s with heat := (Heat.mk b d 1) :: s.heat }

/-- A home lookup of a strand's read or atomic: the n bytes of a grain at a key of local memory or of a host page (R432), whose virtual
address is va. It counts in the strand's residency counters (R320). -/
def State.homeLookup (s0 : State) (uid p crew key va n pol : Nat) (cach : Bool) : State :=
  if 2 ≤ keyHome key then s0
  else
    let s := s0.hostFill key n
    let line := key / 512
    let mask := sectorMask (key % 512) n
    let win := cach && keyHome key == 0 && s.inWindowOf crew va
    let old := s0.lines.find? (fun x => x.line == line)
    let hit := match old with | some x => decide (x.sectors &&& mask = mask) | none => false
    let res := match old with | some x => x.resv.isSome | none => false
    let t := (s.heatUp uid (keyPa key)).touchLine p line mask win pol va
    t.1.modStrand uid (fun x => { x with sc := { x.sc with
      l2Hit := if hit then x.sc.l2Hit + 1 else x.sc.l2Hit
      l2Miss := if hit then x.sc.l2Miss else x.sc.l2Miss + 1
      retHit := if win && res then x.sc.retHit + 1 else x.sc.retHit
      retMiss := if win && !res then x.sc.retMiss + 1 else x.sc.retMiss
      retOvf := if t.2 then x.sc.retOvf + 1 else x.sc.retOvf } })

/-! ### Writes of engines (R379, R441, R450) -/

/-- Refused reserved ways count in the RETOVF of the strand that caused the allocations (R316, R320). -/
def State.countOvf (s : State) (uid refused : Nat) : State :=
  if refused = 0 then s
  else s.modStrand uid (fun x => { x with sc := { x.sc with retOvf := x.sc.retOvf + BitVec.ofNat 64 refused } })

/-- The lines that n bytes from a key touch: how far each starts from the first one's start, and the sectors of the grains touched in
it (R294, R295). -/
def touchedLines (key n g : Nat) : List (Nat × BitVec 16) :=
  let lo := key / g * g
  let hi := (key + n + g - 1) / g * g
  (List.range (n / 512 + 2)).filterMap (fun i =>
    let l := key / 512 * 512 + 512 * i
    if n = 0 ∨ key + n ≤ l then none else some (512 * i, sectorMask (lo - l) (min hi (l + 512) - max lo l)))

/-- The home slices take n bytes of local memory from a key, line by line, for a partition: in reserved ways where the line of the
virtual address `va` lies in an open window of the crew that asks (R292, R316, R344). The second result counts refused ways. -/
def State.touchLines (s : State) (part : Nat) (crew : Option Nat) (key va n g pol : Nat) : State × Nat :=
  if keyHome key ≠ 0 then (s, 0)
  else (touchedLines key n g).foldl (fun t l =>
    let v := va - key % 512 + l.1
    let u := t.1.touchLine part (key / 512 + l.1 / 512) l.2 (crew.elim false (fun c => t.1.inWindowOf c v)) pol v
    (u.1, if u.2 then t.2 + 1 else t.2)) (s, 0)

/-- Writes bytes at their place (R379); the second result counts refused reserved ways. -/
def State.landMove (s : State) (part : Nat) (crew : Option Nat) (m : Move) : State × Nat :=
  if keyHome m.key = 3 then (s.scratchWrite ((m.key - 3 * 2 ^ 52) / 2 ^ 21) (m.key % 2 ^ 21) m.data, 0)
  else
    let s0 := if keyHome m.key = 1 then
        ({ s with hostB := s.hostB.filter (fun b => !b.within m.key m.data.length) }).hostTidy
      else s
    let s1 := (s0.keyWrite m.kid m.key).memWrite m.key m.data
    s1.touchLines part crew m.key m.va m.data.length m.grain m.pol

/-- Writes bytes that no crew's access names, as the hub's engines do (R441, R450). -/
def State.land (s : State) (part : Nat) (m : Move) : State := (s.landMove part none m).1

/-- The copy engine's requests for the lines of a strand's transfer heat their buckets (R330). -/
def State.engHeat (s : State) (x : Strand) (key n g : Nat) : State :=
  if keyHome key ≠ 0 then s
  else (touchedLines key n g).foldl (fun (s : State) l => s.heatUp x.uid (keyPa key / 512 * 512 + l.1)) s

/-- Writes a piece of a strand's transfer (R316, R330, R379). -/
def State.engLand (s : State) (x : Strand) (m : Move) : State :=
  let u := (s.engHeat x m.key m.data.length m.grain).landMove x.ident.part (if m.cach then some x.ident.crew else none) m
  u.1.countOvf x.uid u.2

/-- The engine's read of n bytes of a strand's transfer at their homes (R316, R330). -/
def State.engFetch (s : State) (x : Strand) (key va n g pol : Nat) (cach : Bool) : State :=
  let u := (s.engHeat x key n g).touchLines x.ident.part (if cach then some x.ident.crew else none) key va n g pol
  u.1.countOvf x.uid u.2

/-- The sectors of a line that the grains of some bytes touch (R295). -/
def grainMask (bs : List HomeB) : BitVec 16 :=
  bs.foldl (fun m b => m ||| sectorMask (b.key % 512 / b.tag.size * b.tag.size) b.tag.size) 0

/-- One line's bytes arrive at their home (R222, R292, R295, R316, R330, R432, R477): merged under their mask, and at a local home
the line allocated by the POL of its latest store, in a reserved way when it lies in an open window of its crew. -/
def State.landLine (s : State) (uid part line : Nat) (bs : List HomeB) : State :=
  match bs.getLast? with
  | none => s
  | some b =>
    let kv := bs.map (fun h => (h.key, h.val))
    if keyHome b.key = 1 then
      -- the rest of each grain comes from the host
      let s1 := bs.foldl (fun (s : State) h => s.hostFill (h.key / h.tag.size * h.tag.size) h.tag.size) s
      ((s1.hostPut bs).heatUp uid (keyPa b.key)).touchLine part line (grainMask bs) false b.tag.pol b.tag.va |>.1
    else
      let s1 := ((s.keyWrite b.tag.kid b.key).putBytes kv)
      let s2 := (bs.filter (·.bad)).foldl (fun (s : State) h => s.spoil h.key) s1
      if keyHome b.key = 0 then
        let win := b.tag.cach && s2.inWindowOf b.crew b.tag.va
        let t := (s2.heatUp uid (keyPa b.key)).touchLine part line (grainMask bs) win b.tag.pol b.tag.va
        t.1.countOvf uid (if t.2 then 1 else 0)
      else s2

/-! ### Scope records (R305 to R310) -/

/-- No record. -/
def ScopeRec.none (key : Nat) : ScopeRec := ⟨key, 0, 0, 0, 0, 0, 0⟩

/-- The home's record of a grain; a grain that was never recorded has none. -/
def State.homeRec (s : State) (key : Nat) : ScopeRec :=
  (s.hrecs.find? (fun r => r.key == key)).getD (ScopeRec.none key)

/-- Writes the home's record of a grain: EPOCH rises (R305). -/
def State.setHomeRec (s : State) (r : ScopeRec) : State :=
  let e := (s.homeRec r.key).epoch + 1
  { s with hrecs := { r with epoch := e } :: s.hrecs.filter (fun x => !(x.key == r.key)) }

/-- The quad and core of a scope instance contain a placement: does domain (k, d) include COREID c of quad q on device
`dev`? (R306) -/
def domHas (k d c q dev : Nat) : Bool :=
  match k with
  | 1 => d == c
  | 2 => d == q
  | 3 => d == dieOf q
  | 4 => d == dev
  | _ => true

/-- The access (k', d') made from a placement is consistent with a record (R306): the record is NONE, or the new domain
includes the old one and the placement lies within the old one. `rq` is a quad of the old domain. -/
def recOk (r : ScopeRec) (k' d' : Nat) (i : Ident) : Bool :=
  r.scope == 0 ||
  (decide (r.scope ≤ k') && domHas r.scope r.dom i.coreid i.quad i.devid && d' == scopeDom k' i)

/-- A mismatch: its grain address, the old record and the new scope (R309). -/
structure Mismatch where
  gva  : Nat
  old  : ScopeRec
  new_ : Nat
  home : Bool
deriving DecidableEq, Repr

/-- EINFO of SCOPE_MISMATCH (R309). -/
def Mismatch.info (x : Mismatch) : Word :=
  w64 (x.old.scope + 8 * x.new_ + (if x.home then 64 else 0) + x.old.dom % 2 ^ 16 * 2 ^ 16)

/-- Whether SCOPECTL makes a mismatch trap (R309). -/
def trapsScope (ctl : BitVec 5) (k : Nat) : Bool := decide (1 ≤ k) && ctl.getLsbD (k - 1)

/-- Logs a mismatch in SCOPELOG (R310). -/
def logScope (old : Word) (x : Mismatch) : Word :=
  let c := bitsOf old 63 54
  w64 ((if c < 1023 then c + 1 else c) * 2 ^ 54 + x.old.scope * 2 ^ 51 + x.new_ * 2 ^ 48 +
    x.gva / 32 % 2 ^ 43 * 32)

/-- Charges a logged mismatch to a strand; one that has retired drops it (R310). -/
def State.chargeLog (s : State) (uid : Nat) (x : Mismatch) : State :=
  s.modStrand uid (fun y => { y with sc := { y.sc with scopelog := logScope y.sc.scopelog x } })

/-! ### What leaves a quad (R413, R414) -/

/-- Effects of a quad wait on its platform (R413). Only an agenda that says so lets a quad without checkpoints, and with nothing on its
way, perform an effect at once (log 6). -/
def State.heldAt (s : State) (q : Nat) : Bool :=
  s.split || !(s.getQuad q).ckpts.isEmpty || !(s.getQuad q).plat.isEmpty || s.reqs.any (fun r => r.eff.quad == q)

/-- The same of the current quad. -/
def State.held (s : State) : Bool :=
  s.split || !s.quad.ckpts.isEmpty || !s.quad.plat.isEmpty || s.reqs.any (fun r => r.eff.quad == s.quad.id)

/-- What an effect takes on the platform. DESIGN CHOICE (log 72): 64 bytes and its data. -/
def EffKind.size (k : EffKind) : Nat :=
  64 + (match k with
    | .turn bs rs _ => bs.length + 32 * rs.length
    | .atomic rs => 32 * rs.length
    | .mirror _ bs => bs.length
    | .lnGo lpb _ => lpb.length
    | _ => 0)

/-- A quad's platform, which holds 256 KiB, has room for n bytes (R222, R413). An empty one takes any effect. -/
def State.platRoom (s : State) (n : Nat) : Bool :=
  s.quad.plat.isEmpty || decide ((s.quad.plat.map (fun e => e.kind.size)).sum + n ≤ 2 ^ 18)

/-- The release tick of an effect handed at the present tick: 96 ns after the span's end (R413). -/
def State.releaseTick (s : State) : Nat := s.timer / 128 * 128 + 224

/-- Appends an effect of strand `uid` to the platform of a quad. -/
def State.handOn (s : State) (q uid : Nat) (k : EffKind) : State :=
  let e : Eff := ⟨s.effSeq, uid, q, s.releaseTick, k⟩
  ({ s with effSeq := s.effSeq + 1 }).modQuad q (fun x => { x with plat := x.plat ++ [e] })

/-- Appends an effect of the current strand to its quad's platform. -/
def State.hand (s : State) (k : EffKind) : State :=
  let e : Eff := ⟨s.effSeq, s.cur.uid, s.quad.id, s.releaseTick, k⟩
  { s with effSeq := s.effSeq + 1, quad := { s.quad with plat := s.quad.plat ++ [e] } }

/-- An instruction that would add n bytes of effects to a full platform waits for room (R413). -/
def platform (n : Nat) : M Unit := do
  let s ← get
  if s.cur.handed.isNone && s.held && !s.platRoom n then block else pure ()

/-- Hands an effect, for which the platform has room, and waits for its reply; performed at once by `direct` when nothing holds it (R413,
R414). -/
def outwardGo (k : EffKind) (direct : State → State × List Word) : M (List Word) := do
  let s ← get
  match s.cur.handed with
  | some h =>
    match h.reply with
    | some r =>
      modCur (fun x => { x with handed := none })
      pure r
    | none => block
  | none =>
    if s.held then
      set ((s.hand k).modCur (fun x => { x with handed := some ⟨s.effSeq, none⟩ }))
      block
    else
      let t := direct s
      set t.1
      pure t.2

/-- Hands an effect and waits for its reply (R413, R414). -/
def outward (k : EffKind) (direct : State → State × List Word) : M (List Word) := do
  platform k.size
  outwardGo k direct

/-- Hands an effect, for which the platform has room, without waiting for it. -/
def emitGo (k : EffKind) (direct : State → State) : M Unit := modify (fun s => if s.held then s.hand k else direct s)

/-- Hands an effect without waiting for it. -/
def emit (k : EffKind) (direct : State → State) : M Unit := do
  platform k.size
  emitGo k direct

end Sys2Proof.Machine
end

