-- ==== Sys2Proof/Machine/Path.lean ====
section
/-! DEFINITION. The two paths (R222 to R231, R288, R291 to R298): reading through the inbound stages, storing into the
core outbound buffer, marks and the pending set, and bringing bytes outward level by level. -/

namespace Sys2Proof.Machine

/-! ### Lines of the stages (R222, R291, R292, R294) -/

/-- The 512-byte line of a key: one tag of a stage (R294). -/
def lineOf (k : Nat) : Nat := k / 512

/-- The set of a line in the quad caches, which have 256 sets of 512-byte lines (R291). DESIGN CHOICE (log 26). -/
def quadSet (line : Nat) : Nat := line % 256

/-- The lines of clean copies that a stage holds, the latest used first. -/
def copyLines (q : QuadData) (core : Option Nat) : List Nat :=
  ((q.copies.filter (fun c => c.core == core)).map (fun c => lineOf c.key)).eraseDups

/-- The lines that compete with a line: its set's in the quad inbound cache, 16 ways of it, or the whole L1 of 256 lines
(R222, R291; log 26). -/
def copyRivals (q : QuadData) (core : Option Nat) (line : Nat) : List Nat × Nat :=
  if core.isSome then (copyLines q core, 256)
  else ((copyLines q core).filter (fun l => quadSet l == quadSet line), 16)

/-- Drops the copies of a line from a stage. -/
def dropCopyLine (q : QuadData) (core : Option Nat) (line : Nat) : QuadData :=
  { q with copies := q.copies.filter (fun c => !(c.core == core && lineOf c.key == line)) }

/-- The line a full set of clean copies gives up: an evict-first one, else the one used longest ago (R292, log 9). -/
def copyVictim (q : QuadData) (core : Option Nat) (ls : List Nat) : Option Nat :=
  let first (l : Nat) := q.copies.any (fun c => c.core == core && lineOf c.key == l && c.first)
  match (ls.filter first).getLast? with
  | some l => some l
  | none => ls.getLast?

/-- Keeps a clean copy, replacing an older one; a set that would hold too many lines gives one up (R291), and a grain taken under a policy
that is not evict-first ends that of its line (R292). -/
def putCopy (q : QuadData) (c : Copy) : QuadData :=
  let rest := q.copies.filter (fun x => !(x.core == c.core && x.key == c.key))
  let r := copyRivals { q with copies := rest } c.core (lineOf c.key)
  let others := r.1.filter (fun l => l != lineOf c.key)
  let q1 := { q with copies := rest }
  let q2 := if others.length < r.2 then q1
    else match copyVictim q1 c.core others with | some l => dropCopyLine q1 c.core l | none => q1
  let back (x : Copy) : Copy := if x.core == c.core && lineOf x.key == lineOf c.key && !c.first then { x with first := false } else x
  { q2 with copies := c :: q2.copies.map back }

/-- A use of a line by an access of a policy makes it the latest used; POL 0 or 2 ends evict-first, and under POL 3 the line is not
kept (R292). -/
def touchCopy (q : QuadData) (core : Option Nat) (key pol : Nat) : QuadData :=
  let hit (c : Copy) := c.core == core && lineOf c.key == lineOf key
  let back := pol == 0 || pol == 2
  if pol = 3 then dropCopyLine q core (lineOf key) else
  { q with copies := (q.copies.filter hit).map (fun c => { c with first := c.first && !back }) ++ q.copies.filter (fun c => !hit c) }

/-! ### Reading -/

/-- The readable entry for a byte in a core's outbound buffer (R291 stage 1): turned at CORE, or any byte of the core on a
private page of it (R231). -/
def stage1 (q : QuadData) (core key : Nat) (priv : Bool) : Option OutB :=
  q.out.find? (fun b => b.core == some core && b.key == key && (b.turned || priv))

/-- The entry for a byte in the quad outbound cache (R291 stage 3). -/
def stage3 (q : QuadData) (key : Nat) : Option OutB :=
  q.out.find? (fun b => b.core == none && b.key == key)

/-- The clean copy of a grain in a core's L1 or in the quad inbound cache (R291 stages 2 and 4). -/
def copyOf (q : QuadData) (core : Option Nat) (gkey : Nat) : Option Copy :=
  q.copies.find? (fun c => c.core == core && c.key == gkey)

/-- A copy overlaps the grain at a key. -/
def Copy.hits (c : Copy) (gkey size : Nat) : Bool :=
  decide (c.key < gkey + size) && decide (gkey < c.key + c.data.length)

/-- The bytes of a grain with the quad outbound cache's bytes over them. -/
def overlay3 (q : QuadData) (gkey : Nat) (d : List Byte) : List Byte :=
  d.zipIdx.map (fun p => ((stage3 q (gkey + p.2)).map (·.val)).getD p.1)

/-- A sector of n bytes from a key is poisoned at its home (R398): the first poisoned byte's distance. -/
def State.poisonIn (s : State) (key n : Nat) : Option Nat :=
  (List.range n).find? (fun i => s.poisonedAt (key + i))

/-- What a read of a grain finds below stage 1: its bytes, the sectors that are poisoned where they were found (R398), and
whether the home was looked up. -/
structure Grain where
  data : List Byte
  bad  : List Nat
  home : Bool
deriving DecidableEq, Repr

/-- The sectors of a grain that are poisoned at the home. -/
def State.badSectors (s : State) (gkey size : Nat) : List Nat :=
  (((List.range size).filter (fun i => s.poisonedAt (gkey + i))).map (fun i => (gkey + i) / 32)).eraseDups

/-- The poisoned sectors of a grain's bytes once the quad outbound cache has laid its own over them. -/
def overlayBad (q : QuadData) (gkey size : Nat) (bad : List Nat) : List Nat :=
  (((List.range size).filter (fun i =>
    match stage3 q (gkey + i) with
    | some b => b.bad
    | none => bad.contains ((gkey + i) / 32))).map (fun i => (gkey + i) / 32)).eraseDups

/-- One grain of a mapped page as the current core reads it below stage 1 (R291), with the fills of R292 and R295. -/
def State.readGrain (s : State) (p : Page) (gkey gva pol : Nat) : Grain × State :=
  let core := s.cur.ident.core
  let size := p.grain
  let id := s.cur.ident
  let first := pol == 1
  match (if p.cach then copyOf s.quad.d (some core) gkey else none) with
  | some c => (⟨c.data, c.bad, false⟩, s.modQ (fun q =>
      let r := touchCopy q (some core) gkey pol
      if pol = 3 then dropCopyLine r none (lineOf gkey) else r))
  | none =>
    let (base, s1) : Grain × State :=
      match (if p.cach then copyOf s.quad.d none gkey else none) with
      | some c => (⟨c.data, c.bad, false⟩, s.modQ (fun q => touchCopy q none gkey pol))
      | none =>
        let bad := s.badSectors gkey size
        let f := (s.homeLookup s.cur.uid id.part id.crew gkey gva size pol p.cach).keyRead p.kid gkey size
        (⟨f.1, bad, true⟩,
         if p.cach && pol != 3 && bad.isEmpty then f.2.modQ (fun q => putCopy q ⟨none, gkey, f.1, first, []⟩) else f.2)
    let d := overlay3 s1.quad.d gkey base.data
    let bad := overlayBad s1.quad.d gkey size base.bad
    (⟨d, bad, base.home⟩,
     if p.cach && pol != 3 && bad.isEmpty then s1.modQ (fun q => putCopy q ⟨some core, gkey, d, first, []⟩) else s1)

/-- Every needed byte of a grain stands in stage 1 or stage 3, so that nothing is fetched. -/
def noFetch (q : QuadData) (core key n : Nat) (priv : Bool) : Bool :=
  (List.range n).all (fun i => (stage1 q core (key + i) priv).isSome || (stage3 q (key + i)).isSome)

/-- The current strand's core owns the private page (R231). -/
def Page.mine (p : Page) (i : Ident) : Bool := p.owner == some i.coreid

/-- n bytes within one grain of a mapped page, each with whether it is poisoned where it was found. A page that is not cacheable is
fetched at every read (R220). -/
def readPartB (p : Page) (key n pol gva : Nat) : M (List (Byte × Bool)) := do
  let s ← get
  let core := s.cur.ident.core
  let priv := p.mine s.cur.ident
  let gkey := key / p.grain * p.grain
  if p.cach && noFetch s.quad.d core key n priv && (copyOf s.quad.d (some core) gkey).isNone then
    pure ((List.range n).map (fun i =>
      match (match stage1 s.quad.d core (key + i) priv with | some b => some b | none => stage3 s.quad.d (key + i)) with
      | some b => (b.val, b.bad)
      | none => (0, false)))
  else
    let r := s.readGrain p gkey gva pol
    set r.2
    pure ((List.range n).map (fun i =>
      match stage1 s.quad.d core (key + i) priv with
      | some b => (b.val, b.bad)
      | none => (r.1.data.getD (key - gkey + i) 0, r.1.bad.contains ((key + i) / 32))))

/-- The parts of a piece that lie in different grains: virtual address, key and length of each. -/
def grainParts (g : Nat) : Nat → Nat → Nat → Nat → List (Nat × Nat × Nat)
  | 0, _, _, _ => []
  | fuel + 1, va, key, n =>
    if n = 0 then []
    else
      let room := g - key % g
      if n ≤ room then [(va, key, n)] else (va, key, room) :: grainParts g fuel (va + room) (key + room) (n - room)

/-- The bytes of one piece, each with whether it is poisoned where it was found (R291, R298, R398). -/
def readSegB (pol : Nat) (g : Seg) : M (List (Byte × Bool)) := do
  match g.page with
  | none =>
    let s ← get
    pure ((List.range g.n).map (fun i =>
      match stage1 s.quad.d s.cur.ident.core (g.key + i) false with
      | some b => (b.val, b.bad)
      | none => (memGet s.mem (g.key + i), s.poisonedAt (g.key + i))))
  | some p =>
    let parts := grainParts p.grain (g.n / 32 + 2) g.va.toNat g.key g.n
    let bs ← parts.mapM (fun t => readPartB p t.2.1 t.2.2 pol (t.1 - t.2.1 % p.grain))
    pure bs.flatten

/-- The bytes of one piece; the first poisoned one raises POISON, and nothing is read (R398). -/
def readSeg (pol : Nat) (g : Seg) : M (List Byte) := do
  let s ← get
  let bs ← readSegB pol g
  match bs.findIdx? (·.2) with
  | some i =>
    set s
    raiseAt cPOISON (w64 (g.va.toNat + i)) 2 0
  | none => pure (bs.map (·.1))

/-! ### Marks (R225 to R227, R229) -/

/-- The grain size of a piece: the page's, or 32 bytes in the window area (R225). -/
def Seg.grain (g : Seg) : Nat := match g.page with | some p => p.grain | none => 32

/-- The key id of a piece's page (R220, R477). -/
def Seg.kid (g : Seg) : Nat := match g.page with | some p => p.kid | none => 0

/-- The writer `w`'s mark makes a read by the current strand fault (R226), and the level that would suffice (R227). -/
def markLevel (me : Ident) (uid : Nat) (w : Strand) (k : Mark) : Option Nat :=
  if w.uid = uid then (if k.core then none else some 0)
  else if w.ident.core = me.core then (if k.core then none else some 0)
  else some 1

/-- The marks on a byte that fault: (level, core, slot, mark). -/
def State.faulting (s : State) (key : Nat) : List (Nat × Nat × Nat × Mark) :=
  (s.residents s.cur.ident.quad).flatMap (fun w =>
    (w.marks.filter (fun k => decide (k.key ≤ key) && decide (key < k.key + k.size))).filterMap (fun k =>
      (markLevel s.cur.ident s.cur.uid w k).map (fun l => (l, w.ident.core, w.ident.slot, k))))

/-- The reporting writer: the highest level, then the lowest core and slot (R227). -/
def reporting (xs : List (Nat × Nat × Nat × Mark)) : Option (Nat × Nat × Nat × Mark) :=
  xs.foldl (fun b x =>
    match b with
    | none => some x
    | some y =>
      if y.1 < x.1 ∨ (y.1 = x.1 ∧ (x.2.1 < y.2.1 ∨ (x.2.1 = y.2.1 ∧ x.2.2.1 < y.2.2.1))) then some x else some y) none

/-- The GRN code of a grain size (R227). -/
def grnOf (size : Nat) : Nat := match size with | 32 => 1 | 512 => 2 | _ => 0

/-- The lowest byte of a piece that carries a faulting mark. -/
def State.markedByte (s : State) (g : Seg) : Option Nat :=
  (List.range g.n).find? (fun i => !(s.faulting (g.key + i)).isEmpty)

/-- The check of R226 of one piece of a read: EVAL and EINFO of TURN_NEEDED at its lowest marked grain. A read by the owner
core of a private page never fails it (R231). -/
def State.segFail (s : State) (g : Seg) : Option (Word × Word) :=
  if (match g.page with | some p => p.mine s.cur.ident | none => false) then none
  else
    match s.markedByte g with
    | none => none
    | some i =>
      let fs := s.faulting (g.key + i)
      match reporting fs with
      | none => none
      | some x =>
        let multi := decide (1 < fs.length)
        let gva := g.va + w64 i - w64 (g.key + i - x.2.2.2.key)
        some (gva, w64 (x.2.2.1 * 2 ^ 13 + (if multi then 2 ^ 12 else 0) + x.2.1 * 2 ^ 8 +
          grnOf x.2.2.2.size * 4 + x.1))

/-- The check of R226 over the pieces of a read: it fails at the lowest marked grain that the read touches. -/
def State.turnFail (s : State) (segs : List Seg) : Option (Word × Word) :=
  (segs.filterMap s.segFail).foldl (fun (m : Option (Word × Word)) f =>
    match m with
    | some b => if f.1.toNat < b.1.toNat then some f else m
    | none => some f) none

/-- Raises TURN_NEEDED when R226 says so. -/
def turnCheck (segs : List Seg) (rst : Nat) : M Unit := do
  let s ← get
  match s.turnFail segs with
  | some f => raiseAt cTURN_NEEDED f.1 f.2 rst
  | none => pure ()

/-- Translates and checks an access, or stops. -/
def segsM (va : Word) (n : Nat) (a : Acc) (rst : Nat) : M (List Seg) := do
  let s ← get
  let r := s.segs va n a
  match r.1 with
  | .ok gs =>
    set r.2
    pure gs
  | .error f => throw (r.2.failStop f a rst)

/-- The pieces of several accesses made as one, each translated and checked; the failure that stands earliest in the order of R50, and
the first of them on a tie (R107). -/
def State.segsAllGo : List (Word × Nat) → Acc → State → Option Fail → List (List Seg) → Except Fail (List (List Seg)) × State
  | [], _, s, some f, _ => (.error f, s)
  | [], _, s, none, acc => (.ok acc.reverse, s)
  | (va, n) :: r, a, s, f, acc =>
    match s.segs va n a with
    | (.error g, t) => State.segsAllGo r a t (worse f g) acc
    | (.ok gs, t) => State.segsAllGo r a t f (gs :: acc)

/-- Translates and checks several accesses as one, or stops. -/
def segsAll (xs : List (Word × Nat)) (a : Acc) (rst : Nat) : M (List (List Seg)) := do
  let s ← get
  let r := State.segsAllGo xs a s none []
  match r.1 with
  | .ok gs =>
    set r.2
    pure gs
  | .error f => throw (r.2.failStop f a rst)

/-- A checked read of n bytes (R106, R226). -/
def loadBytes (va : Word) (n : Nat) (a : Acc) (pol rst : Nat) : M (List Byte) := do
  let gs ← segsM va n a rst
  turnCheck gs rst
  let bs ← gs.mapM (readSeg pol)
  pure bs.flatten

/-! ### Bringing bytes outward -/

/-- A byte entry lies in a range of keys. -/
def OutB.within (b : OutB) (k n : Nat) : Bool := decide (k ≤ b.key) && decide (b.key < k + n)

/-- A byte entry lies in a grain and holds a store of strand `uid`. -/
def OutB.of (b : OutB) (uid gkey size : Nat) : Bool := b.within gkey size && b.owners.contains uid

/-- The lines that a stage of the outbound path holds, the latest written first. -/
def outLines (out : List OutB) (core : Option Nat) : List Nat :=
  ((out.filter (fun b => b.core == core)).map (fun b => lineOf b.key)).eraseDups

/-- Merges a byte into its stage: it supplies the byte from now on and keeps the owners it replaces, and its POL becomes that
of the stage's whole line (R222, R292). -/
def mergeOut (out : List OutB) (b : OutB) : List OutB :=
  let same (x : OutB) := x.core == b.core && x.key == b.key
  let ow := match out.find? same with | some x => b.owners ++ x.owners.filter (fun u => !b.owners.contains u) | none => b.owners
  { b with owners := ow } :: (out.filter (fun x => !same x)).map (fun x =>
    if x.core = b.core ∧ lineOf x.key = lineOf b.key then { x with tag := { x.tag with pol := b.tag.pol } } else x)

/-- Merges a byte into the quad outbound cache. -/
def pushQuad (out : List OutB) (b : OutB) : List OutB := mergeOut out { b with core := none, turned := true, sent := none }

/-- Bytes written over a list that stands for keys from `k` up. -/
def patch (k : Nat) (d : List Byte) (bs : List OutB) : List Byte :=
  d.zipIdx.map (fun p => ((bs.find? (fun b => b.key == k + p.2)).map (·.val)).getD p.1)

/-- Bytes of a core's buffer move one stage outward: into the quad outbound cache, or the scratchpad bank (R228, R288, R298).
The core's L1 gives up the lines they overtake, and its atomic cache takes their values (R334). -/
def State.spill (s : State) (quad core : Nat) (bs : List OutB) : State :=
  let gone (b : OutB) := bs.any (fun x => decide (x = b))
  let hit (c : Copy) := bs.any (fun b => c.hits b.key 1)
  let pads := bs.filter (fun b => keyHome b.key == 3)
  let s1 := s.modQuad quad (fun q => { q with d := { q.d with
    out := ((bs.filter (fun b => keyHome b.key != 3)).reverse).foldl pushQuad (q.d.out.filter (fun b => !gone b))
    copies := q.d.copies.filter (fun c => !(c.core == some core && hit c))
    atoms := q.d.atoms.map (fun a => if a.core = some core then { a with
      data := patch a.key a.data bs, holes := a.holes.filter (fun k => !bs.any (fun b => b.key == k))
      out := a.out.filter (fun o => !bs.any (fun b => b.key == o.key)) } else a) } })
  if pads.isEmpty then s1
  else (pads.filter (·.bad)).foldl (fun (s : State) b => s.spoil b.key) (s1.putBytes (pads.map (fun b => (b.key, b.val))))

/-! ### Arriving at the home (R222, R234, R307, R432) -/

/-- What the quad keeps once the bytes that effect `id` carried have merged at home: the quad outbound cache gives them up, and
the clean copies and atomic lines of the quad hold their values. A line whose record went home and that keeps no byte is given
up too. -/
def settleOut (d : QuadData) (id : Nat) (rcds : List ScopeRec) : QuadData :=
  let isGone (b : OutB) := b.core == none && b.sent == some id
  let gone := d.out.filter isGone
  let out := d.out.filter (fun b => !isGone b)
  { d with
    out := out
    copies := (d.copies.filter (fun c => !gone.any (fun b => b.bad && c.hits b.key 1))).map (fun c =>
      if c.core.isNone then { c with data := patch c.key c.data gone } else c)
    atoms := (d.atoms.filter (fun a => a.core.isSome || !rcds.any (fun r => r.key == a.key) ||
        out.any (fun b => b.core == none && b.within a.key a.data.length))).map (fun a =>
      if a.core.isNone then { a with data := patch a.key a.data gone } else a) }

/-- The strand named by WHO in a record of a quad (R305, R307). -/
def State.whoOf (s : State) (quad : Nat) (r : ScopeRec) : Option Nat :=
  ((s.residents quad).find? (fun x => x.ident.core == r.core && x.ident.slot == r.slot)).map (·.uid)

/-- An arriving record meets the home's (R305 to R307): it is checked when the home's EPOCH has risen since its copy was
fetched, and replaces it. -/
def State.landRec (s : State) (quad : Nat) (id : Ident) (r : ScopeRec) : State × List Mismatch :=
  let h := s.homeRec r.key
  let bad := decide (r.epoch < h.epoch) && !recOk h r.scope r.dom { id with quad := quad, core := r.core }
  (s.setHomeRec r, if bad then [⟨r.va, h, r.scope, true⟩] else [])

/-- Merges the bytes that effect `id` of a quad carries at their homes, line by line, and their records after them (R222, R234,
R307, R432). The mismatches of a turn or release are the result; those of a drain are logged by the strands that WHO names. -/
def State.landTurn (s : State) (quad uid id : Nat) (bytes : List HomeB) (rcds : List ScopeRec) (how : Carry) : State × List Mismatch :=
  let i := match s.strand? uid with | some x => x.ident | none => s.cur.ident
  let s1 := ((bytes.map (fun b => lineOf b.key)).eraseDups).foldl (fun (s : State) l =>
    s.landLine uid i.part l (bytes.filter (fun b => lineOf b.key == l))) s
  let s2 := match how with
    | .system rs => s1.hostOut (fun b => rs.any (fun r => b.within r.1 r.2))
    | _ => s1
  let s3 := s2.modQuadAll quad (fun d => settleOut d id rcds)
  rcds.foldl (fun (t : State × List Mismatch) r =>
    let u := t.1.landRec quad i r
    match how with
    | .drain => (u.2.foldl (fun (s : State) m =>
        match s.whoOf quad r with | some w => s.chargeLog w m | none => s) u.1, t.2)
    | _ => (u.1, t.2 ++ u.2)) (s3, [])

/-- The effect that carries bytes of the quad outbound cache home is on its way. -/
def State.markSent (s : State) (quad : Nat) (ks : List Nat) (id : Nat) : State :=
  s.modQuad quad (fun q => { q with d := { q.d with out := q.d.out.map (fun b =>
    if b.core.isNone ∧ ks.contains b.key then { b with sent := some id } else b) } })

/-- Sends bytes of the quad outbound cache home for strand `uid`, which does not wait for them: through the platform when it
holds effects, else at once (R413, R223; log 6). DESIGN CHOICE (log 80): a mismatch of a HOME turn that no instruction of the strand makes
(before its context is saved, for another strand's `sy.tlbinv`, at the end of a terminated strand) is logged, whatever SCOPECTL
holds. -/
def State.sendHome (s : State) (quad uid : Nat) (bs : List HomeB) (rcds : List ScopeRec) (how : Carry) : State :=
  let id := s.effSeq
  let s1 := s.markSent quad (bs.map (·.key)) id
  if s.heldAt quad then s1.handOn quad uid (.turn bs rcds how)
  else
    let t := ({ s1 with effSeq := id + 1 }).landTurn quad uid id bs rcds how
    t.2.foldl (fun (s : State) m => s.chargeLog uid m) t.1

/-- The bytes as they travel. -/
def State.cargo (s : State) (bs : List OutB) : List HomeB :=
  bs.map (fun b => ⟨b.key, b.val, b.tag, (s.strand? (b.owners.headD 0)).elim 0 (·.ident.crew), b.bad, b.owners⟩)

/-- The fetched records of the grains that a quad holds within a range (R307). -/
def quadRecs (d : QuadData) (k n : Nat) : List ScopeRec :=
  (d.atoms.filter (fun a => a.core.isNone && decide (k ≤ a.key) && decide (a.key < k + n) && a.rcd.scope != 0)).map (·.rcd)

/-- Drains bytes of the quad outbound cache toward their home (R228, R307). -/
def State.drainHome (s : State) (quad : Nat) (bs : List OutB) : State :=
  match bs with
  | [] => s
  | b :: _ =>
    let d := (s.getQuad quad).d
    let k := 512 * lineOf b.key
    let rs := (quadRecs d k 512).filter (fun r => bs.any (fun b => decide (r.key ≤ b.key) && decide (b.key < r.key + b.tag.size)))
    s.sendHome quad (b.owners.headD 0) (s.cargo bs) rs .drain

/-- The quad outbound cache holds 8 lines of a set: of a set with more those written longest ago drain (R222, R228, R291;
log 26). Lines on their way home no longer count. -/
def State.fitOutbound (s : State) (quad : Nat) : State :=
  let out := (s.getQuad quad).d.out
  let here (b : OutB) := b.core == none && b.sent.isNone
  let ls := outLines (out.filter here) none
  if ls.length ≤ 8 then s
  else
    let extra := ((ls.map quadSet).eraseDups).flatMap (fun k => (ls.filter (fun l => quadSet l == k)).drop 8)
    extra.foldr (fun l (s : State) => s.drainHome quad (out.filter (fun b => here b && lineOf b.key == l))) s

/-- The quad outbound cache keeps no byte of a page that is not cacheable: what drains into it goes on to its home (R220). -/
def State.passUncached (s : State) (quad : Nat) : State :=
  let bs := (s.getQuad quad).d.out.filter (fun b => b.core.isNone && b.sent.isNone && !b.tag.cach)
  ((bs.map (fun b => lineOf b.key)).eraseDups).foldr (fun l (s : State) => s.drainHome quad (bs.filter (fun b => lineOf b.key == l))) s

/-- Bytes of a core's buffer drain by capacity (R220, R222, R228). -/
def State.drainCore (s : State) (quad core : Nat) (bs : List OutB) : State :=
  if bs.isEmpty then s else ((s.spill quad core bs).passUncached quad).fitOutbound quad

/-- A core's outbound buffer holds 64 lines of 512 bytes, 32 KiB: beyond them those written longest ago drain (R222, R228;
log 26). -/
def State.fitBuffer (s : State) (quad core : Nat) : State :=
  let out := (s.getQuad quad).d.out
  let extra := (outLines out (some core)).drop 64
  s.drainCore quad core (out.filter (fun b => b.core == some core && extra.contains (lineOf b.key)))

/-! ### Turns (R225, R230, R234) -/

/-- A mark of the strand on a grain was restored with its context (R230). -/
def Strand.movedMark (x : Strand) (gkey size : Nat) : Bool :=
  x.marks.any (fun k => k.moved && decide (gkey ≤ k.key) && decide (k.key < gkey + size))

/-- A turn at CORE: the strand's bytes of the grain become readable by its core (R234). A restored grain loses its copies in the
core's L1 (R230). -/
def State.turnCoreBytes (s : State) (x : Strand) (gkey size : Nat) : State :=
  s.modQuad x.ident.quad (fun q =>
    let mine (b : OutB) := decide (b.core = some x.ident.core) && b.of x.uid gkey size
    { q with d := { q.d with
      copies := if x.movedMark gkey size then q.d.copies.filter (fun c => !(c.core == some x.ident.core && c.hits gkey size))
        else q.d.copies
      out := q.d.out.map (fun b => if mine b then { b with turned := true } else b) } })

/-- The atomic-cache line of a core's grain goes to the quad outbound cache with the bytes that atomics have written (R334): its record
meets the one there (R307). -/
def State.liftAtom (s : State) (x : Ident) (gkey : Nat) : State × List Mismatch :=
  let d := (s.getQuad x.quad).d
  let own (a : AtomLine) := a.core == some x.core && a.key == gkey
  match d.atoms.find? own with
  | none => (s, [])
  | some a =>
    let rest := d.atoms.filter (fun b => !own b)
    let put (l : List AtomLine) : State := s.modQuad x.quad (fun q => { q with d := { q.d with
      atoms := l, out := a.out.reverse.foldl pushQuad q.d.out } })
    match rest.find? (fun b => b.core.isNone && b.key == gkey) with
    | none => (put ({ a with core := none, out := [] } :: rest), [])
    | some b =>
      if a.rcd.scope = 0 then (put rest, [])
      else
        let bad := decide (a.rcd.epoch < b.rcd.epoch) && !recOk b.rcd a.rcd.scope a.rcd.dom x
        (put ({ b with rcd := { a.rcd with epoch := b.rcd.epoch } } :: rest.filter (fun k => !(k.core.isNone && k.key == gkey))),
          if bad then [⟨a.rcd.va, b.rcd, a.rcd.scope, false⟩] else [])

/-- A turn at QUAD (R234, R291, R298): the strand's bytes of the grain drain into the quad outbound cache, with its core's atomic
line, and the grain is installed in the quad inbound cache; the cores' L1 copies of it are dropped, and for a restored grain
the quad inbound copy too (R230). Scratchpad bytes go into their bank. -/
def State.turnQuadBytes (s : State) (x : Strand) (gkey size : Nat) (cach : Bool) : State × List Mismatch :=
  let mine := (s.getQuad x.ident.quad).d.out.filter (fun b => b.core == some x.ident.core && b.of x.uid gkey size)
  let s1 := s.spill x.ident.quad x.ident.core mine
  if keyHome gkey = 3 then (s1, [])
  else
    let t := s1.liftAtom x.ident gkey
    let s2 := t.1.modQuad x.ident.quad (fun q => { q with d := { q.d with
      copies := q.d.copies.filter (fun c => !((c.core.isSome || x.movedMark gkey size) && c.hits gkey size)) } })
    let d := (s2.getQuad x.ident.quad).d
    let ours := d.out.filter (fun b => b.core.isNone && b.of x.uid gkey size)
    let kid := match ours.head? with | some b => b.tag.kid | none => 0
    let (base, s3) := match copyOf d none gkey with | some c => (c.data, s2) | none => s2.keyRead kid gkey size
    let ok := cach && !ours.isEmpty && (overlayBad d gkey size (s3.badSectors gkey size)).isEmpty
    let s4 := s3.modQuad x.ident.quad (fun q => { q with
      d := if ok then putCopy q.d ⟨none, gkey, overlay3 q.d gkey base, false, []⟩ else q.d })
    (s4.fitOutbound x.ident.quad, t.2)

/-- The strand's bytes of a grain that stand in the quad outbound cache and are not on their way yet, and the grain's record:
what a HOME turn carries (R234, R307). -/
def State.homeCargo (s : State) (x : Strand) (gkey size : Nat) : List HomeB × List ScopeRec :=
  let d := (s.getQuad x.ident.quad).d
  let bs := d.out.filter (fun b => b.core.isNone && b.sent.isNone && b.of x.uid gkey size)
  (s.cargo bs, if bs.isEmpty then [] else quadRecs d gkey size)

/-- Bytes of the strand in a grain are on their way home. -/
def State.underway (s : State) (x : Strand) (gkey size : Nat) : Bool :=
  (s.getQuad x.ident.quad).d.out.any (fun b => b.sent.isSome && b.of x.uid gkey size)

/-! ### The strand's marks and pending set -/

/-- Takes away, or raises to CORE, the strand's marks on a grain (R225). -/
def Strand.unmark (x : Strand) (gkey size : Nat) (core : Bool) : Strand :=
  let inG (k : Mark) := decide (gkey ≤ k.key) && decide (k.key < gkey + size)
  if core then { x with marks := x.marks.map (fun k => if inG k then { k with core := true } else k) }
  else { x with marks := x.marks.filter (fun k => !inG k) }

/-- Takes a grain out of the pending set (R293). -/
def Strand.unpend (x : Strand) (gkey size : Nat) : Strand :=
  { x with pend := x.pend.filter (fun k => !(decide (gkey ≤ k.key) && decide (k.key < gkey + size))) }

/-- Turns one grain of strand x at CORE or QUAD (R234). -/
def State.turnGrainLow (s : State) (x : Strand) (gkey size : Nat) (quadLevel cach : Bool) : State × List Mismatch :=
  if quadLevel then
    let t := s.turnQuadBytes x gkey size cach
    (t.1.modStrand x.uid (fun y => y.unmark gkey size false), t.2)
  else ((s.turnCoreBytes x gkey size).modStrand x.uid (fun y => y.unmark gkey size true), [])

/-- Turns one grain of strand x at HOME without the strand waiting for it: at a limit, or before its context leaves (R230, R293). A
scratchpad grain goes to QUAD only (R233). -/
def State.turnAway (s : State) (x : Strand) (g : Pend) (how : Carry) : State :=
  let t := s.turnGrainLow x g.key g.size true g.cach
  -- at a limit the strand that the arriving record names is charged, as at a drain (R307)
  let line := (s.getQuad x.ident.quad).d.atoms.find? (fun a => a.core == some x.ident.core && a.key == g.key)
  let who := if how = .drain then line.bind (fun a => s.whoOf x.ident.quad a.rcd) else some x.uid
  let s1 := (t.2.foldl (fun (s : State) m => who.elim s (fun u => s.chargeLog u m)) t.1).modStrand x.uid (fun y => y.unpend g.key g.size)
  if keyHome g.key = 3 then s1
  else
    let c := s1.homeCargo x g.key g.size
    if c.1.isEmpty then s1 else s1.sendHome x.ident.quad x.uid c.1 c.2 how

/-- The strand's mark limit: the oldest mark is turned at QUAD before an 8,193rd is made (R229); the bytes of a page that is not
cacheable go on to their home (R220). -/
def State.roomForMark (s : State) (gkey : Nat) : State :=
  if s.cur.marks.any (fun k => k.key == gkey) || decide (s.cur.marks.length < 8192) then s
  else
    match s.cur.marks with
    | [] => s
    | k :: _ =>
      let t := s.turnGrainLow s.cur k.key k.size true k.cach
      let s1 := t.2.foldl (fun (s : State) m => s.chargeLog s.cur.uid m) t.1
      let c := s1.homeCargo s1.cur k.key k.size
      if k.cach || keyHome k.key == 3 || c.1.isEmpty then s1 else s1.sendHome s1.quad.id s1.cur.uid c.1 c.2 .home

/-- The pending set's limit: its oldest grain is turned at HOME before an 8,193rd enters (R293), as at a drain (R307). -/
def State.roomForPend (s : State) (gkey : Nat) : State :=
  if s.cur.pend.any (fun k => k.key == gkey) || decide (s.cur.pend.length < 8192) then s
  else
    match s.cur.pend with
    | [] => s
    | k :: _ => s.turnAway s.cur k .drain

/-- Enters a grain in the pending set (R293). -/
def State.addPend (s : State) (gkey gva size : Nat) (cach : Bool) : State :=
  let s1 := s.roomForPend gkey
  if s1.cur.pend.any (fun k => k.key == gkey) then s1
  else s1.modCur (fun x => { x with pend := x.pend ++ [⟨gkey, gva, size, cach⟩] })

/-- Creates or refreshes the current strand's mark on a grain (R225). DESIGN CHOICE (log 80): a refreshed mark keeps the place of its
creation among the strand's marks, the oldest of which R229 turns. -/
def State.addMark (s : State) (gkey gva size : Nat) (cach : Bool) : State :=
  let s1 := (s.roomForMark gkey).addPend gkey gva size cach
  if s1.cur.marks.any (fun k => k.key == gkey) then
    s1.modCur (fun x => { x with marks := x.marks.map (fun k => if k.key = gkey then { k with core := false } else k) })
  else s1.modCur (fun x => { x with marks := x.marks ++ [⟨gkey, gva, size, cach, false, false⟩] })

/-- Puts a byte into the current core's outbound buffer (R223, R288). -/
def State.putOut (s : State) (key : Nat) (v : Byte) (turned : Bool) (tag : Tag) : State :=
  s.modQ (fun q => { q with out := mergeOut q.out ⟨some s.cur.ident.core, key, v, turned, [s.cur.uid], tag, none, false⟩ })

/-- The page of a piece is cacheable (R220). -/
def Seg.cach (g : Seg) : Bool := match g.page with | some p => p.cach | none => false

/-- Performs the store of one piece (R223, R225, R298). -/
def State.storeSeg (s : State) (g : Seg) (bs : List Byte) (pol : Nat) : State :=
  let s1 := (grainParts g.grain (g.n / 32 + 2) g.va.toNat g.key g.n).foldl (fun (s : State) t =>
    let gk := t.2.1 / g.grain * g.grain
    s.addMark gk (t.1 - (t.2.1 - gk)) g.grain g.cach) s
  let s2 := bs.zipIdx.foldl (fun (s : State) p =>
    s.putOut (g.key + p.2) p.1 false ⟨g.va.toNat + p.2, g.grain, g.cach, g.kid, pol⟩) s1
  s2.fitBuffer s2.quad.id s2.cur.ident.core

/-! ### Mirror stores (R299) -/

/-- The crews that a crew's mirror stores reach: its mirror group's, or itself alone (R258, R299). -/
def State.mirrorCrews (s : State) (crew : Nat) : List Crew :=
  match s.crews.find? (fun c => c.id == crew) with
  | none => []
  | some c =>
    match s.launches.find? (fun l => l.handle == c.launch) with
    | some l =>
      if l.mirror && l.mgrp != 0 then
        s.crews.filter (fun d => d.launch == c.launch && d.index / l.mgrp == c.index / l.mgrp && !d.depot)
      else [c]
    | none => [c]

/-- Delivers a mirror store of a crew's strand to every member: its bytes enter the member's bank (R299). -/
def State.deliverMirror (s : State) (crew off : Nat) (bs : List Byte) : State :=
  (s.mirrorCrews crew).foldl (fun (s : State) m => s.scratchWrite m.quad (m.abase + off) bs) s

/-- The bytes of each piece, cut from the whole. -/
def cutBytes : List Seg → List Byte → List (Seg × List Byte)
  | [], _ => []
  | g :: r, bs => (g, bs.take g.n) :: cutBytes r (bs.drop g.n)

/-- A strip of the current strand that is still on its way reads a byte of some pieces: a younger access that writes one waits, so
that the strip never returns its value (R224, R244). -/
def clearOfStrips (segs : List Seg) : M Unit := do
  let s ← get
  let hits (t : Strip) := t.els.flatten.any (fun g => segs.any (fun k =>
    !g.mir && !k.mir && decide (g.key < k.key + k.n) && decide (k.key < g.key + g.n)))
  if (s.cur.ring.elim [] (fun r => r.strips.filter (fun t => t.got.isNone))).any hits then throw .wait else pure ()

/-- What a store of some pieces hands to the platform: its mirror pieces. -/
def mirrorSize (segs : List Seg) : Nat := (segs.filter (·.mir)).foldl (fun m g => m + 64 + g.n) 0

/-- Performs a checked store: D is set, mirror pieces leave through the platform, the others enter the core outbound
buffer (R223, R299, R385). -/
def storeSegs (segs : List Seg) (bs : List Byte) (pol : Nat) : M Unit := do
  behindAt
  clearOfStrips segs
  platform (mirrorSize segs)
  modify (fun s => s.setDirty segs)
  (cutBytes segs bs).forM (fun t => do
    if t.1.mir then
      let s ← get
      emitGo (.mirror t.1.key t.2) (fun st => st.deliverMirror s.cur.ident.crew t.1.key t.2)
    else modify (fun s => s.storeSeg t.1 t.2 pol))

/-- A checked store of bytes (R106). -/
def storeBytes (va : Word) (bs : List Byte) (a : Acc) (pol rst : Nat) : M Unit := do
  let gs ← segsM va bs.length a rst
  storeSegs gs bs pol

/-! ### Turns, releases and acquires (R234, R235, R302) -/

/-- Drops the clean copies of a grain in the current core's L1, and in the quad inbound cache too (R235). -/
def State.dropGrain (s : State) (gkey size : Nat) (quadToo : Bool) : State :=
  s.modQ (fun q => { q with copies := q.copies.filter (fun c =>
    !(c.hits gkey size && (c.core == some s.cur.ident.core || (quadToo && c.core.isNone)))) })

/-- An acquire at scope k (R302). -/
def State.acquire (s : State) (k : Nat) : State :=
  if k ≤ 1 then s
  else s.modQ (fun q => { q with copies := q.copies.filter (fun c =>
    !(c.core == some s.cur.ident.core || (decide (3 ≤ k) && c.core.isNone))) })

/-- Charges the mismatches of the current strand's turn: the first that SCOPECTL traps raises SCOPE_MISMATCH with the
grain's virtual address, the others are logged (R309). -/
def chargeTurn (gva : Nat) (ms : List Mismatch) : M Unit := do
  ms.forM (fun x => do
    let s ← get
    let y := { x with gva := gva }
    if trapsScope s.cur.sc.scopectl y.new_ then raiseAt cSCOPE_MISMATCH (w64 gva) y.info 0
    else set (s.chargeLog s.cur.uid y))

/-- The words by which a platform's reply tells of mismatches. -/
def mismatchWords (ms : List Mismatch) : List Word :=
  ms.flatMap (fun x => [w64 x.old.scope, w64 x.old.dom, w64 x.new_])

/-- Mismatches from a reply's words. -/
def wordsMismatch (key : Nat) : List Word → List Mismatch
  | a :: b :: c :: r => ⟨0, ⟨key, a.toNat, b.toNat, 0, 0, 0, 0⟩, c.toNat, true⟩ :: wordsMismatch key r
  | _ => []

/-- Sends bytes of the current quad's outbound cache home and waits for the acknowledgement (R234, R413): the mismatches it
tells of. -/
def carryHome (key : Nat) (bs : List HomeB) (rcds : List ScopeRec) (how : Carry) : M (List Mismatch) := do
  let s ← get
  platform (EffKind.turn bs rcds how).size
  (if s.cur.handed.isNone then modify (fun s => s.markSent s.quad.id (bs.map (·.key)) s.effSeq) else pure ())
  let r ← outwardGo (.turn bs rcds how) (fun st =>
    let t := st.landTurn st.quad.id st.cur.uid st.effSeq bs rcds how
    (t.1, mismatchWords t.2))
  pure (wordsMismatch key r)

/-- A home slice holds bytes of a range of a host page that it has still to write to the host (R432). -/
def State.owesHost (s : State) (k n : Nat) : Bool := s.hostB.any (fun b => b.dirty.isSome && b.within k n)

/-- The bytes of a grain have been delivered: the mismatches that the turn found within the quad and at the home are charged (R309). -/
def chargeAll (gkey gva : Nat) (ms : List Mismatch) : M Unit := do
  let s ← get
  let own := s.cur.owedMis.map (fun m => (⟨0, ⟨gkey, m.1, m.2.1, 0, 0, 0, 0⟩, m.2.2, false⟩ : Mismatch))
  modCur (fun x => { x with owedMis := [] })
  chargeTurn gva (own ++ ms)

/-- Turns one grain of the current strand at a level (R234): 0 CORE, 1 QUAD, 2 HOME, 3 SYSTEM. At QUAD the bytes of a page that
is not cacheable go on to their home, where its readers fetch them (R220). -/
def turnGrain (gkey gva size level : Nat) (cach : Bool) : M Unit := do
  let s0 ← get
  let t := s0.turnGrainLow s0.cur gkey size (decide (1 ≤ level)) cach
  set t.1
  modCur (fun x => { x with owedMis := x.owedMis ++ t.2.map (fun m => (m.old.scope, m.old.dom, m.new_)) })
  if level = 0 ∨ (level = 1 ∧ cach) ∨ keyHome gkey = 3 then
    (if 2 ≤ level then modCur (fun x => x.unpend gkey size) else pure ())
    chargeAll gkey gva []
  else
    let s ← get
    if s.cur.handed.isNone && s.underway s.cur gkey size then block
    else
      let c := s.homeCargo s.cur gkey size
      let how : Carry := if level = 3 then .system [(gkey, size)] else .home
      if c.1.isEmpty && s.cur.handed.isNone && !(level == 3 && s.owesHost gkey size) then
        (if 2 ≤ level then modCur (fun x => x.unpend gkey size) else pure ())
        chargeAll gkey gva []
      else
        let ms ← carryHome gkey c.1 c.2 how
        (if 2 ≤ level then modCur (fun x => x.unpend gkey size) else pure ())
        chargeAll gkey gva ms

/-- A mirror store of the strand still waits on the platform (R300). -/
def State.mirrorPending (s : State) (uid : Nat) : Bool :=
  (s.getQuad s.cur.ident.quad).plat.any (fun e => e.uid == uid && (match e.kind with | .mirror _ _ => true | _ => false)) ||
  s.reqs.any (fun r => r.eff.uid == uid && (match r.eff.kind with | .mirror _ _ => true | _ => false))

/-- An effect of the strand that writes host bytes through is under way (R432). -/
def State.writingThrough (s : State) (uid : Nat) : Bool :=
  let hit (e : Eff) := e.uid == uid && (match e.kind with | .turn [] [] (.system _) => true | _ => false)
  s.quad.plat.any hit || s.reqs.any (fun r => hit r.eff)

/-- The bytes of host pages that a strand has stored and their home slices still owe to the host (R432). -/
def State.hostOwes (s : State) (uid : Nat) : List (Nat × Nat) :=
  (s.hostB.filter (fun b => (b.dirty.getD []).contains uid)).map (fun b => (b.key, 1))

/-- What the strand has stored to host pages and their home slices still owe is written through (R432). -/
def writeThrough : M Unit := do
  let s ← get
  if (s.hostOwes s.cur.uid).isEmpty then pure ()
  else
    (if s.writingThrough s.cur.uid then pure ()
     else modify (fun s => s.sendHome s.quad.id s.cur.uid [] [] (.system (s.hostOwes s.cur.uid))))
    let t ← get
    if (t.hostOwes t.cur.uid).isEmpty then pure () else block

/-- A byte of the strand that left its pending set at the limit is on its way home (R293). -/
def State.travels (s : State) (k n : Nat) : Bool :=
  s.quad.d.out.any (fun b => b.sent.isSome && b.owners.contains s.cur.uid && b.within k n)

/-- A release at scope k: every grain of the pending set is turned to the level k needs, and at DIE scope or wider every
mirror store has been delivered (R300, R302); at POD scope the host receives what its slices owe it (R432). -/
def release (k : Nat) : M Unit := do
  let s ← get
  s.cur.pend.forM (fun g => turnGrain g.key g.va g.size (relLevel k) g.cach)
  let t ← get
  if 3 ≤ k && (t.mirrorPending t.cur.uid || t.travels 0 (2 ^ 54)) then block
  else if k = 5 then writeThrough
  else pure ()

end Sys2Proof.Machine
end

