-- ==== Sys2Proof/Machine/Barrier.lean ====
section
/-! DEFINITION. Barriers and the arrivals of strands (R278 to R286). A barrier's number is its scope times 2^20 plus its
place: 64 × COREID + id, 64 × QUADID + id, 64 × DIEID + the partition's base + id, or the base + id. CORE and QUAD barriers
stand with their quad, the wider ones with the module. -/

namespace Sys2Proof.Machine

/-- The limit of ids at a scope: 64, 64, or the partition's share (R278, R279). -/
def barLimit (p : Option Part) (k : Nat) : Nat :=
  match k, p with
  | 1, _ => 64
  | 2, _ => 64
  | 3, some x => x.dieCnt
  | 4, some x => x.pkgCnt
  | 5, some x => x.podCnt
  | _, _ => 0

/-- The number of the barrier that scope k and id name from a placement (R278, R279). -/
def barKey (p : Option Part) (i : Ident) (k id : Nat) : Nat :=
  k * 2 ^ 20 +
  (match k, p with
  | 1, _ => 64 * i.coreid + id
  | 2, _ => 64 * i.quad + id
  | 3, some x => 64 * dieOf i.quad + x.dieBase + id
  | 4, some x => x.pkgBase + id
  | 5, some x => x.podBase + id
  | _, _ => id)

/-- The scope of a barrier number. -/
def barScope (b : Nat) : Nat := b / 2 ^ 20

/-- The quad that holds a CORE or QUAD barrier. -/
def barQuad (b : Nat) : Nat := if barScope b = 1 then b % 2 ^ 20 / 64 / 4 else b % 2 ^ 20 / 64

/-- A barrier as at reset (R280). -/
def Barrier.zero (b : Nat) : Barrier := ⟨b, 0, [], 0⟩

/-- ARRIVED (R280). -/
def Barrier.arrived (b : Barrier) : Nat := b.who.length

/-- The barrier of a number. -/
def State.bar (s : State) (b : Nat) : Barrier :=
  if barScope b ≤ 2 then ((s.getQuad (barQuad b)).d.bars.find? (fun x => x.id == b)).getD (Barrier.zero b)
  else (s.wideBars.find? (fun x => x.id == b)).getD (Barrier.zero b)

/-- Puts a barrier back; one that is as at reset is not listed. -/
def putBar (bs : List Barrier) (x : Barrier) : List Barrier :=
  let rest := bs.filter (fun y => !(y.id == x.id))
  if x = Barrier.zero x.id then rest else x :: rest

/-- Writes a barrier. -/
def State.setBar (s : State) (x : Barrier) : State :=
  if barScope x.id ≤ 2 then
    s.modQuad (barQuad x.id) (fun q => { q with d := { q.d with bars := putBar q.d.bars x } })
  else { s with wideBars := putBar s.wideBars x }

/-- The completion test, repeated until it fails (R280): ARRIVED is at most `fuel`. The arrivals that came first are the
ones a completed phase takes. -/
def completeGo : Nat → Barrier → Barrier
  | 0, x => x
  | fuel + 1, x =>
    if x.count ≠ 0 ∧ x.count ≤ x.arrived then
      completeGo fuel { x with who := x.who.drop x.count, phase := x.phase + 1 }
    else x

/-- Applies the completion test (R280). -/
def Barrier.settle (x : Barrier) : Barrier := completeGo x.arrived x

/-- A record of which the barrier has completed the phase is complete (R280). -/
def BarRec.see (now : Nat) (x : Barrier) (r : BarRec) : BarRec :=
  if r.bar = x.id ∧ r.phase.isSome ∧ r.phase ≠ some x.phase ∧ !r.done then { r with done := true, time := now } else r

/-- The strand's records see a barrier. -/
def Strand.see (now : Nat) (b : Barrier) (x : Strand) : Strand := { x with barRecs := x.barRecs.map (BarRec.see now b) }

/-- Completed phases reach the strands that hold records (R285). Those of wide barriers come from outside a quad and stand in
its checkpoints too (R412). A saved context's records stay as they were saved (R286). -/
def State.deliverPhases (s : State) (x : Barrier) : State :=
  let s1 := s.mapStrands (fun y => if y.status = .depot then y else y.see s.timer x)
  if barScope x.id ≤ 2 then s1
  else
    let f (q : Quad) : Quad := { q with ckpts := q.ckpts.map (fun c => { c with strands := c.strands.map (Strand.see s.timer x) }) }
    { s1 with quad := f s1.quad, quads := s1.quads.map f }

/-- A barrier as the completion test leaves it is put back. Phases that complete reach the strands at once when nothing
holds effects, and by BARRIER_PHASE_DELIVERY otherwise (R285, log 6). -/
def State.settleBar (s : State) (x : Barrier) : State :=
  let y := x.settle
  let s1 := s.setBar y
  if barScope x.id ≤ 2 || !s.held then s1.deliverPhases y else s1

/-- The strand's record on a barrier (R280). -/
def Strand.barRec (x : Strand) (b : Nat) : Option BarRec := x.barRecs.find? (fun r => r.bar == b)

/-- Discards the record on a barrier. -/
def Strand.dropRec (x : Strand) (b : Nat) : Strand := { x with barRecs := x.barRecs.filter (fun r => !(r.bar == b)) }

/-- The record an arrival makes or keeps (R282): a new one when there is none or the old one is complete. One whose phase has completed
unseen is renewed when the arrival is counted. -/
def Strand.noteArrival (x : Strand) (b : Nat) : Strand :=
  match x.barRec b with
  | some r => if r.done then { x with barRecs := ⟨b, none, false, 0⟩ :: (x.dropRec b).barRecs } else x
  | none => { x with barRecs := ⟨b, none, false, 0⟩ :: x.barRecs }

/-- A new record, or one whose phase is complete, takes the PHASE current when its arrival is counted (R280, R282). -/
def Strand.takePhase (b : Nat) (phase : BitVec 32) (x : Strand) : Strand :=
  { x with barRecs := x.barRecs.map (fun r => if r.bar = b ∧ r.phase ≠ some phase then { r with phase := some phase, done := false } else r) }

/-- An arrival of a strand reaches its barrier (R280, R282). -/
def State.arriveAt (s : State) (uid b : Nat) : State :=
  let x := s.bar b
  let s1 := if barScope b ≤ 2 then s.modStrand uid (Strand.takePhase b x.phase)
    else s.modStrandAll uid (Strand.takePhase b x.phase)
  s1.settleBar { x with who := x.who ++ [uid] }

/-- The place of another module's strand among a barrier's arrivals: no strand of this module has this number (R278). -/
def farStrand : Nat := 2 ^ 63

/-- The number of the pod's barrier i (R278, R279). -/
def podBar (i : Nat) : Nat := 5 * 2 ^ 20 + i

/-- An arrival of another module's strand reaches a barrier of the pod (R278). -/
def State.podArrive (s : State) (i : Nat) : State :=
  let x := s.bar (podBar i)
  s.settleBar { x with who := x.who ++ [farStrand] }

/-- Arrivals of another module's strands are withdrawn, the latest first: their crew has left its quad or retired (R278, R286). -/
def State.podWithdraw (s : State) (i n : Nat) : State :=
  let x := s.bar (podBar i)
  let far := x.who.countP (fun u => u == farStrand) - n
  s.setBar { x with who := (x.who.foldl (fun (t : List Nat × Nat) u =>
    if u = farStrand then (if t.2 < far then (t.1 ++ [u], t.2 + 1) else t) else (t.1 ++ [u], t.2)) ([], 0)).1 }

/-- A `cf.cfg` of another module reaches a barrier of the pod (R278, R281). -/
def State.podConfig (s : State) (i n : Nat) : State := s.settleBar { s.bar (podBar i) with count := n }

/-- Withdraws the arrivals of a strand in phases not yet completed, and keeps them with it; records complete by now stay so
(R286). -/
def State.withdraw (s : State) (x : Strand) : State :=
  let mine := ((s.getQuad x.ident.quad).d.bars ++ s.wideBars).filterMap (fun b =>
    let n := b.who.count x.uid
    if n = 0 then none else some (b.id, n))
  let s1 := mine.foldl (fun (s : State) m =>
    let b := s.bar m.1
    s.setBar { b with who := b.who.filter (fun u => u != x.uid) }) s
  s1.modStrand x.uid (fun y => { y with arrs := mine, barRecs := y.barRecs.map (fun r => BarRec.see s.timer (s.bar r.bar) r) })

end Sys2Proof.Machine
end

