-- ==== Sys2Proof/Machine/Retire.lean ====
section
/-! DEFINITION. Interrupts to the host, the fault queue, parking, and the end of strands and crews (R263, R264, R315,
R395, R399 to R401, R435). -/

namespace Sys2Proof.Machine

/-- An MSI-X message for a vector: sent to the host, or left pending while the vector is masked (R435). -/
def State.interrupt (s : State) (vec : Nat) : State :=
  if s.msixMask.contains vec then
    { s with msixPend := if s.msixPend.contains vec then s.msixPend else vec :: s.msixPend }
  else { s with hostMsgs := s.hostMsgs ++ [vec] }

/-- The entries of a fault queue: 16 << SIZE (R399). -/
def Part.fqEntries (p : Part) : Nat := 16 * 2 ^ p.fqsize.toNat

/-- The queue is full (R399). -/
def Part.fqFull (p : Part) : Bool := decide ((p.fqhead - p.fqtail).toNat = p.fqEntries)

/-- Writes one fault-queue entry: its first 24 bytes, then TIME, never 0 (R399, R400). The queue's interrupt follows when
the partition has one (R435). -/
def State.fqPut (s : State) (p : Part) (bs : List Byte) : State :=
  let t := if s.timer = 0 then 1 else s.timer
  let k := p.fqbase.toNat * 2 ^ 12 + 32 * (p.fqhead.toNat % p.fqEntries)
  let s1 := (s.memWrite (homeKey 0 k) (bs ++ leBytes 8 t)).modPart p.id (fun x => { x with fqhead := x.fqhead + 1 })
  if p.fqint && decide (1 ≤ p.veccnt) then s1.interrupt p.vecbase else s1

/-- A fault-queue entry reaches its partition: it is written, or waits until the pager makes room (R399). Without a queue
nothing is written (R395). -/
def State.fqWrite (s : State) (pid : Nat) (bs : List Byte) : State :=
  match s.part? pid with
  | none => s
  | some p =>
    if p.fqbase = 0 then s
    else if p.fqFull || !p.fqwait.isEmpty then s.modPart pid (fun x => { x with fqwait := x.fqwait ++ [bs] })
    else s.fqPut p bs

/-- The first 24 bytes of a fault-queue entry (R400). -/
def fqEntry (va handle : Word) (cause kind flags : Nat) (rst : Nat) : List Byte :=
  leBytes 8 va.toNat ++ leBytes 8 handle.toNat ++ leBytes 1 cause ++ leBytes 1 kind ++ leBytes 1 flags ++ [0] ++
    leBytes 4 rst

/-- An entry written for a strand of the current quad: it leaves through the platform (R413). -/
def State.fqFor (s : State) (pid : Nat) (bs : List Byte) : State :=
  if s.held then s.hand (.fq bs) else s.fqWrite pid bs

/-- The lowest free park-table slot of a partition (R400). -/
def freeSlot (p : Part) : Nat :=
  ((List.range 4608).find? (fun i => !p.parked.any (fun x => x.slot == i))).getD 4607

/-- A park handle: SEQ and SLOT (R400). -/
def parkHandle (seq slot : Nat) : Word := w64 (seq % 2 ^ 32 * 2 ^ 13 + slot)

/-- SEQ after n: it wraps past 2^32 − 1 to 1 (R400). -/
def nextSeq (n : Nat) : Nat := if n + 1 < 2 ^ 32 then n + 1 else 1

/-- The strand parks (R401): its context stays as it stands at the instruction, which for an element-wise one includes RSTIX (R396); an
entry with PARKED is written, and it takes a park-table slot and stops issuing. -/
def State.park (s : State) (va : Word) (kind : Nat) (wr : Bool) (rst : Nat) (elt : Bool) : State :=
  let pid := s.cur.ident.part
  match s.part? pid with
  | none => s
  | some p =>
    let slot := freeSlot p
    let seq := p.parkSeq
    let s1 := s.modPart pid (fun x => { x with parkSeq := nextSeq x.parkSeq, parked := ⟨slot, seq, s.cur.uid⟩ :: x.parked })
    let s2 := s1.modCur (fun x => { x with status := .parked, rstix := if elt then BitVec.ofNat 16 rst else x.rstix, parkSlot := some slot,
                                           parkSeq := seq })
    s2.fqFor pid (fqEntry va (parkHandle seq slot) cPAGE_NP kind (1 + if wr then 16 else 0) rst)

/-! ### The end of a strand -/

/-- The launch of a crew. -/
def State.launchOf (s : State) (h : Word) : Option Launch := s.launches.find? (fun l => l.handle == h)

/-- Changes a launch. -/
def State.modLaunch (s : State) (h : Word) (f : Launch → Launch) : State :=
  { s with launches := s.launches.map (fun l => if l.handle = h then f l else l) }

/-- The crew of a number. -/
def State.crewOf (s : State) (c : Nat) : Option Crew := s.crews.find? (fun x => x.id == c)

/-- Changes a crew. -/
def State.modCrew (s : State) (c : Nat) (f : Crew → Crew) : State :=
  { s with crews := s.crews.map (fun x => if x.id = c then f x else x) }

/-- Every token the strand holds becomes FREE, and its waiting requests go (R315). -/
def State.freeTokens (s : State) (uid : Nat) : State :=
  { s with tokens := s.tokens.filter (fun t => match t.st with | .held _ u => u != uid | _ => true),
           tokReqs := s.tokReqs.filter (fun r => r.uid != uid) }

/-- Turns every grain of the strand's pending set home, at SYSTEM when `sys` asks it (R230, R263); mismatches are logged to it. -/
def State.turnAllHome (s : State) (uid : Nat) (sys : Bool) : State :=
  match s.strand? uid with
  | none => s
  | some x =>
    x.pend.foldl (fun (s : State) g =>
      match s.strand? uid with
      | none => s
      | some y => s.turnAway y g (if sys then .system [(g.key, g.size)] else .home)) s

/-- What the home slices owe the host of a strand that ends under SYSREL is written through (R432, R451). -/
def State.writeOut (s : State) (uid : Nat) : State :=
  match s.strand? uid with
  | none => s
  | some x => if s.writingThrough uid then s else s.sendHome x.ident.quad uid [] [] (.system (s.hostOwes uid))

/-- The strand has stores that have not merged at home: grains to turn, or bytes on their way (R230, R263). -/
def State.owesHome (s : State) (x : Strand) : Bool :=
  !x.pend.isEmpty || (s.getQuad x.ident.quad).d.out.any (fun b => b.sent.isSome && b.owners.contains x.uid)

/-- Reserved lines that lie in no open window of their partition become ordinary, least recently used (R318); locked
lines stay. -/
def State.relaxLines (s : State) (p : Nat) : State :=
  let covered (va : Nat) := s.crews.any (fun c =>
    c.part == p && c.windows.any (fun w => decide (w.2.1 ≤ va) && decide (va ≤ w.2.2)))
  { s with lines := s.lines.map (fun x =>
      if x.resv = some p ∧ !x.locked ∧ !covered x.va then { x with resv := none, used := 0 } else x) }

/-- Gives back the controllers a crew owns on its quad (R372). -/
def State.dropCbs (s : State) (q crew : Nat) : State :=
  s.modQuadAll q (fun d => { d with cbs := d.cbs.filter (fun c => c.owner != crew) })

/-- The arrivals of a crew's strands in phases not yet completed are withdrawn (R286). -/
def State.withdrawCrew (s : State) (c : Nat) : State :=
  (s.all.filter (fun x => x.ident.crew == c)).foldl (fun (s : State) x => s.withdraw x) s

/-- A crew retires (R264, R286): its arrivals are withdrawn, its controllers and allotment go, its launch counts it. -/
def State.retireCrew (s : State) (c : Nat) : State :=
  match s.crewOf c with
  | none => s
  | some cr =>
    let s1 := ((s.withdrawCrew c).dropCbs cr.quad c).modLaunch cr.launch (fun l =>
      { l with retired := l.retired + 1, normal := if cr.faulted then l.normal else l.normal + 1,
               faulted := l.faulted || cr.faulted, flags := l.flags ||| cr.flags })
    ({ s1 with crews := s1.crews.filter (fun x => x.id != c) }).relaxLines cr.part

/-- The strands of a crew that have not retired. -/
def State.liveOf (s : State) (c : Nat) : List Strand :=
  s.all.filter (fun x => x.ident.crew == c && x.status != .retired)

/-- Retires a strand: its FLAGS join the crew's when it ended with `sy.end` (R140, R262), and its crew is marked faulted when it did not
(R264); its tokens become FREE, its
ring, queues, marks and records go; the last strand retires the crew (R263, R264). -/
def State.retireStrand (s : State) (uid : Nat) (normal : Bool) : State :=
  match s.strand? uid with
  | none => s
  | some x =>
    let s1 := s.freeTokens uid
    let s2 := s1.modCrew x.ident.crew (fun c =>
      if normal then { c with flags := c.flags ||| x.sc.flags } else { c with faulted := true })
    let s3 := s2.modStrand uid (fun y => { y with
      status := .retired, ring := none, closed := [], mlog := [], fences := [], q0 := [], q1 := [], q2 := [], q3 := [],
      marks := [], pend := [], barRecs := [], arrs := [], vq := [], mq := [], vf := none, qlog := [], handed := none, note := none,
      syncWait := false, deadline := none, waiting := false, parkSlot := none })
    let s4 := s3.modPart x.ident.part (fun p => { p with parked := p.parked.filter (fun k => k.uid != uid),
                                                         restart := p.restart.filter (fun u => u != uid) })
    if (s4.liveOf x.ident.crew).isEmpty then s4.retireCrew x.ident.crew else s4

/-- A terminated strand that has finished retires, as an effect of its quad (R263, R264, R413). -/
def State.endFaulted (s : State) (uid : Nat) : State :=
  match s.strand? uid with
  | none => s
  | some x => if s.heldAt x.ident.quad then s.handOn x.ident.quad uid (.retire false) else s.retireStrand uid false

/-- A strand passes no younger instruction and has only to finish (R264): it leaves its park slot, and a block that runs in its
front end is abandoned. -/
def State.beginEnd (s : State) (uid : Nat) : State :=
  match s.strand? uid with
  | none => s
  | some x =>
    let s1 := s.modStrand uid (fun y => { y with
      status := .ending, parkSlot := none, waiting := false, tried := false, deadline := none, syncWait := false, note := none,
      vHold := false, mHold := false, vf := if y.vq.isEmpty then none else y.vf })
    s1.modPart x.ident.part (fun p => { p with
      parked := p.parked.filter (fun k => k.uid != uid), restart := p.restart.filter (fun u => u != uid) })

/-- Terminates the current strand (R395): a fault-queue entry with TERM; then it ends, and so do its crew's other strands (R264).
-/
def State.terminate (s : State) (t : Trap) : State :=
  let h := match s.crewOf s.cur.ident.crew with | some c => c.launch | none => 0
  let s1 := s.fqFor s.cur.ident.part
    (fqEntry t.eval h t.cause t.kind (4 + if t.wr then 16 else 0) t.rst)
  let sibs := (s1.liveOf s.cur.ident.crew).map (·.uid)
  sibs.foldl (fun (s : State) u => s.beginEnd u) s1

end Sys2Proof.Machine
end

