-- ==== Sys2Proof/Machine/Publish.lean ====
section
/-! DEFINITION. The publish engine and the reduction ring as they stand on a module: publications, their subscribers,
deliveries, and the messages of collectives (R438 to R441, R444, R445). -/

namespace Sys2Proof.Machine

/-- The memory key of a local address on module `dev`. -/
def State.devKey (s : State) (dev pa : Nat) : Nat := if dev = s.devid then homeKey 0 pa else homeKey 2 (dev * 2 ^ 46 + pa % 2 ^ 46)

/-- Writes bytes at a subscriber's place (R441). -/
def State.putSub (s : State) (dev part tag off : Nat) (bs : List Byte) : State :=
  s.land part ⟨s.devKey dev (tagPa tag) + off, bs, 0, tagKid tag, 0, false, 512⟩

/-- What a version word receives when its subscription ends (R440). -/
def endWord : List Byte := leBytes 8 (2 ^ 64 - 1)

/-- The publication of a number. -/
def State.pub? (s : State) (id : Nat) : Option Pub := s.pubs.find? (fun p => p.id == id)

/-- Changes a publication. -/
def State.modPub (s : State) (id : Nat) (f : Pub → Pub) : State :=
  { s with pubs := s.pubs.map (fun p => if p.id = id then f p else p) }

/-- Publishes with no subscriber left to serve are answered: VERSION, NSUB and DROPS (R439). -/
def State.settlePubs (s : State) : State :=
  let done := s.pubRuns.filter (fun r => r.todo.isEmpty)
  done.foldl (fun (s : State) r =>
    s.reply r.uid r.eff [w64 r.version, w64 r.nsub, w64 (match s.pub? r.pubid with | some p => p.drops | none => 0)])
    { s with pubRuns := s.pubRuns.filter (fun r => !r.todo.isEmpty) }

/-- A subscriber leaves its publication and DROPS rises (R439, R440); `mark` writes its version word. -/
def State.dropSub (s : State) (pubid slot : Nat) (mark : Bool) : State :=
  match s.pub? pubid with
  | none => s
  | some p =>
    match p.subs.find? (fun b => b.slot == slot) with
    | none => s
    | some b =>
      let s1 := s.modPub pubid (fun p => { p with subs := p.subs.filter (fun c => c.slot != slot), drops := p.drops + 1 })
      let s2 := { s1 with pubRuns := s1.pubRuns.map (fun (r : PubRun) =>
        if r.pubid = pubid then { r with todo := r.todo.filter (fun t => t.1 != slot) } else r) }
      (if mark then s2.putSub b.dev b.part b.vword 0 endWord else s2).settlePubs

/-- The module of a subscriber can be reached (R439). -/
def State.reaches (s : State) (dev : Nat) : Bool := dev == s.devid || s.links.contains dev

/-- The places of a region at which its lines stand: line number, and place in lines from BASE. -/
def Pub.places (p : Pub) (ls : List Nat) : List (Nat × Nat) :=
  p.pages.zipIdx.flatMap (fun g => (List.range 8).filterMap (fun j =>
    let l := tagPa g.1 / 512 + j
    if ls.contains l then some (l, 8 * g.2 + j) else none))

/-- Every line of a region. -/
def Pub.allLines (p : Pub) : List Nat := p.pages.flatMap (fun g => (List.range 8).map (fun j => tagPa g / 512 + j))

/-- Sends lines to a subscriber's copy, read at their homes, and then writes its version word (R439, R441). -/
def State.deliver (s : State) (p : Pub) (b : Sub) (ls : List Nat) (version : Nat) : State :=
  let s1 := (p.places ls).foldl (fun (s : State) l =>
    let r := s.keyRead (tagKid (p.pages.getD (l.2 / 8) 0)) (homeKey 0 (512 * l.1)) 512
    r.2.putSub b.dev b.part (b.pages.getD (l.2 / 8) 0) (l.2 % 8 * 512) r.1) s
  s1.putSub b.dev b.part b.vword 0 (leBytes 8 version)

/-- Serves a slot in the first publish that has still to serve it: a delivery, or a drop when its module cannot be reached. -/
def State.serveSub (s : State) (pubid slot : Nat) : State :=
  match s.pub? pubid, s.pubRuns.find? (fun r => r.pubid == pubid && r.todo.any (fun t => t.1 == slot)) with
  | some p, some r =>
    match p.subs.find? (fun b => b.slot == slot) with
    | none => s
    | some b =>
      if !s.reaches b.dev then s.dropSub pubid slot false
      else
        let ls := ((r.todo.find? (fun t => t.1 == slot)).map (·.2)).getD []
        let s1 := s.deliver p b ls r.version
        ({ s1 with pubRuns := s1.pubRuns.map (fun (k : PubRun) =>
            if k.pubid = pubid ∧ k.version = r.version then
              { k with todo := k.todo.filter (fun t => t.1 != slot), nsub := k.nsub + 1 }
            else k) }).settlePubs
  | _, _ => s

/-- Serves every subscriber that publishes of a publication wait for. -/
def State.pumpPub (s : State) (pubid : Nat) : State :=
  let todo := (s.pubRuns.filter (fun r => r.pubid == pubid)).flatMap (fun r => r.todo.map (·.1))
  (todo.foldl (fun (s : State) slot => s.serveSub pubid slot) s).settlePubs

/-- Ends a publication: every version word receives all ones (R439). -/
def State.unbind (s : State) (pubid : Nat) : State :=
  match s.pub? pubid with
  | none => s
  | some p =>
    let s1 := p.subs.foldl (fun (s : State) b => s.putSub b.dev b.part b.vword 0 endWord) (s.pumpPub pubid)
    { s1 with pubs := s1.pubs.filter (fun q => q.id != pubid) }

/-- A request of `xr.pub` reaches the engine (R439). -/
def State.publish (s : State) (r : PubReq) (uid eff : Nat) : State :=
  match s.pub? r.pubid with
  | some p =>
    if p.part ≠ r.part ∨ p.base ≠ r.base ∨ (r.len ≠ 0 ∧ p.len ≠ r.len) then
      s.reply uid eff [w64 p.version, 0, w64 p.drops]
    else if r.len = 0 then (s.unbind r.pubid).reply uid eff []
    else start s p
  | none =>
    if r.len = 0 then s.reply uid eff []
    else
      let p : Pub := { id := r.pubid, part := r.part, base := r.base, len := r.len, pages := r.pages, version := 0,
                       seqNo := 0, subs := [], dirty := [], drops := 0 }
      start { s with pubs := p :: s.pubs } { p with dirty := p.allLines.eraseDups }
where
  /-- VERSION rises, the dirty lines are taken and their bits cleared in one step, and the subscribers are to be served. -/
  start (s : State) (p : Pub) : State :=
    let run : PubRun := {
      pubid := p.id, version := p.version + 1, uid := uid, eff := eff, nsub := 0,
      todo := p.subs.map (fun b => (b.slot, if b.fresh then p.allLines else p.dirty)) }
    let s1 := s.modPub p.id (fun q => { q with
      version := p.version + 1, dirty := [], subs := q.subs.map (fun b => { b with fresh := false }) })
    let s2 := { s1 with pubRuns := s1.pubRuns ++ [run] }
    if s2.split then s2.settlePubs else s2.pumpPub p.id

/-- A refusal of `xr.sub` (R440). -/
def refusal (code off : Nat) : Word := w64 (2 ^ 63 + off * 2 ^ 8 + code)

/-- A handle of `xr.sub` (R440). -/
def subHandle (dev pubid seq slot : Nat) : Word := w64 (dev % 64 * 2 ^ 48 + pubid % 1024 * 2 ^ 32 + seq % 2 ^ 26 * 2 ^ 6 + slot % 64)

/-- A registration reaches the publish engine (R440): the subscriber is recorded, or refused with NOPUB or FULL. -/
def State.enrol (s : State) (r : SubReq) : State × Word :=
  match s.pub? r.pubid with
  | none => (s, refusal 3 0)
  | some p =>
    if p.len ≠ r.len then (s, refusal 3 0)
    else
      match (List.range 64).find? (fun i => !p.subs.any (fun b => b.slot == i)) with
      | none => (s, refusal 1 0)
      | some i =>
        let b : Sub := {
          slot := i, dev := r.dev, part := r.part, vword := r.vword, pages := r.pages, vva := r.vva, va := r.va, fresh := true }
        (s.modPub r.pubid (fun p => { p with seqNo := p.seqNo + 1, subs := p.subs ++ [b] }),
         subHandle s.devid r.pubid (p.seqNo + 1) i)

/-- Registers a subscription of this module with the publisher's module. What another module answers is free (R440). -/
def State.subscribe (s : State) (dev : Nat) (r : SubReq) : State × Word :=
  if dev = s.devid then s.enrol r
  else if !s.links.contains dev then (s, refusal 4 0)
  else
    let n := s.freeCtr
    let w := (Config.freeWord n).toNat
    let s1 := { s with freeCtr := n + 3 }
    if Config.freeBool (n + 1) then (s1, refusal (if Config.freeBool (n + 2) then 1 else 3) 0)
    else
      let f : FarSub := { dev := dev, pubid := r.pubid, part := r.part, vword := r.vword, pages := r.pages, vva := r.vva, va := r.va }
      ({ s1 with farSubs := f :: s1.farSubs }, subHandle dev r.pubid (1 + w / 64 % (2 ^ 26 - 1)) w)

/-- Cancels the subscription of a partition to a publication by its version word (R440). -/
def State.unsubscribe (s : State) (part dev pubid vword : Nat) : State :=
  if dev = s.devid then
    match s.pub? pubid with
    | none => s
    | some p =>
      match p.subs.find? (fun b => b.dev == dev && b.part == part && tagPa b.vword == tagPa vword) with
      | some b => s.dropSub pubid b.slot false
      | none => s
  else { s with farSubs := s.farSubs.filter (fun f =>
    !(f.dev == dev && f.pubid == pubid && f.part == part && tagPa f.vword == tagPa vword)) }

/-- Ends the subscriptions of a partition of which `hit` chooses a page by its virtual address: their version words
receive all ones (R440). -/
def State.endSubs (s : State) (part : Nat) (hit : Nat → Bool) : State :=
  let on (vva va : Nat) (pages : List Nat) : Bool :=
    hit (vva / 4096 * 4096) || (List.range pages.length).any (fun i => hit (va + 4096 * i))
  let s1 := s.pubs.foldl (fun (s : State) p =>
    (p.subs.filter (fun b => b.dev == s.devid && b.part == part && on b.vva b.va b.pages)).foldl (fun (s : State) b =>
      s.dropSub p.id b.slot true) s) s
  let gone := s1.farSubs.filter (fun f => f.part == part && on f.vva f.va f.pages)
  gone.foldl (fun (s : State) f => s.putSub s.devid f.part f.vword 0 endWord)
    { s1 with farSubs := s1.farSubs.filter (fun f => !(f.part == part && on f.vva f.va f.pages)) }

/-- A publish of another module reaches a copy on this one: its lines, by their place in the region, then the version word;
all ones end the subscription (R439 to R441). -/
def State.farDelivery (s : State) (dev pubid : Nat) (ls : List (Nat × List Byte)) (version : Word) : State :=
  (s.farSubs.filter (fun f => f.dev == dev && f.pubid == pubid)).foldl (fun (s : State) f =>
    let s1 := ls.foldl (fun (s : State) l =>
      if l.1 < 8 * f.pages.length then
        s.putSub s.devid f.part (f.pages.getD (l.1 / 8) 0) (l.1 % 8 * 512) (l.2.take 512)
      else s) s
    let s2 := s1.putSub s1.devid f.part f.vword 0 (leBytes 8 version.toNat)
    if version.toNat = 2 ^ 64 - 1 then { s2 with farSubs := s2.farSubs.filter (fun g => g != f) } else s2) s

/-! ### Collectives (R444, R445) -/

/-- The messages of call `seq` of a collective. -/
def State.call (s : State) (collid seq : Nat) : List CollMsg := s.colls.filter (fun m => m.collid == collid && m.seq == seq)

/-- The join of a position: the first that has arrived and is not void. -/
def joinOf (ms : List CollMsg) (pos : Nat) : Option CollMsg := ms.find? (fun m => m.join && m.pos == pos)

/-- The first mismatch between the members' joins (R444): 1 n, 2 ETA, 3 OP, 4 NPOS or the list. -/
def redMismatch (ms : List CollMsg) : Option Nat :=
  match ms with
  | [] => none
  | m :: r =>
    if r.any (fun k => k.n != m.n) then some 1
    else if r.any (fun k => k.eta != m.eta) then some 2
    else if r.any (fun k => k.op != m.op) then some 3
    else if r.any (fun k => k.npos != m.npos || k.devs != m.devs) then some 4
    else none

/-- Every member has joined a call, and their joins differ: each of them raises BOUNDS (R444). -/
def State.callBroken (s : State) (collid seq npos : Nat) : Bool :=
  match (List.range npos).mapM (joinOf (s.call collid seq)) with
  | some js => (redMismatch js).isSome
  | none => false

/-- A message of a collective arrives; one that is already known is recognised (R445). Once the members' joins have been found to
differ, a further join of a position belongs to its next attempt, and waits behind the first (R444; log 83). -/
def State.heed (s : State) (m : CollMsg) : State :=
  if s.colls.any (fun k => k.collid == m.collid && k.seq == m.seq && k.pos == m.pos && k.join == m.join) &&
      !(m.join && s.callBroken m.collid m.seq m.npos) then s
  else { s with colls := s.colls ++ [m] }

/-- Removes the first element that `p` chooses. -/
def dropFirst {α : Type} (p : α → Bool) : List α → List α
  | [] => []
  | a :: r => if p a then r else a :: dropFirst p r

/-- The joins of a call that has failed are void: every member raises BOUNDS, and joins anew when it calls again (R444). They are kept
for a rollback that takes the failure back (R445; log 83). -/
def State.voidJoins (s : State) (collid seq npos : Nat) : State :=
  (List.range npos).foldl (fun (s : State) p =>
    let hit (m : CollMsg) : Bool := m.join && m.collid == collid && m.seq == seq && m.pos == p
    match s.colls.find? hit with
    | some m => { s with colls := dropFirst hit s.colls, voided := s.voided ++ [(s.timer, s.cur.uid, m)] }
    | none => s) s

/-- Joins that strand u has made void since a tick count again: the strand goes back to before it found the mismatch (R445). -/
def State.reviveJoins (s : State) (tick u : Nat) : State :=
  let back (v : Nat × Nat × CollMsg) : Bool := decide (tick ≤ v.1) && v.2.1 == u
  { s with colls := (s.voided.filter back).map (·.2.2) ++ s.colls, voided := s.voided.filter (fun v => !back v) }

/-- The encodings that leave a position. -/
def leaves (ms : List CollMsg) (pos : Nat) : Option (List Word) := (ms.find? (fun m => !m.join && m.pos == pos)).map (·.vals)

/-- The tag of a note: what its instruction is. -/
def notePub : Word := 1
def noteSub : Word := 2
def noteRed : Word := 3
def noteLn : Word := 4
def noteTn : Word := 5

/-- A strand whose reduction every member has joined: its collective and call (R445). -/
def State.inReduction (s : State) (x : Strand) : Bool :=
  match x.note with
  | some (t :: st :: _ :: c :: q :: n :: _) =>
    t == noteRed && st != 0 && (List.range n.toNat).all (fun p => (joinOf (s.call c.toNat q.toNat) p).isSome)
  | _ => false

/-- Withdraws the join of a strand that pre-emption stops (R445). -/
def State.withdrawJoin (s : State) (x : Strand) : State :=
  match x.note with
  | some (t :: _ :: _ :: c :: q :: _ :: p :: _) =>
    if t = noteRed then
      { s with colls := s.colls.filter (fun m => !(m.join && m.collid == c.toNat && m.seq == q.toNat && m.pos == p.toNat)) }
    else s
  | _ => s

end Sys2Proof.Machine
end

