-- ==== Sys2Proof/Machine/Ops.lean ====
section
/-! DEFINITION. Taking an exception, returning from one, and how every instruction ends (R92, R101, R104, R122, R393 to
R395, R401). -/

namespace Sys2Proof.Machine

/-! ### Where the PC goes (R92, R103, R104) -/

/-- END of a loop, a sign-extended 48-bit address (R103). -/
def LoopEnd.addr (l : LoopEnd) : Word := ((l.stop ++ 0#2 : BitVec 48)).signExtend 64

/-- The start of a loop's body: END − 4 × (LEN − 1) (R102). -/
def LoopEnd.start (l : LoopEnd) : Word := l.addr - 4 * (l.len.zeroExtend 64 - 1)

/-- An address lies in a loop's body (R102). -/
def LoopEnd.holds (l : LoopEnd) (t : Word) : Bool :=
  decide (l.start.toInt ≤ t.toInt) && decide (t.toInt ≤ l.addr.toInt)

/-- The step of R104 for an instruction that made no taken transfer. -/
def Scalar.advance (c : Scalar) : Scalar :=
  let next := c.pc + 4
  let at0 := c.tnest == 0 && c.lcnt0 != 0 && c.pc == c.lend0.addr
  let n0 := if at0 then c.lcnt0 - 1 else c.lcnt0
  let next0 := if at0 && n0 != 0 then c.lend0.start else next
  let at1 := c.tnest == 0 && next0 == next && c.lcnt1 != 0 && c.pc == c.lend1.addr
  let n1 := if at1 then c.lcnt1 - 1 else c.lcnt1
  let next1 := if at1 && n1 != 0 then c.lend1.start else next0
  { c with pc := next1, lcnt0 := n0, lcnt1 := n1, icount := c.icount + 1 }

/-- The step of R104 for a taken transfer to t. -/
def Scalar.transfer (c : Scalar) (t : Word) : Scalar :=
  { c with pc := t, icount := c.icount + 1,
           lcnt0 := if c.lcnt0 != 0 && !c.lend0.holds t then 0 else c.lcnt0,
           lcnt1 := if c.lcnt1 != 0 && !c.lend1.holds t then 0 else c.lcnt1 }

/-- Completes the current instruction without a taken transfer. -/
def State.advance (s : State) : State := s.modSc Scalar.advance

/-- Completes the current instruction with a taken transfer. -/
def State.transfer (s : State) (t : Word) : State := s.modSc (fun c => c.transfer t)

/-! ### Taking an exception (R393) -/

/-- Trap entry on the scalar state: the trap registers are written, MODE is reset, TNEST rises and the PC goes to the
handler. -/
def Scalar.enter (c : Scalar) (t : Trap) : Scalar :=
  { c with epc := c.pc, ecause := BitVec.ofNat 8 t.cause, eval := t.eval, einfo := t.einfo,
           esave := c.mode.truncate 24, mode := modeReset, tnest := c.tnest + 1, pc := c.trbase }

/-- Taking a trap at the current strand's PC (R393); a strand that nests too deep or has no handler is terminated (R395). -/
def State.trapEntry (s : State) (t : Trap) : State :=
  if s.cur.sc.tnest = 3 ∨ s.cur.sc.trbase = 0 then s.terminate t
  else ({ s with mirRecs := s.mirRecs.filter (fun r => r.uid != s.cur.uid) }).modCur (fun x => { x with
    sc := x.sc.enter t, rstix := BitVec.ofNat 16 t.rst, handed := none, vat := none, owedMis := [], note := none, syncWait := false,
    deadline := none })

/-- Returning from the innermost trap (R122): MODE from ESAVE, TNEST down; the PC goes to EPC. -/
def Scalar.leave (c : Scalar) : Scalar := { c with mode := c.esave.zeroExtend 25, tnest := c.tnest - 1 }

/-! ### Queued instructions a trap reaches (R394) -/

/-- Takes the newest strip load, at place `seq`, back: its buffer is FREE again and holds what it held before (R182, R394). -/
def Ring.undoLoad (size seq : Nat) (before : Option Ring) (r : Ring) : Ring :=
  let i := (r.fp + r.c - 1) % r.c
  let mine (t : Strip) := t.buf == i && t.seq == seq
  let r1 : Ring := { r with bufs := r.bufs.set i .free, fp := i, strips := r.strips.filter (fun t => !mine t) }
  if r.strips.any mine then r1
  else
    match before.map (fun b => b.seen size seq) with
    | none => r1
    | some b => { r1 with
        data := r.data.zipIdx.map (fun d => if r.inBuf i (r.f + d.2) then b.data.getD d.2 0 else d.1)
        bad := b.bad.filter (fun k => r.inBuf i k.1) ++ r.bad.filter (fun k => !r.inBuf i k.1) }

/-- Undoes the scalar stream's queue operations made after place `seq` in program order: values it pushed leave their
queues, values it popped return; a strip load (number 4) or a ring declaration (5) is taken back. -/
def undoQueues (x : Strand) (seq : Nat) : Strand :=
  let later := x.qlog.filter (fun l => decide (seq < l.seq))
  -- the log's newest operation stands first
  later.foldl (fun (x : Strand) l =>
    match l.pop, l.q with
    | none, 0 => { x with q0 := x.q0.dropLast, poison := cutMarks x.poison 0 (x.q0.length - 1) }
    | none, 4 => { x with ring := x.ring.map (Ring.undoLoad (32 * x.vlg) l.seq l.ring) }
    | none, 5 => { x with ring := l.ring, closed := if l.ring.isSome then x.closed.drop 1 else x.closed }
    | none, _ => { x with q2 := x.q2.dropLast, poison := cutMarks x.poison 2 (x.q2.length - 1) }
    | some v, 1 => { x with q1 := v :: x.q1, poison := unpopMarks x.poison 1 }
    | some v, _ => { x with q3 := v :: x.q3, poison := unpopMarks x.poison 3 }) { x with qlog := x.qlog.filter (fun l => decide (l.seq ≤ seq)) }

/-- The scalar state that a queued instruction's stop leaves: as it was passed, with what older instructions and its own
elements below the restart element left in FLAGS, STS.NR, TURNPRG, the scope log and the counters. -/
def Strand.scalarAt (x : Strand) (e : Entry) : Scalar :=
  if x.inStream = 0 then e.snap
  else { e.snap with
    flags := x.sc.flags, nr := x.sc.nr, turnprg := x.sc.turnprg, scopelog := x.sc.scopelog, retHit := x.sc.retHit,
    retMiss := x.sc.retMiss, retOvf := x.sc.retOvf, l2Hit := x.sc.l2Hit, l2Miss := x.sc.l2Miss }

/-- Takes back the matrix instructions younger than place `seq` that have passed it (R394). -/
def undoTiles (x : Strand) (seq : Nat) : Strand :=
  match (x.mlog.filter (fun l => decide (seq < l.seq))).head? with
  | none => x
  | some l => { x with
    tiles := l.tiles, poison := l.poison ++ x.poison.filter (fun k => k.kind != 3)
    mlog := x.mlog.filter (fun l => decide (l.seq ≤ seq)) }

/-- A queued instruction stops with a trap or parks: the scalar state returns to what it was when the instruction was
passed, with the poison of its registers, the shadow registers and the tensor identifiers, and every younger instruction is abandoned (R394). -/
def Strand.unwind (x : Strand) (e : Entry) : Strand :=
  let y := undoTiles (undoQueues x e.seq) e.seq
  { y with
    fences := y.fences.filter (fun f => decide (f.2 ≤ e.seq)),
    poison := e.pz ++ y.poison.filter (fun k => !e.pz.contains k),
    chans := y.chans.zipIdx.map (fun c => { c.1 with shadow := e.shadow.getD c.2 c.1.shadow }), tids := e.tids,
    sc := x.scalarAt e, vq := x.vq.filter (fun k => decide (k.seq < e.seq)),
    mq := x.mq.filter (fun k => decide (k.seq < e.seq)), vf := none, inStream := 0, saved := none, seqNo := e.seq }

/-- `Strand.unwind` of the current strand. -/
def State.unwind (s : State) (e : Entry) : State := s.modCur (fun x => x.unwind e)

/-- The oldest instruction still queued. -/
def Strand.oldest (x : Strand) : Option Entry :=
  match x.vq.head?, x.mq.head? with
  | some a, some b => some (if a.seq < b.seq then a else b)
  | some a, none => some a
  | none, b => b

/-- The oldest queued instruction that can be taken back: nothing younger than it has been performed (R394, R404). -/
def Strand.oldestFree (x : Strand) : Option Entry :=
  let f (q : List Entry) := q.filter (fun e => decide (x.sure ≤ e.seq))
  Strand.oldest { x with vq := f x.vq, mq := f x.mq }

/-- Stops a strand at the oldest instruction not yet completed (R404): a block that runs ends at its element, queued
instructions are abandoned, and a wait will be executed again. DESIGN CHOICE (log 77): a queued instruction that a younger store or
atomic has already overtaken cannot be executed again with it; it stays queued in the context, and goes on at resumption. -/
def Strand.atStop (x : Strand) : Strand :=
  let rst := match x.vf with | some r => BitVec.ofNat 16 r.e | none => x.rstix
  let y := x.undoElement
  let z := match y.oldestFree with | some e => y.unwind e | none => y
  { z with rstix := rst, waiting := false, tried := false, vHold := false, mHold := false, vat := if z.handed.isSome then z.vat else none,
           note := if z.handed.isNone && (match z.note with | some (_ :: st :: _) => st == 0 | _ => true) then none else z.note }

/-- The head of a stream that is executing: 1 the vector stream, 2 the matrix stream. -/
def State.headEntry (s : State) : Option Entry :=
  match s.cur.inStream with
  | 1 => s.cur.vq.head?
  | 2 => s.cur.mq.head?
  | _ => none

/-- A later captured state counts the home lookups that have been made meanwhile (R320). -/
def addCounts (old new c : Scalar) : Scalar :=
  { c with l2Hit := c.l2Hit + (new.l2Hit - old.l2Hit), l2Miss := c.l2Miss + (new.l2Miss - old.l2Miss),
           retHit := c.retHit + (new.retHit - old.retHit), retMiss := c.retMiss + (new.retMiss - old.retMiss),
           retOvf := c.retOvf + (new.retOvf - old.retOvf) }

/-- The strand waits: its instruction is executed again when it is next chosen. A queued instruction gives the front end
its scalar state back; the lookups it has made stay counted (R320, R345). -/
def State.setWaiting (s : State) : State :=
  match s.headEntry with
  | none => s.modCur (fun x => { x with waiting := true, inStream := 0, saved := none, sc := x.saved.getD x.sc })
  | some e =>
    let f := addCounts e.snap s.cur.sc
    let late (k : Entry) : Entry := if e.seq ≤ k.seq then { k with snap := f k.snap } else k
    s.modCur (fun x => { x with
      waiting := true, inStream := 0, saved := none, sc := (x.saved.map f).getD x.sc, vq := x.vq.map late, mq := x.mq.map late })

/-- No older queued instruction can complete without the scalar stream: none is queued, or a second try has shown that none
can (R394). -/
def Strand.mayStop (x : Strand) : Bool :=
  (x.vq.isEmpty && x.mq.isEmpty) || (x.tried && !x.vHold && !x.mHold && x.handed.isNone && x.vat.isNone)

/-- An instruction older than a stream's head is still queued in the other stream: a trap of the head waits for it (R394). -/
def Strand.behindOlder (x : Strand) (e : Entry) : Bool :=
  x.vq.any (fun k => decide (k.seq < e.seq)) || x.mq.any (fun k => decide (k.seq < e.seq))

/-- A trap or a park is held back: while an older instruction of a stream can still complete (R394), and for the acknowledgement of an
older atomic (R333). A stream deadlock is raised at once (R115). -/
def State.holdsBack (s : State) (st : Stop) : Bool :=
  match st with
  | .wait => false
  | .trap t => s.isAhead s.cur.uid || (s.cur.status != .ending && (match s.headEntry with
      | some e => s.cur.behindOlder e
      | none => !(s.cur.mayStop || t.cause == cQDEADLOCK)))
  | .park _ _ _ _ _ => s.isAhead s.cur.uid || (s.cur.status != .ending && (match s.headEntry with
      | some e => s.cur.behindOlder e
      | none => !s.cur.mayStop))

/-- A stop takes its effect (R393, R401, R394). A strand that ends only abandons the instruction and its younger ones (R264). -/
def State.stopped (s : State) (st : Stop) : State :=
  let u := match s.headEntry with | some e => s.unwind e | none => s
  match st with
  | .wait => s.setWaiting
  | .trap t => if s.cur.status = .ending then u else u.trapEntry t
  | .park va kind wr rst elt => if s.cur.status = .ending then u else u.park va kind wr rst elt

/-- An instruction that began in state `s` stops in state `t`. One whose trap or park is held back has done nothing and is executed
again. -/
def State.stopFrom (s t : State) (st : Stop) : State := if t.holdsBack st then s.setWaiting else t.stopped st

/-- Ends an instruction: the PC moves as it says, or its stop takes effect. -/
def finish (m : M Done) (s : State) : Host.Outcome State Fault Refusal :=
  match m s with
  | .ok .adv t => .next t.advance
  | .ok (.jump a) t => .next (t.transfer a)
  | .ok (.goto a) t => .next (t.modSc (fun c => { c with pc := a, icount := c.icount + 1 }))
  | .ok .stay t => .next t
  | .error st t => .next (s.stopFrom t st)

/-- `finish` of an instruction whose accesses have a kind: a fault-queue entry of its termination names it (R395). -/
def finishK (kind : Nat) (wr : Bool) (m : M Done) : State → Host.Outcome State Fault Refusal :=
  finish (fun s =>
    match m s with
    | .error (.trap t) u => .error (.trap (if t.kind = 15 then { t with kind := kind, wr := wr } else t)) u
    | r => r)

/-- Ends an event: it changes the state and no PC. -/
def event (f : State → State) (s : State) : Host.Outcome State Fault Refusal := .next (f s)

end Sys2Proof.Machine
end

