-- ==== Sys2Proof/Machine/Flags.lean ====
section
/-! DEFINITION. The stochastic generator, the rounding in force, the checks of MODE's types, and how raised conditions
reach FLAGS or FP_TRAP (R45, R133, R137 to R140, R142, R113). -/

namespace Sys2Proof.Machine

/-- The generator's constant (R137). -/
def seedConst : Word := 0x9E3779B97F4A7C15

/-- One advance of the generator (R138). -/
def drawStep (x : Word) : Word :=
  let x := x ^^^ (x <<< 13)
  let x := x ^^^ (x >>> 7)
  x ^^^ (x <<< 17)

/-- The 23 bits of a draw from the state it leaves (R138). -/
def drawBits (x : Word) : Nat := x.toNat / 2 ^ 41

/-- n draws from a state: the bits in order, and the state after them (R138, R139). -/
def draws : Nat → Word → List Nat × Word
  | 0, x => ([], x)
  | n + 1, x =>
    let y := drawStep x
    let r := draws n y
    (drawBits y :: r.1, r.2)

/-- The rounding mode of a code, with the draw it uses under RS (R133, R134). -/
def rmodeOf (code draw : Nat) : RMode :=
  match code with
  | 0 => .rne
  | 1 => .rtz
  | 2 => .rdn
  | 3 => .rup
  | 4 => .rna
  | _ => .rs draw

/-- ILLEGAL that MODE's content causes (R45): EVAL holds the word, EINFO the lowest bit of the field at fault. -/
def modeIllegal {α : Type} (i : Instr) (bit_ : Nat) : M α :=
  raiseAt cILLEGAL (match encode i with | some w => w.zeroExtend 64 | none => 0) (w64 bit_) 0

/-- ILLEGAL from the word itself (R18, R50 step 1). -/
def wordIllegal {α : Type} (i : Instr) : M α :=
  raise cILLEGAL (match encode i with | some w => w.zeroExtend 64 | none => 0)

/-- PRIV with EVAL = the word (R49). -/
def wordPriv {α : Type} (i : Instr) : M α :=
  raise cPRIV (match encode i with | some w => w.zeroExtend 64 | none => 0)

/-- ETA as a type the instruction admits, or ILLEGAL with EINFO = 4 (R45). -/
def needETA (i : Instr) (ok : ETy → Bool) : M ETy := do
  let c ← sc
  match etyOfCode (modeETA c.md) with
  | some t => if ok t then pure t else modeIllegal i 4
  | none => modeIllegal i 4

/-- ETB as a type the instruction admits with ETA = t (15 means t), or ILLEGAL with EINFO = 8 (R44, R45). -/
def needETB (i : Instr) (t : ETy) (ok : ETy → Bool) : M ETy := do
  let c ← sc
  let u := if modeETB c.md = 15 then some t else etyOfCode (modeETB c.md)
  match u with
  | some u => if ok u then pure u else modeIllegal i 8
  | none => modeIllegal i 8

/-- RND holds no reserved code, or ILLEGAL with EINFO = 12 (R45). -/
def needRND (i : Instr) : M Nat := do
  let c ← sc
  if modeRND c.md ≤ 5 then pure (modeRND c.md) else modeIllegal i 12

/-- The rounding mode of a scalar form, with its one draw under RS (R139). -/
def rmodeScalar (i : Instr) : M RMode := do
  let k ← needRND i
  let c ← sc
  pure (rmodeOf k (drawBits (drawStep c.seed)))

/-- Makes the scalar form's draw: the generator advances under RS (R138, R139). -/
def Scalar.drawn (c : Scalar) : Scalar := if modeRND c.md = 5 then { c with seed := drawStep c.seed } else c

/-- Raised conditions of a scalar form: those enabled in FPEN raise FP_TRAP, with nothing written; otherwise they join
FLAGS (R112, R113, R142). -/
def scalarFlags (fl : Flags) : M Unit := do
  let c ← sc
  if fl &&& (c.fpen.zeroExtend 6) ≠ 0 then raise cFP_TRAP (fl.zeroExtend 64) else orFlags fl

end Sys2Proof.Machine
end

