-- ==== Sys2Proof/Machine/Stream.lean ====
section
/-! DEFINITION. The decoupled streams (R17, R114, R115, R118, R157, R163, R185, R196, R197, R394): an instruction of the
vector or matrix stream is executed when the front end passes it, unless its stream is held or blocked; then it is queued
with what was captured and executed later in program order. -/

namespace Sys2Proof.Machine

/-! ### The scoreboard (R197) -/

/-- The register that a block word names as its destination: that of an ia, ii, lu, fs or ld word (R187). -/
def blockDest (i : Instr) : Option Reg :=
  match i with
  | .iaAdd d _ _ | .iaSub d _ _ | .iaMul d _ _ | .iaMulh d _ _ | .iaMulhu d _ _ | .iaDiv d _ _ | .iaDivu d _ _
  | .iaRem d _ _ | .iaRemu d _ _ | .iaAnd d _ _ | .iaOr d _ _ | .iaXor d _ _ | .iaAndn d _ _ | .iaShl d _ _
  | .iaShr d _ _ | .iaSra d _ _ | .iaRol d _ _ | .iaSlt d _ _ | .iaSltu d _ _ | .iaMin d _ _ | .iaMax d _ _
  | .iaMinu d _ _ | .iaMaxu d _ _ | .iaClz d _ | .iaCtz d _ | .iaPopc d _ | .iaSext d _ _ | .iaZext d _ _
  | .iiAdd d _ _ | .iiAnd d _ _ | .iiOr d _ _ | .iiXor d _ _ | .iiSlt d _ _ | .iiSltu d _ _ | .iiShl d _ _
  | .iiShr d _ _ | .iiSra d _ _ | .luHi d _ | .fsAdd d _ _ | .fsSub d _ _ | .fsMul d _ _ | .fsDiv d _ _ | .fsSqrt d _
  | .fsFma d _ _ | .fsMin d _ _ | .fsMax d _ _ | .fsEq d _ _ | .fsLt d _ _ | .fsLe d _ _ | .fsCvti d _ | .fsCvtf d _
  | .fsCls d _ | .fsCvt d _ | .ldB d _ _ | .ldBu d _ _ | .ldH d _ _ | .ldHu d _ _ | .ldW d _ _ | .ldWu d _ _
  | .ldD d _ _ => some d
  | _ => none

/-- The instructions of a block's words; every word that the scan let through decodes. -/
def blockInstrs (ws : List IWord) : List Instr :=
  ws.filterMap (fun w => match decode w with | .ok i => some i | .error _ => none)

/-- The widths of ETA and of ETB (15 stands for ETA) that an instruction has captured. -/
def Entry.widths (e : Entry) : Nat × Nat :=
  let a := etyBits ((etyOfCode (modeETA e.snap.md)).getD .i32)
  (a, if modeETB e.snap.md = 15 then a else etyBits ((etyOfCode (modeETB e.snap.md)).getD .i32))

/-- ETA, and ETB unless it stands for ETA, is N4: a group has a scale register after it (R160). -/
def Entry.n4 (e : Entry) : Bool × Bool :=
  let a := decide (etyOfCode (modeETA e.snap.md) = some ETy.n4)
  (a, if modeETB e.snap.md = 15 then a else decide (etyOfCode (modeETB e.snap.md) = some ETy.n4))

/-- The registers of a group whose elements are w bits wide (R159). -/
def Entry.span (e : Entry) (w : Nat) : Nat := max (modeGRP e.snap.md * w / e.widths.1) 1

/-- The vector registers that a queued vector instruction of strand x writes: first registers and counts (R159, R197). -/
def writesV (x : Strand) (e : Entry) : List (Nat × Nat) :=
  let g := modeGRP e.snap.md
  match e.instr with
  | .vpIns d b => [((x.place d.toNat e.widths.1 (e.snap.reg b).toNat).1, 1)]
  | .vpRsum d _ | .vpRmax d _ | .vpRmin d _ | .mxRd d _ _ => [(d.toNat, 1)]
  | .vpMv d _ | .vpBcast d _ | .vpIota d | .vpSlup d _ _ | .vpSldn d _ _ | .vpPerm d _ _
  | .vpCompress d _ | .vpSel d _ _ | .vbTake d
  | .vldU d _ _ _ _ | .vldS d _ _ _ _ _ | .vldX d _ _ _ _ _ | .xrRed d _ => [(d.toNat, g)]
  | .vaCvt d _ => [(d.toNat, e.span e.widths.2 + if e.n4.2 then 1 else 0)]
  | .vaAdd d _ _ | .vaSub d _ _ | .vaMul d _ _ | .vaMulh d _ _ | .vaFma d _ _ | .vaFms d _ _ | .vaFnma d _ _
  | .vaDiv d _ _ | .vaMin d _ _ | .vaMax d _ _ | .vaAnd d _ _ | .vaOr d _ _ | .vaXor d _ _ | .vaShl d _ _
  | .vaShr d _ _ | .vaSra d _ _ | .vaMulw d _ _ | .vaDotw d _ _ | .vaClip d _ _ => [(d.toNat, g)]
  | .vaSqrt d _ | .vaRsqrt d _ | .vaRecip d _ | .vaExp2 d _ | .vaLog2 d _ | .vaAbs d _ | .vaNeg d _ => [(d.toNat, g)]
  | .vatAdd d _ _ nr _ _ | .vatAnd d _ _ nr _ _ | .vatOr d _ _ nr _ _ | .vatXor d _ _ nr _ _ | .vatMin d _ _ nr _ _
  | .vatMax d _ _ nr _ _ | .vatMinu d _ _ nr _ _ | .vatMaxu d _ _ nr _ _ | .vatSwap d _ _ nr _ _ | .vatFadd d _ _ nr _ _
  | .vatFmin d _ _ nr _ _ | .vatFmax d _ _ nr _ _ => if nr then [] else [(d.toNat, g)]
  | .vfGo _ => (((blockInstrs e.block).filterMap blockDest).filter (· != 0)).map (fun d => (d.toNat, 2))
  | _ => []

/-- The vector registers a queued matrix instruction reads (R197): its groups, with the register after an N4 group, and the one of
`mx.wr`. -/
def readsV (e : Entry) : List (Nat × Nat) :=
  let na := e.span e.widths.1 + if e.n4.1 then 1 else 0
  let nb := e.span e.widths.2 + if e.n4.2 then 1 else 0
  match e.instr with
  | .mxOpa _ a b => [(a.toNat, na), (b.toNat, nb)]
  | .mxOpaSa _ _ b => [(b.toNat, nb)]
  | .mxOpaSb _ a _ => [(a.toNat, na)]
  | .mxWr _ a _ => [(a.toNat, 1)]
  | _ => []

/-- An instruction of the vector stream reads or writes memory. -/
def touchesMem (i : Instr) : Bool :=
  match i with
  | .vldU _ _ _ _ _ | .vldS _ _ _ _ _ _ | .vldX _ _ _ _ _ _ | .vstU _ _ _ _ | .vstS _ _ _ _ _ | .vstX _ _ _ _ _
  | .mxSt _ _ _ | .vfGo _ | .stB _ _ _ | .stH _ _ _ | .stW _ _ _ | .stD _ _ _
  | .vatAdd _ _ _ _ _ _ | .vatAnd _ _ _ _ _ _ | .vatOr _ _ _ _ _ _ | .vatXor _ _ _ _ _ _ | .vatMin _ _ _ _ _ _
  | .vatMax _ _ _ _ _ _ | .vatMinu _ _ _ _ _ _ | .vatMaxu _ _ _ _ _ _ | .vatSwap _ _ _ _ _ _ | .vatFadd _ _ _ _ _ _
  | .vatFmin _ _ _ _ _ _ | .vatFmax _ _ _ _ _ _ => true
  | .xrRed _ _ => true
  | _ => false

/-- It reads memory; `xr.red` reads its descriptor (R444). -/
def loadsMem (i : Instr) : Bool :=
  match i with
  | .vstU _ _ _ _ | .vstS _ _ _ _ _ | .vstX _ _ _ _ _ | .mxSt _ _ _ | .stB _ _ _ | .stH _ _ _ | .stW _ _ _ | .stD _ _ _ => false
  | .mxLd _ _ _ => true
  | _ => touchesMem i

/-- It writes memory. -/
def storesMem (i : Instr) : Bool :=
  match i with
  | .vldU _ _ _ _ _ | .vldS _ _ _ _ _ _ | .vldX _ _ _ _ _ _ | .xrRed _ _ => false
  | _ => touchesMem i

/-- An older vector instruction has still to write a register that the matrix instruction reads (R197). -/
def matBlocked (x : Strand) (e : Entry) : Bool :=
  x.vq.any (fun v => decide (v.seq < e.seq) &&
    (writesV x v).any (fun w => (readsV e).any (fun r => decide (w.1 < r.1 + r.2) && decide (r.1 < w.1 + w.2))))

/-- Why the head of the vector stream does not go on (R115, R185). -/
inductive VBlock where
  | no
  | q0 | q1 | ring
  | filling
deriving DecidableEq, Repr

/-- A buffer of the ring. -/
def Ring.buf (r : Ring) (i : Nat) : BufSt := r.bufs.getD i .free

/-- What an instruction of the vector stream would wait for. -/
def vBlock (x : Strand) (i : Instr) : VBlock :=
  match i with
  | .vpIns _ _ => if x.q0.isEmpty then .q0 else .no
  | .vpExt _ _ => if 16 ≤ x.q1.length then .q1 else .no
  | .vbTake _ =>
    match x.ring with
    | none => .no
    | some r =>
      match r.buf r.tp with
      | .free => .ring
      | .filling => .filling
      | _ => .no
  | _ => .no

/-- A queued instruction that cannot trap once it has been passed. -/
def harmless (i : Instr) : Bool :=
  match i with
  | .vpIns _ _ | .vpExt _ _ | .mxZero _ => true
  | _ => false

/-- The head of the vector stream can be executed now: no older matrix instruction may still trap (R196), and none is an
`mx.wait` (R207). -/
def Strand.vReady (x : Strand) : Bool :=
  match x.vq with
  | e :: _ => !x.vHold && decide (vBlock x e.instr = .no) && x.mq.all (fun k => decide (e.seq < k.seq) || harmless k.instr)
  | [] => false

/-- The head of the matrix stream can be executed now: the scoreboard makes it wait for no older vector instruction (R197). It may pass
others: those still read the tiles as they were (`MLog`), and take it back when they trap (R394). -/
def Strand.mReady (x : Strand) : Bool :=
  match x.mq with
  | e :: _ => !x.mHold && !matBlocked x e
  | [] => false

/-- Starts executing the head of a stream: the scalar state becomes what was captured, with what older
instructions have added to it since. -/
def State.enterStream (s : State) (k : Nat) : State :=
  match (if k = 1 then s.cur.vq.head? else s.cur.mq.head?) with
  | none => s
  | some e => s.modCur (fun x => { (if k = 1 then x.openRings e.seq else x) with
      inStream := k, saved := some x.sc, sc := e.snap,
      mlog := if k = 2 ∧ x.vq.any (fun v => decide (v.seq < e.seq)) ∧ !x.mlog.any (fun l => l.seq == e.seq) then
          x.mlog ++ [⟨e.seq, x.tiles, x.poison.filter (fun p => p.kind == 3)⟩]
        else x.mlog })

/-- What a queued instruction's completion leaves in a later scalar state: its FLAGS, its VLCUT-like status bit NR, its
scope log and residency counts, and the scalar register it wrote. -/
def carry (old new : Scalar) (d : Option Reg) (c : Scalar) : Scalar :=
  let c1 := { c with flags := c.flags ||| new.flags, nr := c.nr || new.nr,
                     scopelog := if old.scopelog = new.scopelog then c.scopelog else new.scopelog,
                     l2Hit := c.l2Hit + (new.l2Hit - old.l2Hit), l2Miss := c.l2Miss + (new.l2Miss - old.l2Miss),
                     retHit := c.retHit + (new.retHit - old.retHit), retMiss := c.retMiss + (new.retMiss - old.retMiss),
                     retOvf := c.retOvf + (new.retOvf - old.retOvf) }
  match d with
  | some r => c1.setReg r (new.reg r)
  | none => c1

/-- The scalar register an instruction of the vector stream writes when it completes (R157). -/
def lateReg (i : Instr) : Option Reg :=
  match i with
  | .vmPop d _ => some d
  | .vmFirst d _ => some d
  | _ => none

/-- Ends the execution of a stream's head that has completed: it leaves its queue, and what it wrote joins the front end's
state and every younger captured state. -/
def State.leaveStream (s : State) : State :=
  match s.headEntry, s.cur.saved with
  | some e, some c =>
    let f := carry e.snap s.cur.sc (lateReg e.instr)
    let clean (ps : List PoisonMark) := match lateReg e.instr with
      | some d => ps.filter (fun k => !(k.kind == 0 && k.reg == d.toNat))
      | none => ps
    s.modCur (fun x => { x with
      mlog := if x.inStream = 1 then x.mlog.filter (fun l => (x.vq.drop 1).any (fun v => decide (v.seq < l.seq))) else x.mlog
      sc := f c, saved := none, inStream := 0, mHold := if x.inStream = 1 then false else x.mHold,
      vq := (if x.inStream = 1 then x.vq.drop 1 else x.vq).map (fun k =>
        if e.seq < k.seq then { k with snap := f k.snap, pz := clean k.pz } else k),
      mq := (if x.inStream = 2 then x.mq.drop 1 else x.mq).map (fun k =>
        if e.seq < k.seq then { k with snap := f k.snap, pz := clean k.pz } else k) })
  | _, _ => s

/-- Ends an instruction of a stream: from the queue it leaves it, otherwise the PC advances. -/
def streamDone : M Done := do
  let s ← get
  if s.cur.inStream = 0 then pure .adv
  else
    set s.leaveStream
    pure .stay

/-- Queues an instruction with what is captured (R118, R157); its draws are made now (R139). -/
def State.enqueue (s : State) (i : Instr) (mat : Bool) (nDraws : Nat) (block : List IWord := []) : State :=
  s.modCur (fun x =>
    let e : Entry := ⟨i, x.sc, x.seqNo, block, none, x.poison.filter (fun k => k.kind == 0), x.chans.map (·.shadow), x.tids⟩
    { x with seqNo := x.seqNo + 1,
             vq := if mat then x.vq else x.vq ++ [e], mq := if mat then x.mq ++ [e] else x.mq,
             sc := { x.sc with seed := (draws nDraws x.sc.seed).2 } })

/-- The generator's state after an instruction that has executed: advanced by its draws when it ran as it was passed,
and already so when it was queued (R139). -/
def endDraws (nDraws : Nat) : M Unit := do
  let s ← get
  if s.cur.inStream = 0 then modSc (fun c => { c with seed := (draws nDraws c.seed).2 }) else pure ()

/-- An instruction of the vector stream that commits nothing before its end and runs whole, whatever RSTIX holds (R396). -/
def runsWhole (i : Instr) : Bool :=
  match i with
  | .vpRsum _ _ | .vpRmax _ _ | .vpRmin _ _ | .vpPerm _ _ _ | .vpCompress _ _ | .vpSlup _ _ _ | .vpSldn _ _ _
  | .vmPop _ _ | .vmFirst _ _ | .vpIns _ _ | .vpExt _ _ | .vbTake _ | .vbFree _ | .stB _ _ _ | .stH _ _ _ | .stW _ _ _ | .stD _ _ _ => true
  | _ => false

/-- A stop with its restart element not below one. -/
def Stop.notBelow (r : Nat) (k : Stop) : Stop :=
  match k with
  | .trap t => .trap { t with rst := max t.rst r }
  | .park va kind wr rst _ => .park va kind wr (max rst r) true
  | .wait => .wait

/-- An element-wise instruction never records a restart element below the one at which it began, and parks at an element (R396, R401). -/
def aboveStart {α : Type} (i : Instr) (m : M α) : M α := fun s =>
  match m s with
  | .error k t => .error (if runsWhole i then k else k.notBelow s.cur.rstix.toNat) t
  | r => r

/-- An instruction of the vector stream. `check` makes the checks that need no element, when the front end passes it: a younger
instruction does not change them (R163). `nDraws` counts its draws; `run` executes it. RSTIX is 0 once it has completed (R396). -/
def vecInstr (i : Instr) (check : M Unit) (nDraws : State → Nat) (run : M Unit) : M Done := aboveStart i (do
  let s ← get
  if s.cur.inStream = 0 && (!s.cur.vq.isEmpty || s.cur.vHold || vBlock s.cur i != .no || !s.cur.mq.isEmpty) then
    check
    modify (fun s => s.enqueue i false (nDraws s))
    pure .adv
  else
    let n := nDraws s
    (if s.cur.inStream = 0 then (do
      modCur (fun x => x.openRings x.seqNo)
      check)
     else pure ())
    modCur (fun x => { x with wrote := [] })
    run
    endDraws n
    modCur (fun x => { x with rstix := 0 })
    streamDone)

/-- Tile k is written by an instruction at the strand's PC: its busy bit is set, and its busy address when the bit was
clear (R198). -/
def Scalar.setBusy (c : Scalar) (k : Nat) : Scalar :=
  if c.busy.getLsbD k then c
  else if h : k < 8 then { c with busy := c.busy ||| BitVec.ofNat 8 (2 ^ k), busyAddr := c.busyAddr.set k c.pc h } else c

/-- An instruction of the matrix stream. `check` makes the checks that need no tile content; `busy` is what passing it does
to the busy bits (R198). -/
def matInstr (i : Instr) (check : M Unit) (busy : Scalar → Scalar) (nDraws : State → Nat) (run : M Unit) : M Done := do
  let s ← get
  if s.cur.inStream = 0 && (!s.cur.vq.isEmpty || !s.cur.mq.isEmpty || s.cur.mHold) then
    check
    modify (fun s => s.enqueue i true (nDraws s))
    modSc busy
    pure .adv
  else
    let n := nDraws s
    (if s.cur.inStream = 0 then (do
      modCur (fun x => x.openRings x.seqNo)
      check)
     else pure ())
    run
    endDraws n
    modSc (fun c => if s.cur.inStream = 0 then busy c else c)
    streamDone

/-! ### Scalar instructions behind queued ones (R394, R123, R120) -/

/-- An older queued instruction may still trap (R394): not one whose checks have been made (R240), nor `mx.zero`, which has none. -/
def Strand.mayTrap (x : Strand) : Bool :=
  let safe (e : Entry) := e.passed.isSome || (match e.instr with | .mxZero _ => true | _ => false)
  !(x.vq.all safe && x.mq.all safe)

/-- A queued vector memory instruction with OV = 0, for which the strand's later scalar accesses wait (R191, R209, R224,
R240); `xr.red` reads its descriptor in its place (R444). -/
def ordersScalar (i : Instr) : Bool :=
  match i with
  | .vldU _ _ _ ov _ | .vldS _ _ _ _ ov _ | .vldX _ _ _ _ ov _ => !ov
  | .vstU _ _ _ ov | .vstS _ _ _ _ ov | .vstX _ _ _ _ ov => !ov
  | .mxLd _ _ _ | .mxSt _ _ _ | .vfGo _ | .xrRed _ _ => true
  | .vatAdd _ _ _ _ _ _ | .vatAnd _ _ _ _ _ _ | .vatOr _ _ _ _ _ _ | .vatXor _ _ _ _ _ _ | .vatMin _ _ _ _ _ _
  | .vatMax _ _ _ _ _ _ | .vatMinu _ _ _ _ _ _ | .vatMaxu _ _ _ _ _ _ | .vatSwap _ _ _ _ _ _ | .vatFadd _ _ _ _ _ _
  | .vatFmin _ _ _ _ _ _ | .vatFmax _ _ _ _ _ _ => true
  | _ => false

/-- The strips of a strand that are still on their way. -/
def Strand.strips (x : Strand) : List Strip := x.ring.elim [] Ring.due

/-- An operation of a kind that executes now waits for a fence (R123): an older queued instruction, or an older strip, that the fence
names is still there. Kinds: 1 loads, 2 stores, 4 engine transfers. -/
def Strand.fenced (x : Strand) (load store engine : Bool) : Bool :=
  x.fences.any (fun f => decide (f.2 ≤ x.at_) && (
    let older (p : Instr → Bool) := x.vq.any (fun e => decide (e.seq < f.2) && p e.instr) || x.mq.any (fun e => decide (e.seq < f.2) && p e.instr)
    let strips := x.strips.any (fun t => decide (t.seq ≤ f.2))
    match f.1 with
    | 1 => (load || store) && (older loadsMem || strips)
    | 2 => store && older storesMem
    | _ => engine && (older loadsMem || older storesMem || strips)))

/-- Waits for the fences before an operation of a kind (R123). -/
def unfenced (load store : Bool) : M Unit := do
  let s ← get
  if s.cur.fenced load store false then block else pure ()

/-- A scalar load waits for an older queued access that is ordered before it (R224), and for fences (R123). -/
def Strand.loadWaits (x : Strand) : Bool :=
  x.inStream == 0 && (x.vq.any (fun e => ordersScalar e.instr) || x.mq.any (fun e => ordersScalar e.instr) || x.fenced true false false)

/-- Waits until every older instruction of the vector and matrix streams has completed (R120, R123, R263). -/
def drained : M Unit := do
  let s ← get
  if (s.cur.inStream = 0 && (!s.cur.vq.isEmpty || !s.cur.mq.isEmpty)) || s.isAhead s.cur.uid then block else pure ()

/-- Waits until no older queued instruction may trap (R394): for a younger store or atomic within the quad. -/
def settled : M Unit := do
  let s ← get
  if s.cur.inStream = 0 && s.cur.mayTrap then block else pure ()

/-- A store or an atomic of the front end is performed: no older instruction that is still queued is taken back any more (R394,
R404). -/
def makeSure : M Unit := modCur (fun x => if x.inStream = 0 ∧ !(x.vq.isEmpty && x.mq.isEmpty) then { x with sure := x.seqNo } else x)

/-- POISON of the first poisoned scalar operand, as it was when the instruction that executes was passed (R50, R157, R397). -/
def soundAt (rs : List Reg) (rst : Nat) : M Unit := do
  let s ← get
  let ps := (s.headEntry.map (·.pz)).getD s.cur.poison
  match rs.find? (fun r => ps.any (fun k => k.kind == 0 && k.reg == r.toNat)) with
  | some r => raiseAt cPOISON (BitVec.ofNat 64 r.toNat) 0 rst
  | none => pure ()

/-! ### Stream deadlock (R115, R185, R199) -/

/-- One stream of a cycle of R115. -/
structure Cycle where
  eval  : Nat
  einfo : Nat
deriving DecidableEq, Repr

/-- The vector stream waits for the scalar stream (R115, R185): the queue it is blocked on, and whether on the ring. -/
def vecWaits (x : Strand) : Option Cycle :=
  match x.vq with
  | [] => some ⟨0, 2⟩
  | e :: _ =>
    if x.vHold then none
    else
      match vBlock x e.instr with
      | .q0 => some ⟨1, 2⟩
      | .q1 => some ⟨2, 2⟩
      | .ring => some ⟨0, 10⟩
      | _ => none

/-- The matrix stream waits for the scalar stream, itself or through a vector source of the scoreboard (R115, R197, R199). -/
def matWaits (x : Strand) : Option Cycle :=
  match x.mq with
  | [] => some ⟨0, 4⟩
  | e :: _ =>
    if matBlocked x e then (vecWaits x).map (fun c => ⟨c.eval, c.einfo ||| 4⟩) else none

/-- The cycle that a wait of the scalar stream closes: on queue q, or on the ring when `q` is none (R115, R185). -/
def deadlock (x : Strand) (q : Option Nat) : Option Cycle :=
  match q with
  | none => (vecWaits x).map (fun c => ⟨c.eval, c.einfo ||| 9⟩)
  | some k =>
    let w := if k = 0 ∨ k = 1 then vecWaits x else matWaits x
    w.map (fun c => ⟨c.eval ||| 2 ^ k, c.einfo ||| 1⟩)

/-- The scalar stream waits at a `q` or `vb.ld`: QDEADLOCK when the wait closes a cycle, at once (R115, log 17). -/
def waitStream {α : Type} (q : Option Nat) : M α := do
  let s ← get
  match deadlock s.cur q with
  | some c => raiseAt cQDEADLOCK (w64 c.eval) (w64 c.einfo) 0
  | none => block

end Sys2Proof.Machine
end

