-- ==== Sys2Proof/Machine/ScalarMem.lean ====
section
/-! DEFINITION. Scalar loads and stores, scalar floating point and the queue registers (R106 to R114). -/

namespace Sys2Proof.Machine

/-! ### Loads and stores (R106 to R110) -/

/-- The address of a scalar access: s[A] + sext(OFF10, 10) × n (R106). -/
def eaOf (base : Word) (o : BitVec 10) (n : Nat) : Word := base + o.signExtend 64 * w64 n

/-- n bytes as a register value, sign- or zero-extended (R106). -/
def extBytes (bs : List Byte) (n : Nat) (signed : Bool) : Word :=
  let v := leNat bs
  if signed && decide (2 ^ (8 * n - 1) ≤ v) then w64 (v + (2 ^ 64 - 2 ^ (8 * n))) else w64 v

/-! ### Older stores that are still queued (R224, R226) -/

/-- The index and base registers of a `vat` form. -/
def vatRegs (i : Instr) : Option (Reg × Reg) :=
  match i with
  | .vatAdd _ a b _ _ _ | .vatAnd _ a b _ _ _ | .vatOr _ a b _ _ _ | .vatXor _ a b _ _ _ | .vatMin _ a b _ _ _
  | .vatMax _ a b _ _ _ | .vatMinu _ a b _ _ _ | .vatMaxu _ a b _ _ _ | .vatSwap _ a b _ _ _ | .vatFadd _ a b _ _ _
  | .vatFmin _ a b _ _ _ | .vatFmax _ a b _ _ _ => some (a, b)
  | _ => none

/-- The addresses that indexed elements of a queued instruction may store to; none while an older one has still to write an index. -/
def Strand.indexed (x : Strand) (e : Entry) (base ix : Reg) : Option (List (Word × Nat)) :=
  let w := e.widths.1
  if x.vq.any (fun v => decide (v.seq < e.seq) && (writesV x v).any (fun r =>
      decide (r.1 < ix.toNat + modeGRP e.snap.md) && decide (ix.toNat < r.1 + r.2))) then none
  else some ((List.range e.snap.vlc).map (fun k =>
    (e.snap.reg base + (BitVec.ofNat w (x.elt ix.toNat w k)).signExtend 64, w / 8)))

/-- The bytes that a queued instruction may store to, where they are known: addresses and lengths. -/
def Strand.stored (x : Strand) (e : Entry) : Option (List (Word × Nat)) :=
  let c := e.snap
  let n := e.widths.1 / 8
  match e.instr with
  | .stB _ a o => some [(eaOf (c.reg a) o 1, 1)]
  | .stH _ a o => some [(eaOf (c.reg a) o 2, 2)]
  | .stW _ a o => some [(eaOf (c.reg a) o 4, 4)]
  | .stD _ a o => some [(eaOf (c.reg a) o 8, 8)]
  | .vstU _ a _ _ => some [(c.reg a, c.vlc * n)]
  | .vstS _ a b _ _ => some ((List.range c.vlc).map (fun k => (c.reg a + w64 k * c.reg b, n)))
  | .vstX _ a b _ _ => x.indexed e a b
  | .mxSt _ a b => some ((List.range (bitsOf c.tshape 6 0)).map (fun k => (c.reg a + w64 k * c.reg b, 4 * bitsOf c.tshape 14 8)))
  | .vfGo _ => if (blockInstrs e.block).any storesMem then none else some []
  | i => match vatRegs i with
    | some r => x.indexed e r.2 r.1
    | none => some []

/-- Two pieces lie in a common grain. -/
def Seg.near (g k : Seg) : Bool :=
  let lo (s : Seg) := s.key / s.grain * s.grain
  let hi (s : Seg) := (s.key + s.n + s.grain - 1) / s.grain * s.grain
  !g.mir && !k.mir && decide (lo g < hi k) && decide (lo k < hi g)

/-- A read of some pieces waits for the older queued stores, chosen by `p`, that may write one of their grains: it is performed behind
them, and their marks are there before it is checked (R224, R226). DESIGN CHOICE (log 77): a store whose addresses depend on a value
that is still to be computed may write any grain. -/
def behindStores (p : Instr → Bool) (gs : List Seg) : M Unit := do
  let s ← get
  let x := s.cur
  let hits (e : Entry) : Bool := decide (e.seq < x.at_) && storesMem e.instr && p e.instr && (match x.stored e with
    | none => true
    | some l => l.any (fun k => match (s.segs k.1 k.2 accSt).1 with
      | .ok hs => hs.any (fun h => gs.any (fun g => g.near h))
      | .error _ => false))
  -- an `at` that has been passed is performed first when it is of the same bytes, or when an acquire follows it (R224, R302, R333)
  let late (a : Ahead) : Bool := a.strand.uid == x.uid && (a.acq ||
    gs.any (fun g => !g.mir && decide (g.key < a.req.key + a.req.width / 8) && decide (a.req.key < g.key + g.n)))
  if s.ahead.any late || x.vq.any hits then block else pure ()

/-- A scalar store. -/
def isSt (i : Instr) : Bool :=
  match i with
  | .stB _ _ _ | .stH _ _ _ | .stW _ _ _ | .stD _ _ _ => true
  | _ => false

/-- The kind of a scalar access: in a vector-fetch block its code is 14 (R387). -/
def accIn (a : Acc) : M Acc := do
  let s ← get
  pure (if s.cur.inStream = 1 ∧ s.cur.vf.isSome then { a with kind := 14 } else a)

/-- A plain load of n bytes (R106 to R110). -/
def loadOp (d a : Reg) (o : BitVec 10) (n : Nat) (signed : Bool) : M Done := do
  ready d
  let b ← rv a
  let s ← get
  if s.cur.loadWaits then block
  else
    let k ← accIn accLd
    let gs ← segsM (eaOf b o n) n k 0
    behindStores isSt gs
    turnCheck gs 0
    sound [a]
    let bs ← gs.mapM (readSeg (modePOL s.cur.sc.md))
    wr d (extBytes bs.flatten n signed)
    pure .adv

/-- A probe load (R109): a page that is not resident gives 0 and sets STS.NR. -/
def probeOp (d a : Reg) (o : BitVec 10) (n : Nat) (signed : Bool) : M Done := do
  ready d
  let b ← rv a
  let s ← get
  if s.cur.loadWaits then block
  else
    let r := s.segs (eaOf b o n) n accLd
    match r.1 with
    | .error f =>
      if f.nonres then
        sound [a]
        wr d 0
        modSc (fun c => { c with nr := true })
        pure .adv
      else throw (r.2.failStop f accLd 0)
    | .ok gs =>
      set r.2
      behindStores isSt gs
      turnCheck gs 0
      sound [a]
      let bs ← gs.mapM (readSeg (modePOL s.cur.sc.md))
      wr d (extBytes bs.flatten n signed)
      pure .adv

/-- A store that overtakes no queued instruction (R123, R224, R240, R394): one may still trap, or is ordered before it, or a fence
stands between. -/
def Strand.storeWaits (x : Strand) : Bool :=
  x.inStream == 0 && (x.mayTrap || x.vq.any (fun e => ordersScalar e.instr) || x.mq.any (fun e => ordersScalar e.instr) || x.fenced false true false)

/-- A store of the low n bytes of s[D] (R106). Behind an instruction that it must not overtake it is queued itself. -/
def storeOp (i : Instr) (d a : Reg) (o : BitVec 10) (n : Nat) : M Done := do
  ready d
  let b ← rv a
  let s ← get
  if s.cur.storeWaits then
    modify (fun s => s.enqueue i false 0)
    pure .adv
  else
    unfenced false true
    let k ← accIn accSt
    let gs ← segsM (eaOf b o n) n k 0
    let v ← rv d
    (if s.cur.vf.isSome then sound [a, d] else soundAt [a, d] 0)
    storeSegs gs (leBytes n v.toNat) (modePOL s.cur.sc.md)
    makeSure
    if s.cur.vf.isSome then pure .adv else streamDone

def mLdB (d a : Reg) (o : BitVec 10) : M Done := loadOp d a o 1 true
def execLdB (d a : Reg) (o : BitVec 10) := finishK 1 false (mLdB d a o)
def mLdBu (d a : Reg) (o : BitVec 10) : M Done := loadOp d a o 1 false
def execLdBu (d a : Reg) (o : BitVec 10) := finishK 1 false (mLdBu d a o)
def mLdH (d a : Reg) (o : BitVec 10) : M Done := loadOp d a o 2 true
def execLdH (d a : Reg) (o : BitVec 10) := finishK 1 false (mLdH d a o)
def mLdHu (d a : Reg) (o : BitVec 10) : M Done := loadOp d a o 2 false
def execLdHu (d a : Reg) (o : BitVec 10) := finishK 1 false (mLdHu d a o)
def mLdW (d a : Reg) (o : BitVec 10) : M Done := loadOp d a o 4 true
def execLdW (d a : Reg) (o : BitVec 10) := finishK 1 false (mLdW d a o)
def mLdWu (d a : Reg) (o : BitVec 10) : M Done := loadOp d a o 4 false
def execLdWu (d a : Reg) (o : BitVec 10) := finishK 1 false (mLdWu d a o)
def mLdD (d a : Reg) (o : BitVec 10) : M Done := loadOp d a o 8 false
def execLdD (d a : Reg) (o : BitVec 10) := finishK 1 false (mLdD d a o)
def mLdBP (d a : Reg) (o : BitVec 10) : M Done := probeOp d a o 1 true
def execLdBP (d a : Reg) (o : BitVec 10) := finishK 1 false (mLdBP d a o)
def mLdBuP (d a : Reg) (o : BitVec 10) : M Done := probeOp d a o 1 false
def execLdBuP (d a : Reg) (o : BitVec 10) := finishK 1 false (mLdBuP d a o)
def mLdHP (d a : Reg) (o : BitVec 10) : M Done := probeOp d a o 2 true
def execLdHP (d a : Reg) (o : BitVec 10) := finishK 1 false (mLdHP d a o)
def mLdHuP (d a : Reg) (o : BitVec 10) : M Done := probeOp d a o 2 false
def execLdHuP (d a : Reg) (o : BitVec 10) := finishK 1 false (mLdHuP d a o)
def mLdWP (d a : Reg) (o : BitVec 10) : M Done := probeOp d a o 4 true
def execLdWP (d a : Reg) (o : BitVec 10) := finishK 1 false (mLdWP d a o)
def mLdWuP (d a : Reg) (o : BitVec 10) : M Done := probeOp d a o 4 false
def execLdWuP (d a : Reg) (o : BitVec 10) := finishK 1 false (mLdWuP d a o)
def mLdDP (d a : Reg) (o : BitVec 10) : M Done := probeOp d a o 8 false
def execLdDP (d a : Reg) (o : BitVec 10) := finishK 1 false (mLdDP d a o)
def mStB (d a : Reg) (o : BitVec 10) : M Done := storeOp (.stB d a o) d a o 1
def execStB (d a : Reg) (o : BitVec 10) := finishK 2 true (mStB d a o)
def mStH (d a : Reg) (o : BitVec 10) : M Done := storeOp (.stH d a o) d a o 2
def execStH (d a : Reg) (o : BitVec 10) := finishK 2 true (mStH d a o)
def mStW (d a : Reg) (o : BitVec 10) : M Done := storeOp (.stW d a o) d a o 4
def execStW (d a : Reg) (o : BitVec 10) := finishK 2 true (mStW d a o)
def mStD (d a : Reg) (o : BitVec 10) : M Done := storeOp (.stD d a o) d a o 8
def execStD (d a : Reg) (o : BitVec 10) := finishK 2 true (mStD d a o)

/-! ### Scalar floating point (R111 to R113) -/

/-- The encoding of an FP operand: the low bits of its register (R111). -/
def fpIn (t : ETy) (x : Word) : Nat := x.toNat % 2 ^ etyBits t

/-- A form that rounds: it draws under RS, raises what its result raises, and writes the result (R112, R113). -/
def fsRound (i : Instr) (d : Reg) (f : ETy → RMode → Bool → M FRes) : M Done := do
  let t ← needETA i etyIsArith
  let md ← rmodeScalar i
  let c ← sc
  ready d
  let r ← f t md (modeSAT c.md)
  scalarFlags r.fl
  modSc Scalar.drawn
  wr d (w64 r.bits)
  pure .adv

/-- A two-operand rounding form. -/
def fsTwo (i : Instr) (d a b : Reg) (f : ETy → RMode → Bool → Nat → Nat → FRes) : M Done :=
  fsRound i d (fun t md sat => do
    let x ← rd a
    let y ← rd b
    pure (f t md sat (fpIn t x) (fpIn t y)))

/-- A compare: it writes 0 or 1 and raises NV as its table row says (R112). -/
def fsCmp (i : Instr) (d a b : Reg) (f : ETy → Nat → Nat → Bool × Flags) : M Done := do
  let t ← needETA i etyIsArith
  ready d
  let x ← rd a
  let y ← rd b
  let r := f t (fpIn t x) (fpIn t y)
  scalarFlags r.2
  wr d (wBool r.1)
  pure .adv

def mFsAdd (d a b : Reg) : M Done := fsTwo (.fsAdd d a b) d a b fAdd
def execFsAdd (d a b : Reg) := finish (mFsAdd d a b)
def mFsSub (d a b : Reg) : M Done := fsTwo (.fsSub d a b) d a b fSub
def execFsSub (d a b : Reg) := finish (mFsSub d a b)
def mFsMul (d a b : Reg) : M Done := fsTwo (.fsMul d a b) d a b fMul
def execFsMul (d a b : Reg) := finish (mFsMul d a b)
def mFsDiv (d a b : Reg) : M Done := fsTwo (.fsDiv d a b) d a b fDiv
def execFsDiv (d a b : Reg) := finish (mFsDiv d a b)
def mFsSqrt (d a : Reg) : M Done :=
  fsRound (.fsSqrt d a) d (fun t md sat => do
  let x ← rd a
  pure (fSqrt t md sat (fpIn t x)))
def execFsSqrt (d a : Reg) := finish (mFsSqrt d a)
def mFsFma (d a b : Reg) : M Done :=
  fsRound (.fsFma d a b) d (fun t md sat => do
  let z ← rd d
  let x ← rd a
  let y ← rd b
  pure (fFmaT t md sat false false (fpIn t x) (fpIn t y) (fpIn t z)))
def execFsFma (d a b : Reg) := finish (mFsFma d a b)
def mFsMin (d a b : Reg) : M Done :=
  fsTwo (.fsMin d a b) d a b (fun t _ _ x y => fMinMax t false x y)
def execFsMin (d a b : Reg) := finish (mFsMin d a b)
def mFsMax (d a b : Reg) : M Done :=
  fsTwo (.fsMax d a b) d a b (fun t _ _ x y => fMinMax t true x y)
def execFsMax (d a b : Reg) := finish (mFsMax d a b)
def mFsEq (d a b : Reg) : M Done := fsCmp (.fsEq d a b) d a b fEq
def execFsEq (d a b : Reg) := finish (mFsEq d a b)
def mFsLt (d a b : Reg) : M Done := fsCmp (.fsLt d a b) d a b (fun t x y => fLess t false x y)
def execFsLt (d a b : Reg) := finish (mFsLt d a b)
def mFsLe (d a b : Reg) : M Done := fsCmp (.fsLe d a b) d a b (fun t x y => fLess t true x y)
def execFsLe (d a b : Reg) := finish (mFsLe d a b)

/-- cvti: rounded toward zero to I64 (R112, R143). -/
def mFsCvti (d a : Reg) : M Done := do
  let t ← needETA (.fsCvti d a) etyIsArith
  let c ← sc
  ready d
  let x ← rd a
  let r := cvtFpInt .i64 .rtz (modeSAT c.md) (unpack t (fpIn t x))
  scalarFlags r.2
  wr d (w64 r.1)
  pure .adv
def execFsCvti (d a : Reg) := finish (mFsCvti d a)

/-- cvtf: the low bits of sa as the integer type ETB, rounded to ETA (R112). -/
def mFsCvtf (d a : Reg) : M Done := do
  let t ← needETA (.fsCvtf d a) etyIsArith
  let u ← needETB (.fsCvtf d a) t etyIsInt
  let md ← rmodeScalar (.fsCvtf d a)
  ready d
  let x ← rd a
  let r := cvtIntFp t md false (intVal u x.toNat)
  scalarFlags r.fl
  modSc Scalar.drawn
  wr d (w64 r.bits)
  pure .adv
def execFsCvtf (d a : Reg) := finish (mFsCvtf d a)

/-- cls (R112). -/
def mFsCls (d a : Reg) : M Done := do
  let t ← needETA (.fsCls d a) etyIsArith
  ready d
  let x ← rd a
  wr d (w64 (fClass t (fpIn t x)))
  pure .adv
def execFsCls (d a : Reg) := finish (mFsCls d a)

/-- The copy of an encoding under ETB 15: a signalling NaN is quieted, with NV (R112, R130). -/
def quietCopy (t : ETy) (x : Nat) : FRes :=
  if unpack t x = .nan true then ⟨x ||| 2 ^ ((fmtOf t).f - 1), fNV⟩ else ⟨x, 0#6⟩

/-- cvt: to the type ETB by RND, or a copy under ETB 15 (R112, R143). -/
def mFsCvt (d a : Reg) : M Done := do
  let t ← needETA (.fsCvt d a) etyIsArith
  let c ← sc
  let u ← needETB (.fsCvt d a) t etyIsFp
  let md ← rmodeScalar (.fsCvt d a)
  ready d
  let x ← rd a
  let r := if modeETB c.md = 15 then quietCopy t (fpIn t x) else cvtFpFp u md (modeSAT c.md) (unpack t (fpIn t x))
  scalarFlags r.fl
  modSc Scalar.drawn
  wr d (w64 r.bits)
  pure .adv
def execFsCvt (d a : Reg) := finish (mFsCvt d a)

/-! ### Queue registers (R114, R115) -/

/-- Records a queue operation that a trap of an older queued instruction would take back (R394). -/
def logQ (q : Nat) (pop : Option Word) : M Unit :=
  modCur (fun x => if x.vq.isEmpty && x.mq.isEmpty then { x with qlog := [] }
                   else { x with qlog := ⟨x.seqNo, q, pop, x.ring⟩ :: x.qlog })

/-- `q.push` (R114): appends s[A] to q0 or q2, waiting while it is full. -/
def execQPush (q a : Reg) := finish (do
  let v ← rd a
  let s ← get
  if q = 0 then
    if 16 ≤ s.cur.q0.length then waitStream (some 0)
    else
      modCur (fun x => { x with q0 := x.q0 ++ [v] })
      logQ 0 none
      pure .adv
  else
    if 8 ≤ s.cur.q2.length then waitStream (some 2)
    else
      modCur (fun x => { x with q2 := x.q2 ++ [v] })
      logQ 2 none
      pure .adv)

/-- `q.pop` (R114): removes the oldest entry of q1 or q3, waiting while it is empty. -/
def execQPop (d q : Reg) := finish (do
  ready d
  let s ← get
  if q = 1 then
    match s.cur.q1 with
    | [] => waitStream (some 1)
    | v :: r =>
      if s.cur.headPoison 1 then raise cPOISON 1
      else
        modCur (fun x => { x with q1 := r, poison := popMarks x.poison 1 })
        logQ 1 (some v)
        wr d v
        pure .adv
  else
    match s.cur.q3 with
    | [] => waitStream (some 3)
    | v :: r =>
      if s.cur.headPoison 3 then raise cPOISON 3
      else
        modCur (fun x => { x with q3 := r, poison := popMarks x.poison 3 })
        logQ 3 (some v)
        wr d v
        pure .adv)

/-- `q.cnt` (R114). -/
def execQCnt (d q : Reg) := finish (do
  ready d
  let s ← get
  wr d (w64 (if q = 1 then s.cur.q1.length else s.cur.q3.length))
  pure .adv)

/-- The detection of a stream deadlock as an event of its own (R115): the strand's next `q` or `vb.ld` raises
QDEADLOCK by itself, so a strand that waits is made to execute it again. -/
def execQdeadlockDetect (uid : Nat) := event (fun s => s.modStrand uid (fun x => { x with waiting := false }))

end Sys2Proof.Machine
end

