-- ==== Sys2Proof/Machine/Crews.lean ====
section
/-! DEFINITION. Crews on their quads: the room of a quad, placing, saving, restoring and losing a crew, and the grant
(R90, R155, R230, R249, R258, R261, R265 to R268, R286, R372, R404, R405, R408, R420). -/

namespace Sys2Proof.Machine

/-! ### Effects of a strand that have not been performed -/

/-- An effect of strand `uid` of a kind chosen by `p` is on a platform or on the fabric (R413, R415). -/
def State.pendingEff (s : State) (uid : Nat) (p : EffKind → Bool) : Bool :=
  let hit (e : Eff) := e.uid == uid && p e.kind
  s.quad.plat.any hit || s.quads.any (fun q => q.plat.any hit) || s.reqs.any (fun r => hit r.eff || r.combined.any (fun k => hit k.eff))

/-- Any effect of the strand is pending. -/
def State.busyOut (s : State) (uid : Nat) : Bool := s.pendingEff uid (fun _ => true)

/-- Appends an effect of another strand to the platform of its quad. -/
def State.handAs (s : State) (x : Strand) (k : EffKind) : State :=
  let e : Eff := ⟨s.effSeq, x.uid, x.ident.quad, s.releaseTick, k⟩
  ({ s with effSeq := s.effSeq + 1 }).modQuad x.ident.quad (fun q => { q with plat := q.plat ++ [e] })

/-! ### The grant (R153, R155) -/

/-- The low n bits of a bit vector. -/
def lowBits {w : Nat} (b : BitVec w) (n : Nat) : BitVec w := BitVec.ofNat w (b.toNat % 2 ^ n)

/-- Gives a strand the grant n: registers and masks keep what both grants hold, VLC is cut with VLCUT (R155). -/
def Strand.regrant (x : Strand) (n : Nat) : Strand :=
  let x := x.openRings x.seqNo
  let m := min x.vlg n
  { x with
    vlg := n, v := x.v.map (fun b => lowBits b (32 * m)),
    ring := x.ring.map (fun r => { r with data := r.data.map (fun b => lowBits b (32 * m)) }), masks := x.masks.map (fun b => lowBits b m), offer := none,
    sc := if n < x.sc.vlc then { x.sc with vlc := n, vlcut := true } else x.sc }

/-! ### Launches -/

/-- The crews of a launch. -/
def Launch.total (l : Launch) : Nat := l.ncx * l.ncy * l.ncz

/-- Every dependence has been seen done (R259). -/
def Launch.eligible (l : Launch) : Bool := l.deps.all (·.met)

/-- VLMIN′ (R253). -/
def vlMin' (vlmin : Nat) : Nat := if vlmin = 0 then 32 else (vlmin + 31) / 32 * 32

/-- VLDES′ (R253). -/
def vlDes' (vlmin vldes : Nat) (prot : Bool) : Nat :=
  let top := if prot then 256 else 512
  let d := if vldes = 0 then top else (vldes + 31) / 32 * 32
  min (max d (vlMin' vlmin)) top

/-- The scratchpad allotment: SPAD rounded up to 4 KiB (R253). -/
def allotOf (spad : Nat) : Nat := (spad + 4095) / 4096 * 4096

/-- The sequence number of a handle (R256). -/
def handleSeq (h : Word) : Nat := bitsOf h 47 10

/-! ### Room on a quad (R261) -/

/-- The core of strand i of a crew with base core b (R249). -/
def coreOf (b i : Nat) : Nat := (b + i) % 4

/-- How many of a crew's n strands stand on a core (R249). -/
def kOf (n b core : Nat) : Nat := (List.range n).countP (fun i => coreOf b i == core)

/-- The strands of a core. -/
def State.onCore (s : State) (q core : Nat) : List Strand := (s.residents q).filter (fun x => x.ident.core == core)

/-- The free slot numbers of a core, lowest first. -/
def State.freeSlots (s : State) (q core : Nat) : List Nat :=
  let used := (s.onCore q core).map (fun x => x.ident.slot)
  (List.range 8).filter (fun i => !used.contains i)

/-- The free tiles of a core (R192). -/
def State.freeTiles (s : State) (q core : Nat) : Nat := 8 - ((s.onCore q core).map (·.ntiles)).sum

/-- The free vector slots of a core (R153). -/
def State.freeVec (s : State) (q core : Nat) : Nat := 1024 - ((s.onCore q core).map (·.vlg)).sum

/-- The lowest allotment base, a multiple of 4 KiB, at which `size` bytes are free in quad q's scratchpad (R297). DESIGN CHOICE (log 86): a
placed crew gets the lowest free one. -/
def State.freeAllot (s : State) (q size : Nat) : Option Nat :=
  let held := (s.crews.filter (fun c => c.quad == q && !c.depot)).map (fun c => (c.abase, c.alen))
  if size = 0 then some 0
  else
    ((List.range 512).map (4096 * ·)).find? (fun b =>
      decide (b + size ≤ 2 ^ 21) && held.all (fun h => decide (b + size ≤ h.1) || decide (h.1 + h.2 ≤ b)))

/-- Quad q takes crews of partition p (R250, R261, R476). -/
def State.quadOpen (s : State) (p q : Nat) : Bool :=
  match s.part? p with
  | none => false
  | some x => x.quads.contains q && !x.halted && !x.saved && !(s.getQuad q).aging

/-- A crew of a launch is placeable on quad q with base core b; `old` gives the grants of a resumed crew's strands, in
order, and `cbs` its controllers (R261, R372). -/
def State.fits (s : State) (l : Launch) (q b : Nat) (old : Option (List Nat)) (cbs : List Cb) : Bool :=
  s.quadOpen l.part q &&
  (List.range 4).all (fun core =>
    let k := kOf l.nstr b core
    let vec := match old with
      | some g => ((List.range l.nstr).filterMap (fun i => if coreOf b i = core then g[i]? else none)).sum
      | none => k * vlMin' l.vlmin
    decide (k ≤ (s.freeSlots q core).length) && decide (k * l.tiles ≤ s.freeTiles q core) &&
      decide (vec ≤ s.freeVec q core)) &&
  (s.freeAllot q (allotOf l.spad)).isSome &&
  cbs.all (fun c => !(s.getQuad q).d.cbs.any (fun d => d.idx == c.idx))

/-! ### Placing a crew (R90, R249, R251, R260, R261) -/

/-- The crew coordinates of a linear index (R251). -/
def coordsOf (l : Launch) (c : Nat) : Nat × Nat × Nat := (c % l.ncx, c / l.ncx % l.ncy, c / l.ncx / l.ncy)

/-- The scalar state of a strand at its start (R90, R137, R194). -/
def startScalar (l : Launch) (c i vlg : Nat) : Scalar :=
  { pc := l.entry, regs := Vector.replicate 32 0, mode := modeReset, fpen := 0, tnest := 0, prv := l.prv, rolled := false,
    vlcut := false, nr := false, prot := l.prot, lcnt0 := 0, lend0 := ⟨0, 0⟩, lcnt1 := 0, lend1 := ⟨0, 0⟩, flags := 0,
    seed := seedConst ^^^ w64 (c * 32 ||| i), vlc := vlg, epc := 0, ecause := 0, eval := 0, einfo := 0, turnprg := 0,
    trbase := 0, esave := 0, tshape := if l.prot then 0x4020 else 0x4040, scopectl := 0, scopelog := 0, retHit := 0,
    retMiss := 0, retOvf := 0, l2Hit := 0, l2Miss := 0, busy := 0,
    busyAddr := Vector.replicate 8 0, icount := 0 }

/-- A strand at its start (R90). -/
def startStrand (uid : Nat) (id : Ident) (c : Scalar) (vlg ntiles : Nat) : Strand :=
  { uid := uid, sc := c, status := .running, vlg := vlg, rstix := 0, masks := Vector.replicate 8 0,
    v := Vector.replicate 32 0, ntiles := ntiles, tiles := Vector.replicate 8 0,
    q0 := [], q1 := [], q2 := [], q3 := [], ident := id, marks := [], pend := [],
    ring := none, closed := [], chans := List.replicate 4 Chan.zero, barRecs := [], arrs := [], poison := [], parkSeq := 0, parkSlot := none,
    handed := none, syncWait := false, deadline := none, vq := [], mq := [], vf := none, seqNo := 0, qlog := [], mlog := [], fences := [], sure := 0, wrote := [],
    inStream := 0, vHold := false, mHold := false, waiting := false, tried := false, saved := none, offer := none,
    mlines := [], tids := [], vat := none, owedMis := [], note := none }

/-- An acquire at DIE scope for a quad (R260, R402): every clean copy of the given cores and of the quad goes. -/
def State.acquireFor (s : State) (q : Nat) (cores : List Nat) : State :=
  s.modQuad q (fun x => { x with d := { x.d with copies := x.d.copies.filter (fun c =>
    match c.core with
    | some k => !cores.contains k
    | none => false) } })

/-- Zeroes an allotment (R261). -/
def State.clearAllot (s : State) (q base len : Nat) : State :=
  let lo := scratchKey q base
  { s with
    mem := s.mem.filter (fun c => decide (c.1 < lo) || decide (lo + len ≤ c.1)),
    memPoison := s.memPoison.filter (fun p => decide (4 * p < lo) || decide (lo + len ≤ 4 * p)) }

/-- Adds a strand to the machine. -/
def State.addStrand (s : State) (x : Strand) : State :=
  { s with strands := s.strands ++ [x] }

/-- The place of strand i of a crew on quad q with base core b, in the room `s` has. DESIGN CHOICE (log 86): its slot is the lowest free
one. -/
def State.slotFor (s : State) (q b i : Nat) : Nat := ((s.freeSlots q (coreOf b i)).head?).getD 0

/-- The kept checkpoints of a crew's quad receive the crew as it has been placed: a rollback returns its strands, its
allotment, its windows and its controllers to that state, and its launch has held a strand on the quad since then (R416). -/
def State.joinCkpts (s : State) (cid : Nat) : State :=
  match s.crewOf cid with
  | none => s
  | some cr =>
    let xs := s.all.filter (fun x => x.ident.crew == cid && (x.status != .retired || !x.arrs.isEmpty))
    let lo := scratchKey cr.quad cr.abase
    let mine (c : Host.Cell) := decide (lo ≤ c.1) && decide (c.1 < lo + cr.alen)
    let at_ (k : Nat) := decide (lo ≤ k) && decide (k < lo + cr.alen)
    let cells := s.mem.filter mine
    let bad := s.memPoison.filter (fun p => at_ (4 * p))
    let cbs := (s.getQuad cr.quad).d.cbs.filter (fun c => c.owner == cid)
    s.modQuad cr.quad (fun q => { q with ckpts := q.ckpts.map (fun k => { k with
      strands := k.strands ++ xs,
      scratch := cells.foldl (fun m c => memSet m c.1 c.2) (k.scratch.filter (fun c => !mine c)),
      touched := k.touched.filter (fun i => !at_ (32 * i)), cleared := k.cleared.filter (fun i => !at_ i),
      poison := bad ++ k.poison.filter (fun p => !at_ (4 * p)),
      windows := (cid, cr.windows) :: k.windows.filter (fun w => w.1 != cid),
      launches := if k.launches.contains cr.launch then k.launches else cr.launch :: k.launches,
      data := { k.data with cbs := k.data.cbs.filter (fun c => c.owner != cid) ++ cbs } }) })

/-- A crew that leaves its quad leaves the kept checkpoints too. -/
def State.leaveCkpts (s : State) (q cid : Nat) : State :=
  s.modQuad q (fun x => { x with ckpts := x.ckpts.map (fun k => { k with
    strands := k.strands.filter (fun (y : Strand) => y.ident.crew != cid) }) })

/-- Places crew c of a launch, for the first time, on quad q with base core b (R249, R261). -/
def State.placeNew (s : State) (l : Launch) (c q b : Nat) : State :=
  let alen := allotOf l.spad
  let abase := (s.freeAllot q alen).getD 0
  let cid := s.crewSeq
  let grants := (List.range l.nstr).map (fun i =>
    let core := coreOf b i
    let k := kOf l.nstr b core
    min (vlDes' l.vlmin l.vldes l.prot) (32 * (s.freeVec q core / (32 * k))))
  let xyz := coordsOf l c
  let crew : Crew := {
    id := cid, launch := l.handle, part := l.part, index := c, quad := q, base := b, nstr := l.nstr,
    abase := abase, alen := alen, flags := 0, faulted := false, depot := false, seq := s.crewSeq, windows := [],
    scratch := [], cbs := [], memPoison := [], spilled := false, swapped := false, stopping := false, bad := false }
  let s1 := (s.clearAllot q abase alen).acquireFor q ((List.range l.nstr).map (coreOf b))
  let s2 := { s1 with crewSeq := s1.crewSeq + 1, crews := s1.crews ++ [crew] }
  let s3 := (List.range l.nstr).foldl (fun (t : State) i =>
    let id : Ident := {
      strid := i, crewX := xyz.1, crewY := xyz.2.1, crewZ := xyz.2.2, ncrewX := l.ncx, ncrewY := l.ncy,
      ncrewZ := l.ncz, nstr := l.nstr, quad := q, core := coreOf b i, slot := t.slotFor q b i, devid := s.devid,
      lparam := l.param, mirgrp := if l.mirror then c / l.mgrp * 256 + c % l.mgrp else 0, part := l.part, crew := cid,
      abase := abase, alen := alen }
    let g := grants.getD i 32
    ({ t with uidSeq := t.uidSeq + 1 }).addStrand (startStrand t.uidSeq id (startScalar l c i g) g l.tiles)) s2
  (s3.modLaunch l.handle (fun x => { x with placed := x.placed + 1 })).joinCkpts cid

/-! ### Saving and restoring (R230, R268, R286, R405) -/

/-- The strands of a crew. -/
def State.crewStrands (s : State) (c : Nat) : List Strand := s.all.filter (fun x => x.ident.crew == c)

/-- The ring has a buffer on its way (R186). -/
def Ring.filling (r : Ring) : Bool := r.bufs.any (fun b => decide (b = .filling))

/-- A kind that pre-emption takes back before it has been served: a request for a token, the join of a reduction (R313,
R445). -/
def EffKind.recalled (k : EffKind) : Bool :=
  match k with
  | .acq _ _ => true
  | .coll m => m.join
  | _ => false

/-- A strand has an instruction whose request has left the quad and is not taken back: the instruction completes before the save
(R313, R404). -/
def State.awaits (s : State) (x : Strand) : Bool :=
  x.handed.isSome && !s.tokReqs.any (fun r => r.uid == x.uid) && !s.pendingEff x.uid EffKind.recalled

/-- A strand may be saved: it does not end, no strip is FILLING, its effects have left the platform and been performed but for what
is taken back, and it takes part in no reduction that every member has joined (R186, R264, R313, R333, R404, R420, R445). -/
def State.saveReady (s : State) (x : Strand) : Bool :=
  x.status != .ending && !(match x.ring with | some r => r.filling | none => false) &&
  !s.pendingEff x.uid (fun k => !k.recalled) && !s.awaits x && !s.inReduction x && !s.isAhead x.uid

/-- A crew may be saved: what its strands have stored has merged at home as well (R230, R420). -/
def State.crewReady (s : State) (c : Nat) : Bool :=
  (s.crewStrands c).all (fun x => x.status == .retired || (s.saveReady x && !s.owesHome x))

/-- Stops the strands of a crew (R404); one in a joined reduction stops after it (R445). -/
def State.stopCrew (s : State) (c : Nat) : State :=
  let s1 := s.mapStrands (fun x =>
    if x.ident.crew = c ∧ x.status = .running ∧ !s.inReduction x then { x.atStop with status := .halted } else x)
  s1.modCrew c (fun k => { k with stopping := true })

/-- Turns a strand's pending grains home and keeps its marks (R230). -/
def State.turnForSave (s : State) (uid : Nat) : State :=
  match s.strand? uid with
  | none => s
  | some x => (s.turnAllHome uid false).modStrand uid (fun y => { y with marks := x.marks.map (fun k => { k with moved := true }) })

/-- The strands of a crew that have stopped turn what they have stored home, before the crew's save (R230, R268). -/
def State.turnCrew (s : State) (c : Nat) : State :=
  ((s.liveOf c).filter (fun x => x.status == .halted || x.status == .parked)).foldl (fun (s : State) x => s.turnForSave x.uid) s

/-- Takes an ungranted request for a token, or the join of a reduction, back (R313, R445). -/
def State.withdrawReqs (s : State) (uid : Nat) : State :=
  match s.strand? uid with
  | none => s
  | some x =>
    let gone (e : Eff) : Bool := e.uid == uid && e.kind.recalled
    let waits := s.pendingEff uid (fun k => match k with | .acq _ _ => true | _ => false) ||
      s.tokReqs.any (fun r => r.uid == uid)
    let s1 := { s with tokReqs := s.tokReqs.filter (fun r => r.uid != uid), reqs := s.reqs.filter (fun r => !gone r.eff) }
    let s2 := (s1.modQuad x.ident.quad (fun q => { q with plat := q.plat.filter (fun e => !gone e) })).withdrawJoin x
    let red := match x.note with | some (t :: _) => t == noteRed | _ => false
    s2.modStrand uid (fun y => { y with
      handed := if waits then none else y.handed, note := if red then none else y.note })

/-- What the contexts of some crews take: strands, tiles, vector slots and bytes of scratchpad. -/
def State.takes (s : State) (cs : List Crew) : Nat × Nat × Nat × Nat :=
  let xs := cs.flatMap (fun c => s.liveOf c.id)
  (xs.length, (xs.map (·.ntiles)).sum, (xs.map (·.vlg)).sum, (cs.map (·.alen)).sum)

/-- Quad q's depot has no room for one more crew's context: it holds one full quad context (R268). -/
def State.depotFull (s : State) (q : Nat) (cr : Crew) : Bool :=
  let t := s.takes (cr :: s.crews.filter (fun c => c.depot && !c.spilled && c.quad == q))
  decide (32 < t.1) || decide (32 < t.2.1) || decide (4096 < t.2.2.1) || decide (2 ^ 21 < t.2.2.2)

/-- The bytes of a saved context. DESIGN CHOICE (log 63): its allotment, vector registers and tiles, and 1 KiB for each strand. -/
def State.contextSize (s : State) (cr : Crew) : Nat :=
  cr.alen + ((s.liveOf cr.id).map (fun x => 128 * x.vlg + 16384 * x.ntiles + 1024)).sum

/-- A crew's context goes to the spill area of its partition (R268, R405): how it lies there is not given, so that the bytes it takes are
free (log 63). DESIGN CHOICE (log 63): an area that is too small, or of SPILLLEN 0, holds every context that spills. -/
def State.spillOut (s : State) (cr : Crew) : State :=
  match s.part? cr.part with
  | none => s
  | some p =>
    if p.spillLen = 0 then s
    else
      let at_ := (Config.freeWord s.freeCtr).toNat % p.spillLen
      let f := ({ s with freeCtr := s.freeCtr + 1 }).freeBytes (min (s.contextSize cr) p.spillLen)
      f.1.zipIdx.foldl (fun (s : State) b => s.memWrite (homeKey 0 (p.spillBase + (at_ + b.2) % p.spillLen)) [b.1]) f.2

/-- The contexts in quad q's depot go to the spill areas of their partitions (R268, R407, R476). -/
def State.spillDepot (s : State) (q : Nat) : State :=
  (s.crews.filter (fun c => c.depot && c.quad == q && !c.spilled)).foldl (fun (s : State) c =>
    (s.spillOut c).modCrew c.id (fun k => { k with spilled := true })) s

/-- Saves a crew's context: its strands leave the quad, its arrivals are withdrawn, its allotment and controllers go with
it (R286, R405); the context spills when the quad's depot is full (R268). -/
def State.saveCrew (s : State) (c : Nat) (swap : Bool) : State :=
  match s.crewOf c with
  | none => s
  | some cr =>
    let live := (s.liveOf c).map (·.uid)
    let s1 := live.foldl (fun (s : State) u => ((s.turnForSave u).withdrawReqs u)) s
    let s2 := s1.withdrawCrew c
    let s3 := s2.mapStrands (fun x =>
      if x.ident.crew = c ∧ x.status ≠ .retired ∧ x.status ≠ .absent then { x.atStop with status := .depot } else x)
    let lo := scratchKey cr.quad cr.abase
    let mine (k : Nat) := decide (lo ≤ k) && decide (k < lo + cr.alen)
    let s4 := s3.modCrew c (fun k => { k with
      depot := true, spilled := s.depotFull cr.quad cr, swapped := swap, stopping := false,
      scratch := (s3.mem.filter (fun p => mine p.1)).map (fun p => (p.1 - lo, p.2)),
      memPoison := (s3.memPoison.filter (fun p => mine (4 * p))).map (fun p => p - lo / 4),
      cbs := (s3.getQuad cr.quad).d.cbs.filter (fun k => k.owner == c) })
    let s5 := ((s4.dropCbs cr.quad c).clearAllot cr.quad cr.abase cr.alen).leaveCkpts cr.quad c
    if s.depotFull cr.quad cr then s5.spillOut cr else s5

/-- The number of the barrier of the same scope and id at a new placement (R286). -/
def moveBar (b : Nat) (i : Ident) : Nat :=
  match barScope b with
  | 1 => 2 ^ 20 + 64 * i.coreid + b % 64
  | 2 => 2 * 2 ^ 20 + 64 * i.quad + b % 64
  | 3 => 3 * 2 ^ 20 + 64 * dieOf i.quad + b % 64
  | _ => b

/-- A restored strand's records and withdrawn arrivals name the barriers of the same scope and id at its new placement (R286). -/
def Strand.moveRecs (x : Strand) : Strand :=
  { x with
    arrs := x.arrs.map (fun m => (moveBar m.1 x.ident, m.2))
    deadline := x.deadline.map (fun t => { t with bar := moveBar t.bar x.ident })
    barRecs := x.barRecs.map (fun r => { r with bar := moveBar r.bar x.ident }) }

/-- Applies a strand's withdrawn arrivals at the barriers chosen by `p` again: its record takes the barrier's current PHASE and the
completion test runs (R286). A record that was complete stays so. -/
def State.rejoin (s : State) (uid : Nat) (p : Nat → Bool) : State :=
  match s.strand? uid with
  | none => s
  | some x =>
    let back := x.arrs.filter (fun m => p m.1)
    let s1 := s.modStrand uid (fun y => { y with
      arrs := y.arrs.filter (fun m => !p m.1)
      barRecs := y.barRecs.map (fun r =>
        if !r.done && back.any (fun m => m.1 == r.bar) then { r with phase := some (s.bar r.bar).phase } else r) })
    back.foldl (fun (s : State) m =>
      let b := s.bar m.1
      s.settleBar { b with who := b.who ++ List.replicate m.2 uid }) s1

/-- A barrier outside its quad's data: DIE scope or wider. -/
def wideBar (b : Nat) : Bool := decide (3 ≤ barScope b)

/-! ### A crew that is lost (R264, R315, R408) -/

/-- A crew whose context cannot be restored retires as lost: CTXLOST, a LOST entry, its tokens FREE (R408). It
counts as faulted only when a strand of it had been terminated (R262). -/
def State.loseCrew (s : State) (c : Nat) : State :=
  match s.crewOf c with
  | none => s
  | some cr =>
    let live := (s.liveOf c).map (·.uid)
    let s1 := s.modLaunch cr.launch (fun l => { l with ctxlost := true })
    let s2 := s1.fqWrite cr.part (fqEntry (w64 cr.index) cr.launch cCTX_LOST 15 8 0)
    let s3 := s2.modCrew c (fun k => { k with faulted := true })
    let wasFaulted := (s.launchOf cr.launch).map (·.faulted) |>.getD false
    let ended := (s.liveOf c).any (fun x => x.status == .ending)
    let s4 := live.foldl (fun (s : State) u => s.retireStrand u false) s3
    s4.modLaunch cr.launch (fun l => { l with faulted := wasFaulted || cr.faulted || ended })

/-! ### Restoring -/

/-- Writes bytes kept as cells back from a base key. -/
def putCells (m : Memory) (lo : Nat) (cs : List Host.Cell) : Memory := cs.foldl (fun m c => memSet m (lo + c.1) c.2) m

/-- Restores a saved crew on quad q with base core b: its strands run on, parked ones stay parked, `halt` keeps the others
halted (R268, R401, R405, R408). Its transfers check their unwritten chunks afresh (R377), and its marks on the allotment follow it
(R230). A strand's grant grows only by an offer, and leaves room for those of the strands still to come (R153, R155, R261). A rollback
applies the arrivals of the quad's own barriers again (R286). -/
def State.restoreCrew (s : State) (c q b : Nat) (halt : Bool) : State :=
  match s.crewOf c with
  | none => s
  | some cr =>
    if cr.bad then s.loseCrew c else
    let abase := (s.freeAllot q cr.alen).getD 0
    let lo := scratchKey q abase
    let live := (s.liveOf c).map (·.uid)
    let s0 := (s.clearAllot q abase cr.alen).acquireFor q ((List.range cr.nstr).map (coreOf b))
    let s1 := { s0 with mem := putCells s0.mem lo cr.scratch,
                        memPoison := cr.memPoison.map (fun p => p + lo / 4) ++ s0.memPoison }
    let s2 := (s1.modQuad q (fun x => { x with d := { x.d with cbs := x.d.cbs ++ cr.cbs } })).modCrew c (fun k =>
      { k with depot := false, spilled := false, swapped := false, quad := q, base := b, abase := abase, seq := s1.crewSeq, scratch := [],
               cbs := [], memPoison := [] })
    let s3 := live.foldl (fun (t : State) u =>
      t.modStrand u (fun x =>
        let i := x.ident.strid
        let later := ((t.liveOf c).filter (fun y => y.status == .depot && y.uid != u && coreOf b y.ident.strid == coreOf b i)).map (·.vlg)
        let room := t.freeVec q (coreOf b i) - later.sum
        let top := (t.launchOf cr.launch).elim (if x.sc.prot then 256 else 512) (fun l => vlDes' l.vlmin l.vldes l.prot)
        let old := scratchKey cr.quad cr.abase
        let y := match x.offer with
          | some n => if x.vlg ≤ n ∧ n ≤ room ∧ n ≤ top ∧ n % 32 = 0 then x.regrant n else x
          | none => x
        { y with
          marks := y.marks.map (fun k => if keyHome k.key = 3 then { k with key := k.key - old + lo } else k),
          chans := y.chans.map (fun c => { c with xfers := c.xfers.map (fun t => { t with plan := [], next := 0 }) }),
          ident := { x.ident with quad := q, core := coreOf b i, slot := t.slotFor q b i, abase := abase }, offer := none,
          status := if x.parkSlot.isSome then .parked else if halt then .halted else .running })) { s2 with crewSeq := s2.crewSeq + 1 }
    -- the arrivals of a strand that has ended are the crew's, and move with it (R286)
    let s3 := s3.mapStrands (fun x =>
      if x.ident.crew = c ∧ x.status = .retired then { x with ident := { x.ident with quad := q, core := coreOf b x.ident.strid } } else x)
    let all := (s3.crewStrands c).map (·.uid)
    let s4 := all.foldl (fun (t : State) u => (t.modStrand u Strand.moveRecs).rejoin u wideBar) s3
    all.foldl (fun (t : State) u => t.rejoin u (fun b => !wideBar b)) (s4.joinCkpts c)

end Sys2Proof.Machine
end

