-- ==== Sys2Proof/Machine/Integer.lean ====
section
/-! DEFINITION. Integer arithmetic, immediates, transfers of control, hardware loops and MODE (R94 to R105, R116, R117). -/

namespace Sys2Proof.Machine

/-- A form that reads sa and sb and writes sd. -/
def alu2 (d a b : Reg) (f : Word → Word → Word) : M Done := do
  let x ← rd a
  let y ← rd b
  ready d
  wr d (f x y)
  pure .adv

/-- A form that reads sa and writes sd. -/
def alu1 (d a : Reg) (f : Word → Word) : M Done := do
  let x ← rd a
  ready d
  wr d (f x)
  pure .adv

/-- The 6 bits of a shift amount (R94). -/
def shAmt (b : Word) : Nat := b.toNat % 64

/-- mulh (R94). -/
def mulHigh (a b : Word) : Word := BitVec.ofInt 64 (a.toInt * b.toInt / 2 ^ 64)
/-- mulhu (R94). -/
def mulHighU (a b : Word) : Word := w64 (a.toNat * b.toNat / 2 ^ 64)
/-- div, with R95's corners. -/
def divS (a b : Word) : Word := if b = 0 then BitVec.allOnes 64 else BitVec.ofInt 64 (a.toInt.tdiv b.toInt)
/-- divu, with R95's corner. -/
def divU (a b : Word) : Word := if b = 0 then BitVec.allOnes 64 else w64 (a.toNat / b.toNat)
/-- rem, with R95's corners. -/
def remS (a b : Word) : Word := if b = 0 then a else BitVec.ofInt 64 (a.toInt.tmod b.toInt)
/-- remu, with R95's corner. -/
def remU (a b : Word) : Word := if b = 0 then a else w64 (a.toNat % b.toNat)
/-- rol (R94). -/
def rolW (a b : Word) : Word := a.rotateLeft (shAmt b)
/-- The lesser or greater of two words (R94). -/
def minS (a b : Word) : Word := if a.toInt < b.toInt then a else b
def maxS (a b : Word) : Word := if a.toInt < b.toInt then b else a
def minU (a b : Word) : Word := if a.toNat < b.toNat then a else b
def maxU (a b : Word) : Word := if a.toNat < b.toNat then b else a
/-- clz: 64 when a = 0 (R94). -/
def clzW (a : Word) : Word := w64 (64 - bitLen a.toNat)
/-- The trailing zero bits of a, counted up to n. -/
def ctzGo (a : Word) : Nat → Nat → Nat
  | 0, k => k
  | n + 1, k => if a.getLsbD k then k else ctzGo a n (k + 1)
/-- ctz: 64 when a = 0 (R94). -/
def ctzW (a : Word) : Word := w64 (ctzGo a 64 0)
/-- popc (R94). -/
def popcW (a : Word) : Word := w64 ((List.range 64).countP (fun i => a.getLsbD i))
/-- sext at width code w: 8, 16 or 32 bits (R94). -/
def sextW (w : Reg) (a : Word) : Word :=
  match w.toNat with
  | 0 => (a.truncate 8).signExtend 64
  | 1 => (a.truncate 16).signExtend 64
  | _ => (a.truncate 32).signExtend 64
/-- zext at width code w (R94). -/
def zextW (w : Reg) (a : Word) : Word :=
  match w.toNat with
  | 0 => (a.truncate 8).zeroExtend 64
  | 1 => (a.truncate 16).zeroExtend 64
  | _ => (a.truncate 32).zeroExtend 64

def mIaAdd (d a b : Reg) : M Done := alu2 d a b (fun x y => x + y)
def execIaAdd (d a b : Reg) := finish (mIaAdd d a b)
def mIaSub (d a b : Reg) : M Done := alu2 d a b (fun x y => x - y)
def execIaSub (d a b : Reg) := finish (mIaSub d a b)
def mIaMul (d a b : Reg) : M Done := alu2 d a b (fun x y => x * y)
def execIaMul (d a b : Reg) := finish (mIaMul d a b)
def mIaMulh (d a b : Reg) : M Done := alu2 d a b mulHigh
def execIaMulh (d a b : Reg) := finish (mIaMulh d a b)
def mIaMulhu (d a b : Reg) : M Done := alu2 d a b mulHighU
def execIaMulhu (d a b : Reg) := finish (mIaMulhu d a b)
def mIaDiv (d a b : Reg) : M Done := alu2 d a b divS
def execIaDiv (d a b : Reg) := finish (mIaDiv d a b)
def mIaDivu (d a b : Reg) : M Done := alu2 d a b divU
def execIaDivu (d a b : Reg) := finish (mIaDivu d a b)
def mIaRem (d a b : Reg) : M Done := alu2 d a b remS
def execIaRem (d a b : Reg) := finish (mIaRem d a b)
def mIaRemu (d a b : Reg) : M Done := alu2 d a b remU
def execIaRemu (d a b : Reg) := finish (mIaRemu d a b)
def mIaAnd (d a b : Reg) : M Done := alu2 d a b (fun x y => x &&& y)
def execIaAnd (d a b : Reg) := finish (mIaAnd d a b)
def mIaOr (d a b : Reg) : M Done := alu2 d a b (fun x y => x ||| y)
def execIaOr (d a b : Reg) := finish (mIaOr d a b)
def mIaXor (d a b : Reg) : M Done := alu2 d a b (fun x y => x ^^^ y)
def execIaXor (d a b : Reg) := finish (mIaXor d a b)
def mIaAndn (d a b : Reg) : M Done := alu2 d a b (fun x y => x &&& ~~~y)
def execIaAndn (d a b : Reg) := finish (mIaAndn d a b)
def mIaShl (d a b : Reg) : M Done := alu2 d a b (fun x y => x <<< shAmt y)
def execIaShl (d a b : Reg) := finish (mIaShl d a b)
def mIaShr (d a b : Reg) : M Done := alu2 d a b (fun x y => x >>> shAmt y)
def execIaShr (d a b : Reg) := finish (mIaShr d a b)
def mIaSra (d a b : Reg) : M Done := alu2 d a b (fun x y => x.sshiftRight (shAmt y))
def execIaSra (d a b : Reg) := finish (mIaSra d a b)
def mIaRol (d a b : Reg) : M Done := alu2 d a b rolW
def execIaRol (d a b : Reg) := finish (mIaRol d a b)
def mIaSlt (d a b : Reg) : M Done := alu2 d a b (fun x y => wBool (decide (x.toInt < y.toInt)))
def execIaSlt (d a b : Reg) := finish (mIaSlt d a b)
def mIaSltu (d a b : Reg) : M Done := alu2 d a b (fun x y => wBool (decide (x.toNat < y.toNat)))
def execIaSltu (d a b : Reg) := finish (mIaSltu d a b)
def mIaMin (d a b : Reg) : M Done := alu2 d a b minS
def execIaMin (d a b : Reg) := finish (mIaMin d a b)
def mIaMax (d a b : Reg) : M Done := alu2 d a b maxS
def execIaMax (d a b : Reg) := finish (mIaMax d a b)
def mIaMinu (d a b : Reg) : M Done := alu2 d a b minU
def execIaMinu (d a b : Reg) := finish (mIaMinu d a b)
def mIaMaxu (d a b : Reg) : M Done := alu2 d a b maxU
def execIaMaxu (d a b : Reg) := finish (mIaMaxu d a b)
def mIaClz (d a : Reg) : M Done := alu1 d a clzW
def execIaClz (d a : Reg) := finish (mIaClz d a)
def mIaCtz (d a : Reg) : M Done := alu1 d a ctzW
def execIaCtz (d a : Reg) := finish (mIaCtz d a)
def mIaPopc (d a : Reg) : M Done := alu1 d a popcW
def execIaPopc (d a : Reg) := finish (mIaPopc d a)
def mIaSext (d a w : Reg) : M Done := alu1 d a (sextW w)
def execIaSext (d a w : Reg) := finish (mIaSext d a w)
def mIaZext (d a w : Reg) : M Done := alu1 d a (zextW w)
def execIaZext (d a w : Reg) := finish (mIaZext d a w)

/-! ### Immediates (R96, R97) -/

def mIiAdd (d a : Reg) (i : BitVec 12) : M Done := alu1 d a (fun x => x + i.signExtend 64)
def execIiAdd (d a : Reg) (i : BitVec 12) := finish (mIiAdd d a i)
def mIiAnd (d a : Reg) (i : BitVec 12) : M Done := alu1 d a (fun x => x &&& i.signExtend 64)
def execIiAnd (d a : Reg) (i : BitVec 12) := finish (mIiAnd d a i)
def mIiOr (d a : Reg) (i : BitVec 12) : M Done := alu1 d a (fun x => x ||| i.signExtend 64)
def execIiOr (d a : Reg) (i : BitVec 12) := finish (mIiOr d a i)
def mIiXor (d a : Reg) (i : BitVec 12) : M Done := alu1 d a (fun x => x ^^^ i.signExtend 64)
def execIiXor (d a : Reg) (i : BitVec 12) := finish (mIiXor d a i)
def mIiSlt (d a : Reg) (i : BitVec 12) : M Done :=
  alu1 d a (fun x => wBool (decide (x.toInt < (i.signExtend 64).toInt)))
def execIiSlt (d a : Reg) (i : BitVec 12) := finish (mIiSlt d a i)
def mIiSltu (d a : Reg) (i : BitVec 12) : M Done :=
  alu1 d a (fun x => wBool (decide (x.toNat < (i.signExtend 64).toNat)))
def execIiSltu (d a : Reg) (i : BitVec 12) := finish (mIiSltu d a i)
def mIiShl (d a : Reg) (h : BitVec 6) : M Done := alu1 d a (fun x => x <<< h.toNat)
def execIiShl (d a : Reg) (h : BitVec 6) := finish (mIiShl d a h)
def mIiShr (d a : Reg) (h : BitVec 6) : M Done := alu1 d a (fun x => x >>> h.toNat)
def execIiShr (d a : Reg) (h : BitVec 6) := finish (mIiShr d a h)
def mIiSra (d a : Reg) (h : BitVec 6) : M Done := alu1 d a (fun x => x.sshiftRight h.toNat)
def execIiSra (d a : Reg) (h : BitVec 6) := finish (mIiSra d a h)

/-- sext(IMM20, 20) × 4,096 (R97). -/
def upper (i : BitVec 20) : Word := (i.signExtend 64) <<< 12

/-- `lu.hi` (R97). -/
def mLuHi (d : Reg) (i : BitVec 20) : M Done := do
  ready d
  wr d (upper i)
  pure .adv
def execLuHi (d : Reg) (i : BitVec 20) := finish (mLuHi d i)

/-- `la.pc` (R97). -/
def execLaPc (d : Reg) (i : BitVec 20) := finish (do
  let c ← sc
  ready d
  wr d (c.pc + upper i)
  pure .adv)

/-! ### Transfers of control (R98 to R101) -/

/-- A branch: taken to PC + 4 × sext(OFF12, 12) when the condition holds (R98). -/
def branch (a b : Reg) (o : BitVec 12) (p : Word → Word → Bool) : M Done := do
  let x ← rd a
  let y ← rd b
  let c ← sc
  pure (if p x y then .jump (c.pc + (o.signExtend 64 <<< 2)) else .adv)

def mBrEq (a b : Reg) (o : BitVec 12) : M Done := branch a b o (fun x y => decide (x = y))
def execBrEq (a b : Reg) (o : BitVec 12) := finish (mBrEq a b o)
def mBrNe (a b : Reg) (o : BitVec 12) : M Done := branch a b o (fun x y => decide (x ≠ y))
def execBrNe (a b : Reg) (o : BitVec 12) := finish (mBrNe a b o)
def mBrLt (a b : Reg) (o : BitVec 12) : M Done :=
  branch a b o (fun x y => decide (x.toInt < y.toInt))
def execBrLt (a b : Reg) (o : BitVec 12) := finish (mBrLt a b o)
def mBrGe (a b : Reg) (o : BitVec 12) : M Done :=
  branch a b o (fun x y => decide (y.toInt ≤ x.toInt))
def execBrGe (a b : Reg) (o : BitVec 12) := finish (mBrGe a b o)
def mBrLtu (a b : Reg) (o : BitVec 12) : M Done :=
  branch a b o (fun x y => decide (x.toNat < y.toNat))
def execBrLtu (a b : Reg) (o : BitVec 12) := finish (mBrLtu a b o)
def mBrGeu (a b : Reg) (o : BitVec 12) : M Done :=
  branch a b o (fun x y => decide (y.toNat ≤ x.toNat))
def execBrGeu (a b : Reg) (o : BitVec 12) := finish (mBrGeu a b o)

/-- `jl` (R99). -/
def execJl (o : BitVec 25) := finish (do
  let c ← sc
  ready 1
  wr 1 (c.pc + 4)
  pure (.jump (c.pc + (o.signExtend 64 <<< 2))))

/-- `jr` (R100): sa is read before sd is written. -/
def execJr (d a : Reg) (i : BitVec 15) := finish (do
  let x ← rv a
  let c ← sc
  let t := x + i.signExtend 64
  if t &&& 3 ≠ 0 then raise cMISALIGN t
  else
    sound [a]
    ready d
    wr d (c.pc + 4)
    pure (.jump t))

/-! ### Hardware loops (R102, R103) -/

/-- LENDk for a body of `l` words after the `lp` at `pc` (R102). -/
def loopEndOf (pc : Word) (l : BitVec 12) : LoopEnd :=
  ⟨l, (((pc + 4 * l.zeroExtend 64) >>> 2).truncate 46)⟩

/-- `lp` (R102): `k` chooses loop 1. -/
def loopStart (i : Instr) (k : Bool) (a : Reg) (l : BitVec 12) : M Done := do
  let c ← sc
  if c.tnest ≠ 0 then wordIllegal i
  else
    let n ← rd a
    if n = 0 then
      modSc (fun c => if k then { c with lcnt1 := 0 } else { c with lcnt0 := 0 })
      pure (.jump (c.pc + 4 * (l.zeroExtend 64 + 1)))
    else
      modSc (fun c =>
        if k then { c with lcnt1 := n, lend1 := loopEndOf c.pc l } else { c with lcnt0 := n, lend0 := loopEndOf c.pc l })
      pure .adv

def execLpL0 (a : Reg) (l : BitVec 12) := finish (loopStart (.lpL0 a l) false a l)
def execLpL1 (a : Reg) (l : BitVec 12) := finish (loopStart (.lpL1 a l) true a l)

/-! ### MODE (R28, R43, R116, R117) -/

/-- Replaces bits 24-0 of MODE (R43). -/
def Scalar.setMode (c : Scalar) (v : BitVec 25) : Scalar := { c with mode := v }

/-- `md.set` (R116). -/
def execMdSet (i : BitVec 24) := finish (do
  modSc (fun c => c.setMode (i.zeroExtend 25))
  pure .adv)

/-- `mr.put` (R28, R117): a nonzero bit above 23 raises ILLEGAL, and MODE is unchanged. -/
def execMrPut (a : Reg) := finish (do
  let v ← rv a
  if v >>> 24 ≠ 0 then wordIllegal (.mrPut a)
  else
    sound [a]
    modSc (fun c => c.setMode (v.truncate 25))
    pure .adv)

/-- `mr.get` (R117). -/
def execMrGet (d : Reg) := finish (do
  let c ← sc
  ready d
  wr d (c.mode.zeroExtend 64)
  pure .adv)

end Sys2Proof.Machine
end

