-- ==== Sys2Proof/Machine/System.lean ====
section
/-! DEFINITION. The `sy` and `brk` forms: special registers, traps by instruction, fences, the timer, the end of a strand,
the yield, interrupts, and the privileged forms (R47, R48, R93, R103, R119 to R126, R137, R140, R155, R194, R251, R263,
R269, R390 to R392, R399, R402, R403, R406 to R408, R415, R435). -/

namespace Sys2Proof.Machine

/-! ### What the special registers read as (R47) -/

/-- STS (R93). -/
def Scalar.sts (c : Scalar) : Word :=
  w64 (c.fpen.toNat * 2 ^ 16 + c.tnest.toNat * 2 ^ 10 + c.prv.toNat * 2 ^ 8 + c.rolled.toNat * 8 + c.vlcut.toNat * 4 +
    c.nr.toNat * 2 + c.prot.toNat)

/-- LEND (R103). -/
def LoopEnd.word (l : LoopEnd) : Word := w64 (l.len.toNat * 2 ^ 48 + l.stop.toNat * 4)

/-- CBSTAT (R376). -/
def State.cbstat (s : State) : Word :=
  w64 (s.quad.d.cbs.foldl (fun n c =>
    if c.owner = s.cur.ident.crew ∧ c.idx < 8 then n + (128 + c.filled) * 2 ^ (8 * c.idx) else n) 0)

/-- The special registers a user strand reaches, by index (R47). -/
def State.userRegs (s : State) : List (Nat × Word) :=
  let c := s.cur.sc
  let i := s.cur.ident
  [(0x000, c.sts), (0x001, c.mode.zeroExtend 64), (0x002, c.flags.zeroExtend 64), (0x003, c.seed), (0x004, w64 s.cur.vlg),
   (0x005, w64 c.vlc), (0x008, c.epc), (0x009, c.ecause.zeroExtend 64), (0x00A, c.eval), (0x00B, c.einfo),
   (0x00C, s.cur.rstix.zeroExtend 64), (0x00D, c.turnprg.zeroExtend 64), (0x00E, c.trbase),
   (0x00F, c.esave.zeroExtend 64), (0x010, c.lcnt0), (0x011, c.lend0.word), (0x012, c.lcnt1), (0x013, c.lend1.word),
   (0x020, w64 i.strid), (0x021, w64 i.crewX), (0x022, w64 i.crewY), (0x023, w64 i.crewZ), (0x024, w64 i.ncrewX),
   (0x025, w64 i.ncrewY), (0x026, w64 i.ncrewZ), (0x027, w64 i.nstr), (0x028, w64 i.coreid), (0x029, w64 i.quad),
   (0x02A, w64 (dieOf i.quad)), (0x02B, w64 i.devid), (0x02C, i.lparam)] ++
  [(0x040, w64 (s.cur.chan 0).cpdone), (0x041, w64 (s.cur.chan 1).cpdone), (0x042, w64 (s.cur.chan 2).cpdone),
   (0x043, w64 (s.cur.chan 3).cpdone), (0x048, s.cbstat), (0x050, c.scopelog), (0x051, w64 (c.scopectl.toNat * 2)),
   (0x060, c.retHit), (0x061, c.retMiss), (0x062, c.retOvf), (0x063, c.l2Hit), (0x064, c.l2Miss), (0x070, w64 i.mirgrp),
   (0x080, c.tshape)]

/-- The privileged special registers of the strand's partition (R381, R399, R251, R267). -/
def State.privRegs (s : State) : List (Nat × Word) :=
  match s.part? s.cur.ident.part with
  | some p =>
    [(0x100, w64 (p.ptroot.toNat * 2 ^ 12)), (0x101, p.asid.zeroExtend 64),
     (0x102, w64 (p.fqbase.toNat * 2 ^ 12 + p.fqsize.toNat)), (0x103, p.fqhead.zeroExtend 64),
     (0x104, p.fqtail.zeroExtend 64), (0x105, w64 s.cur.ident.part), (0x106, w64 p.pthresh)]
  | none => [(0x100, 0), (0x101, 0), (0x102, 0), (0x103, 0), (0x104, 0), (0x105, w64 s.cur.ident.part), (0x106, 0)]

/-- The special register of an index. -/
def State.specReg (s : State) (x : Nat) : Option Word :=
  ((s.userRegs ++ s.privRegs).find? (fun r => r.1 == x)).map (·.2)

/-- The checks of R48 on an index that is read, or written when `w` is set. -/
def checkSpec (i : Instr) (x : Nat) (w : Bool) : M Unit := do
  let s ← get
  let rw := [0x000, 0x001, 0x002, 0x003, 0x008, 0x009, 0x00A, 0x00B, 0x00C, 0x00D, 0x00E, 0x00F, 0x010, 0x011, 0x012,
    0x013, 0x051, 0x060, 0x061, 0x062, 0x063, 0x064, 0x080, 0x100, 0x101, 0x102, 0x104, 0x106]
  if 0x200 ≤ x then wordIllegal i
  else if 0x100 ≤ x && !s.cur.sc.prv then wordPriv i
  else if (s.specReg x).isNone then wordIllegal i
  else if w && !rw.contains x then wordIllegal i
  else pure ()

/-- Registers that stream instructions read or write: an access to one waits (R120). -/
def streamRegs : List Nat := [0x002, 0x003, 0x005, 0x00C, 0x080]

/-! ### Writing them -/

/-- A write of STS: FPEN is replaced, and a 1 clears ROLLED, VLCUT and NR (R93). -/
def Scalar.writeSts (c : Scalar) (v : Word) : Scalar :=
  { c with fpen := (v >>> 16).truncate 5, rolled := c.rolled && !bitOf v 3, vlcut := c.vlcut && !bitOf v 2,
           nr := c.nr && !bitOf v 1 }

/-- A write of FLAGS replaces bits 5-0 (R120). -/
def Scalar.writeFlags (c : Scalar) (v : Word) : Scalar := { c with flags := v.truncate 6 }

/-- A write of SEED; 0 stores the constant (R137). -/
def Scalar.writeSeed (c : Scalar) (v : Word) : Scalar := { c with seed := if v = 0 then seedConst else v }

/-- LEND of a written value; LEN = 0 stores 1 (R103). -/
def lendOf (v : Word) : LoopEnd :=
  let n : BitVec 12 := (v >>> 48).truncate 12
  ⟨if n = 0 then 1 else n, (v >>> 2).truncate 46⟩

/-- A write of LEND0 or LEND1 (R103). -/
def Scalar.writeLend (c : Scalar) (k : Bool) (v : Word) : Scalar :=
  if k then { c with lend1 := lendOf v } else { c with lend0 := lendOf v }

/-- A write of ECAUSE stores bits 7-0 (R392). -/
def Scalar.writeEcause (c : Scalar) (v : Word) : Scalar := { c with ecause := v.truncate 8 }

/-- A value that MODE takes (R43): bits 63-24 are zero. -/
def modeOk (v : Word) : Bool := v >>> 24 == 0

/-- A write of MODE (R43). -/
def Scalar.writeMode (c : Scalar) (v : Word) : Scalar := if modeOk v then c.setMode (v.truncate 25) else c

/-- A value that TSHAPE takes (R194). -/
def tshapeOk (prot : Bool) (v : Word) : Bool :=
  let m := bitsOf v 6 0
  let n := bitsOf v 14 8
  bitsOf v 63 17 == 0 && !bitOf v 15 && !bitOf v 7 && decide (1 ≤ m) && decide (m ≤ if prot then 32 else 64) &&
    decide (1 ≤ n) && decide (n ≤ 64)

/-- A write of TSHAPE; a value it does not take leaves it unchanged (R194). -/
def Scalar.writeTshape (c : Scalar) (v : Word) : Scalar := if tshapeOk c.prot v then { c with tshape := v } else c

/-- The two low bits of an address cleared (R392). -/
def alignWord (v : Word) : Word := v &&& ~~~3

/-- A write of FQTAIL; one that would leave more than E entries stores HEAD (R399). -/
def Part.writeFqtail (p : Part) (v : Word) : Part :=
  let t : BitVec 32 := v.truncate 32
  { p with fqtail := if p.fqEntries < (p.fqhead - t).toNat then p.fqhead else t }

/-- A write of a scalar special register that takes every value. -/
def Scalar.writeSpec (c : Scalar) (x : Nat) (v : Word) : Scalar :=
  if x = 0x000 then c.writeSts v
  else if x = 0x001 then c.writeMode v
  else if x = 0x002 then c.writeFlags v
  else if x = 0x003 then c.writeSeed v
  else if x = 0x008 then { c with epc := alignWord v }
  else if x = 0x009 then c.writeEcause v
  else if x = 0x00A then { c with eval := v }
  else if x = 0x00B then { c with einfo := v }
  else if x = 0x00D then { c with turnprg := v.truncate 33 }
  else if x = 0x00E then { c with trbase := alignWord v }
  else if x = 0x00F then { c with esave := v.truncate 24 }
  else if x = 0x010 then { c with lcnt0 := v }
  else if x = 0x011 then c.writeLend false v
  else if x = 0x012 then { c with lcnt1 := v }
  else if x = 0x013 then c.writeLend true v
  else if x = 0x051 then { c with scopectl := (v >>> 1).truncate 5 }
  else if x = 0x060 then { c with retHit := v }
  else if x = 0x061 then { c with retMiss := v }
  else if x = 0x062 then { c with retOvf := v }
  else if x = 0x063 then { c with l2Hit := v }
  else if x = 0x064 then { c with l2Miss := v }
  else if x = 0x080 then c.writeTshape v
  else c

/-- A write of a privileged register of a partition (R267, R381, R399). -/
def Part.writeSpec (p : Part) (x : Nat) (v : Word) : Part :=
  if x = 0x100 then { p with ptroot := (v >>> 12).truncate 40 }
  else if x = 0x101 then { p with asid := v.truncate 16 }
  else if x = 0x102 then
    { p with fqbase := (v >>> 12).truncate 40, fqsize := if 11 < bitsOf v 3 0 then 11 else v.truncate 4 }
  else if x = 0x104 then p.writeFqtail v
  else if x = 0x106 then { p with pthresh := bitsOf v 5 0 }
  else p

/-- An older instruction may still be charged with a scope mismatch: an `at` that the strand has passed, or a queued `vat` (R349). -/
def State.mayCharge (s : State) : Bool := s.isAhead s.cur.uid || s.cur.vq.any (fun e => (vatRegs e.instr).isSome)

/-- `sy.rd` (R48, R120). A read of SCOPELOG includes what older instructions are charged with (R349); it waits for nothing else. -/
def execSyRd (d : Reg) (x : BitVec 10) := finish (do
  checkSpec (.syRd d x) x.toNat false
  if streamRegs.contains x.toNat then drained else pure ()
  let u ← get
  if x.toNat = 0x050 && u.mayCharge then block else pure ()
  ready d
  let s ← get
  wr d ((s.specReg x.toNat).getD 0)
  pure .adv)

/-- `sy.wr` (R48, R120): the value is checked where its register gives a check (R43, R194). -/
def execSyWr (a : Reg) (x : BitVec 10) := finish (do
  checkSpec (.syWr a x) x.toNat true
  if streamRegs.contains x.toNat then drained else pure ()
  let v ← rv a
  let c ← sc
  if x = 0x001 && !modeOk v then wordIllegal (.syWr a x)
  else if x = 0x080 && !tshapeOk c.prot v then raise cBOUNDS v
  else
    sound [a]
    if x = 0x00C then modCur (fun y => { y with rstix := v.truncate 16 })
    else if 0x100 ≤ x.toNat then
      drained
      modify (fun s => s.modPart s.cur.ident.part (fun p => p.writeSpec x.toNat v))
    else modSc (fun c => c.writeSpec x.toNat v)
    pure .adv)

/-! ### The writes as steps of their own -/

def execModeWrite (v : Word) := event (fun s => s.modSc (fun c => c.writeMode v))
def execStsWrite (v : Word) := event (fun s => s.modSc (fun c => c.writeSts v))
def execFlagsWrite (v : Word) := event (fun s => s.modSc (fun c => c.writeFlags v))
def execSeedWrite (v : Word) := event (fun s => s.modSc (fun c => c.writeSeed v))
def execLendWrite (k : Bool) (v : Word) := event (fun s => s.modSc (fun c => c.writeLend k v))
def execEcauseWrite (v : Word) := event (fun s => s.modSc (fun c => c.writeEcause v))
def execTshapeWrite (v : Word) := event (fun s => s.modSc (fun c => c.writeTshape v))
def execFqtailWrite (v : Word) := event (fun s => s.modPart s.cur.ident.part (fun p => p.writeFqtail v))

/-! ### Traps by instruction and the return (R121, R122, R126, R18) -/

/-- `sy.trap` (R121). -/
def execSyTrap (c : BitVec 10) := finish (raise cSW_TRAP (c.zeroExtend 64))

/-- `brk` (R30, R126). DESIGN CHOICE (log 33): for the all-ones word R18 says that EVAL receives the word, R30 and R49 that BREAK's EVAL
is the code; EVAL is the code here. -/
def execBrk (c : BitVec 25) := finish (raise cBREAK (c.zeroExtend 64))

/-- A word that is no instruction (R14, R15, R18). -/
def execIllegalWord (w : IWord) := finish (raise cILLEGAL (w.zeroExtend 64))

/-- `sy.eret` (R122). -/
def execSyEret := finish (do
  let c ← sc
  if c.tnest = 0 then wordIllegal .syEret
  else
    modSc Scalar.leave
    pure (.goto c.epc))

/-! ### Fences and the timer (R123, R124, R415) -/

/-- A kind whose request is performed only beyond the quad (R415). -/
def EffKind.beyond (k : EffKind) : Bool :=
  match k with
  | .atomic _ | .cpGo _ _ | .lnGo _ _ | .acq _ _ | .rel _ _ | .lock _ _ | .unlock _ => true
  | _ => false

/-- Waits until no strip of an older `vb.ld` is on its way (R123, R155, R186). -/
def noFilling : M Unit := do
  let s ← get
  match s.cur.ring with
  | some r => if r.due.any (fun t => decide (t.seq ≤ s.cur.at_)) then block else pure ()
  | none => pure ()

/-- Waits while an older queued instruction of the vector stream chosen by `v`, or, with `m`, of the matrix stream has not completed,
or an effect chosen by `out` has not been performed beyond the quad (R123, R415). -/
def awaitOlder (v : Instr → Bool) (m : Instr → Bool) (out : EffKind → Bool) : M Unit := do
  let s ← get
  let older (e : Entry) := s.cur.inStream == 0 || decide (e.seq < s.cur.at_)
  if s.cur.vq.any (fun e => older e && v e.instr) || s.cur.mq.any (fun e => older e && m e.instr) || s.pendingEff s.cur.uid out then block else pure ()

/-- Waits until every older memory access of the strand has been performed (R223, R236, R302, R313). -/
def performed : M Unit := do
  behindAt
  awaitOlder touchesMem loadsMem (fun _ => false)
  noFilling

/-- A fence whose younger operations are only some: it is recorded, and they wait for what it names (R123). -/
def noteFence (kind : Nat) : M Unit := modCur (fun x =>
  if x.vq.isEmpty && x.mq.isEmpty && x.strips.isEmpty then { x with fences := [] }
  else { x with fences := (kind, x.seqNo) :: x.fences.filter (fun f =>
    x.vq.any (fun e => decide (e.seq < f.2)) || x.mq.any (fun e => decide (e.seq < f.2)) || x.strips.any (fun t => decide (t.seq ≤ f.2))) })

/-- An effect whose performance a fence over memory accesses and engine launches waits for (R123, R415). -/
def EffKind.access (k : EffKind) : Bool :=
  match k with
  | .atomic _ | .cpGo _ _ => true
  | _ => false

/-- `sy.fence.all`: memory accesses, engine launches and matrix operations before anything (R123, R415). -/
def execSyFenceAll := finish (do
  awaitOlder touchesMem (fun _ => true) EffKind.beyond
  noFilling
  pure .adv)
/-- `sy.fence.ld`: loads before loads and stores. -/
def execSyFenceLd := finish (do
  noteFence 1
  pure .adv)
/-- `sy.fence.st`: stores before stores. -/
def execSyFenceSt := finish (do
  noteFence 2
  pure .adv)
/-- `sy.fence.vec`: the vector stream before any instruction. -/
def execSyFenceVec := finish (do
  awaitOlder (fun _ => true) (fun _ => false) (fun _ => false)
  pure .adv)
/-- `sy.fence.eng`: memory accesses, `cp.go` among them (R360), before engine transfers. -/
def execSyFenceEng := finish (do
  let s ← get
  if s.pendingEff s.cur.uid EffKind.access then block
  else
    noteFence 4
    pure .adv)
/-- `sy.fence.mat`: the matrix stream before any instruction. -/
def execSyFenceMat := finish (do
  awaitOlder (fun _ => false) (fun _ => true) (fun _ => false)
  pure .adv)

/-- Waits for the older operations of an engine fence (R123): for `cp.go`, `tn.tld` and `tn.tst`. -/
def unfencedEngine : M Unit := do
  let s ← get
  if s.cur.fenced false false true then block else pure ()

/-- `sy.time` (R124). -/
def execSyTime (d : Reg) := finish (do
  ready d
  let s ← get
  wr d (w64 s.timer)
  pure .adv)

/-! ### The end of a strand and the yield (R155, R263, R269) -/

/-- The level of the launch's completion: HOME, or SYSTEM with SYSREL (R253). -/
def State.completionScope (s : State) : Nat :=
  match s.crewOf s.cur.ident.crew with
  | some c => match s.launchOf c.launch with | some l => if l.sysrel then 5 else 4 | none => 4
  | none => 4

/-- `sy.end` (R263). -/
def execSyEnd := finish (do
  drained
  noFilling
  let s ← get
  if s.cur.chans.any (fun c => !c.xfers.isEmpty) then block
  else
    release s.completionScope
    let t ← get
    if t.cur.handed.isNone && t.busyOut t.cur.uid then block
    else
      let _ ← outward (.retire true) (fun st => (st.retireStrand st.cur.uid true, []))
      pure .stay)

/-- A grant that the scheduler may give strand x at a yield (R153, R269). -/
def State.grantOk (s : State) (x : Strand) (n : Nat) : Bool :=
  let lim := match s.crewOf x.ident.crew with
    | some c => match s.launchOf c.launch with
      | some l => decide (vlMin' l.vlmin ≤ n) && decide (n ≤ vlDes' l.vlmin l.vldes l.prot)
      | none => true
    | none => true
  lim && n % 32 == 0 && decide (32 ≤ n) && decide (n ≤ if x.sc.prot then 256 else 512) &&
    decide (n ≤ s.freeVec x.ident.quad x.ident.core + x.vlg)

/-- A mask bound to a transfer would lose a set bit (R368). -/
def Strand.cutsBound (x : Strand) (n : Nat) : Bool :=
  (List.range 8).any (fun m => x.bound m && decide (lowBits (x.mask m) n ≠ x.mask m))

/-! ### Interrupts to the host (R435) -/

/-- The numbers of a partition's vectors. -/
def State.vectors (s : State) : Nat × Nat :=
  match s.part? s.cur.ident.part with
  | some p => (p.vecbase, p.veccnt)
  | none => (0, 0)

/-- `sy.intr` (R435). -/
def execSyIntr (a : Reg) := finish (do
  let v ← rd a
  let s ← get
  if bitsOf v 63 11 ≠ 0 ∨ s.vectors.2 ≤ v.toNat then raise cBOUNDS v
  else
    drained
    performed
    release 5
    emit (.intr (s.vectors.1 + v.toNat)) (fun st => st.interrupt (s.vectors.1 + v.toNat))
    pure .adv)

/-! ### The privileged forms (R390) -/

/-- PRIV outside privileged state (R29). -/
def needPriv (i : Instr) : M Unit := do
  let c ← sc
  if c.prv then pure () else wordPriv i

/-- Ranges of virtual addresses and the memory keys behind them that `sy.tlbinv` covers (R391): (va, key, size). -/
def State.invRanges (s : State) (p : Nat) (all : Bool) (va : Nat) : List (Nat × Nat × Nat) :=
  let asid := match s.part? p with | some x => x.asid | none => 0
  let quads := s.quad :: s.quads
  let cached := quads.flatMap (fun q => (q.d.tlb.filter (fun t => t.asid == asid &&
    (all || (decide (t.va ≤ va) && decide (va < t.va + t.size))))).map (fun t =>
      (t.va, (pageOf t.leaf t.level t.va t.size t.dirty).key, t.size)))
  if all then cached
  else
    match s.walk p (w64 va) with
    | .leaf e level v size => (v, (pageOf e level v size false).key, size) :: cached
    | .none _ _ _ => cached

/-- The virtual addresses that `sy.tlbinv` covers: the whole partition, or one page and the ranges of its mappings. -/
def covers (all : Bool) (page : Nat) (rs : List (Nat × Nat × Nat)) (a : Nat) : Bool :=
  all || (decide (page ≤ a) && decide (a < page + 4096)) || rs.any (fun r => decide (r.1 ≤ a) && decide (a < r.1 + r.2.2))

/-- A memory key lies behind a covered range. -/
def keyIn (rs : List (Nat × Nat × Nat)) (k : Nat) : Bool :=
  rs.any (fun r => decide (r.2.1 ≤ k) && decide (k < r.2.1 + r.2.2))

/-- Turns home every pending grain, of every strand of the partition, that lies in the covered addresses (R391, R230);
where the strand's quad holds effects, the turn goes through its platform. -/
def State.turnCovered (s : State) (p : Nat) (cov : Nat → Bool) : State :=
  let xs := s.all.filter (fun x => x.ident.part == p)
  xs.foldl (fun (s : State) x =>
    (x.pend.filter (fun g => cov g.va)).foldl (fun (s : State) g =>
      match s.strand? x.uid with
      | none => s
      | some y =>
        s.turnAway y g .home) s) s

/-- A page of the tables below a level that maps a key: the pages of a partition's tables, by walking every entry that is valid. -/
def mapsKey (m : Memory) (k : Nat) : Nat → Nat → Nat → Bool
  | 0, _, _ => false
  | fuel + 1, table, level =>
    (List.range 512).any (fun i =>
      let e := w64 (leNat (memGetN m (table * 2 ^ 12 + 8 * i) 8))
      bitOf e 0 &&
      (if entIsPtr e then (!ptrBad e && level != 4 && mapsKey m k fuel (entPpn e) (level + 1))
       else
        let p := pageOf e level 0 (if bitOf e 9 then 2 ^ 16 else leafSize level) false
        decide (p.key ≤ k) && decide (k < p.key + p.size)))

/-- Drops the translations, copies, atomic lines and scope records of the covered ranges on the partition's quads (R391,
R296); for a whole partition the home's records of every page that it maps. -/
def State.dropCovered (s : State) (p : Nat) (all : Bool) (cov : Nat → Bool) (rs : List (Nat × Nat × Nat)) : State :=
  let asid := match s.part? p with | some x => x.asid | none => 0
  let qs := match s.part? p with | some x => x.quads | none => []
  let root := match s.part? p with | some x => x.ptroot.toNat | none => 0
  let hit (k : Nat) := all || keyIn rs k
  let s0 := (s.quad :: s.quads).foldl (fun (s : State) q => s.modQuad q.id (fun x => { x with d := { x.d with
    tlb := x.d.tlb.filter (fun t => !(t.asid == asid && (all || cov t.va || rs.any (fun r => r.1 == t.va)))) } })) s
  let s1 := qs.foldl (fun (s : State) q => s.modQuad q (fun x => { x with d := { x.d with
    copies := x.d.copies.filter (fun c => !hit c.key),
    atoms := x.d.atoms.filter (fun a => !hit a.key),
    recs := x.d.recs.filter (fun r => !hit r.key) } })) s0
  s1.noneRecs (fun r => keyIn rs r.key || (all && mapsKey s.mem r.key 4 root 1))

/-- What a strand of the partition has under way into the covered pages: effects on platforms and the fabric that reach memory, and
pieces of transfers that have been translated (R391). -/
def State.coveredOut (s : State) (p : Nat) : Bool :=
  s.all.any (fun x => x.ident.part == p &&
    (s.pendingEff x.uid (fun k =>
      match k with
      | .turn _ _ _ | .atomic _ | .lock _ _ | .unlock _ | .pub _ | .sub _ _ => true
      | _ => false) ||
     x.chans.any (fun c => c.xfers.any (fun t => !t.plan.isEmpty)) ||
     !x.strips.isEmpty)) ||
  s.pubRuns.any (fun r => (s.pubs.find? (fun k => k.id == r.pubid)).elim false (fun k => k.part == p))

/-- `sy.tlbinv` (R390, R391). -/
def execSyTlbinv (a : Reg) := finish (do
  needPriv (.syTlbinv a)
  let v ← rv a
  if bitsOf v 11 2 ≠ 0 ∨ 2 ≤ bitsOf v 1 0 then raise cBOUNDS v
  else
    sound [a]
    drained
    noFilling
    release 4
    let s ← get
    let p := s.cur.ident.part
    let all := decide (bitsOf v 1 0 = 1)
    let page := v.toNat / 4096 * 4096
    let rs := s.invRanges p all page
    set (s.turnCovered p (covers all page rs))
    let t ← get
    if t.coveredOut p then block
    else
      set ((t.dropCovered p all (covers all page rs) rs).endSubs p (covers all page rs))
      pure .adv)

/-- `sy.pgreq` (R403). -/
def execSyPgreq (a : Reg) := finish (do
  let v ← rd a
  drained
  let s ← get
  match s.part? s.cur.ident.part with
  | none => pure .adv
  | some p =>
    if p.fqbase = 0 || !canonical v || inWindow v then pure .adv
    else
      match s.walk p.id v with
      | .none _ false true =>
        if p.fqFull then block
        else
          set (s.fqFor p.id (fqEntry v 0 cPAGE_NP 13 2 0))
          pure .adv
      | _ => pure .adv)

/-- `sy.resume` (R390, R402): the slot of a parked strand whose SEQ matches is freed, and it joins the restart order. -/
def State.resume (s : State) (h : Word) : State :=
  let pid := s.cur.ident.part
  match s.part? pid with
  | none => s
  | some p =>
    match p.parked.find? (fun k => parkHandle k.seq k.slot == h) with
    | none => s
    | some k => s.modPart pid (fun x =>
        { x with parked := x.parked.filter (fun y => !(y.slot == k.slot)), restart := x.restart ++ [k.uid] })

def execSyResume (a : Reg) := finish (do
  needPriv (.syResume a)
  let v ← rd a
  drained
  performed
  release 4
  modify (fun s => s.resume v)
  pure .adv)

/-- The partition that a swap form names (R390): EVAL = s[A] for a nonzero reserved bit or the issuer's own partition, PRIV
from any partition but 0 for another one. -/
def swapPart (i : Instr) (v : Word) (mask : Word) : M Nat := do
  let s ← get
  let p := bitsOf v 3 0
  if s.cur.ident.part ≠ 0 ∧ p ≠ s.cur.ident.part then wordPriv i
  else if v &&& ~~~mask ≠ 0 then raise cBOUNDS v
  else if p = s.cur.ident.part then raise cBOUNDS v
  else pure p

/-- Every strand of a partition stops where it stands (R404); one in a joined reduction stops after it (R445). -/
def State.haltStrands (s : State) (p : Nat) : State :=
  s.mapStrands (fun x =>
    if x.ident.part = p ∧ x.status = .running ∧ !s.inReduction x then { x.atStop with status := .halted } else x)

/-- Halted strands issue again (R406). -/
def State.runStrands (s : State) (p : Nat) : State :=
  let stopping := (s.crews.filter (·.stopping)).map (·.id)
  s.mapStrands (fun x =>
    if x.ident.part = p ∧ x.status = .halted ∧ !stopping.contains x.ident.crew then { x with status := .running } else x)

/-- The strands of a partition on its quads. -/
def State.partStrands (s : State) (p : Nat) : List Strand :=
  s.all.filter (fun x => x.ident.part == p && (x.status == .running || x.status == .parked || x.status == .halted))

/-- Every strand of a partition has stopped and may be saved (R406). -/
def State.haltDone (s : State) (p : Nat) : Bool := (s.partStrands p).all (fun x => x.status != .running && s.saveReady x)

/-- `sy.halt` (R390, R406): with RUN = 0 it completes once every strand has stopped and may be saved. DESIGN CHOICE (log 81): with RUN = 1 for
a partition that is SAVED it does nothing, and the partition stays halted; the spec does not say. -/
def execSyHalt (a : Reg) := finish (do
  needPriv (.syHalt a)
  let v ← rv a
  let p ← swapPart (.syHalt a) v 0x10F
  sound [a]
  drained
  let s ← get
  if bitOf v 8 then
    match s.part? p with
    | some x =>
      if x.halted && !x.saved then
        set ((s.modPart p (fun x => { x with halted := false })).runStrands p)
        pure .adv
      else pure .adv
    | none => pure .adv
  else
    set ((s.modPart p (fun x => { x with halted := true })).haltStrands p)
    let t ← get
    if t.haltDone p then pure .adv else block)

/-- The crews of a partition on its quads. -/
def State.crewsOn (s : State) (p : Nat) : List Nat := (s.crews.filter (fun c => c.part == p && !c.depot)).map (·.id)

/-- Saves every crew of a halted partition, with its quads' barriers; what their depots held spills (R407). -/
def State.ctxSave (s : State) (p : Nat) : State :=
  let qs := match s.part? p with | some x => x.quads | none => []
  let s0 := qs.foldl State.spillDepot s
  let s1 := (s0.crewsOn p).foldl (fun (s : State) c => s.saveCrew c true) s0
  let s2 := qs.foldl (fun (s : State) q => s.modQuad q (fun x =>
    { x with kept := (p, x.d.bars) :: x.kept.filter (fun k => k.1 != p), d := { x.d with bars := [] }, ckpts := [] })) s1
  s2.modPart p (fun x => { x with saved := true })

/-- `sy.ctxsave` (R390, R407). A partition that is SAVED is still halted (R408), and has nothing on its quads: what their depots hold
spills. -/
def execSyCtxsave (a : Reg) := finish (do
  needPriv (.syCtxsave a)
  let v ← rv a
  let p ← swapPart (.syCtxsave a) v 0xF
  sound [a]
  drained
  let s ← get
  match s.part? p with
  | some x =>
    if x.saved then
      set ((x.quads.filter (fun q => (s.getQuad q).lentTo.isNone)).foldl State.spillDepot s)
      pure .adv
    else if x.halted && s.haltDone p then
      let t := (s.crewsOn p).foldl State.turnCrew s
      set t
      if (t.crewsOn p).all t.crewReady then
        set (t.ctxSave p)
        pure .adv
      else block
    else raiseAt cBOUNDS v 1 0
  | none => raiseAt cBOUNDS v 1 0)

/-- A saved crew whose quad its partition no longer holds waits in the spill area for the scheduler, which places it as any saved crew
(R250, R261). DESIGN CHOICE (log 88): the spec says where a crew goes only when its quad is still there. -/
def State.leaveToScheduler (s : State) (c : Crew) : State :=
  let s1 := if c.spilled then s else s.spillOut c
  s1.modCrew c.id (fun k => { k with swapped := false, spilled := true })

/-- Restores the crews that `sy.ctxsave` saved onto the quads they left, with the quads' barriers (R408). -/
def State.ctxRest (s : State) (p : Nat) : State :=
  let qs := match s.part? p with | some x => x.quads | none => []
  let bars (x : Quad) : List Barrier := ((x.kept.find? (fun k => k.1 == p)).map (·.2)).getD []
  let s0 := qs.foldl (fun (s : State) q => s.modQuad q (fun x => { x with d := { x.d with bars := bars x } })) s
  let s0 := ((s0.quad :: s0.quads).map (·.id)).foldl (fun (s : State) q => s.modQuad q (fun x =>
    { x with kept := x.kept.filter (fun k => k.1 != p) })) s0
  let cs := s0.crews.filter (fun c => c.part == p && c.depot && c.swapped)
  -- an offer is for the scheduler's restores (log 47)
  let s1 := s0.mapStrands (fun x => if cs.any (fun c => c.id == x.ident.crew) then { x with offer := none } else x)
  let s2 := cs.foldl (fun (s : State) c =>
    if !qs.contains c.quad then s.leaveToScheduler c
    else if (s.getQuad c.quad).keptBad then s.loseCrew c.id else s.restoreCrew c.id c.quad c.base true) s1
  (qs.foldl (fun (s : State) q => s.modQuad q (fun x => { x with keptBad := false })) s2).modPart p (fun x => { x with saved := false })

/-- `sy.ctxrest` (R390, R408, R476). -/
def execSyCtxrest (a : Reg) := finish (do
  needPriv (.syCtxrest a)
  let v ← rv a
  let p ← swapPart (.syCtxrest a) v 0xF
  sound [a]
  drained
  let s ← get
  match s.part? p with
  | some x =>
    if !x.saved then raiseAt cBOUNDS v 2 0
    else if (s.quad :: s.quads).any (fun q => q.part == some p && q.lentTo.isSome) then raiseAt cBOUNDS v 3 0
    else
      set (s.ctxRest p)
      pure .adv
  | none => raiseAt cBOUNDS v 2 0)

end Sys2Proof.Machine
end

