-- ==== Sys2Proof/Machine/Vector.lean ====
section
/-! DEFINITION. The vector unit's register forms: va, vm, vp and vl (R154 to R179). -/

namespace Sys2Proof.Machine

/-! ### Checks (R45, R159, R160, R184) -/

/-- A vector operand: its first register, the width of its elements, whether it is a destination, and whether a scale
register follows its group. -/
structure VOp where
  reg : Nat
  w   : Nat
  dst : Bool
  n4  : Bool
deriving DecidableEq, Repr

/-- The registers an operand spans, at least one: max(s, 1) with s = g × width / width(ETA) (R159). -/
def VOp.span (o : VOp) (g we : Nat) : Nat := max (g * o.w / we) 1

/-- The operand breaks a group rule of R159 or R160. -/
def VOp.bad (o : VOp) (g we : Nat) : Bool :=
  decide (8 * we < g * o.w) || o.reg % o.span g we != 0 || decide (32 < o.reg + o.span g we) ||
    (o.n4 && decide (32 ≤ o.reg + o.span g we))

/-- Registers n to n + k − 1 overlap the ring's buffers (R184). -/
def Ring.meets (r : Ring) (n k : Nat) : Bool := decide (n < r.f + r.c * r.g) && decide (r.f < n + k)

/-- The checks of R45, R159, R160 and R184 on the operands of an instruction whose ETA is `we` bits wide. -/
def vGroups (i : Instr) (we : Nat) (ops : List VOp) : M Unit := do
  let s ← get
  let x := s.cur
  let g := modeGRP x.sc.md
  if ops.any (fun o => o.bad g we) || decide (g * x.vlg * 32 < x.sc.vlc * we) then modeIllegal i 16
  else
    match x.ring with
    | some r =>
      if ops.any (fun o => o.dst && r.meets o.reg (o.span g we + if o.n4 then 1 else 0)) then wordIllegal i else pure ()
    | none => pure ()

/-- Waits while a source lies in a buffer that is FILLING (R184), by a strip load older than the instruction. -/
def waitSources (ns : List (Nat × Nat)) : M Unit := do
  let s ← get
  match s.cur.ring with
  | some r =>
    let filling := decide (r.seq ≤ s.cur.at_) && r.due.any (fun t => decide (t.seq ≤ s.cur.at_) &&
      ns.any (fun n => decide (n.1 < r.f + (t.buf + 1) * r.g) && decide (r.f + t.buf * r.g < n.1 + n.2)))
    if filling then block else pure ()
  | none => pure ()

/-- The guard names a mask whose bound transfers' bytes are acquired with its set bits (R369): the chunks' lines leave the
core's L1 and the quad inbound cache. -/
def acquireMask (m : Nat) : M Unit := do
  let s ← get
  let hits := s.cur.mlines.filter (fun l => l.mask == m && s.cur.maskBit m l.bit)
  modify (fun s => hits.foldl (fun s l => s.dropGrain l.key l.len true) s)

/-- Reads the guard (R162, R369). -/
def readGuard : M Unit := do
  let c ← sc
  if modeG c.md = 0 then pure () else acquireMask (modeG c.md)

/-- A mask destination bound to an incomplete transfer raises ILLEGAL (R368). -/
def freeMask (i : Instr) (m : Nat) : M Unit := do
  let s ← get
  if s.cur.bound m then wordIllegal i else pure ()

/-! ### Element loops (R162, R166, R396) -/

/-- Element e of an operand, or the register that is poisoned (R166). -/
def rdE (x : Strand) (n w e : Nat) : Except Nat Nat :=
  match x.eltPoison n w e with
  | some r => .error r
  | none => .ok (x.elt n w e)

/-- POISON of a vector register at element e (R166, R397). -/
def vPoison {α : Type} (r e : Nat) : M α := raiseAt cPOISON (w64 r) 1 e

/-- The guard bit of element e stands in a poisoned word (R397). -/
def Strand.guardPoison (x : Strand) (e : Nat) : Bool :=
  let g := modeG x.sc.md
  g != 0 && x.poison.any (fun k => k.kind == 2 && k.reg == g && k.word == e / 32)

/-- Applies a step to every element from RSTIX up, active or not: `act` for active ones, `idle` for the others below VLC. -/
def forElements (act : Strand → Nat → M Unit) (idle : Nat → M Unit) : M Unit := do
  readGuard
  let s ← get
  let x := s.cur
  (List.range x.sc.vlc).forM (fun e =>
    if e < x.rstix.toNat then pure ()
    else if x.guardPoison e then raiseAt cPOISON (w64 (modeG x.sc.md)) 0 e
    else if x.active e then act x e
    else idle e)

/-- What an inactive element of a destination group gets: zero under ZM, nothing otherwise (R162). -/
def idleElt (d w : Nat) (e : Nat) : M Unit := do
  let c ← sc
  if modeZM c.md then modCur (fun x => x.setElt d w e 0) else pure ()

/-- Flags of element e: an enabled one raises FP_TRAP there (R166), the others join FLAGS. -/
def elementFlags (fl : Flags) (e : Nat) : M Unit := do
  let c ← sc
  let on := fl &&& c.fpen.zeroExtend 6
  if on ≠ 0 then raiseAt cFP_TRAP (on.zeroExtend 64) 0 e else orFlags fl

/-- An element-wise form: each active element receives what `f` gives, read from the strand as it stood (R163, R166). -/
def elementwise (d w : Nat) (f : Strand → Nat → Except Nat (Nat × Flags)) : M Unit :=
  forElements (fun x e =>
    match f x e with
    | .error r => vPoison r e
    | .ok v => do
      elementFlags v.2 e
      modCur (fun y => y.setElt d w e v.1)) (idleElt d w)

/-- The second source of element e: a vector element, or the low bits of the captured scalar (R167). -/
def srcB (x : Strand) (b : VSrc) (w e : Nat) : Except Nat Nat :=
  match b with
  | .v r => rdE x r.toNat w e
  | .s r => .ok ((x.sc.reg r).toNat % 2 ^ w)

/-- The registers of a second source, for the checks. -/
def opB (b : VSrc) (w : Nat) : List VOp := match b with | .v r => [⟨r.toNat, w, false, false⟩] | .s _ => []

/-- A scalar second source is read when the instruction is passed: a poisoned one raises POISON, an owed one is waited for
(R157, R397). -/
def needB (b : VSrc) : M Unit := do
  match b with
  | .v _ => pure ()
  | .s r =>
    let _ ← rd r
    pure ()

/-- The registers a source group spans, for R184's wait. -/
def spanB (b : VSrc) (g we w : Nat) : List (Nat × Nat) :=
  match b with
  | .v r => [(r.toNat, max (g * w / we) 1)]
  | .s _ => []

/-- The number of draws of an element-wise form under RS (R139). -/
def vDraws (s : State) : Nat := if modeRND s.cur.sc.md = 5 then s.cur.sc.vlc else 0

/-- No draws. -/
def noDraws (_ : State) : Nat := 0

/-- The draws of an instruction that executes now, from the generator's state as captured. -/
def drawList (n : Nat) (s : State) : List Nat := (draws n s.cur.sc.seed).1

/-! ### va (R167 to R173) -/

/-- The function of an operation on integers, of vd, va and vb (R169). -/
abbrev IntFn := ETy → Bool → Nat → Nat → Nat → Nat × Flags
/-- The function of an operation on floating values (R170). -/
abbrev FpFn := ETy → RMode → Bool → Nat → Nat → Nat → FRes

/-- Types 0 to 7, F16, BF16, F32 and F64 (R168). -/
def etyArith (t : ETy) : Bool := etyIsInt t || etyIsArith t

/-- The checks of a va form. DESIGN CHOICE (log 23): when several MODE fields are at fault at once, EINFO names the first of ETA, ETB,
RND or SCP, and GRP; R45 gives no order among them. -/
def vaCheck (i : Instr) (d a : Reg) (b : Option VSrc) (ok : ETy → Bool) : M Unit := do
  let t ← needETA i ok
  if etyIsFp t then
    let _ ← needRND i
    pure ()
  else pure ()
  let w := etyBits t
  vGroups i w ([⟨d.toNat, w, true, false⟩, ⟨a.toNat, w, false, false⟩] ++ (match b with | some b => opB b w | none => []))
  match b with
  | some b => needB b
  | none => pure ()

/-- A va form over vd, va and vb of type ETA; `acc` when it reads vd (R167 to R170). -/
def vaForm (i : Instr) (d a : Reg) (b : Option VSrc) (acc : Bool) (ok : ETy → Bool) (fi : IntFn) (ff : FpFn) : M Done :=
  vecInstr i (vaCheck i d a b ok)
    (fun s => match etyOfCode (modeETA s.cur.sc.md) with | some t => if etyIsFp t then vDraws s else 0 | none => 0)
    (do
      let s ← get
      let c := s.cur.sc
      let t := (etyOfCode (modeETA c.md)).getD .i32
      let w := etyBits t
      let g := modeGRP c.md
      waitSources ((if acc then [(d.toNat, g)] else []) ++ [(a.toNat, g)] ++ (match b with | some b => spanB b g w w | none => []))
      let ds := if etyIsFp t then drawList (vDraws s) s else []
      elementwise d.toNat w (fun x e => do
        let va ← rdE x a.toNat w e
        let vb ← (match b with | some b => srcB x b w e | none => .ok 0)
        let vd ← (if acc then rdE x d.toNat w e else .ok 0)
        if etyIsInt t then .ok (fi t (modeSAT c.md) vd va vb)
        else
          let r := ff t (rmodeOf (modeRND c.md) (ds.getD e 0)) (modeSAT c.md) vd va vb
          .ok (r.bits, r.fl)))

/-- An integer operation that wraps or saturates (R128, R169). -/
def intWrap (f : Int → Int → Int → Int) : IntFn := fun t sat d a b => intResult t sat (f (intVal t d) (intVal t a) (intVal t b))
/-- An operation on bit patterns (R169). -/
def intBits (f : ETy → Nat → Nat → Nat) : IntFn := fun t _ _ a b => (f t a b % 2 ^ etyBits t, 0)
/-- No integer operation: the form admits floating types only. -/
def noInt : IntFn := fun _ _ _ _ _ => (0, 0)
/-- No floating operation: the form admits integer types only. -/
def noFp : FpFn := fun _ _ _ _ _ _ => ⟨0, 0⟩
/-- A floating operation of va and vb. -/
def fp2 (f : ETy → RMode → Bool → Nat → Nat → FRes) : FpFn := fun t md sat _ a b => f t md sat a b
/-- A floating operation of va. -/
def fp1 (f : ETy → RMode → Bool → Nat → FRes) : FpFn := fun t md sat _ a _ => f t md sat a
/-- The shift amount of an element (R169). -/
def shiftOf (t : ETy) (b : Nat) : Nat := b % etyBits t
/-- sra on the bit pattern (R169). -/
def sraBits (t : ETy) (a b : Nat) : Nat :=
  let w := etyBits t
  let v : Int := if 2 ^ (w - 1) ≤ a then (a : Int) - (2 ^ w : Nat) else a
  wrapN w (v / (2 ^ shiftOf t b : Nat))
/-- The lesser or greater of two integers (R169). -/
def intPick (mx : Bool) : IntFn := fun t _ _ a b => ((if (decide (intVal t a < intVal t b)) == mx then b else a) % 2 ^ etyBits t, 0)
/-- clip on integers (R169). -/
def intClip : IntFn := fun t _ _ a b =>
  let x := intVal t a
  if etySigned t then
    let k : Int := (intVal t b).natAbs
    let y := if x < -k then -k else if k < x then k else x
    (wrapN (etyBits t) (if intMax t < y then intMax t else y), 0)
  else ((if intVal t b < x then b else a) % 2 ^ etyBits t, 0)
/-- The sign bit of an encoding cleared or set otherwise (R170). -/
def fpSign (clear : Bool) : FpFn := fun t _ _ _ a _ =>
  let k := 2 ^ (etyBits t - 1)
  ⟨if clear then a % k else (if k ≤ a then a - k else a + k), 0⟩
/-- clip on floating values (R170). -/
def fpClip : FpFn := fun t _ _ _ a b =>
  let x := unpack t a
  let y := unpack t b
  if isNaN x || isNaN y then ⟨defaultNaN t, sigFlag x y⟩
  else
    let k := 2 ^ (etyBits t - 1)
    let hi := b % k
    let lo := hi + k
    ⟨(fMinMax t false (fMinMax t true a lo).bits hi).bits, 0⟩

def execVaAdd (d a : Reg) (b : VSrc) :=
  finish (vaForm (.vaAdd d a b) d a (some b) false etyArith (intWrap (fun _ x y => x + y)) (fp2 fAdd))
def execVaSub (d a : Reg) (b : VSrc) :=
  finish (vaForm (.vaSub d a b) d a (some b) false etyArith (intWrap (fun _ x y => x - y)) (fp2 fSub))
def execVaMul (d a : Reg) (b : VSrc) :=
  finish (vaForm (.vaMul d a b) d a (some b) false etyArith (intWrap (fun _ x y => x * y)) (fp2 fMul))
/-- mulh: bits 2w − 1 down to w of the exact product (R169). -/
def execVaMulh (d a : Reg) (b : VSrc) :=
  finish (vaForm (.vaMulh d a b) d a (some b) false etyIsInt
    (fun t _ _ x y => (wrapN (etyBits t) (intVal t x * intVal t y / (2 ^ etyBits t : Nat)), 0)) noFp)
def execVaFma (d a : Reg) (b : VSrc) :=
  finish (vaForm (.vaFma d a b) d a (some b) true etyArith (intWrap (fun z x y => z + x * y))
    (fun t md sat z x y => fFmaT t md sat false false x y z))
def execVaFms (d a : Reg) (b : VSrc) :=
  finish (vaForm (.vaFms d a b) d a (some b) true etyArith (intWrap (fun z x y => z - x * y))
    (fun t md sat z x y => fFmaT t md sat true false x y z))
def execVaFnma (d a : Reg) (b : VSrc) :=
  finish (vaForm (.vaFnma d a b) d a (some b) true etyArith (intWrap (fun z x y => -z - x * y))
    (fun t md sat z x y => fFmaT t md sat true true x y z))
def execVaDiv (d a : Reg) (b : VSrc) :=
  finish (vaForm (.vaDiv d a b) d a (some b) false etyArith (intBits intDiv) (fp2 fDiv))
def execVaSqrt (d a : Reg) := finish (vaForm (.vaSqrt d a) d a none false etyIsArith noInt (fp1 fSqrt))
def execVaRsqrt (d a : Reg) := finish (vaForm (.vaRsqrt d a) d a none false etyIsArith noInt (fp1 fRsqrt))
def execVaRecip (d a : Reg) := finish (vaForm (.vaRecip d a) d a none false etyIsArith noInt (fp1 fRecip))
def execVaExp2 (d a : Reg) := finish (vaForm (.vaExp2 d a) d a none false etyIsArith noInt (fp1 fExp2))
def execVaLog2 (d a : Reg) := finish (vaForm (.vaLog2 d a) d a none false etyIsArith noInt (fp1 fLog2))
def execVaMin (d a : Reg) (b : VSrc) :=
  finish (vaForm (.vaMin d a b) d a (some b) false etyArith (intPick false) (fp2 (fun t _ _ x y => fMinMax t false x y)))
def execVaMax (d a : Reg) (b : VSrc) :=
  finish (vaForm (.vaMax d a b) d a (some b) false etyArith (intPick true) (fp2 (fun t _ _ x y => fMinMax t true x y)))
def execVaAbs (d a : Reg) :=
  finish (vaForm (.vaAbs d a) d a none false etyArith (intWrap (fun _ x _ => x.natAbs)) (fpSign true))
def execVaNeg (d a : Reg) :=
  finish (vaForm (.vaNeg d a) d a none false etyArith (intWrap (fun _ x _ => -x)) (fpSign false))
def execVaAnd (d a : Reg) (b : VSrc) :=
  finish (vaForm (.vaAnd d a b) d a (some b) false etyIsInt (intBits (fun _ x y => x &&& y)) noFp)
def execVaOr (d a : Reg) (b : VSrc) :=
  finish (vaForm (.vaOr d a b) d a (some b) false etyIsInt (intBits (fun _ x y => x ||| y)) noFp)
def execVaXor (d a : Reg) (b : VSrc) :=
  finish (vaForm (.vaXor d a b) d a (some b) false etyIsInt (intBits (fun _ x y => x ^^^ y)) noFp)
def execVaShl (d a : Reg) (b : VSrc) :=
  finish (vaForm (.vaShl d a b) d a (some b) false etyIsInt (intBits (fun t x y => x * 2 ^ shiftOf t y)) noFp)
def execVaShr (d a : Reg) (b : VSrc) :=
  finish (vaForm (.vaShr d a b) d a (some b) false etyIsInt (intBits (fun t x y => x / 2 ^ shiftOf t y)) noFp)
def execVaSra (d a : Reg) (b : VSrc) :=
  finish (vaForm (.vaSra d a b) d a (some b) false etyIsInt (intBits sraBits) noFp)
def execVaClip (d a : Reg) (b : VSrc) :=
  finish (vaForm (.vaClip d a b) d a (some b) false etyArith intClip fpClip)

/-! ### cvt (R171) -/

/-- The scale byte of block k of an N4 group from register n with `g` registers (R160). -/
def Strand.scaleOf (x : Strand) (n g k : Nat) : Nat := bitsAt (x.vreg (n + g)).toNat (8 * k) 8

/-- The type code of N4 (R44). -/
def isN4 (md : Nat) : Bool := modeETA md == 14

/-- The checks of `va.cvt`: any ETA of 0 to 14, ETB 0 to 13 or 15 (R168, R171). -/
def cvtCheck (d a : Reg) : M Unit := do
  let i : Instr := .vaCvt d a
  let t ← needETA i (fun _ => true)
  let u ← needETB i t (fun u => decide (u ≠ .n4) || decide (t = .n4))
  let c ← sc
  if modeETB c.md = 14 then modeIllegal i 8
  else
    let _ ← needRND i
    vGroups i (etyBits t) [⟨d.toNat, etyBits u, true, decide (u = .n4)⟩, ⟨a.toNat, etyBits t, false, decide (t = .n4)⟩]

/-- The value that `va.cvt` writes (R171). -/
def cvtElt (t u : ETy) (same : Bool) (md : RMode) (sat : Bool) (scale x : Nat) : Nat × Flags :=
  if same then
    if etyIsFp t && decide (t ≠ .n4) then
      let r := quietCopy t x
      (r.bits, r.fl)
    else (x, 0)
  else if t = .n4 then
    if etyIsInt u then cvtFpInt u md sat (n4Decode scale x)
    else
      let r := cvtFpFp u md sat (n4Decode scale x)
      (r.bits, r.fl)
  else convert t u md sat x

/-- Copies the scale bytes of the blocks that hold an element below n, as they stand in `x`, to strand `y` (R163, R171). -/
def Strand.copyScales (x y : Strand) (d a g n : Nat) : Strand :=
  (List.range ((n + 31) / 32)).foldl (fun (y : Strand) k =>
    y.setVreg (d + g) (putBits (y.vreg (d + g)) (8 * k) 8 (x.scaleOf a g k))) y

def execVaCvt (d a : Reg) := finish (vecInstr (.vaCvt d a) (cvtCheck d a) vDraws (do
  let s ← get
  let c := s.cur.sc
  let t := (etyOfCode (modeETA c.md)).getD .i32
  let same := decide (modeETB c.md = 15)
  let u := if same then t else (etyOfCode (modeETB c.md)).getD .i32
  let g := modeGRP c.md
  let ds := drawList (vDraws s) s
  waitSources [(a.toNat, if t = .n4 then g + 1 else g)]
  elementwise d.toNat (etyBits u) (fun x e => do
    let v ← rdE x a.toNat (etyBits t) e
    let _ ← (if t = .n4 then rdE x (a.toNat + g) 8 (e / 32) else .ok 0)
    .ok (cvtElt t u same (rmodeOf (modeRND c.md) (ds.getD e 0)) (modeSAT c.md) (s.cur.scaleOf a.toNat g (e / 32)) v))
  if same && decide (t = .n4) then
    modCur (fun y => s.cur.copyScales y d.toNat a.toNat g c.vlc)
  else pure ()))

/-! ### mulw and dotw (R172, R173) -/

/-- A pairing that mulw and dotw admit (R168). -/
def mixOk (t u : ETy) : Bool :=
  decide (u ≠ .n4) && decide (etyBits u ≤ etyBits t) && (etyIsInt t == etyIsInt u)

/-- The checks of mulw and dotw. -/
def mixCheck (i : Instr) (d a : Reg) (b : VSrc) : M Unit := do
  let t ← needETA i etyArith
  let u ← needETB i t (mixOk t)
  if etyIsFp t then
    let _ ← needRND i
    pure ()
  else pure ()
  vGroups i (etyBits t) ([⟨d.toNat, etyBits t, true, false⟩, ⟨a.toNat, etyBits t, false, false⟩] ++ opB b (etyBits u))
  needB b

/-- ETA and ETB of a mixed form. -/
def mixTypes (md : Nat) : ETy × ETy :=
  let t := (etyOfCode (modeETA md)).getD .i32
  (t, if modeETB md = 15 then t else (etyOfCode (modeETB md)).getD .i32)

/-- The draws of a mixed form. -/
def mixDraws (s : State) : Nat := if etyIsFp (mixTypes s.cur.sc.md).1 then vDraws s else 0

def execVaMulw (d a : Reg) (b : VSrc) := finish (vecInstr (.vaMulw d a b) (mixCheck (.vaMulw d a b) d a b) mixDraws (do
  let s ← get
  let c := s.cur.sc
  let tu := mixTypes c.md
  let t := tu.1
  let u := tu.2
  let g := modeGRP c.md
  let ds := drawList (mixDraws s) s
  waitSources ((a.toNat, g) :: spanB b g (etyBits t) (etyBits u))
  elementwise d.toNat (etyBits t) (fun x e => do
    let va ← rdE x a.toNat (etyBits t) e
    let vb ← srcB x b (etyBits u) e
    if etyIsInt t then .ok (intResult t (modeSAT c.md) (intVal t va * intVal u vb))
    else
      let r := mulV t (rmodeOf (modeRND c.md) (ds.getD e 0)) (modeSAT c.md) (unpack t va) (unpack u vb)
      .ok (r.bits, r.fl))))

/-- The active elements of segment j (R173). -/
def segment (x : Strand) (j : Nat) : List Nat :=
  ((List.range 4).map (4 * j + ·)).filter (fun e => x.active e)

/-- One position of `va.dotw` (R150, R173). DESIGN CHOICE (log 38): with no active element in the segment an accumulator of -0 stays -0;
the spec gives the empty sum no sign. -/
def dotwAt (x : Strand) (d a : Reg) (b : VSrc) (t u : ETy) (md : RMode) (sat : Bool) (j : Nat) : Except Nat (Nat × Flags) := do
  let es := segment x j
  let ps ← es.mapM (fun e => do
    let va ← rdE x a.toNat (etyBits t) e
    let vb ← srcB x b (etyBits u) e
    pure (va, vb))
  let acc ← rdE x d.toNat (etyBits t) j
  if etyIsInt t then
    .ok (intResult t sat (ps.foldl (fun n p => n + intVal t p.1 * intVal u p.2) (intVal t acc)))
  else
    let av := unpack t acc
    let vs := ps.map (fun p => (unpack t p.1, unpack u p.2))
    let sig := decide (av = .nan true) || vs.any (fun p => decide (p.1 = .nan true) || decide (p.2 = .nan true))
    let r := dotRound t md sat sig av (vs.map (fun p => prodOf p.1 p.2))
    .ok (r.bits, r.fl)

def execVaDotw (d a : Reg) (b : VSrc) := finish (vecInstr (.vaDotw d a b) (mixCheck (.vaDotw d a b) d a b) mixDraws (do
  let s ← get
  let x := s.cur
  let c := x.sc
  let tu := mixTypes c.md
  let g := modeGRP c.md
  let ds := drawList (mixDraws s) s
  waitSources ([(a.toNat, g), (d.toNat, g)] ++ spanB b g (etyBits tu.1) (etyBits tu.2))
  readGuard
  (List.range ((c.vlc + 3) / 4)).forM (fun j =>
    if 4 * j < x.rstix.toNat then pure ()
    else if (List.range 4).any (fun k => decide (4 * j + k < c.vlc) && x.guardPoison (4 * j + k)) then
      raiseAt cPOISON (w64 (modeG c.md)) 0 (4 * j)
    else
      match dotwAt x d a b tu.1 tu.2 (rmodeOf (modeRND c.md) (ds.getD j 0)) (modeSAT c.md) j with
      | .error r => vPoison r (4 * j)
      | .ok v => do
        elementFlags v.2 (4 * j)
        modCur (fun y => y.setElt d.toNat (etyBits tu.1) j v.1))))

/-! ### vm (R174, R175) -/

/-- Sets bit e of mask m. -/
def Strand.setMaskBit (x : Strand) (m e : Nat) (b : Bool) : Strand := x.writeMask m (setBit (x.mask m) e b) e (e + 1)

/-- A compare (R174): the truth on integers, and the truth and flags on floating values. -/
def vmCompare (i : Instr) (d a : Reg) (b : VSrc) (fi : Int → Int → Bool) (ff : ETy → Nat → Nat → Bool × Flags) : M Done :=
  vecInstr i
    (do
      let t ← needETA i etyArith
      vGroups i (etyBits t) (⟨a.toNat, etyBits t, false, false⟩ :: opB b (etyBits t))
      freeMask i d.toNat
      needB b)
    noDraws
    (do
      let s ← get
      let c := s.cur.sc
      let t := (etyOfCode (modeETA c.md)).getD .i32
      let w := etyBits t
      waitSources ((a.toNat, modeGRP c.md) :: spanB b (modeGRP c.md) w w)
      forElements
        (fun x e => do
          let r : Except Nat (Bool × Flags) := do
            let va ← rdE x a.toNat w e
            let vb ← srcB x b w e
            .ok (if etyIsInt t then (fi (intVal t va) (intVal t vb), 0) else ff t va vb)
          match r with
          | .error k => vPoison k e
          | .ok v =>
            elementFlags v.2 e
            modCur (fun y => y.setMaskBit d.toNat e v.1))
        (fun e => do
          let c ← sc
          if modeZM c.md then modCur (fun y => y.setMaskBit d.toNat e false) else pure ()))

def execVmEq (d a : Reg) (b : VSrc) := finish (vmCompare (.vmEq d a b) d a b (fun x y => decide (x = y)) fEq)
def execVmNe (d a : Reg) (b : VSrc) :=
  finish (vmCompare (.vmNe d a b) d a b (fun x y => decide (x ≠ y)) (fun t x y => (!(fEq t x y).1, (fEq t x y).2)))
def execVmLt (d a : Reg) (b : VSrc) :=
  finish (vmCompare (.vmLt d a b) d a b (fun x y => decide (x < y)) (fun t x y => fLess t false x y))
def execVmLe (d a : Reg) (b : VSrc) :=
  finish (vmCompare (.vmLe d a b) d a b (fun x y => decide (x ≤ y)) (fun t x y => fLess t true x y))
def execVmGt (d a : Reg) (b : VSrc) :=
  finish (vmCompare (.vmGt d a b) d a b (fun x y => decide (y < x)) (fun t x y => fLess t false y x))
def execVmGe (d a : Reg) (b : VSrc) :=
  finish (vmCompare (.vmGe d a b) d a b (fun x y => decide (y ≤ x)) (fun t x y => fLess t true y x))
def execVmUnord (d a : Reg) (b : VSrc) :=
  finish (vmCompare (.vmUnord d a b) d a b (fun _ _ => false)
    (fun t x y => (isNaN (unpack t x) || isNaN (unpack t y), sigFlag (unpack t x) (unpack t y))))

/-- Reading mask m as a source: a poisoned word below n raises POISON; a bound mask's chunks are acquired (R369, R397). -/
def readMask (m n : Nat) : M (BitVec 512) := do
  let s ← get
  if s.cur.maskPoison m n then raiseAt cPOISON (w64 m) 0 0
  else
    acquireMask m
    pure (s.cur.mask m)

/-- Bits of a mask from RSTIX up to n replaced by those of another. -/
def mergeMask (old new_ : BitVec 512) (lo n : Nat) : BitVec 512 :=
  let k := BitVec.ofNat 512 (2 ^ n - 2 ^ min lo n)
  (old &&& ~~~k) ||| (new_ &&& k)

/-- Bit e of mask m stands in a poisoned word (R397). -/
def Strand.bitPoison (x : Strand) (m e : Nat) : Bool := x.poison.any (fun k => k.kind == 2 && k.reg == m && k.word == e / 32)

/-- A mask-logic form: bits e < VLC (R175). The bits below the first that reads a poisoned word are written (R166). -/
def vmLogic (i : Instr) (d a b : Reg) (f : BitVec 512 → BitVec 512 → BitVec 512) : M Done :=
  vecInstr i (freeMask i d.toNat) noDraws (do
    acquireMask a.toNat
    acquireMask b.toNat
    let s ← get
    let x := s.cur
    let put (n : Nat) := modCur (fun z => z.writeMask d.toNat
      (mergeMask (z.mask d.toNat) (f (x.mask a.toNat) (x.mask b.toNat)) z.rstix.toNat n) z.rstix.toNat n)
    match (List.range x.sc.vlc).find? (fun e => decide (x.rstix.toNat ≤ e) && (x.bitPoison a.toNat e || x.bitPoison b.toNat e)) with
    | some e =>
      put e
      raiseAt cPOISON (w64 (if x.bitPoison a.toNat e then a.toNat else b.toNat)) 0 e
    | none => put x.sc.vlc)

def execVmAnd (d a b : Reg) := finish (vmLogic (.vmAnd d a b) d a b (fun x y => x &&& y))
def execVmOr (d a b : Reg) := finish (vmLogic (.vmOr d a b) d a b (fun x y => x ||| y))
def execVmXor (d a b : Reg) := finish (vmLogic (.vmXor d a b) d a b (fun x y => x ^^^ y))
def execVmAndn (d a b : Reg) := finish (vmLogic (.vmAndn d a b) d a b (fun x y => x &&& ~~~y))
def execVmNot (d a : Reg) := finish (vmLogic (.vmNot d a) d a a (fun x _ => ~~~x))

/-- The set bits of a mask below n. -/
def popMask (k : BitVec 512) (n : Nat) : Nat := (List.range n).countP (fun e => k.getLsbD e)

/-- `vm.pop` (R175). -/
def execVmPop (d a : Reg) := finish (vecInstr (.vmPop d a) (ready d) noDraws (do
  let c ← sc
  let k ← readMask a.toNat c.vlc
  wr d (w64 (popMask k c.vlc))))

/-- `vm.first` (R175). -/
def execVmFirst (d a : Reg) := finish (vecInstr (.vmFirst d a) (ready d) noDraws (do
  let c ← sc
  let k ← readMask a.toNat c.vlc
  wr d (match (List.range c.vlc).find? (fun e => k.getLsbD e) with
    | some e => w64 e
    | none => BitVec.allOnes 64)))

/-- `vm.fill` (R175). -/
def execVmFill (d a : Reg) := finish (vecInstr (.vmFill d a)
  (do
    freeMask (.vmFill d a) d.toNat
    let _ ← rd a
    pure ())
  noDraws
  (do
    let c ← sc
    let n := min (c.reg a).toNat 512
    modCur (fun z => z.writeMask d.toNat (mergeMask (z.mask d.toNat) (BitVec.ofNat 512 (2 ^ n - 1)) z.rstix.toNat c.vlc)
      z.rstix.toNat c.vlc)))

/-! ### vp (R176 to R179) -/

/-- ETA of a move or permute: 0 to 13 (R176). -/
def etyMove (t : ETy) : Bool := decide (t ≠ .n4)

/-- The checks of a vp form with destination and sources of type ETA. -/
def vpCheck (i : Instr) (ok : ETy → Bool) (d : Option Reg) (src : List Reg) (more : M Unit) : M Unit := do
  let t ← needETA i ok
  let w := etyBits t
  vGroups i w ((match d with | some d => [⟨d.toNat, w, true, false⟩] | none => []) ++ src.map (fun r => ⟨r.toNat, w, false, false⟩))
  more

/-- ETA's width and the group size in force. -/
def vpWidth : M (Nat × Nat) := do
  let c ← sc
  pure (etyBits ((etyOfCode (modeETA c.md)).getD .i32), modeGRP c.md)

/-- `vp.mv` (R177). -/
def execVpMv (d a : Reg) := finish (vecInstr (.vpMv d a) (vpCheck (.vpMv d a) etyMove (some d) [a] (pure ())) noDraws (do
  let wg ← vpWidth
  waitSources [(a.toNat, wg.2)]
  elementwise d.toNat wg.1 (fun x e => do
    let v ← rdE x a.toNat wg.1 e
    .ok (v, 0))))

/-- An unguarded write of every element from RSTIX to VLC − 1. -/
def fillElements (d w : Nat) (f : Nat → Nat) : M Unit := do
  let s ← get
  modCur (fun x => (List.range s.cur.sc.vlc).foldl (fun (y : Strand) e =>
    if e < s.cur.rstix.toNat then y else y.setElt d w e (f e)) x)

/-- `vp.bcast` (R177). -/
def execVpBcast (d b : Reg) := finish (vecInstr (.vpBcast d b)
  (vpCheck (.vpBcast d b) etyMove (some d) [] (needB (.s b))) noDraws (do
    let wg ← vpWidth
    let c ← sc
    fillElements d.toNat wg.1 (fun _ => (c.reg b).toNat)))

/-- `vp.iota` (R177). -/
def execVpIota (d : Reg) := finish (vecInstr (.vpIota d) (vpCheck (.vpIota d) etyIsInt (some d) [] (pure ())) noDraws (do
  let wg ← vpWidth
  fillElements d.toNat wg.1 (fun e => e)))

/-- Runs a form whole, whatever RSTIX holds (R396). -/
def whole (run : M Unit) : M Unit := do
  modCur (fun x => { x with rstix := 0 })
  run

/-- The guarded elements of a form that runs whole: poison of any source element read is raised before anything is
written (R396). -/
def wholeElements (d w : Nat) (f : Strand → Nat → Except Nat (Option Nat)) : M Unit := do
  readGuard
  let s ← get
  let x := s.cur
  let vs ← (List.range x.sc.vlc).mapM (fun e => do
    if x.guardPoison e then raiseAt cPOISON (w64 (modeG x.sc.md)) 0 0
    else if x.active e then
      match f x e with
      | .error r => vPoison r 0
      | .ok v => pure v
    else pure (if modeZM x.sc.md then some 0 else none))
  modCur (fun y => vs.zipIdx.foldl (fun (y : Strand) p =>
    match p.1 with
    | some v => y.setElt d w p.2 v
    | none => y) y)

/-- `vp.slup` (R177). -/
def execVpSlup (d a b : Reg) := finish (vecInstr (.vpSlup d a b)
  (vpCheck (.vpSlup d a b) etyMove (some d) [a] (needB (.s b))) noDraws (whole (do
    let wg ← vpWidth
    let c ← sc
    let k := (c.reg b).toNat
    waitSources [(a.toNat, wg.2)]
    wholeElements d.toNat wg.1 (fun x e =>
      if e < k then .ok none
      else do
        let v ← rdE x a.toNat wg.1 (e - k)
        .ok (some v)))))

/-- `vp.sldn` (R177). -/
def execVpSldn (d a b : Reg) := finish (vecInstr (.vpSldn d a b)
  (vpCheck (.vpSldn d a b) etyMove (some d) [a] (needB (.s b))) noDraws (whole (do
    let wg ← vpWidth
    let c ← sc
    let k := (c.reg b).toNat
    waitSources [(a.toNat, wg.2)]
    wholeElements d.toNat wg.1 (fun x e =>
      if e + k < c.vlc then do
        let v ← rdE x a.toNat wg.1 (e + k)
        .ok (some v)
      else .ok (some 0)))))

/-- `vp.perm` (R177). -/
def execVpPerm (d a b : Reg) := finish (vecInstr (.vpPerm d a b)
  (vpCheck (.vpPerm d a b) etyMove (some d) [a, b] (pure ())) noDraws (whole (do
    let wg ← vpWidth
    let c ← sc
    waitSources [(a.toNat, wg.2), (b.toNat, wg.2)]
    wholeElements d.toNat wg.1 (fun x e => do
      let k ← rdE x b.toNat wg.1 e
      if k < c.vlc then
        let v ← rdE x a.toNat wg.1 k
        .ok (some v)
      else .ok (some 0)))))

/-- `vp.compress` (R177). -/
def execVpCompress (d a : Reg) := finish (vecInstr (.vpCompress d a)
  (vpCheck (.vpCompress d a) etyMove (some d) [a] (pure ())) noDraws (whole (do
    let wg ← vpWidth
    waitSources [(a.toNat, wg.2)]
    readGuard
    let s ← get
    let x := s.cur
    let es := (List.range x.sc.vlc).filter (fun e => x.active e)
    if (List.range x.sc.vlc).any (fun e => x.guardPoison e) then raiseAt cPOISON (w64 (modeG x.sc.md)) 0 0
    else
      let vs ← es.mapM (fun e =>
        match rdE x a.toNat wg.1 e with
        | .error r => vPoison r 0
        | .ok v => pure v)
      modCur (fun y =>
        let z := vs.zipIdx.foldl (fun (y : Strand) p => y.setElt d.toNat wg.1 p.2 p.1) y
        if modeZM x.sc.md then
          (List.range x.sc.vlc).foldl (fun (y : Strand) e => if e < vs.length then y else y.setElt d.toNat wg.1 e 0) z
        else z))))

/-- `vp.sel` (R177). -/
def execVpSel (d a : Reg) (b : VSrc) := finish (vecInstr (.vpSel d a b)
  (vpCheck (.vpSel d a b) etyMove (some d) (a :: (match b with | .v r => [r] | .s _ => [])) (needB b)) noDraws (do
    let wg ← vpWidth
    waitSources ((a.toNat, wg.2) :: spanB b wg.2 wg.1 wg.1)
    readGuard
    let s ← get
    let x := s.cur
    (List.range x.sc.vlc).forM (fun e =>
      if e < x.rstix.toNat then pure ()
      else if x.guardPoison e then raiseAt cPOISON (w64 (modeG x.sc.md)) 0 e
      else
        match (if x.active e then rdE x a.toNat wg.1 e else srcB x b wg.1 e) with
        | .error r => vPoison r e
        | .ok v => modCur (fun y => y.setElt d.toNat wg.1 e v))))

/-! ### Reductions (R151, R179) -/

/-- The least power of two not below n, searched up to 2^fuel; 1 for n ≤ 1. -/
def pow2Up (n : Nat) : Nat → Nat → Nat
  | 0, p => p
  | fuel + 1, p => if n ≤ p then p else pow2Up n fuel (2 * p)

/-- P of R151. -/
def treeSize (n : Nat) : Nat := pow2Up n 10 1

/-- One level of the tree: pairs are summed with their draws; what is left of the draws goes on. -/
def sumLevel (t : ETy) (code : Nat) (sat : Bool) : List Nat → List Nat → List Nat × Flags × List Nat
  | a :: b :: r, ds =>
    let v := fAdd t (rmodeOf code (ds.headD 0)) sat a b
    let k := sumLevel t code sat r ds.tail
    (v.bits :: k.1, v.fl ||| k.2.1, k.2.2)
  | _, ds => ([], 0, ds)

/-- The whole tree, by levels (R151). -/
def sumTree (t : ETy) (code : Nat) (sat : Bool) : Nat → List Nat → List Nat → Nat × Flags
  | 0, ys, _ => (ys.headD 0, 0)
  | fuel + 1, ys, ds =>
    match ys with
    | [y] => (y, 0)
    | _ =>
      let l := sumLevel t code sat ys ds
      let r := sumTree t code sat fuel l.1 l.2.2
      (r.1, l.2.1 ||| r.2)

/-- The draws of `vp.rsum`: one for each node on floating types (R139). -/
def rsumDraws (s : State) : Nat :=
  let md := s.cur.sc.md
  match etyOfCode (modeETA md) with
  | some t => if etyIsFp t ∧ modeRND md = 5 then treeSize s.cur.sc.vlc - 1 else 0
  | none => 0

/-- The active elements of va, or the poison of the lowest poisoned one. -/
def activeValues (a : Reg) (w : Nat) : M (List (Nat × Nat)) := do
  readGuard
  let s ← get
  let x := s.cur
  if (List.range x.sc.vlc).any (fun e => x.guardPoison e) then raiseAt cPOISON (w64 (modeG x.sc.md)) 0 0
  else
    ((List.range x.sc.vlc).filter (fun e => x.active e)).mapM (fun e =>
      match rdE x a.toNat w e with
      | .error r => vPoison r 0
      | .ok v => pure (e, v))

/-- Writes element 0 of a reduction (R179). -/
def writeFirst (d w v : Nat) : M Unit := modCur (fun x => x.setElt d w 0 v)

/-- The checks of a reduction. -/
def redCheck (i : Instr) (d a : Reg) (rnd : Bool) : M Unit :=
  vpCheck i etyArith (some d) [a] (do
    let c ← sc
    if rnd && (match etyOfCode (modeETA c.md) with | some t => etyIsFp t | none => false) then
      let _ ← needRND i
      pure ()
    else pure ())

/-- The only value of a list as its sum: a NaN result is the default NaN (R130). DESIGN CHOICE (log 78): a signalling one raises NV, as
it does where it meets another operand. -/
def soleSum (t : ETy) (y : Nat) : Nat × Flags :=
  match unpack t y with
  | .nan sig => (defaultNaN t, if sig then fNV else 0)
  | _ => (y, 0)

/-- `vp.rsum` (R151, R179). -/
def execVpRsum (d a : Reg) := finish (vecInstr (.vpRsum d a)
  (do
    let c ← sc
    match etyOfCode (modeETA c.md) with
    | some t => if etyIsArith t then (do let _ ← needRND (.vpRsum d a); pure ()) else pure ()
    | none => pure ()
    redCheck (.vpRsum d a) d a true) rsumDraws (whole (do
    let s ← get
    let c := s.cur.sc
    let t := (etyOfCode (modeETA c.md)).getD .i32
    let w := etyBits t
    waitSources [(a.toNat, modeGRP c.md)]
    let vs ← activeValues a w
    if etyIsInt t then
      let r := intResult t (modeSAT c.md) (vs.foldl (fun n p => n + intVal t p.2) 0)
      elementFlags r.2 0
      writeFirst d.toNat w r.1
    else
      let list := (List.range (treeSize c.vlc)).map (fun e =>
        match vs.find? (fun p => p.1 == e) with
        | some p => p.2
        | none => zeroOf t true)
      let r : Nat × Flags := match list with
        | [y] => soleSum t y
        | _ => sumTree t (modeRND c.md) (modeSAT c.md) 10 list (drawList (rsumDraws s) s)
      elementFlags r.2 0
      writeFirst d.toNat w r.1)))

/-- rmax and rmin over the active elements (R151). -/
def extreme (t : ETy) (mx : Bool) (vs : List Nat) : Nat × Flags :=
  match vs with
  | [] => if etyIsInt t then (wrapN (etyBits t) (if mx then intMin t else intMax t), 0) else (defaultNaN t, 0)
  | v :: r =>
    if etyIsInt t then (r.foldl (fun k x => (intPick mx t false 0 k x).1) v, 0)
    else
      let f := fMinMax t mx v v
      r.foldl (fun k x =>
        let y := fMinMax t mx k.1 x
        (y.bits, k.2 ||| y.fl)) (f.bits, f.fl)

/-- A reduction to the greatest or least active element. -/
def reduceExt (i : Instr) (mx : Bool) (d a : Reg) : M Done :=
  vecInstr i (redCheck i d a false) noDraws (whole (do
    let c ← sc
    let t := (etyOfCode (modeETA c.md)).getD .i32
    waitSources [(a.toNat, modeGRP c.md)]
    let vs ← activeValues a (etyBits t)
    let r := extreme t mx (vs.map (·.2))
    elementFlags r.2 0
    writeFirst d.toNat (etyBits t) r.1))

def execVpRmax (d a : Reg) := finish (reduceExt (.vpRmax d a) true d a)
def execVpRmin (d a : Reg) := finish (reduceExt (.vpRmin d a) false d a)

/-! ### ext and ins (R114, R178) -/

/-- The element index of ext and ins, from the captured scalar (R178). -/
def vpIndex (b : Reg) : M Nat := do
  let i ← rv b
  let c ← sc
  if c.vlc ≤ i.toNat then raise cBOUNDS i
  else
    sound [b]
    pure i.toNat

/-- An element as the 64 bits that go to q1: sign-extended for In types (R178). -/
def extWord (t : ETy) (v : Nat) : Word := if etyIsInt t && etySigned t then BitVec.ofInt 64 (intVal t v) else w64 v

/-- `vp.ext` (R178). -/
def execVpExt (a b : Reg) := finish (vecInstr (.vpExt a b)
  (vpCheck (.vpExt a b) etyMove none [a] (do let _ ← vpIndex b; pure ())) noDraws (do
    let c ← sc
    let t := (etyOfCode (modeETA c.md)).getD .i32
    let k := (c.reg b).toNat
    waitSources [(a.toNat, modeGRP c.md)]
    let s ← get
    match rdE s.cur a.toNat (etyBits t) k with
    | .error r => vPoison r 0
    | .ok v => modCur (fun x => { x with q1 := x.q1 ++ [extWord t v] })))

/-- `vp.ins` (R178). -/
def execVpIns (d b : Reg) := finish (vecInstr (.vpIns d b)
  (vpCheck (.vpIns d b) etyMove (some d) [] (do let _ ← vpIndex b; pure ())) noDraws (do
    let wg ← vpWidth
    let c ← sc
    let s ← get
    match s.cur.q0 with
    | [] => block
    | x :: r =>
      if s.cur.headPoison 0 then raiseAt cPOISON 0 0 0
      else modCur (fun y => ({ y with q0 := r, poison := popMarks y.poison 0 }).setElt d.toNat wg.1 (c.reg b).toNat x.toNat)))

/-! ### vl (R156) -/

/-- `vl.set` (R156). -/
def execVlSet (d a : Reg) := finish (do
  let v ← rd a
  ready d
  let s ← get
  let n := min v.toNat s.cur.vlg
  modSc (fun c => { c with vlc := n })
  wr d (w64 n)
  pure .adv)

/-- `vl.get` (R156). -/
def execVlGet (d : Reg) := finish (do
  ready d
  let c ← sc
  wr d (w64 c.vlc)
  pure .adv)

end Sys2Proof.Machine
end

