-- ==== Sys2Proof/Machine/VecMem.lean ====
section
/-! DEFINITION. Vector memory: vld and vst, and the strip ring (R180 to R186, R238 to R242, R386, R396). -/

namespace Sys2Proof.Machine

/-! ### vld and vst (R238 to R242) -/

/-- A vector load (R387). -/
def accVld : Acc := ⟨4, true, false⟩
/-- A vector store. -/
def accVst : Acc := ⟨5, false, true⟩

/-- The address mode of a vector memory form: unit, by a scalar stride, or by a vector of indices (R239). -/
inductive VMode where
  | u
  | s (b : Reg)
  | x (b : Reg)
deriving DecidableEq, Repr

/-- The address of element e, of w bits (R239). -/
def elemAddr (y : Strand) (a : Reg) (m : VMode) (w e : Nat) : Word :=
  let base := y.sc.reg a
  match m with
  | .u => base + w64 (e * (w / 8))
  | .s b => base + w64 e * y.sc.reg b
  | .x b =>
    let k := y.elt b.toNat w e
    base + (if 2 ^ (w - 1) ≤ k then w64 (k + (2 ^ 64 - 2 ^ w)) else w64 k)

/-- The scalar registers of an address. -/
def addrRegs (a : Reg) (m : VMode) : List Reg := match m with | .s b => [a, b] | _ => [a]

/-- POISON of what the address of element e is made of; it stands behind the causes of the access (R50, R166). -/
def addrSound (y : Strand) (a : Reg) (m : VMode) (w e : Nat) : M Unit := do
  soundAt (addrRegs a m) e
  match m with
  | .x b =>
    match rdE y b.toNat w e with
    | .error r => vPoison r e
    | .ok _ => pure ()
  | _ => pure ()

/-- The elements from RSTIX up that an instruction of guard and VLC works on. -/
def Strand.working (x : Strand) : List Nat :=
  (List.range x.sc.vlc).filter (fun e => decide (x.rstix.toNat ≤ e) && (x.guardPoison e || x.active e))

/-- Scalar operands of an instruction that has no element to work on are read all the same (R157). -/
def soundIdle (rs : List Reg) : M Unit := do
  let s ← get
  if s.cur.working.isEmpty then soundAt rs 0 else pure ()

/-- The checks of a vector memory form. -/
def vmemCheck (i : Instr) (d a : Reg) (m : VMode) (st : Bool) : M Unit := do
  let t ← needETA i etyMove
  let w := etyBits t
  vGroups i w ([⟨d.toNat, w, !st, false⟩] ++ (match m with | .x b => [⟨b.toNat, w, false, false⟩] | _ => []))
  (addrRegs a m).forM ready

/-- One active element of a load: its bytes, or none for a probe that finds no resident page (R241, R242). `chk` tests what its address
is made of. -/
def loadElt (addr : Word) (n e : Nat) (probe : Bool) (chk : M Unit) : M (Option (List Byte)) := do
  let s ← get
  let r := s.segs addr n accVld
  match r.1 with
  | .error f =>
    if probe && f.nonres then do
      chk
      pure none
    else throw (r.2.failStop f accVld e)
  | .ok gs =>
    set r.2
    turnCheck gs e
    chk
    let c ← sc
    let bs ← gs.mapM (fun g => do
      let t ← get
      match (readSeg (modePOL c.md) g).run t with
      | .ok b u => do
        set u
        pure b
      | .error (.trap k) _ => throw (.trap { k with rst := e })
      | .error k _ => throw k)
    pure (some bs.flatten)

/-- One element of a load whose checks were made before: its pieces are read (R240). DESIGN CHOICE (log 77): an error found in them since
marks the words of the element poisoned, for the instruction cannot trap any more. -/
def loadPassed (d w : Nat) (v : VElem) : M Unit := do
  let c ← sc
  let bs ← v.gs.mapM (readSegB (modePOL c.md))
  let all := bs.flatten
  modCur (fun y =>
    let z := y.setElt d w v.e (leNat (all.map (·.1)))
    let p := z.place d w v.e
    if all.any (·.2) then { z with poison := (wordsOf p.2 w).map (fun k => ⟨1, p.1, k⟩) ++ z.poison } else z)

/-- A vector load (R239, R241, R242); `probe` is the PB bit. -/
def vldForm (i : Instr) (d a : Reg) (m : VMode) (probe : Bool) : M Done :=
  vecInstr i
    (do
      vmemCheck i d a m false
      if probe then freeMask i 7 else pure ())
    noDraws
    (do
      let wg ← vpWidth
      waitSources (match m with | .x b => [(b.toNat, wg.2)] | _ => [])
      unfenced true false
      behindAt
      soundIdle (addrRegs a m)
      let q ← get
      let ready_ := (q.headEntry.bind (·.passed)).getD []
      forElements
        (fun x e => do
          let v ← (match ready_.find? (fun v => v.e == e) with
            | some v =>
              if v.gs.isEmpty then pure none
              else do
                loadPassed d.toNat wg.1 v
                pure (some none)
            | none => do
              let v ← loadElt (elemAddr x a m wg.1 e) (wg.1 / 8) e probe (addrSound x a m wg.1 e)
              pure (v.map some))
          match v with
          | some bs =>
            match bs with
            | some bs => modCur (fun y => y.setElt d.toNat wg.1 e (leNat bs))
            | none => pure ()
            if probe then modCur (fun y => y.setMaskBit 7 e false) else pure ()
          | none =>
            modCur (fun y => (y.setElt d.toNat wg.1 e 0).setMaskBit 7 e true)
            modSc (fun c => { c with nr := true }))
        (fun e => do
          idleElt d.toNat wg.1 e
          let c ← sc
          if probe && modeZM c.md then modCur (fun y => y.setMaskBit 7 e false) else pure ()))

/-- Checks one element of a store and reads its data (R50, R241). -/
def storeElt (x : Strand) (d a : Reg) (m : VMode) (w e : Nat) : M VElem := do
  let gs ← segsM (elemAddr x a m w e) (w / 8) accVst e
  addrSound x a m w e
  match rdE x d.toNat w e with
  | .error r => vPoison r e
  | .ok v => pure ⟨e, gs, leBytes (w / 8) v⟩

/-- Checks the elements of a store in increasing order up to the first that fails: those that passed, and the failure. -/
def checkElts (f : Nat → M VElem) : List Nat → List VElem → M (List VElem × Option (Nat × Stop))
  | [], acc => pure (acc.reverse, none)
  | e :: r, acc => do
    let s ← get
    match (f e).run s with
    | .ok v t => do
      set t
      checkElts f r (v :: acc)
    | .error k _ => pure (acc.reverse, some (e, k))

/-- Elements above a failing one that EO = 0 allows to be performed: a free choice for each whose checks pass (R396). -/
def spillElts (f : Nat → M VElem) : List Nat → List VElem → M (List VElem)
  | [], acc => pure acc.reverse
  | e :: r, acc => do
    let s ← get
    set { s with freeCtr := s.freeCtr + 1 }
    if Config.freeBool s.freeCtr then
      match (f e).run { s with freeCtr := s.freeCtr + 1 } with
      | .ok v t => do
        set t
        spillElts f r (v :: acc)
      | .error _ _ => spillElts f r acc
    else spillElts f r acc

/-- The bytes an element writes, by key; mirror pieces apart. -/
def VElem.cells (v : VElem) : List (Nat × Byte) :=
  (cutBytes v.gs v.bs).flatMap (fun p => if p.1.mir then [] else p.2.zipIdx.map (fun b => (p.1.key + b.2, b.1)))

/-- Two elements of the list write one byte. -/
def overlaps (vs : List VElem) : Bool :=
  let ks := vs.map (fun v => (v.cells).map (·.1))
  ks.zipIdx.any (fun p => ks.zipIdx.any (fun q => decide (p.2 < q.2) && p.1.any (fun k => q.1.contains k)))

/-- Performs the elements of a store: with EO = 1 in increasing order; with EO = 0 the order of elements that share a
byte is a free choice (R239, R240). What it may wait for it waits for before the first. -/
def performElts (eo : Bool) (pol : Nat) (vs : List VElem) : M Unit := do
  behindAt
  clearOfStrips (vs.flatMap (·.gs))
  platform (mirrorSize (vs.flatMap (·.gs)))
  modify (fun s => vs.foldl (fun (s : State) v => s.setDirty v.gs) s)
  let one (v : VElem) : M Unit := storeSegs v.gs v.bs pol
  if eo || !overlaps vs then vs.forM one
  else
    let s ← get
    set { s with freeCtr := s.freeCtr + 1 }
    vs.forM one
    -- an earlier element's byte may be the one that stays
    (vs.reverse).forM (fun v => do
      let t ← get
      set { t with freeCtr := t.freeCtr + 1 }
      if Config.freeBool t.freeCtr then one v else pure ())

/-- A store whose elements are given: checks, the scatter of D, the accesses, and the trap at the lowest failing element
(R241, R386, R396). -/
def storeAll (eo : Bool) (pol : Nat) (es : List Nat) (f : Nat → M VElem) : M Unit := do
  let r ← checkElts f es []
  match r.2 with
  | none => performElts eo pol r.1
  | some (e, k) =>
    let more ← if eo then pure [] else spillElts f (es.filter (fun j => decide (e < j))) []
    performElts eo pol (r.1 ++ more)
    throw k

/-- A vector store (R239 to R241). -/
def vstForm (i : Instr) (d a : Reg) (m : VMode) (eo : Bool) : M Done :=
  vecInstr i (vmemCheck i d a m true) noDraws (do
    let wg ← vpWidth
    waitSources ((d.toNat, wg.2) :: (match m with | .x b => [(b.toNat, wg.2)] | _ => []))
    unfenced false true
    readGuard
    let s ← get
    let x := s.cur
    match s.headEntry.bind (·.passed) with
    | some vs => performElts eo (modePOL x.sc.md) vs
    | none =>
      soundIdle (addrRegs a m)
      storeAll eo (modePOL x.sc.md) x.working (fun e =>
        if x.guardPoison e then raiseAt cPOISON (w64 (modeG x.sc.md)) 0 e else storeElt x d a m wg.1 e))

def execVldU (d a : Reg) (eo ov p : Bool) := finishK 4 false (vldForm (.vldU d a eo ov p) d a .u p)
def execVldS (d a b : Reg) (eo ov p : Bool) := finishK 4 false (vldForm (.vldS d a b eo ov p) d a (.s b) p)
def execVldX (d a b : Reg) (eo ov p : Bool) := finishK 4 false (vldForm (.vldX d a b eo ov p) d a (.x b) p)
def execVstU (d a : Reg) (eo ov : Bool) := finishK 5 true (vstForm (.vstU d a eo ov) d a .u eo)
def execVstS (d a b : Reg) (eo ov : Bool) := finishK 5 true (vstForm (.vstS d a b eo ov) d a (.s b) eo)
def execVstX (d a b : Reg) (eo ov : Bool) := finishK 5 true (vstForm (.vstX d a b eo ov) d a (.x b) eo)

/-! ### Instructions whose checks are made ahead (R240) -/

/-- A vector load or store with OV = 1: its registers, whether it stores, and its PB bit. -/
def overtaken (i : Instr) : Option (Reg × Reg × VMode × Bool × Bool) :=
  match i with
  | .vstU d a _ true => some (d, a, .u, true, false)
  | .vstS d a b _ true => some (d, a, .s b, true, false)
  | .vstX d a b _ true => some (d, a, .x b, true, false)
  | .vldU d a _ true p => some (d, a, .u, false, p)
  | .vldS d a b _ true p => some (d, a, .s b, false, p)
  | .vldX d a b _ true p => some (d, a, .x b, false, p)
  | _ => none

/-- The checks of one element of a load: its pieces, none for a probe that finds no resident page. No byte of them is poisoned. -/
def checkLoad (x : Strand) (a : Reg) (m : VMode) (w e : Nat) (probe : Bool) : M VElem := do
  let s ← get
  match (s.segs (elemAddr x a m w e) (w / 8) accVld).1 with
  | .error f =>
    addrSound x a m w e
    if probe && f.nonres then pure ⟨e, [], []⟩ else throw (s.failStop f accVld e)
  | .ok gs =>
    turnCheck gs e
    addrSound x a m w e
    let _ ← gs.mapM (readSeg 0)
    set s
    pure ⟨e, gs, []⟩

/-- The head of the vector stream, a load or a store with OV = 1, makes its checks before it is performed: when none fails, younger
scalar stores and atomics may overtake it (R224, R240, R394). -/
def State.precheck (s : State) : State :=
  match s.cur.vq with
  | [] => s
  | e :: _ =>
    match overtaken e.instr with
    | none => s
    | some (d, a, m, st, probe) =>
      let go : M (List VElem × Option (Nat × Stop)) := do
        let wg ← vpWidth
        waitSources ((if st then [(d.toNat, wg.2)] else []) ++ (match m with | .x b => [(b.toNat, wg.2)] | _ => []))
        soundIdle (addrRegs a m)
        let t ← get
        let x := t.cur
        checkElts (fun k =>
          if x.guardPoison k then raise cPOISON 0
          else if st then storeElt x d a m wg.1 k else checkLoad x a m wg.1 k probe) x.working []
      match go.run (s.enterStream 1) with
      | .ok (vs, none) _ => s.modCur (fun x => { x with vq := x.vq.map (fun k => if k.seq = e.seq then { k with passed := some vs } else k) })
      | _ => s

/-! ### The strip ring (R180 to R185) -/

/-- A strip load (R387). -/
def accStrip : Acc := ⟨7, true, false⟩

/-- Changes the ring. -/
def modRing (f : Ring → Ring) : M Unit := modCur (fun x => { x with ring := x.ring.map f })

/-- A ring as it is declared (R181): its buffers read as zero until a strip has been loaded (R184). -/
def Ring.declare (f c g seq : Nat) : Ring :=
  { f := f, c := c, g := g, bufs := List.replicate c .free, fp := 0, tp := 0, order := [], strips := [],
    data := List.replicate (c * g) 0, bad := [], seq := seq, stop := 0 }

/-- Another ring, or none, takes the place of the strand's ring (R181). While older instructions are queued the closed one's buffers
stay apart and the change can be taken back (R163, R394). -/
def Strand.changeRing (x : Strand) (r : Option Ring) : Strand :=
  if x.vq.isEmpty && x.mq.isEmpty then { x.ring.elim x (fun k => x.openUp { k with stop := x.seqNo }) with ring := r }
  else { x with
    ring := r, qlog := ⟨x.seqNo, 5, none, x.ring⟩ :: x.qlog,
    closed := (x.ring.map (fun k => { k with stop := x.seqNo })).toList ++ x.closed }

/-- `vb.decl` (R181): applied once every older `vb` instruction has completed. DESIGN CHOICE (log 79): the bytes of a strip that are
still on their way when the ring goes never arrive; a `vb.ld` completes before they do (R182). -/
def execVbDecl (d a : Reg) := finish (do
  let s ← get
  if s.cur.vq.any (fun e => match e.instr with | .vbTake _ | .vbFree _ => true | _ => false) then block
  else
    let c ← rv a
    let g := modeGRP s.cur.sc.md
    if 8 < c.toNat then raise cBOUNDS c
    else if c ≠ 0 ∧ (d.toNat % g ≠ 0 ∨ 32 < d.toNat + c.toNat * g) then modeIllegal (.vbDecl d a) 16
    else
      sound [a]
      modCur (fun x => x.changeRing (if c = 0 then none else some (Ring.declare d.toNat c.toNat g x.seqNo)))
      pure .adv)

/-- `vb.ld` (R182): the checks of every page and of every byte's marks are made now, behind the older stores of its grains (R224, R226);
the bytes are read later, behind the older fences (R123). -/
def execVbLd (a b : Reg) := finishK 7 false (do
  let s ← get
  match s.cur.ring with
  | none => wordIllegal (.vbLd a b)
  | some r =>
    let base ← rv a
    let t ← rv b
    match r.buf r.fp with
    | .free =>
      let n := 4 * r.g
      let stride := if t = 0 then w64 n else t
      let els ← segsAll ((List.range s.cur.sc.vlc).map (fun e => (base + w64 e * stride, n))) accStrip 0
      behindStores (fun _ => true) els.flatten
      turnCheck els.flatten 0
      sound [a, b]
      let strip : Strip := ⟨r.fp, els, modePOL s.cur.sc.md, s.cur.seqNo, none⟩
      logQ 4 none
      modRing (fun r => { r with bufs := r.bufs.set r.fp .filling, fp := (r.fp + 1) % r.c, strips := r.strips ++ [strip] })
      pure .adv
    | .filling => block
    | _ => waitStream none)

/-- The bytes of a strip's element positions as the inbound path holds them now. -/
def stripBytes (t : Strip) : M (List (List (Byte × Bool))) :=
  t.els.mapM (fun gs => do
    let bs ← gs.mapM (readSegB t.pol)
    pure bs.flatten)

/-- An instruction that an older place in program order still waits in may read the ring's registers. -/
def Strand.readsOlder (x : Strand) (r : Ring) (seq : Nat) : Bool :=
  let reader (e : Entry) : Bool := decide (r.seq ≤ e.seq) && decide (e.seq < seq) &&
    (match e.instr with | .vbTake _ | .vbFree _ | .vpIns _ _ | .mxZero _ => false | _ => true)
  x.vq.any reader || x.mq.any reader

/-- Strips that have arrived enter their buffers' registers once no older instruction reads them, in order. -/
def Strand.foldStrips (x : Strand) : Strand :=
  match x.ring with
  | none => x
  | some r => { x with ring := some (r.strips.foldl (fun (q : Ring) t =>
      match t.got with
      | some els =>
        if q.strips.any (fun u => u.buf == t.buf && decide (u.seq < t.seq)) || x.readsOlder r t.seq then q
        else { q.install (32 * x.vlg) t.buf els with strips := q.strips.filter (fun u => u != t) }
      | none => q) r) }

/-- A strip arrives and its buffer becomes FILLED (R182): each byte as the inbound path holds it now. -/
def State.fillStrip (s : State) (t : Strip) : State :=
  match (stripBytes t).run s with
  | .error _ u => u
  | .ok els u =>
    let young (e : Entry) : Entry := if t.seq ≤ e.seq then { e with snap := addCounts s.cur.sc u.cur.sc e.snap } else e
    u.modCur (fun x => ({ x with
      vq := x.vq.map young, mq := x.mq.map young,
      ring := x.ring.map (fun (r : Ring) => ({ r with
        bufs := r.bufs.set t.buf BufSt.filled,
        strips := r.strips.map (fun (y : Strip) => if y = t then { y with got := some els } else y) } : Ring)) } : Strand).foldStrips)

/-- The strip on its way to a buffer of the current strand arrives; not before what an older fence names (R123). -/
def State.stripHere (s : State) (buf : Nat) : State :=
  match s.cur.strips.find? (fun (t : Strip) => t.buf == buf) with
  | some t =>
    if s.cur.fences.any (fun f => f.1 == 1 && decide (f.2 ≤ t.seq) &&
        (s.cur.vq.any (fun e => decide (e.seq < f.2) && loadsMem e.instr) || s.cur.mq.any (fun e => decide (e.seq < f.2) && loadsMem e.instr))) then s
    else s.fillStrip t
  | none => s

/-- STRIP_FILLED: the strip on its way to a buffer of a strand arrives (R182). -/
def execStripFilled (uid buf : Nat) := event (fun s => s.as uid (fun s => s.stripHere buf))

/-- Buffer b's registers become the group from register `dst`, poison with them (R183). -/
def Strand.takeGroup (x : Strand) (r : Ring) (b dst : Nat) : Strand :=
  let src := r.f + b * r.g
  let y := (List.range r.g).foldl (fun (y : Strand) k => y.setVreg (dst + k) (r.data.getD (b * r.g + k) 0)) x
  let moved := (r.bad.filter (fun k => decide (src ≤ k.1) && decide (k.1 < src + r.g))).map (fun k => PoisonMark.mk 1 (k.1 - src + dst) k.2)
  { y with poison := moved ++ y.poison.filter (fun k => !(k.kind == 1 && decide (dst ≤ k.reg) && decide (k.reg < dst + r.g))) }

/-- `vb.take` (R183): the checks that need no buffer are made when it is passed. DESIGN CHOICE (log 79): with VLC = 0 it still acts, as
`vb.free` does; R164 does not list them, R183 gives them no condition on VLC, and they do no element work. -/
def execVbTake (d : Reg) := finish (vecInstr (.vbTake d)
  (do
    let s ← get
    let g := modeGRP s.cur.sc.md
    if 1 < g ∧ d.toNat % g ≠ 0 ∨ 32 < d.toNat + g then modeIllegal (.vbTake d) 16
    else
      match s.cur.ring with
      | none => wordIllegal (.vbTake d)
      | some r => if g ≠ r.g ∨ r.meets d.toNat g then wordIllegal (.vbTake d) else pure ())
  noDraws
  (do
    let s ← get
    match s.cur.ring with
    | none => wordIllegal (.vbTake d)
    | some r =>
      match r.buf r.tp with
      | .bound _ => wordIllegal (.vbTake d)
      | .filled =>
        modCur (fun x => x.takeGroup (r.seen (32 * x.vlg) x.seqNo) r.tp d.toNat)
        modRing (fun r => { r with bufs := r.bufs.set r.tp (.bound d.toNat), tp := (r.tp + 1) % r.c, order := r.order ++ [r.tp] })
      | _ => block))

/-- `vb.free` (R183), with VLC = 0 too (log 79). -/
def execVbFree (d : Reg) := finish (vecInstr (.vbFree d)
  (do
    let s ← get
    let g := modeGRP s.cur.sc.md
    if 1 < g ∧ d.toNat % g ≠ 0 ∨ 32 < d.toNat + g then modeIllegal (.vbFree d) 16 else pure ())
  noDraws
  (do
    let s ← get
    match s.cur.ring with
    | none => wordIllegal (.vbFree d)
    | some r =>
      match r.order with
      | [] => wordIllegal (.vbFree d)
      | b :: rest =>
        if r.buf b = .bound d.toNat ∧ modeGRP s.cur.sc.md = r.g then modRing (fun r => { r with bufs := r.bufs.set b .free, order := rest })
        else wordIllegal (.vbFree d)))

end Sys2Proof.Machine
end

