-- ==== Sys2Proof/Machine/Fetch.lean ====
section
/-! DEFINITION. Fetching instruction words (R89, R92) and vector-fetch blocks (R19, R187 to R191). -/

namespace Sys2Proof.Machine

/-- An instruction fetch (R387): X and U are checked, un-turned data is not. DESIGN CHOICE (log 34): a private page of another core
raises nothing, for R92 names only PAGE_NP and PAGE_PROT and R231 speaks of loads and stores. -/
def accFetch : Acc := ⟨0, false, false⟩

/-- The word at an address, fetched through the inbound path as a load is (R92). A poisoned word is fetched as it
stands. DESIGN CHOICE (log 90): a fetch allocates in the stages as an access of POL 0 does; R46 leaves it out of what reads MODE.POL, and
R292 names no policy for it. -/
def fetchWord (va : Word) : M IWord := do
  let gs ← segsM va 4 accFetch 0
  let bs ← gs.mapM (readSeg 0)
  pure (BitVec.ofNat 32 (leNat bs.flatten))

/-! ### The scan of a block (R19) -/

/-- What a block word may be: `some true` ends the block, `some false` stands within it, `none` is refused (R19). -/
def blockWord (i : Instr) : Option Bool :=
  match i with
  | .vfEnd => some true
  | .iaAdd _ _ _ | .iaSub _ _ _ | .iaMul _ _ _ | .iaMulh _ _ _ | .iaMulhu _ _ _ | .iaDiv _ _ _ | .iaDivu _ _ _
  | .iaRem _ _ _ | .iaRemu _ _ _ | .iaAnd _ _ _ | .iaOr _ _ _ | .iaXor _ _ _ | .iaAndn _ _ _ | .iaShl _ _ _
  | .iaShr _ _ _ | .iaSra _ _ _ | .iaRol _ _ _ | .iaSlt _ _ _ | .iaSltu _ _ _ | .iaMin _ _ _ | .iaMax _ _ _
  | .iaMinu _ _ _ | .iaMaxu _ _ _ | .iaClz _ _ | .iaCtz _ _ | .iaPopc _ _ | .iaSext _ _ _ | .iaZext _ _ _
  | .iiAdd _ _ _ | .iiAnd _ _ _ | .iiOr _ _ _ | .iiXor _ _ _ | .iiSlt _ _ _ | .iiSltu _ _ _ | .iiShl _ _ _
  | .iiShr _ _ _ | .iiSra _ _ _ | .luHi _ _ | .brEq _ _ _ | .brNe _ _ _ | .brLt _ _ _ | .brGe _ _ _ | .brLtu _ _ _
  | .brGeu _ _ _ | .fsAdd _ _ _ | .fsSub _ _ _ | .fsMul _ _ _ | .fsDiv _ _ _ | .fsSqrt _ _ | .fsFma _ _ _
  | .fsMin _ _ _ | .fsMax _ _ _ | .fsEq _ _ _ | .fsLt _ _ _ | .fsLe _ _ _ | .fsCvti _ _ | .fsCvtf _ _ | .fsCls _ _
  | .fsCvt _ _ | .ldB _ _ _ | .ldBu _ _ _ | .ldH _ _ _ | .ldHu _ _ _ | .ldW _ _ _ | .ldWu _ _ _ | .ldD _ _ _
  | .stB _ _ _ | .stH _ _ _ | .stW _ _ _ | .stD _ _ _ => some false
  | _ => none

/-- The meaning of a block word. -/
def blockM (i : Instr) : M Done :=
  match i with
  | .iaAdd d a b => mIaAdd d a b
  | .iaSub d a b => mIaSub d a b
  | .iaMul d a b => mIaMul d a b
  | .iaMulh d a b => mIaMulh d a b
  | .iaMulhu d a b => mIaMulhu d a b
  | .iaDiv d a b => mIaDiv d a b
  | .iaDivu d a b => mIaDivu d a b
  | .iaRem d a b => mIaRem d a b
  | .iaRemu d a b => mIaRemu d a b
  | .iaAnd d a b => mIaAnd d a b
  | .iaOr d a b => mIaOr d a b
  | .iaXor d a b => mIaXor d a b
  | .iaAndn d a b => mIaAndn d a b
  | .iaShl d a b => mIaShl d a b
  | .iaShr d a b => mIaShr d a b
  | .iaSra d a b => mIaSra d a b
  | .iaRol d a b => mIaRol d a b
  | .iaSlt d a b => mIaSlt d a b
  | .iaSltu d a b => mIaSltu d a b
  | .iaMin d a b => mIaMin d a b
  | .iaMax d a b => mIaMax d a b
  | .iaMinu d a b => mIaMinu d a b
  | .iaMaxu d a b => mIaMaxu d a b
  | .iaClz d a => mIaClz d a
  | .iaCtz d a => mIaCtz d a
  | .iaPopc d a => mIaPopc d a
  | .iaSext d a w => mIaSext d a w
  | .iaZext d a w => mIaZext d a w
  | .iiAdd d a v => mIiAdd d a v
  | .iiAnd d a v => mIiAnd d a v
  | .iiOr d a v => mIiOr d a v
  | .iiXor d a v => mIiXor d a v
  | .iiSlt d a v => mIiSlt d a v
  | .iiSltu d a v => mIiSltu d a v
  | .iiShl d a h => mIiShl d a h
  | .iiShr d a h => mIiShr d a h
  | .iiSra d a h => mIiSra d a h
  | .luHi d v => mLuHi d v
  | .brEq a b o => mBrEq a b o
  | .brNe a b o => mBrNe a b o
  | .brLt a b o => mBrLt a b o
  | .brGe a b o => mBrGe a b o
  | .brLtu a b o => mBrLtu a b o
  | .brGeu a b o => mBrGeu a b o
  | .fsAdd d a b => mFsAdd d a b
  | .fsSub d a b => mFsSub d a b
  | .fsMul d a b => mFsMul d a b
  | .fsDiv d a b => mFsDiv d a b
  | .fsSqrt d a => mFsSqrt d a
  | .fsFma d a b => mFsFma d a b
  | .fsMin d a b => mFsMin d a b
  | .fsMax d a b => mFsMax d a b
  | .fsEq d a b => mFsEq d a b
  | .fsLt d a b => mFsLt d a b
  | .fsLe d a b => mFsLe d a b
  | .fsCvti d a => mFsCvti d a
  | .fsCvtf d a => mFsCvtf d a
  | .fsCls d a => mFsCls d a
  | .fsCvt d a => mFsCvt d a
  | .ldB d a o => mLdB d a o
  | .ldBu d a o => mLdBu d a o
  | .ldH d a o => mLdH d a o
  | .ldHu d a o => mLdHu d a o
  | .ldW d a o => mLdW d a o
  | .ldWu d a o => mLdWu d a o
  | .ldD d a o => mLdD d a o
  | .stB d a o => mStB d a o
  | .stH d a o => mStH d a o
  | .stW d a o => mStW d a o
  | .stD d a o => mStD d a o
  | _ => wordIllegal i

/-- A floating-point word. -/
def isFsWord (i : Instr) : Bool :=
  match i with
  | .fsAdd _ _ _ | .fsSub _ _ _ | .fsMul _ _ _ | .fsDiv _ _ _ | .fsSqrt _ _ | .fsFma _ _ _ | .fsMin _ _ _ | .fsMax _ _ _
  | .fsEq _ _ _ | .fsLt _ _ _ | .fsLe _ _ _ | .fsCvti _ _ | .fsCvtf _ _ | .fsCls _ _ | .fsCvt _ _ => true
  | _ => false

/-- The register numbers that a block word names in D, A and B (R187). -/
def blockRegs (i : Instr) : List Nat :=
  match i with
  | .iaAdd d a b | .iaSub d a b | .iaMul d a b | .iaMulh d a b | .iaMulhu d a b | .iaDiv d a b | .iaDivu d a b
  | .iaRem d a b | .iaRemu d a b | .iaAnd d a b | .iaOr d a b | .iaXor d a b | .iaAndn d a b | .iaShl d a b
  | .iaShr d a b | .iaSra d a b | .iaRol d a b | .iaSlt d a b | .iaSltu d a b | .iaMin d a b | .iaMax d a b
  | .iaMinu d a b | .iaMaxu d a b | .fsAdd d a b | .fsSub d a b | .fsMul d a b | .fsDiv d a b | .fsFma d a b
  | .fsMin d a b | .fsMax d a b | .fsEq d a b | .fsLt d a b | .fsLe d a b => [d.toNat, a.toNat, b.toNat]
  | .iaClz d a | .iaCtz d a | .iaPopc d a | .fsSqrt d a | .fsCvti d a | .fsCvtf d a | .fsCls d a | .fsCvt d a =>
    [d.toNat, a.toNat]
  | .iaSext d a _ | .iaZext d a _ => [d.toNat, a.toNat]
  | .iiAdd d a _ | .iiAnd d a _ | .iiOr d a _ | .iiXor d a _ | .iiSlt d a _ | .iiSltu d a _ => [d.toNat, a.toNat]
  | .iiShl d a _ | .iiShr d a _ | .iiSra d a _ => [d.toNat, a.toNat]
  | .luHi d _ => [d.toNat]
  | .brEq a b _ | .brNe a b _ | .brLt a b _ | .brGe a b _ | .brLtu a b _ | .brGeu a b _ => [a.toNat, b.toNat]
  | .ldB d a _ | .ldBu d a _ | .ldH d a _ | .ldHu d a _ | .ldW d a _ | .ldWu d a _ | .ldD d a _ => [d.toNat, a.toNat]
  | .stB d a _ | .stH d a _ | .stW d a _ | .stD d a _ => [d.toNat, a.toNat]
  | _ => []

/-- The words of the block from an address, up to and with its `vf.end` (R19): `fuel` words are left, `acc` holds those
read. -/
def scanBlock (va : Word) : Nat → List IWord → M (List IWord)
  | 0, _ => raise cILLEGAL va
  | fuel + 1, acc => do
    let w ← fetchWord va
    match decode w with
    | .ok i =>
      match blockWord i with
      | some true => pure (w :: acc).reverse
      | some false => scanBlock (va + 4) fuel (w :: acc)
      | none => raise cILLEGAL va
    | .error _ => raise cILLEGAL va

/-- The index of the first word that names an odd register (R187). -/
def oddAt (is : List Instr) : Option Nat :=
  (is.zipIdx.find? (fun p => (blockRegs p.1).any (fun r => r % 2 == 1))).map (·.2)

/-! ### vf.go (R187 to R190) -/

/-- Leaves a stream's head without ending it: what its words have added so far joins the front end's state and the younger
captured states, and the head keeps it. -/
def State.pauseStream (s : State) : State :=
  match s.headEntry, s.cur.saved with
  | some e, some c =>
    let f := carry e.snap s.cur.sc none
    s.modCur (fun x => { x with
      sc := f c, saved := none, inStream := 0,
      vq := x.vq.map (fun k => if e.seq < k.seq then { k with snap := f k.snap }
        else if e.seq = k.seq then { k with snap := x.sc } else k),
      mq := x.mq.map (fun k => if e.seq < k.seq then { k with snap := f k.snap } else k) })
  | _, _ => s

/-- The next active element from e up, under the guard as the block read it. -/
def nextActive (c : Scalar) (k : BitVec 512) (e : Nat) : Option Nat :=
  (List.range c.vlc).find? (fun i => decide (e ≤ i) && activeIn c.md k c.vlc i)

/-- Element e of a block begins: its slots, FLAGS and the poison marks are kept (R190). -/
def Strand.beginElement (x : Strand) (base : Word) (ws : List IWord) (e : Nat) (guard : BitVec 512) : Strand :=
  { x with vf := some ⟨base, ws, e, base, pairRegs.map (fun k => x.slot k e), x.sc.flags, x.poison, guard⟩ }

/-- The block ends: inactive elements of every destination pair are zeroed under ZM (R187), and RSTIX is 0. -/
def Strand.endBlock (x : Strand) (ws : List IWord) (guard : BitVec 512) : Strand :=
  let ds := ((blockInstrs ws).filterMap blockDest).map (·.toNat) |>.eraseDups
  let y :=
    if modeZM x.sc.md then
      (List.range x.sc.vlc).foldl (fun (y : Strand) e =>
        if activeIn x.sc.md guard x.sc.vlc e then y
        else ds.foldl (fun (y : Strand) k => if k = 0 then y else y.setSlot k e 0) y) x
    else x
  { y with vf := none, rstix := 0 }

/-- The registers of element e as the scalar registers of a block word (R188). -/
def Strand.slotRegs (x : Strand) (e : Nat) : Vector Word 32 :=
  pairRegs.foldl (fun (v : Vector Word 32) k => if h : k < 32 then v.set k (x.slot k e) h else v) (Vector.replicate 32 0)

/-- The poisoned pairs of element e as poisoned scalar registers. -/
def Strand.slotPoison (x : Strand) (e : Nat) : List PoisonMark :=
  pairRegs.filterMap (fun k => (x.eltPoison k 64 e).map (fun _ => ⟨0, k, 0⟩))

/-- The access kind of a block word, and whether it writes: 14 for a load or a store, else none (R387, R395). -/
def blockKind (i : Instr) : Nat × Bool :=
  match i with
  | .ldB _ _ _ | .ldBu _ _ _ | .ldH _ _ _ | .ldHu _ _ _ | .ldW _ _ _ | .ldWu _ _ _ | .ldD _ _ _ => (14, false)
  | .stB _ _ _ | .stH _ _ _ | .stW _ _ _ | .stD _ _ _ => (14, true)
  | _ => (15, false)

/-- A stop of a block word, at its element (R190): a poisoned slot names the register that holds the word. -/
def atElement (i : Instr) (x : Strand) (e : Nat) (st : Stop) : Stop :=
  match st with
  | .trap t =>
    let k := blockKind i
    let u := { t with rst := e, kind := k.1, wr := k.2 }
    if t.cause = cPOISON ∧ t.einfo = 0 then
      .trap { u with eval := w64 ((x.eltPoison t.eval.toNat 64 e).getD t.eval.toNat), einfo := 1 }
    else .trap u
  | .park va k w _ _ => .park va k w e true
  | .wait => .wait

/-- Runs one word of the block for the running element (R188, R189). -/
def runWord (r : VfRun) : M Unit := do
  let s ← get
  let x := s.cur
  let k := ((r.bpc - r.base) >>> 2).toNat
  let w := r.words.getD k 0
  match decode w with
  | .error _ => raiseAt cILLEGAL (w.zeroExtend 64) 0 r.e
  | .ok i =>
    let tmp := s.modCur (fun y => { y with
      poison := x.slotPoison r.e,
      sc := { y.sc with regs := x.slotRegs r.e, pc := r.bpc, lcnt0 := 0, lcnt1 := 0 } })
    let back (t : State) : State := t.modCur (fun y => { y with
      poison := x.poison,
      sc := { y.sc with regs := x.sc.regs, pc := x.sc.pc, lcnt0 := x.sc.lcnt0, lcnt1 := x.sc.lcnt1 } })
    match (blockM i).run tmp with
    | .error .wait _ => throw .wait
    | .error st t =>
      set ((back t).modCur Strand.undoElement)
      throw (atElement i x r.e st)
    | .ok dn t =>
      let next := match dn with
        | .jump a => a
        | _ => r.bpc + 4
      let off := next - r.base
      if off.toNat % 4 ≠ 0 ∨ 4 * r.words.length ≤ off.toNat then
        set ((back t).modCur Strand.undoElement)
        raiseAt cILLEGAL (w.zeroExtend 64) 0 r.e
      else
        let u := match blockDest i with
          | some d => if d = 0 then back t else (back t).modCur (fun y => y.setSlot d.toNat r.e (t.cur.sc.reg d))
          | none => back t
        set (u.modCur (fun y => { y with vf := some { r with bpc := next } }))

/-- The block goes on with the first active element from `start` up; a poisoned guard word raises POISON at the first element that reads
it, when every one below has ended (R166, R190). -/
def nextElement (base : Word) (ws : List IWord) (g : BitVec 512) (start : Nat) : M Done := do
  let s ← get
  let c := s.cur.sc
  let bad := (List.range c.vlc).find? (fun e => decide (start ≤ e) && s.cur.guardPoison e)
  match nextActive c g start, bad with
  | some e, none =>
    modCur (fun x => x.beginElement base ws e g)
    modify State.pauseStream
    pure .stay
  | none, none =>
    modCur (fun x => x.endBlock ws g)
    streamDone
  | e, some p =>
    match e with
    | some e =>
      if e < p then
        modCur (fun x => x.beginElement base ws e g)
        modify State.pauseStream
        pure .stay
      else
        modCur (fun x => { x with vf := none })
        raiseAt cPOISON (w64 (modeG c.md)) 0 p
    | none =>
      modCur (fun x => { x with vf := none })
      raiseAt cPOISON (w64 (modeG c.md)) 0 p

/-- One step of a block at the head of the vector stream: an element begins, runs one word, or ends; the block ends after
its last element. DESIGN CHOICE (log 39): elements on different lanes may interleave (R189), and stores of elements above a faulting one
may already be performed (R190); here the elements run one after another in increasing e, and none above the faulting one has run. -/
def stepBlock (base : Word) (ws : List IWord) : M Done := do
  let s ← get
  match s.cur.vf with
  | none =>
    waitSources ((blockInstrs ws).flatMap (fun i => (blockRegs i).map (fun k => (k, 2))))
    readGuard
    let t ← get
    nextElement base ws (t.cur.mask (modeG t.cur.sc.md)) t.cur.rstix.toNat
  | some r =>
    if r.bpc = r.base + 4 * w64 (r.words.length - 1) then nextElement base ws r.guard (r.e + 1)
    else
      runWord r
      modify State.pauseStream
      pure .stay

/-- The checks of `vf.go` (R19, R45, R184, R187): the block's words. -/
def vfCheck (i : Instr) (base : Word) : M (List IWord) := do
  let ws ← scanBlock base 256 []
  let is := blockInstrs ws
  match oddAt is with
  | some k => raise cILLEGAL (base + 4 * w64 k)
  | none =>
    if is.any isFsWord then
      let _ ← needETA i etyIsArith
      let c ← sc
      if 5 ≤ modeRND c.md then modeIllegal i 12 else pure ()
    else pure ()
    let s ← get
    match s.cur.ring with
    | some r =>
      if is.any (fun j => match blockDest j with | some d => d != 0 && r.meets d.toNat 2 | none => false) then wordIllegal i
      else pure ws
    | none => pure ws

/-- `vf.go` (R187): it is scanned and queued when it is passed, and its block then runs word by word. -/
def execVfGo (o : BitVec 24) := finish (do
  let s ← get
  let base := s.cur.sc.pc + (o.signExtend 64 <<< 2)
  if s.cur.inStream = 1 then
    match s.headEntry with
    | some e => stepBlock base e.block
    | none => pure .stay
  else
    let ws ← vfCheck (.vfGo o) base
    modify (fun s => s.enqueue (.vfGo o) false 0 ws)
    pure .adv)

/-- `vf.end` outside a block (R35). -/
def execVfEnd := finish (wordIllegal .vfEnd)

end Sys2Proof.Machine
end

