-- ==== Sys2Proof/Machine/Matrix.lean ====
section
/-! DEFINITION. The matrix engine: tiles, the shape register's form, outer products and the movement of tiles
(R192 to R211). -/

namespace Sys2Proof.Machine

/-! ### Tiles (R192, R193) -/

/-- Tile k of a strand. -/
def Strand.tile (x : Strand) (k : Nat) : BitVec 131072 := if h : k < 8 then x.tiles.get ⟨k, h⟩ else 0

/-- The strand with the tiles that the executing instruction of the vector stream sees: those before the matrix instructions that are
younger and have passed it (R163, R394). -/
def Strand.tilesSeen (x : Strand) : Strand :=
  match x.mlog.find? (fun l => decide (x.at_ < l.seq)) with
  | some l => if x.inStream = 1 then { x with tiles := l.tiles, poison := l.poison ++ x.poison.filter (fun k => k.kind != 3) } else x
  | none => x

/-- tile[i][j] of tile k (R192). -/
def Strand.acc (x : Strand) (k i j : Nat) : Nat := bitsAt (x.tile k).toNat (32 * (64 * i + j)) 32

/-- A number from 32-bit words, the lowest first. -/
def natOfWords : List Nat → Nat
  | [] => 0
  | w :: r => w % 2 ^ 32 + 2 ^ 32 * natOfWords r

/-- Writes the accumulators that `hit` picks; in protected mode rows 32 to 63 mirror rows 0 to 31 (R193). Words written lose
their poison (R397). -/
def Strand.putTile (x : Strand) (k : Nat) (hit : Nat → Nat → Bool) (f : Nat → Nat → Nat) : Strand :=
  let ws := (List.range 4096).map (fun c =>
    let i := if x.sc.prot then c / 64 % 32 else c / 64
    if hit i (c % 64) then f i (c % 64) else x.acc k i (c % 64))
  if h : k < 8 then
    { x with
      tiles := x.tiles.set k (BitVec.ofNat 131072 (natOfWords ws)) h
      poison := x.poison.filter (fun p => !(p.kind == 3 && p.reg == k && hit (p.word / 64) (p.word % 64))) }
  else x

/-- tile[i][j] of tile k is marked poisoned (R209, R397). -/
def Strand.accPoison (x : Strand) (k i j : Nat) : Bool :=
  x.poison.any (fun p => p.kind == 3 && p.reg == k && p.word == 64 * i + j)

/-- The lowest poisoned accumulator of tile k that `hit` picks. -/
def Strand.tilePoison (x : Strand) (k : Nat) (hit : Nat → Nat → Bool) : Option Nat :=
  (x.poison.filter (fun p => p.kind == 3 && p.reg == k && hit (p.word / 64) (p.word % 64))).foldl
    (fun b p => some (match b with | none => p.word | some w => min w p.word)) none

/-- M, N and ACC of a captured TSHAPE (R194). -/
def Scalar.shape (c : Scalar) : Nat × Nat × Bool := (bitsOf c.tshape 6 0, bitsOf c.tshape 14 8, bitOf c.tshape 16)

/-- The accumulators of the shape's rectangle. -/
def Scalar.inShape (c : Scalar) (i j : Nat) : Bool := decide (i < c.shape.1) && decide (j < c.shape.2.1)

/-- A tile the strand does not own raises ILLEGAL (R192). -/
def needTile (i : Instr) (k : Reg) : M Unit := do
  let s ← get
  if s.cur.ntiles ≤ k.toNat then wordIllegal i else pure ()

/-- ACC_BUSY when the tile's busy bit is set (R198). -/
def checkBusy (k : Reg) : M Unit := do
  let c ← sc
  if c.busy.getLsbD k.toNat then raiseAt cACC_BUSY (w64 k.toNat) (if h : k.toNat < 8 then c.busyAddr.get ⟨k.toNat, h⟩ else 0) 0
  else pure ()

/-- POISON of an accumulator: EVAL = 0x1000 + 64i + j (R203). -/
def tileClean (k : Reg) (hit : Nat → Nat → Bool) : M Unit := do
  let s ← get
  match s.cur.tilePoison k.toNat hit with
  | some w => raiseAt cPOISON (w64 (0x1000 + w)) 1 0
  | none => pure ()

/-- The draws of a form over the shape's rectangle (R139). -/
def shapeDraws (s : State) : Nat :=
  if modeRND s.cur.sc.md = 5 then s.cur.sc.shape.1 * s.cur.sc.shape.2.1 else 0

/-- Results over the rectangle, row by row: FP_TRAP when an enabled condition was raised, else FLAGS and the tile are
written (R203, R210). -/
def writeRect (k : Reg) (rs : List (List (Nat × Flags))) : M Unit := do
  let c ← sc
  let fl := rs.foldl (fun f r => r.foldl (fun f v => f ||| v.2) f) (0 : Flags)
  let on := fl &&& c.fpen.zeroExtend 6
  if on ≠ 0 then raise cFP_TRAP (on.zeroExtend 64)
  else
    orFlags fl
    let vs := rs.map (fun r => r.map (·.1))
    modCur (fun x => x.putTile k.toNat c.inShape (fun i j => (vs.getD i []).getD j 0))

/-! ### The shape, zero and wait (R195, R207) -/

/-- `mx.shape` (R194, R195): it takes effect at the front end. -/
def execMxShape (a : Reg) := finish (do
  let v ← rv a
  let c ← sc
  if tshapeOk c.prot v then
    sound [a]
    modSc (fun c => c.writeTshape v)
    pure .adv
  else raise cBOUNDS v)

/-- `mx.zero` (R207). -/
def execMxZero (d : Reg) := finish (matInstr (.mxZero d) (needTile (.mxZero d) d) (fun c => c.setBusy d.toNat) noDraws
  (modCur (fun x => x.putTile d.toNat (fun _ _ => true) (fun _ _ => 0))))

/-- Clears a busy bit. -/
def Scalar.clearBusy (c : Scalar) (k : Nat) : Scalar := { c with busy := c.busy &&& ~~~(BitVec.ofNat 8 (2 ^ k)) }

/-- `mx.wait` (R198, R207): the bit is cleared at its place in program order. -/
def execMxWait (d : Reg) := finish (matInstr (.mxWait d) (needTile (.mxWait d) d) (fun c => c.clearBusy d.toNat) noDraws
  (pure ()))

/-! ### Operands of an outer product (R201, R202, R205, R206) -/

/-- The floating class of R201. -/
def opaFp (t : ETy) : Bool :=
  match t with
  | .n4 | .e4m3 | .e5m2 | .f16 | .bf16 | .f32 => true
  | _ => false

/-- The integer class of R201. -/
def opaInt (t : ETy) : Bool :=
  match t with
  | .i8 | .c8 | .i16 | .c16 => true
  | _ => false

/-- An ETB that R201 admits with ETA. -/
def opaPair (t u : ETy) : Bool :=
  if opaInt t then etyIsInt u && decide (etyBits u ≤ etyBits t)
  else if u = .n4 then decide (t = .n4)
  else decide (t = u) || (etyIsFp u && decide (etyBits u ≤ etyBits t))

/-- The exact value of an encoding, its N4 scale byte given. -/
def valOf (t : ETy) (scale x : Nat) : FVal :=
  if etyIsInt t then .fin (decide (intVal t x < 0)) (intVal t x).natAbs 0
  else if t = .n4 then n4Decode scale x
  else unpack t x

/-- A scratchpad operand as its register pair names it (R205). -/
structure PadOp where
  base : Nat
  rot  : Nat
  tp   : Nat
  rp   : Nat
deriving DecidableEq, Repr

/-- Reads a pair; a nonzero must-be-0 field raises BOUNDS with EVAL = the register's value (R206). -/
def padOf (n : Reg) : M PadOp := do
  let c ← sc
  let lo := c.reg n
  let hi := c.reg (n + 1)
  if bitsOf lo 63 24 ≠ 0 then raise cBOUNDS lo
  else if bitsOf hi 63 32 ≠ 0 then raise cBOUNDS hi
  else pure ⟨bitsOf lo 20 0, bitsOf lo 23 21, bitsOf hi 31 16, bitsOf hi 15 0⟩

/-- addr(r) (R205). -/
def PadOp.addr (p : PadOp) (r : Nat) : Nat :=
  let x := p.base + r % 8 * p.rp + r / 8 * p.tp
  x / 2 ^ 11 * 2 ^ 11 + (x / 64 % 32 + p.rot * (r / 8)) % 32 * 64 + x % 64

/-- The rows an operand of `n` rows and type t reads, and its scale row: offset and length (R205). -/
def PadOp.rows (p : PadOp) (n kk : Nat) (t : ETy) : List (Nat × Nat) :=
  (List.range n).map (fun r => (p.addr r, kk * etyBits t / 8)) ++ (if t = .n4 then [(p.addr 64, 16)] else [])

/-- The limits and alignment of scratchpad rows (R206). DESIGN CHOICE (log 78): the first offending offset of BOUNDS is the start addr(r) of
the first row, va's before vb's, that leaves the allotment. -/
def checkRows (rows : List (Nat × Nat)) : M Unit := do
  let s ← get
  match rows.find? (fun r => decide (s.cur.ident.alen < r.1 + r.2)) with
  | some r => raise cBOUNDS (w64 r.1)
  | none =>
    match rows.find? (fun r => r.2 != 0 && r.1 % r.2 != 0) with
    | some r => raise cMISALIGN (w64 r.1)
    | none => pure ()

/-- An element of row r of an operand is active: a row without one is not read (R162, R202). The scale row, `scale`, is read when any
element is. -/
def Strand.rowActive (x : Strand) (kk scale r : Nat) : Bool :=
  (List.range (if r = scale then scale * kk else kk)).any (fun k => x.active (if r = scale then k else r * kk + k))

/-- The pieces of the rows that are read, none for the others. -/
def rowSegs (x : Strand) (kk scale : Nat) (rows : List (Nat × Nat)) : M (List (List Seg)) :=
  rows.zipIdx.mapM (fun r => if x.rowActive kk scale r.2 then segsM (w64 (scratchBase + r.1.1)) r.1.2 accVld 0 else pure [])

/-- Reads scratchpad rows as a vector load reads them; POISON gives the offset (R203, R206). -/
def readRows (gs : List (List Seg)) : M (List (List Byte)) :=
  gs.mapM (fun g => do
    let bs ← g.mapM (readSegB 0)
    let row := bs.flatten
    match row.findIdx? (·.2), g.head? with
    | some i, some k => raiseAt cPOISON (k.va + w64 i - w64 scratchBase) 2 0
    | _, _ => pure (row.map (·.1)))

/-- An operand once it has been fetched. -/
inductive OpaSrc where
  | regs (n : Nat)
  | rows (data : List (List Byte)) (scales : List Byte)
deriving DecidableEq, Repr

/-- Element e of an operand of type t, of kk elements a row and `g` registers (R201, R202, R205). -/
def OpaSrc.val (x : Strand) (g kk : Nat) (t : ETy) : OpaSrc → Nat → Except Nat FVal
  | .regs n, e => do
    let v ← rdE x n (etyBits t) e
    let k ← (if t = .n4 then rdE x (n + g) 8 (e / 32) else .ok 0)
    .ok (valOf t k v)
  | .rows data scales, e =>
    .ok (valOf t (scales.getD (e / kk / 4) 0).toNat
      (bitsAt (leNat (data.getD (e / kk) [])) (e % kk * etyBits t) (etyBits t)))

/-- Row r of an operand: elements that are not active contribute 0 (R202). -/
def OpaSrc.row (x : Strand) (g kk : Nat) (t : ETy) (o : OpaSrc) (r : Nat) : Except Nat (List FVal) :=
  (List.range kk).mapM (fun k => if x.active (r * kk + k) then o.val x g kk t (r * kk + k) else .ok (.fin false 0 0))

/-- The value of an integer term. -/
def FVal.int : FVal → Int
  | .fin n m _ => if n then -(m : Int) else m
  | _ => 0

/-- tile[i][j] after the exact sum of the products of a row of a and a row of b (R150, R202). -/
def opaAt (isInt : Bool) (md : RMode) (sat : Bool) (acc : Nat) (a b : List FVal) : Nat × Flags :=
  let ps := a.zip b
  if isInt then intResult .i32 sat (ps.foldl (fun n p => n + p.1.int * p.2.int) (intVal .i32 acc))
  else
    let av := unpack .f32 acc
    let sig := decide (av = .nan true) || ps.any (fun p => decide (p.1 = .nan true) || decide (p.2 = .nan true))
    let r := dotRound .f32 md false sig av (ps.map (fun p => prodOf p.1 p.2))
    (r.bits, r.fl)

/-- ETA and ETB of an outer product. -/
def opaTypes (md : Nat) : ETy × ETy :=
  let t := (etyOfCode (modeETA md)).getD .i32
  (t, if modeETB md = 15 then t else (etyOfCode (modeETB md)).getD .i32)

/-- The rows of an outer product's operands in the scratchpad, within their limits (R205, R206). -/
def opaRows (a b : Reg) (sa sb : Bool) : M (List (Nat × Nat) × List (Nat × Nat)) := do
  let c ← sc
  let tu := opaTypes c.md
  let kk := 32 / etyBits tu.1
  let ra ← (if sa then do
    let p ← padOf a
    pure (p.rows c.shape.1 kk tu.1) else pure [])
  let rb ← (if sb then do
    let p ← padOf b
    pure (p.rows c.shape.2.1 kk tu.2) else pure [])
  checkRows (ra ++ rb)
  pure (ra, rb)

/-- The checks of an outer product that MODE, TSHAPE and captured scalars decide (R50, R200, R201, R206); `a` and `b` are registers
unless they name scratchpad pairs. -/
def opaCheck (i : Instr) (d a b : Reg) (sa sb : Bool) : M Unit := do
  needTile i d
  let t ← needETA i (fun t => opaFp t || opaInt t)
  let _ ← needETB i t (opaPair t)
  let c ← sc
  if c.shape.2.2 ≠ opaInt t then modeIllegal i 4
  else
    let _ ← needRND i
    let tu := opaTypes c.md
    vGroups i (etyBits t)
      ((if sa then [] else [⟨a.toNat, etyBits tu.1, false, decide (tu.1 = .n4)⟩]) ++
       (if sb then [] else [⟨b.toNat, etyBits tu.2, false, decide (tu.2 = .n4)⟩]))
    (if sa then do
      ready a
      ready (a + 1) else pure ())
    (if sb then do
      ready b
      ready (b + 1) else pure ())
    let _ ← opaRows a b sa sb

/-- The guard bits that the operands' elements read are not poisoned (R397). -/
def opaGuard (n : Nat) : M Unit := do
  let s ← get
  if (List.range (min n s.cur.sc.vlc)).any (fun e => s.cur.guardPoison e) then
    raiseAt cPOISON (w64 (modeG s.cur.sc.md)) 0 0
  else readGuard

/-- The effect of an outer product (R202, R203). Where several operands are poisoned, the guard's POISON comes first, then the
scratchpad rows', the registers' and the accumulators'. DESIGN CHOICE (log 32): the spec gives no order among them. -/
def opaRun (d a b : Reg) (sa sb : Bool) : M Unit := do
  let s ← get
  let c := s.cur.sc
  let tu := opaTypes c.md
  let g := modeGRP c.md
  let kk := 32 / etyBits tu.1
  let m := c.shape.1
  let n := c.shape.2.1
  waitSources ((if sa then [] else [(a.toNat, g + 1)]) ++ (if sb then [] else [(b.toNat, g + 1)]))
  let r ← opaRows a b sa sb
  let ga ← rowSegs s.cur kk m r.1
  let gb ← rowSegs s.cur kk n r.2
  let pads := ga.flatten ++ gb.flatten
  (if pads.isEmpty then pure ()
   else do
    unfenced true false
    behindStores (fun _ => true) pads
    turnCheck pads 0)
  soundAt ((if sa then [a, a + 1] else []) ++ (if sb then [b, b + 1] else [])) 0
  opaGuard (max m n * kk)
  let da ← readRows ga
  let db ← readRows gb
  let oa : OpaSrc := if sa then .rows (da.take m) (da.getD m []) else .regs a.toNat
  let ob : OpaSrc := if sb then .rows (db.take n) (db.getD n []) else .regs b.toNat
  let x ← (do
    let s ← get
    pure s.cur)
  match (List.range m).mapM (oa.row x g kk tu.1), (List.range n).mapM (ob.row x g kk tu.2) with
  | .error r, _ => raiseAt cPOISON (w64 r) 1 0
  | _, .error r => raiseAt cPOISON (w64 r) 1 0
  | .ok va, .ok vb =>
    tileClean d (fun _ _ => true)
    let ds := drawList (shapeDraws s) s
    writeRect d (va.zipIdx.map (fun p => vb.zipIdx.map (fun q =>
      opaAt (opaInt tu.1) (rmodeOf (modeRND c.md) (ds.getD (p.2 * n + q.2) 0)) (modeSAT c.md) (x.acc d.toNat p.2 q.2)
        p.1 q.1)))

/-- An outer product (R201 to R206). -/
def opaForm (i : Instr) (d a b : Reg) (sa sb : Bool) : M Done :=
  matInstr i (opaCheck i d a b sa sb) (fun c => c.setBusy d.toNat) shapeDraws (opaRun d a b sa sb)

def execMxOpa (d a b : Reg) := finish (opaForm (.mxOpa d a b) d a b false false)
def execMxOpaSa (d a b : Reg) := finish (opaForm (.mxOpaSa d a b) d a b true false)
def execMxOpaSb (d a b : Reg) := finish (opaForm (.mxOpaSb d a b) d a b false true)
def execMxOpaSs (d a b : Reg) := finish (opaForm (.mxOpaSs d a b) d a b true true)

/-! ### Rows (R208) -/

/-- I32, C32 or F32 (R200). -/
def etyRow (t : ETy) : Bool := decide (t = .i32) || decide (t = .c32) || decide (t = .f32)

/-- The row operand, captured; BOUNDS when it names no row (R193, R208). -/
def tileRow (b : Reg) : M Nat := do
  let c ← sc
  let r := c.reg b
  if (if c.prot then 32 else 64) ≤ r.toNat then raise cBOUNDS r else pure r.toNat

/-- The checks of `mx.rd`: BOUNDS before ACC_BUSY (R50, R184, R208). -/
def mxRdCheck (d a b : Reg) : M Unit := do
  let i : Instr := .mxRd d a b
  needTile i a
  let _ ← needETA i etyRow
  ready b
  let s ← get
  match s.cur.ring with
  | some r => if r.meets d.toNat 1 then wordIllegal i else pure ()
  | none => pure ()
  let _ ← tileRow b
  checkBusy a
  sound [b]

/-- `mx.rd` (R208). -/
def execMxRd (d a b : Reg) := finish (vecInstr (.mxRd d a b) (mxRdCheck d a b) noDraws (do
  let r ← tileRow b
  let s ← get
  let x := s.cur.tilesSeen
  (List.range x.sc.vlc).forM (fun e =>
    if e < x.rstix.toNat then pure ()
    else if e < 64 && x.accPoison a.toNat r e then raiseAt cPOISON (w64 a.toNat) 1 e
    else modCur (fun y => y.setElt d.toNat 32 e (if e < 64 then x.acc a.toNat r e else 0)))))

/-- `mx.wr` (R208). -/
def execMxWr (d a b : Reg) := finish (matInstr (.mxWr d a b)
  (do
    needTile (.mxWr d a b) d
    let _ ← needETA (.mxWr d a b) etyRow
    ready b
    let _ ← tileRow b
    sound [b])
  (fun c => c.setBusy d.toNat) noDraws
  (do
    let r ← tileRow b
    let s ← get
    waitSources [(a.toNat, 1)]
    let n := min s.cur.sc.vlc 64
    match (List.range n).mapM (fun e => rdE s.cur a.toNat 32 e) with
    | .error k => raiseAt cPOISON (w64 k) 1 0
    | .ok vs => modCur (fun x => x.putTile d.toNat (fun i j => i == r && decide (j < n)) (fun _ j => vs.getD j 0))))

/-! ### Tiles and memory (R209) -/

/-- A tile load (R387). -/
def accMxLd : Acc := ⟨8, true, false⟩
/-- A tile store. -/
def accMxSt : Acc := ⟨9, false, true⟩

/-- Checked pieces of an access that must be aligned: MISALIGN stands between BOUNDS and the other causes of R50. -/
def alignedSegs (bad : Bool) (eval : Word) (ps : List (Word × Nat)) (a : Acc) (rst : Nat) : M (List Seg) := do
  let s ← get
  let r := s.segsGo ps a none []
  match r.1 with
  | .error f =>
    if bad && decide (4 < f.rank) then raiseAt cMISALIGN eval 0 rst else throw (r.2.failStop f a rst)
  | .ok gs =>
    if bad then raiseAt cMISALIGN eval 0 rst
    else
      set r.2
      pure gs

/-- The address of accumulator (i, j) (R209). -/
def tileAddr (c : Scalar) (a b : Reg) (i j : Nat) : Word := c.reg a + w64 i * c.reg b + w64 (4 * j)

/-- A base or pitch that is not a multiple of 4 (R209). -/
def tileBad (c : Scalar) (a b : Reg) : Bool := (c.reg a).toNat % 4 != 0 || (c.reg b).toNat % 4 != 0

/-- One word of a tile load: its value, and whether it is poisoned (R209). -/
def loadAcc (pol : Nat) (va : Word) : M (Nat × Bool) := do
  let gs ← segsM va 4 accMxLd 0
  let bs ← gs.mapM (readSegB pol)
  pure (leNat (bs.flatten.map (·.1)), bs.flatten.any (·.2))

/-- `mx.ld` (R209): it checks every page before it reads a byte, and runs whole. -/
def execMxLd (d a b : Reg) := finishK 8 false (matInstr (.mxLd d a b)
  (do
    needTile (.mxLd d a b) d
    ready a
    ready b)
  (fun c => c.setBusy d.toNat) noDraws
  (do
    let c ← sc
    let m := c.shape.1
    let n := c.shape.2.1
    let gs ← alignedSegs (tileBad c a b) (c.reg a)
      ((List.range m).flatMap (fun i => cuts (tileAddr c a b i 0) 3 (4 * n))) accMxLd 0
    unfenced true false
    behindStores (fun _ => true) gs
    turnCheck gs 0
    soundAt [a, b] 0
    let ws ← (List.range m).mapM (fun i => (List.range n).mapM (fun j => loadAcc (modePOL c.md) (tileAddr c a b i j)))
    let at_ (i j : Nat) : Nat × Bool := (ws.getD i []).getD j (0, false)
    modCur (fun x => x.putTile d.toNat c.inShape (fun i j => (at_ i j).1))
    modCur (fun x => { x with poison := (List.range m).flatMap (fun i => (List.range n).filterMap (fun j =>
      if (at_ i j).2 then some ⟨3, d.toNat, 64 * i + j⟩ else none)) ++ x.poison })))

/-- `mx.st` (R209): the tile field is D. -/
def execMxSt (d a b : Reg) := finishK 9 true (vecInstr (.mxSt d a b)
  (do
    needTile (.mxSt d a b) d
    ready a
    ready b
    checkBusy d)
  noDraws
  (do
    unfenced false true
    let s ← get
    let x := s.cur.tilesSeen
    let c := x.sc
    let n := c.shape.2.1
    let es := (List.range (c.shape.1 * n)).filter (fun e => decide (x.rstix.toNat ≤ e))
    storeAll false (modePOL c.md) es (fun e => do
      let i := e / n
      let j := e % n
      let gs ← alignedSegs (tileBad c a b) (c.reg a) [(tileAddr c a b i j, 4)] accMxSt e
      soundAt [a, b] e
      if x.accPoison d.toNat i j then raiseAt cPOISON (w64 (0x1000 + 64 * i + j)) 1 e
      else pure ⟨e, gs, leBytes 4 (x.acc d.toNat i j)⟩)))

/-! ### cvt (R210) -/

/-- `mx.cvt` (R210). -/
def execMxCvt (d : Reg) := finish (matInstr (.mxCvt d)
  (do
    needTile (.mxCvt d) d
    let _ ← needRND (.mxCvt d))
  (fun c => c.setBusy d.toNat) shapeDraws
  (do
    let s ← get
    let c := s.cur.sc
    tileClean d c.inShape
    let ds := drawList (shapeDraws s) s
    let n := c.shape.2.1
    writeRect d ((List.range c.shape.1).map (fun i => (List.range n).map (fun j =>
      convert (if c.shape.2.2 then .f32 else .i32) (if c.shape.2.2 then .i32 else .f32)
        (rmodeOf (modeRND c.md) (ds.getD (i * n + j) 0)) (modeSAT c.md) (s.cur.acc d.toNat i j))))))

end Sys2Proof.Machine
end

