-- ==== Sys2Proof/Machine/Tensor.lean ====
section
/-! DEFINITION. Tensor identifiers: descriptors, window transfers, packing and unpacking (R212 to R218). -/

namespace Sys2Proof.Machine

/-! ### Descriptors (R212) -/

/-- The n-byte number at offset o of a structure in memory. -/
def fieldN (d : List Byte) (o n : Nat) : Nat := leNat ((d.drop o).take n)

/-- The n-byte signed number at offset o. -/
def fieldZ (d : List Byte) (o n : Nat) : Int :=
  let v := fieldN d o n
  if 2 ^ (8 * n - 1) ≤ v then (v : Int) - (2 ^ (8 * n) : Nat) else v

/-- A tensor descriptor (R212). -/
structure Desc where
  ty    : ETy
  rank  : Nat
  stype : Nat
  pol   : Nat
  grain : Nat
  base  : Int
  sbase : Int
  fill  : Nat
  dims  : List Nat
  strs  : List Int
deriving DecidableEq, Repr

/-- The fields of a descriptor's 128 bytes. -/
def descOf (d : List Byte) : Desc :=
  { ty := (etyOfCode (fieldN d 0 1)).getD .i8, rank := fieldN d 1 1, stype := fieldN d 3 1, pol := fieldN d 4 1,
    grain := fieldN d 5 1, base := fieldN d 8 8, sbase := fieldN d 0x10 8, fill := fieldN d 0x18 4,
    dims := (List.range 5).map (fun k => fieldN d (0x20 + 4 * k) 4),
    strs := (List.range 5).map (fun k => fieldZ d (0x38 + 8 * k) 8) }

/-- The rules of R212 in offset order: each field's offset and whether it holds. `strict` makes reserved bytes be zero; `vas` tells that
BASE and SBASE are virtual addresses. -/
def descRulesOf (strict vas : Bool) (d : List Byte) : List (Nat × Bool) :=
  let x := descOf d
  let addr (n : Nat) : Bool := !vas || canonical (w64 n)
  let n4 := decide (x.ty = .n4)
  let size := if n4 then 16 else etyBits x.ty / 8
  [(0x00, decide (fieldN d 0 1 ≤ 14)), (0x01, decide (1 ≤ x.rank) && decide (x.rank ≤ 5)),
   (0x02, fieldN d 2 1 == (if n4 then 5 else 0)),
   (0x03, if n4 then decide (x.stype ≤ 3) || x.stype == 0x80 else x.stype == 0), (0x04, decide (x.pol ≤ 3)),
   (0x05, decide (x.grain ≤ 3)), (0x06, !strict || fieldN d 6 2 == 0),
   (0x08, addr (fieldN d 8 8) && fieldN d 8 8 % size == 0),
   (0x10, if n4 then addr (fieldN d 0x10 8) && fieldN d 0x10 8 != 0 else fieldN d 0x10 8 == 0),
   (0x18, decide (x.fill < 2 ^ etyBits x.ty)), (0x1C, !strict || fieldN d 0x1C 4 == 0)] ++
  (List.range 5).map (fun k =>
    let n := x.dims.getD k 0
    (0x20 + 4 * k, if k < x.rank then decide (1 ≤ n) && decide (n < 2 ^ 31) && (k != 0 || !n4 || n % 32 == 0) else n == 0)) ++
  [(0x34, !strict || fieldN d 0x34 4 == 0)] ++
  (List.range 5).map (fun k =>
    let v := x.strs.getD k 0
    (0x38 + 8 * k,
      if k = 0 then decide (v = if n4 then 0 else (size : Int))
      else if k < x.rank then !n4 || decide (v % 16 = 0) else decide (v = 0))) ++
  [(0x60, !strict || (d.drop 0x60).all (fun b => decide (b = 0)))]

/-- The fields of a descriptor that a strand names (R212, R213). -/
def descRules (d : List Byte) : List (Nat × Bool) := descRulesOf true true d

/-- The offset of the first rule that fails. -/
def firstBad (rs : List (Nat × Bool)) : Option Nat := (rs.find? (fun r => !r.2)).map (·.1)

/-- The size of an element in bytes (R212). -/
def Desc.size (x : Desc) : Nat := etyBits x.ty / 8

/-- The address of the row of coordinates c1 to c4, from c0 = 0 on. -/
def Desc.rowAddr (x : Desc) (cs : List Int) : Int :=
  (cs.zip (x.strs.drop 1)).foldl (fun (a : Int) p => a + p.1 * p.2) x.base

/-- An address as a 64-bit word. -/
def wordZ (a : Int) : Word := BitVec.ofInt 64 a

/-- The bytes of a grain code of a descriptor (R212). -/
def grainCode (g : Nat) : Nat := match g with | 1 => 32 | 2 => 128 | 3 => 512 | _ => 0

/-! ### Identifiers (R213) -/

/-- An identifier's descriptor; an invalid one raises BOUNDS. -/
def tensor (id : Nat) : M (List Byte) := do
  let s ← get
  match s.cur.tids.find? (fun t => t.1 == id) with
  | some t => pure t.2
  | none => raise cBOUNDS (w64 id)

/-- The identifier in bits 7-0 of a register (R38). -/
def tensorId (a : Reg) : M Nat := do
  let v ← rv a
  pure (bitsOf v 7 0)

/-- A structure read (R387). -/
def accStruct : Acc := ⟨11, true, false⟩
/-- A read of a tensor or of its origin record. -/
def accTnRd : Acc := ⟨10, true, false⟩
/-- A write of a tensor or of COUNT. -/
def accTnWr : Acc := ⟨10, false, true⟩

/-- A structure of n bytes, read as a load (R213, R214); a poisoned operand comes at its place in the order of R50. -/
def readStruct (bad : Bool) (va : Word) (n : Nat) (a : Acc) (ops : List Reg) : M (List Byte) := do
  let gs ← alignedSegs bad va (cuts va 3 n) a 0
  turnCheck gs 0
  sound ops
  let bs ← gs.mapM (readSeg 0)
  pure bs.flatten

/-- `tn.def` (R213). -/
def execTnDef (a b : Reg) := finishK 11 false (do
  let id ← tensorId a
  let va ← rv b
  let s ← get
  if s.cur.loadWaits then block
  else
    let d ← readStruct (va.toNat % 128 != 0) va 128 accStruct [a, b]
    match firstBad (descRules d) with
    | some o => raiseAt cBOUNDS va (w64 o) 0
    | none =>
      modCur (fun x => { x with tids := (id, d) :: x.tids.filter (fun t => t.1 != id) })
      pure .adv)

/-- `tn.inv` (R213). -/
def execTnInv (a : Reg) := finish (do
  let id ← tensorId a
  let _ ← tensor id
  sound [a]
  modCur (fun x => { x with tids := x.tids.filter (fun t => t.1 != id) })
  pure .adv)

/-- `tn.rd` (R213). -/
def execTnRd (d a b : Reg) := finish (do
  ready d
  let id ← tensorId a
  let k ← rv b
  let t ← tensor id
  if 15 < k.toNat then raise cBOUNDS k
  else
    sound [a, b]
    wr d (w64 (fieldN t (8 * k.toNat) 8))
    pure .adv)

/-! ### Windows (R214, R370) -/

/-- A window: its tensor, origin, extents, scratchpad offset, row pitch and fill value. -/
structure Win where
  t    : Desc
  org  : List Int
  ext  : List Nat
  off  : Nat
  p1   : Nat
  fill : Nat
deriving DecidableEq, Repr

/-- S: the sectors of a row. -/
def rowSectors (x0 size : Nat) : Nat := (x0 * size + 31) / 32

def Win.x (w : Win) (k : Nat) : Nat := w.ext.getD k 1

/-- The sectors of a row of the window. -/
def Win.s (w : Win) : Nat := rowSectors (w.x 0) w.t.size

/-- The number of rows. -/
def Win.rows (w : Win) : Nat := w.x 1 * w.x 2 * w.x 3 * w.x 4

/-- The scratchpad offset of row r: each pitch is the one below times its extent. -/
def Win.rowOff (w : Win) (r : Nat) : Nat := w.off + r * w.p1

/-- The end of the window's sectors. -/
def Win.stop (w : Win) : Nat := w.off + (w.rows - 1) * w.p1 + 32 * w.s

/-- The window's sectors exceed 64 KiB, or leave an allotment (R214). -/
def Win.tooBig (w : Win) (alen : Nat) : Bool := decide (2 ^ 16 < 32 * w.s * w.rows) || decide (alen < w.stop)

/-- The coordinates c1 to c4 of row r. -/
def Win.coords (w : Win) (r : Nat) : List Int :=
  [(r % w.x 1 : Nat), (r / w.x 1 % w.x 2 : Nat), (r / (w.x 1 * w.x 2) % w.x 3 : Nat), (r / (w.x 1 * w.x 2 * w.x 3) : Nat)].zipIdx.map
    (fun p => w.org.getD (p.2 + 1) 0 + (p.1 : Int))

/-- The inside elements of row r: the first x0, their number and the address of the first. -/
def Win.inside (w : Win) (r : Nat) : Option (Nat × Nat × Word) :=
  let cs := w.coords r
  let ok := (cs.zipIdx).all (fun p =>
    decide (w.t.rank ≤ p.2 + 1) || (decide (0 ≤ p.1) && decide (p.1 < (w.t.dims.getD (p.2 + 1) 0 : Nat))))
  let c0 := w.org.getD 0 0
  let lo := (-c0).toNat
  let hi := min (w.x 0) ((w.t.dims.getD 0 0 : Int) - c0).toNat
  if ok ∧ lo < hi then
    some (lo, hi - lo, wordZ (w.t.rowAddr cs + (c0 + (lo : Int)) * (w.t.size : Int)))
  else none

/-- The memory piece of each row that has one: row, first element, address and bytes. -/
def Win.pieces (w : Win) : List (Nat × Nat × Word × Nat) :=
  (List.range w.rows).filterMap (fun r => (w.inside r).map (fun p => (r, p.1, p.2.2, p.2.1 * w.t.size)))

/-- The bytes of inside elements. -/
def Win.count (w : Win) : Nat := (w.pieces.map (fun p => p.2.2.2)).sum

/-- A row of fill encodings. -/
def Win.fillRow (w : Win) : List Byte :=
  let e := leBytes w.t.size w.fill
  (List.range (32 * w.s)).map (fun i => e.getD (i % w.t.size) 0)

/-- Bytes replaced from a place on. -/
def overlay (bs : List Byte) (at_ : Nat) (new_ : List Byte) : List Byte :=
  bs.take at_ ++ new_ ++ bs.drop (at_ + new_.length)

/-- The rules of an origin record in offset order (R214). -/
def originRules (t : Desc) (d : List Byte) : List (Nat × Bool) :=
  let x (k : Nat) := fieldN d (0x18 + 2 * k) 2
  let p := fieldN d 0x24 4
  (List.range 5).map (fun k => (4 * k, decide (k < t.rank) || fieldN d (4 * k) 4 == 0)) ++
  [(0x14, fieldN d 0x14 4 == 0)] ++
  (List.range 5).map (fun k => (0x18 + 2 * k, if k < t.rank then decide (1 ≤ x k) else x k == 1)) ++
  [(0x22, fieldN d 0x22 2 == 0), (0x24, p == 0 || (p % 32 == 0 && decide (32 * rowSectors (x 0) t.size ≤ p))),
   (0x30, (d.drop 0x30).all (fun b => decide (b = 0)))]

/-- The window of an origin record. -/
def winOf (t : Desc) (d : List Byte) (off : Nat) : Win :=
  let ext := (List.range 5).map (fun k => fieldN d (0x18 + 2 * k) 2)
  let p := fieldN d 0x24 4
  { t := t, org := (List.range 5).map (fun k => fieldZ d (4 * k) 4), ext := ext, off := off,
    p1 := if p = 0 then 32 * rowSectors (ext.getD 0 1) t.size else p, fill := t.fill }

/-- A `tn` form that moves data waits for the older stream instructions (R215, R394), for the accesses that stand before later scalar
ones (R240), and for engine fences (R123). -/
def tnReady : M Unit := do
  drained
  unfencedEngine
  let s ← get
  if s.cur.loadWaits then block else pure ()

/-- The window that a `tn.tld` or `tn.tst` names, checked (R214); what needs no memory is checked first (R50). DESIGN CHOICE (log 30):
an offset that breaks its rule raises BOUNDS with EVAL = s[D], a record that is not aligned BOUNDS with EINFO 0. -/
def windowFor (d a b : Reg) : M (Win × Word) := do
  tnReady
  let id ← tensorId a
  let va ← rv b
  let off ← rv d
  let t ← tensor id
  let x := descOf t
  if x.ty = .n4 then raise cBOUNDS (w64 id)
  else if bitsOf off 63 21 ≠ 0 ∨ off.toNat % 32 ≠ 0 then raise cBOUNDS off
  else if va.toNat % 64 ≠ 0 then raise cBOUNDS va
  else
    let r ← readStruct false va 64 accTnRd [a, b, d]
    match firstBad (originRules x r) with
    | some o => raiseAt cBOUNDS va (w64 o) 0
    | none =>
      let w := winOf x r off.toNat
      let s ← get
      if w.tooBig s.cur.ident.alen then raise cBOUNDS off else pure (w, va)

/-! ### Reading and writing a tensor's bytes -/

/-- Pieces of a list of addresses and lengths. -/
def piecesOf (ps : List (Word × Nat)) : List (Word × Nat) := ps.flatMap (fun p => cuts p.1 (p.2 / 4096 + 2) p.2)

/-- Translates and checks pieces that are read and pieces that are written as one; of several failures the one that stands earliest in
the order of R50 counts, on a tie the first. -/
def State.segsMixed : List ((Word × Nat) × Acc) → State → Option (Fail × Acc) → List Seg → Except (Fail × Acc) (List Seg) × State
  | [], s, some f, _ => (.error f, s)
  | [], s, none, acc => (.ok acc.reverse, s)
  | (p, a) :: r, s, f, acc =>
    match s.segOf p.1 p.2 a with
    | (.error g, t) =>
      State.segsMixed r t (some (match f with | none => (g, a) | some k => if g.rank < k.1.rank then (g, a) else k)) acc
    | (.ok g, t) => State.segsMixed r t f (if a.rd then g :: acc else acc)

/-- Every page that a form reads or writes is translated and checked before it moves anything (R50, R215, R216): the pieces read. -/
def checkPieces (rs ws : List (Word × Nat)) : M (List Seg) := do
  let s ← get
  let r := State.segsMixed ((piecesOf rs).map (fun p => (p, accTnRd)) ++ (piecesOf ws).map (fun p => (p, accTnWr))) s none []
  match r.1 with
  | .error f => throw (r.2.failStop f.1 f.2 0)
  | .ok gs =>
    set r.2
    pure gs

/-- Fills the larger grain that a descriptor's GRAIN asks for (R212, R292). -/
def State.fillGrain (s : State) (gs : List Seg) (grain pol : Nat) : State :=
  gs.foldl (fun (s : State) g =>
    match g.page with
    | none => s
    | some p =>
      if grain ≤ p.grain then s
      else
        let lo := g.key / grain * grain
        let n := ((g.key + g.n + grain - 1) / grain * grain - lo) / p.grain
        (List.range n).foldl (fun (s : State) i =>
          let k := lo + i * p.grain
          (s.readGrain p k (g.va.toNat + k - g.key) pol).2) s) s

/-- The bytes of a piece of a tensor, with their poison. -/
def readTensor (t : Desc) (va : Word) (n : Nat) : M (List (Byte × Bool)) := do
  let gs ← segsM va n accTnRd 0
  modify (fun s => s.fillGrain gs (grainCode t.grain) t.pol)
  let bs ← gs.mapM (readSegB t.pol)
  pure bs.flatten

/-- Bytes for the homes of pieces (R216). -/
def pieceBytes (gs : List Seg) (bs : List Byte) (pol crew : Nat) : List HomeB :=
  (cutBytes gs bs).flatMap (fun p =>
    if p.1.mir then []
    else p.2.zipIdx.map (fun b =>
      HomeB.mk (p.1.key + b.2) b.1 (Tag.mk (p.1.va.toNat + b.2) p.1.grain p.1.cach p.1.kid pol) crew false []))

/-- Mirror pieces leave as mirror stores (R299), once. -/
def emitMirrors (gs : List Seg) (bs : List Byte) : M Unit :=
  (cutBytes gs bs).forM (fun p => do
    let s ← get
    if p.1.mir && s.cur.handed.isNone then
      emitGo (.mirror p.1.key p.2) (fun st => st.deliverMirror s.cur.ident.crew p.1.key p.2)
    else pure ())

/-- COUNT, a store of the strand (R217). -/
def writeCount (va : Word) (n : Nat) : M Unit := storeBytes (va + 0x28) (leBytes 8 n) accTnWr 0 0

/-- How a tensor store ends once its bytes have reached their homes (R217): the address of a poisoned byte met behind them, its FLAGS, and the
COUNT to write with its descriptor's address. -/
structure TnEnd where
  bad   : Option Word
  fl    : Flags
  count : Option (Word × Nat)
deriving DecidableEq, Repr

/-- The same as a note. -/
def TnEnd.words (x : TnEnd) : List Word :=
  [noteTn, wBool x.bad.isSome, x.bad.getD 0, x.fl.zeroExtend 64, wBool x.count.isSome, (x.count.getD (0, 0)).1, w64 (x.count.getD (0, 0)).2]

/-- An end read back from a note. -/
def tnEndOf (ws : List Word) : Option TnEnd :=
  match ws with
  | [t, b, va, f, c, cv, n] =>
    if t = noteTn then some ⟨if b = 1 then some va else none, f.truncate 6, if c = 1 then some (cv, n.toNat) else none⟩ else none
  | _ => none

/-- The end of a tensor store. -/
def TnEnd.run (x : TnEnd) : M Done := do
  match x.bad with
  | some va => raiseAt cPOISON va 2 0
  | none =>
    match x.count with
    | some c => writeCount c.1 c.2
    | none => pure ()
    orFlags x.fl
    modCur (fun y => { y with note := none })
    pure .adv

/-- Delivers bytes at their homes and waits for the acknowledgement (R216); those of a scratchpad enter its bank. What is left to do then is
noted, so that nothing is checked or read again (R10, R217). -/
def deliver (hs : List HomeB) (x : TnEnd) : M Done := do
  let s ← get
  let far := hs.filter (fun h => keyHome h.key != 3)
  set (s.putBytes ((hs.filter (fun h => keyHome h.key == 3)).map (fun h => (h.key, h.val))))
  modCur (fun y => { y with note := some x.words })
  if far.isEmpty then x.run
  else
    let _ ← outwardGo (.turn far [] .home) (fun st =>
      ((({ st with effSeq := st.effSeq + 1 } : State).landTurn st.quad.id st.cur.uid st.effSeq far [] .home).1, []))
    x.run

/-- A tensor store whose bytes have been handed waits for their acknowledgement and ends (R217); otherwise it begins. -/
def tnStore (m : M Done) : M Done := do
  let s ← get
  match s.cur.note.bind tnEndOf with
  | some x =>
    if s.cur.handed.isSome then do
      let _ ← outwardGo (.turn [] [] .home) (fun st => (st, []))
      x.run
    else x.run
  | none => m

/-- Marks the words of scratchpad bytes that are poisoned (R215). -/
def State.poisonBytes (s : State) (k : Nat) (ps : List Bool) : State :=
  s.spoilWords (ps.zipIdx.filterMap (fun p => if p.1 then some ((k + p.2) / 4) else none)).eraseDups

/-- Writes one row of a window loaded into the scratchpad (R215). -/
def loadRow (w : Win) (r : Nat) : M Unit := do
  let s ← get
  let k := scratchKey s.cur.ident.quad (s.cur.ident.abase + w.rowOff r)
  let row : List (Byte × Bool) := w.fillRow.map (fun b => (b, false))
  match w.inside r with
  | none => modify (fun s => s.memWrite k (row.map (·.1)))
  | some p => do
    let bs ← readTensor w.t p.2.2 (p.2.1 * w.t.size)
    let at_ := p.1 * w.t.size
    let full := row.take at_ ++ bs ++ row.drop (at_ + bs.length)
    modify (fun s => (s.memWrite k (full.map (·.1))).poisonBytes k (full.map (·.2)))

/-- `tn.tld` (R214, R215, R217). -/
def execTnTld (d a b : Reg) := finishK 10 false (do
  let wv ← windowFor d a b
  let w := wv.1
  let gs ← checkPieces (w.pieces.map (fun p => (p.2.2.1, p.2.2.2))) [(wv.2 + 0x28, 8)]
  turnCheck gs 0
  let dst ← (List.range w.rows).mapM (fun r => segsM (w64 (scratchBase + w.rowOff r)) (32 * w.s) accTnWr 0)
  clearOfStrips dst.flatten
  (List.range w.rows).forM (loadRow w)
  writeCount wv.2 w.count
  pure .adv)

/-- One row of a window in the scratchpad, as the strand reads it: its inside bytes and their poison. -/
def storeRow (w : Win) (p : Nat × Nat × Word × Nat) : M (Word × List (Byte × Bool)) := do
  let gs ← segsM (w64 (scratchBase + w.rowOff p.1 + p.2.1 * w.t.size)) p.2.2.2 accTnRd 0
  let bs ← gs.mapM (readSegB 0)
  pure (p.2.2.1, bs.flatten)

/-- The lowest sector of memory that would receive a poisoned byte. -/
def poisonSector (rows : List (Word × List (Byte × Bool))) : Option Nat :=
  (rows.flatMap (fun r => r.2.zipIdx.filterMap (fun b => if b.1.2 then some ((r.1.toNat + b.2) / 32) else none))).foldl
    (fun m x => some (match m with | none => x | some y => min x y)) none

/-- `tn.tst` (R214, R216, R217). -/
def execTnTst (d a b : Reg) := finishK 10 true (tnStore (do
  let wv ← windowFor d a b
  let w := wv.1
  let _ ← checkPieces [] (w.pieces.map (fun p => (p.2.2.1, p.2.2.2)) ++ [(wv.2 + 0x28, 8)])
  let src ← (List.range w.rows).mapM (fun r => segsM (w64 (scratchBase + w.rowOff r)) (32 * w.s) accTnRd 0)
  turnCheck src.flatten 0
  let rows ← w.pieces.mapM (storeRow w)
  let stop := poisonSector rows
  let keep (va : Word) (i : Nat) : Bool := match stop with | some x => decide ((va.toNat + i) / 32 < x) | none => true
  platform (64 + (rows.map (fun r => 128 + r.2.length)).sum)
  let out ← rows.mapM (fun r => do
    let gs ← segsM r.1 r.2.length accTnWr 0
    modify (fun s => s.setDirty gs)
    clearOfStrips gs
    let s ← get
    let hs := pieceBytes gs (r.2.map (·.1)) w.t.pol s.cur.ident.crew
    if stop.isNone then emitMirrors gs (r.2.map (·.1)) else pure ()
    pure (hs.zipIdx.filterMap (fun h => if keep r.1 h.2 then some h.1 else none)))
  -- the scratchpad address of the first poisoned byte that the sector would receive
  let bad (x : Nat) : Option Word := (w.pieces.zip rows).findSome? (fun q =>
    (q.2.2.zipIdx.find? (fun b => b.1.2 && (q.2.1.toNat + b.2) / 32 == x)).map (fun b =>
      w64 (scratchBase + w.rowOff q.1.1 + q.1.2.1 * w.t.size + b.2)))
  deliver out.flatten ⟨stop.map (fun x => (bad x).getD 0), 0, if stop.isSome then none else some (wv.2, w.count)⟩))

/-! ### Packing and unpacking (R218) -/

/-- The elements of a tensor. -/
def Desc.elements (x : Desc) : Nat := ((x.dims.take x.rank).foldl (· * ·) 1)

/-- The rows of a tensor along dimension 0: the coordinates c1 to c4. -/
def Desc.rowList (x : Desc) : List (List Int) :=
  let d (k : Nat) := if k < x.rank then x.dims.getD k 1 else 1
  (List.range (d 4)).flatMap (fun e => (List.range (d 3)).flatMap (fun c => (List.range (d 2)).flatMap (fun b =>
    (List.range (d 1)).map (fun a => [(a : Int), (b : Int), (c : Int), (e : Int)]))))

/-- The lowest row address and the highest. -/
def Desc.rowSpan (x : Desc) : Int × Int :=
  (List.range 4).foldl (fun (p : Int × Int) k =>
    let n := if k + 1 < x.rank then x.dims.getD (k + 1) 1 else 1
    let v := ((n : Int) - 1) * x.strs.getD (k + 1) 0
    if v < 0 then (p.1 + v, p.2) else (p.1, p.2 + v)) (x.base, x.base)

/-- The byte spans of a tensor: its elements, and the scale bytes of an N4 tensor (R218). -/
def Desc.spans (x : Desc) : List (Int × Int) :=
  let r := x.rowSpan
  let n := x.dims.getD 0 1
  if x.ty = .n4 then
    [(r.1, r.2 + (n / 2 : Nat)), (x.sbase + (r.1 - x.base) / 16, x.sbase + (r.2 - x.base) / 16 + (n / 32 : Nat))]
  else [(r.1, r.2 + (n * x.size : Nat))]

/-- Two lists of spans overlap. -/
def spansMeet (a b : List (Int × Int)) : Bool := a.any (fun p => b.any (fun q => decide (p.1 < q.2) && decide (q.1 < p.2)))

/-- The pair of tensors fits a packing form (R218). -/
def packOk (x y : Desc) (okX okY : ETy → Bool) : Bool :=
  okX x.ty && okY y.ty && x.rank == y.rank && decide (x.dims = y.dims) && decide (x.elements ≤ 1048576) &&
    !spansMeet x.spans y.spans

/-- A block of an N4 tensor: its row and place in the row. -/
structure Blk where
  row  : List Int
  b    : Nat
  code : Int
deriving DecidableEq, Repr

/-- The blocks of an N4 tensor in increasing order of their first code address. -/
def Desc.blocks (x : Desc) : List Blk :=
  sortBy (fun p q => decide (p.code ≤ q.code)) (x.rowList.flatMap (fun r => (List.range (x.dims.getD 0 0 / 32)).map (fun b =>
    ⟨r, b, x.rowAddr r + (16 * b : Nat)⟩)))

/-- The scale byte of a block (R212). -/
def Desc.scaleAddr (x : Desc) (k : Blk) : Word := wordZ (x.sbase + (k.code - x.base) / 16)

/-- The address of the block's elements in the other tensor. -/
def Desc.partAddr (x : Desc) (k : Blk) : Word := wordZ (x.rowAddr k.row + (32 * k.b * x.size : Nat))

/-- The sum of absolute differences between a block's decoded values and its values (R218). -/
def blockCost (scale : Nat) (codes : List Nat) (xs : List FVal) : Int × Int :=
  sumTerms ((codes.zip xs).map (fun p =>
    match n4Decode scale p.1, p.2 with
    | .fin n m e, .fin n' m' e' =>
      let v := sumTerms [⟨n, m, e⟩, ⟨!n', m', e'⟩]
      ⟨false, v.1.natAbs, v.2⟩
    | _, _ => ⟨false, 0, 0⟩))

/-- The packing of a block: by a uniform type, or by the type with the least cost, ties to the lower (R218). DESIGN CHOICE (log 36): a
block with a NaN or an infinity has no costs, and under STYPE 0x80 it takes type 0 (R148). -/
def packBlock (stype : Nat) (xs : List FVal) : Nat × List Nat × Flags :=
  if stype ≤ 3 then n4Pack stype xs
  else
    ([1, 2, 3].foldl (fun (best : (Nat × List Nat × Flags) × (Int × Int)) ty =>
      let p := n4Pack ty xs
      let c := blockCost p.1 p.2.1 xs
      let less := (sumTerms [⟨false, c.1.natAbs, c.2⟩, ⟨true, best.2.1.natAbs, best.2.2⟩]).1 < 0
      if less then (p, c) else best)
      (n4Pack 0 xs, blockCost (n4Pack 0 xs).1 (n4Pack 0 xs).2.1 xs)).1

/-- The 16 bytes of 32 codes (R212). -/
def codeBytes (cs : List Nat) : List Byte :=
  (List.range 16).map (fun i => BitVec.ofNat 8 (cs.getD (2 * i) 0 + 16 * cs.getD (2 * i + 1) 0))

/-- A block's results: bytes to write at addresses, and flags. -/
abbrev BlkOut := List (Word × List Byte) × Flags

/-- Reads a piece of a tensor whole, or says which byte is poisoned. -/
def readWhole (t : Desc) (va : Word) (n : Nat) : M (Except Word (List Byte)) := do
  let bs ← readTensor t va n
  match bs.zipIdx.find? (fun b => b.1.2) with
  | some b => pure (.error (va + w64 b.2))
  | none => pure (.ok (bs.map (·.1)))

/-- Runs blocks in order until one meets poison: what the blocks before it write, and where it lies. -/
def runBlocks (f : Blk → M (Except Word BlkOut)) : List Blk → List BlkOut → M (List BlkOut × Option Word)
  | [], acc => pure (acc.reverse, none)
  | k :: r, acc => do
    let x ← f k
    match x with
    | .ok o => runBlocks f r (o :: acc)
    | .error va => pure (acc.reverse, some va)

/-- The writes of blocks reach their homes in order; poison met afterwards is raised, otherwise FLAGS takes their flags
(R217, R218). -/
def finishBlocks (t : Desc) (r : List BlkOut × Option Word) : M Done := do
  platform (64 + ((r.1.flatMap (·.1)).map (fun w => 128 + w.2.length)).sum)
  let out ← (r.1.flatMap (·.1)).mapM (fun w => do
    let gs ← segsM w.1 w.2.length accTnWr 0
    modify (fun s => s.setDirty gs)
    clearOfStrips gs
    emitMirrors gs w.2
    let s ← get
    pure (pieceBytes gs w.2 t.pol s.cur.ident.crew))
  deliver out.flatten ⟨r.2, r.1.foldl (fun f o => f ||| o.2) 0, none⟩

/-- The two descriptors of a packing form, checked (R218). -/
def packPair (a b : Reg) (okX okY : ETy → Bool) : M (Desc × Desc) := do
  tnReady
  let ia ← tensorId a
  let ib ← tensorId b
  let ta ← tensor ia
  let tb ← tensor ib
  let x := descOf ta
  let y := descOf tb
  if packOk x y okX okY then pure (x, y) else raise cBOUNDS (w64 ib)

/-- The pages of a packing form, its turn check and its operands, in the order of R50. -/
def packChecks (a b : Reg) (rs ws : List (Word × Nat)) : M Unit := do
  let gs ← checkPieces rs ws
  turnCheck gs 0
  sound [a, b]

/-- The pages of every row of a tensor and of its scale bytes. -/
def Desc.pieces (x : Desc) : List (Word × Nat) :=
  let n := x.dims.getD 0 0
  x.rowList.flatMap (fun r =>
    let a := x.rowAddr r
    if x.ty = .n4 then [(wordZ a, n / 2), (wordZ (x.sbase + (a - x.base) / 16), n / 32)] else [(wordZ a, n * x.size)])

/-- N4. -/
def etyN4 (t : ETy) : Bool := decide (t = .n4)

/-- `tn.pack` (R218). -/
def execTnPack (a b : Reg) := finishK 10 true (tnStore (do
  let xy ← packPair a b etyIsArith etyN4
  let x := xy.1
  let y := xy.2
  packChecks a b x.pieces y.pieces
  let r ← runBlocks (fun k => do
    let bs ← readWhole x (x.partAddr k) (32 * x.size)
    match bs with
    | .error va => pure (.error va)
    | .ok bs =>
      let xs := (List.range 32).map (fun i => unpack x.ty (leNat ((bs.drop (i * x.size)).take x.size)))
      let p := packBlock y.stype xs
      pure (.ok ([(wordZ k.code, codeBytes p.2.1), (y.scaleAddr k, [BitVec.ofNat 8 p.1])], p.2.2))) y.blocks []
  finishBlocks y r))

/-- F32 or F64. -/
def etyWide (t : ETy) : Bool := decide (t = .f32) || decide (t = .f64)

/-- `tn.unpack` (R147, R218). -/
def execTnUnpack (a b : Reg) := finishK 10 true (tnStore (do
  let xy ← packPair a b etyN4 etyWide
  let x := xy.1
  let y := xy.2
  packChecks a b x.pieces y.pieces
  let r ← runBlocks (fun k => do
    let cs ← readWhole x (wordZ k.code) 16
    let sc ← readWhole x (x.scaleAddr k) 1
    match cs, sc with
    | .error va, _ => pure (.error va)
    | _, .error va => pure (.error va)
    | .ok cs, .ok sc =>
      let b0 := leNat sc
      let scale := if x.stype ≤ 3 then x.stype * 64 + b0 % 64 else b0
      let out := (List.range 32).flatMap (fun i =>
        let code := (cs.getD (i / 2) 0).toNat / (if i % 2 = 1 then 16 else 1) % 16
        leBytes y.size (cvtFpFp y.ty .rne false (n4Decode scale code)).bits)
      pure (.ok ([(y.partAddr k, out)], 0))) x.blocks []
  finishBlocks y r))

end Sys2Proof.Machine
end

