-- ==== Sys2Proof/Machine/Turn.lean ====
section
/-! DEFINITION. Turns, invalidations, tokens, retention windows and line locks: the `tr` forms (R232 to R237, R308, R311
to R319). -/

namespace Sys2Proof.Machine

/-! ### Regions (R233) -/

/-- The page of an address without any effect on A, D or the TLBs; none when it has no valid translation (R233). -/
def State.peek (s : State) (va : Word) : Option Page :=
  let p := s.cur.ident.part
  let asid := match s.part? p with | some x => x.asid | none => 0
  match s.tlbHit asid va.toNat with
  | some t => some (pageOf t.leaf t.level t.va t.size t.dirty)
  | none =>
    match s.walk p va with
    | .leaf e level v size => some (pageOf e level v size false)
    | .none _ _ _ => none

/-- The grain size that widening uses at an address (R233). -/
def State.widen (s : State) (va : Word) : Nat :=
  if inWindow va then 32
  else match s.peek va with
    | some p => if p.grn = 3 then 512 else p.grain
    | none => 512

/-- A region checked as R233 gives, before it is widened: none when its length is 0. -/
def rangeOf (a n : Word) : M (Option (Nat × Nat)) := do
  let hi := a.toNat + n.toNat - 1
  if 2 ^ 32 < n.toNat then raise cBOUNDS n
  else if n = 0 then pure none
  else if !canonical a || decide (2 ^ 64 ≤ hi) || !canonical (w64 hi) then raise cBOUNDS a
  else pure (some (a.toNat, hi))

/-- A region checked and widened to its grains: first and last byte (R233). -/
def regionOf (a n : Word) : M (Option (Nat × Nat)) := do
  let r ← rangeOf a n
  let s ← get
  pure (r.map (fun p =>
    let g0 := s.widen (w64 p.1)
    let g1 := s.widen (w64 p.2)
    (p.1 / g0 * g0, p.2 / g1 * g1 + g1 - 1)))

/-- A piece of a region that has grains: its address, key and length, and the page's C. -/
structure Area where
  va   : Nat
  key  : Nat
  n    : Nat
  cach : Bool
deriving DecidableEq, Repr

/-- The area of a piece of a page, none where R233 skips it. -/
def State.areaOf (s : State) (va : Word) (n : Nat) : Option Area :=
  let i := s.cur.ident
  if inWindow va then
    if scratchBase ≤ va.toNat ∧ va.toNat - scratchBase + n ≤ i.alen then
      some ⟨va.toNat, scratchKey i.quad (i.abase + (va.toNat - scratchBase)), n, false⟩
    else none
  else
    match s.peek va with
    | some p => if p.grn = 3 then none else some ⟨va.toNat, p.key + (va.toNat - p.va), n, p.cach⟩
    | none => none

/-- The areas of the bytes lo to hi. -/
def State.areas (s : State) (lo hi : Nat) : List Area :=
  if hi < lo then []
  else (cuts (w64 lo) ((hi - lo) / 4096 + 3) (hi + 1 - lo)).filterMap (fun p => s.areaOf p.1 p.2)

/-! ### Turns and invalidations (R234 to R237) -/

/-- The grains of an area of which the strand holds a mark or a pending byte: key, virtual address and size. -/
def Strand.grainsIn (x : Strand) (a : Area) : List (Nat × Nat × Nat) :=
  let inA (k : Nat) := decide (a.key ≤ k) && decide (k < a.key + a.n)
  let ks := (x.pend.filter (fun k => inA k.key)).map (fun k => (k.key, k.size)) ++
    (x.marks.filter (fun k => inA k.key)).map (fun k => (k.key, k.size))
  (sortBy (fun p q => decide (p.1 ≤ q.1)) ks.eraseDups).map (fun k => (k.1, a.va + (k.1 - a.key), k.2))

/-- Turns one grain of a region; a trap leaves TURNPRG past it (R237, R309). -/
def turnOne (lo level : Nat) (cach : Bool) (g : Nat × Nat × Nat) : M Unit := do
  let s ← get
  let prg (off : Nat) (t : State) : State := t.modSc (fun c => { c with turnprg := BitVec.ofNat 33 off })
  match (turnGrain g.1 g.2.1 g.2.2 level cach).run (prg (g.2.1 - lo) s) with
  | .ok _ t => set t
  | .error (.trap k) t => do
    set (prg (g.2.1 - lo + g.2.2) t)
    throw (.trap k)
  | .error k t => do
    set t
    throw k

/-- A SYSTEM turn also writes to the host what the home slices owe it of an area that was turned at HOME before (R432). -/
def turnRest (level : Nat) (a : Area) : M Unit := do
  let s ← get
  if level = 3 ∧ (s.owesHost a.key a.n ∨ s.cur.handed.isSome) ∧ keyHome a.key = 1 then
    let _ ← carryHome a.key [] [] (.system [(a.key, a.n)])
    pure ()
  else pure ()

/-- A HOME or SYSTEM turn of an area ends once every byte of the strand has landed, also of a grain that has left the pending set at its limit
(R234, R293). -/
def awaitLanding (level : Nat) (a : Area) : M Unit := do
  let s ← get
  if 2 ≤ level ∧ s.cur.handed.isNone ∧ s.travels a.key a.n then block else pure ()

/-- `tr.turn` over a widened region, from TURNPRG on (R234, R237). -/
def turnRegion (lo hi level : Nat) : M Unit := do
  let s ← get
  (s.areas (lo + s.cur.sc.turnprg.toNat) hi).forM (fun a => do
    let t ← get
    (t.cur.grainsIn a).forM (turnOne lo level a.cach)
    awaitLanding level a
    turnRest level a)
  modSc (fun c => { c with turnprg := 0 })

/-- `tr.turn` (R232 to R234). -/
def execTrTurn (d a b : Reg) := finish (do
  let base ← rv a
  let n ← rv b
  let r ← regionOf base n
  sound [a, b]
  drained
  match r with
  | none => modSc (fun c => { c with turnprg := 0 })
  | some p =>
    performed
    turnRegion p.1 p.2 d.toNat
  pure .adv)

/-- Drops the inbound copies of a region (R235). -/
def State.dropRegion (s : State) (lo hi : Nat) (quadToo : Bool) : State :=
  (s.areas lo hi).foldl (fun (s : State) a => s.dropGrain a.key a.n quadToo) s

/-- Drops the home-slice copies of the host pages of a region; what a slice has still to write out it keeps (R235, R432). -/
def State.dropHost (s : State) (lo hi : Nat) : State :=
  (s.areas lo hi).foldl (fun (s : State) a => s.hostDrop a.key a.n) s

/-- `tr.inval` (R232, R233, R235). -/
def execTrInval (d a b : Reg) := finish (do
  let base ← rv a
  let n ← rv b
  let r ← regionOf base n
  sound [a, b]
  drained
  match r with
  | none => pure ()
  | some p =>
    performed
    modify (fun s =>
      let t := s.dropRegion (p.1 + s.cur.sc.turnprg.toNat) p.2 (decide (1 ≤ d.toNat))
      if d.toNat = 3 then t.dropHost (p.1 + s.cur.sc.turnprg.toNat) p.2 else t)
  modSc (fun c => { c with turnprg := 0 })
  pure .adv)

/-! ### Tokens (R311 to R315) -/

/-- The state of a token; none is FREE (R311). -/
def State.token (s : State) (idx : Nat) : Option TokSt := (s.tokens.find? (fun t => t.idx == idx)).map (·.st)

/-- Sets a token's state. -/
def State.setToken (s : State) (idx : Nat) (st : Option TokSt) : State :=
  let rest := s.tokens.filter (fun t => t.idx != idx)
  { s with tokens := (match st with | some x => (Token.mk idx x) :: rest | none => rest) }

/-- An acquirer with an owner number may take a token in a state (R311, R313). -/
def mayTake (st : Option TokSt) (owner : Nat) : Bool :=
  match st with
  | none => true
  | some (.handed o) => o == owner && owner != 0
  | some (.held _ _) => false

/-- The instrument grants a token to the first waiting request that may take it (R311, R313). -/
def State.grantToken (s : State) (idx : Nat) : State :=
  match s.tokReqs.find? (fun r => r.idx == idx && mayTake (s.token idx) r.owner) with
  | none => s
  | some r =>
    let s1 := { s with tokReqs := s.tokReqs.filter (fun k => !(k.idx == idx && k.uid == r.uid)) }
    (s1.setToken idx (some (.held r.owner r.uid))).reply r.uid r.eff []

/-- A token may have become takeable: it is granted at once, or by TOKEN_GRANT when effects travel step by step (log 6). -/
def State.serveToken (s : State) (idx : Nat) : State := if s.split then s else s.grantToken idx

/-- A request reaches the instrument. -/
def State.askToken (s : State) (idx owner uid eff : Nat) : State :=
  ({ s with tokReqs := s.tokReqs ++ [TokReq.mk idx owner uid eff] }).serveToken idx

/-- A release reaches the instrument (R314). -/
def State.giveToken (s : State) (idx next : Nat) : State :=
  (s.setToken idx (if next = 0 then none else some (.handed next))).serveToken idx

/-- TOKEN_GRANT (R311, R313). -/
def execTokenGrant (tok : Nat) := event (fun s => s.grantToken tok)

/-- The token operand of `tr.acq` and `tr.rel` with its region: token, owner and region, checked in the order of R312. -/
def tokenOps (d a b : Reg) : M (Nat × Nat × Option (Nat × Nat)) := do
  let v ← rv d
  let base ← rv a
  let n ← rv b
  if bitsOf v 31 12 ≠ 0 ∨ bitsOf v 63 48 ≠ 0 then raise cBOUNDS v
  else
    let r ← regionOf base n
    sound [a, b, d]
    let s ← get
    let p := s.part? s.cur.ident.part
    let t := bitsOf v 11 0
    if (match p with | some x => x.tcount | none => 0) ≤ t then raise cREGION (w64 t)
    else pure ((match p with | some x => x.tbase | none => 0) + t, bitsOf v 47 32, r)

/-- The token is HELD by the current strand. -/
def State.holdsToken (s : State) (idx : Nat) : Bool :=
  match s.token idx with
  | some (.held _ u) => u == s.cur.uid
  | _ => false

/-- The region's records become NONE at the home and in the acquirer's quad (R308). -/
def State.clearRecords (s : State) (lo hi : Nat) : State :=
  (s.areas lo hi).foldl (fun (s : State) a =>
    let inA (k : Nat) := decide (a.key ≤ k) && decide (k < a.key + a.n)
    let s1 := s.noneRecs (fun r => inA r.key)
    s1.modQ (fun q => { q with
      recs := q.recs.filter (fun r => !inA r.key)
      atoms := q.atoms.map (fun t => if inA t.key then { t with rcd := { t.rcd with scope := 0 } } else t) })) s

/-- The end of `tr.acq` once its token is granted (R308, R313). -/
def State.acquireRegion (s : State) (r : Option (Nat × Nat)) : State :=
  match r with
  | none => s
  | some p => (s.clearRecords p.1 p.2).dropRegion p.1 p.2 true

/-- Sends the request of `tr.acq`, or sees its answer: whether it has been granted (R313). -/
def acquireToken (idx owner : Nat) : M Bool := do
  let s ← get
  match s.cur.handed with
  | some h =>
    if h.reply.isSome then
      modCur (fun x => { x with handed := none })
      pure true
    else pure false
  | none =>
    let id := s.effSeq
    let wait (t : State) : State := t.modCur (fun x => { x with handed := some ⟨id, none⟩ })
    if s.held then
      set (wait (s.hand (.acq idx owner)))
      pure false
    else
      set ((wait { s with effSeq := id + 1 }).askToken idx owner s.cur.uid id)
      let t ← get
      if (match t.cur.handed with | some h => h.reply.isSome | none => false) then
        modCur (fun x => { x with handed := none })
        pure true
      else pure false

/-- `tr.acq` (R312, R313). -/
def execTrAcq (d a b : Reg) := finish (do
  let o ← tokenOps d a b
  let s ← get
  if s.cur.handed.isNone && s.holdsToken o.1 then raise cREGION (w64 (o.1 - (match s.part? s.cur.ident.part with | some x => x.tbase | none => 0)))
  else
    drained
    performed
    platform 64
    let ok ← acquireToken o.1 o.2.1
    if ok then
      modify (fun s => s.acquireRegion o.2.2)
      pure .adv
    else block)

/-- `tr.rel` (R312, R314). -/
def execTrRel (d a b : Reg) := finish (do
  let o ← tokenOps d a b
  let s ← get
  if s.cur.handed.isNone && !s.holdsToken o.1 then raise cREGION (w64 (o.1 - (match s.part? s.cur.ident.part with | some x => x.tbase | none => 0)))
  else
    drained
    performed
    match o.2.2 with
    | some p => turnRegion p.1 p.2 2
    | none => pure ()
    let _ ← outward (.rel o.1 o.2.1) (fun st => (st.giveToken o.1 o.2.1, []))
    pure .adv)

/-! ### Retention windows (R316 to R318) -/

/-- QWAYS of the current strand's partition. -/
def State.qways (s : State) : Nat := match s.part? s.cur.ident.part with | some p => p.qways | none => 0

/-- `tr.retain` (R317). -/
def execTrRetain (d a b : Reg) := finish (do
  ready d
  let base ← rv a
  let n ← rv b
  if n = 0 then
    sound [a, b]
    drained
    wr d 0x8000000000000003
    pure .adv
  else
    drained
    let r ← rangeOf base n
    sound [a, b]
    let s ← get
    match r, s.crewOf s.cur.ident.crew with
    | some p, some c =>
      if s.qways = 0 then
        wr d 0x8000000000000002
        pure .adv
      else
        match (List.range 4).find? (fun k => !c.windows.any (fun w => w.1 == k)) with
        | none =>
          wr d 0x8000000000000001
          pure .adv
        | some k =>
          modify (fun s => s.modCrew c.id (fun x =>
            { x with windows := x.windows ++ [(k, p.1 / 512 * 512, p.2 / 512 * 512 + 511)] }))
          wr d (w64 k)
          pure .adv
    | _, _ => pure .adv)

/-- `tr.unpin` (R318). -/
def execTrUnpin (a : Reg) := finish (do
  let v ← rv a
  if 3 < v.toNat then raise cBOUNDS v
  else
    sound [a]
    drained
    modify (fun s =>
      (s.modCrew s.cur.ident.crew (fun x => { x with windows := x.windows.filter (fun w => w.1 != v.toNat) })).relaxLines
        s.cur.ident.part)
    pure .adv)

/-! ### Line locks (R319) -/

/-- A line lock (R387). -/
def accLock : Acc := ⟨12, true, false⟩

/-- A lock reaches the line's home: its status, and the line locked when it is 0 (R319). -/
def State.lockLine (s : State) (p line va : Nat) : State × Nat :=
  let old := s.lines.find? (fun x => x.line == line)
  let retained := match old with | some x => x.resv == some p | none => false
  let q := match s.part? p with | some x => x.qways | none => 0
  let ls := s.setLines line
  let mine := (ls.filter (fun x => x.resv == some p)).length
  let all := (ls.filter (fun x => x.resv.isSome)).length
  if retained && (match old with | some x => x.locked | none => false) then (s, 4)
  else if q ≤ mine ∧ !retained then (s, 1)
  else if 4 ≤ all ∧ !retained then (s, 2)
  else
    let t := (s.touchLine p line 0xFFFF false 0 va).1
    ({ t with lines := t.lines.map (fun (x : HLine) =>
        if x.line = line then { x with resv := some p, locked := true, va := if retained then x.va else va } else x) }, 0)

/-- An unlock reaches the line's home (R319). -/
def State.unlockLine (s : State) (p line : Nat) : State :=
  ({ s with lines := s.lines.map (fun (x : HLine) =>
      if x.line = line ∧ x.resv = some p then { x with locked := false } else x) }).relaxLines p

/-- The lockable line that an address names (R319): none in the scratchpad window, on a page that is not cacheable, or whose
home is not local. -/
def lockable (va : Word) : M (Option Nat) := do
  let gs ← segsM va 1 accLock 0
  pure (gs.findSome? (fun g =>
    match g.page with
    | some p => if p.cach && keyHome g.key == 0 then some (keyPa g.key / 512) else none
    | none => none))

/-- `tr.lock` (R319). -/
def execTrLock (d a : Reg) := finishK 12 false (do
  ready d
  let va ← rv a
  drained
  let s ← get
  if s.cur.loadWaits then block
  else
    let l ← lockable va
    sound [a]
    match l with
    | none =>
      wr d 3
      pure .adv
    | some l =>
      let r ← outward (.lock l (va.toNat / 512 * 512)) (fun st =>
        let t := (st.heatUp st.cur.uid (512 * l)).lockLine st.cur.ident.part l (va.toNat / 512 * 512)
        (t.1, [w64 t.2]))
      wr d (r.headD 0)
      pure .adv)

/-- `tr.unlock` (R319). -/
def execTrUnlock (a : Reg) := finishK 12 false (do
  let va ← rv a
  drained
  let s ← get
  if s.cur.loadWaits then block
  else
    let l ← lockable va
    sound [a]
    match l with
    | none => pure .adv
    | some l =>
      let _ ← outward (.unlock l) (fun st => ((st.heatUp st.cur.uid (512 * l)).unlockLine st.cur.ident.part l, []))
      pure .adv)

end Sys2Proof.Machine
end

