-- ==== Sys2Proof/Machine/Atomic.lean ====
section
/-! DEFINITION. Atomics: `at` and `vat`, their executing stages, and the host's atomics (R332 to R338, R348, R433, R434). -/

namespace Sys2Proof.Machine

/-! ### Operations (R333) -/

/-- The operations of R40, by code. -/
def opAdd : Nat := 0
def opAnd : Nat := 1
def opOr : Nat := 2
def opXor : Nat := 3
def opMin : Nat := 4
def opMax : Nat := 5
def opMinu : Nat := 6
def opMaxu : Nat := 7
def opSwap : Nat := 8
def opCas : Nat := 9
def opFadd : Nat := 10
def opFmin : Nat := 11
def opFmax : Nat := 12

/-- op(old, v) at w bits (R333); the value that cas stores is v. -/
def atOp (op w old v : Nat) : Nat :=
  let t : ETy := if w = 64 then .i64 else .i32
  let f : ETy := if w = 64 then .f64 else .f32
  match op with
  | 0 => (old + v) % 2 ^ w
  | 1 => old &&& v
  | 2 => old ||| v
  | 3 => old ^^^ v
  | 4 => if intVal t v < intVal t old then v else old
  | 5 => if intVal t old < intVal t v then v else old
  | 6 => min old v
  | 7 => max old v
  | 10 => (fAdd f .rne false old v).bits
  | 11 => (fMinMax f false old v).bits
  | 12 => (fMinMax f true old v).bits
  | _ => v

/-- The operation stores its result: cas only when the old value is the expected one (R333). -/
def atStores (r : AtReq) (old : Nat) : Bool := r.op != opCas || old == r.expect.toNat % 2 ^ r.width

/-- The operation is combinable (R339). -/
def combinable (op : Nat) (ac : Bool) : Bool := op != opCas && (op != opFadd || ac)

/-- a ⊕ b (R339). -/
def comb (op w a b : Nat) : Nat := atOp op w a b

/-! ### How a request ends -/

/-- The result of a request at its executing stage: the old value and the mismatch to log, or a cause. -/
inductive AtRes where
  | ok (old : Nat) (mscope mdom : Nat)
  | poison
  | mismatch (scope dom : Nat) (home : Bool)
  | host (info : Nat)
deriving DecidableEq, Repr

/-- The words of a cause in a reply. -/
def AtRes.words : AtRes → List Word
  | .ok old a b => [w64 old, w64 a, w64 b]
  | .poison => [1, 0, 0, 0]
  | .mismatch k d h => [2, w64 k, w64 d, wBool h]
  | .host n => [3, w64 n, 0, 0]

/-- A cause read back from a reply's words. -/
def causeOf (ws : List Word) : AtRes :=
  match ws with
  | [a, b, c, d] =>
    if a = 1 then .poison
    else if a = 2 then .mismatch b.toNat c.toNat (d == 1)
    else .host b.toNat
  | _ => .poison

/-- The stop that a cause raises for an access at x in grain gva by scope k (R309, R333, R398, R433). -/
def AtRes.stop (r : AtRes) (x : Word) (gva k rst : Nat) : Stop :=
  match r with
  | .mismatch s d h => .trap ⟨cSCOPE_MISMATCH, w64 gva, (Mismatch.mk gva ⟨0, s, d, 0, 0, 0, 0⟩ k h).info, rst, 15, false⟩
  | .host n => .trap ⟨cHOST_ATOMIC, x, w64 n, rst, 15, false⟩
  | _ => .trap ⟨cPOISON, x, 2, rst, 15, false⟩

/-! ### At the home and at the host (R334, R433) -/

/-- The operation is carried out by the link engine as reads and compare-and-swaps (R433). -/
def emulated (op : Nat) : Bool := op != opAdd && op != opSwap && op != opCas

/-- The tries of an emulated atomic at the host (R433): a compare-and-swap that finds another value, which the host has written since, is
tried again with it. -/
def State.hostTries (r : AtReq) : Nat → Nat → State → AtRes × State
  | 0, _, s => (.host 64, s)
  | fuel + 1, old, s =>
    let n := r.width / 8
    let new_ := atOp r.op r.width old r.v.toNat
    if new_ = old then (.ok old 0 0, s)
    else
      let s1 := if s.hostBusy then
          ({ s with freeCtr := s.freeCtr + 1 }).memWrite r.key (leBytes n ((Config.freeWord s.freeCtr).toNat % 2 ^ r.width))
        else s
      let now := leNat (s1.memRead r.key n)
      if now = old then (.ok old 0 0, s1.memWrite r.key (leBytes n new_)) else State.hostTries r fuel now s1

/-- An atomic at the host (R433): the slice that holds the line has written out what it owes and dropped it. -/
def State.atHost (s : State) (r : AtReq) : AtRes × State :=
  let n := r.width / 8
  let line := r.key / 512 * 512
  let s := (s.hostOut (HostB.within line 512)).hostDrop line 512
  let old := leNat (s.memRead r.key n)
  if !s.hostAtom then (.host 0, s)
  else if emulated r.op then State.hostTries r 64 old s
  else if atStores r old then (.ok old 0 0, s.memWrite r.key (leBytes n (atOp r.op r.width old r.v.toNat)))
  else (.ok old 0 0, s)

/-- An atomic at the home of its word, from a placement `i` (R295, R306, R307, R333): the lookup of its grain counts, poison and the record
are checked, and the operation is one step in home order. -/
def State.atHomeFrom (s : State) (i : Ident) (uid : Nat) (r : AtReq) : AtRes × State :=
  let n := r.width / 8
  let s1 := s.homeLookup uid r.part r.crew r.gkey r.gva r.gsize r.pol r.cach
  if (s1.poisonIn r.key n).isSome then (.poison, s)
  else
    let rec_ := s1.homeRec r.gkey
    let ok := recOk rec_ r.scope r.dom i
    if !ok && r.trap then (.mismatch rec_.scope rec_.dom true, s)
    else
      let s2 := s1.setHomeRec ⟨r.gkey, r.scope, r.dom, r.core, r.slot, 0, r.gva⟩
      let f := s2.keyRead r.kid r.key n
      let old := leNat f.1
      let s3 := if atStores r old then
          (f.2.keyWrite r.kid r.key).memWrite r.key (leBytes n (atOp r.op r.width old r.v.toNat))
        else f.2
      (.ok old (if ok then 0 else rec_.scope) (if ok then 0 else rec_.dom), s3)

/-- An atomic of a strand of a quad where it executes beyond the quad: at the host, or at the home of its word (R334, R433). -/
def State.atHome (s : State) (quad uid : Nat) (r : AtReq) : AtRes × State :=
  if keyHome r.key = 1 then s.atHost r else s.atHomeFrom { s.cur.ident with quad := quad, core := r.core } uid r

/-- The requests of one effect at their homes, in order: all of them, or up to the first that fails (R337). -/
def State.atHomes (s : State) (quad uid : Nat) : List AtReq → List Word → Nat → State × List Word
  | [], acc, _ => (s, 0 :: acc)
  | r :: rest, acc, j =>
    match s.atHome quad uid r with
    | (.ok old a b, t) => State.atHomes t quad uid rest (acc ++ (AtRes.ok old a b).words) (j + 1)
    | (x, t) => (t, [1, w64 j] ++ x.words)

/-- The effect of the requests of strand `uid`: D is set on their pages immediately before they are performed (R385, R386). Nothing is left of
them when one fails, but for what the host has written to its word meanwhile (R433). -/
def State.atomics (s : State) (quad uid : Nat) (rs : List AtReq) : State × List Word :=
  let t := s.atHomes quad uid rs [] 0
  match t.2 with
  | 1 :: j :: _ =>
    match rs[j.toNat]? with
    | some r =>
      if keyHome r.key = 1 ∧ s.hostBusy then
        (({ s with freeCtr := t.1.freeCtr }).memWrite r.key (t.1.memRead r.key (r.width / 8)), t.2)
      else (s, t.2)
    | none => (s, t.2)
  | _ => (rs.foldl (fun (s : State) r => s.as uid (fun s => s.setDirtyAt r.va)) s).atHomes quad uid rs [] 0

/-! ### In the quad (R334, R348) -/

/-- The current core's bytes at given keys move outward to the quad stage, or to the scratchpad bank, and its atomic cache drops
them (R298, R334). -/
def State.pushCore (s : State) (key n : Nat) : State :=
  let c := s.cur.ident.core
  let s1 := s.spill s.quad.id c (s.quad.d.out.filter (fun b => b.core == some c && b.within key n))
  s1.modQ (fun q => { q with atoms := q.atoms.map (fun a =>
    if a.core = some c ∧ a.key ≤ key ∧ key < a.key + a.data.length then
      { a with holes := a.holes ++ ((List.range n).map (key + ·)).filter (fun k => !a.holes.contains k)
               out := a.out.filter (fun b => !b.within key n) } else a) })

/-- Checks the record of a fetched copy (R306, R307, R309): a cause, or the mismatch to log. -/
def checkRec (rec_ : ScopeRec) (r : AtReq) (i : Ident) : Except AtRes (Nat × Nat) :=
  if recOk rec_ r.scope r.dom i then .ok (0, 0)
  else if r.trap then .error (.mismatch rec_.scope rec_.dom false)
  else .ok (rec_.scope, rec_.dom)

/-- The access's record, at the epoch of the copy. -/
def newRec (old : ScopeRec) (r : AtReq) : ScopeRec := ⟨r.gkey, r.scope, r.dom, r.core, r.slot, old.epoch, r.gva⟩

/-- A scratchpad atomic: the quad outbound cache's ALU works on the bank (R298). -/
def State.atScratch (s : State) (r : AtReq) : AtRes × State :=
  let n := r.width / 8
  let s1 := s.pushCore r.key n
  if (s1.poisonIn r.key n).isSome then (.poison, s)
  else
    let rec_ := (s.quad.d.recs.find? (fun k => k.key == r.gkey)).getD (ScopeRec.none r.gkey)
    match checkRec rec_ r s.cur.ident with
    | .error e => (e, s)
    | .ok m =>
      let s2 := s1.modQ (fun q => { q with recs := newRec rec_ r :: q.recs.filter (fun k => k.key != r.gkey) })
      let old := leNat (s2.memRead r.key n)
      let s3 := if atStores r old then s2.memWrite r.key (leBytes n (atOp r.op r.width old r.v.toNat)) else s2
      (.ok old m.1 m.2, s3.addPend r.gkey r.gva r.gsize false)

/-- The stage of an atomic in the quad: its core's lane-banked atomic cache at CORE scope, else the quad outbound cache (R334). -/
def AtReq.stage (r : AtReq) : Option Nat := if r.scope = 1 then some r.core else none

/-- An atomic line is the one of a request at its stage: a core's cache is tagged by virtual address and ASID (R334). -/
def AtomLine.serves (a : AtomLine) (r : AtReq) : Bool :=
  a.core == r.stage && a.key == r.gkey && (a.core.isNone || (a.va == r.gva && a.asid == r.asid))

/-- The grain of an atomic at its stage: the line held, or one fetched with its record, by a core from the quad outbound cache when
that holds the grain, else from the home (R305, R334). Bytes that are poisoned where they were found are holes. -/
def State.atLine (s : State) (r : AtReq) : AtomLine × State :=
  match s.quad.d.atoms.find? (fun a => a.serves r) with
  | some a => (a, s)
  | none =>
    match (if r.scope = 1 then s.quad.d.atoms.find? (fun a => a.core.isNone && a.key == r.gkey) else none) with
    | some a => ({ a with core := r.stage, va := r.gva, asid := r.asid, out := [], data := overlay3 s.quad.d r.gkey a.data }, s)
    | none =>
      let bad := s.badSectors r.gkey r.gsize
      let s1 := s.homeLookup s.cur.uid r.part r.crew r.gkey r.gva r.gsize r.pol r.cach
      let f := s1.keyRead r.kid r.gkey r.gsize
      let data := if r.scope = 1 then overlay3 f.2.quad.d r.gkey f.1 else f.1
      ({ core := r.stage, key := r.gkey, va := r.gva, asid := r.asid, data := data,
         holes := ((List.range r.gsize).map (r.gkey + ·)).filter (fun k => bad.contains (k / 32)), out := [], rcd := s1.homeRec r.gkey }, f.2)

/-- A byte as the stage of an atomic in the quad holds it, with whether it is poisoned: for a core, its buffer's byte first; the
quad outbound cache's byte; the line's own; and a hole is filled from the quad outbound cache or the home (R291, R334, R398). -/
def State.atByte (s : State) (r : AtReq) (a : AtomLine) (k : Nat) : Byte × Bool :=
  let home : Byte × Bool := match stage3 s.quad.d k with
    | some b => (b.val, b.bad)
    | none => (s.hostByte k, s.poisonedAt k)
  if r.scope = 1 then
    match stage1 s.quad.d r.core k r.priv with
    | some b => (b.val, b.bad)
    | none => if a.holes.contains k then home else (a.data.getD (k - r.gkey) 0, false)
  else
    match stage3 s.quad.d k with
    | some b => (b.val, b.bad)
    | none => if a.holes.contains k then home else (a.data.getD (k - r.gkey) 0, false)

/-- The bytes of an atomic's result as an outbound stage takes them. -/
def AtReq.outBs (r : AtReq) (uid : Nat) (bs : List Byte) : List OutB :=
  bs.zipIdx.map (fun b => ⟨none, r.key + b.2, b.1, true, [uid], ⟨r.va.toNat + b.2, r.gsize, r.cach, r.kid, r.pol⟩, none, false⟩)

/-- The result of an atomic enters its stage: bytes turned at CORE in the core's buffer, or bytes of the quad outbound cache (R334,
R348). -/
def State.putResult (s : State) (r : AtReq) (bs : List Byte) : State :=
  let t := (r.outBs s.cur.uid bs).foldl (fun (s : State) b =>
    if r.scope = 1 then s.putOut b.key b.val true b.tag
    else s.modQ (fun q => { q with out := pushQuad q.out b })) s
  if r.scope = 1 then t.fitBuffer t.quad.id r.core else t.fitOutbound t.quad.id

/-- The quad outbound cache keeps nothing of a page that is not cacheable: the bytes and the record of a QUAD atomic go on to their
home (R220). -/
def State.passOn (s : State) (r : AtReq) : State :=
  if r.cach || r.scope == 1 then s
  else
    let bs := s.quad.d.out.filter (fun b => b.core.isNone && b.sent.isNone && b.within r.key (r.width / 8))
    s.sendHome s.quad.id s.cur.uid (s.cargo bs) (quadRecs s.quad.d r.gkey r.gsize) .drain

/-- A line of a core's atomic cache is evicted: it goes to the quad outbound cache, and a mismatch of its record is logged by the
record's writer (R307, R334). -/
def State.dropAtom (s : State) (core key : Nat) : State :=
  let t := s.liftAtom { s.cur.ident with quad := s.quad.id, core := core } key
  let r := s.quad.d.atoms.find? (fun a => a.core == some core && a.key == key)
  let u := match r.bind (fun a => s.whoOf s.quad.id a.rcd) with
    | some w => t.2.foldl (fun (s : State) m => s.chargeLog w m) t.1
    | none => t.1
  (u.passUncached u.quad.id).fitOutbound u.quad.id

/-- A core's atomic cache holds 16 KiB: its lines used longest ago that do not fit are evicted (R334; log 26). -/
def State.fitAtoms (s : State) (core : Nat) : State :=
  let ls := s.quad.d.atoms.filter (fun a => a.core == some core)
  let extra := (ls.foldl (fun (t : Nat × List AtomLine) a =>
    (t.1 + a.data.length, if 16384 < t.1 + a.data.length then a :: t.2 else t.2)) (0, [])).2
  extra.foldl (fun (s : State) a => s.dropAtom core a.key) s

/-- An atomic in the quad, at CORE or QUAD scope (R334, R348): before a QUAD one the core's bytes go outward; the record of the
stage's line is checked; the mask of the word is set even when its value does not change; the core's L1 gives up the grain. -/
def State.atQuad (s : State) (r : AtReq) : AtRes × State :=
  let n := r.width / 8
  let s0 := if r.scope = 1 then s else s.pushCore r.key n
  let l := s0.atLine r
  let word := (List.range n).map (fun i => l.2.atByte r l.1 (r.key + i))
  if word.any (·.2) then (.poison, s)
  else
    match checkRec l.1.rcd r s.cur.ident with
    | .error e => (e, s)
    | .ok m =>
      let old := leNat (word.map (·.1))
      let bs := leBytes n (if atStores r old then atOp r.op r.width old r.v.toNat else old)
      let line : AtomLine := { l.1 with
        rcd := newRec l.1.rcd r
        data := l.1.data.zipIdx.map (fun p => if r.key ≤ r.gkey + p.2 ∧ r.gkey + p.2 < r.key + n then bs.getD (r.gkey + p.2 - r.key) 0 else p.1)
        holes := l.1.holes.filter (fun k => decide (k < r.key) || decide (r.key + n ≤ k))
        out := if r.scope = 1 then r.outBs s.cur.uid bs ++ l.1.out.filter (fun b => !b.within r.key n) else [] }
      let s1 := l.2.modQ (fun q => { q with atoms := line :: q.atoms.filter (fun a => !a.serves r) })
      let s2 := (s1.putResult r bs).addPend r.gkey r.gva r.gsize r.cach
      let s3 := if r.scope = 1 then s2.fitAtoms r.core else s2
      (.ok old m.1 m.2, (s3.passOn r).dropGrain r.gkey r.gsize false)

/-- An atomic that executes within the quad: D is set on its page immediately before it is performed (R385). -/
def State.atLocal (s : State) (r : AtReq) : AtRes × State :=
  if keyHome r.key = 3 then s.atScratch r
  else match s.atQuad r with
    | (.ok _ _ _, _) => (s.setDirtyAt r.va).atQuad r
    | e => e

/-! ### Requests -/

/-- The access of an atomic once it has passed its checks. -/
structure AtAcc where
  e    : Nat
  x    : Word
  seg  : Seg
  v    : Nat
deriving DecidableEq, Repr

/-- It executes within the quad: CORE or QUAD scope, or the scratchpad; a host page never does (R298, R334, R433). -/
def AtAcc.isLocal (a : AtAcc) (scp : Nat) : Bool :=
  keyHome a.seg.key == 3 || (decide (scp ≤ 2) && keyHome a.seg.key != 1)

/-- The request of an access; a scratchpad access is of QUAD scope for records (R298). -/
def mkReq (s : State) (a : AtAcc) (op w scp : Nat) (ac : Bool) (v : Nat) (expect : Word) : AtReq :=
  let c := s.cur.sc
  let i := s.cur.ident
  let g := a.seg.grain
  let gk := a.seg.key / g * g
  let k := if keyHome a.seg.key = 3 then 2 else scp
  { key := a.seg.key, va := a.x, width := w, op := op, ac := ac, v := w64 v, expect := expect, scope := k,
    dom := scopeDom k i, core := i.core, slot := i.slot, trap := trapsScope c.scopectl k, gkey := gk,
    gva := a.x.toNat - (a.seg.key - gk), gsize := g, crew := i.crew, part := i.part,
    asid := (s.part? i.part).elim 0 (·.asid), cach := a.seg.cach,
    priv := (match a.seg.page with | some p => p.mine i | none => false), pol := modePOL c.md, kid := a.seg.kid }

/-- A mismatch of a completed request is logged (R309, R310). -/
def logAt (r : AtReq) (a b : Nat) : M Unit := do
  let s ← get
  if a = 0 then pure ()
  else set (s.chargeLog s.cur.uid ⟨r.gva, ⟨r.gkey, a, b, 0, 0, 0, 0⟩, r.scope, true⟩)

/-- Newer copies of the bytes in the issuer's core and quad go outward before an atomic executes at the home: its lines drop the
bytes, and its clean copies of the grain go (R334). -/
def State.pushHome (s : State) (r : AtReq) : State :=
  let n := r.width / 8
  let s1 := (s.pushCore r.key n).modQ (fun q => { q with atoms := q.atoms.map (fun a =>
    if a.core.isNone ∧ a.key ≤ r.key ∧ r.key < a.key + a.data.length then
      { a with holes := a.holes ++ ((List.range n).map (r.key + ·)).filter (fun k => !a.holes.contains k) } else a) })
  let bs := s1.quad.d.out.filter (fun b => b.core.isNone && b.sent.isNone && b.within r.key n)
  let s2 := if bs.isEmpty then s1 else s1.sendHome s1.quad.id s1.cur.uid (s1.cargo bs) [] .home
  s2.dropGrain r.gkey r.gsize true

/-- Sends requests to their homes, and the words of the answer (R333). -/
def sendAt (rs : List AtReq) : M (List Word) := do
  let s ← get
  platform (EffKind.atomic rs).size
  (if s.cur.handed.isNone then modify (fun s => rs.foldl (fun (s : State) r => s.pushHome r) s) else pure ())
  outwardGo (.atomic rs) (fun st => st.atomics st.cur.ident.quad st.cur.uid rs)

/-! ### Passing an `at` before its acknowledgement (R333) -/

/-- The next `at` that a strand has passed is handed, once the ones before it have been acknowledged (R394, R414). -/
def State.handNext (s : State) (uid : Nat) : State :=
  match s.ahead.find? (fun a => a.strand.uid == uid), s.strand? uid with
  | some a, some x =>
    if a.eff.isSome then s
    else
      let id := s.effSeq
      { (s.handOn x.ident.quad uid (.atomic [a.req])) with
        ahead := s.ahead.map (fun k => if k.strand.uid == uid && k.strand.sc.icount == a.strand.sc.icount then { k with eff := some id } else k) }
  | _, _ => s

/-- The answer to an effect reaches its strand. That of an `at` the strand has passed completes it: its mismatch is logged, its acquire made,
and the next such `at` is handed. A cause takes the strand back to the `at`, where it is raised, and abandons the younger ones (R333, R394). -/
def State.answer (s : State) (uid id : Nat) (ws : List Word) : State :=
  match s.ahead.find? (fun a => a.eff == some id) with
  | none => s.reply uid id ws
  | some a =>
    let s1 := ({ s with ahead := s.ahead.filter (fun k => k.eff != some id) }).reply uid id ws
    match ws with
    | [c, _, k, d] =>
      if c = 0 then
        let s2 := if k = 0 then s1 else s1.chargeLog uid ⟨a.req.gva, ⟨a.req.gkey, k.toNat, d.toNat, 0, 0, 0, 0⟩, a.req.scope, true⟩
        let s3 := if a.acq then s2.as uid (fun s => s.acquire a.req.scope) else s2
        s3.handNext uid
      else s1
    | _ =>
      ({ s1 with ahead := s1.ahead.filter (fun k => k.strand.uid != uid) }).modStrand uid (fun x => { a.strand with
        status := x.status, ident := x.ident, offer := x.offer, parkSlot := x.parkSlot, parkSeq := x.parkSeq, waiting := false, tried := false
        handed := some ⟨id, some ws⟩ })

/-- Sends the request of an `at` with NR = 1, behind those the strand has passed before, and lets the strand pass it (R333). -/
def passAt (r : AtReq) (o : AOrd) : M Unit := do
  platform 96
  let s ← get
  let t := s.pushHome r
  let a : Ahead := ⟨none, r, o == .acq || o == .ar, s.cur⟩
  set (({ t with ahead := t.ahead ++ [a] } : State).handNext s.cur.uid)
  modCur (fun x => { x with vat := none })

/-! ### Checks (R50, R332, R333) -/

/-- A scalar atomic (R387); the checks need R and W (R220). -/
def accVat : Acc := ⟨6, true, true⟩

/-- The types an operation takes (R46). -/
def atType (op : Nat) (t : ETy) : Bool :=
  let int := decide (t = .i32) || decide (t = .c32) || decide (t = .i64) || decide (t = .c64)
  let fp := decide (t = .f32) || decide (t = .f64)
  if op ≤ 7 then int else if op ≤ 9 then int || fp else fp

/-- SCP is 1 to 5 (R45, R332). -/
def needSCP (i : Instr) : M Nat := do
  let c ← sc
  let k := modeSCP c.md
  if k = 0 ∨ 6 ≤ k then modeIllegal i 18 else pure k

/-- The checks of one address: MISALIGN in its place, the pages, and un-turned data, behind older stores that are still queued (R50, R224,
R333). -/
def atAccess (x : Word) (w : Nat) (a : Acc) (rst : Nat) : M Seg := do
  let gs ← alignedSegs (x.toNat % (w / 8) != 0) x [(x, w / 8)] a rst
  behindStores isSt gs
  turnCheck gs rst
  match gs with
  | g :: _ => pure g
  | [] => throw (.trap ⟨cPAGE_NP, x, 0, rst, a.kind, a.wr⟩)

/-- The release that an ORD asks for, once every older access of the strand is performed (R302). -/
def ordRelease (o : AOrd) (scp : Nat) : M Unit :=
  match o with
  | .rel | .ar => do
    performed
    release scp
  | _ => pure ()

/-- The acquire that an ORD asks for. -/
def ordAcquire (o : AOrd) (scp : Nat) : M Unit :=
  match o with
  | .acq => modify (fun s => s.acquire scp)
  | .ar => modify (fun s => s.acquire scp)
  | _ => pure ()

/-! ### at (R332, R333) -/

/-- The value that `at` writes to s[D] (R333). -/
def atResult (t : ETy) (old : Nat) : Word :=
  if t = .i32 ∧ 2 ^ 31 ≤ old then w64 (old + (2 ^ 64 - 2 ^ 32)) else w64 old

/-- The atomic performed: its old value, or its cause raised. -/
def atPerform (r : AtReq) (loc : Bool) : M Nat := do
  if loc then
    let s ← get
    match s.atLocal r with
    | (.ok old a b, t) => do
      set t
      logAt r a b
      pure old
    | (x, _) => throw (x.stop r.va r.gva r.scope 0)
  else
    let ws ← sendAt [r]
    match ws with
    | _ :: old :: a :: b :: [] => do
      logAt r a.toNat b.toNat
      pure old.toNat
    | _ :: _ :: c => throw ((causeOf c).stop r.va r.gva r.scope 0)
    | _ => pure 0

/-- An `at` that executes within the quad finds its cause before it releases anything (R10). -/
def atTry (r : AtReq) (loc : Bool) : M Unit := do
  let s ← get
  if !loc then pure ()
  else match (s.atLocal r).1 with
    | .ok _ _ _ => pure ()
    | x => throw (x.stop r.va r.gva r.scope 0)

/-- The strand goes on past an `at` with NR = 1 while its request travels, but not on a host page (R333, R433). -/
def passes (s : State) (nr loc : Bool) (k : Nat) : Bool :=
  nr && !loc && s.held && s.cur.handed.isNone && keyHome k != 1

/-- A request executes within the quad (R298, R334, R433). -/
def AtReq.isLocal (r : AtReq) : Bool := keyHome r.key == 3 || (decide (r.scope ≤ 2) && keyHome r.key != 1)

/-- Waits before an `at`: one that leaves the quad is handed once every older instruction has completed, but for the ones with NR = 1 that
the strand has passed, behind which it waits to be handed itself (R333, R414); one within the quad is performed once no older instruction
can trap and every older `at` has been acknowledged (R394). -/
def atOrder (loc nr : Bool) : M Unit := do
  let s ← get
  if loc then behindAt
  else if !s.cur.vq.isEmpty || !s.cur.mq.isEmpty then block
  else if nr && s.held then pure ()
  else behindAt

/-- An `at` that has passed its checks (R333): its release, its operation and its acquire. -/
def atGo (d : Reg) (nr : Bool) (o : AOrd) (t : ETy) (scp : Nat) (r : AtReq) : M Done := do
  ordRelease o scp
  let z ← get
  if passes z nr r.isLocal r.key then
    passAt r o
    pure .adv
  else
    let old ← atPerform r r.isLocal
    makeSure
    ordAcquire o scp
    modCur (fun x => { x with vat := none })
    (if nr then pure () else wr d (atResult t old))
    pure .adv

/-- A scalar atomic (R333). Its operands' poison is tested after the checks that R50 puts before it; none of the checks is made again once it is
under way (R10). -/
def atForm (i : Instr) (d a b : Reg) (nr : Bool) (o : AOrd) (ac : Bool) (op : Nat) : M Done := do
  let t ← needETA i (atType op)
  let scp ← needSCP i
  let w := etyBits t
  let x ← rv a
  let v ← rv b
  let expect ← (if op = opCas then rv d else pure 0)
  ready d
  settled
  let s ← get
  match s.cur.vat with
  | some ⟨k :: _, _, _⟩ => atGo d nr o t scp k.req
  | _ =>
    if s.cur.loadWaits then block
    else
      unfenced true true
      let g ← atAccess x w accAt 0
      sound (if op = opCas then [a, b, d] else [a, b])
      let u ← get
      let acc : AtAcc := ⟨0, x, g, v.toNat % 2 ^ w⟩
      let r := mkReq u acc op w scp ac acc.v expect
      clearOfStrips [g]
      atOrder r.isLocal nr
      atTry r r.isLocal
      modCur (fun y => { y with vat := some ⟨[⟨0, acc.v, r⟩], 0, none⟩ })
      atGo d nr o t scp r

def execAtAdd (d a b : Reg) (nr : Bool) (r : AOrd) (ac : Bool) := finishK 3 true (atForm (.atAdd d a b nr r ac) d a b nr r ac opAdd)
def execAtAnd (d a b : Reg) (nr : Bool) (r : AOrd) (ac : Bool) := finishK 3 true (atForm (.atAnd d a b nr r ac) d a b nr r ac opAnd)
def execAtOr (d a b : Reg) (nr : Bool) (r : AOrd) (ac : Bool) := finishK 3 true (atForm (.atOr d a b nr r ac) d a b nr r ac opOr)
def execAtXor (d a b : Reg) (nr : Bool) (r : AOrd) (ac : Bool) := finishK 3 true (atForm (.atXor d a b nr r ac) d a b nr r ac opXor)
def execAtMin (d a b : Reg) (nr : Bool) (r : AOrd) (ac : Bool) := finishK 3 true (atForm (.atMin d a b nr r ac) d a b nr r ac opMin)
def execAtMax (d a b : Reg) (nr : Bool) (r : AOrd) (ac : Bool) := finishK 3 true (atForm (.atMax d a b nr r ac) d a b nr r ac opMax)
def execAtMinu (d a b : Reg) (nr : Bool) (r : AOrd) (ac : Bool) := finishK 3 true (atForm (.atMinu d a b nr r ac) d a b nr r ac opMinu)
def execAtMaxu (d a b : Reg) (nr : Bool) (r : AOrd) (ac : Bool) := finishK 3 true (atForm (.atMaxu d a b nr r ac) d a b nr r ac opMaxu)
def execAtSwap (d a b : Reg) (nr : Bool) (r : AOrd) (ac : Bool) := finishK 3 true (atForm (.atSwap d a b nr r ac) d a b nr r ac opSwap)
def execAtCas (d a b : Reg) (r : AOrd) := finishK 3 true (atForm (.atCas d a b r) d a b false r false opCas)
def execAtFadd (d a b : Reg) (nr : Bool) (r : AOrd) (ac : Bool) := finishK 3 true (atForm (.atFadd d a b nr r ac) d a b nr r ac opFadd)
def execAtFmin (d a b : Reg) (nr : Bool) (r : AOrd) (ac : Bool) := finishK 3 true (atForm (.atFmin d a b nr r ac) d a b nr r ac opFmin)
def execAtFmax (d a b : Reg) (nr : Bool) (r : AOrd) (ac : Bool) := finishK 3 true (atForm (.atFmax d a b nr r ac) d a b nr r ac opFmax)

/-! ### vat (R336 to R338, R434) -/

/-- The elements of one address, in increasing order, for each address in order of its lowest element. -/
def byKey : List AtElt → List (List AtElt) → List (List AtElt)
  | [], acc => acc
  | a :: r, acc =>
    if acc.any (fun g => match g with | b :: _ => b.req.key == a.req.key | [] => false) then
      byKey r (acc.map (fun g => match g with | b :: _ => if b.req.key = a.req.key then g ++ [a] else g | [] => g))
    else byKey r (acc ++ [[a]])

/-- The merge of R337: one request for each address of a combinable operation, otherwise one for each element; elements on host pages are
performed singly (R434). Requests stand in increasing order of their lowest elements. -/
def mergeElts (op : Nat) (ac : Bool) (es : List AtElt) : List (List AtElt) :=
  let host (a : AtElt) : Bool := keyHome a.req.key == 1
  if combinable op ac && !es.any host then byKey es [] else es.map (fun a => [a])

/-- The ⊕-sum of the operands. -/
def combSum (op w : Nat) : List AtElt → Nat
  | [] => 0
  | a :: r => r.foldl (fun v b => comb op w v b.v) a.v

/-- The request of some elements of one address: the lowest one's, carrying their ⊕-sum. -/
def merged (op w : Nat) (g : List AtElt) : Option AtReq :=
  match g with
  | a :: _ => some { a.req with v := w64 (combSum op w g) }
  | [] => none

/-- The value each element of a request receives: old for the lowest, then old ⊕ the ⊕-sum of the elements below it (R337). -/
def splitGo (op w old : Nat) : List AtElt → Nat → List (Nat × Nat)
  | [], _ => []
  | a :: r, sum => (a.e, comb op w old sum) :: splitGo op w old r (comb op w sum a.v)

/-- The same from the first element on. -/
def splitOld (op w : Nat) (as_ : List AtElt) (old : Nat) : List (Nat × Nat) :=
  match as_ with
  | [] => []
  | a :: r => (a.e, old) :: splitGo op w old r a.v

/-- The checks of one active element, and its access (R337). -/
def vatElt (x : Strand) (d a b : Reg) (w e : Nat) : M AtAcc := do
  if x.guardPoison e then raiseAt cPOISON (w64 (modeG x.sc.md)) 0 e
  else
    let addr := elemAddr x b (.x a) w e
    let g ← atAccess addr w accVat e
    addrSound x b (.x a) w e
    match rdE x d.toNat w e with
    | .error r => vPoison r e
    | .ok v => pure ⟨e, addr, g, v⟩

/-- Checks elements in increasing order up to the first that fails. -/
def vatChecks (f : Nat → M AtAcc) : List Nat → List AtAcc → M (List AtAcc × Option (Nat × Stop))
  | [], acc => pure (acc.reverse, none)
  | e :: r, acc => do
    let s ← get
    match (f e).run s with
    | .ok v t => do
      set t
      vatChecks f r (v :: acc)
    | .error k _ => pure (acc.reverse, some (e, k))

/-- The requests, performed within the quad in order: all of them, or none when one fails (R337). -/
def State.localAll (s : State) : List AtReq → List Word → Nat → State × List Word
  | [], acc, _ => (s, 0 :: acc)
  | r :: rest, acc, j =>
    match s.atLocal r with
    | (.ok old a b, t) => State.localAll t rest (acc ++ (AtRes.ok old a b).words) (j + 1)
    | (x, _) => (s, [1, w64 j] ++ x.words)

/-- The answers of requests, three words each. -/
def triples : List Word → List (Nat × Nat × Nat)
  | a :: b :: c :: r => (a.toNat, b.toNat, c.toNat) :: triples r
  | _ => []

/-- The words of the answers to requests, which are performed within the quad or sent together in increasing element order (R337, R338,
R414). -/
def vatSend (rs : List AtReq) : M (List Word) := do
  match rs with
  | [] => pure [0]
  | r :: _ =>
    if r.isLocal then
      let s ← get
      let t := s.localAll rs [] 0
      (if t.2.headD 0 = 0 then set t.1 else pure ())
      pure t.2
    else sendAt rs

/-- Writes what the elements received (R337). -/
def vatWrite (d : Reg) (w limit : Nat) (nr : Bool) (vals : List (Nat × Nat)) : M Unit := do
  let s ← get
  let x := s.cur
  if nr then pure ()
  else (List.range (min limit x.sc.vlc)).forM (fun e =>
    if e < x.rstix.toNat then pure ()
    else match vals.find? (fun v => v.1 == e) with
      | some v => modCur (fun y => y.setElt d.toNat w e v.2)
      | none => if x.active e then pure () else idleElt d.toNat w e)

/-- The elements of the next part of a `vat`, from RSTIX on (R337): those before the lowest that fails its checks, which all execute within the
quad or all beyond it. DESIGN CHOICE (log 28): elements of the two kinds are performed in parts of their own, in increasing order, and
merge within a part; the spec does not say how requests at several stages stand to one of them that fails there. -/
def vatPart (d a b : Reg) (ac : Bool) (op w : Nat) : M AtRun := do
  behindAt
  let s ← get
  let x := s.cur
  let scp := modeSCP x.sc.md
  let chk ← vatChecks (vatElt x d a b w) x.working []
  match chk.2, chk.1 with
  | some (_, .wait), _ => block
  | some (e, k), [] =>
    vatWrite d w e false []
    throw k
  | f, accs =>
    let u ← get
    let els := accs.map (fun k => AtElt.mk k.e k.v (mkReq u k op w scp ac k.v 0))
    let loc := (els.head?).elim false (·.req.isLocal)
    let part := els.takeWhile (fun k => k.req.isLocal == loc)
    clearOfStrips (accs.map (·.seg))
    let stop := match (els.drop part.length).head?, f with
      | some k, _ => k.e
      | none, some p => p.1
      | none, none => x.sc.vlc
    pure ⟨part, stop, none⟩

/-- Performs the next part of a `vat`: nothing of it when a request fails, whose element then ends it (R337). RSTIX goes past what has been
performed. The answer tells whether every element is done. -/
def vatStep (d a b : Reg) (nr : Bool) (o : AOrd) (ac : Bool) (op w : Nat) : M Bool := do
  let s ← get
  let scp := modeSCP s.cur.sc.md
  let run ← (match s.cur.vat with
    | some r => pure r
    | none => vatPart d a b ac op w)
  modCur (fun y => { y with vat := some run })
  ordRelease o scp
  let gs := mergeElts op ac run.els
  let reqs := gs.filterMap (merged op w)
  let ws ← vatSend reqs
  match ws with
  | 1 :: j :: cause =>
    match (gs[j.toNat]?).bind (·.head?) with
    | some k =>
      modCur (fun y => { y with vat := some ⟨run.els.filter (fun m => decide (m.e < k.e)), k.e, some (k.req, cause)⟩ })
      pure false
    | none => pure true
  | _ =>
    let olds := triples (ws.drop 1)
    (reqs.zip olds).forM (fun p => logAt p.1 p.2.2.1 p.2.2.2)
    ordAcquire o scp
    vatWrite d w run.stop nr ((gs.zip olds).flatMap (fun p => splitOld op w p.1 p.2.1))
    modCur (fun y => { y with vat := none, rstix := BitVec.ofNat 16 run.stop })
    match run.fail with
    | some (r, cause) => throw ((causeOf cause).stop r.va r.gva scp run.stop)
    | none => pure (decide (s.cur.sc.vlc ≤ run.stop))

/-- The parts of a `vat`, in order. -/
def vatParts (d a b : Reg) (nr : Bool) (o : AOrd) (ac : Bool) (op w : Nat) : Nat → M Unit
  | 0 => pure ()
  | fuel + 1 => do
    let done ← vatStep d a b nr o ac op w
    if done then pure () else vatParts d a b nr o ac op w fuel

/-- `vat` (R337). -/
def vatRun (d a b : Reg) (nr : Bool) (o : AOrd) (ac : Bool) (op : Nat) : M Unit := do
  let wg ← vpWidth
  waitSources [(d.toNat, wg.2), (a.toNat, wg.2)]
  unfenced true true
  readGuard
  soundIdle [b]
  let c ← sc
  vatParts d a b nr o ac op wg.1 (2 * c.vlc + 2)

/-- The checks of `vat` that MODE decides (R159, R184, R332, R336). -/
def vatCheck (i : Instr) (d a b : Reg) (nr : Bool) (op : Nat) : M Unit := do
  let t ← needETA i (atType op)
  let _ ← needSCP i
  let w := etyBits t
  vGroups i w [⟨d.toNat, w, !nr, false⟩, ⟨a.toNat, w, false, false⟩]
  ready b

/-- A vector atomic. -/
def vatForm (i : Instr) (d a b : Reg) (nr : Bool) (o : AOrd) (ac : Bool) (op : Nat) : M Done :=
  vecInstr i (vatCheck i d a b nr op) noDraws (vatRun d a b nr o ac op)

def execVatAdd (d a b : Reg) (nr : Bool) (r : AOrd) (ac : Bool) := finishK 6 true (vatForm (.vatAdd d a b nr r ac) d a b nr r ac opAdd)
def execVatAnd (d a b : Reg) (nr : Bool) (r : AOrd) (ac : Bool) := finishK 6 true (vatForm (.vatAnd d a b nr r ac) d a b nr r ac opAnd)
def execVatOr (d a b : Reg) (nr : Bool) (r : AOrd) (ac : Bool) := finishK 6 true (vatForm (.vatOr d a b nr r ac) d a b nr r ac opOr)
def execVatXor (d a b : Reg) (nr : Bool) (r : AOrd) (ac : Bool) := finishK 6 true (vatForm (.vatXor d a b nr r ac) d a b nr r ac opXor)
def execVatMin (d a b : Reg) (nr : Bool) (r : AOrd) (ac : Bool) := finishK 6 true (vatForm (.vatMin d a b nr r ac) d a b nr r ac opMin)
def execVatMax (d a b : Reg) (nr : Bool) (r : AOrd) (ac : Bool) := finishK 6 true (vatForm (.vatMax d a b nr r ac) d a b nr r ac opMax)
def execVatMinu (d a b : Reg) (nr : Bool) (r : AOrd) (ac : Bool) := finishK 6 true (vatForm (.vatMinu d a b nr r ac) d a b nr r ac opMinu)
def execVatMaxu (d a b : Reg) (nr : Bool) (r : AOrd) (ac : Bool) := finishK 6 true (vatForm (.vatMaxu d a b nr r ac) d a b nr r ac opMaxu)
def execVatSwap (d a b : Reg) (nr : Bool) (r : AOrd) (ac : Bool) := finishK 6 true (vatForm (.vatSwap d a b nr r ac) d a b nr r ac opSwap)
def execVatFadd (d a b : Reg) (nr : Bool) (r : AOrd) (ac : Bool) := finishK 6 true (vatForm (.vatFadd d a b nr r ac) d a b nr r ac opFadd)
def execVatFmin (d a b : Reg) (nr : Bool) (r : AOrd) (ac : Bool) := finishK 6 true (vatForm (.vatFmin d a b nr r ac) d a b nr r ac opFmin)
def execVatFmax (d a b : Reg) (nr : Bool) (r : AOrd) (ac : Bool) := finishK 6 true (vatForm (.vatFmax d a b nr r ac) d a b nr r ac opFmax)

end Sys2Proof.Machine
end

