-- ==== Sys2Proof/Machine/Sha3.lean ====
section
/-! DEFINITION. SHA3-256, which the spec names for image tags, manifests and measurements (R460, R462, R467). PRESUMED from
FIPS 202 (log 11). The state is five planes of five 64-bit lanes, plane y holding the lanes (0, y) to (4, y). -/

namespace Sys2Proof.Machine

/-- The five lanes of one row. -/
abbrev Plane := BitVec 320

/-- The state: planes 0 to 4. -/
abbrev Sponge := Vector Plane 5

/-- The lanes of a plane moved down by k places: place x holds what stood at x + k. -/
def Plane.shift (p : Plane) (k : Nat) : Plane := p.rotateRight (64 * (k % 5))

/-- Every lane of a plane rotated left by one bit. -/
def Plane.turn (p : Plane) : Plane :=
  let top : Plane := 0x80000000000000008000000000000000800000000000000080000000000000008000000000000000
  ((p &&& ~~~top) <<< 1) ||| ((p &&& top) >>> 63)

/-- Lane x of a plane. -/
def Plane.lane (p : Plane) (x : Nat) : Word := (p >>> (64 * x)).truncate 64

/-- The first step of a round: every lane meets the parities of the column before it and of the one after it. -/
def Sponge.mix (a : Sponge) : Sponge :=
  let p : Plane := a.toList.foldl (· ^^^ ·) 0
  let d := p.shift 4 ^^^ (p.shift 1).turn
  a.map (· ^^^ d)

/-- The journeys of the lanes: from place (x, y) to place (y, 2x + 3y), rotated by the triangular numbers, in the order in which one
journey starts where another ends. -/
def journeys : Nat → Nat → Nat → Nat → List (Nat × Nat × Nat)
  | 0, _, _, _ => []
  | n + 1, t, x, y => (x, y, t * (t + 1) / 2 % 64) :: journeys n (t + 1) y ((2 * x + 3 * y) % 5)

/-- The second and third steps: every lane but the first is rotated and moved. -/
def Sponge.travel (a : Sponge) : Sponge :=
  (journeys 24 1 1 0).foldl (fun (b : Sponge) j =>
    let v : Plane := (((a[j.2.1]?.getD 0).lane j.1).rotateLeft j.2.2).zeroExtend 320
    let y := (2 * j.1 + 3 * j.2.1) % 5
    b.setIfInBounds y ((b[y]?.getD 0) ||| (v <<< (64 * j.2.1))))
    ((Vector.replicate 5 0).set 0 (((a[0]).lane 0).zeroExtend 320))

/-- The fourth step, within each plane. -/
def Sponge.bend (a : Sponge) : Sponge := a.map (fun p => p ^^^ (~~~(p.shift 1) &&& p.shift 2))

/-- The next value of the 8-bit register that makes the round constants. -/
def nextSeed (r : Nat) : Nat := if 128 ≤ r then (2 * r) ^^^ 0x171 else 2 * r

/-- A round's constant, of which bits 0, 1, 3, 7, 15, 31 and 63 come from the register, and the register after it. -/
def roundConst : Nat → Nat → Nat → Nat × Nat
  | 0, _, r => (0, r)
  | n + 1, j, r =>
    let t := roundConst n (j + 1) (nextSeed r)
    (t.1 + r % 2 * 2 ^ (2 ^ j - 1), t.2)

/-- The rounds of the permutation. -/
def rounds : Nat → Nat → Sponge → Sponge
  | 0, _, a => a
  | n + 1, r, a =>
    let c := roundConst 7 0 r
    let b := a.mix.travel.bend
    rounds n c.2 (b.set 0 (b[0] ^^^ BitVec.ofNat 320 c.1))

/-- The permutation: 24 rounds. -/
def Sponge.permute (a : Sponge) : Sponge := rounds 24 1 a

/-- A message with its padding, in bytes: the suffix 01 of SHA-3, a one, zeros, a one, up to whole blocks of 136 bytes. -/
def shaPadded (m : List Byte) : List Byte :=
  let k := 136 - m.length % 136
  m ++ leBytes k (6 + 2 ^ (8 * k - 1))

/-- Takes in n blocks. -/
def absorb : Nat → List Byte → Sponge → Sponge
  | 0, _, a => a
  | n + 1, m, a =>
    let v := leNat (m.take 136)
    absorb n (m.drop 136) (Sponge.permute (Vector.ofFn (fun (y : Fin 5) => a[y] ^^^ BitVec.ofNat 320 (v / 2 ^ (320 * y.val)))))

/-- SHA3-256. -/
def sha3 (m : List Byte) : List Byte :=
  let p := shaPadded m
  leBytes 32 ((absorb (p.length / 136) p (Vector.replicate 5 0))[0]).toNat

end Sys2Proof.Machine
end

