-- ==== Sys2Proof/Machine/Sync.lean ====
section
/-! DEFINITION. The communication file and the barrier forms: the `cf` forms (R272 to R287). -/

namespace Sys2Proof.Machine

/-- A `cf` form waits until every older access, turn and `cf` form of the strand has been performed (R276); what it does cannot be
taken back, so it waits for older instructions that may still trap too (R394). -/
def cfReady : M Unit := do
  drained
  performed

/-! ### The communication file (R272 to R276) -/

/-- The index of a semaphore bit or word, at most `top` (R274). -/
def fileIndex (a : Reg) (top : Nat) : M Nat := do
  let i ← rv a
  if top < i.toNat then raise cBOUNDS i
  else
    sound [a]
    cfReady
    pure i.toNat

/-- A semaphore bit of the current quad. -/
def State.semBit (s : State) (i : Nat) : Bool := s.quad.d.sem.getLsbD i

/-- Sets a semaphore bit of the current quad. -/
def State.setSem (s : State) (i : Nat) (b : Bool) : State :=
  s.modQ (fun q =>
    let m : BitVec 64 := BitVec.ofNat 64 (2 ^ i)
    { q with sem := if b then q.sem ||| m else q.sem &&& ~~~m })

/-- A word of the current quad's file. -/
def State.fileWord (s : State) (i : Nat) : Word := s.quad.d.words.toList.getD i 0

/-- Writes a word of the current quad's file. -/
def State.setFileWord (s : State) (i : Nat) (v : Word) : State :=
  s.modQ (fun q => { q with words := q.words.setIfInBounds i v })

/-- `cf.tsb` (R274). -/
def execCfTsb (d a : Reg) := finish (do
  ready d
  let i ← fileIndex a 63
  let s ← get
  set ((s.setSem i true).setReg d (wBool (s.semBit i)))
  pure .adv)

/-- `cf.tst` (R274). -/
def execCfTst (d a : Reg) := finish (do
  ready d
  let i ← fileIndex a 63
  modify (fun s => s.setReg d (wBool (s.semBit i)))
  pure .adv)

/-- `cf.clr` (R274). -/
def execCfClr (a : Reg) := finish (do
  let i ← fileIndex a 63
  modify (fun s => s.setSem i false)
  pure .adv)

/-- `cf.rd` (R274). -/
def execCfRd (d a : Reg) := finish (do
  ready d
  let i ← fileIndex a 31
  modify (fun s => s.setReg d (s.fileWord i))
  pure .adv)

/-- `cf.wr` (R274). -/
def execCfWr (a b : Reg) := finish (do
  let i ← fileIndex a 31
  let v ← rd b
  modify (fun s => s.setFileWord i v)
  pure .adv)

/-! ### Barrier forms (R278 to R286) -/

/-- The barrier operand, checked in the order of R278: its scope and the barrier's number. -/
def barOperand (i : Instr) (a : Reg) : M (Nat × Nat) := do
  let v ← rv a
  let s ← get
  let k := bitsOf v 10 8
  let id := bitsOf v 7 0
  let p := s.part? s.cur.ident.part
  if 6 ≤ k then wordIllegal i
  else if k = 0 then raise cBOUNDS v
  else if bitsOf v 63 11 ≠ 0 then raise cBOUNDS v
  else if barLimit p k ≤ id then raise cBOUNDS v
  else
    sound [a]
    pure (k, barKey p s.cur.ident k id)

/-- The release of an arrival at its barrier's scope (R284): POD is a release at POD. -/
def arriveRelease (k : Nat) : M Unit := do
  cfReady
  release k

/-- Sends an arrival (R282, R285): at CORE and QUAD scope it reaches its barrier at once, a wider one leaves the quad. -/
def sendArrival (k b : Nat) : M Unit := do
  (if k ≤ 2 then pure () else platform 64)
  modCur (fun x => x.noteArrival b)
  if k ≤ 2 then modify (fun s => s.arriveAt s.cur.uid b)
  else emitGo (.arrive b) (fun st => st.arriveAt st.cur.uid b)

/-- An arrival of the strand at a barrier has not reached it: its record is still to be made (R282, R285). -/
def State.arriving (s : State) (b : Nat) : Bool :=
  s.pendingEff s.cur.uid (fun k => match k with | .arrive c => c == b | _ => false)

/-- The wait step (R282): without a record it completes with no acquire; a complete record is discarded and the wait
acquires at the barrier's scope. -/
def awaitPhase (k b : Nat) : M Unit := do
  let s ← get
  match s.cur.barRec b with
  | none => pure ()
  | some r =>
    if r.done && !s.arriving b then set ((s.modCur (fun x => x.dropRec b)).acquire k) else block

/-- `cf.arrive` (R282). -/
def execCfArrive (a : Reg) := finish (do
  let o ← barOperand (.cfArrive a) a
  arriveRelease o.1
  sendArrival o.1 o.2
  pure .adv)

/-- `cf.wait` (R282). -/
def execCfWait (a : Reg) := finish (do
  let o ← barOperand (.cfWait a) a
  cfReady
  awaitPhase o.1 o.2
  pure .adv)

/-- `cf.sync` (R282, R286): it arrives once. -/
def execCfSync (a : Reg) := finish (do
  let o ← barOperand (.cfSync a) a
  let s ← get
  if s.cur.syncWait then pure ()
  else
    arriveRelease o.1
    sendArrival o.1 o.2
    modCur (fun x => { x with syncWait := true })
  awaitPhase o.1 o.2
  modCur (fun x => { x with syncWait := false })
  pure .adv)

/-- `cf.twait` ends with a status. -/
def twaitEnd (d : Reg) (v : Word) (s : State) : State := (s.setReg d v).modCur (fun x => { x with deadline := none })

/-- A `cf.twait` that has its deadline (R283): the deadline's tick still belongs to the wait, for a limit of 0 too. -/
def twaitStep (t : TWait) : M Done := do
  cfReady
  let s ← get
  match s.cur.barRec t.bar with
  | none =>
    modify (twaitEnd t.d 2)
    pure .adv
  | some r =>
    if r.done && decide (r.time ≤ t.deadline) && !s.arriving t.bar then
      set (twaitEnd t.d 0 ((s.modCur (fun x => x.dropRec t.bar)).acquire (barScope t.bar)))
      pure .adv
    else if t.deadline < s.timer then
      modify (twaitEnd t.d 1)
      pure .adv
    else block

/-- `cf.twait` (R283): the deadline counts from its issue, before it waits for anything. -/
def execCfTwait (d a b : Reg) := finish (do
  let o ← barOperand (.cfTwait d a b) a
  let n ← rv b
  if 2 ^ 32 - 1 < n.toNat then raise cBOUNDS n
  else
    sound [b]
    ready d
    let s ← get
    let t : TWait := match s.cur.deadline with | some t => t | none => ⟨s.timer + n.toNat, d, o.2⟩
    modCur (fun x => { x with deadline := some t })
    twaitStep t)

/-- COUNT from the issuing crew (R281). -/
def State.autoCount (s : State) (k : Nat) : Nat :=
  let i := s.cur.ident
  match s.crewOf i.crew with
  | some c => if k = 1 then kOf c.nstr c.base i.core else i.nstr
  | none => i.nstr

/-- `cf.cfg` (R281). -/
def execCfCfg (a b : Reg) := finish (do
  let o ← barOperand (.cfCfg a b) a
  let v ← rv b
  let auto := bitOf v 20
  let n := bitsOf v 19 0
  if bitsOf v 63 21 ≠ 0 ∨ (auto ∧ (n ≠ 0 ∨ 3 ≤ o.1)) then raise cBOUNDS v
  else
    sound [b]
    cfReady
    modify (fun s => s.settleBar { s.bar o.2 with count := if auto then s.autoCount o.1 else n })
    pure .adv)

/-! ### The events of waits -/

/-- TWAIT_TIMEOUT (R283): once the timer has passed the deadline of a strand's `cf.twait`, the form completes: with 1, and its record
kept, unless the phase completed by the deadline. -/
def execTwaitTimeout (uid : Nat) := event (fun s =>
  s.as uid (fun s =>
    match s.cur.deadline with
    | some t =>
      if t.deadline < s.timer ∧ s.cur.status = .running then
        match (twaitStep t).run s with
        | .ok _ u => (u.modCur (fun x => { x with waiting := false })).advance
        | .error _ _ => s
      else s
    | none => s))

/-- BARRIER_PHASE_DELIVERY (R285): the phases that barriers have completed reach a strand's records, and its wait goes on. A
saved context's records stay as they were saved (R286). -/
def execBarrierPhaseDelivery (uid : Nat) := event (fun s =>
  s.modStrandAll uid (fun x =>
    if x.status = .depot then x
    else { x with barRecs := x.barRecs.map (fun r => BarRec.see s.timer (s.bar r.bar) r), waiting := false }))

end Sys2Proof.Machine
end

