-- ==== Sys2Proof/Machine/Engine.lean ====
section
/-! DEFINITION. The copy engine: transfers, their chunks and pieces, failures, masks and slots (R353 to R374, R377 to R381,
R459, R463, R448, R449). Engine writes come from outside a quad's strands and stand across a rollback (R412, R481). -/

namespace Sys2Proof.Machine

/-! ### The snapshot (R354 to R356, R448) -/

/-- A register of a snapshot. -/
def regOf (ws : List Word) (i : Nat) : Word := ws.getD i 0

def cpKind (ws : List Word) : Nat := bitsOf (regOf ws 5) 2 0
def cpSkind (ws : List Word) : Nat := bitsOf (regOf ws 5) 4 3
def cpCB (ws : List Word) : Bool := bitOf (regOf ws 5) 5
def cpCHK (ws : List Word) : Bool := bitOf (regOf ws 5) 6
def cpMask (ws : List Word) : Nat := bitsOf (regOf ws 5) 10 8
def cpPOL (ws : List Word) : Nat := bitsOf (regOf ws 5) 12 11
def cpPitch (ws : List Word) : Nat := bitsOf (regOf ws 5) 23 13
def cpRowb (ws : List Word) : Nat := bitsOf (regOf ws 2) 31 0
def cpRows (ws : List Word) : Nat := bitsOf (regOf ws 2) 47 32 + 1
/-- T. -/
def cpTotal (ws : List Word) : Nat := cpRowb ws * cpRows ws
/-- A tile transfer. -/
def cpTile (ws : List Word) : Bool := cpKind ws == 1 || cpKind ws == 2
/-- A flash source. -/
def cpFlash (ws : List Word) : Bool := cpKind ws == 0 && cpSkind ws == 1
/-- SIG of a NETWR transfer. -/
def cpSig (ws : List Word) : Bool := cpKind ws == 4 && bitOf (regOf ws 7) 63

/-- A signed 32-bit field. -/
def signed32 (n : Nat) : Int := if 2 ^ 31 ≤ n then (n : Int) - 2 ^ 32 else n

/-- The window of a tile transfer whose scratchpad address is va (R356, R370). -/
def tileWin (ws : List Word) (d : Desc) (va : Word) : Win :=
  let len := regOf ws 2
  let ext := [bitsOf len 15 0, bitsOf len 31 16, bitsOf len 47 32, bitsOf len 63 48, 1]
  { t := d,
    org := [signed32 (bitsOf (regOf ws 3) 31 0), signed32 (bitsOf (regOf ws 3) 63 32),
            signed32 (bitsOf (regOf ws 4) 31 0), signed32 (bitsOf (regOf ws 4) 63 32), 0],
    ext := ext, off := va.toNat - scratchBase,
    p1 := if cpPitch ws = 0 then 32 * rowSectors (ext.getD 0 0) d.size else 32 * cpPitch ws,
    fill := (regOf ws 7).toNat % 2 ^ etyBits d.ty }

/-- The number of chunks (R365). -/
def Xfer.count (t : Xfer) : Nat :=
  if cpTile t.words then (tileWin t.words (descOf t.desc) 0).rows else (cpTotal t.words + 4095) / 4096

/-- The chunks that will complete: those below the failing one (R367). -/
def Xfer.limit (t : Xfer) : Nat := match t.fail with | some f => f.2 | none => t.count

/-- A failure at a chunk; the lowest one counts (R367). Nothing of the chunks from it on is written any more. -/
def Xfer.failAt (t : Xfer) (code f : Nat) : Xfer :=
  if (match t.fail with | some g => decide (g.2 ≤ f) | none => false) then t
  else { t with fail := some (code, f), plan := t.plan.filter (fun p => decide (p.1 < f)) }

/-! ### Finding and changing a transfer -/

/-- A transfer of a channel of a strand. -/
def State.xfer? (s : State) (uid ch ident : Nat) : Option (Strand × Xfer) :=
  match s.strand? uid with
  | none => none
  | some x => ((x.chan ch).xfers.find? (fun t => t.ident == ident)).map (fun t => (x, t))

/-- The oldest transfer of a channel that `p` chooses. -/
def State.oldestXfer (s : State) (uid ch : Nat) (p : Xfer → Bool) : Option (Strand × Xfer) :=
  match s.strand? uid with
  | none => none
  | some x => ((x.chan ch).xfers.find? p).map (fun t => (x, t))

/-- Puts a changed transfer back, in the checkpoints too (R481). -/
def State.putXfer (s : State) (uid ch : Nat) (t : Xfer) : State :=
  s.modStrandAll uid (fun x => x.modChan ch (fun c =>
    { c with xfers := c.xfers.map (fun u => if u.ident = t.ident then t else u) }))

/-- The engine works for a strand that stands on a quad (R377). -/
def Strand.served (x : Strand) : Bool :=
  x.status == .running || x.status == .parked || x.status == .halted || x.status == .ending

/-! ### Pieces (R365, R366, R380) -/

/-- The place that an engine access to n bytes within a page reaches: its key, key id, C and grain, or the status code of R364. A and
D are set as for loads and stores. -/
def State.engSeg (s : State) (x : Strand) (prv : Bool) (va : Word) (n : Nat) (w : Bool) : Except Nat (Nat × Nat × Bool × Nat) × State :=
  let p := x.ident.part
  if scratchBase ≤ va.toNat ∧ va.toNat + n ≤ scratchBase + x.ident.alen then
    (.ok (scratchKey x.ident.quad (x.ident.abase + (va.toNat - scratchBase)), 0, false, 32), s)
  else if inWindow va || !canonical va then (.error 1, s)
  else
    match s.walk p va with
    | .none _ malf nonres => (.error (if nonres && !malf then 2 else 1), s)
    | .leaf e level v size =>
      let g := pageOf e level v size false
      let key := g.key + (va.toNat - g.va)
      let km := match s.part? p with | some y => y.keymask | none => 0
      if (!prv && !g.u) || (!w && !g.r) || (w && !g.w) || g.grn == 3 || !bitOf km g.kid then (.error 3, s)
      else if !w && g.owner.isSome then (.error 4, s)
      else
        match s.peerFail ⟨10, !w, w⟩ va key n with
        | some f => (.error (if f.cause = cPAGE_NP then 1 else 3), s)
        | none => (.ok (key, g.kid, g.cach, g.grain), s.orLeaf p va (if w then 192 else 64))

/-- A grain of the quad that n bytes of its scratchpad reach is un-turned (R364). -/
def State.engTurn (s : State) (q key n : Nat) : Bool :=
  (s.residents q).any (fun w => w.marks.any (fun k => decide (k.key < key + n) && decide (key < k.key + k.size)))

/-- The bytes that the engine reads at a place: at the home, or in the scratchpad's bank (R380, R364). -/
def State.engRead (s : State) (x : Strand) (key kid : Nat) (cach : Bool) (g va n pol : Nat) : Except Nat (List Byte) × State :=
  if keyHome key = 3 then
    if s.engTurn x.ident.quad key n then (.error 5, s)
    else if (s.poisonIn key n).isSome then (.error 6, s)
    else (.ok (s.memRead key n), s)
  else if (s.poisonIn key n).isSome then (.error 6, s)
  else
    let r := (s.engFetch x key va n g pol cach).keyRead kid key n
    (.ok r.1, r.2)

/-- Where a piece's bytes come from: memory, a fill pattern from its place o on, or an image from an offset on. -/
inductive PSrc where
  | mem (va : Word)
  | fill (o : Nat)
  | img (off : Nat)
deriving DecidableEq, Repr

/-- A piece: its source, its destination if it has one here, and its length. -/
structure Piece where
  src : PSrc
  dst : Option Word
  n   : Nat
deriving DecidableEq, Repr

/-- A source moved on by n bytes. -/
def PSrc.skip (p : PSrc) (n : Nat) : PSrc :=
  match p with
  | .mem va => .mem (va + w64 n)
  | .fill o => .fill (o + n)
  | .img o => .img (o + n)

/-- The bytes left in the page of an address. -/
def pageRoom (va : Word) : Nat := 4096 - va.toNat % 4096

/-- The bytes a piece may take before its source or destination leaves its page. -/
def Piece.room (p : Piece) : Nat :=
  min (match p.src with | .mem va => pageRoom va | _ => p.n) (match p.dst with | some va => pageRoom va | none => p.n)

/-- Cuts a run of bytes at every page boundary of its source and destination (R365). -/
def cutPiece : Nat → Piece → List Piece
  | 0, _ => []
  | fuel + 1, p =>
    if p.n = 0 then []
    else if p.n ≤ p.room then [p]
    else { p with n := p.room } :: cutPiece fuel ⟨p.src.skip p.room, p.dst.map (· + w64 p.room), p.n - p.room⟩

/-- The runs of the bytes lo to hi of a transfer, row by row (R356, R365). -/
def rowRuns (ws : List Word) (dst : Option Word) : Nat → Nat → Nat → List Piece
  | 0, _, _ => []
  | fuel + 1, lo, hi =>
    if hi ≤ lo then []
    else
      let rowb := cpRowb ws
      let r := lo / rowb
      let o := lo % rowb
      let n := min (rowb - o) (hi - lo)
      let src : PSrc :=
        if cpKind ws = 3 then .fill o
        else if cpFlash ws then .img ((regOf ws 3).toNat + lo)
        else .mem (regOf ws 0 + w64 r * regOf ws 3 + w64 o)
      ⟨src, dst.map (fun d => d + w64 r * regOf ws 4 + w64 o), n⟩ :: rowRuns ws dst fuel (lo + n) hi

/-- The bytes of chunk k of a LINEAR, FILL or NETWR transfer. -/
def chunkSpan (ws : List Word) (k : Nat) : Nat × Nat := (4096 * k, min (4096 * k + 4096) (cpTotal ws))

/-- The scratchpad address of a slot of a controller (R372, R375). -/
def Cb.slotVa (c : Cb) (slot : Nat) : Word := w64 (scratchBase + c.base + slot * c.slot * 32)

/-- Where a transfer's destination begins: DST, or the slot it reserved (R355, R370). -/
def State.xferDst (s : State) (x : Strand) (t : Xfer) : Word :=
  match t.slot with
  | some p =>
    match (s.getQuad x.ident.quad).d.cbs.find? (fun c => c.idx == p.1) with
    | some c => c.slotVa p.2
    | none => regOf t.words 1
  | none => regOf t.words 1

/-- The key of a byte of a drive: its SSD, namespace and logical block (R457, R458). -/
def driveKey (ssd nsid slba off : Nat) : Nat := ((ssd * 2 ^ 32 + nsid) * 2 ^ 64 + slba) * 4096 + off

/-- n bytes of an image from an image offset. -/
def State.imgBytes (s : State) (m : Image) (off n : Nat) : List Byte :=
  memGetN s.flash (driveKey m.ssd m.nsid m.slba off) n

/-- The handle of an image (R458). -/
def Image.handle (m : Image) : Nat := m.gen * 2 ^ 12 + m.slot

/-- The image that a handle names. -/
def State.imageOf (s : State) (h : Nat) : Option Image := s.images.find? (fun m => m.handle == h)

/-- The image of a transfer. -/
def State.xferImage (s : State) (t : Xfer) : Option Image :=
  s.images.find? (fun m => m.handle == bitsOf (regOf t.words 0) 31 0)

/-- Checks a piece and reads its bytes: what it has to write, or a status code (R364, R366). The source is checked first. -/
def State.runPiece (s : State) (x : Strand) (t : Xfer) (p : Piece) : Except Nat Move × State :=
  let pol := cpPOL t.words
  let src : Except Nat (List Byte) × State :=
    match p.src with
    | .mem va =>
      match s.engSeg x t.prv va p.n false with
      | (.error c, s1) => (.error c, s1)
      | (.ok k, s1) => s1.engRead x k.1 k.2.1 k.2.2.1 k.2.2.2 va.toNat p.n pol
    | .fill o =>
      let pat := leBytes 8 (regOf t.words 7).toNat
      (.ok ((List.range p.n).map (fun i => pat.getD ((o + i) % 8) 0)), s)
    | .img o =>
      match s.xferImage t with
      | some m => (.ok (s.imgBytes m (m.doff + o) p.n), s)
      | none => (.error 8, s)
  match src with
  | (.error c, s1) => (.error c, s1)
  | (.ok bs, s1) =>
    match p.dst with
    | none => (.ok ⟨0, bs, pol, 0, 0, false, 32⟩, s1)
    | some va =>
      match s1.engSeg x t.prv va p.n true with
      | (.error c, s2) => (.error c, s2)
      | (.ok k, s2) => (.ok ⟨k.1, bs, pol, k.2.1, va.toNat, k.2.2.1, k.2.2.2⟩, s2)

/-- Runs pieces in order until one fails: its code, what the pieces before it have to write. -/
def State.runPieces (x : Strand) (t : Xfer) : List Piece → State → List Move → (Option Nat × List Move) × State
  | [], s, acc => ((none, acc.reverse), s)
  | p :: r, s, acc =>
    match s.runPiece x t p with
    | (.error c, s1) => ((some c, acc.reverse), s1)
    | (.ok m, s1) => State.runPieces x t r s1 (m :: acc)

/-- The pieces of chunk k of a LINEAR, FILL or NETWR transfer. -/
def State.linearPieces (s : State) (x : Strand) (t : Xfer) (k : Nat) : List Piece :=
  let sp := chunkSpan t.words k
  let dst := if cpKind t.words = 4 then none else some (s.xferDst x t)
  (rowRuns t.words dst 4097 sp.1 sp.2).flatMap (cutPiece 4097)

/-- The window of a tile transfer. -/
def State.xferWin (s : State) (x : Strand) (t : Xfer) : Win :=
  tileWin t.words (descOf t.desc) (if cpKind t.words = 1 then s.xferDst x t else regOf t.words 0)

/-- A row loaded by TLOAD (R370, R215): the row's sectors with the tensor's bytes over the fill value. -/
def State.runTload (s : State) (x : Strand) (t : Xfer) (k : Nat) : (Option Nat × List Move) × State :=
  let w := s.xferWin x t
  let out := scratchBase + w.rowOff k
  let put (row : List Byte) (s : State) : (Option Nat × List Move) × State :=
    match s.engSeg x t.prv (w64 out) (32 * w.s) true with
    | (.error c, s1) => ((some c, []), s1)
    | (.ok d, s1) => ((none, [⟨d.1, row, 0, 0, 0, false, 32⟩]), s1)
  match w.inside k with
  | none => put w.fillRow s
  | some p =>
    let ps := cutPiece 34 ⟨.mem p.2.2, none, p.2.1 * w.t.size⟩
    match State.runPieces x { t with words := t.words.set 5 (w64 (w.t.pol * 2 ^ 11)) } ps s [] with
    | ((some c, _), s1) => ((some c, []), s1)
    | ((none, ms), s1) => put (overlay w.fillRow (p.1 * w.t.size) (ms.flatMap (·.data))) s1

/-- A row stored by TSTORE (R370, R216): the sectors of the window's row are read, so none of them may be un-turned (R364). -/
def State.runTstore (s : State) (x : Strand) (t : Xfer) (k : Nat) : (Option Nat × List Move) × State :=
  let w := s.xferWin x t
  if s.engTurn x.ident.quad (scratchKey x.ident.quad (x.ident.abase + w.rowOff k)) (32 * w.s) then ((some 5, []), s)
  else
  match w.inside k with
  | none => ((none, []), s)
  | some p =>
    let src := w64 (scratchBase + w.rowOff k + p.1 * w.t.size)
    State.runPieces x { t with words := t.words.set 5 (w64 (w.t.pol * 2 ^ 11)) }
      (cutPiece 34 ⟨.mem src, some p.2.2, p.2.1 * w.t.size⟩) s []

/-- Checks chunk k and reads its bytes. -/
def State.runChunk (s : State) (x : Strand) (t : Xfer) (k : Nat) : (Option Nat × List Move) × State :=
  match cpKind t.words with
  | 1 => s.runTload x t k
  | 2 => s.runTstore x t k
  | _ => State.runPieces x t (s.linearPieces x t k) s []

/-- The source bytes that chunk k delivers (R363). -/
def State.chunkBytes (s : State) (x : Strand) (t : Xfer) (k : Nat) : Nat :=
  match cpKind t.words with
  | 3 => 0
  | 1 | 2 => match (s.xferWin x t).inside k with | some p => p.2.1 * (descOf t.desc).size | none => 0
  | _ => let sp := chunkSpan t.words k; sp.2 - sp.1

/-! ### Flash blocks (R371, R463) -/

/-- The data range of chunk k of a flash transfer, and the blocks that hold it. -/
def flashBlocks (ws : List Word) (lo hi : Nat) : List Nat :=
  if hi ≤ lo then []
  else
    let a := ((regOf ws 3).toNat + lo) / 65536
    let b := ((regOf ws 3).toNat + hi - 1) / 65536
    (List.range (b + 1 - a)).map (a + ·)

/-- The blocks of chunk k. -/
def chunkBlocks (ws : List Word) (k : Nat) : List Nat := let sp := chunkSpan ws k; flashBlocks ws sp.1 sp.2

/-- The lowest chunk that touches a block. -/
def Xfer.firstTouch (t : Xfer) (b : Nat) : Option Nat :=
  (List.range t.count).find? (fun k => (chunkBlocks t.words k).contains b)

/-- The tag of block i of an image (R462). -/
def State.blockTag (s : State) (m : Image) (i : Nat) : List Byte :=
  (sha3 (s.imgBytes m (m.doff + 65536 * i) 65536 ++ leBytes 8 i ++ m.iid)).take 16

/-- A block arrives: with CHK its tag is checked (R463). -/
def State.takeBlock (s : State) (t : Xfer) (b : Nat) : Xfer :=
  match t.firstTouch b with
  | none => t
  | some f =>
    if t.blocks.contains b then t
    else
      match s.xferImage t with
      | none => t.failAt 8 f
      | some m =>
        if cpCHK t.words && s.blockTag m b != s.imgBytes m (m.toff + 16 * b) 16 then t.failAt 7 f
        else { t with blocks := b :: t.blocks }

/-- Chunk k may be checked: every block of a flash source that holds its bytes has passed. -/
def Xfer.ready (t : Xfer) (k : Nat) : Bool := !cpFlash t.words || (chunkBlocks t.words k).all (fun b => t.blocks.contains b)

/-! ### Landing, completion (R363, R366 to R369, R374) -/

/-- The identifier before i on a channel (R360). -/
def prevId (done i : Nat) : Nat := if i = 1 then (if done = 0 then 0 else 2 ^ 48 - 1) else i - 1

/-- i is reached by d, compared modulo 2^48 (R361). -/
def reached (d i : Nat) : Bool := decide ((d + 2 ^ 48 - i % 2 ^ 48) % 2 ^ 48 < 2 ^ 47)

/-- A transfer leaves its channel (R361, R363): the latch takes its failure when it is empty, BYTES is the newest
completed one's, and DONE rises to the identifier before the oldest incomplete one. -/
def Chan.close (c : Chan) (t : Xfer) : Chan :=
  let rest := c.xfers.filter (fun u => u.ident != t.ident)
  let newest := reached t.ident c.bytesId
  { c with
    xfers := rest, bytes := if newest then t.bytes % 2 ^ 32 else c.bytes, bytesId := if newest then t.ident else c.bytesId,
    code := match t.fail with | some f => if c.code = 0 then f.1 else c.code | none => c.code,
    fchunk := match t.fail with | some f => if c.code = 0 then min f.2 4095 else c.fchunk | none => c.fchunk,
    fidlo := match t.fail with | some _ => if c.code = 0 then t.ident % 4096 else c.fidlo | none => c.fidlo,
    wrote := if t.glob then some (match c.wrote with | some i => if reached i t.ident then t.ident else i | none => t.ident) else c.wrote,
    cpdone := match rest.head? with
      | some u => prevId c.cpdone u.ident
      | none => prevId c.cpdone c.nextId }

/-- Reservations at the front whose transfers have completed become filled slots, in ring order (R374). -/
def fillGo : Nat → Cb → Cb
  | 0, c => c
  | n + 1, c =>
    match c.resv with
    | (_, true) :: r => fillGo n { c with resv := r, filled := c.filled + 1 }
    | _ => c

/-- The reservation of a slot is done (R374). -/
def Cb.fillSlot (slot : Nat) (c : Cb) : Cb :=
  let d := { c with resv := c.resv.map (fun r => if r.1 = slot then (r.1, true) else r) }
  fillGo d.resv.length d

/-- Changes controller i of quad q, in its checkpoints too (R481). -/
def State.modCb (s : State) (q i : Nat) (f : Cb → Cb) : State :=
  s.modQuadAll q (fun d => { d with cbs := d.cbs.map (fun c => if c.idx = i then f c else c) })

/-- A transfer completes (R361, R366, R367, R374): its slot fills, its channel closes it, its datagrams are forgotten. -/
def State.endXfer (s : State) (x : Strand) (ch : Nat) (t : Xfer) : State :=
  let s1 := match t.slot with
    | some p => s.modCb x.ident.quad p.1 (Cb.fillSlot p.2)
    | none => s
  let s2 := { s1 with dgOut := s1.dgOut.filter (fun d => !(d.uid == x.uid && d.ch == ch && d.ident == t.ident)) }
  s2.modStrandAll x.uid (fun y => { y.modChan ch (fun c => c.close t) with waiting := false })

/-- Completes a transfer once every chunk below its limit is complete, and its signal answered (R448). -/
def State.settleXfer (s : State) (uid ch ident : Nat) : State :=
  match s.xfer? uid ch ident with
  | none => s
  | some (x, t) =>
    let all := (List.range t.limit).all (fun k => t.chunks.contains k)
    let signalled := t.fail.isSome || !cpSig t.words
    if t.started && all && signalled then s.endXfer x ch t else s

/-- Chunk k completes: its mask bit is set and its lines are recorded for the reads of the mask (R366, R368, R369). -/
def State.finishChunk (s : State) (x : Strand) (ch : Nat) (t : Xfer) (k : Nat) (ms : List Move) : State :=
  let j := cpMask t.words
  let u := { t with plan := t.plan.filter (fun p => p.1 != k), chunks := k :: t.chunks,
                    bytes := t.bytes + s.chunkBytes x t k, glob := t.glob || ms.any (fun m => keyHome m.key != 3) }
  let s1 := s.putXfer x.uid ch u
  if j = 0 ∨ x.vlg ≤ k then s1
  else
    s1.modStrandAll x.uid (fun y =>
      { y.setMask j (y.mask j ||| BitVec.ofNat 512 (2 ^ k)) with
        mlines := y.mlines ++ (ms.filter (fun m => keyHome m.key != 3)).map (fun m => ⟨j, k, m.key, m.data.length⟩) })

/-- Checks the chunks of a transfer in increasing order, from its next one on, at most `fuel` of them and none above `top`
(R366). A chunk that fails may be partly written: the pieces before the failing one are written or not, freely (R367). Nothing of a
failing row of a tile transfer is, which keeps its sectors in order (R370, log 40). -/
def State.checkGo (uid ch ident top : Nat) : Nat → State → State
  | 0, s => s
  | fuel + 1, s =>
    match s.xfer? uid ch ident with
    | none => s
    | some (x, t) =>
      let k := t.next
      if top < k ∨ t.limit ≤ k ∨ !t.ready k then s
      else if t.chunks.contains k then State.checkGo uid ch ident top fuel (s.putXfer uid ch { t with next := k + 1 })
      else
        match s.runChunk x t k with
        | ((none, ms), s1) =>
          State.checkGo uid ch ident top fuel (s1.putXfer uid ch { t with next := k + 1, plan := t.plan ++ [(k, ms)] })
        | ((some code, ms), s1) =>
          let here := if cpKind t.words = 0 ∨ cpKind t.words = 3 then ms else []
          let s2 := here.foldl (fun (s : State) m =>
            let s3 := { s with freeCtr := s.freeCtr + 1 }
            if Config.freeBool s.freeCtr then s3.engLand x m else s3) s1
          s2.putXfer uid ch { t.failAt code k with glob := t.glob || here.any (fun m => keyHome m.key != 3) }

/-- Writes the checked chunks that `p` chooses and completes them. -/
def State.landChunks (s : State) (uid ch ident : Nat) (p : Nat → Bool) : State :=
  match s.xfer? uid ch ident with
  | none => s
  | some (_, t) =>
    (t.plan.filter (fun c => p c.1)).foldl (fun (s : State) c =>
      match s.xfer? uid ch ident with
      | none => s
      | some (x, u) => (c.2.foldl (fun (s : State) m => s.engLand x m) s).finishChunk x ch u c.1 c.2) s

/-- The chunks that must be written with chunk k: for TLOAD every lower row, for TSTORE every unwritten one that holds a byte at a lower
memory address (R370). -/
def Xfer.together (t : Xfer) (k : Nat) : Nat → Bool :=
  if cpKind t.words = 1 then (fun j => decide (j ≤ k))
  else if cpKind t.words ≠ 2 then (fun j => j == k)
  else
    let top := ((t.plan.filter (fun c => c.1 == k)).flatMap (·.2)).foldl (fun a m => max a (m.va + m.data.length)) 0
    fun j => j == k || (t.plan.filter (fun c => c.1 == j)).any (fun c => c.2.any (fun m => decide (m.va < top)))

/-- Completes chunk k of a transfer: the chunks up to it are checked, for TSTORE all of them (R366, R370). When a chunk
fails, every checked one below it completes. -/
def State.doChunk (s : State) (uid ch ident k : Nat) : State :=
  match s.xfer? uid ch ident with
  | none => s
  | some (_, t) =>
    let top := if cpKind t.words = 2 then t.count else k
    let s1 := State.checkGo uid ch ident top (top + 1) s
    match s1.xfer? uid ch ident with
    | none => s1
    | some (_, u) =>
      let s2 := s1.landChunks uid ch ident (if u.fail.isSome then fun _ => true else u.together k)
      s2.settleXfer uid ch ident

/-! ### NETWR (R448, R449) -/

/-- The endpoint that a NETWR transfer names. -/
def State.endpointOf (s : State) (part : Nat) (ws : List Word) : Option Endpoint :=
  match s.part? part with
  | none => none
  | some p => (p.eps.find? (fun e => e.1 == bitsOf (regOf ws 1) 63 56)).map (·.2)

/-- A transfer header (R449): TMAGIC, TKIND, SRCDEV, SPART, SEP, SEQ, PADDR, DLEN and zero. -/
def dgHeader (kind dev spart sep seq paddr dlen : Nat) : List Byte :=
  [0x54, 0x4B, 0x4E, 0x31] ++ leBytes 1 kind ++ leBytes 1 dev ++ leBytes 1 spart ++ leBytes 1 sep ++ leBytes 8 seq ++
    leBytes 8 paddr ++ leBytes 4 dlen ++ leBytes 4 0

/-- A field of a datagram's header (R449). -/
def dgField (g : Datagram) (o n : Nat) : Nat := leNat ((g.payload.drop o).take n)

/-- SPART. -/
def dgSpart (g : Datagram) : Nat := dgField g 6 1
/-- SEP. -/
def dgSep (g : Datagram) : Nat := dgField g 7 1
/-- SEQ. -/
def dgSeq (g : Datagram) : Nat := dgField g 8 8
/-- PADDR. -/
def dgPaddr (g : Datagram) : Nat := dgField g 0x10 8
/-- The bytes that follow the header. -/
def dgData (g : Datagram) : List Byte := g.payload.drop 32

/-- A datagram of a kind is well formed (R449): its magic, kind and zero field, and a DLEN that its bytes have. -/
def dgValid (g : Datagram) (kind : Nat) : Bool :=
  let dlen := dgField g 0x18 4
  g.payload.take 4 == [0x54, 0x4B, 0x4E, 0x31] && dgField g 4 1 == kind && dgField g 0x1C 4 == 0 && g.payload.length == 32 + dlen &&
  (if kind = 1 then decide (1 ≤ dlen) && decide (dlen ≤ 4096) else dlen == 0)

/-- The port does not hold the network engine's frames back now (R446). -/
def Port.free (p : Port) (now : Nat) : Bool := p.paused.all (fun k => k.1 != Config.framePriority 0 % 8 || decide (k.2 ≤ now))

/-- A port that may carry the traffic of an endpoint is free (R446, R447). -/
def State.portFree (s : State) (ep : Endpoint) : Bool :=
  ep.ports == 0 || s.ports.zipIdx.any (fun p => ep.ports.testBit p.2 && p.1.free s.timer)

/-- Sends a datagram of a transfer under the next SEQ of its endpoint. -/
def State.sendDg (s : State) (x : Strand) (ch : Nat) (t : Xfer) (chunk : Option Nat) (paddr : Nat) (bs : List Byte) : State :=
  let part := x.ident.part
  let sep := bitsOf (regOf t.words 1) 63 56
  let n := (((s.dgSeqs.find? (fun q => q.part == part && q.sep == sep)).map (·.seqNo)).getD 0 + 1) % 2 ^ 64
  { s with
    dgSeqs := (DgSeq.mk part sep n) :: s.dgSeqs.filter (fun q => !(q.part == part && q.sep == sep)),
    dgOut := s.dgOut ++ [DgOut.mk part sep n x.uid ch t.ident chunk
      (dgHeader (if chunk.isSome then 1 else 2) s.devid part sep n paddr bs.length ++ bs) 0] }

/-- The unanswered datagrams of an endpoint. -/
def State.dgCount (s : State) (part sep : Nat) : Nat := s.dgOut.countP (fun d => d.part == part && d.sep == sep)

/-- Sends the chunks of a NETWR transfer, while a port is free and fewer than 65,536 of its endpoint's datagrams are unanswered, and then
its signal. -/
def State.netGo (uid ch ident : Nat) : Nat → State → State
  | 0, s => s
  | fuel + 1, s =>
    match s.xfer? uid ch ident with
    | none => s
    | some (x, t) =>
      let sep := bitsOf (regOf t.words 1) 63 56
      match s.endpointOf x.ident.part t.words with
      | none => s.putXfer uid ch (t.failAt 9 0)
      | some ep =>
        if 65536 ≤ s.dgCount x.ident.part sep ∨ !s.portFree ep then s
        else if t.next < t.limit then
          let k := t.next
          match State.checkGo uid ch ident k 1 s with
          | s1 =>
            match s1.xfer? uid ch ident with
            | none => s1
            | some (_, u) =>
              let bs := ((u.plan.filter (fun c => c.1 == k)).flatMap (·.2)).flatMap (·.data)
              let s2 := s1.putXfer uid ch { u with plan := [] }
              if u.fail.isSome ∨ t.chunks.contains k ∨
                  s1.dgOut.any (fun d => d.uid == uid && d.ch == ch && d.ident == ident && d.chunk == some k) then
                State.netGo uid ch ident fuel s2
              else
                State.netGo uid ch ident fuel
                  (s2.sendDg x ch u (some k) (ep.wbase + bitsOf (regOf t.words 1) 55 0 + 4096 * k) bs)
        else if cpSig t.words && !t.sig && t.fail.isNone && (List.range t.count).all (fun k => t.chunks.contains k) then
          (s.putXfer uid ch { t with sig := true }).sendDg x ch t none (ep.wbase + bitsOf (regOf t.words 7) 55 0) []
        else s

/-- `State.netGo` for a whole transfer, which may end with it. -/
def State.netPump (s : State) (uid ch ident : Nat) : State :=
  match s.xfer? uid ch ident with
  | none => s
  | some (_, t) => (State.netGo uid ch ident (t.count + 2) s).settleXfer uid ch ident

/-- The NETWR transfers of strands that stand on quads go on: a port has become free (R446). -/
def State.pumpNet (s : State) : State :=
  (s.all.filter Strand.served).foldl (fun (s : State) x => (List.range 4).foldl (fun (s : State) ch =>
    ((x.chan ch).xfers.filter (fun t => t.started && cpKind t.words == 4)).foldl (fun (s : State) t => s.netPump x.uid ch t.ident) s) s) s

/-! ### Starting and running (R353, R374, R377, R459) -/

/-- Takes slot PI of a controller (R374). -/
def Cb.reserve (c : Cb) : Cb :=
  { c with free := c.free - 1, pi := (c.pi + 1) % c.nslot, resv := c.resv ++ [(c.pi, false)] }

/-- The checks that the storage engine makes at the start of a flash transfer (R459). -/
def State.flashOk (s : State) (x : Strand) (t : Xfer) : Bool :=
  match s.imageOf (bitsOf (regOf t.words 0) 31 0) with
  | none => false
  | some m => m.part == x.ident.part && decide ((regOf t.words 3).toNat + cpTotal t.words ≤ m.nblk * 65536) &&
      (cpCHK t.words || m.raw)

/-- The next transfer of a channel starts, if it can (R353, R374): it reserves its slot, and what fails at the start fails at
chunk 0. -/
def State.startXfer (s : State) (uid ch : Nat) : State :=
  match s.oldestXfer uid ch (fun t => !t.started) with
  | none => s
  | some (x, t) =>
    if !t.released || !x.served then s
    else
      let q := x.ident.quad
      let cb := (s.getQuad q).d.cbs.find? (fun c => c.idx == (regOf t.words 6).toNat % 8)
      let go (s : State) (slot : Option (Nat × Nat)) : State :=
        let u := { t with started := true, slot := slot }
        let v :=
          if cpFlash t.words && decide (0 < t.count) && !s.flashOk x u then u.failAt 8 0
          else if cpKind t.words = 4 ∧ (0 < t.count ∨ cpSig t.words) ∧ (s.endpointOf x.ident.part t.words).isNone then
            u.failAt 9 0
          else u
        let s1 := s.putXfer uid ch v
        if cpKind t.words = 4 then s1.netPump uid ch t.ident else s1.settleXfer uid ch t.ident
      if cpCB t.words then
        match cb with
        | some c =>
          let me := (uid, ch, t.ident)
          let q0 := c.waits.filter (fun w => match s.xfer? w.1 w.2.1 w.2.2 with | some (_, u) => !u.started | none => false)
          let q1 := if q0.contains me then q0 else q0 ++ [me]
          if c.free ≤ 0 ∨ q1.head? ≠ some me then s.modCb q c.idx (fun c => { c with waits := q1 })
          else go (s.modCb q c.idx (fun c => { c.reserve with waits := q1.drop 1 })) (some (c.idx, c.pi))
        | none => s
      else go s none

/-- Runs a started transfer to its end: its blocks arrive, its chunks complete in order. -/
def State.runXfer (s : State) (uid ch ident : Nat) : State :=
  match s.xfer? uid ch ident with
  | none => s
  | some (_, t) =>
    if cpKind t.words = 4 then s.netPump uid ch ident
    else
      let bs := if cpFlash t.words then flashBlocks t.words 0 (cpTotal t.words) else []
      let s1 := s.putXfer uid ch (bs.foldl (fun (u : Xfer) b => s.takeBlock u b) t)
      (List.range t.count).foldl (fun (s : State) k => s.doChunk uid ch ident k) s1

/-- Everything that a strand's channels can do now is done: transfers start and run to their ends (log 6). -/
def State.pumpChan (s : State) (uid ch : Nat) : State :=
  (List.range 8).foldl (fun (s : State) _ =>
    let s1 := s.startXfer uid ch
    match s.strand? uid with
    | none => s1
    | some x => (x.chan ch).xfers.foldl (fun (s : State) t =>
        match s.xfer? uid ch t.ident with
        | some (_, u) => if u.started then s.runXfer uid ch t.ident else s
        | none => s) s1) s

/-- Every engine of the strands on a quad runs (log 6). -/
def State.pumpQuad (s : State) (q : Nat) : State :=
  ((s.residents q).map (·.uid)).foldl (fun (s : State) u =>
    (List.range 4).foldl (fun (s : State) ch => s.pumpChan u ch) s) s

/-! ### The engine's events -/

/-- TRANSFER_START (R353, R360, R374). -/
def execTransferStart (uid ch : Nat) := event (fun s => s.startXfer uid ch)

/-- CHUNK_COMPLETE (R366): of the oldest started transfer of the channel whose chunk is still to come. A NETWR chunk
completes by its acknowledgement. -/
def execChunkComplete (uid ch chunk : Nat) := event (fun s =>
  match s.oldestXfer uid ch (fun t => t.started && cpKind t.words != 4 && decide (chunk < t.limit) && !t.chunks.contains chunk) with
  | some (x, t) => if x.served then s.doChunk uid ch t.ident chunk else s
  | none => s)

/-- The oldest started flash transfer of a channel that still waits for a block. -/
def State.flashXfer (s : State) (uid ch block : Nat) : Option (Strand × Xfer) :=
  s.oldestXfer uid ch (fun t => t.started && cpFlash t.words && (t.firstTouch block).isSome && !t.blocks.contains block)

/-- FLASH_BLOCK_CHECK (R371, R463): a block arrives, passes or fails, and the chunks that it completes are delivered. -/
def execFlashBlockCheck (uid ch block : Nat) := event (fun s =>
  match s.flashXfer uid ch block with
  | some (x, t) =>
    if !x.served then s
    else
      let u := s.takeBlock t block
      let s1 := s.putXfer uid ch u
      let ks := (List.range u.limit).filter (fun k => (chunkBlocks u.words k).contains block && u.ready k)
      (ks.foldl (fun (s : State) k => s.doChunk uid ch t.ident k) s1).settleXfer uid ch t.ident
  | none => s)

/-- NVME_ERROR (R459): the block's read fails, and the transfer at the lowest chunk that touches it, with FLASH. -/
def execNvmeError (uid ch block : Nat) := event (fun s =>
  match s.flashXfer uid ch block with
  | some (_, t) =>
    match t.firstTouch block with
    | some f => (s.putXfer uid ch (t.failAt 8 f)).settleXfer uid ch t.ident
    | none => s
  | none => s)

end Sys2Proof.Machine
end

