-- ==== Sys2Proof/Machine/Copy.lean ====
section
/-! DEFINITION. The `cp` forms (R357 to R376). -/

namespace Sys2Proof.Machine

/-! ### The checks of `cp.go` (R354 to R356, R360, R448) -/

/-- A row of n bytes, whose address wraps modulo 2^64, touches no byte of the window area but those of the crew's allotment (R360). -/
def rowOk (a : Word) (n alen : Nat) : Bool :=
  if inWindow a then decide (scratchBase ≤ a.toNat) && decide (a.toNat + n ≤ scratchBase + alen)
  else decide (a.toNat + n ≤ 0xFFFFFFFFF0000000)

/-- An address and the rows from it on may be an endpoint: outside the window area, or within the crew's allotment in the
scratchpad window. -/
def vaOk (va stride : Word) (rowb rows alen : Nat) : Bool :=
  (!inWindow va || (decide (scratchBase ≤ va.toNat) && decide (va.toNat < scratchBase + 2 ^ 21))) &&
  (rowb == 0 || (List.range rows).all (fun r => rowOk (va + w64 r * stride) rowb alen))

/-- The descriptor that a register of a tile transfer names: a valid identifier whose TYPE is not N4. -/
def Strand.cpTensor (x : Strand) (v : Word) : Option (List Byte) :=
  if bitsOf v 63 8 ≠ 0 then none
  else ((x.tids.find? (fun t => t.1 == v.toNat)).map (·.2)).filter (fun d => !decide ((descOf d).ty = .n4))

/-- The descriptor of a snapshot. -/
def Strand.cpDesc (x : Strand) (ws : List Word) : Option (List Byte) :=
  if cpKind ws = 1 then x.cpTensor (regOf ws 0) else if cpKind ws = 2 then x.cpTensor (regOf ws 1) else none

/-- A scratchpad-window address of a tile transfer, and its window, fit. -/
def Strand.padOk (x : Strand) (ws : List Word) (va : Word) : Bool :=
  decide (scratchBase ≤ va.toNat) && decide (va.toNat < scratchBase + 2 ^ 21) && va.toNat % 32 == 0 &&
  (match x.cpDesc ws with
   | some d => let w := tileWin ws (descOf d) va; w.rows == 0 || decide (w.stop ≤ x.ident.alen)
   | none => true)

/-- The window's sectors in bytes. -/
def tileBytes (w : Win) : Nat := 32 * w.s * w.rows

/-- The checks by register: whether each passes. -/
def State.cpChecks (s : State) (ws : List Word) : List Bool :=
  let x := s.cur
  let kind := cpKind ws
  let alen := x.ident.alen
  let r (i : Nat) : Word := regOf ws i
  let desc := x.cpDesc ws
  let win := desc.map (fun d => tileWin ws (descOf d) 0)
  let ep := s.endpointOf x.ident.part ws
  let rows := cpRows ws
  let rowb := cpRowb ws
  [ -- SRC
    (match kind with
     | 0 => if cpSkind ws = 0 then vaOk (r 0) (r 3) rowb rows alen
            else if cpSkind ws = 1 then bitsOf (r 0) 63 32 == 0 else true
     | 1 => desc.isSome
     | 2 => x.padOk ws (r 0)
     | 4 => vaOk (r 0) (r 3) rowb rows alen
     | _ => true),
    -- DST
    (match kind with
     | 0 => cpCB ws || vaOk (r 1) (r 4) rowb rows alen
     | 1 => cpCB ws || x.padOk ws (r 1)
     | 2 => desc.isSome
     | 3 => vaOk (r 1) (r 4) rowb rows alen
     | 4 => match ep with | some e => decide (bitsOf (r 1) 55 0 + cpTotal ws ≤ e.wlen) | none => true
     | _ => true),
    -- LEN
    (match kind with
     | 0 | 3 | 4 => bitsOf (r 2) 63 48 == 0 && decide (cpTotal ws < 2 ^ 32) && (!cpFlash ws || rows == 1)
     | 1 | 2 => bitsOf (r 2) 15 0 != 0 && bitsOf (r 2) 31 16 != 0 && bitsOf (r 2) 47 32 != 0 && bitsOf (r 2) 63 48 != 0 &&
         (match win with | some w => decide (tileBytes w ≤ 2 ^ 16) | none => true)
     | _ => true),
    -- SSTR
    !cpFlash ws || (r 3).toNat % 4096 == 0,
    -- DSTR
    kind != 4 || r 4 == 0,
    -- FLG
    bitsOf (r 5) 63 24 == 0 && !bitOf (r 5) 7 && decide (cpSkind ws ≤ 1) && decide (kind ≤ 4) &&
      (kind == 0 || cpSkind ws == 0) && (decide (kind ≤ 1) || !cpCB ws) && (cpFlash ws || !cpCHK ws) &&
      (match win with | some w => cpPitch ws == 0 || decide (w.s ≤ cpPitch ws) | none => true) && !x.bound (cpMask ws),
    -- CBUF
    bitsOf (r 6) 63 3 == 0 &&
      (!cpCB ws || s.quad.d.cbs.any (fun c => c.idx == bitsOf (r 6) 2 0 && c.owner == x.ident.crew &&
        decide ((match win with | some w => tileBytes w | none => cpTotal ws) ≤ 32 * c.slot))),
    -- FILL
    kind != 4 || (bitsOf (r 7) 62 56 == 0 &&
      (!bitOf (r 7) 63 || ((r 7).toNat % 8 == 0 &&
        (match ep with | some e => decide (bitsOf (r 7) 55 0 + 8 ≤ e.wlen) | none => true)))) ]

/-- The first register that fails. -/
def State.cpBad (s : State) (ws : List Word) : Option Nat :=
  (((s.cpChecks ws).zipIdx).find? (fun p => !p.1)).map (·.2)

/-! ### Forms -/

/-- A channel number. -/
def chNum (k : Reg) : Nat := k.toNat % 4

/-- `cp.set` (R358). -/
def execCpSet (k a x : Reg) := finish (do
  let v ← rd a
  modCur (fun y => y.modChan (chNum k) (fun c => { c with shadow := c.shadow.set x.toNat v }))
  pure .adv)

/-- `cp.mask` (R359). -/
def execCpMask (m k : Reg) := finish (do
  modCur (fun y => y.modChan (chNum k) (fun c =>
    let f := c.shadow.getD 5 0
    { c with shadow := c.shadow.set 5 ((f &&& ~~~0x700) ||| w64 (m.toNat % 8 * 256)) }))
  pure .adv)

/-- The `cp.go` of a transfer has left the platform: it may start (R360, R413). -/
def State.releaseXfer (s : State) (uid ch ident : Nat) : State :=
  match s.xfer? uid ch ident with
  | none => s
  | some (_, t) =>
    let s1 := s.putXfer uid ch { t with released := true }
    if s1.split then s1 else s1.pumpChan uid ch

/-- The identifier after i (R360). -/
def nextIdent (i : Nat) : Nat := if i + 1 = 2 ^ 48 then 1 else i + 1

/-- Issues a transfer: its identifier, its mask cleared and bound (R360, R368). -/
def Strand.issue (x : Strand) (k : Nat) : Strand :=
  let c := x.chan k
  let j := cpMask c.shadow
  let t : Xfer := {
    ident := c.nextId, words := c.shadow, desc := (x.cpDesc c.shadow).getD [], prv := x.sc.prv, released := false,
    started := false, slot := none, next := 0, plan := [], chunks := [], bytes := 0, blocks := [], fail := none,
    glob := false, sig := false }
  let y := x.modChan k (fun c => { c with nextId := nextIdent c.nextId, xfers := c.xfers ++ [t] })
  if j = 0 then y
  else { y.setMask j ((x.mask j >>> x.vlg) <<< x.vlg) with mlines := y.mlines.filter (fun l => l.mask != j) }

/-- `cp.go` (R360). -/
def execCpGo (d k : Reg) := finish (do
  ready d
  let s ← get
  let c := s.cur.chan (chNum k)
  drained
  unfencedEngine
  if 8 ≤ c.xfers.length then block
  else
    match s.cpBad c.shadow with
    | some i => raiseAt cBOUNDS (regOf c.shadow i) (w64 i) 0
    | none =>
      platform 64
      modCur (fun x => x.issue (chNum k))
      emitGo (.cpGo (chNum k) c.nextId) (fun st => st.releaseXfer st.cur.uid (chNum k) c.nextId)
      wr d (w64 c.nextId)
      pure .adv)

/-- `cp.wait` (R362). -/
def execCpWait (k b : Reg) := finish (do
  let v ← rd b
  let s ← get
  let c := s.cur.chan (chNum k)
  if !reached c.cpdone v.toNat then block
  else
    match c.wrote with
    | some i => if reached v.toNat i then set (s.acquire 3) else pure ()
    | none => pure ()
    pure .adv)

/-- The status word (R363). -/
def Chan.status (c : Chan) : Word := w64 (c.bytes % 2 ^ 32 * 2 ^ 32 + c.code % 2 ^ 8 * 2 ^ 24 + c.fchunk % 2 ^ 12 * 2 ^ 12 + c.fidlo % 2 ^ 12)

/-- `cp.stat` (R363). -/
def execCpStat (d k : Reg) := finish (do
  ready d
  drained
  let s ← get
  wr d (s.cur.chan (chNum k)).status
  modCur (fun x => x.modChan (chNum k) (fun c => { c with code := 0, fchunk := 0, fidlo := 0 }))
  pure .adv)

/-! ### Circular buffers (R373 to R375) -/

/-- A buffer number. -/
def cbNum (k : Reg) : Nat := k.toNat % 8

/-- Controller n of the current quad. -/
def State.cb? (s : State) (n : Nat) : Option Cb := s.quad.d.cbs.find? (fun c => c.idx == n)

/-- Changes controller n of the current quad. -/
def State.setCb (s : State) (c : Cb) : State :=
  s.modQ (fun q => { q with cbs := q.cbs.map (fun k => if k.idx = c.idx then c else k) })

/-- The controller, which must belong to the strand's crew (R375). -/
def ownCb (n : Nat) : M Cb := do
  let s ← get
  match s.cb? n with
  | some c => if c.owner = s.cur.ident.crew then pure c else raise cBOUNDS (w64 n)
  | none => raise cBOUNDS (w64 n)

/-- A strand that has begun to wait in its `cp.cbacq` waits until it has its slot, unless it ends. -/
def State.waitsCb (s : State) (u : Nat) : Bool :=
  match s.strand? u with | some x => x.status != .retired && x.status != .ending | none => false

/-- `cp.cbacq` (R375, R379): strands are served in the order in which they came. -/
def execCpCbacq (d k : Reg) := finish (do
  ready d
  let c ← ownCb (cbNum k)
  drained
  let s ← get
  let q := c.waitq.filter (fun u => s.waitsCb u)
  let first := match q.head? with | some u => u == s.cur.uid | none => true
  if c.filled = 0 ∨ !first then
    set (s.setCb { c with waitq := if q.contains s.cur.uid then q else q ++ [s.cur.uid] })
    block
  else
    set (s.setCb { c with waitq := q.filter (fun u => u != s.cur.uid), ci := (c.ci + 1) % c.nslot,
                          filled := c.filled - 1, acqd := c.acqd ++ [c.ci] })
    wr d (c.slotVa c.ci)
    pure .adv)

/-- A controller may have made room: the engines go on at once unless they travel step by step (log 6). -/
def State.serveQuad (s : State) : State := if s.split then s else s.pumpQuad s.cur.ident.quad

/-- `cp.cbrel` (R375). -/
def execCpCbrel (k : Reg) := finish (do
  let c ← ownCb (cbNum k)
  if c.acqd.isEmpty then raise cBOUNDS (w64 (cbNum k))
  else
    cfReady
    modify (fun s => (s.setCb { c with acqd := c.acqd.drop 1, free := c.free + 1 }).serveQuad)
    pure .adv)

/-- A transfer of a crew that targets controller n is incomplete (R373). -/
def State.cbTarget (s : State) (crew n : Nat) : Bool :=
  (s.crewStrands crew).any (fun x => x.chans.any (fun c => c.xfers.any (fun t =>
    cpCB t.words && (regOf t.words 6).toNat % 8 == n)))

/-- A controller as `cp.cbcfg` leaves it (R373); the strands that wait in their `cp.cbacq` keep their places (R375). -/
def cbFresh (n crew : Nat) (v : Word) (waitq : List Nat) : Cb :=
  { idx := n, owner := crew, base := bitsOf v 20 0, slot := bitsOf v 31 21, nslot := bitsOf v 38 32,
    free := bitsOf v 38 32, filled := 0, pi := 0, ci := 0, resv := [], acqd := [], waitq := waitq, waits := [] }

/-- `cp.cbcfg` (R373). -/
def execCpCbcfg (k b : Reg) := finish (do
  let v ← rv b
  let s ← get
  let n := cbNum k
  let i := s.cur.ident
  let ns := bitsOf v 38 32
  let slot := bitsOf v 31 21
  let base := bitsOf v 20 0
  if (match s.cb? n with | some c => c.owner != i.crew | none => false) then raise cBOUNDS (w64 n)
  else if bitsOf v 63 39 ≠ 0 ∨ 64 < ns ∨
      (ns ≠ 0 ∧ (slot = 0 ∨ base % 32 ≠ 0 ∨ i.alen < base + ns * slot * 32)) then raise cBOUNDS v
  else
    sound [b]
    drained
    if s.cbTarget i.crew n then block
    else
      modify (fun s => s.modQ (fun q =>
        let rest := q.cbs.filter (fun c => c.idx != n)
        { q with cbs := if ns = 0 then rest else rest ++ [cbFresh n i.crew v ((s.cb? n).elim [] (·.waitq))] }))
      pure .adv)

end Sys2Proof.Machine
end

