-- ==== Sys2Proof/Machine/Dies.lean ====
section
/-! DEFINITION. Publications, version words and reductions: the `xr` forms, and what reaches the module from other modules
and from the network (R437 to R450). -/

namespace Sys2Proof.Machine

/-! ### Records and requests -/

/-- Hands a request to a unit beyond the quad and waits for its reply, which may come later: `start` performs it with its
number when nothing holds it (R413, R414). -/
def askUnit (k : EffKind) (start : Nat → State → State) : M (List Word) := do
  platform k.size
  let s ← get
  match s.cur.handed with
  | some h =>
    match h.reply with
    | some r =>
      modCur (fun x => { x with handed := none })
      pure r
    | none => block
  | none =>
    let id := s.effSeq
    let wait (t : State) : State := t.modCur (fun x => { x with handed := some ⟨id, none⟩ })
    if s.held then
      set (wait (s.hand k))
      block
    else
      set (start id (wait { s with effSeq := id + 1 }))
      let t ← get
      match t.cur.handed with
      | some ⟨_, some r⟩ =>
        modCur (fun x => { x with handed := none })
        pure r
      | _ => block

/-- A record of n bytes, aligned to n, read as one load (R437); a poisoned operand comes at its place in the order of R50. -/
def readRecord (va : Word) (n : Nat) (ops : List Reg) : M (List Byte) := do
  if va.toNat % n ≠ 0 then raise cBOUNDS va
  else
    let gs ← segsM va n accStruct 0
    turnCheck gs 0
    sound ops
    let bs ← gs.mapM (readSeg 0)
    pure bs.flatten

/-- Every older access of the strand has been performed (R439, R442). -/
def accessesDone : M Unit := do
  drained
  performed

/-- A field of a record. -/
def recField (r : List Byte) (off n : Nat) : Nat := leNat ((r.drop off).take n)

/-- The local page behind an address, if it has R and W (R438, R440). -/
def State.localPage (s : State) (va : Word) : Option Nat :=
  if inWindow va || !canonical va then none
  else
    match s.peek va with
    | some p => if p.r && p.w && keyHome p.key == 0 then some (pageTag p.kid (keyPa p.key + (va.toNat - p.va))) else none
    | none => none

/-- The note of the instruction. -/
def setNote (ws : List Word) : M Unit := modCur (fun x => { x with note := some ws })

/-- Turns home the strand's pending grains among the bytes lo to hi (R234). -/
def turnBytes (lo hi : Nat) : M Unit := do
  let s ← get
  (s.cur.pend.filter (fun g => decide (lo < g.va + g.size) && decide (g.va < hi))).forM (fun g =>
    turnGrain g.key g.va g.size 2 g.cach)

/-- Stores bytes of the strand where they may be stored. -/
def storeIf (va : Word) (bs : List Byte) : M Unit := do
  let s ← get
  match s.segs va bs.length accSt with
  | (.ok gs, t) =>
    set t
    storeSegs gs bs 0
  | (.error _, _) => pure ()

/-! ### `xr.pub` (R438, R439) -/

/-- The pages of a region, when all of them are local with R and W. -/
def State.regionPages (s : State) (base : Word) (len : Nat) : Option (List Nat) :=
  (List.range (len / 4096)).mapM (fun i => s.localPage (base + w64 (4096 * i)))

/-- A length that a publication may have (R438). -/
def pubLen (n : Nat) : Bool := decide (4096 ≤ n) && decide (n ≤ 2 ^ 32) && n % 4096 == 0

/-- The fields of a publication record in offset order, and whether each is accepted (R438, R439). -/
def State.pubRules (s : State) (r : List Byte) : List (Nat × Bool) :=
  let base := w64 (recField r 0 8)
  let len := recField r 8 8
  let id := recField r 0x10 2
  [(0x00, canonical base && base.toNat % 4096 == 0 && (!pubLen len || (s.regionPages base len).isSome)),
   (0x08, len == 0 || pubLen len),
   (0x10, decide (id < 1024) && (match s.pub? id with
     | some p => p.part == s.cur.ident.part && p.base == base.toNat && (len == 0 || p.len == len)
     | none => true)),
   (0x12, recField r 0x12 6 == 0), (0x28, recField r 0x28 24 == 0)]

/-- `xr.pub` once its record is checked: the release, the request, the record's written fields turned HOME. -/
def pubRest (va : Word) (ws : List Word) : M Done := do
  let id := (ws.getD 2 0).toNat
  let base := (ws.getD 3 0).toNat
  let len := (ws.getD 4 0).toNat
  if ws.getD 1 0 = 0 then
    accessesDone
    release 4
    let s ← get
    let q : PubReq := { pubid := id, part := s.cur.ident.part, base := base, len := len, pages := (ws.drop 5).map (·.toNat) }
    let r ← askUnit (.pub q) (fun e st => st.publish q st.cur.uid e)
    if len = 0 then pure ()
    else
      storeIf (va + 0x18) (leBytes 8 (r.getD 0 0).toNat)
      storeIf (va + 0x20) (leBytes 4 (r.getD 1 0).toNat)
      storeIf (va + 0x24) (leBytes 4 (r.getD 2 0).toNat)
    setNote [notePub, 1]
  else pure ()
  turnBytes (va.toNat + 0x18) (va.toNat + 0x28)
  modCur (fun x => { x with note := none })
  pure .adv

/-- `xr.pub` (R437 to R439). -/
def execXrPub (a : Reg) := finishK 11 false (do
  let va ← rv a
  let s ← get
  match s.cur.note with
  | some ws => pubRest va ws
  | none =>
    drained
    let r ← readRecord va 64 [a]
    let s ← get
    match firstBad (s.pubRules r) with
    | some o => raiseAt cBOUNDS va (w64 o) 0
    | none =>
      let base := w64 (recField r 0 8)
      let len := recField r 8 8
      if len ≠ 0 then
        let _ ← segsM (va + 0x18) 16 accSt 0
      else pure ()
      let ws := [notePub, 0, w64 (recField r 0x10 2), base, w64 len] ++ ((s.regionPages base len).getD []).map w64
      setNote ws
      pubRest va ws)

/-! ### `xr.sub` (R440) -/

/-- The fields of a remote region record in offset order (R440). -/
def State.subRules (s : State) (r : List Byte) : List (Nat × Bool) :=
  let vw := w64 (recField r 0x10 8)
  [(0x00, decide (recField r 0 1 ≤ 63)), (0x01, recField r 1 1 == 0), (0x02, decide (recField r 2 2 ≤ 1023)),
   (0x04, recField r 4 4 == 0), (0x08, pubLen (recField r 8 8)),
   (0x10, canonical vw && vw.toNat % 8 == 0 && !inWindow vw && ((s.peek vw).isNone || (s.localPage vw).isSome)),
   (0x18, recField r 0x18 8 == 0)]

/-- `xr.sub` once VWORD has been written: its turn HOME, the registration, the answer. -/
def subRest (d : Reg) (ws : List Word) : M Done := do
  let vw := (ws.getD 5 0).toNat
  turnBytes vw (vw + 8)
  let s ← get
  let dev := (ws.getD 2 0).toNat
  let r : SubReq := {
    pubid := (ws.getD 3 0).toNat, dev := s.devid, part := s.cur.ident.part, len := (ws.getD 4 0).toNat,
    vword := (ws.getD 7 0).toNat, pages := (ws.drop 8).map (·.toNat), vva := vw, va := (ws.getD 6 0).toNat,
    uid := some s.cur.uid }
  let v ← askUnit (.sub dev r) (fun e st =>
    let t := st.subscribe dev r
    t.1.reply st.cur.uid e [t.2])
  modCur (fun x => { x with note := none })
  wr d (v.headD 0)
  pure .adv

/-- A refusal before anything has been done. -/
def refuseSub (d : Reg) (off : Nat) : M Done := do
  wr d (refusal 2 off)
  pure .adv

/-- `xr.sub` (R437, R440). -/
def execXrSub (d a b : Reg) := finishK 11 false (do
  ready d
  let va ← rv a
  let c ← rv b
  let s ← get
  match s.cur.note with
  | some ws => subRest d ws
  | none =>
    drained
    let r ← readRecord va 32 [a, b]
    let s ← get
    let vw := w64 (recField r 0x10 8)
    let dev := recField r 0 1
    let id := recField r 2 2
    if c = 0 then
      match s.localPage vw with
      | some g => emit (.unsub dev id g) (fun st => st.unsubscribe st.cur.ident.part dev id g)
      | none => pure ()
      wr d 0
      pure .adv
    else
      match firstBad (s.subRules r) with
      | some o => refuseSub d o
      | none =>
        if c.toNat % 4096 ≠ 0 then refuseSub d 0x08
        else
          let len := recField r 8 8
          let gs ← alignedSegs false 0 ((vw, 8) :: cuts c (len / 4096 + 2) len) accSt 0
          let far := gs.find? (fun g => g.page.isNone || keyHome g.key != 0)
          match far with
          | some g =>
            let level := match g.page with | some p => p.level | none => 0
            raiseAt cPAGE_PROT g.va (pageInfo accSt false level) 0
          | none =>
            let tags := gs.map (fun g => w64 (pageTag g.kid (keyPa g.key)))
            modify (fun s => s.setDirty gs)
            storeSegs (gs.take 1) (leBytes 8 0) 0
            let ws := [noteSub, 0, w64 dev, w64 id, w64 len, vw, c] ++ tags
            setNote ws
            subRest d ws)

/-! ### `xr.waitv` (R442) -/

/-- `xr.waitv` (R442). -/
def execXrWaitv (a b : Reg) := finishK 1 false (do
  let va ← rv a
  let v ← rv b
  if va.toNat % 8 ≠ 0 then raise cMISALIGN va
  else
    drained
    let gs ← segsM va 8 accLd 0
    match gs.head? with
    | none => block
    | some g =>
      if g.page.isNone || keyHome g.key != 0 then raise cBOUNDS va
      else
        sound [a, b]
        accessesDone
        let s ← get
        match s.poisonIn g.key 8 with
        | some i => raiseAt cPOISON (va + w64 i) 2 0
        | none =>
          -- the lookup is of the word's grain, by the crew's strand (R295, R316, R320)
          let size := g.grain
          let t := s.homeLookup s.cur.uid s.cur.ident.part s.cur.ident.crew (g.key / size * size) (va.toNat / size * size) size 0 g.cach
          let r := t.keyRead g.kid g.key 8
          set r.2
          if v.toNat ≤ leNat r.1 then
            modify (fun s => s.acquire 3)
            pure .adv
          else block)

/-- WAITV_RECHECK (R442). -/
def execWaitvRecheck (uid : Nat) := event (fun s => s.modStrand uid (fun x => { x with waiting := false }))

/-! ### `xr.red` (R443 to R445) -/

/-- The types of a reduction (R443). -/
def redType (t : ETy) : Bool :=
  match t with
  | .i32 | .c32 | .i64 | .c64 | .f16 | .bf16 | .f32 | .f64 => true
  | _ => false

/-- The modules of a descriptor, by position. -/
def redDevs (r : List Byte) : List Nat := (List.range 64).map (fun i => recField r (8 + i) 1)

/-- The fields of a collective descriptor in offset order (R443). -/
def State.redRules (s : State) (r : List Byte) : List (Nat × Bool) :=
  let n := recField r 4 1
  let ds := redDevs r
  [(0x00, recField r 0 4 != 0), (0x04, decide (2 ≤ n) && decide (n ≤ 64)), (0x05, decide (recField r 5 1 < n)),
   (0x06, decide (recField r 6 1 ≤ 2)), (0x07, recField r 7 1 == 0),
   (0x08, (ds.take n).all (fun d => decide (d ≤ 63)) && decide ((ds.take n).Nodup) &&
     ds.getD (recField r 5 1) 64 == s.devid && (ds.drop n).all (fun d => d == 0)),
   (0x50, recField r 0x50 48 == 0)]

/-- One step ⊕ of a reduction (R444). -/
def redStep (t : ETy) (op : Nat) (md : RMode) (sat : Bool) (a b : Nat) : Nat × Flags :=
  if etyIsInt t then
    match op with
    | 0 => intResult t sat (intVal t a + intVal t b)
    | 1 => if intVal t b < intVal t a then (b, 0) else (a, 0)
    | _ => if intVal t a < intVal t b then (b, 0) else (a, 0)
  else
    let r := match op with
      | 0 => fAdd t md sat a b
      | 1 => fMinMax t false a b
      | _ => fMinMax t true a b
    (r.bits, r.fl)

/-- The member's message: its join, or the encodings that leave its position. -/
def redMsg (c : Scalar) (r : List Byte) (join : Bool) (vals : List Word) : CollMsg :=
  { collid := recField r 0 4, seq := recField r 0x48 8, pos := recField r 5 1, join := join, n := c.vlc,
    eta := modeETA c.md, op := recField r 6 1, npos := recField r 4 1, devs := (redDevs r).take (recField r 4 1), vals := vals }

/-- The reduction at one member, from its descriptor on. `ws` is its note: the tag, the stage (0 before its join, 1 before
its contribution, 2 before its result, 3 after), its FLAGS, and the descriptor. -/
def redRest (d : Reg) (va : Word) (ws : List Word) (r : List Byte) : M Unit := do
  let s ← get
  let c := s.cur.sc
  let t := (etyOfCode (modeETA c.md)).getD .i32
  let w := etyBits t
  let npos := recField r 4 1
  let pos := recField r 5 1
  let note (st : Nat) (fl : Flags) : List Word := [noteRed, w64 st, fl.zeroExtend 64] ++ ws.drop 3
  let stage := (ws.getD 1 0).toNat
  if stage < 1 then
    let m := redMsg c r true []
    emit (.coll m) (fun st => st.heed m)
    setNote (note 1 0)
  else pure ()
  let s1 ← get
  let ms := s1.call (recField r 0 4) (recField r 0x48 8)
  if stage < 2 then
    match (List.range npos).mapM (joinOf ms) with
    | none => block
    | some js =>
      match redMismatch js with
      | some k =>
        modify (fun s => s.voidJoins (recField r 0 4) (recField r 0x48 8) npos)
        raiseAt cBOUNDS va (w64 k) 0
      | none =>
        let mine := (List.range c.vlc).map (fun e => s1.cur.elt d.toNat w e)
        let ds := drawList (vDraws s1) s1
        match (if pos = 0 then some (mine.map w64) else leaves ms (pos - 1)) with
        | none => block
        | some ys =>
          let outs := if pos = 0 then mine.map (fun v => (v, (0 : Flags)))
            else (List.range c.vlc).map (fun e =>
              redStep t (recField r 6 1) (rmodeOf (modeRND c.md) (ds.getD e 0)) (modeSAT c.md)
                ((ys.getD e 0).toNat % 2 ^ w) (mine.getD e 0))
          let fl := outs.foldl (fun (f : Flags) o => f ||| o.2) 0
          let m := redMsg c r false (outs.map (fun o => w64 o.1))
          emit (.coll m) (fun st => st.heed m)
          setNote (note 2 fl)
          if pos + 1 = npos then finishRed (m.vals) w (note 3 fl) else pure ()
  else pure ()
  let s2 ← get
  let n2 := s2.cur.note.getD []
  if (n2.getD 1 0).toNat < 3 then
    match leaves (s2.call (recField r 0 4) (recField r 0x48 8)) (npos - 1) with
    | none => block
    | some vs => finishRed vs w (note 3 ((n2.getD 2 0).truncate 6))
  else pure ()
  turnBytes (va.toNat + 0x48) (va.toNat + 0x50)
  let s3 ← get
  orFlags ((s3.cur.note.getD []).getD 2 0 |>.truncate 6)
  modCur (fun x => { x with note := none })
where
  /-- The result is written to vd and SEQ + 1 to the descriptor. -/
  finishRed (vs : List Word) (w : Nat) (n : List Word) : M Unit := do
    let s ← get
    modCur (fun x => (List.range s.cur.sc.vlc).foldl (fun (y : Strand) e => y.setElt d.toNat w e (vs.getD e 0).toNat) x)
    storeIf (va + 0x48) (leBytes 8 (recField r 0x48 8 + 1))
    setNote n

/-- The words of bytes, eight at a time. -/
def wordsOfBytes (bs : List Byte) : List Word := (List.range (bs.length / 8)).map (fun i => w64 (recField bs (8 * i) 8))

/-- The bytes of words. -/
def bytesOfWords (ws : List Word) : List Byte := ws.flatMap (fun w => leBytes 8 w.toNat)

/-- The checks of `xr.red` that need no element. -/
def xrRedCheck (d a : Reg) : M Unit := do
  let i : Instr := .xrRed d a
  let t ← needETA i redType
  let _ ← needRND i
  vGroups i (etyBits t) [⟨d.toNat, etyBits t, true, false⟩]
  needB (.s a)

/-- The draws of `xr.red`: one for each element under RS, whatever the type (R46, R139, R444). -/
def xrRedDraws (s : State) : Nat := vDraws s

/-- `xr.red` (R437, R443 to R445). -/
def execXrRed (d a : Reg) := finishK 11 false (vecInstr (.xrRed d a) (xrRedCheck d a) xrRedDraws (do
  let s ← get
  let va := s.cur.sc.reg a
  match s.cur.note with
  | some ws => redRest d va ws (bytesOfWords (ws.drop 7))
  | none =>
    let r ← readRecord va 128 []
    let s ← get
    let w := etyBits ((etyOfCode (modeETA s.cur.sc.md)).getD .i32)
    match firstBad (s.redRules r) with
    | some o => raiseAt cBOUNDS va (w64 o) 0
    | none =>
      let _ ← segsM (va + 0x48) 8 accSt 0
      match (List.range s.cur.sc.vlc).findSome? (fun e => s.cur.eltPoison d.toNat w e) with
      | some p => raiseAt cPOISON (w64 p) 1 0
      | none =>
        let ws := [noteRed, 0, 0, w64 (recField r 0 4), w64 (recField r 0x48 8), w64 (recField r 4 1), w64 (recField r 5 1)] ++
          wordsOfBytes r
        setNote ws
        redRest d va ws r))

/-- COLLECTIVE_MESSAGE (R444, R445): the members of this module that wait go on. -/
def execCollectiveMessage (m : CollMsg) := event (fun s =>
  (s.heed m).mapStrands (fun x =>
    match x.note with
    | some (t :: _) => if t = noteRed then { x with waiting := false } else x
    | _ => x))

/-! ### The publish engine's events (R439, R440) -/

/-- SUBSCRIPTION_REGISTRATION: a registration from another module, or the waiting one of a strand of this module. -/
def execSubscriptionRegistration (r : SubReq) := event (fun s =>
  match r.uid with
  | none => if r.dev = s.devid then s else (s.enrol r).1
  | some u =>
    match s.reqs.find? (fun q => q.eff.uid == u && (match q.eff.kind with | .sub _ _ => true | _ => false)) with
    | none => s
    | some q =>
      match q.eff.kind with
      | .sub dev k =>
        let t := s.subscribe dev k
        ({ t.1 with reqs := t.1.reqs.filter (fun p => p.eff.id != q.eff.id) }).reply u q.eff.id [t.2]
      | _ => s)

/-- PUBLICATION_DELIVERY. -/
def execPublicationDelivery (pubid slot : Nat) := event (fun s => s.serveSub pubid slot)

/-- SUBSCRIBER_DROP (R439, R440): a subscriber on another module, which has become unreachable or where the subscription has ended: by its
cancellation, by a `sy.tlbinv` there or by a reconfiguration of its partition, which write its version word there. -/
def execSubscriberDrop (pubid slot : Nat) := event (fun s =>
  match s.pub? pubid with
  | some p =>
    if p.subs.any (fun b => b.slot == slot && b.dev != s.devid) then s.dropSub pubid slot false else s
  | none => s)

/-! ### The host (R431, R435, R477) -/

/-- The key id of a host access to a physical address (R477). -/
def State.hostKid (s : State) (pa : Nat) : Nat :=
  ((s.keyMap.find? (fun k => decide (k.base ≤ pa) && decide (pa < k.base + k.len))).map (·.kid)).getD 0

/-- Bytes cut at the lines of 512 bytes. -/
def lineCuts : Nat → Nat → Nat → List (Nat × Nat)
  | 0, _, _ => []
  | fuel + 1, pa, n =>
    if n = 0 then []
    else
      let room := 512 - pa % 512
      if n ≤ room then [(pa, n)] else (pa, room) :: lineCuts fuel (pa + room) (n - room)

/-- HOST_READ (R431): at the home, no quad cache and no mark. -/
def execHostRead (pa n : Nat) := event (fun s =>
  (lineCuts (n / 512 + 2) pa n).foldl (fun (s : State) c =>
    let s1 := (s.touchLine 0 (c.1 / 512) (sectorMask (c.1 % 512) c.2) false 0 0).1
    let r := s1.keyRead (s.hostKid c.1) (homeKey 0 c.1) c.2
    { r.2 with hostData := r.2.hostData ++ r.1 }) { s with hostData := [] })

/-- HOST_WRITE (R431). -/
def execHostWrite (pa : Nat) (bytes : List Byte) := event (fun s =>
  ((lineCuts (bytes.length / 512 + 2) pa bytes.length).foldl (fun (t : List Byte × State) c =>
    (t.1.drop c.2, t.2.land 0 ⟨homeKey 0 c.1, t.1.take c.2, 0, s.hostKid c.1, 0, false, 512⟩)) (bytes, s)).2)

/-- MSIX_UNMASK (R435): the held message of the vector is sent. -/
def execMsixUnmask (vec : Nat) := event (fun s =>
  let s1 := { s with msixMask := s.msixMask.filter (fun v => v != vec), msixPend := s.msixPend.filter (fun v => v != vec) }
  if s.msixMask.contains vec && s.msixPend.contains vec then { s1 with hostMsgs := s1.hostMsgs ++ [vec] } else s1)

/-! ### Accesses of other modules (R429, R477) -/

/-- The partition and key id of a range that is opened to module `dev` and holds n bytes from a physical address (R429, R472). -/
def State.openTo (s : State) (dev pa n : Nat) : Option (Nat × Nat) :=
  s.parts.findSome? (fun p => (p.peers.find? (fun k => k.dev == dev && decide (k.base ≤ pa) && decide (pa + n ≤ k.base + k.len))).map
    (fun k => (p.id, k.key)))

/-- The answer to an access of another module: a status, 0 accepted, 1 refused, and its words. -/
def State.tellPeer (s : State) (ws : List Word) : State := { s with peerAns := ws }

/-- Another module's read or fill, at the home slices (R429, R440). -/
def State.peerRead (s : State) (dev pa n : Nat) : State :=
  match s.openTo dev pa n with
  | none => s.tellPeer [1]
  | some k =>
    let t := (lineCuts (n / 512 + 2) pa n).foldl (fun (t : State × List Byte) c =>
      let u := (t.1.touchLine k.1 (c.1 / 512) (sectorMask (c.1 % 512) c.2) false 0 0).1
      let r := u.keyRead k.2 (homeKey 0 c.1) c.2
      (r.2, t.2 ++ r.1)) (s, [])
    if (s.poisonIn (homeKey 0 pa) n).isSome then t.1.tellPeer [2] else t.1.tellPeer (0 :: t.2.map (fun b => w64 b.toNat))

/-- The bytes of another module's turn or release merge at their homes (R429). -/
def State.peerWrite (s : State) (dev pa : Nat) (bs : List Byte) : State :=
  match s.openTo dev pa bs.length with
  | none => s.tellPeer [1]
  | some k =>
    ((lineCuts (bs.length / 512 + 2) pa bs.length).foldl (fun (t : List Byte × State) c =>
      (t.1.drop c.2, t.2.land k.1 ⟨homeKey 0 c.1, t.1.take c.2, 0, k.2, 0, false, 512⟩)) (bs, s)).2.tellPeer [0]

/-- Another module's atomic, executed at the home slice of its word (R429, R436). Its record names the scope's instance by number, as
R305 gives (log 85). -/
def State.peerAtomic (s : State) (dev quad core pa grain op width : Nat) (v expect : Word) (scope : Nat) (trap : Bool) : State :=
  match s.openTo dev pa (width / 8) with
  | none => s.tellPeer [1]
  | some k =>
    let i : Ident := { s.cur.ident with quad := quad, core := core, devid := dev }
    let g := pa / grain * grain
    let r : AtReq := {
      key := homeKey 0 pa, va := 0, width := width, op := op, ac := false, v := v, expect := expect, scope := scope,
      dom := scopeDom scope i, core := core, slot := 0, trap := trap, gkey := homeKey 0 g, gva := 0, gsize := grain,
      crew := farStrand, part := k.1, asid := 0, cach := false, priv := false, pol := 0, kid := k.2 }
    match s.atHomeFrom i farStrand r with
    | (.ok old a b, t) => t.tellPeer (0 :: (AtRes.ok old a b).words)
    | (x, t) => t.tellPeer (2 :: x.words)

/-! ### The network (R446 to R450) -/

/-- The key of a datagram (R449). -/
def dgKey (g : Datagram) : DgKey := ⟨g.addr6, (dgSpart g), (dgSep g), (dgSeq g)⟩

/-- A grant that holds n bytes from the address of a datagram, with its partition (R447, R449). -/
def State.grantFor (s : State) (g : Datagram) (n : Nat) : Option (Nat × InGrant) :=
  s.parts.findSome? (fun p => (p.grants.find? (fun k => k.2.addr6 == g.addr6 && k.2.spart == (dgSpart g) &&
    decide (k.2.base ≤ (dgPaddr g)) && decide ((dgPaddr g) + n ≤ k.2.base + k.2.len))).map (fun k => (p.id, k.2)))

/-- The SEQ of a datagram has been applied; only the last 65,536 of its stream are remembered (R449). -/
def State.seen (s : State) (g : Datagram) : State :=
  { s with dgSeen := dgKey g :: s.dgSeen.filter (fun k =>
      !(k.addr6 == g.addr6 && k.spart == (dgSpart g) && k.sep == (dgSep g) && decide (k.seqNo + 65536 ≤ (dgSeq g)))) }

/-- Answers a datagram. DESIGN CHOICE (log 84): the answer's header names SPART, SEP and PADDR of the datagram that it answers. -/
def State.answerDg (s : State) (g : Datagram) (ok : Bool) : State :=
  { s with dgAns := s.dgAns ++ [DgAns.mk (dgKey g) ok (dgHeader (if ok then 3 else 4) s.devid (dgSpart g) (dgSep g) (dgSeq g) (dgPaddr g) 0)] }

/-- Changes a port. -/
def State.modPort (s : State) (i : Nat) (f : Port → Port) : State :=
  { s with ports := s.ports.zipIdx.map (fun p => if p.2 = i then f p.1 else p.1) }

/-- A frame that is no datagram of R449 is dropped and counted (R446). -/
def State.dropFrame (s : State) (port : Nat) : State := s.modPort port (fun p => { p with drops := p.drops + 1 })

/-- A data (1) or signal (2) datagram arrives (R449, R450): refused, acknowledged again, or applied and acknowledged. -/
def State.takeDg (s : State) (g : Datagram) (kind n : Nat) (apply : Nat → InGrant → State → State) : State :=
  if !dgValid g kind then s.dropFrame g.port
  else
  match s.grantFor g n with
  | none => s.answerDg g false
  | some k =>
    if s.dgSeen.contains (dgKey g) then s.answerDg g true
    else ((apply k.1 k.2 s).seen g).answerDg g true

/-- DATAGRAM_DATA (R449, R450). -/
def execDatagramData (g : Datagram) := event (fun s =>
  s.takeDg g 1 (dgData g).length (fun part k s =>
    ((lineCuts ((dgData g).length / 512 + 2) (dgPaddr g) (dgData g).length).foldl (fun (t : List Byte × State) c =>
      (t.1.drop c.2, t.2.land part ⟨homeKey 0 c.1, t.1.take c.2, 0, k.key, 0, false, 512⟩)) ((dgData g), s)).2))

/-- DATAGRAM_SIGNAL (R448 to R450): an add of 1 at the word's home, as an atomic at PKG scope (R334): its grain's record is
this module's. -/
def execDatagramSignal (g : Datagram) := event (fun s =>
  s.takeDg g 2 8 (fun part k s =>
    let r := s.keyRead k.key (homeKey 0 (dgPaddr g)) 8
    let t := r.2.land part ⟨homeKey 0 (dgPaddr g), leBytes 8 ((leNat r.1 + 1) % 2 ^ 64), 0, k.key, 0, false, 512⟩
    let gk := homeKey 0 ((dgPaddr g) / 128 * 128)
    t.setHomeRec { key := gk, scope := 4, dom := s.devid, core := 0, slot := 0, epoch := 0, va := 0 }))

/-- The unanswered datagram of a SEQ. -/
def State.dgOf (s : State) (part sep seq : Nat) : Option DgOut :=
  s.dgOut.find? (fun d => d.part == part && d.sep == sep && d.seqNo == seq)

/-- Forgets an unanswered datagram. -/
def State.dropDg (s : State) (d : DgOut) : State :=
  { s with dgOut := s.dgOut.filter (fun k => !(k.part == d.part && k.sep == d.sep && k.seqNo == d.seqNo)) }

/-- DATAGRAM_ACK (R448, R449): the chunk completes, or the signal ends its transfer. -/
def execDatagramAck (part sep seq : Nat) := event (fun s =>
  match s.dgOf part sep seq with
  | none => s
  | some d =>
    let s1 := s.dropDg d
    match s1.xfer? d.uid d.ch d.ident with
    | none => s1
    | some (x, t) =>
      match d.chunk with
      | none => s1.endXfer x d.ch t
      | some k =>
        if t.chunks.contains k ∨ t.limit ≤ k then s1
        else (s1.finishChunk x d.ch t k []).netPump d.uid d.ch d.ident)

/-- A datagram fails its transfer with NET at its chunk (R449): for the signal, after the last one. -/
def State.dgFail (s : State) (d : DgOut) : State :=
  let s1 := s.dropDg d
  match s1.xfer? d.uid d.ch d.ident with
  | none => s1
  | some (_, t) =>
    let k := d.chunk.getD t.count
    (s1.putXfer d.uid d.ch (t.failAt 9 k)).netPump d.uid d.ch d.ident

/-- DATAGRAM_REFUSAL (R449). -/
def execDatagramRefusal (part sep seq : Nat) := event (fun s =>
  match s.dgOf part sep seq with
  | some d => s.dgFail d
  | none => s)

/-- The port that would carry a datagram is free (R446). -/
def State.mayResend (s : State) (d : DgOut) : Bool :=
  match s.part? d.part with
  | some p => (p.eps.find? (fun e => e.1 == d.sep)).elim true (fun e => s.portFree e.2)
  | none => true

/-- DATAGRAM_RETRANSMIT (R449): sent again, up to 16 times; the timeout after the last fails the transfer. While its ports are paused
nothing is sent (R446). -/
def execDatagramRetransmit (part sep seq : Nat) := event (fun s =>
  match s.dgOf part sep seq with
  | none => s
  | some d =>
    if 16 ≤ d.tries then s.dgFail d
    else if !s.mayResend d then s
    else { s with dgOut := s.dgOut.map (fun (k : DgOut) =>
      if k.part = part ∧ k.sep = sep ∧ k.seqNo = seq then { k with tries := k.tries + 1 } else k) })

/-- FRAME_DROP (R446). -/
def execFrameDrop (port : Nat) := event (fun s => s.dropFrame port)

/-- The nanoseconds of a pause of n quanta, each 512 bit times at 800 Gb/s (R446, IEEE 802.3). -/
def pauseTime (n : Nat) : Nat := (n % 2 ^ 16 * 512 + 799) / 800

/-- A port's frames of the classes of an IEEE 802.1Qbb frame, or of every class for a PAUSE frame (0), wait for a time. -/
def Port.pause (p : Port) (now classes quanta : Nat) : Port :=
  let on (k : Nat) : Bool := classes == 0 || classes.testBit k
  { p with paused := ((List.range 8).filter on).map (fun k => (k, now + pauseTime quanta)) ++ p.paused.filter (fun e => !on e.1) }

/-- PAUSE_FRAME (R446): honoured when the lodge enables it; a time of 0 ends a pause. `frame` holds the quanta in its low 16 bits, and
above them the classes of an IEEE 802.1Qbb frame, or 0 for a PAUSE frame. -/
def execPauseFrame (port frame : Nat) := event (fun s =>
  let t := s.modPort port (fun p => if p.pauses then p.pause s.timer (frame / 2 ^ 16) frame else p)
  if frame % 2 ^ 16 = 0 then t.pumpNet else t)

end Sys2Proof.Machine
end

