-- ==== Sys2Proof/Machine/Launch.lean ====
section
/-! DEFINITION. Launches and the package scheduler: `ln.go`, `ln.stat`, `sy.yield`, placing, pre-empting and restoring crews,
dependences, completion words, restarts and the fault queue's waiting entries (R249 to R271, R299, R399, R402, R404). -/

namespace Sys2Proof.Machine

/-! ### Words the scheduler reads and writes (R259, R262) -/

/-- The home of n bytes at a virtual address of a partition: the page, found without setting A. -/
def State.homeOf (s : State) (part : Nat) (va : Word) : Option Page :=
  if inWindow va || !canonical va then none
  else
    match s.walk part va with
    | .leaf e level v size => some (pageOf e level v size false)
    | .none _ _ _ => none

/-- Writes bytes at their home. -/
def State.homeWrite (s : State) (part : Nat) (va : Word) (bs : List Byte) : State :=
  match s.homeOf part va with
  | some p => (s.orLeaf part va 192).land part ⟨p.key + (va.toNat - p.va), bs, 0, p.kid, 0, false, p.grain⟩
  | none => s

/-- A word as it stands at its home. DESIGN CHOICE (log 62): the word of an address that does not translate reads 0, so that a dependence
on it is not met. -/
def State.homeWord (s : State) (part : Nat) (va : Word) : Word :=
  match s.homeOf part va with
  | some p => w64 (leNat (s.keyRead p.kid (p.key + (va.toNat - p.va)) 8).1)
  | none => 0

/-- The scheduler reads the dependence words of a launch; one seen DONE stays met (R259). -/
def State.poll (s : State) (h : Word) : State :=
  s.modLaunch h (fun l => { l with deps := l.deps.map (fun d => { d with met := d.met || bitOf (s.homeWord l.part d.va) 0 }) })

/-- The dependence words of every launch are read. -/
def State.pollAll (s : State) : State := (s.launches.map (·.handle)).foldl (fun (s : State) h => s.poll h) s

/-- The completion word (R262). -/
def completionWord (crews flags : Nat) (rolled lost faulted : Bool) : Word :=
  w64 (crews % 2 ^ 32 * 2 ^ 32 + flags * 2 ^ 8 + rolled.toNat * 8 + lost.toNat * 4 + faulted.toNat * 2 + 1)

/-! ### Accepting a launch (R252 to R256) -/

/-- kmax (R253). -/
def kmax (nstr : Nat) : Nat := (nstr + 3) / 4

/-- The fields of an LPB in offset order, and whether each is accepted (R252). -/
def lpbRules (p : Part) (b : List Byte) : List (Nat × Bool) :=
  let f (o n : Nat) := recField b o n
  let prot := f 0x27 1 % 2 = 1
  let mirror := f 0x27 1 / 16 % 2 = 1
  let dep (o : Nat) : Nat × Bool := (o, f o 8 == 0 || (canonical (w64 (f o 8)) && !inWindow (w64 (f o 8)) && f o 8 % 8 == 0))
  [(0x00, canonical (w64 (f 0 8)) && f 0 8 % 4 == 0),
   (0x10, f 0x10 8 != 0 && canonical (w64 (f 0x10 8)) && !inWindow (w64 (f 0x10 8)) && f 0x10 8 % 8 == 0),
   (0x18, decide (f 0x18 4 ≤ 65536)), (0x1C, decide (f 0x1C 4 ≤ 65536)), (0x20, decide (f 0x20 4 ≤ 65536)),
   (0x24, decide (1 ≤ f 0x24 1) && decide (f 0x24 1 ≤ 32)), (0x25, decide (p.plo ≤ f 0x25 1) && decide (f 0x25 1 ≤ p.phi)),
   (0x26, decide (f 0x26 1 ≤ 8)), (0x27, decide (f 0x27 1 < 32)),
   (0x28, decide (f 0x28 2 ≤ if prot then 256 else 512)),
   (0x2A, decide (f 0x2A 2 ≤ 512) && (f 0x2A 2 == 0 || decide (f 0x28 2 ≤ f 0x2A 2))),
   (0x2C, decide (f 0x2C 4 ≤ 2097152)),
   (0x30, if mirror then decide (1 ≤ f 0x30 1) && decide (f 0x30 1 ≤ 144) else f 0x30 1 == 0), (0x31, f 0x31 7 == 0),
   dep 0x38, dep 0x40, dep 0x48, dep 0x50, (0x60, f 0x60 32 == 0)]

/-- The launch that an accepted LPB describes (R252). -/
def launchOfLpb (h : Word) (part : Nat) (b : List Byte) (prv : Bool) : Launch :=
  let f (o n : Nat) := recField b o n
  let fl := f 0x27 1
  { handle := h, part := part, entry := w64 (f 0 8), param := w64 (f 8 8), doneVa := w64 (f 0x10 8),
    ncx := f 0x18 4, ncy := f 0x1C 4, ncz := f 0x20 4, nstr := f 0x24 1, prio := f 0x25 1, tiles := f 0x26 1,
    prot := fl % 2 == 1, cores := fl / 2 % 2 == 1, nopre := fl / 4 % 2 == 1, sysrel := fl / 8 % 2 == 1,
    mirror := fl / 16 % 2 == 1, vlmin := f 0x28 2, vldes := f 0x2A 2, spad := f 0x2C 4, mgrp := f 0x30 1,
    deps := ([0x38, 0x40, 0x48, 0x50].filter (fun o => f o 8 != 0)).map (fun o => ⟨w64 (f o 8), false⟩),
    prv := prv, placed := 0, retired := 0, normal := 0, flags := 0, faulted := false, ctxlost := false, rolled := false }

/-! ### Room for several crews at once (R254, R261, R266) -/

/-- What is free on a quad: strand slots, tiles and vector slots of each core, allotments of a launch's size, and the controllers in
use. -/
structure Room where
  quad  : Nat
  cores : List (Nat × Nat × Nat)
  pads  : Nat
  cbs   : List Nat
deriving DecidableEq, Repr

/-- An empty quad. -/
def Room.empty (l : Launch) (q : Nat) : Room :=
  ⟨q, List.replicate 4 (8, 8, 1024), if allotOf l.spad = 0 then 33 else 2 ^ 21 / allotOf l.spad, []⟩

/-- A crew that has to be placed: its old grants when it is being resumed, its controllers, and its mirror group (R258, R261). -/
structure Need where
  old   : Option (List Nat)
  cbs   : List Nat
  group : Nat
deriving DecidableEq, Repr

/-- A quad once it has taken a crew with base core b, when R261 lets it; a new crew takes the grants that R261 gives it. -/
def Room.take (l : Launch) (d : Need) (b : Nat) (r : Room) : Option Room :=
  let core (c : (Nat × Nat × Nat) × Nat) : Option (Nat × Nat × Nat) :=
    let k := kOf l.nstr b c.2
    let vec := match d.old with
      | some g => ((List.range l.nstr).filterMap (fun i => if coreOf b i = c.2 then g[i]? else none)).sum
      | none => k * vlMin' l.vlmin
    let takes := match d.old with
      | some _ => vec
      | none => k * min (vlDes' l.vlmin l.vldes l.prot) (32 * (c.1.2.2 / (32 * k)))
    if k ≤ c.1.1 ∧ k * l.tiles ≤ c.1.2.1 ∧ vec ≤ c.1.2.2 then some (c.1.1 - k, c.1.2.1 - k * l.tiles, c.1.2.2 - takes) else none
  if r.pads = 0 ∨ d.cbs.any r.cbs.contains then none
  else (r.cores.zipIdx.mapM core).map (fun cs => { r with cores := cs, pads := r.pads - 1, cbs := r.cbs ++ d.cbs })

/-- How unevenly a quad's cores are loaded with strands. -/
def Room.skew (r : Room) : Nat := (r.cores.map (fun c => (8 - c.1) ^ 2)).sum

/-- The ways in which a quad takes a crew, those that spread the strands most evenly first. -/
def Room.ways (l : Launch) (d : Need) (r : Room) : List (Nat × Room) :=
  sortBy (fun x y => decide (x.2.skew ≤ y.2.skew)) ((List.range 4).filterMap (fun b => (r.take l d b).map (fun x => (b, x))))

/-- A partial choice of places: the quads as they are then, what is still to place, the quads that mirror groups use, the places so
far, the latest first. -/
structure Plan where
  rooms : List Room
  needs : List Need
  used  : List (Nat × Nat)
  spots : List (Nat × Nat)
deriving DecidableEq, Repr

/-- Puts a changed quad back into a list of quads. -/
def putRoom (rs : List Room) (x : Room) : List Room := rs.map (fun r => if r.quad = x.quad then x else r)

/-- The free strand slots of a quad. -/
def Room.slots (r : Room) : Nat := (r.cores.map (·.1)).sum

/-- The places for the next crew of a plan: quads that look alike count once, and the members of a mirror group stand on distinct
quads (R258), the emptiest first. -/
def Plan.next (l : Launch) (x : Plan) (d : Need) (rest : List Need) : List Plan :=
  let free := x.rooms.filter (fun r => !(l.mirror && x.used.contains (d.group, r.quad)))
  let kinds := free.foldl (fun (acc : List Room) r =>
    if acc.any (fun k => decide ({ k with quad := r.quad } = r) && x.used.contains (d.group, k.quad) == x.used.contains (d.group, r.quad)) then acc
    else acc ++ [r]) []
  let kinds := if l.mirror then sortBy (fun a b => decide (b.slots ≤ a.slots)) kinds else kinds
  kinds.flatMap (fun r => (r.ways l d).map (fun w =>
    { rooms := putRoom x.rooms w.2, needs := rest, used := if l.mirror then (d.group, r.quad) :: x.used else x.used,
      spots := (r.quad, w.1) :: x.spots }))

/-- Looks for places for every crew of a plan, going back where one finds none; at most `fuel` steps. -/
def seek (l : Launch) : Nat → List Plan → Option (List (Nat × Nat))
  | 0, _ => none
  | _, [] => none
  | fuel + 1, x :: st =>
    match x.needs with
    | [] => some x.spots.reverse
    | d :: r => seek l fuel (x.next l d r ++ st)

/-- The plans that a choice of places for n crews on some quads can pass through are fewer than this: each crew has at most four base
cores on each quad. -/
def planBound (quads n : Nat) : Nat := (4 * quads + 1) ^ (n + 1)

/-- Places for some crews on some quads, used together: the first that the search finds, and none only when there are none (R254,
R266). -/
def placesIn (l : Launch) (rs : List Room) (ds : List Need) (used : List (Nat × Nat)) : Option (List (Nat × Nat)) :=
  if (rs.map Room.slots).sum < ds.length * l.nstr then none else seek l (planBound rs.length ds.length) [⟨rs, ds, used, []⟩]

/-- The checks of R254 in order. -/
def fitRules (p : Part) (b : List Byte) : List (Nat × Bool) :=
  let f (o n : Nat) := recField b o n
  let total := f 0x18 4 * f 0x1C 4 * f 0x20 4
  let k := kmax (f 0x24 1)
  let mirror := f 0x27 1 / 16 % 2 == 1
  let cores := f 0x27 1 / 2 % 2 == 1
  let mg := f 0x30 1
  [(0x26, decide (k * f 0x26 1 ≤ 8)), (0x28, decide (k * vlMin' (f 0x28 2) ≤ 1024)),
   (0x30, !mirror || (decide (mg ≤ p.quads.length) && total % mg == 0 && decide (total / mg ≤ 2 ^ 24))),
   (0x27, !cores || (decide (total ≤ 32 * p.quads.length) && (
     let l := launchOfLpb 0 p.id b false
     placesIn l (p.quads.map (Room.empty l)) ((List.range total).map (fun i => ⟨none, [], if l.mirror then i / l.mgrp else 0⟩)) []).isSome))]

/-- The request of `ln.go` reaches the scheduler (R255, R256): the launch is recorded and its handle returned, or refused. DESIGN CHOICE
(log 86): a new handle names the lowest free slot of the scheduler's 1,024. -/
def State.acceptLaunch (s : State) (part : Nat) (b : List Byte) (prv : Bool) : State × Word :=
  match s.part? part with
  | none => (s, refusal 1 0)
  | some p =>
    let done := w64 (recField b 0x10 8)
    let refuse (code off : Nat) : State × Word :=
      (s.homeWrite part done (leBytes 8 (completionWord 0 0 false false true).toNat), refusal code off)
    if 1024 ≤ s.launches.length then (s, refusal 1 0)
    else
      match firstBad (lpbRules p b), firstBad (fitRules p b) with
      | some o, _ => refuse 2 o
      | none, some o => refuse 3 o
      | none, none =>
        let slot := ((List.range 1024).find? (fun i => !s.launches.any (fun l => l.handle.toNat % 1024 == i))).getD 0
        let h := w64 (part * 2 ^ 48 + (p.launchSeq + 1) % 2 ^ 38 * 2 ^ 10 + slot)
        let s1 := (s.homeWrite part done (leBytes 8 0)).modPart part (fun p => { p with launchSeq := p.launchSeq + 1 })
        (({ s1 with launches := s1.launches ++ [launchOfLpb h part b prv] }).poll h, h)

/-! ### `ln.go` and `ln.stat` (R255, R257) -/

/-- Reads an LPB as one read of 128 bytes; a page's fault carries its address (R255). -/
def readLpb (va : Word) (a : Reg) : M (List Byte) := do
  let s ← get
  let r := s.segs va 128 accStruct
  match r.1 with
  | .error f =>
    let g : Fail := if f.cause = cPAGE_NP ∨ f.cause = cPAGE_PROT then { f with eval := va } else f
    throw (r.2.failStop g accStruct 0)
  | .ok gs =>
    set r.2
    sound [a]
    let bs ← gs.mapM (readSeg 0)
    pure bs.flatten

/-- The checks of DONEVA (R255). -/
def checkDone (va done : Word) : M Unit := do
  if done = 0 || !canonical done || inWindow done || done.toNat % 8 != 0 then raiseAt cLAUNCH va done 0
  else
    let s ← get
    match s.segOf done 8 accSt with
    | (.ok _, t) => set t
    | (.error f, t) => if f.nonres then throw (t.failStop f accSt 0) else raiseAt cLAUNCH va done 0

/-- The translation of ENTRY for a privileged issuer: whether the launch is privileged (R255, R389). -/
def checkEntry (va entry : Word) : M Bool := do
  let s ← get
  if !s.cur.sc.prv then pure false
  else if inWindow entry || !canonical entry then raiseAt cLAUNCH va entry 0
  else
    match s.peek entry with
    | some p => if p.x && !(p.check s ⟨0, false, false⟩ entry).isSome then pure (!p.u) else raiseAt cLAUNCH va entry 0
    | none =>
      match s.walk s.cur.ident.part entry with
      | .none level false true => throw (s.failStop ⟨cPAGE_NP, 7, entry, pageInfo accStruct false level, true⟩ accStruct 0)
      | _ => raiseAt cLAUNCH va entry 0

/-- The grain of DONEVA leaves the issuer's core L1 and the quad inbound cache, as by a turned store of its own (R255). -/
def State.forgetDone (s : State) (done : Word) : State :=
  match s.peek done with
  | some p =>
    let k := p.key + (done.toNat - p.va)
    s.dropGrain (k / p.grain * p.grain) p.grain true
  | none => s

/-- `ln.go` once its LPB is checked: the release, the request, the handle. -/
def lnRest (d : Reg) (ws : List Word) : M Done := do
  accessesDone
  release 4
  let s ← get
  let b := bytesOfWords (ws.drop 3)
  let prv := ws.getD 2 0 != 0
  let r ← askUnit (.lnGo b prv) (fun e st =>
    let t := st.acceptLaunch s.cur.ident.part b prv
    t.1.reply st.cur.uid e [t.2])
  modify (fun st => (st.forgetDone (w64 (recField b 0x10 8))).modCur (fun x => { x with note := none }))
  wr d (r.headD 0)
  pure .adv

/-- `ln.go` (R255). -/
def execLnGo (d a : Reg) := finishK 11 false (do
  ready d
  let va ← rv a
  let s ← get
  match s.cur.note with
  | some ws => lnRest d ws
  | none =>
    drained
    let b ← readLpb va a
    if va.toNat % 128 ≠ 0 then raise cLAUNCH va
    else
      checkDone va (w64 (recField b 0x10 8))
      let prv ← checkEntry va (w64 (recField b 0 8))
      let ws := [noteLn, 0, wBool prv] ++ wordsOfBytes b
      setNote ws
      lnRest d ws)

/-- Every crew of a launch has retired. -/
def Launch.over_ (l : Launch) : Bool := l.retired == l.total

/-- STATE of a launch (R257). DESIGN CHOICE (log 87): a launch of which some crews have retired and all the others are in the depot is
RUNNING; it is QUEUED again only while none has retired. -/
def State.launchState (s : State) (l : Launch) : Nat :=
  let cs := s.crews.filter (fun c => c.launch == l.handle)
  if !l.eligible then 1
  else if l.over_ then 4
  else if l.placed = 0 then 2
  else if !cs.isEmpty && cs.all (·.depot) && l.retired == 0 then 2
  else 3

/-- `ln.stat` (R257). -/
def execLnStat (d a : Reg) := finish (do
  ready d
  let h ← rd a
  let s ← get
  match s.launchOf h with
  | some l =>
    if l.part = s.cur.ident.part then
      let dep := s.crews.any (fun c => c.launch == h && c.depot)
      wr d (w64 (l.retired % 2 ^ 32 * 2 ^ 32 + (if dep then 2 ^ 14 else 0) + l.prio * 2 ^ 8 + s.launchState l))
    else wr d 0
  | none => wr d 0
  pure .adv)

/-! ### Placing crews (R258, R261, R265, R266) -/

/-- A crew that a launch has to place next: a saved one, or a new one by its linear index. -/
structure Next where
  crew  : Option Nat
  index : Nat
deriving DecidableEq, Repr

/-- The saved crews of a launch that the scheduler restores, in increasing linear index (R265). -/
def State.saved (s : State) (h : Word) : List Crew :=
  sortBy (fun a b => decide (a.index ≤ b.index)) (s.crews.filter (fun c => c.launch == h && c.depot && !c.swapped))

/-- The crews that a launch places next, together when it has CORES or MIRROR (R258, R265, R266). -/
def State.nexts (s : State) (l : Launch) : List Next :=
  match s.saved l.handle with
  | c :: r =>
    let same (x : Crew) := l.cores || (l.mirror && x.index / l.mgrp == c.index / l.mgrp)
    (c :: r.filter same).map (fun x => ⟨some x.id, x.index⟩)
  | [] =>
    let left := l.total - l.placed
    let n := if left = 0 then 0 else if l.cores then left else if l.mirror then min l.mgrp left else 1
    (List.range n).map (fun i => ⟨none, l.placed + i⟩)

/-- The grants of a crew's strands, by STRID. -/
def State.grants (s : State) (c n : Nat) : List Nat :=
  (List.range n).map (fun i => ((s.liveOf c).find? (fun x => x.ident.strid == i)).elim 0 (·.vlg))

/-- A crew fits on quad q with base core b (R261). -/
def State.fitsNext (s : State) (l : Launch) (n : Next) (q b : Nat) : Bool :=
  match n.crew with
  | some c => s.fits l q b (some (s.grants c l.nstr)) ((s.crewOf c).elim [] (·.cbs))
  | none => s.fits l q b none []

/-- Places a crew, or restores it. -/
def State.putNext (s : State) (l : Launch) (n : Next) (q b : Nat) : State :=
  match n.crew with
  | some c => s.restoreCrew c q b false
  | none => s.placeNew l n.index q b

/-- How many allotments of a size are free in quad q's scratchpad: in each hole as many as fit (R297). -/
def State.freePads (s : State) (q size : Nat) : Nat :=
  if size = 0 then 33
  else
    let held := (s.crews.filter (fun c => c.quad == q && !c.depot && c.alen != 0)).map (fun c => (c.abase / 4096, (c.abase + c.alen) / 4096))
    ((List.range 512).foldl (fun (t : Nat × Nat) i =>
      if held.any (fun h => decide (h.1 ≤ i) && decide (i < h.2)) then (0, t.2)
      else if t.1 + 1 = size / 4096 then (0, t.2 + 1) else (t.1 + 1, t.2)) (0, 0)).2

/-- What is free on quad q for crews of a launch. -/
def State.roomOf (s : State) (l : Launch) (q : Nat) : Room :=
  { quad := q, cores := (List.range 4).map (fun c => ((s.freeSlots q c).length, s.freeTiles q c, s.freeVec q c)),
    pads := s.freePads q (allotOf l.spad), cbs := (s.getQuad q).d.cbs.map (·.idx) }

/-- The quads that take crews of a launch (R250, R261). -/
def State.roomsOf (s : State) (l : Launch) : List Room :=
  match s.part? l.part with
  | some p => (p.quads.filter (fun q => s.quadOpen l.part q)).map (s.roomOf l)
  | none => []

/-- The mirror group of a crew's index. -/
def Launch.group (l : Launch) (i : Nat) : Nat := if l.mirror then i / l.mgrp else 0

/-- What a crew needs to be placed. -/
def State.needOf (s : State) (l : Launch) (n : Next) : Need :=
  match n.crew with
  | some c => ⟨some (s.grants c l.nstr), ((s.crewOf c).elim [] (·.cbs)).map (·.idx), l.group n.index⟩
  | none => ⟨none, [], l.group n.index⟩

/-- Places for crews that a launch places together. -/
def State.spotsFor (s : State) (l : Launch) (ns : List Next) (used : List (Nat × Nat)) : Option (List (Nat × Nat)) :=
  placesIn l (s.roomsOf l) (ns.map (s.needOf l)) used

/-- Places crews at places found for them. -/
def State.putAt (s : State) (l : Launch) (xs : List (Next × (Nat × Nat))) : State :=
  xs.foldl (fun (s : State) x => s.putNext l x.1 x.2.1 x.2.2) s

/-- Crews that are placed together return with the grants they had: a larger one could take another's room. -/
def State.keepGrants (s : State) (ns : List Next) : State :=
  if ns.length ≤ 1 then s
  else s.mapStrands (fun x => if ns.any (fun n => n.crew == some x.ident.crew) then { x with offer := none } else x)

/-- Places crews together, or none of them (R266): the first at `pref` when one is given. -/
def State.putAll (s : State) (l : Launch) (ns : List Next) (pref : Option (Nat × Nat)) : Option State :=
  let s0 := s.keepGrants ns
  match ns, pref with
  | n :: r, some p =>
    if s0.fitsNext l n p.1 p.2 then
      let s1 := s0.putNext l n p.1 p.2
      (s1.spotsFor l r [(l.group n.index, p.1)]).map (fun sp => s1.putAt l (r.zip sp))
    else none
  | _, _ => (s0.spotsFor l ns []).map (fun sp => s0.putAt l (ns.zip sp))

/-- A launch has crews to place and there is room for them. -/
def State.placeable (s : State) (l : Launch) : Bool :=
  let ns := s.nexts l
  l.eligible && !ns.isEmpty && (s.spotsFor l ns []).isSome

/-- The sequence number of the launch of a level that was served last. -/
def Part.served (p : Part) (prio : Nat) : Nat := ((p.rot.find? (fun r => r.1 == prio)).map (·.2)).getD 0

/-- The launch that the scheduler serves next in a partition (R265): the highest level that holds an eligible launch with a
placeable crew, and within it the next launch of the rotation. -/
def State.pickLaunch (s : State) (part : Nat) : Option Launch :=
  match s.part? part with
  | none => none
  | some p =>
    let cs := s.launches.filter (fun l => l.part == part && s.placeable l)
    let top := cs.foldl (fun (m : Nat) l => max m l.prio) 0
    let lv := cs.filter (fun l => l.prio == top)
    match lv.find? (fun l => decide (p.served top < handleSeq l.handle)) with
    | some l => some l
    | none => lv.head?

/-- Serves a launch: its next crews are placed, and the rotation moves on. -/
def State.serve (s : State) (l : Launch) (pref : Option (Nat × Nat)) : State :=
  match s.putAll l (s.nexts l) pref with
  | none => s
  | some t => t.modPart l.part (fun p =>
      { p with rot := (l.prio, handleSeq l.handle) :: p.rot.filter (fun r => r.1 != l.prio) })

/-- CREW_PLACE (R265): the launch whose turn it is has its next crew placed on the quad, if that crew is new and fits. -/
def execCrewPlace (part quad base : Nat) := event (fun s =>
  match s.pickLaunch part with
  | none => s
  | some l =>
    match s.nexts l with
    | n :: _ => if n.crew.isNone && s.fitsNext l n quad base then s.serve l (some (quad, base)) else s
    | [] => s)

/-- CREW_RESTORE (R265, R268): the saved crew whose turn it is returns on the quad, if it fits. -/
def execCrewRestore (crew quad base : Nat) := event (fun s =>
  match s.crewOf crew with
  | none => s
  | some c =>
    match s.pickLaunch c.part with
    | none => s
    | some l =>
      match s.nexts l with
      | n :: _ => if n.crew == some crew && s.fitsNext l n quad base then s.serve l (some (quad, base)) else s
      | [] => s)

/-! ### Pre-emption (R258, R266 to R269, R404, R420) -/

/-- The resident crews taken with a crew: of its launch with CORES, of its mirror group with MIRROR (R258, R266). -/
def State.together (s : State) (c : Crew) : List Crew :=
  let cs := s.crews.filter (fun d => d.launch == c.launch && !d.depot)
  match s.launchOf c.launch with
  | some l =>
    if l.cores then cs
    else if l.mirror then cs.filter (fun d => d.index / l.mgrp == c.index / l.mgrp)
    else cs.filter (fun d => d.id == c.id)
  | none => cs.filter (fun d => d.id == c.id)

/-- A crew is stopped with the crews taken with it. -/
def State.takeCrew (s : State) (c : Crew) : State :=
  (s.together c).foldl (fun (s : State) d => if d.stopping then s else s.stopCrew d.id) s

/-- Crews that have stopped turn what they have stored home, and are saved once every effect they issued has been performed (R230,
R268, R420). -/
def State.saveStopped (s : State) (p : Crew → Bool) : State :=
  let cs := s.crews.filter (fun c => c.stopping && p c)
  cs.foldl (fun (s : State) c =>
    let g := s.together c
    if g.all (fun d => d.stopping && s.crewReady d.id) then
      g.foldl (fun (s : State) d => s.saveCrew d.id false) s
    else s) ((cs.map (·.id)).foldl State.turnCrew s)

/-- PRIO of a crew's launch. -/
def State.prioOf (s : State) (c : Crew) : Nat := (s.launchOf c.launch).elim 0 (·.prio)

/-- The members of a crew's mirror group that stand on quads and do not stop (R258). -/
def State.groupOf (s : State) (l : Launch) (c : Crew) : List Crew :=
  s.crews.filter (fun d => d.launch == c.launch && !d.depot && !d.stopping && d.index / l.mgrp == c.index / l.mgrp)

/-- A running crew that may be pre-empted: not one of a launch with NOPRE, nor a mirror member whose group cannot be taken whole,
because a fellow has retired or stops already (R267). -/
def State.preemptible (s : State) (c : Crew) : Bool :=
  !c.depot && !c.stopping && ((s.launchOf c.launch).elim true (fun l =>
    !l.nopre && (!l.mirror || decide ((s.groupOf l c).length = min l.mgrp (l.total - c.index / l.mgrp * l.mgrp)))))

/-- The greatest priority of an eligible launch with crews for which no room exists (R267). -/
def State.waitingPrio (s : State) (part : Nat) : Option Nat :=
  (s.launches.filter (fun l => l.part == part && l.eligible && !(s.nexts l).isEmpty && !s.placeable l)).foldl
    (fun (m : Option Nat) l => match m with | some k => some (max k l.prio) | none => some l.prio) none

/-- The crew that pre-emption takes (R267): of the lowest running priority Q with P ≥ Q + THRESH, the one placed last. The crews of a
halted partition do not run. -/
def State.victimCrew (s : State) (part : Nat) : Option Crew :=
  match s.part? part, s.waitingPrio part with
  | some p, some w =>
    let cs := s.crews.filter (fun c => c.part == part && s.preemptible c)
    let q := cs.foldl (fun (m : Nat) c => min m (s.prioOf c)) 64
    if !p.halted && !p.saved && decide (q + p.pthresh ≤ w) then
      (cs.filter (fun c => s.prioOf c == q)).foldl (fun (b : Option Crew) c =>
        match b with | some d => if d.seq < c.seq then some c else some d | none => some c) none
    else none
  | _, _ => none

/-- SCHEDULER_PREEMPT (R267, R268): crews that are stopping are saved as far as they can be; otherwise the next crew is
taken. -/
def execSchedulerPreempt (part : Nat) := event (fun s =>
  if s.crews.any (fun c => c.part == part && c.stopping) then s.saveStopped (fun c => c.part == part)
  else
    match s.victimCrew part with
    | some c => (s.takeCrew c).saveStopped (fun d => d.part == part)
    | none => s)

/-- At a yield the scheduler may take the crew for a launch of at least its priority that finds no room (R269): a free
choice. -/
def State.yieldCrew (s : State) : State :=
  match s.crewOf s.cur.ident.crew with
  | none => s
  | some c =>
    if s.preemptible c && (match s.waitingPrio c.part with | some w => decide (s.prioOf c ≤ w) | none => false) then
      let t := { s with freeCtr := s.freeCtr + 1 }
      if Config.freeBool s.freeCtr then t.takeCrew c else t
    else s

/-- `sy.yield` (R155, R269): the strand goes on with the grant the scheduler offers, or with its own. -/
def execSyYield := finish (do
  drained
  noFilling
  let s ← get
  match s.cur.offer with
  | none => modify State.yieldCrew
  | some n =>
    if !s.grantOk s.cur n then modify (fun s => (s.modCur (fun x => { x with offer := none })).yieldCrew)
    else if s.cur.cutsBound n then wordIllegal .syYield
    else modify (fun s => (s.modCur (fun x => x.regrant n)).yieldCrew)
  pure .adv)

/-! ### Dependences and completion (R259, R262, R264) -/

/-- DEPENDENCE_POLL (R259). -/
def execDependencePoll (h : Word) := event (fun s => s.poll h)

/-- COMPLETION_WORD_WRITE (R259, R262, R264): the word of a launch of which every crew has retired and every dependence is
met is written, the launch ends, and the other launches' dependences are read again. -/
def execCompletionWordWrite (h : Word) := event (fun s =>
  match s.launchOf h with
  | none => s
  | some l =>
    if l.over_ && l.eligible then
      let w := completionWord l.normal l.flags.toNat l.rolled l.ctxlost l.faulted
      let s1 := s.homeWrite l.part l.doneVa (leBytes 8 w.toNat)
      ({ s1 with launches := s1.launches.filter (fun k => k.handle != h) }).pollAll
    else s)

/-! ### Restarts, the fault queue and mirror stores (R299, R399, R402) -/

/-- The first strand of the restart order whose crew is resident (R402). -/
def State.restartable (s : State) (p : Part) : Option Strand :=
  p.restart.findSome? (fun u =>
    match s.strand? u with
    | some x => if x.status = .parked then some x else none
    | none => none)

/-- STRAND_RESTART (R402): an acquire at DIE scope, then the faulting instruction is executed afresh. -/
def execStrandRestart (part : Nat) := event (fun s =>
  match s.part? part with
  | none => s
  | some p =>
    match s.restartable p with
    | none => s
    | some x =>
      let s1 := s.modPart part (fun p => { p with restart := p.restart.filter (fun u => u != x.uid) })
      let stop := p.halted || ((s.crewOf x.ident.crew).elim false (·.stopping))
      (s1.acquireFor x.ident.quad [x.ident.core]).modStrand x.uid (fun y =>
        { y with status := if stop then .halted else .running, parkSlot := none, waiting := false }))

/-- The partition of an effect's strand. -/
def State.partOfUid (s : State) (u : Nat) : Nat := (s.strand? u).elim 0 (·.ident.part)

/-- FAULT_QUEUE_WRITE (R399): an entry that waits is written when the queue has room; else one that is on its way arrives. -/
def execFaultQueueWrite (part : Nat) := event (fun s =>
  match s.part? part with
  | none => s
  | some p =>
    match p.fqwait with
    | b :: r => if p.fqFull then s else (s.modPart part (fun p => { p with fqwait := r })).fqPut p b
    | [] =>
      match s.reqs.findSome? (fun q =>
        match q.eff.kind with
        | .fq b => if s.partOfUid q.eff.uid = part then some (q.eff.id, b) else none
        | _ => none) with
      | some q => ({ s with reqs := s.reqs.filter (fun r => r.eff.id != q.1) }).fqWrite part q.2
      | none => s)

/-- MIRROR_DELIVERY (R299): a mirror store that has left the platform reaches every member. -/
def execMirrorDelivery (eff : Nat) := event (fun s =>
  match s.reqs.find? (fun q => q.eff.id == eff) with
  | none => s
  | some q =>
    match q.eff.kind with
    | .mirror off bs =>
      -- mirror stores of one strand arrive in their order
      if s.reqs.any (fun r => r.eff.uid == q.eff.uid && decide (r.eff.id < eff) && (match r.eff.kind with | .mirror _ _ => true | _ => false)) then s
      else ({ s with reqs := s.reqs.filter (fun r => r.eff.id != eff) }).deliverMirror ((s.strand? q.eff.uid).elim 0 (·.ident.crew)) off bs
    | _ => s)

end Sys2Proof.Machine
end

