-- ==== Sys2Proof/Machine/Strike.lean ====
section
/-! DEFINITION. What leaves a quad, once the platform releases it; checkpoints, strikes and rollbacks (R409 to
R422, R481). -/

namespace Sys2Proof.Machine

/-! ### Effects beyond the quad (R413) -/

/-- Logs the mismatches of a turn whose strand does not wait for it (R309, R310). -/
def State.logTurn (s : State) (uid id : Nat) (ms : List Mismatch) : State :=
  let waits := match s.strand? uid with
    | some x => (match x.handed with | some h => h.id == id | none => false)
    | none => false
  if waits then s else ms.foldl (fun (s : State) m => s.chargeLog uid m) s

/-- The effect of a request at its home slice, with its reply: a turn, an atomic, a lock or an unlock. -/
def State.serveEff (s : State) (e : Eff) : State × List Word :=
  match e.kind with
  | .turn bytes rcds how =>
    let t := s.landTurn e.quad e.uid e.id bytes rcds how
    (t.1.logTurn e.uid e.id t.2, mismatchWords t.2)
  | .atomic rs => s.atomics e.quad e.uid rs
  | .lock line va =>
    let t := (s.heatUp e.uid (512 * line)).lockLine (s.partOfUid e.uid) line va
    (t.1, [w64 t.2])
  | .unlock line => ((s.heatUp e.uid (512 * line)).unlockLine (s.partOfUid e.uid) line, [])
  | _ => (s, [])

/-- Performs an effect that has left its quad, with its reply where it has one. -/
def State.perform (s : State) (e : Eff) : State :=
  let part := s.partOfUid e.uid
  match e.kind with
  | .turn _ _ _ | .atomic _ | .lock _ _ | .unlock _ =>
    let t := s.serveEff e
    t.1.answer e.uid e.id t.2
  | .mirror off bs => s.deliverMirror ((s.strand? e.uid).elim 0 (·.ident.crew)) off bs
  | .arrive bar => s.arriveAt e.uid bar
  | .cpGo ch ident => s.releaseXfer e.uid ch ident
  | .lnGo lpb prv =>
    let t := s.acceptLaunch part lpb prv
    t.1.reply e.uid e.id [t.2]
  | .acq token owner => s.askToken token owner e.uid e.id
  | .rel token next => (s.giveToken token next).reply e.uid e.id []
  | .intr vec => s.interrupt vec
  | .fq bytes => s.fqWrite part bytes
  | .retire normal => s.retireStrand e.uid normal
  | .pub r => s.publish r e.uid e.id
  | .unsub dev pubid vword => s.unsubscribe part dev pubid vword
  | .sub dev r =>
    let t := s.subscribe dev r
    t.1.reply e.uid e.id [t.2]
  | .coll m => (s.heed m).modStrand e.uid (fun x => { x with waiting := false })

/-- The lines that a request goes to, of local memory, of host pages (R432) and of other modules (R430): keys / 512. -/
def Eff.lines (e : Eff) : List Nat :=
  match e.kind with
  | .turn bs _ _ => (bs.map (fun b => b.key / 512)).eraseDups
  | .atomic rs => (rs.map (fun r => r.key / 512)).eraseDups
  | .lock line _ => [line]
  | .unlock line => [line]
  | _ => []

/-- A line has its home on another module. -/
def peerLine (line : Nat) : Bool := line / 2 ^ 43 == 2

/-- The bucket of a line: of its physical address at its home (R325, R430, R432). -/
def lineBucket (line : Nat) : Nat :=
  let pa := 512 * (line % 2 ^ 43)
  bucketOf (if peerLine line then pa % 2 ^ 46 else pa)

/-- The sectors of a line that a request needs valid in a slice of this module (R295, R327): none for an atomic of a host page, whose line
leaves the slice (R433). -/
def Eff.sectors (e : Eff) (line : Nat) : BitVec 16 :=
  if peerLine line then 0
  else match e.kind with
    | .turn bs _ _ => grainMask (bs.filter (fun b => b.key / 512 == line))
    | .atomic rs => (rs.filter (fun r => r.key / 512 == line && keyHome r.key == 0)).foldl (fun (m : BitVec 16) r =>
        m ||| sectorMask (r.gkey % 512) r.gsize) 0
    | .lock _ _ => 0xFFFF
    | _ => 0

/-- Where a sender's copy of the table sends each line (R326): to a slice, or to another module (512 and its number; R430). -/
def State.lineSlices (s : State) (ls : List Nat) : List (Nat × Nat) :=
  ls.map (fun l => (l, if peerLine l then 512 + l / 2 ^ 37 % 64 else s.sliceOf (lineBucket l)))

/-- An effect enters the fabric, where it travels until its own event (log 6). -/
def State.inject (s : State) (e : Eff) : State :=
  { s with reqs := s.reqs ++ [{ eff := e, slices := s.lineSlices e.lines, st := .travel, refusals := 0, combined := [],
                                mayComb := true, entry := false, turnNo := 0 }] }

/-- A kind whose arrival is an event of its own. -/
def EffKind.travels (k : EffKind) : Bool :=
  match k with
  | .turn _ _ _ | .atomic _ | .lock _ _ | .unlock _ | .mirror _ _ | .fq _ | .sub _ _ => true
  | _ => false

/-- The effects of a quad whose release tick has come leave in issue order (R413). -/
def State.releaseDue (s : State) (quad : Nat) : State :=
  let q := s.getQuad quad
  let go := q.plat.filter (fun e => decide (e.tick ≤ s.timer))
  let s1 := s.modQuad quad (fun q => { q with
    plat := q.plat.filter (fun e => !decide (e.tick ≤ s.timer)), lastRel := go.foldl (fun (m : Nat) e => max m e.tick) q.lastRel })
  go.foldl (fun (s : State) e => if s.split && e.kind.travels then s.inject e else s.perform e) s1

/-- PLATFORM_RELEASE (R413). -/
def execPlatformRelease (quad : Nat) := event (fun s => s.releaseDue quad)

/-! ### Checkpoints (R410) -/

/-- A strand as a checkpoint keeps it (R410, R414): at the oldest instruction that has not completed, which for one that has passed an
`at` is that `at`, its request handed once the platform has it (R333). -/
def State.keptStrand (s : State) (x : Strand) : Strand :=
  match s.ahead.find? (fun a => a.strand.uid == x.uid) with
  | none => x
  | some a => { a.strand with
      status := x.status, ident := x.ident, offer := x.offer, parkSlot := x.parkSlot, parkSeq := x.parkSeq,
      handed := a.eff.map (fun id => ⟨id, none⟩) }

/-- A 32-bit word of memory lies in quad q's scratchpad. -/
def inScratch (q w : Nat) : Bool := decide (scratchKey q 0 ≤ 4 * w) && decide (4 * w < scratchKey q 0 + 2 ^ 21)

/-- What a checkpoint of a quad at the present tick keeps (R410, R412, R416). -/
def State.checkpoint (s : State) (q : Quad) : Ckpt :=
  let crews := s.crews.filter (fun c => c.quad == q.id && !c.depot)
  { tick := s.timer, data := q.d, strands := (s.residents q.id).map s.keptStrand, scratch := scratchCells s.mem q.id,
    touched := [], cleared := [], poison := s.memPoison.filter (inScratch q.id), windows := crews.map (fun c => (c.id, c.windows)),
    launches := (crews.map (·.launch)).eraseDups }

/-- SPAN_BOUNDARY (R410): at a multiple of 128 ns the quad takes a checkpoint and keeps the three newest. -/
def execSpanBoundary (quad : Nat) := event (fun s =>
  let q := s.getQuad quad
  if s.timer % 128 ≠ 0 || q.rolling then s
  else
    s.setQuad { q with ckpts := (s.checkpoint q :: q.ckpts.filter (fun k => k.tick != s.timer)).take 3 })

/-! ### Rollback (R416 to R419, R481) -/

/-- The checkpoint a report at the present tick goes back to: the newest at or before r − 96 of which no later effect has
been released (R416, R419). -/
def State.usable (s : State) (q : Quad) : Option Ckpt :=
  q.ckpts.find? (fun c => decide (c.tick + 96 ≤ s.timer) && decide (q.lastRel < c.tick + 224))

/-- The journal of the span that begins at a checkpoint is undone: in each sector that has an entry, the bytes whose mask bit is set
get their old values, and the words their poison (R412). -/
def Ckpt.undo (c : Ckpt) (s : State) : State :=
  c.touched.foldl (fun (s : State) i =>
    let ks := ((List.range 32).map (fun j => 32 * i + j)).filter (fun k => !c.cleared.contains k)
    let ws := ((List.range 8).map (fun j => 8 * i + j)).filter (fun w => ks.any (fun k => k / 4 == w))
    { s with mem := ks.foldl (fun m k => memSet m k (memGet c.scratch k)) s.mem,
             memPoison := ws.filter c.poison.contains ++ s.memPoison.filter (fun w => !ws.contains w) }) s

/-- A strand as a rollback leaves it: its copy of the checkpoint with ROLLED, stopped when its crew or partition stops. A request for a
token that has not been granted is withdrawn, and made again (R313). -/
def State.rolledStrand (s : State) (now kept : Strand) : Strand :=
  let asks := match kept.handed with
    | some h => s.tokReqs.any (fun r => r.uid == now.uid && r.eff == h.id)
    | none => false
  let y := { kept with
    handed := if asks then none else kept.handed
    sc := { kept.sc with rolled := true }
    ident := now.ident, waiting := false, tried := false }
  let stop := (match s.part? y.ident.part with | some p => p.halted | none => false) ||
    ((s.crewOf y.ident.crew).elim false (·.stopping))
  if stop ∧ y.status = .running then { y.atStop with status := .halted }
  else if !stop ∧ y.status = .halted then { y with status := .running }
  else y

/-- Park slots after a rollback: a strand that is no longer parked gives its slot back, one that is parked again with no slot
joins the restart order. -/
def State.reparkStrand (s : State) (x : Strand) : State :=
  if x.status = .parked then
    s.modPart x.ident.part (fun p =>
      if p.parked.any (fun k => k.uid == x.uid) || p.restart.contains x.uid then p else { p with restart := p.restart ++ [x.uid] })
  else s.modPart x.ident.part (fun p => { p with
    parked := p.parked.filter (fun k => k.uid != x.uid), restart := p.restart.filter (fun u => u != x.uid) })

/-- A dynamic instance of a strand has not completed: it is queued, or the front end has not passed it (R422). -/
def Strand.notDone (x : Strand) (inst : Nat) : Bool :=
  decide (x.sc.icount ≤ inst) || x.vq.any (fun e => e.snap.icount == inst) || x.mq.any (fun e => e.snap.icount == inst)

/-- Records of mismatches whose instance has completed are gone (R422). -/
def State.ageMirRecs (s : State) : State :=
  { s with mirRecs := s.mirRecs.filter (fun r => (s.strand? r.uid).elim false (fun x => x.notDone r.inst)) }

/-- Rolls a quad back to a checkpoint (R416): its platform is discarded, its strands, data, scratchpad and windows return, its clean
copies go; it issues nothing until ROLLBACK_COMPLETE. -/
def State.rollTo (s : State) (quad : Nat) (c : Ckpt) : State :=
  let now := s.residents quad
  let back := now.filterMap (fun x => (c.strands.find? (fun y => y.uid == x.uid)).map (fun y => s.rolledStrand x y))
  let gone (u : Nat) := s.all.all (fun x => x.uid != u || !((s.crewOf x.ident.crew).elim false (fun c => !c.depot && c.quad == quad)))
  let mine (u : Nat) := now.any (fun x => x.uid == u)
  let since := (s.getQuad quad).ckpts.filter (fun k => decide (c.tick ≤ k.tick))
  let heldBy := since.flatMap (·.launches)
  let data := { c.data with
    copies := [], tlb := (s.getQuad quad).d.tlb,
    bars := c.data.bars.map (fun b => { b with who := b.who.filter (fun u => !gone u) }) }
  let s1 := s.ageMirRecs.modQuad quad (fun q => { q with
    d := data, plat := [], ckpts := q.ckpts.filter (fun k => decide (k.tick ≤ c.tick)), rolling := true })
  -- the newest span's journal first
  let s1 := since.foldl (fun (s : State) k => k.undo s) s1
  let s1 := c.windows.foldl (fun (s : State) w => s.modCrew w.1 (fun k => { k with windows := w.2 })) s1
  let s1 := (s1.crews.filter (fun k => k.quad == quad && !k.depot)).foldl (fun (s : State) k => s.relaxLines k.part) s1
  let s2 := { s1 with ahead := s1.ahead.filter (fun a => !mine a.strand.uid),
                      tokReqs := s1.tokReqs.filter (fun r => !mine r.uid),
                      launches := s1.launches.map (fun (l : Launch) => if heldBy.contains l.handle then { l with rolled := true } else l) }
  let s3 := back.foldl (fun (s : State) y => ((s.modStrand y.uid (fun _ => y)).reparkStrand y).reviveJoins c.tick y.uid) s2
  let ended := c.strands.filter (fun y => y.status == .retired && !gone y.uid)
  let s4 := ended.foldl (fun (s : State) y => s.modStrand y.uid (fun x => { x with arrs := y.arrs })) s3
  (back ++ ended).foldl (fun (s : State) y => s.rejoin y.uid (fun b => !wideBar b)) s4

/-- A report reaches a quad (R416, R419): what is due at its tick has left; it rolls back, or loses its crews when no checkpoint can be
used. -/
def State.strike (s0 : State) (quad : Nat) : State :=
  let s := s0.releaseDue quad
  let q := s.getQuad quad
  match s.usable q with
  | some c => s.rollTo quad c
  | none =>
    let cs := (s.crews.filter (fun c => c.quad == quad && !c.depot)).map (·.id)
    let mine (u : Nat) := (s.residents quad).any (fun x => x.uid == u)
    let s1 := ({ s with ahead := s.ahead.filter (fun a => !mine a.strand.uid) }).modQuad quad (fun q =>
      { q with plat := [], ckpts := [], d := { q.d with copies := [] } })
    cs.foldl (fun (s : State) c => s.loseCrew c) s1

/-- STRIKE_REPORT (R409, R416). -/
def execStrikeReport (quad : Nat) := event (fun s => s.strike quad)

/-- ROLLBACK_COMPLETE (R416, R418, R481): what the engines and the outside have brought since the checkpoint stands in the
restored state already, and the quad issues again. -/
def execRollbackComplete (quad : Nat) := event (fun s => s.modQuad quad (fun q => { q with rolling := false }))

end Sys2Proof.Machine
end

