-- ==== Sys2Proof/Machine/Fabric.lean ====
section
/-! DEFINITION. The fabric: slices, refusals and retries, combining stations, the shunter's moves, and repairs (R321 to R331,
R339 to R342, R478 to R480). -/

namespace Sys2Proof.Machine

/-! ### Requests at their slices (R327 to R329) -/

/-- The request of an effect. -/
def State.req? (s : State) (id : Nat) : Option Req := s.reqs.find? (fun r => r.eff.id == id)

/-- Changes a request. -/
def State.modReq (s : State) (id : Nat) (f : Req → Req) : State :=
  { s with reqs := s.reqs.map (fun r => if r.eff.id = id then f r else r) }

/-- The requests before one on the fabric. -/
def State.before (s : State) (id : Nat) : List Req := s.reqs.takeWhile (fun r => r.eff.id != id)

/-- A request is resent with its SENIOR bit (R329). -/
def Req.senior (r : Req) : Bool := decide (4 ≤ r.refusals)

/-- The lines of a request. -/
def Req.lines (r : Req) : List Nat := r.slices.map (·.1)

/-- Two requests share a line. -/
def Req.meets (r k : Req) : Bool := r.lines.any (fun l => k.lines.contains l)

/-- The request is refused and not yet resent (R328). -/
def Req.isRefused (r : Req) : Bool := match r.st with | .refused _ => true | _ => false

/-- The request has been answered. -/
def Req.isReplied (r : Req) : Bool := match r.st with | .replied _ => true | _ => false

/-- The request touches a bucket. -/
def Req.inBucket (r : Req) (b : Nat) : Bool := r.lines.any (fun l => !peerLine l && lineBucket l == b)

/-- The lanes of a request, each with its slice (R322), or with the module it goes to (R430). -/
def Req.lanes (r : Req) : List (Nat × Nat) := r.slices.map (fun p => (p.2, lineBucket p.1 % 16))

/-- Two requests share a lane, on which they stay in order: of one quad to a slice (R322), of this module to another one (R430). -/
def Req.inLane (r k : Req) : Bool :=
  r.lanes.any (fun l => k.lanes.contains l && (k.eff.quad == r.eff.quad || decide (512 ≤ l.1)))

/-- A reply waits behind an earlier one of its slice and lane (R322). -/
def State.replyBehind (s : State) (r : Req) : Bool :=
  s.reqs.any (fun k => k.isReplied && decide (k.turnNo < r.turnNo) && k.inLane r)

/-- The request holds its entry of a waiting room or senior queue: while it waits, and while its reply waits for room on its line
(R327, R329). -/
def State.holdsEntry (s : State) (k : Req) : Bool := k.entry && (decide (k.st = .waiting) || (k.isReplied && s.replyBehind k))

/-- The entries of a slice that are held, those of the senior queue or those of the waiting room. -/
def State.entries (s : State) (slice : Nat) (senior : Bool) : Nat :=
  s.reqs.countP (fun k => k.senior == senior && k.slices.any (fun p => p.2 == slice) && s.holdsEntry k)

/-- Why the home slice of one of its lines refuses a request, with its retry hint (R328, R329): an estimated hint is free (log 21). What
a slice of another module refuses is not this module's to see. -/
def State.refusalAt (s : State) (r : Req) (line slice : Nat) : Option Nat :=
  let b := lineBucket line
  let est := (Config.freeWord s.freeCtr).toNat % 1024
  let earlier := (s.before r.eff.id).find? (fun k => k.eff.quad == r.eff.quad && k.lines.contains line && k.isRefused)
  if peerLine line then none
  else if s.sliceOf b ≠ slice then some 0
  else if (s.buckets.find? (fun k => k.idx == b)).elim false (fun k => k.moving.isSome) then some est
  else if r.senior then (if 64 ≤ s.entries slice true then some 256 else none)
  else if s.flushes.contains line then some est
  else if s.fills.contains line then some est
  else if 48 ≤ s.entries slice false then some 64
  else
    match earlier with
    | some k => (match k.st with | .refused h => some h | _ => some 0)
    | none => none

/-- The first refusal among the lines of a request; the requests of one effect are accepted together (R337; log 28). -/
def State.refusalOf (s : State) (r : Req) : Option Nat := r.slices.findSome? (fun p => s.refusalAt r p.1 p.2)

/-- A slice performs a request and its reply sets out (R327). -/
def State.serveReq (s : State) (r : Req) : State :=
  let t := s.serveEff r.eff
  ({ t.1 with effSeq := t.1.effSeq + 1 }).modReq r.eff.id (fun k => { k with st := .replied t.2, turnNo := t.1.effSeq })

/-- The grain's sectors that a request needs are valid in the slice, and the line is not under way (R295, R327). -/
def State.lineReady (s : State) (e : Eff) (line : Nat) : Bool :=
  !s.fills.contains line && !s.flushes.contains line &&
  (e.sectors line == 0 || s.lines.any (fun l => l.line == line && l.sectors &&& e.sectors line == e.sectors line))

/-- A kind that a home slice executes. -/
def EffKind.toSlice (k : EffKind) : Bool :=
  match k with
  | .turn _ _ _ | .atomic _ | .lock _ _ | .unlock _ => true
  | _ => false

/-- SLICE_REQUEST (R322, R326 to R328): a request arrives, unless an earlier one of its source is still under way on its lane. It
is refused, waits for the fill of a line or behind an accepted request of the line, or is performed. A combined request that is refused
may not combine again (R340). -/
def execSliceRequest (req : Nat) := event (fun s =>
  match s.req? req with
  | none => s
  | some r =>
    let behind := (s.before req).any (fun k => decide (k.st = .travel) && r.inLane k)
    if r.st ≠ .travel ∨ behind ∨ !r.eff.kind.toSlice then s
    else
      match s.refusalOf r with
      | some h =>
        ({ s with freeCtr := s.freeCtr + 1 }).modReq req (fun k => { k with
          st := .refused h, refusals := k.refusals + 1, mayComb := k.mayComb && k.combined.isEmpty })
      | none =>
        let miss := r.lines.filter (fun l => !s.lineReady r.eff l)
        let queued := s.reqs.any (fun k => decide (k.st = .waiting) && k.meets r)
        if miss.isEmpty && !queued then s.serveReq r
        else
          ({ s with effSeq := s.effSeq + 1
                    fills := miss.filter (fun l => !s.fills.contains l && !s.flushes.contains l) ++ s.fills }).modReq req (fun k =>
            { k with st := .waiting, entry := true, turnNo := s.effSeq }))

/-- Puts a request into a list ordered by acceptance. -/
def insertReq (r : Req) : List Req → List Req
  | [] => [r]
  | k :: ks => if r.turnNo < k.turnNo then r :: k :: ks else k :: insertReq r ks

/-- The requests that wait, senior ones first, each kind in the order in which the slices accepted it (R327, R329). -/
def State.waitOrder (s : State) : List Req :=
  let ws := (s.reqs.filter (fun r => decide (r.st = .waiting))).foldl (fun l r => insertReq r l) []
  ws.filter Req.senior ++ ws.filter (fun r => !r.senior)

/-- Serves the waiting requests in their order, but none whose line is under way or waited for by one before it. -/
def State.serveWaiting : List Req → List Nat → State → State
  | [], _, s => s
  | r :: rs, held, s =>
    if r.lines.any (fun l => held.contains l || s.fills.contains l || s.flushes.contains l) then
      State.serveWaiting rs (r.lines ++ held) s
    else State.serveWaiting rs held (s.serveReq r)

/-- SLICE_FILL_ARRIVAL (R327, R329): the fill of a line arrives, and the requests that waited for it are served. -/
def execSliceFillArrival (line : Nat) := event (fun s =>
  if s.fills.contains line then
    State.serveWaiting s.waitOrder [] { s with fills := s.fills.filter (fun l => l != line) }
  else s)

/-- A slice begins to write a line back (R328). A locked line is never evicted (R319). -/
def State.flush (s : State) (line : Nat) : State :=
  if s.lines.any (fun l => l.line == line && !l.locked) && !s.fills.contains line && !s.flushes.contains line then
    { s with flushes := line :: s.flushes }
  else s

/-- The line has been written back and leaves its slice (R307); it is fetched again for the senior requests that wait for it (R329). -/
def State.endFlush (s : State) (line : Nat) : State :=
  if s.flushes.contains line then
    let t := { s with flushes := s.flushes.filter (fun l => l != line) }.dropLine line
    if s.reqs.any (fun r => decide (r.st = .waiting) && r.lines.contains line) then { t with fills := line :: t.fills } else t
  else s

/-- REQUEST_RETRY (R329): after a refusal the sender looks the table up again and resends, its requests to one line in their
order. -/
def execRequestRetry (req : Nat) := event (fun s =>
  match s.req? req with
  | none => s
  | some r =>
    let earlier := (s.before req).any (fun k => k.eff.quad == r.eff.quad && k.meets r && k.isRefused)
    if !r.isRefused || earlier then s else s.modReq req (fun k => { k with st := .travel, slices := s.lineSlices k.eff.lines }))

/-- REPLY_ARRIVAL (R322, R327, R418): the reply of a request reaches its strand, those of one slice and lane in their order. A combined
one is split first. -/
def execReplyArrival (req : Nat) := event (fun s =>
  match s.req? req with
  | none => s
  | some r =>
    match r.st with
    | .replied ws =>
      if r.combined.isEmpty && !s.replyBehind r then
        ({ s with reqs := s.reqs.filter (fun k => k.eff.id != req) }).answer r.eff.uid req ws
      else s
    | _ => s)

/-! ### Combining (R339 to R342) -/

/-- The single request of an atomic effect. -/
def Eff.single (e : Eff) : Option AtReq :=
  match e.kind with
  | .atomic [r] => some r
  | _ => none

/-- Two requests may combine (R339). -/
def mayCombine (a b : AtReq) : Bool :=
  a.key == b.key && a.width == b.width && a.op == b.op && a.scope == b.scope && a.dom == b.dom && a.trap == b.trap &&
    combinable a.op a.ac && combinable b.op b.ac && keyHome a.key != 1

/-- A request waits at its station behind an earlier one of its quad for the same line, other than the passing one (R322). -/
def State.lineBehind (s : State) (p w : Req) : Bool :=
  (s.before w.eff.id).any (fun k => k.eff.id != p.eff.id && k.eff.quad == w.eff.quad && k.meets w && !k.isReplied)

/-- The link port that a request to another module leaves by, as the routing table gives its lane (R430); of a lane without an entry,
a port of its own. -/
def State.outPort (s : State) (r : AtReq) : Nat :=
  let dev := keyPa r.key / 2 ^ 46 % 64
  let lane := lineBucket (r.key / 512) % 16
  match s.routes.find? (fun p => p.1 == dev && p.2.1 == lane) with
  | some p => p.2.2
  | none => 18 + 16 * dev + lane

/-- The entries that are taken in the waiting room of a link port (R436). -/
def State.portEntries (s : State) (port : Nat) : Nat :=
  (s.reqs.flatMap (·.combined)).countP (fun k => k.port && (k.eff.single.elim false (fun r => s.outPort r == port)))

/-- Where a waiting request combines with a passing one, if it does (R339, R436): at its quad's station, which another quad's request
passes; or, at POD scope, at the link port to the other module, which every request of this module passes. True tells of a port. -/
def State.station (s : State) (p w : Req) (a : AtReq) : Option Bool :=
  let here := (s.reqs.flatMap (·.combined)).countP (fun k => !k.port && k.eff.quad == w.eff.quad)
  let first := p.eff.quad != w.eff.quad || (s.before w.eff.id).any (fun k => k.eff.id == p.eff.id)
  if p.eff.quad ≠ w.eff.quad ∧ here < 64 then some false
  else if keyHome a.key = 2 ∧ a.scope = 5 ∧ first ∧ s.portEntries (s.outPort a) < 128 then some true
  else none

/-- STATION_COMBINE (R339, R436): a passing request absorbs one that waits for injection at another quad's station, or at a link port,
first of its line there. -/
def execStationCombine (passing waiting : Nat) := event (fun s =>
  match s.req? passing, s.req? waiting with
  | some p, some w =>
    match p.eff.single, w.eff.single with
    | some a, some b =>
      match s.station p w a with
      | none => s
      | some port =>
        if p.st = .travel ∧ w.st = .travel ∧ p.mayComb ∧ w.mayComb ∧ w.combined.isEmpty ∧
            p.combined.length < 4 ∧ !s.lineBehind p w ∧ mayCombine a b then
          let v := comb a.op a.width (a.v.toNat % 2 ^ a.width) (b.v.toNat % 2 ^ a.width)
          ({ s with reqs := s.reqs.filter (fun k => k.eff.id != waiting) }).modReq passing (fun k =>
            { k with eff := { k.eff with kind := .atomic [{ a with v := w64 v }] },
                     combined := k.combined ++ [Station.mk w.eff a.v port] })
        else s
    | _, _ => s
  | _, _ => s)

/-- REPLY_SPLIT (R340): the last station that a combined request passed splits its reply; a cause goes to both sides. -/
def execReplySplit (req : Nat) := event (fun s =>
  match s.req? req with
  | none => s
  | some r =>
    match r.st, r.combined.getLast?, r.eff.single with
    | .replied ws, some k, some q =>
      let mine := match ws with
        | [c, old, m, n] =>
          if c = 0 then [0, w64 (comb q.op q.width (old.toNat % 2 ^ q.width) (k.a.toNat % 2 ^ q.width)), m, n] else ws
        | _ => ws
      let t := s.modReq req (fun x => { x with combined := x.combined.dropLast })
      { t with reqs := t.reqs ++ [{ eff := k.eff, slices := r.slices, st := .replied mine, refusals := 0, combined := [],
                                    mayComb := false, entry := false, turnNo := r.turnNo }] }
    | _, _, _ => s)

/-! ### Lines of the fabric (R323, R428) -/

/-- FLIT_CRC_FAIL (R323): the segment resends; nothing is lost or reordered. -/
def execFlitCrcFail (segment : Nat) := event (fun s =>
  if s.resends.any (fun r => r.1 == segment) then
    { s with resends := s.resends.map (fun r => if r.1 = segment then (r.1, r.2 + 1) else r) }
  else { s with resends := (segment, 1) :: s.resends })

/-- Something is still under way on the lines (R323). -/
def State.onLines (s : State) : Bool := s.reqs.any (fun r => decide (r.st = .travel))

/-- SEGMENT_RETIRE (R323): once the segment is drained, its traffic goes over a spare lane. -/
def execSegmentRetire (segment : Nat) := event (fun s =>
  if s.onLines || s.segments.contains segment then s
  else
    { s with segments := segment :: s.segments, resends := s.resends.filter (fun r => r.1 != segment)
             lodge := { s.lodge with lrepl := s.lodge.lrepl + 1 } })

/-! ### The shunter (R325, R330, R331) -/

/-- The entry of a bucket. -/
def State.bucket (s : State) (b : Nat) : Bucket :=
  (s.buckets.find? (fun x => x.idx == b)).getD ⟨b, b % 512, none, 0, none⟩

/-- Writes the entry of a bucket. -/
def State.setBucket (s : State) (x : Bucket) : State :=
  { s with buckets := x :: s.buckets.filter (fun y => y.idx != x.idx) }

/-- The heat of a bucket from a die. -/
def State.heatOf (s : State) (b d : Nat) : Nat := (s.heat.find? (fun h => h.bucket == b && h.die == d)).elim 0 (·.count)

/-- BUCKET_MOVE_START (R330): only toward a die hotter than four times the home's, not within 1 ms of the bucket's last move
nor within 2 µs of another start, and never onto a retired slice. -/
def execBucketMoveStart (bucket slice : Nat) := event (fun s =>
  let x := s.bucket bucket
  let late (t : Option Nat) (n : Nat) : Bool := match t with | some k => decide (k + n ≤ s.timer) | none => true
  if bucket < 4096 ∧ slice < 512 ∧ x.moving.isNone ∧ slice ≠ x.slice ∧ !s.badSlices.contains slice ∧
      4 * s.heatOf bucket (x.slice / 128) < s.heatOf bucket (slice / 128) ∧ late x.last 1000000 ∧ late s.moveTick 2000 then
    ({ s with moveTick := some s.timer }).setBucket { x with moving := some slice }
  else s)

/-- A locked line is fetched again at its bucket's new home, into a reserved way; its first access there counts as a miss (R330,
R331). A set that has no such way gives up that of an unlocked line (log 22). -/
def State.refetch (s : State) (x : HLine) : State :=
  let ls := s.setLines x.line
  let s1 :=
    if (ls.filter (fun l => l.resv.isSome)).length < 4 then s
    else match ls.find? (fun l => l.resv.isSome && !l.locked) with
      | some v => { s with lines := s.lines.map (fun (l : HLine) => if l.line = v.line then { l with resv := none, used := 0 } else l) }
      | none => s
  let s2 :=
    if ls.length < 16 then s1
    else match victim (s1.setLines x.line) with | some v => s1.dropLine v.line | none => s1
  { s2 with lines := { x with sectors := 0 } :: s2.lines }

/-- A bucket's home becomes another slice: its lines are written back, and the locked ones are fetched again; records and their EPOCH
move (R330). -/
def State.rehome (s : State) (x : Bucket) (slice : Nat) : State :=
  let mine (l : HLine) := lineBucket l.line == x.idx
  -- lines of host pages are written out to the host
  let s := (s.lines.filter (fun l => mine l && l.line / 2 ^ 43 == 1)).foldl (fun (s : State) l => s.dropLine l.line) s
  let s1 := ({ s with lines := s.lines.filter (fun l => !mine l), flushes := s.flushes.filter (fun l => lineBucket l != x.idx) }).setBucket
    { x with slice := slice, moving := none, moves := (x.moves + 1) % 256, last := some s.timer }
  (s.lines.filter (fun l => mine l && l.locked)).foldl State.refetch s1

/-- Requests of a bucket that its slice accepted have still to be served, or their replies hold entries (R330). -/
def State.bucketBusy (s : State) (b : Nat) : Bool := s.reqs.any (fun r => r.inBucket b && (decide (r.st = .waiting) || s.holdsEntry r))

/-- BUCKET_MOVE_FINISH (R330, R331): once the requests accepted before the move have been served. A move never ends on a slice that
has been retired meanwhile. -/
def execBucketMoveFinish (bucket : Nat) := event (fun s =>
  let x := s.bucket bucket
  match x.moving with
  | none => s
  | some slice =>
    if s.bucketBusy bucket then s
    else if s.badSlices.contains slice then s.setBucket { x with moving := none }
    else s.rehome x slice)

/-- HEAT_HALVING (R330): every 64 µs. -/
def execHeatHalving := event (fun s =>
  if s.timer < s.heatTick + 64000 then s
  else if s.heat.isEmpty then { s with heatTick := s.timer / 64000 * 64000 }
  else
    { s with
      heatTick := s.heatTick + 64000
      heat := (s.heat.map (fun (h : Heat) => { h with count := h.count / 2 })).filter (fun h => h.count != 0) })

end Sys2Proof.Machine
end

