-- ==== Sys2Proof/Machine/Lodge.lean ====
section
/-! DEFINITION. The lodge: bring-up, measurements, requests and their responses, partitions, keys, images, islands and spares
(R457 to R480). A request's event is its arrival; the lodge serves requests one at a time, in their order. -/

namespace Sys2Proof.Machine

/-! ### Measurements and bring-up (R466 to R468) -/

/-- The bytes of a number's bit vector. -/
def bytesOf {w : Nat} (n : Nat) (b : BitVec w) : List Byte := leBytes n b.toNat

/-- A measurement slot after a stage of digest d (R467). -/
def measure (slot : BitVec 256) (d : List Byte) : BitVec 256 := BitVec.ofNat 256 (leNat (sha3 (bytesOf 32 slot ++ d)))

/-- Measures a digest into slot k. -/
def Lodge.extend (l : Lodge) (k : Nat) (d : List Byte) : Lodge :=
  { l with slots := l.slots.zipIdx.map (fun p => if p.2 = k then measure p.1 d else p.1) }

/-- Measures a stage whose bytes the spec does not give: a free digest (log 20). -/
def State.measureFree (s : State) (k : Nat) : State :=
  let f := s.freeBytes 32
  { f.2 with lodge := f.2.lodge.extend k f.1 }

/-- An entry of the bucket table as a word (R325). -/
def Bucket.word (x : Bucket) : Nat := x.moves * 2 ^ 24 + (if x.moving.isSome then 2 ^ 16 else 0) + x.slice

/-- The device description (R468); the identity key is free (log 20). -/
def State.description (s : State) : List Byte :=
  [0x54, 0x4B, 0x44, 0x44] ++ leBytes 2 1 ++ leBytes 1 s.devid ++ leBytes 1 s.lodge.ssds ++ leBytes 8 s.lodge.serial.toNat ++
  leBytes 8 s.lodge.hbm.toNat ++ List.replicate 18 255 ++ List.replicate 6 0 ++ (List.range 1312).map Config.identityKey ++ List.replicate 10928 0 ++
  (List.range 4096).flatMap (fun b => leBytes 4 (s.bucket b).word) ++ List.replicate 4064 0

/-- Step k of the bring-up (R466). -/
def State.bootStep (s : State) (k : Nat) : State :=
  let done (s : State) : State := { s with lodge := { s.lodge with step := k } }
  match k with
  | 1 => done (s.measureFree 0)
  | 2 => done (s.measureFree 1)
  | 3 => done ([2, 3, 4, 5, 6].foldl (fun (s : State) j => s.measureFree j) s)
  | 4 => done (s.measureFree 7)
  | 5 => done (s.measureFree 8)
  | 6 => done s
  | 7 => done ({ s with lodge := { s.lodge with ssds := s.lodge.nssd } }.measureFree 9)
  | _ =>
    let d := s.description
    let t : State := { s with lodge := { s.lodge with desc := d } }
    done { t with lodge := t.lodge.extend 10 (sha3 d) }

/-- Runs the bring-up's steps in order until one fails (R466, R468): at step 7 the straps are read first, and the status that it fails
with because another module has the same DEVID is free. -/
def State.boot : List Nat → State → State
  | [], s => s
  | k :: r, s0 =>
    let s : State := if k = 7 then { s0 with devid := s0.lodge.straps % 64 } else s0
    match s.lodge.faulty.filter (fun f => f.1 == k) with
    | some f => { s with lodge := { s.lodge with stat := f.2 } }
    | none =>
      if k = 7 ∧ s.links.contains s.devid then
        { s with lodge := { s.lodge with stat := (Config.freeWord s.freeCtr).toNat % 255 + 1 }, freeCtr := s.freeCtr + 1 }
      else State.boot r (s.bootStep k)

/-! ### Requests and responses (R469, R471) -/

/-- The response to a request: header, status word, result; then RSPSEQ and the interrupt (R471, R435). -/
def State.respond (s : State) (kind : Nat) (tag : Word) (status detail : Nat) (result : List Byte) : State :=
  let body := leBytes 4 status ++ leBytes 4 detail ++ result
  let l := { s.lodge with
    resp := leBytes 4 kind ++ leBytes 4 body.length ++ leBytes 8 tag.toNat ++ body, reqSeq := s.lodge.rspSeq + 1,
    rspSeq := s.lodge.rspSeq + 1 }
  ({ s with lodge := l }).interrupt 0

/-- A request reaches the lodge (R469): it is served at once, or waits: behind the earlier ones, or until it can be completed, which
`f` tells. -/
def asked (i : Request) (f : State → State × Bool) (s : State) : State :=
  if s.lodge.waiting.isEmpty then
    let t := f s
    if t.2 then t.1
    else { t.1 with lodge := { t.1.lodge with waiting := [i], reqSeq := t.1.lodge.rspSeq + 1 } }
  else { s with lodge := { s.lodge with waiting := s.lodge.waiting ++ [i] } }

/-- A request that never waits for anything but earlier ones. -/
def served (i : Request) (f : State → State) : State → State := asked i (fun s => (f s, true))

/-- A request that needs the module brought up (R466, R471). -/
def whenReady (kind : Nat) (tag : Word) (f : State → State) (s : State) : State :=
  if s.lodge.step < 8 then s.respond kind tag 4 s.lodge.step [] else f s

/-- The same of one that may have to wait. -/
def whenReadyOr (kind : Nat) (tag : Word) (f : State → State × Bool) (s : State) : State × Bool :=
  if s.lodge.step < 8 then (s.respond kind tag 4 s.lodge.step [], true) else f s

/-- ATTEST (R470): the signature is free. -/
def execAttest (tag : Word) (nonce : BitVec 256) := event (served (.attest tag nonce) (fun s =>
  let f := s.freeBytes 2420
  let report := [0x4C, 0x44, 0x47, 0x31] ++ leBytes 2 1 ++ leBytes 2 0 ++ bytesOf 32 nonce ++
    s.lodge.slots.flatMap (bytesOf 32) ++ leBytes 8 s.timer ++ leBytes 8 s.lodge.serial.toNat ++ leBytes 8 0 ++ f.1
  f.2.respond 1 tag 0 0 report))

/-- STATUS (R473). -/
def execStatus (tag : Word) := event (served (.status tag) (fun s =>
  let l := s.lodge
  s.respond 5 tag 0 0 (leBytes 1 l.step ++ leBytes 1 l.stat ++ leBytes 1 s.devid ++ [0] ++
    (List.range 4).flatMap (fun d => leBytes 1 (l.spares.getD d 0)) ++ leBytes 2 l.qrepl ++ leBytes 2 l.sret ++ leBytes 2 l.lrepl ++
    leBytes 2 0 ++ (List.range 8).flatMap (fun i => leBytes 8 ((s.ports[i]?).elim 0 (·.drops))))))

/-- EXTEND (R467, R469): slots 11 to 15. -/
def execExtend (tag : Word) (slot : Nat) (digest : BitVec 256) := event (served (.extend tag slot digest) (whenReady 6 tag (fun s =>
  if slot < 11 ∨ 15 < slot then s.respond 6 tag 1 0 []
  else ({ s with lodge := s.lodge.extend slot (bytesOf 32 digest) }).respond 6 tag 0 0 [])))

/-- MALFORMED_REQUEST (R469, R471): status 1 with the offset of the offending field, no effect. -/
def execMalformedRequest (tag : Word) (kind detail : Nat) := event (served (.malformed tag kind detail) (fun s =>
  if s.lodge.step < 8 ∧ kind ≠ 1 ∧ kind ≠ 5 then s.respond kind tag 4 s.lodge.step []
  else s.respond kind tag 1 (if 1 ≤ kind ∧ kind ≤ 9 then detail % 2 ^ 32 else 0) []))

/-! ### Partitions (R472, R475, R476) -/

/-- A partition that nothing has set up. -/
def Part.blank (id : Nat) : Part :=
  { id := id, setUp := false, quads := [], plo := 0, phi := 0, pthresh := 8, qways := 0, tcount := 0, tbase := 4096 * id,
    ptroot := 0, asid := 0, vecbase := 0, veccnt := 0, fqint := false, fqbase := 0, fqsize := 0, fqhead := 0, fqtail := 0,
    fqwait := [], spillBase := 0, spillLen := 0, keymask := 1, dieBase := 0, dieCnt := 0, pkgBase := 0, pkgCnt := 0, podBase := 0,
    podCnt := 0, peers := [], eps := [], grants := [], parkSeq := 1, parked := [], restart := [], halted := false, saved := false,
    launchSeq := 0, rot := [] }

/-- Two ranges share a number. -/
def meets (a n b m : Nat) : Bool := decide (0 < n) && decide (0 < m) && decide (a < b + m) && decide (b < a + n)

/-- The fields of a PARTITION body in offset order (R472, R475), against the other partitions. -/
def partRules (b : PartBody) (os : List Part) : List (Nat × Bool) :=
  let free (f : Part → Bool) := os.all (fun o => !f o)
  [(0x00, decide (b.part ≤ 15)), (0x02, b.borrower == 0), (0x03, decide (b.plo ≤ 63)), (0x04, decide (b.plo ≤ b.phi) && decide (b.phi ≤ 63)),
   (0x05, decide (b.qways + (os.map (·.qways)).sum ≤ 4)), (0x06, decide (b.tcount + (os.map (·.tcount)).sum ≤ 4096)),
   (0x12, decide (1 ≤ b.vecbase) && decide (b.vecbase ≤ 2047)),
   (0x14, decide (b.vecbase + b.veccnt ≤ 2048) && free (fun o => meets b.vecbase b.veccnt o.vecbase o.veccnt)),
   (0x16, decide (b.iflags ≤ 1)), (0x20, b.spillBase % 2 ^ 21 == 0), (0x28, b.spillLen % 2 ^ 21 == 0),
   (0x30, b.quads.all (fun q => decide (q < 144)) && decide b.quads.Nodup && free (fun o => o.quads.any (fun q => b.quads.contains q))),
   (0x50, decide (b.dieBase ≤ 31)),
   (0x51, decide (b.dieBase + b.dieCnt ≤ 32) && free (fun o => meets b.dieBase b.dieCnt o.dieBase o.dieCnt)),
   (0x52, decide (b.pkgBase ≤ 15)),
   (0x53, decide (b.pkgBase + b.pkgCnt ≤ 16) && free (fun o => meets b.pkgBase b.pkgCnt o.pkgBase o.pkgCnt)),
   (0x54, decide (b.podBase ≤ 7)),
   (0x55, decide (b.podBase + b.podCnt ≤ 8) && free (fun o => meets b.podBase b.podCnt o.podBase o.podCnt)),
   (0x58, decide (b.peers.length ≤ 63))] ++
  b.peers.zipIdx.map (fun p => (0x60 + 24 * p.2, decide (p.1.dev ≤ 63) && decide (p.1.key ≤ 63) && p.1.base % 4096 == 0 &&
    p.1.len % 4096 == 0))

/-- A quad's communication file, core and quad barriers and controllers as at reset, in its checkpoints too: nothing of them passes to
another partition (R272, R279, R372). -/
def State.clearQuad (s : State) (q : Nat) : State :=
  s.modQuadAll q (fun d => { d with sem := 0, words := Vector.replicate 32 0, bars := [], cbs := [] })

/-- Every token of a partition is FREE (R311). -/
def State.freePart (s : State) (p : Part) : State :=
  let mine (i : Nat) := decide (p.tbase ≤ i) && decide (i < p.tbase + 4096)
  { s with tokens := s.tokens.filter (fun t => !mine t.idx), tokReqs := s.tokReqs.filter (fun r => !mine r.idx) }

/-- A wide barrier lies in a partition's share (R279). -/
def Part.shares (p : Part) (b : Nat) : Bool :=
  let i := b % 2 ^ 20
  match barScope b with
  | 3 => decide (p.dieBase ≤ i % 64) && decide (i % 64 < p.dieBase + p.dieCnt)
  | 4 => decide (p.pkgBase ≤ i) && decide (i < p.pkgBase + p.pkgCnt)
  | 5 => decide (p.podBase ≤ i) && decide (i < p.podBase + p.podCnt)
  | _ => false

/-- The partition as the body sets it; its counts of handles and parks go on. -/
def Part.setBody (p : Part) (b : PartBody) : Part :=
  { p with
    setUp := true, quads := b.quads, plo := b.plo, phi := b.phi, pthresh := 8, qways := b.qways, tcount := b.tcount,
    ptroot := (b.ptbase >>> 12).truncate 40, asid := b.asid, vecbase := b.vecbase, veccnt := b.veccnt, fqint := b.iflags % 2 == 1,
    fqbase := (b.fqbase >>> 12).truncate 40, fqsize := if 11 < bitsOf b.fqbase 3 0 then 11 else b.fqbase.truncate 4, fqhead := 0,
    fqtail := 0, fqwait := [], spillBase := b.spillBase, spillLen := b.spillLen, keymask := b.keymask ||| 1, dieBase := b.dieBase,
    dieCnt := b.dieCnt, pkgBase := b.pkgBase, pkgCnt := b.pkgCnt, podBase := b.podBase, podCnt := b.podCnt, peers := b.peers }

/-- PARTITION with OP SET takes effect (R475). -/
def State.setPart (s : State) (b : PartBody) : State :=
  let old := (s.parts.find? (fun x => x.id == b.part)).getD (Part.blank b.part)
  let new_ := old.setBody b
  let s1 := ((s.pubs.filter (fun p => p.part == b.part)).foldl (fun (s : State) p => s.unbind p.id) s).endSubs b.part (fun _ => true)
  let s2 := { s1 with
    parts := new_ :: s1.parts.filter (fun x => x.id != b.part),
    wideBars := s1.wideBars.filter (fun k => !old.shares k.id && !new_.shares k.id),
    lines := s1.lines.map (fun (l : HLine) => if l.resv = some b.part then { l with locked := false } else l) }
  let s3 := (old.quads.filter (fun q => !b.quads.contains q)).foldl (fun (s : State) q =>
    s.modQuad q (fun x => { x with part := none })) s2
  ((b.quads.foldl (fun (s : State) q => (s.clearQuad q).modQuad q (fun x => { x with part := some b.part })) s3).freePart new_).relaxLines
    b.part

/-- PARTITION with OP SET (R472, R475). -/
def execPartitionSet (tag : Word) (body : PartBody) := event (served (.partitionSet tag body) (whenReady 2 tag (fun s =>
  let busy := match s.part? body.part with
    | some p => s.launches.any (fun l => l.part == body.part) && !p.saved
    | none => false
  if busy then s.respond 2 tag 2 0 []
  else
    match firstBad (partRules body (s.parts.filter (fun x => x.setUp && x.id != body.part))) with
    | some o => s.respond 2 tag 3 o []
    | none => (s.setPart body).respond 2 tag 0 0 [])))

/-- The first bad field of LEND or RECALL (R472). -/
def lendRules (part borrower : Nat) : List (Nat × Bool) :=
  [(0x00, decide (part ≤ 15)), (0x02, decide (borrower ≤ 15) && part != borrower)]

/-- PARTITION with OP LEND (R476): the contexts in the quads' depots are spilled. -/
def execPartitionLend (tag : Word) (part borrower : Nat) (quads : List Nat) :=
  event (served (.partitionLend tag part borrower quads) (whenReady 2 tag (fun s =>
    match firstBad (lendRules part borrower), s.part? part, s.part? borrower with
    | some o, _, _ => s.respond 2 tag 3 o []
    | none, some p, some _ =>
      if !p.saved || !quads.all (fun q => p.quads.contains q) then s.respond 2 tag 2 0 []
      else
        let s1 := quads.foldl (fun (s : State) q =>
          ((s.spillDepot q).clearQuad q).modQuad q (fun x => { x with lentTo := some borrower })) s
        let s2 := s1.modPart part (fun x => { x with quads := x.quads.filter (fun q => !quads.contains q) })
        (s2.modPart borrower (fun x => { x with quads := x.quads ++ quads })).respond 2 tag 0 0 []
    | none, _, _ => s.respond 2 tag 2 0 [])))

/-- PARTITION with OP RECALL (R476): the borrower's crews on the quads are taken, and the quads return once they are saved; the
contexts go to the borrower's spill area. The request waits until then (R469). -/
def execPartitionRecall (tag : Word) (part borrower : Nat) (quads : List Nat) :=
  event (asked (.partitionRecall tag part borrower quads) (whenReadyOr 2 tag (fun s =>
    match firstBad (lendRules part borrower) with
    | some o => (s.respond 2 tag 3 o [], true)
    | none =>
      if !quads.all (fun q => decide ((s.getQuad q).part = some part) && decide ((s.getQuad q).lentTo = some borrower)) then
        (s.respond 2 tag 2 0 [], true)
      else
        let on (s : State) := s.crews.filter (fun c => quads.contains c.quad && !c.depot)
        let s1 := (on s).foldl (fun (s : State) c => if c.stopping then s else s.takeCrew c) s
        let s2 := s1.saveStopped (fun c => quads.contains c.quad)
        if !(on s2).isEmpty then (s2, false)
        else
          let s3 := quads.foldl (fun (s : State) q => ((s.spillDepot q).clearQuad q).modQuad q (fun x => { x with lentTo := none })) s2
          let s4 := s3.modPart borrower (fun x => { x with quads := x.quads.filter (fun q => !quads.contains q) })
          ((s4.modPart part (fun x => { x with quads := x.quads ++ quads })).respond 2 tag 0 0 [], true))))

/-! ### START (R474) -/

/-- The bytes of an LPB at their homes, as the lodge reads them. -/
def State.lodgeRead (s : State) (part : Nat) (va : Word) (n : Nat) : Option (List Byte) :=
  let ps : Option (List (List Byte)) := (cuts va 3 n).mapM (fun (c : Word × Nat) =>
    match s.homeOf part c.1 with
    | some p =>
      let km := match s.part? part with | some x => x.keymask | none => 0
      if p.r && p.grn != 3 && bitOf km p.kid && p.owner.isNone then
        some (s.keyRead p.kid (p.key + (c.1.toNat - p.va)) c.2).1
      else none
    | none => none)
  ps.map (fun l => l.flatten)

/-- DONEVA may be stored to by a privileged strand (R255, R474). -/
def State.doneOk (s : State) (part : Nat) (done : Word) : Bool :=
  done != 0 && done.toNat % 8 == 0 &&
  (match s.homeOf part done with
   | some p =>
     let km := match s.part? part with | some x => x.keymask | none => 0
     p.w && p.grn != 3 && bitOf km p.kid
   | none => false)

/-- START (R474). -/
def execStart (tag : Word) (part : Nat) (lpb : Word) := event (served (.start tag part lpb) (whenReady 7 tag (fun s =>
  match s.part? part with
  | none => s.respond 7 tag 2 0 []
  | some _ =>
    match s.lodgeRead part lpb 128 with
    | none => s.respond 7 tag 3 0 []
    | some b =>
      if lpb.toNat % 128 ≠ 0 then s.respond 7 tag 3 0 []
      else if !s.doneOk part (w64 (recField b 0x10 8)) then s.respond 7 tag 3 0x10 []
      else
        let t := s.acceptLaunch part b true
        if bitOf t.2 63 then t.1.respond 7 tag 3 (t.2.toNat % 65536) []
        else t.1.respond 7 tag 0 0 (leBytes 8 t.2.toNat))))

/-! ### Images (R457 to R461, R465) -/

/-- The reserved bytes of an image are checked: its MINOR is 0 (R465). -/
def zeroIf (minor : Nat) (bs : List Byte) : Bool := minor != 0 || bs.all (fun b => decide (b = 0))

/-- n rounded up to a multiple of k. -/
def roundUp (n k : Nat) : Nat := (n + k - 1) / k * k

/-- The fields of an image's header in offset order (R460, R465); `man` holds the manifest's entries. -/
def headerRules (h man : List Byte) : List (Nat × Bool) :=
  let f (o n : Nat) := fieldN h o n
  let minor := f 0xA 2
  let nblk := f 0x20 8
  let nseg := f 0x30 4
  [(0x00, f 0 8 == 0x0A1A0A0D4B5A4C4D), (0x08, f 8 2 == 1), (0x0C, zeroIf minor ((h.drop 0xC).take 4)), (0x10, f 0x10 16 != 0),
   (0x20, decide (1 ≤ nblk) && decide (nblk ≤ 2 ^ 32)), (0x28, f 0x28 8 == 0x1000), (0x30, decide (1 ≤ nseg) && decide (nseg ≤ 65535)),
   (0x34, zeroIf minor ((h.drop 0x34).take 4)), (0x38, f 0x38 8 == roundUp (0x1000 + nseg * 256) 4096),
   (0x40, f 0x40 8 == roundUp (f 0x38 8 + nblk * 16) 65536), (0x48, f 0x48 8 == nblk * 65536),
   (0x50, (h.drop 0x50).take 32 == sha3 (h.take 0x50 ++ man)), (0x70, zeroIf minor ((h.drop 0x70).take 3984))]

/-- The lowest byte that a descriptor reaches, and the one after its last (R212, R461). -/
def Desc.reach (x : Desc) : Int × Int :=
  let es := (x.dims.zip x.strs).drop 1
  let span (p : Nat × Int) : Int := ((p.1 - 1 : Nat) : Int) * p.2
  let lo := es.foldl (fun (a : Int) p => a + min 0 (span p)) 0
  let hi := es.foldl (fun (a : Int) p => a + max 0 (span p)) 0
  let row : Int := ((x.dims.getD 0 0 * etyBits x.ty / 8 : Nat) : Int)
  (x.base + lo, x.base + hi + row)

/-- The lowest scale byte of an N4 descriptor, and the one after its last: one for 16 bytes of codes (R212, R461). -/
def Desc.scales (x : Desc) : Int × Int :=
  let r := x.reach
  (x.sbase + (r.1 - x.base) / 16, x.sbase + (r.2 - x.base + 15) / 16)

/-- The fields of a manifest entry in offset order (R461, R465): BASE and SBASE are offsets within the segment, and what the descriptor
reaches from them lies in it. -/
def entryRules (minor dlen : Nat) (e : List Byte) : List (Nat × Bool) :=
  let f (o n : Nat) := fieldN e o n
  let d := e.drop 0x80
  let x := descOf d
  let within (r : Int × Int) : Bool := decide (0 ≤ r.1) && decide (r.2 ≤ (f 8 8 : Int))
  let fits (o : Nat) : Bool :=
    if o = 0x08 then within x.reach else if o = 0x10 then decide (x.ty ≠ .n4) || (decide (x.base < x.sbase) && within x.scales) else true
  [(0x00, f 0 8 % 4096 == 0), (0x08, decide (1 ≤ f 8 8) && decide (f 0 8 + f 8 8 ≤ dlen)), (0x14, zeroIf minor ((e.drop 0x14).take 108))] ++
  (descRulesOf (minor == 0) false d).map (fun k => (0x80 + k.1, k.2 && fits k.1))

/-- The image offset of the first failing field of an image, if one fails (R458, R460, R461). -/
def State.badImage (s : State) (m : Image) : Option Nat :=
  let h := s.imgBytes m 0 4096
  let nseg := min (fieldN h 0x30 4) 65535
  let man := s.imgBytes m 0x1000 (nseg * 256)
  match firstBad (headerRules h man) with
  | some o => some o
  | none =>
    let es := (List.range nseg).findSome? (fun i =>
      (firstBad (entryRules (fieldN h 0xA 2) (fieldN h 0x48 8) ((man.drop (256 * i)).take 256))).map (fun o => 0x1000 + 256 * i + o))
    match es with
    | some o => some o
    | none =>
      let z := 0x1000 + nseg * 256
      (List.range (fieldN h 0x38 8 - z)).findSome? (fun i => if s.imgBytes m (z + i) 1 = [0] then none else some (z + i))

/-- GEN of a slot's last image (R458). -/
def State.imgGen (s : State) (slot : Nat) : Nat := (s.imgGens.find? (fun g => g.1 == slot)).elim 0 (·.2)

/-- The lowest free image slot whose GEN can still rise: a handle never names a later image (R458). DESIGN CHOICE (log 86): the lowest one,
and a slot that has held 2^20 − 1 images is used no more. -/
def State.freeImage (s : State) : Option Nat :=
  (List.range 4096).find? (fun i => !s.images.any (fun m => m.slot == i) && decide (s.imgGen i + 1 < 2 ^ 20))

/-- A logical block belongs to a registered image (R459, R460). -/
def Image.covers (m : Image) (ssd nsid block : Nat) : Bool :=
  m.ssd == ssd && m.nsid == nsid && decide (m.slba ≤ block) && decide (block < m.slba + (m.doff + 65536 * m.nblk) / 4096)

/-- The host writes bytes of a logical block; the engine refuses it for a block of a registered image (R459, R463, R464). -/
def State.driveWrite (s : State) (ssd nsid slba off : Nat) (bytes : List Byte) : State :=
  if s.images.any (fun m => m.covers ssd nsid slba) then s
  else { s with flash := memSetN s.flash (driveKey ssd nsid slba off) bytes }

/-- REGISTER (R458, R460, R461, R473). -/
def execRegister (tag : Word) (part ssd : Nat) (raw : Bool) (nsid slba : Nat) := event (served (.register tag part ssd raw nsid slba) (whenReady 3 tag (fun s =>
  let m0 : Image := { slot := 0, gen := 0, part := part, ssd := ssd, nsid := nsid, slba := slba, raw := raw, nblk := 0, toff := 0,
                      doff := 0, iid := [] }
  match s.freeImage with
  | none => s.respond 3 tag 3 0 []
  | some slot =>
    if s.lodge.ssds ≤ ssd then s.respond 3 tag 3 0 []
    else
      match s.badImage m0 with
      | some o => s.respond 3 tag 3 (o % 2 ^ 32) []
      | none =>
        let h := s.imgBytes m0 0 4096
        let gen := s.imgGen slot + 1
        let m : Image := { m0 with slot := slot, gen := gen, nblk := fieldN h 0x20 8, toff := fieldN h 0x38 8, doff := fieldN h 0x40 8,
                                   iid := (h.drop 0x10).take 16 }
        let t := { s with images := m :: s.images, imgGens := (slot, gen) :: s.imgGens.filter (fun g => g.1 != slot) }
        t.respond 3 tag 0 0 (leBytes 4 m.handle ++ leBytes 4 0))))

/-- An incomplete transfer of any strand that `p` chooses. -/
def State.anyXfer (s : State) (p : Strand → Xfer → Bool) : Bool := s.all.any (fun x => x.chans.any (fun c => c.xfers.any (p x)))

/-- UNREGISTER (R459): it waits for the transfers on the handle. -/
def execUnregister (tag : Word) (handle : BitVec 32) := event (asked (.unregister tag handle) (whenReadyOr 4 tag (fun s =>
  match s.imageOf handle.toNat with
  | none => (s.respond 4 tag 3 0 [], true)
  | some m =>
    if s.anyXfer (fun _ t => cpFlash t.words && bitsOf (regOf t.words 0) 31 0 == handle.toNat) then (s, false)
    else (({ s with images := s.images.filter (fun k => k.slot != m.slot) }).respond 4 tag 0 0 [], true))))

/-! ### Endpoints, grants and addresses (R447, R473) -/

/-- A request about a partition that nothing has set up is refused. -/
def withPart (kind : Nat) (tag : Word) (part : Nat) (f : State → State) (s : State) : State :=
  if (s.part? part).isSome then f s else s.respond kind tag 2 0 []

/-- ENDPOINT with EOP SET. -/
def execEndpointSet (tag : Word) (part idx : Nat) (ep : Endpoint) := event (served (.endpointSet tag part idx ep) (whenReady 8 tag (withPart 8 tag part (fun s =>
  if 255 < idx then s.respond 8 tag 3 2 []
  else (s.modPart part (fun p => { p with eps := (idx, ep) :: p.eps.filter (fun e => e.1 != idx) })).respond 8 tag 0 0 []))))

/-- ENDPOINT with EOP CLEAR: it waits for the partition's transfers that name the endpoint. -/
def execEndpointClear (tag : Word) (part idx : Nat) := event (asked (.endpointClear tag part idx) (whenReadyOr 8 tag (fun s =>
  if (s.part? part).isNone then (s.respond 8 tag 2 0 [], true)
  else if 255 < idx then (s.respond 8 tag 3 2 [], true)
  else if s.anyXfer (fun x t => x.ident.part == part && cpKind t.words == 4 && bitsOf (regOf t.words 1) 63 56 == idx) then (s, false)
  else ((s.modPart part (fun p => { p with eps := p.eps.filter (fun e => e.1 != idx) })).respond 8 tag 0 0 [], true))))

/-- ENDPOINT with EOP GRANT. -/
def execGrant (tag : Word) (part idx : Nat) (gr : InGrant) := event (served (.grant tag part idx gr) (whenReady 8 tag (withPart 8 tag part (fun s =>
  if 63 < idx then s.respond 8 tag 3 2 []
  else (s.modPart part (fun p => { p with grants := (idx, gr) :: p.grants.filter (fun g => g.1 != idx) })).respond 8 tag 0 0 []))))

/-- ENDPOINT with EOP REVOKE: every datagram that has arrived has been written. -/
def execRevoke (tag : Word) (part idx : Nat) := event (served (.revoke tag part idx) (whenReady 8 tag (withPart 8 tag part (fun s =>
  if 63 < idx then s.respond 8 tag 3 2 []
  else (s.modPart part (fun p => { p with grants := p.grants.filter (fun g => g.1 != idx) })).respond 8 tag 0 0 []))))

/-- ENDPOINT with EOP LOCAL. -/
def execLocalAddress (tag : Word) (port mac addr6 : Nat) := event (served (.localAddress tag port mac addr6) (whenReady 8 tag (fun s =>
  if 7 < port then s.respond 8 tag 3 2 []
  else (s.modPort port (fun p => { p with mac := mac, addr6 := addr6 })).respond 8 tag 0 0 [])))

/-! ### Memory keys (R477) -/

/-- A fresh key: every line written under the id reads back as unrelated bytes. -/
def State.newKey (s : State) (kid : Nat) : State :=
  let ls := (s.lineKeys.filter (fun p => p.2 == kid)).map (·.1)
  let t := ls.foldl (fun (s : State) l =>
    let f := s.freeBytes 512
    f.2.memWrite (homeKey 0 (512 * l)) f.1) s
  { t with keyGen := if t.keyGen.contains kid then t.keyGen else kid :: t.keyGen }

/-- KEY with KOP GENERATE. -/
def execKeyGenerate (tag : Word) (keyid : Nat) := event (served (.keyGenerate tag keyid) (whenReady 9 tag (fun s =>
  if keyid < 1 ∨ 63 < keyid then s.respond 9 tag 3 0 [] else (s.newKey keyid).respond 9 tag 0 0 [])))

/-- KEY with KOP BIND. -/
def execKeyBind (tag : Word) (keyid hslot base len : Nat) := event (served (.keyBind tag keyid hslot base len) (whenReady 9 tag (fun s =>
  if keyid < 1 ∨ 63 < keyid then s.respond 9 tag 3 0 []
  else if 15 < hslot then s.respond 9 tag 3 2 []
  else
    ({ s with keyMap := (KeySlot.mk hslot base len keyid) :: s.keyMap.filter (fun k => k.slot != hslot) }).respond 9 tag 0 0 [])))

/-- KEY with KOP UNBIND. -/
def execKeyUnbind (tag : Word) (hslot : Nat) := event (served (.keyUnbind tag hslot) (whenReady 9 tag (fun s =>
  if 15 < hslot then s.respond 9 tag 3 2 []
  else ({ s with keyMap := s.keyMap.filter (fun k => k.slot != hslot) }).respond 9 tag 0 0 [])))

/-! ### The request window (R469, R471) -/

/-- The body length of a request kind (R472 to R474, R477); the fields of a PARTITION body count its peers. -/
def bodyLen (kind : Nat) (b : List Byte) : Option Nat :=
  match kind with
  | 1 => some 32
  | 2 => some (0x60 + 24 * recField b 0x58 4)
  | 3 => some 16
  | 4 => some 8
  | 5 => some 0
  | 6 => some 40
  | 7 => some 16
  | 8 => some 56
  | 9 => some 24
  | _ => none

/-- The reserved fields of a body, by offset and size: they must be zero (R472 to R474). -/
def zeroFields (kind : Nat) (b : List Byte) : List (Nat × Nat) :=
  match kind with
  | 2 =>
    if recField b 1 1 = 1 ∨ recField b 1 1 = 2 then
      ((List.range (b.length - 3)).map (fun i => (3 + i, 1))).filter (fun f => decide (f.1 < 0x30) || decide (0x48 ≤ f.1))
    else [(0x17, 1), (0x56, 2), (0x5C, 4)] ++ (List.range (recField b 0x58 4)).map (fun i => (0x62 + 24 * i, 6))
  | 3 => [(3, 1)]
  | 4 => [(4, 4)]
  | 6 => [(4, 4)]
  | 7 => [(1, 7)]
  | 8 => [(6, 2), (14, 2), (36, 4)]
  | 9 => [(3, 5)]
  | _ => []

/-- The numbers of the bits that are set among the first n of a number. -/
def setBits (n v : Nat) : List Nat := (List.range n).filter (fun i => v.testBit i)

/-- The parameters of a PARTITION body (R472). -/
def partBodyOf (b : List Byte) : PartBody :=
  let f (o n : Nat) := recField b o n
  { part := f 0 1, borrower := f 2 1, plo := f 3 1, phi := f 4 1, qways := f 5 1, tcount := f 6 2, ptbase := w64 (f 8 8),
    asid := BitVec.ofNat 16 (f 0x10 2), vecbase := f 0x12 2, veccnt := f 0x14 2, iflags := f 0x16 1, fqbase := w64 (f 0x18 8),
    spillBase := f 0x20 8, spillLen := f 0x28 8, quads := setBits 192 (f 0x30 24), keymask := w64 (f 0x48 8), dieBase := f 0x50 1,
    dieCnt := f 0x51 1, pkgBase := f 0x52 1, pkgCnt := f 0x53 1, podBase := f 0x54 1, podCnt := f 0x55 1,
    peers := (List.range (f 0x58 4)).map (fun i =>
      let o := 0x60 + 24 * i
      { dev := f o 1, key := f (o + 1) 1, base := f (o + 8) 8, len := f (o + 16) 8 }) }

/-- A well-formed body as the request it makes; none when its operation code names none (R472, R473). -/
def requestOf (kind : Nat) (tag : Word) (b : List Byte) : Option Request :=
  let f (o n : Nat) := recField b o n
  match kind with
  | 1 => some (.attest tag (BitVec.ofNat 256 (f 0 32)))
  | 2 =>
    match f 1 1 with
    | 0 => some (.partitionSet tag (partBodyOf b))
    | 1 => some (.partitionLend tag (f 0 1) (f 2 1) (setBits 192 (f 0x30 24)))
    | 2 => some (.partitionRecall tag (f 0 1) (f 2 1) (setBits 192 (f 0x30 24)))
    | _ => none
  | 3 => some (.register tag (f 0 1) (f 1 1) (f 2 1 == 1) (f 4 4) (f 8 8))
  | 4 => some (.unregister tag (BitVec.ofNat 32 (f 0 4)))
  | 5 => some (.status tag)
  | 6 => some (.extend tag (f 0 4) (BitVec.ofNat 256 (f 8 32)))
  | 7 => some (.start tag (f 0 1) (w64 (f 8 8)))
  | 8 =>
    match f 1 1 with
    | 0 => some (.endpointSet tag (f 0 1) (f 2 1)
        { addr6 := f 16 16, udpSrc := f 32 2, udpDst := f 34 2, mac := f 8 6, ports := f 3 1, rpart := f 4 1, wbase := f 40 8,
          wlen := f 48 8 })
    | 1 => some (.endpointClear tag (f 0 1) (f 2 1))
    | 2 => some (.grant tag (f 0 1) (f 2 1) { addr6 := f 16 16, spart := f 4 1, key := f 5 1, base := f 40 8, len := f 48 8 })
    | 3 => some (.revoke tag (f 0 1) (f 2 1))
    | 4 => some (.localAddress tag (f 2 1) (f 8 6) (f 16 16))
    | _ => none
  | 9 =>
    match f 1 1 with
    | 0 => some (.keyGenerate tag (f 0 1))
    | 1 => some (.keyBind tag (f 0 1) (f 2 1) (f 8 8) (f 16 8))
    | 2 => some (.keyUnbind tag (f 2 1))
    | _ => none
  | _ => none

/-- What a request area of 16 KiB holds (R469, R471): the request, or the kind and tag of one whose operation code names none. DESIGN
CHOICE (log 89): the fields are little-endian (R7); a wrong LEN is reported at the shorter of the two lengths, a set reserved bit of RFLAGS
as a reserved byte, and an operation code that names none as a failed check of its field. -/
def parseRequest (a : List Byte) : Request ⊕ (Nat × Word) :=
  let kind := recField a 0 4
  let len := recField a 4 4
  let tag := w64 (recField a 8 8)
  let b := a.drop 16
  match bodyLen kind b with
  | none => .inl (.malformed tag kind 0)
  | some n =>
    if n ≠ len ∨ 16 ^ 3 * 4 < 16 + len then .inl (.malformed tag kind (min n len))
    else
      let b := b.take len
      match (zeroFields kind b).find? (fun f => recField b f.1 f.2 != 0) with
      | some f => .inl (.malformed tag kind f.1)
      | none =>
        if kind = 3 ∧ 1 < recField b 2 1 then .inl (.malformed tag kind 2)
        else match requestOf kind tag b with
          | some i => .inl i
          | none => .inr (kind, tag)

/-- The host writes bytes of BAR 2 (R471): the request area takes them; one 8-byte write of RSPSEQ + 1 to REQSEQ, made while no request is
served, hands the request over. Every other write is ignored. The second result is the request. -/
def State.barWrite (s : State) (off : Nat) (bytes : List Byte) : State × Option Request :=
  let l := s.lodge
  if off < 0x4000 then
    ({ s with lodge := { l with area := memSetN l.area off (bytes.take (0x4000 - off)) } }, none)
  else if off = 0xFFE0 ∧ bytes.length = 8 ∧ leNat bytes = (l.rspSeq + 1).toNat ∧ l.reqSeq = l.rspSeq ∧ l.waiting.isEmpty then
    let t : State := { s with lodge := { l with reqSeq := l.rspSeq + 1 } }
    match parseRequest (memGetN l.area 0 0x4000) with
    | .inl i => (t, some i)
    | .inr k => (whenReady k.1 k.2 (fun s => s.respond k.1 k.2 3 1 []) t, none)
  else (s, none)

/-- A byte of BAR 2 as the host reads it (R471). Beyond a response's end the area reads as zero. -/
def Lodge.barByte (l : Lodge) (o : Nat) : Byte :=
  if o < 0x4000 then memGet l.area o
  else if o < 0x8000 then l.resp.getD (o - 0x4000) 0
  else if o < 0xFFE0 then l.desc.getD (o - 0x8000) 0
  else if o < 0xFFE8 then (leBytes 8 l.reqSeq.toNat).getD (o - 0xFFE0) 0
  else if o < 0xFFF0 then (leBytes 8 l.rspSeq.toNat).getD (o - 0xFFE8) 0
  else 0

/-- The host reads n bytes of BAR 2. -/
def State.barRead (s : State) (off n : Nat) : State := { s with hostData := (List.range n).map (fun i => s.lodge.barByte (off + i)) }

/-- A request of the host. -/
def Request.run (r : Request) : State → Host.Outcome State Fault Refusal :=
  match r with
  | .attest tag nonce => execAttest tag nonce
  | .partitionSet tag body => execPartitionSet tag body
  | .partitionLend tag part borrower quads => execPartitionLend tag part borrower quads
  | .partitionRecall tag part borrower quads => execPartitionRecall tag part borrower quads
  | .register tag part ssd raw nsid slba => execRegister tag part ssd raw nsid slba
  | .unregister tag handle => execUnregister tag handle
  | .status tag => execStatus tag
  | .extend tag slot digest => execExtend tag slot digest
  | .start tag part lpb => execStart tag part lpb
  | .endpointSet tag part idx ep => execEndpointSet tag part idx ep
  | .endpointClear tag part idx => execEndpointClear tag part idx
  | .grant tag part idx gr => execGrant tag part idx gr
  | .revoke tag part idx => execRevoke tag part idx
  | .localAddress tag port mac addr6 => execLocalAddress tag port mac addr6
  | .keyGenerate tag keyid => execKeyGenerate tag keyid
  | .keyBind tag keyid hslot base len => execKeyBind tag keyid hslot base len
  | .keyUnbind tag hslot => execKeyUnbind tag hslot
  | .malformed tag kind detail => execMalformedRequest tag kind detail

/-! ### Islands and spares (R478 to R480) -/

/-- DROOP_TRIP (R478): no visible value changes. -/
def execDroopTrip (island : Nat) := event (fun s =>
  if island < 848 ∧ !s.stretched.contains island then { s with stretched := island :: s.stretched } else s)

/-- DROOP_CLEAR (R478). -/
def execDroopClear (island : Nat) := event (fun s => { s with stretched := s.stretched.filter (fun i => i != island) })

/-- The crews of a quad that are taken off it, those with NOPRE too when `all`. -/
def State.clearOut (s : State) (quad : Nat) (all : Bool) : State :=
  (s.crews.filter (fun c => c.quad == quad && !c.depot && !c.stopping && (all || s.preemptible c))).foldl (fun (s : State) c =>
    s.takeCrew c) s

/-- QUAD_AGING_FLAG (R479). -/
def execQuadAgingFlag (quad : Nat) := event (fun s =>
  if quad < 144 ∧ !(s.getQuad quad).aging then
    (s.modQuad quad (fun q => { q with aging := true, agedAt := s.timer })).clearOut quad false
  else s)

/-- NOPRE_PREEMPT_TIMEOUT (R479): 1 s after the flag. -/
def execNoprePreemptTimeout (quad : Nat) := event (fun s =>
  let q := s.getQuad quad
  if q.aging && decide (q.agedAt + 1000000000 ≤ s.timer) then s.clearOut quad true else s)

/-- QUAD_SPARE_COPY (R479): the spare takes the quad's index with its file, barriers, controllers and depot; caches and
translations are not copied. -/
def execQuadSpareCopy (quad : Nat) := event (fun s =>
  let q := s.getQuad quad
  let die := dieOf quad
  let n := s.lodge.spares.getD die 0
  if q.aging && (s.residents quad).isEmpty && q.plat.isEmpty && !q.rolling && decide (0 < n) then
    let d := { q.d with copies := [], tlb := [], atoms := [], recs := [] }
    { s.setQuad { q with d := d, aging := false, agedAt := 0, ckpts := [] } with
      lodge := { s.lodge with spares := s.lodge.spares.set die (n - 1), qrepl := s.lodge.qrepl + 1 } }
  else s)

/-- SLICE_RETIRE (R480): its buckets move as the shunter moves them, to another of the module's 512 slices (R4), and moves toward it go
there too. -/
def execSliceRetire (slice spare : Nat) := event (fun s =>
  let bs := (List.range 4096).filter (fun b => s.sliceOf b == slice)
  if slice = spare ∨ 512 ≤ slice ∨ 512 ≤ spare ∨ s.badSlices.contains spare ∨ bs.any (fun b => s.bucketBusy b) then s
  else
    let s1 := { s with buckets := s.buckets.map (fun (x : Bucket) => if x.moving = some slice then { x with moving := some spare } else x) }
    let t := bs.foldl (fun (s : State) b => s.rehome (s.bucket b) spare) s1
    { t with badSlices := if t.badSlices.contains slice then t.badSlices else slice :: t.badSlices,
             lodge := { t.lodge with sret := t.lodge.sret + 1 } })

/-- The lanes that share one spare: the 8 of a link port, 0 to 17, or 32 of a die boundary (R2, R4, R428, R480). DESIGN CHOICE (log
22): links 18 to 21 number the four boundaries, each of 128 lanes. -/
def laneGroup (link lane : Nat) : Option (Nat × Nat) :=
  if link < 18 then (if lane < 8 then some (link, 0) else none)
  else if link < 22 then (if lane < 128 then some (link, lane / 32) else none)
  else none

/-- LANE_REPLACE (R428, R480): once the lines are drained the lane's spare takes its place, unless the spare is in use. -/
def execLaneReplace (link lane : Nat) := event (fun s =>
  match laneGroup link lane with
  | none => s
  | some g =>
    if s.onLines || s.lanes.any (fun l => laneGroup l.1 l.2 == some g) then s
    else { s with lanes := (link, lane) :: s.lanes, lodge := { s.lodge with lrepl := s.lodge.lrepl + 1 } })

/-- HBM_ROW_REPAIR (R480): the row's home lines are written back first. -/
def execHbmRowRepair (base len : Nat) := event (fun s =>
  let hit (l : Nat) : Bool := decide (l < 2 ^ 43) && decide (base < 512 * l + 512) && decide (512 * l < base + len)
  if s.reqs.any (fun r => r.lines.any hit && (decide (r.st = .waiting) || s.holdsEntry r)) then s
  else
    let t := ((s.lines.map (·.line)).filter hit).foldl (fun (s : State) l => s.dropLine l) s
    { t with rowFixes := (base, len) :: t.rowFixes })

/-- MODULE_RESET (R466): the module as after reset, then its bring-up. What is attached to it stays: the memory of the host
and of peers, the drives, the straps, the wear record and the agenda. -/
def execModuleReset := event (fun s =>
  let l := State.reset.lodge
  let t : State := { State.reset with
    mem := s.mem.filter (fun c => keyHome c.1 == 1 || keyHome c.1 == 2), agenda := s.agenda, freeCtr := s.freeCtr, split := s.split,
    hostAtom := s.hostAtom, hostBusy := s.hostBusy, links := s.links, routes := s.routes, opened := s.opened, flash := s.flash,
    badSlices := s.badSlices, lanes := s.lanes, segments := s.segments, rowFixes := s.rowFixes,
    lodge := { l with straps := s.lodge.straps, serial := s.lodge.serial, hbm := s.lodge.hbm, nssd := s.lodge.nssd,
                      spares := s.lodge.spares, qrepl := s.lodge.qrepl, sret := s.lodge.sret, lrepl := s.lodge.lrepl,
                      faulty := s.lodge.faulty } }
  let t1 := { t with buckets := s.buckets.filterMap (fun (b : Bucket) =>
    if s.badSlices.contains (b.idx % 512) then some { b with moving := none, moves := 0, last := none } else none) }
  State.boot [1, 2, 3, 4, 5, 6, 7, 8] t1)

end Sys2Proof.Machine
end

