-- ==== Sys2Proof/Machine/Dispatch.lean ====
section
/-! DEFINITION. Each instruction and each event has one meaning. -/

namespace Sys2Proof.Machine

/-- The meaning of an instruction, or of an event of the module. -/
def exec (i : Instr) (s : State) : Host.Outcome State Fault Refusal :=
  match i with
  | .iaAdd d a b => Sys2Proof.Machine.execIaAdd d a b s
  | .iaSub d a b => Sys2Proof.Machine.execIaSub d a b s
  | .iaMul d a b => Sys2Proof.Machine.execIaMul d a b s
  | .iaMulh d a b => Sys2Proof.Machine.execIaMulh d a b s
  | .iaMulhu d a b => Sys2Proof.Machine.execIaMulhu d a b s
  | .iaDiv d a b => Sys2Proof.Machine.execIaDiv d a b s
  | .iaDivu d a b => Sys2Proof.Machine.execIaDivu d a b s
  | .iaRem d a b => Sys2Proof.Machine.execIaRem d a b s
  | .iaRemu d a b => Sys2Proof.Machine.execIaRemu d a b s
  | .iaAnd d a b => Sys2Proof.Machine.execIaAnd d a b s
  | .iaOr d a b => Sys2Proof.Machine.execIaOr d a b s
  | .iaXor d a b => Sys2Proof.Machine.execIaXor d a b s
  | .iaAndn d a b => Sys2Proof.Machine.execIaAndn d a b s
  | .iaShl d a b => Sys2Proof.Machine.execIaShl d a b s
  | .iaShr d a b => Sys2Proof.Machine.execIaShr d a b s
  | .iaSra d a b => Sys2Proof.Machine.execIaSra d a b s
  | .iaRol d a b => Sys2Proof.Machine.execIaRol d a b s
  | .iaSlt d a b => Sys2Proof.Machine.execIaSlt d a b s
  | .iaSltu d a b => Sys2Proof.Machine.execIaSltu d a b s
  | .iaMin d a b => Sys2Proof.Machine.execIaMin d a b s
  | .iaMax d a b => Sys2Proof.Machine.execIaMax d a b s
  | .iaMinu d a b => Sys2Proof.Machine.execIaMinu d a b s
  | .iaMaxu d a b => Sys2Proof.Machine.execIaMaxu d a b s
  | .iaClz d a => Sys2Proof.Machine.execIaClz d a s
  | .iaCtz d a => Sys2Proof.Machine.execIaCtz d a s
  | .iaPopc d a => Sys2Proof.Machine.execIaPopc d a s
  | .iaSext d a w => Sys2Proof.Machine.execIaSext d a w s
  | .iaZext d a w => Sys2Proof.Machine.execIaZext d a w s
  | .iiAdd d a imm => Sys2Proof.Machine.execIiAdd d a imm s
  | .iiAnd d a imm => Sys2Proof.Machine.execIiAnd d a imm s
  | .iiOr d a imm => Sys2Proof.Machine.execIiOr d a imm s
  | .iiXor d a imm => Sys2Proof.Machine.execIiXor d a imm s
  | .iiSlt d a imm => Sys2Proof.Machine.execIiSlt d a imm s
  | .iiSltu d a imm => Sys2Proof.Machine.execIiSltu d a imm s
  | .iiShl d a h => Sys2Proof.Machine.execIiShl d a h s
  | .iiShr d a h => Sys2Proof.Machine.execIiShr d a h s
  | .iiSra d a h => Sys2Proof.Machine.execIiSra d a h s
  | .luHi d imm => Sys2Proof.Machine.execLuHi d imm s
  | .laPc d imm => Sys2Proof.Machine.execLaPc d imm s
  | .brEq a b o => Sys2Proof.Machine.execBrEq a b o s
  | .brNe a b o => Sys2Proof.Machine.execBrNe a b o s
  | .brLt a b o => Sys2Proof.Machine.execBrLt a b o s
  | .brGe a b o => Sys2Proof.Machine.execBrGe a b o s
  | .brLtu a b o => Sys2Proof.Machine.execBrLtu a b o s
  | .brGeu a b o => Sys2Proof.Machine.execBrGeu a b o s
  | .jl o => Sys2Proof.Machine.execJl o s
  | .jr d a imm => Sys2Proof.Machine.execJr d a imm s
  | .lpL0 a l => Sys2Proof.Machine.execLpL0 a l s
  | .lpL1 a l => Sys2Proof.Machine.execLpL1 a l s
  | .ldB d a o => Sys2Proof.Machine.execLdB d a o s
  | .ldBu d a o => Sys2Proof.Machine.execLdBu d a o s
  | .ldH d a o => Sys2Proof.Machine.execLdH d a o s
  | .ldHu d a o => Sys2Proof.Machine.execLdHu d a o s
  | .ldW d a o => Sys2Proof.Machine.execLdW d a o s
  | .ldWu d a o => Sys2Proof.Machine.execLdWu d a o s
  | .ldD d a o => Sys2Proof.Machine.execLdD d a o s
  | .ldBP d a o => Sys2Proof.Machine.execLdBP d a o s
  | .ldBuP d a o => Sys2Proof.Machine.execLdBuP d a o s
  | .ldHP d a o => Sys2Proof.Machine.execLdHP d a o s
  | .ldHuP d a o => Sys2Proof.Machine.execLdHuP d a o s
  | .ldWP d a o => Sys2Proof.Machine.execLdWP d a o s
  | .ldWuP d a o => Sys2Proof.Machine.execLdWuP d a o s
  | .ldDP d a o => Sys2Proof.Machine.execLdDP d a o s
  | .stB d a o => Sys2Proof.Machine.execStB d a o s
  | .stH d a o => Sys2Proof.Machine.execStH d a o s
  | .stW d a o => Sys2Proof.Machine.execStW d a o s
  | .stD d a o => Sys2Proof.Machine.execStD d a o s
  | .fsAdd d a b => Sys2Proof.Machine.execFsAdd d a b s
  | .fsSub d a b => Sys2Proof.Machine.execFsSub d a b s
  | .fsMul d a b => Sys2Proof.Machine.execFsMul d a b s
  | .fsDiv d a b => Sys2Proof.Machine.execFsDiv d a b s
  | .fsSqrt d a => Sys2Proof.Machine.execFsSqrt d a s
  | .fsFma d a b => Sys2Proof.Machine.execFsFma d a b s
  | .fsMin d a b => Sys2Proof.Machine.execFsMin d a b s
  | .fsMax d a b => Sys2Proof.Machine.execFsMax d a b s
  | .fsEq d a b => Sys2Proof.Machine.execFsEq d a b s
  | .fsLt d a b => Sys2Proof.Machine.execFsLt d a b s
  | .fsLe d a b => Sys2Proof.Machine.execFsLe d a b s
  | .fsCvti d a => Sys2Proof.Machine.execFsCvti d a s
  | .fsCvtf d a => Sys2Proof.Machine.execFsCvtf d a s
  | .fsCls d a => Sys2Proof.Machine.execFsCls d a s
  | .fsCvt d a => Sys2Proof.Machine.execFsCvt d a s
  | .qPush q a => Sys2Proof.Machine.execQPush q a s
  | .qPop d q => Sys2Proof.Machine.execQPop d q s
  | .qCnt d q => Sys2Proof.Machine.execQCnt d q s
  | .mdSet imm => Sys2Proof.Machine.execMdSet imm s
  | .mrPut a => Sys2Proof.Machine.execMrPut a s
  | .mrGet d => Sys2Proof.Machine.execMrGet d s
  | .syRd d x => Sys2Proof.Machine.execSyRd d x s
  | .syWr a x => Sys2Proof.Machine.execSyWr a x s
  | .syTrap c => Sys2Proof.Machine.execSyTrap c s
  | .syTime d => Sys2Proof.Machine.execSyTime d s
  | .syTlbinv a => Sys2Proof.Machine.execSyTlbinv a s
  | .syPgreq a => Sys2Proof.Machine.execSyPgreq a s
  | .syResume a => Sys2Proof.Machine.execSyResume a s
  | .syCtxsave a => Sys2Proof.Machine.execSyCtxsave a s
  | .syCtxrest a => Sys2Proof.Machine.execSyCtxrest a s
  | .syHalt a => Sys2Proof.Machine.execSyHalt a s
  | .syIntr a => Sys2Proof.Machine.execSyIntr a s
  | .brk c => Sys2Proof.Machine.execBrk c s
  | .vaAdd d a b => Sys2Proof.Machine.execVaAdd d a b s
  | .vaSub d a b => Sys2Proof.Machine.execVaSub d a b s
  | .vaMul d a b => Sys2Proof.Machine.execVaMul d a b s
  | .vaMulh d a b => Sys2Proof.Machine.execVaMulh d a b s
  | .vaFma d a b => Sys2Proof.Machine.execVaFma d a b s
  | .vaFms d a b => Sys2Proof.Machine.execVaFms d a b s
  | .vaFnma d a b => Sys2Proof.Machine.execVaFnma d a b s
  | .vaDiv d a b => Sys2Proof.Machine.execVaDiv d a b s
  | .vaSqrt d a => Sys2Proof.Machine.execVaSqrt d a s
  | .vaRsqrt d a => Sys2Proof.Machine.execVaRsqrt d a s
  | .vaRecip d a => Sys2Proof.Machine.execVaRecip d a s
  | .vaExp2 d a => Sys2Proof.Machine.execVaExp2 d a s
  | .vaLog2 d a => Sys2Proof.Machine.execVaLog2 d a s
  | .vaMin d a b => Sys2Proof.Machine.execVaMin d a b s
  | .vaMax d a b => Sys2Proof.Machine.execVaMax d a b s
  | .vaAbs d a => Sys2Proof.Machine.execVaAbs d a s
  | .vaNeg d a => Sys2Proof.Machine.execVaNeg d a s
  | .vaAnd d a b => Sys2Proof.Machine.execVaAnd d a b s
  | .vaOr d a b => Sys2Proof.Machine.execVaOr d a b s
  | .vaXor d a b => Sys2Proof.Machine.execVaXor d a b s
  | .vaShl d a b => Sys2Proof.Machine.execVaShl d a b s
  | .vaShr d a b => Sys2Proof.Machine.execVaShr d a b s
  | .vaSra d a b => Sys2Proof.Machine.execVaSra d a b s
  | .vaCvt d a => Sys2Proof.Machine.execVaCvt d a s
  | .vaMulw d a b => Sys2Proof.Machine.execVaMulw d a b s
  | .vaDotw d a b => Sys2Proof.Machine.execVaDotw d a b s
  | .vaClip d a b => Sys2Proof.Machine.execVaClip d a b s
  | .vmEq d a b => Sys2Proof.Machine.execVmEq d a b s
  | .vmNe d a b => Sys2Proof.Machine.execVmNe d a b s
  | .vmLt d a b => Sys2Proof.Machine.execVmLt d a b s
  | .vmLe d a b => Sys2Proof.Machine.execVmLe d a b s
  | .vmGt d a b => Sys2Proof.Machine.execVmGt d a b s
  | .vmGe d a b => Sys2Proof.Machine.execVmGe d a b s
  | .vmUnord d a b => Sys2Proof.Machine.execVmUnord d a b s
  | .vmAnd d a b => Sys2Proof.Machine.execVmAnd d a b s
  | .vmOr d a b => Sys2Proof.Machine.execVmOr d a b s
  | .vmXor d a b => Sys2Proof.Machine.execVmXor d a b s
  | .vmAndn d a b => Sys2Proof.Machine.execVmAndn d a b s
  | .vmNot d a => Sys2Proof.Machine.execVmNot d a s
  | .vmPop d a => Sys2Proof.Machine.execVmPop d a s
  | .vmFirst d a => Sys2Proof.Machine.execVmFirst d a s
  | .vmFill d a => Sys2Proof.Machine.execVmFill d a s
  | .vpMv d a => Sys2Proof.Machine.execVpMv d a s
  | .vpBcast d b => Sys2Proof.Machine.execVpBcast d b s
  | .vpIota d => Sys2Proof.Machine.execVpIota d s
  | .vpSlup d a b => Sys2Proof.Machine.execVpSlup d a b s
  | .vpSldn d a b => Sys2Proof.Machine.execVpSldn d a b s
  | .vpPerm d a b => Sys2Proof.Machine.execVpPerm d a b s
  | .vpCompress d a => Sys2Proof.Machine.execVpCompress d a s
  | .vpSel d a b => Sys2Proof.Machine.execVpSel d a b s
  | .vpRsum d a => Sys2Proof.Machine.execVpRsum d a s
  | .vpRmax d a => Sys2Proof.Machine.execVpRmax d a s
  | .vpRmin d a => Sys2Proof.Machine.execVpRmin d a s
  | .vpExt a b => Sys2Proof.Machine.execVpExt a b s
  | .vpIns d b => Sys2Proof.Machine.execVpIns d b s
  | .vlSet d a => Sys2Proof.Machine.execVlSet d a s
  | .vlGet d => Sys2Proof.Machine.execVlGet d s
  | .vfGo o => Sys2Proof.Machine.execVfGo o s
  | .vldU d a eo ov p => Sys2Proof.Machine.execVldU d a eo ov p s
  | .vldS d a b eo ov p => Sys2Proof.Machine.execVldS d a b eo ov p s
  | .vldX d a b eo ov p => Sys2Proof.Machine.execVldX d a b eo ov p s
  | .vstU d a eo ov => Sys2Proof.Machine.execVstU d a eo ov s
  | .vstS d a b eo ov => Sys2Proof.Machine.execVstS d a b eo ov s
  | .vstX d a b eo ov => Sys2Proof.Machine.execVstX d a b eo ov s
  | .vbDecl d a => Sys2Proof.Machine.execVbDecl d a s
  | .vbLd a b => Sys2Proof.Machine.execVbLd a b s
  | .vbTake d => Sys2Proof.Machine.execVbTake d s
  | .vbFree d => Sys2Proof.Machine.execVbFree d s
  | .mxShape a => Sys2Proof.Machine.execMxShape a s
  | .mxZero d => Sys2Proof.Machine.execMxZero d s
  | .mxOpa d a b => Sys2Proof.Machine.execMxOpa d a b s
  | .mxOpaSa d a b => Sys2Proof.Machine.execMxOpaSa d a b s
  | .mxOpaSb d a b => Sys2Proof.Machine.execMxOpaSb d a b s
  | .mxOpaSs d a b => Sys2Proof.Machine.execMxOpaSs d a b s
  | .mxRd d a b => Sys2Proof.Machine.execMxRd d a b s
  | .mxWr d a b => Sys2Proof.Machine.execMxWr d a b s
  | .mxLd d a b => Sys2Proof.Machine.execMxLd d a b s
  | .mxSt d a b => Sys2Proof.Machine.execMxSt d a b s
  | .mxWait d => Sys2Proof.Machine.execMxWait d s
  | .mxCvt d => Sys2Proof.Machine.execMxCvt d s
  | .tnDef a b => Sys2Proof.Machine.execTnDef a b s
  | .tnInv a => Sys2Proof.Machine.execTnInv a s
  | .tnRd d a b => Sys2Proof.Machine.execTnRd d a b s
  | .tnTld d a b => Sys2Proof.Machine.execTnTld d a b s
  | .tnTst d a b => Sys2Proof.Machine.execTnTst d a b s
  | .tnPack a b => Sys2Proof.Machine.execTnPack a b s
  | .tnUnpack a b => Sys2Proof.Machine.execTnUnpack a b s
  | .trTurn l a b => Sys2Proof.Machine.execTrTurn l a b s
  | .trInval l a b => Sys2Proof.Machine.execTrInval l a b s
  | .trAcq d a b => Sys2Proof.Machine.execTrAcq d a b s
  | .trRel d a b => Sys2Proof.Machine.execTrRel d a b s
  | .trRetain d a b => Sys2Proof.Machine.execTrRetain d a b s
  | .trUnpin a => Sys2Proof.Machine.execTrUnpin a s
  | .trLock d a => Sys2Proof.Machine.execTrLock d a s
  | .trUnlock a => Sys2Proof.Machine.execTrUnlock a s
  | .atAdd d a b nr r ac => Sys2Proof.Machine.execAtAdd d a b nr r ac s
  | .atAnd d a b nr r ac => Sys2Proof.Machine.execAtAnd d a b nr r ac s
  | .atOr d a b nr r ac => Sys2Proof.Machine.execAtOr d a b nr r ac s
  | .atXor d a b nr r ac => Sys2Proof.Machine.execAtXor d a b nr r ac s
  | .atMin d a b nr r ac => Sys2Proof.Machine.execAtMin d a b nr r ac s
  | .atMax d a b nr r ac => Sys2Proof.Machine.execAtMax d a b nr r ac s
  | .atMinu d a b nr r ac => Sys2Proof.Machine.execAtMinu d a b nr r ac s
  | .atMaxu d a b nr r ac => Sys2Proof.Machine.execAtMaxu d a b nr r ac s
  | .atSwap d a b nr r ac => Sys2Proof.Machine.execAtSwap d a b nr r ac s
  | .atCas d a b r => Sys2Proof.Machine.execAtCas d a b r s
  | .atFadd d a b nr r ac => Sys2Proof.Machine.execAtFadd d a b nr r ac s
  | .atFmin d a b nr r ac => Sys2Proof.Machine.execAtFmin d a b nr r ac s
  | .atFmax d a b nr r ac => Sys2Proof.Machine.execAtFmax d a b nr r ac s
  | .vatAdd d a b nr r ac => Sys2Proof.Machine.execVatAdd d a b nr r ac s
  | .vatAnd d a b nr r ac => Sys2Proof.Machine.execVatAnd d a b nr r ac s
  | .vatOr d a b nr r ac => Sys2Proof.Machine.execVatOr d a b nr r ac s
  | .vatXor d a b nr r ac => Sys2Proof.Machine.execVatXor d a b nr r ac s
  | .vatMin d a b nr r ac => Sys2Proof.Machine.execVatMin d a b nr r ac s
  | .vatMax d a b nr r ac => Sys2Proof.Machine.execVatMax d a b nr r ac s
  | .vatMinu d a b nr r ac => Sys2Proof.Machine.execVatMinu d a b nr r ac s
  | .vatMaxu d a b nr r ac => Sys2Proof.Machine.execVatMaxu d a b nr r ac s
  | .vatSwap d a b nr r ac => Sys2Proof.Machine.execVatSwap d a b nr r ac s
  | .vatFadd d a b nr r ac => Sys2Proof.Machine.execVatFadd d a b nr r ac s
  | .vatFmin d a b nr r ac => Sys2Proof.Machine.execVatFmin d a b nr r ac s
  | .vatFmax d a b nr r ac => Sys2Proof.Machine.execVatFmax d a b nr r ac s
  | .cfTsb d a => Sys2Proof.Machine.execCfTsb d a s
  | .cfTst d a => Sys2Proof.Machine.execCfTst d a s
  | .cfClr a => Sys2Proof.Machine.execCfClr a s
  | .cfRd d a => Sys2Proof.Machine.execCfRd d a s
  | .cfWr a b => Sys2Proof.Machine.execCfWr a b s
  | .cfArrive a => Sys2Proof.Machine.execCfArrive a s
  | .cfWait a => Sys2Proof.Machine.execCfWait a s
  | .cfSync a => Sys2Proof.Machine.execCfSync a s
  | .cfTwait d a b => Sys2Proof.Machine.execCfTwait d a b s
  | .cfCfg a b => Sys2Proof.Machine.execCfCfg a b s
  | .cpSet k a x => Sys2Proof.Machine.execCpSet k a x s
  | .cpGo d k => Sys2Proof.Machine.execCpGo d k s
  | .cpWait k b => Sys2Proof.Machine.execCpWait k b s
  | .cpMask m k => Sys2Proof.Machine.execCpMask m k s
  | .cpCbacq d k => Sys2Proof.Machine.execCpCbacq d k s
  | .cpCbrel k => Sys2Proof.Machine.execCpCbrel k s
  | .cpCbcfg k b => Sys2Proof.Machine.execCpCbcfg k b s
  | .cpStat d k => Sys2Proof.Machine.execCpStat d k s
  | .xrRed d a => Sys2Proof.Machine.execXrRed d a s
  | .xrPub a => Sys2Proof.Machine.execXrPub a s
  | .xrSub d a b => Sys2Proof.Machine.execXrSub d a b s
  | .xrWaitv a b => Sys2Proof.Machine.execXrWaitv a b s
  | .lnGo d a => Sys2Proof.Machine.execLnGo d a s
  | .lnStat d a => Sys2Proof.Machine.execLnStat d a s
  | .illegalWord w => Sys2Proof.Machine.execIllegalWord w s
  | .syEret => Sys2Proof.Machine.execSyEret s
  | .syFenceAll => Sys2Proof.Machine.execSyFenceAll s
  | .syFenceLd => Sys2Proof.Machine.execSyFenceLd s
  | .syFenceSt => Sys2Proof.Machine.execSyFenceSt s
  | .syFenceVec => Sys2Proof.Machine.execSyFenceVec s
  | .syFenceEng => Sys2Proof.Machine.execSyFenceEng s
  | .syFenceMat => Sys2Proof.Machine.execSyFenceMat s
  | .syEnd => Sys2Proof.Machine.execSyEnd s
  | .syYield => Sys2Proof.Machine.execSyYield s
  | .vfEnd => Sys2Proof.Machine.execVfEnd s
  | .qdeadlockDetect uid => Sys2Proof.Machine.execQdeadlockDetect uid s
  | .modeWrite v => Sys2Proof.Machine.execModeWrite v s
  | .stsWrite v => Sys2Proof.Machine.execStsWrite v s
  | .flagsWrite v => Sys2Proof.Machine.execFlagsWrite v s
  | .seedWrite v => Sys2Proof.Machine.execSeedWrite v s
  | .lendWrite k v => Sys2Proof.Machine.execLendWrite k v s
  | .ecauseWrite v => Sys2Proof.Machine.execEcauseWrite v s
  | .tshapeWrite v => Sys2Proof.Machine.execTshapeWrite v s
  | .fqtailWrite v => Sys2Proof.Machine.execFqtailWrite v s
  | .stripFilled uid buf => Sys2Proof.Machine.execStripFilled uid buf s
  | .tokenGrant tok => Sys2Proof.Machine.execTokenGrant tok s
  | .twaitTimeout uid => Sys2Proof.Machine.execTwaitTimeout uid s
  | .barrierPhaseDelivery uid => Sys2Proof.Machine.execBarrierPhaseDelivery uid s
  | .transferStart uid ch => Sys2Proof.Machine.execTransferStart uid ch s
  | .chunkComplete uid ch chunk => Sys2Proof.Machine.execChunkComplete uid ch chunk s
  | .flashBlockCheck uid ch block => Sys2Proof.Machine.execFlashBlockCheck uid ch block s
  | .collectiveMessage msg => Sys2Proof.Machine.execCollectiveMessage msg s
  | .waitvRecheck uid => Sys2Proof.Machine.execWaitvRecheck uid s
  | .crewPlace part quad base => Sys2Proof.Machine.execCrewPlace part quad base s
  | .schedulerPreempt part => Sys2Proof.Machine.execSchedulerPreempt part s
  | .crewRestore crew quad base => Sys2Proof.Machine.execCrewRestore crew quad base s
  | .dependencePoll handle => Sys2Proof.Machine.execDependencePoll handle s
  | .completionWordWrite handle => Sys2Proof.Machine.execCompletionWordWrite handle s
  | .strandRestart part => Sys2Proof.Machine.execStrandRestart part s
  | .faultQueueWrite part => Sys2Proof.Machine.execFaultQueueWrite part s
  | .mirrorDelivery eff => Sys2Proof.Machine.execMirrorDelivery eff s
  | .spanBoundary quad => Sys2Proof.Machine.execSpanBoundary quad s
  | .platformRelease quad => Sys2Proof.Machine.execPlatformRelease quad s
  | .strikeReport quad => Sys2Proof.Machine.execStrikeReport quad s
  | .rollbackComplete quad => Sys2Proof.Machine.execRollbackComplete quad s
  | .sliceRequest req => Sys2Proof.Machine.execSliceRequest req s
  | .requestRetry req => Sys2Proof.Machine.execRequestRetry req s
  | .sliceFillArrival line => Sys2Proof.Machine.execSliceFillArrival line s
  | .stationCombine passing waiting => Sys2Proof.Machine.execStationCombine passing waiting s
  | .replySplit req => Sys2Proof.Machine.execReplySplit req s
  | .flitCrcFail segment => Sys2Proof.Machine.execFlitCrcFail segment s
  | .segmentRetire segment => Sys2Proof.Machine.execSegmentRetire segment s
  | .bucketMoveStart bucket slice => Sys2Proof.Machine.execBucketMoveStart bucket slice s
  | .bucketMoveFinish bucket => Sys2Proof.Machine.execBucketMoveFinish bucket s
  | .heatHalving => Sys2Proof.Machine.execHeatHalving s
  | .hostRead pa n => Sys2Proof.Machine.execHostRead pa n s
  | .hostWrite pa bytes => Sys2Proof.Machine.execHostWrite pa bytes s
  | .msixUnmask vec => Sys2Proof.Machine.execMsixUnmask vec s
  | .datagramData dg => Sys2Proof.Machine.execDatagramData dg s
  | .datagramSignal dg => Sys2Proof.Machine.execDatagramSignal dg s
  | .datagramAck part sep seq => Sys2Proof.Machine.execDatagramAck part sep seq s
  | .datagramRefusal part sep seq => Sys2Proof.Machine.execDatagramRefusal part sep seq s
  | .datagramRetransmit part sep seq => Sys2Proof.Machine.execDatagramRetransmit part sep seq s
  | .frameDrop port => Sys2Proof.Machine.execFrameDrop port s
  | .pauseFrame port frame => Sys2Proof.Machine.execPauseFrame port frame s
  | .droopTrip island => Sys2Proof.Machine.execDroopTrip island s
  | .droopClear island => Sys2Proof.Machine.execDroopClear island s
  | .quadAgingFlag quad => Sys2Proof.Machine.execQuadAgingFlag quad s
  | .noprePreemptTimeout quad => Sys2Proof.Machine.execNoprePreemptTimeout quad s
  | .quadSpareCopy quad => Sys2Proof.Machine.execQuadSpareCopy quad s
  | .moduleReset => Sys2Proof.Machine.execModuleReset s
  | .attest tag nonce => Sys2Proof.Machine.execAttest tag nonce s
  | .partitionSet tag body => Sys2Proof.Machine.execPartitionSet tag body s
  | .partitionLend tag part borrower quads => Sys2Proof.Machine.execPartitionLend tag part borrower quads s
  | .partitionRecall tag part borrower quads => Sys2Proof.Machine.execPartitionRecall tag part borrower quads s
  | .register tag part ssd raw nsid slba => Sys2Proof.Machine.execRegister tag part ssd raw nsid slba s
  | .unregister tag handle => Sys2Proof.Machine.execUnregister tag handle s
  | .status tag => Sys2Proof.Machine.execStatus tag s
  | .extend tag slot digest => Sys2Proof.Machine.execExtend tag slot digest s
  | .start tag part lpb => Sys2Proof.Machine.execStart tag part lpb s
  | .endpointSet tag part idx ep => Sys2Proof.Machine.execEndpointSet tag part idx ep s
  | .endpointClear tag part idx => Sys2Proof.Machine.execEndpointClear tag part idx s
  | .grant tag part idx gr => Sys2Proof.Machine.execGrant tag part idx gr s
  | .revoke tag part idx => Sys2Proof.Machine.execRevoke tag part idx s
  | .localAddress tag port mac addr6 => Sys2Proof.Machine.execLocalAddress tag port mac addr6 s
  | .keyGenerate tag keyid => Sys2Proof.Machine.execKeyGenerate tag keyid s
  | .keyBind tag keyid hslot base len => Sys2Proof.Machine.execKeyBind tag keyid hslot base len s
  | .keyUnbind tag hslot => Sys2Proof.Machine.execKeyUnbind tag hslot s
  | .malformedRequest tag kind detail => Sys2Proof.Machine.execMalformedRequest tag kind detail s
  | .replyArrival req => Sys2Proof.Machine.execReplyArrival req s
  | .subscriptionRegistration sub => Sys2Proof.Machine.execSubscriptionRegistration sub s
  | .publicationDelivery pubid slot => Sys2Proof.Machine.execPublicationDelivery pubid slot s
  | .subscriberDrop pubid slot => Sys2Proof.Machine.execSubscriberDrop pubid slot s
  | .sliceRetire slice spare => Sys2Proof.Machine.execSliceRetire slice spare s
  | .laneReplace link lane => Sys2Proof.Machine.execLaneReplace link lane s
  | .hbmRowRepair base len => Sys2Proof.Machine.execHbmRowRepair base len s
  | .nvmeError uid ch block => Sys2Proof.Machine.execNvmeError uid ch block s

end Sys2Proof.Machine
end

