-- ==== Sys2Proof/Machine/Sched.lean ====
section
/-! DEFINITION. Who moves next: the agenda's entries, the current strand's front end and streams, and what the module does
when no strand can go on (log 4, log 5). -/

namespace Sys2Proof.Machine

/-! ### Agenda entries (log 4) -/

/-- An event that an agent of the module raises by itself, as opposed to a word or to the effect of a register write. -/
def agentEvent (i : Instr) : Bool :=
  (encode i).isNone &&
  (match i with
   | .modeWrite _ | .stsWrite _ | .flagsWrite _ | .seedWrite _ | .lendWrite _ _ | .ecauseWrite _ | .tshapeWrite _
   | .fqtailWrite _ | .illegalWord _ => false
   | _ => true)

/-- An agenda entry names units that exist. -/
def Act.ok (a : Act) : Bool :=
  match a with
  | .ev i => agentEvent i && i.wf
  | .poison _ m => decide (m.kind ≤ 4) && decide (m.reg < 32)
  | .farDelivery dev pubid _ _ => decide (dev < 64) && decide (pubid < 1024)
  | .board straps nssd spares _ => decide (straps < 64) && decide (nssd ≤ 16) && decide (spares.length = 4) &&
      spares.all (fun n => decide (n ≤ 4))
  | .drive ssd _ _ off bytes => decide (ssd < 16) && decide (off + bytes.length ≤ 4096)
  | .portPauses port _ => decide (port < 8)
  | .maskVector vec => decide (vec < 2048)
  | .ckptFail quad _ => decide (quad < 144)
  | .keptFail quad => decide (quad < 144)
  | .evict core _ => core.elim true (fun c => decide (c < 4))
  | .drain core _ => core.elim true (fun c => decide (c < 4))
  | .evictAtom core _ => decide (core < 4)
  | .podArrive bar => decide (bar < 8)
  | .podConfig bar count => decide (bar < 8) && decide (count ≤ 1048575)
  | .podWithdraw bar _ => decide (bar < 8)
  | .peers links _ => links.all (fun d => decide (d < 64))
  | .peerRead dev pa n => decide (dev < 64) && decide (pa + n ≤ 2 ^ 46)
  | .peerWrite dev pa bytes => decide (dev < 64) && decide (pa + bytes.length ≤ 2 ^ 46)
  | .peerAtomic dev quad core pa grain op width _ _ scope _ => decide (dev < 64) && decide (quad < 144) && decide (core < 4) &&
      decide (pa < 2 ^ 46) && (grain == 32 || grain == 128 || grain == 512) && (width == 32 || width == 64) && pa % (width / 8) == 0 &&
      decide (op ≤ 12) && decide (3 ≤ scope) && decide (scope ≤ 5)
  | .routes rs => rs.all (fun r => decide (r.1 < 64) && decide (r.2.1 < 16) && decide (r.2.2 < 18))
  | .barWrite off bytes => decide (off + bytes.length ≤ 2 ^ 16)
  | .barRead off n => decide (off + n ≤ 2 ^ 16)
  | .mismatch unit_ index => decide (unit_ ≤ 3) && (unit_ != 0 || index == 0) && decide (index < if unit_ = 2 then 32 else 256)
  | _ => true

/-- Moves an outbound byte of the current quad one stage outward: from a core's buffer into the quad outbound cache or the scratchpad,
and from there toward its home (R220, R228, R288, R298). -/
def State.drainByte (s : State) (core : Option Nat) (key : Nat) : State :=
  let bs := s.quad.d.out.filter (fun b => b.core == core && b.key == key && b.sent.isNone)
  match core with
  | some c => s.drainCore s.quad.id c bs
  | none => s.drainHome s.quad.id bs

/-- A sector of the current quad's caches is found poisoned (R398). -/
def State.spoilQuad (s : State) (key : Nat) : State :=
  s.modQ (fun q => { q with
    copies := q.copies.map (fun c => if c.hits key 1 ∧ !c.bad.contains (key / 32) then { c with bad := key / 32 :: c.bad } else c)
    out := q.out.map (fun b => if b.key / 32 = key / 32 then { b with bad := true } else b) })

/-- A strand that may issue: it runs, and its quad does not roll back (R416). -/
def State.mayRun (s : State) (x : Strand) : Bool := x.status == .running && !(s.getQuad x.ident.quad).rolling

/-- A strand that stops before its next instruction: its crew is being taken, or its partition halts (R404, R406, R445). -/
def State.mustStop (s : State) (x : Strand) : Bool :=
  (((s.crewOf x.ident.crew).elim false (·.stopping)) || ((s.part? x.ident.part).elim false (·.halted))) && !s.inReduction x

/-! ### The current strand (R92, R114) -/

/-- Decodes a word and runs it; what does not decode raises ILLEGAL (R18). -/
def runWordAt (w : IWord) (s : State) : Host.Outcome State Fault Refusal :=
  match decode w with
  | .ok i => exec i s
  | .error _ => execIllegalWord w s

/-- The front end fetches the word at the PC and runs it (R92); a fetch that faults traps or parks. -/
def frontStep (s : State) : Host.Outcome State Fault Refusal :=
  let s1 := s.modCur (fun x => { x with waiting := false })
  match (fetchWord s.cur.sc.pc).run s1 with
  | .ok w t => runWordAt w t
  | .error st t => .next (s1.stopFrom t st)

/-- The head of a stream is executed; one that waits holds its stream back, and the front end goes on (R114). -/
def streamStep (k : Nat) (s : State) : Host.Outcome State Fault Refusal :=
  let s1 := (s.enterStream k).modCur (fun x => { x with waiting := false })
  match s1.headEntry with
  | none => .next s
  | some e =>
    match exec e.instr s1 with
    | .next t =>
      if t.cur.waiting ∧ t.cur.uid = s.cur.uid then
        .next (t.modCur (fun x => if k = 1 then { x with waiting := false, vHold := true } else { x with waiting := false, mHold := true }))
      else .next t
    | .fault r => .fault r
    | .refused r => .refused r

/-- The current strand's next move: the older of the stream heads that can be executed, otherwise its front end. -/
def strandStep (s : State) : Host.Outcome State Fault Refusal :=
  match s.cur.vReady, s.cur.mReady with
  | true, true =>
    match s.cur.vq.head?, s.cur.mq.head? with
    | some a, some b => if a.seq < b.seq then streamStep 1 s else streamStep 2 s
    | _, _ => frontStep s
  | true, false => streamStep 1 s
  | false, true => streamStep 2 s
  | false, false => frontStep s

/-! ### Protected mode (R421 to R423) -/

/-- The current strand's oldest instruction that has not completed, when it is one that commits element by element (R396). -/
def State.byElement (s : State) : Option Instr :=
  let only (e : Entry) : Option Instr := if runsWhole e.instr then none else some e.instr
  match s.cur.oldest with
  | some e => if s.cur.vq.any (fun k => k.seq == e.seq) then only e else none
  | none =>
    match frontStep (s.modCur (fun x => { x with vHold := true })) with
    | .next t => t.cur.vq.getLast?.bind only
    | _ => none

/-- A repeated mismatch raises MIRROR (R422, R423): the instruction's elements below the one at fault are committed (R396). -/
def State.mirrorTrap (s : State) (unit_ index : Nat) : State :=
  let s1 := match s.cur.oldest with | some e => s.unwind e | none => s
  let elt := decide (unit_ = 1) || decide (unit_ = 3)
  let trap (t : State) : State :=
    t.trapEntry ⟨cMIRROR, t.cur.sc.pc, w64 (index * 2 ^ 8 + unit_), if elt then index else 0, 15, false⟩
  match (if elt && decide (s1.cur.rstix.toNat < index) then s.byElement else none) with
  | none => trap s1
  | some i =>
    match exec i (s1.modCur (fun x => { x with vHold := false, sc := { x.sc with vlc := min x.sc.vlc index } })) with
    | .next t =>
      if t.cur.uid ≠ s.cur.uid ∨ t.cur.waiting then s
      else if t.cur.sc.icount = s1.cur.sc.icount then t.modSc (fun c => { c with vlc := s1.cur.sc.vlc })
      else trap (t.modSc (fun c => carry s1.cur.sc c none s1.cur.sc))
    | _ => s

/-- The two halves of the current strand's oldest instruction differ at a unit and index (R422): a mismatch of the same instance at the
same element or row raises MIRROR, any other one is a strike. -/
def State.halvesDiffer (s : State) (unit_ index : Nat) : State :=
  if !s.cur.sc.prot || s.cur.status != .running || s.quad.rolling then s
  else
    let s := s.ageMirRecs
    let inst := match s.cur.oldest with | some e => e.snap.icount | none => s.cur.sc.icount
    let r : MirRec := { uid := s.cur.uid, inst := inst, unit_ := unit_, index := index }
    if s.mirRecs.any (fun k => k.uid == r.uid && k.inst == inst && k.index == index) then s.mirrorTrap unit_ index
    else ({ s with mirRecs := r :: s.mirRecs.filter (fun k => k.uid != s.cur.uid) }).strike s.quad.id

/-! ### A strand that ends or stops (R264, R313, R404) -/

/-- Runs the head of a stream of a strand that ends; none when it has to wait. -/
def tryHead (k : Nat) (s : State) : Option State :=
  match streamStep k s with
  | .next t =>
    let u := t.modCur (fun x => { x with vHold := false, mHold := false, waiting := false })
    if u = s then none else some u
  | _ => none

/-- The streams of a strand that ends are emptied: heads that can run do, the older first (R263). -/
def drainHeads (s : State) : Option State :=
  let a := if s.cur.vReady then s.cur.vq.head? else none
  let b := if s.cur.mReady then s.cur.mq.head? else none
  match a, b with
  | some x, some y => if x.seq < y.seq then (tryHead 1 s).orElse (fun _ => tryHead 2 s) else (tryHead 2 s).orElse (fun _ => tryHead 1 s)
  | some _, none => tryHead 1 s
  | none, some _ => tryHead 2 s
  | none, none => none

/-- The current strand, which ends without `sy.end`, makes the next of R263's steps: its streams empty; its transfers complete; what
it stored turns home, and under SYSREL on to the host (R451); nothing of it is held on the platform; it retires. What waits for an instruction that it will not pass is
abandoned (R264; log 27). -/
def State.endCur (s : State) : State :=
  let x := s.cur
  if s.tokReqs.any (fun r => r.uid == x.uid) || s.pendingEff x.uid EffKind.recalled then s.withdrawReqs x.uid
  else
    match drainHeads s with
    | some t => t
    | none =>
      if s.awaits x && (match x.handed with | some h => h.reply.isNone | none => false) || (x.ring.elim false (·.filling)) then s
      else
        match x.oldest with
        | some e => s.unwind e
        | none =>
          let sys := ((s.crewOf x.ident.crew).bind (fun c => s.launchOf c.launch)).elim false (·.sysrel)
          if x.chans.any (fun c => !c.xfers.isEmpty) || s.inReduction x || s.pubRuns.any (fun r => r.uid == x.uid) then s
          else if !x.pend.isEmpty then s.turnAllHome x.uid sys
          else if s.owesHome x || s.busyOut x.uid || s.isAhead x.uid then s
          else if sys && !(s.hostOwes x.uid).isEmpty then s.writeOut x.uid
          else s.endFaulted x.uid

/-- A strand that has stopped, and whose request has been answered, completes that instruction before its context is saved (R313,
R404). -/
def State.completeCur (s : State) : State :=
  match s.cur.handed with
  | some h =>
    if h.reply.isNone then s
    else
      match frontStep s with
      | .next t => t.modCur (fun x => { x with handed := if x.handed = some h then none else x.handed, waiting := false })
      | _ => s
  | none => s

/-- What strands that end or have stopped do. -/
def stoppedMoves (s : State) : List (State → State) :=
  s.all.filterMap (fun x =>
    if (s.getQuad x.ident.quad).rolling then none
    else if x.status = .ending then some (fun (s : State) => s.as x.uid State.endCur)
    else if x.status = .halted ∧ x.handed.isSome then some (fun (s : State) => s.as x.uid State.completeCur)
    else none)

/-! ### The module when no strand moves (log 4, log 5) -/

/-- What an event leaves. -/
def happen (f : State → Host.Outcome State Fault Refusal) (s : State) : State :=
  match f s with
  | .next t => t
  | _ => s

/-- A change that changes something. -/
def changed (f : State → State) (s : State) : Option State :=
  let t := f s
  if t = s then none else some t

/-- Every quad in use. -/
def State.allQuads (s : State) : List Quad := s.quad :: s.quads

/-- What requests on the fabric can do (R322 to R340). -/
def fabricMoves (s : State) : List (State → State) :=
  let ids := s.reqs.map (·.eff.id)
  ids.flatMap (fun i => [happen (execReplySplit i), happen (execReplyArrival i), happen (execMirrorDelivery i)]) ++
  s.fills.map (fun l => happen (execSliceFillArrival l)) ++
  s.flushes.map (fun l => fun (s : State) => s.endFlush l) ++
  s.buckets.map (fun b => happen (execBucketMoveFinish b.idx)) ++
  ids.map (fun i => happen (execSliceRequest i)) ++
  ids.map (fun i => happen (execRequestRetry i)) ++
  s.reqs.filterMap (fun r =>
    match r.eff.kind with
    | .sub _ k => some (happen (execSubscriptionRegistration { k with uid := some r.eff.uid }))
    | _ => none) ++
  s.parts.map (fun p => happen (execFaultQueueWrite p.id)) ++
  [happen execHeatHalving]

/-- What quads and engines can do. -/
def quadMoves (s : State) : List (State → State) :=
  s.allQuads.flatMap (fun q =>
    [happen (execPlatformRelease q.id), happen (execRollbackComplete q.id), fun (s : State) => s.pumpQuad q.id]) ++
  s.all.flatMap (fun x => if x.ring.isSome then (List.range 8).map (fun b => happen (execStripFilled x.uid b)) else []) ++
  s.all.filterMap (fun x =>
    if x.status = .depot ∨ x.barRecs.map (fun r => BarRec.see s.timer (s.bar r.bar) r) = x.barRecs then none
    else some (happen (execBarrierPhaseDelivery x.uid))) ++
  s.pubs.map (fun p => fun (s : State) => s.pumpPub p.id) ++
  s.tokReqs.map (fun r => happen (execTokenGrant r.idx))

/-- What the scheduler can do (R259, R262, R265, R267, R402). -/
def schedulerMoves (s : State) : List (State → State) :=
  s.launches.flatMap (fun l => [happen (execCompletionWordWrite l.handle), happen (execDependencePoll l.handle)]) ++
  s.parts.flatMap (fun p =>
    [happen (execStrandRestart p.id), fun (s : State) => s.saveStopped (fun c => c.part == p.id),
     fun (s : State) => (s.pickLaunch p.id).elim s (fun l => s.serve l none), happen (execSchedulerPreempt p.id)])

/-- The next bring-up step (R466). -/
def State.bootNext (s : State) : State :=
  if s.lodge.step < 8 ∧ s.lodge.stat = 0 then State.boot [s.lodge.step + 1] s else s

/-- The lodge serves the request that waits first, when it can be completed (R469). -/
def State.serveRequest (s : State) : State :=
  match s.lodge.waiting with
  | [] => s
  | r :: rs =>
    let t := happen r.run { s with lodge := { s.lodge with waiting := [] } }
    { t with lodge := { t.lodge with waiting := t.lodge.waiting ++ rs } }

/-- Every strand may be tried again. -/
def State.untry (s : State) : State := s.mapStrands (fun x => if x.tried then { x with tried := false } else x)

/-- The first thing that an agent of the module can do by itself. -/
def State.progress (s : State) : Option State :=
  ((fabricMoves s ++ stoppedMoves s ++ quadMoves s ++ schedulerMoves s ++ [State.serveRequest, State.bootNext]).findSome? (fun f => changed f s)).map State.untry

/-! ### Time (R124, R330, R410, R413) -/

/-- The heat counts are halved as often as 64 µs have passed (R330). -/
def State.cool (s : State) : State :=
  let k := s.timer / 64000 - s.heatTick / 64000
  if k = 0 then s
  else
    { s with
      heatTick := s.timer / 64000 * 64000
      heat := (s.heat.map (fun (h : Heat) => { h with count := h.count / 2 ^ k })).filter (fun h => h.count != 0) }

/-- The timer comes to a tick: what is due on the platforms leaves, and at a span boundary every quad takes its checkpoint (R410, R413). -/
def State.atTick (s : State) (t : Nat) : State :=
  let ids := s.allQuads.map (·.id)
  let s1 := ids.foldl (fun (s : State) q => s.releaseDue q) { s with timer := t }
  ids.foldl (fun (s : State) q => happen (execSpanBoundary q) s) s1

/-- The ticks up to n at which something happens by itself: releases, and the last three span boundaries (R410, R413). -/
def State.ticksTo (s : State) (n : Nat) : List Nat :=
  let spans := (List.range 3).map (fun i => 128 * (n / 128 - i))
  let due := s.allQuads.flatMap (fun q => q.plat.map (·.tick))
  (sortBy (fun a b => decide (a ≤ b)) (spans ++ due)).eraseDups.filter (fun t => decide (s.timer < t) && decide (t ≤ n))

/-- Time passes to a tick: releases, checkpoints and halvings that fall due on the way happen, and pauses of the ports end (R330, R410,
R413, R446). -/
def State.passTo (s : State) (n : Nat) : State :=
  let s1 := { (s.ticksTo n).foldl State.atTick s with timer := n }.cool
  if s.ports.any (fun p => p.paused.any (fun e => decide (s.timer < e.2) && decide (e.2 ≤ n))) then s1.pumpNet else s1

/-- The next tick at which something is due: an effect's release, the tick after a deadline, or the end of a pause. -/
def State.nextTick (s : State) : Option Nat :=
  let due := s.allQuads.flatMap (fun q => q.plat.map (·.tick)) ++ s.ports.flatMap (fun p => p.paused.map (·.2)) ++
    s.all.filterMap (fun x => if x.status = .running then x.deadline.map (fun t => t.deadline + 1) else none)
  (due.filter (fun t => decide (s.timer < t))).foldl (fun (m : Option Nat) t =>
    match m with | some k => some (min k t) | none => some t) none

/-- After an instruction: a strand that does not wait has not been tried again; and every sixty-fourth time 16 ns pass, the module's
agents act once and another strand takes its turn (log 4). -/
def State.breathe (s : State) : State :=
  let s := if s.cur.waiting then s else s.modCur (fun x => { x with tried := false })
  if s.cur.sc.icount % 64 = 63 then
    let s := s.passTo ((s.timer + 16) % 2 ^ 64)
    let t := s.progress.getD s
    match t.strands.find? (fun x => t.mayRun x) with
    | some x => (t.select x.uid).modCur (fun x => { x with waiting := false, vHold := false, mHold := false })
    | none => t
  else s

/-- `breathe` after an outcome. -/
def breatheOut (o : Host.Outcome State Fault Refusal) : Host.Outcome State Fault Refusal :=
  match o with
  | .next t => .next t.breathe
  | .fault r => .fault r
  | .refused r => .refused r

/-- Tries the current strand's waiting instruction again, its streams no longer held. -/
def State.retry (s : State) : Host.Outcome State Fault Refusal :=
  breatheOut (strandStep (s.modCur (fun x => { x with vHold := false, mHold := false, tried := true })))

/-- A waiting strand that has not been tried again since something last changed. -/
def State.untried (s : State) (x : Strand) : Bool := s.mayRun x && x.waiting && !x.tried

/-- The module moves when the current strand cannot: another strand is chosen, an agent acts, a waiting strand tries again,
or time passes to the next tick at which something is due. -/
def idle (s : State) : Host.Outcome State Fault Refusal :=
  match s.strands.find? (fun x => s.mayRun x && !x.waiting) with
  | some x => .next (s.select x.uid)
  | none =>
    match s.progress with
    | some t => .next t
    | none =>
      if s.untried s.cur then s.retry
      else
        match s.strands.find? (fun x => s.untried x) with
        | some x => (s.select x.uid).retry
        | none =>
          match s.nextTick with
          | some n => .next (s.passTo n).untry
          | none => .next s.untry

/-- The move when the agenda is empty. -/
def advanceModule (s : State) : Host.Outcome State Fault Refusal :=
  if s.mayRun s.cur && s.mustStop s.cur then .next (s.modCur (fun x => { x.atStop with status := .halted }))
  else if s.mayRun s.cur && !s.cur.waiting then breatheOut (strandStep s)
  else idle s

/-! ### Running an agenda entry -/

/-- An agenda entry happens. -/
def runAct (a : Act) (s : State) : Host.Outcome State Fault Refusal :=
  if !a.ok then .fault .noSuchUnit
  else
    match a with
    | .ev i => exec i s
    | .select uid => .next (s.select uid)
    | .front => if s.mayRun s.cur then frontStep s else .next s
    | .hold vec mat => .next (s.modCur (fun x => { x with vHold := vec, mHold := mat }))
    | .tick n => .next (s.passTo ((s.timer + n) % 2 ^ 64))
    | .evict core key => .next (s.modQ (fun d => dropCopyLine d core (lineOf key)))
    | .evictAtom core key => .next (s.dropAtom core key)
    | .evictHost key => .next (s.dropLine (2 ^ 43 + key % 2 ^ 52 / 512))
    | .flush line => .next (s.flush line)
    | .poisonQuad key => .next (s.spoilQuad key)
    | .precheck => if s.mayRun s.cur then .next s.precheck else .next s
    | .podArrive bar => .next (s.podArrive bar)
    | .podConfig bar count => .next (s.podConfig bar count)
    | .podWithdraw bar n => .next (s.podWithdraw bar n)
    | .peerRead dev pa n => .next (s.peerRead dev pa n)
    | .peerWrite dev pa bytes => .next (s.peerWrite dev pa bytes)
    | .peerAtomic dev quad core pa grain op width v expect scope trap =>
      .next (s.peerAtomic dev quad core pa grain op width v expect scope trap)
    | .routes rs => .next { s with routes := rs }
    | .barWrite off bytes =>
      match s.barWrite off bytes with
      | (t, some r) => r.run t
      | (t, none) => .next t
    | .barRead off n => .next (s.barRead off n)
    | .keptFail quad => .next (s.modQuad quad (fun q => { q with keptBad := true }))
    | .evictTlb core va => .next (s.modQ (fun d => { d with tlb := d.tlb.filter (fun t => !(t.core == core && t.va == va)) }))
    | .drain core key => .next (s.drainByte core key)
    | .offer uid n => .next (s.modStrand uid (fun x => { x with offer := some n }))
    | .mismatch unit_ index => .next (s.halvesDiffer unit_ index)
    | .poison uid m => .next (s.modStrand uid (fun x => { x with poison := if x.poison.contains m then x.poison else m :: x.poison }))
    | .poisonMem key => .next (s.spoil key)
    | .hostBusy on => .next { s with hostBusy := on }
    | .peers links opened => .next { s with links := links, opened := opened }
    | .ckptFail quad tick => .next (s.modQuad quad (fun q => { q with ckpts := q.ckpts.filter (fun c => c.tick != tick) }))
    | .ctxFail crew => .next (s.modCrew crew (fun c => if c.depot then { c with bad := true } else c))
    | .farDelivery dev pubid ls version => .next (s.farDelivery dev pubid ls version)
    | .board straps nssd spares faulty =>
      .next { s with lodge := { s.lodge with straps := straps, nssd := nssd, spares := spares, faulty := faulty } }
    | .drive ssd nsid slba off bytes => .next (s.driveWrite ssd nsid slba off bytes)
    | .portPauses port on => .next (s.modPort port (fun p => { p with pauses := on }))
    | .maskVector vec => .next { s with msixMask := if s.msixMask.contains vec then s.msixMask else vec :: s.msixMask }
    | .hostAtomics on => .next { s with hostAtom := on }
    | .splitEffects on => .next { s with split := on }

end Sys2Proof.Machine
end

