-- ==== Sys2Proof/Machine/Stage.lean ====
section
/-! DEFINITION. One instruction placed where the step fetches next. A module runs nothing until the lodge has set up a partition
and started a launch (R474, R475); where no strand is running, the state here is the one that such a start leaves (log 3). -/

namespace Sys2Proof.Machine

/-- Where the program of a staged start lies: a virtual address, and the home of its 1 GiB page. -/
def stageVa : Word := 0x0000010000000000
def stagePa : Nat := 0x40000000

/-- Partition 0 with quad 0 and its tables at 0x1000. -/
def stagePart : Part :=
  { Part.blank 0 with
    setUp := true, quads := [0], phi := 63, qways := 4, tcount := 4096, ptroot := 1, vecbase := 1, veccnt := 8, dieCnt := 32, pkgCnt := 16, podCnt := 8 }

/-- The launch of a staged start: one crew of one strand. -/
def stageLaunch : Launch :=
  { handle := 0x400, part := 0, entry := stageVa, param := 0, doneVa := stageVa + 0x1000, ncx := 1, ncy := 1, ncz := 1, nstr := 1,
    prio := 0, tiles := 8, prot := false, cores := false, nopre := false, sysrel := false, mirror := false, vlmin := 512,
    vldes := 512, spad := 2 ^ 21, mgrp := 0, deps := [], prv := true, placed := 1, retired := 0, normal := 0, flags := 0,
    faulted := false, ctxlost := false, rolled := false }

/-- Its crew. -/
def stageCrew : Crew :=
  { id := 0, launch := 0x400, part := 0, index := 0, quad := 0, base := 0, nstr := 1, abase := 0, alen := 2 ^ 21, flags := 0,
    faulted := false, depot := false, seq := 0, windows := [], scratch := [], cbs := [], memPoison := [], spilled := false, swapped := false,
    stopping := false, bad := false }

/-- Its strand. -/
def stageStrand (devid : Nat) : Strand :=
  startStrand 0
    { strid := 0, crewX := 0, crewY := 0, crewZ := 0, ncrewX := 1, ncrewY := 1, ncrewZ := 1, nstr := 1, quad := 0, core := 0,
      slot := 0, devid := devid, lparam := 0, mirgrp := 0, part := 0, crew := 0, abase := 0, alen := 2 ^ 21 }
    (startScalar stageLaunch 0 0 512) 512 8

/-- The tables of a staged start: a pointer, and a leaf with every permission. -/
def stageTables (m : Memory) : Memory :=
  memSetN (memSetN m (homeKey 0 0x1010) (leBytes 8 0x2001)) (homeKey 0 0x2000) (leBytes 8 (stagePa + 0xFF))

/-- The module once a staged start has run: brought up, partition 0 set up, one strand at its first instruction. -/
def State.started (s : State) : State :=
  { s with
    cur := stageStrand s.devid, quad := { Quad.empty 0 with part := some 0 }, strands := [], quads := [], mem := stageTables s.mem,
    parts := [{ stagePart with launchSeq := 1 }], crews := [stageCrew], launches := [stageLaunch], crewSeq := 1, uidSeq := 1,
    lodge := { s.lodge with step := 8 } }

/-- The instruction's word at the home of the current strand's PC; the quad holds no copy of it. -/
def State.putWord (s : State) (p : Page) (w : IWord) : State :=
  let k := p.key + (s.cur.sc.pc.toNat - p.va)
  ({ s with mem := memSetN s.mem k (bytesOfWord w), memPoison := s.memPoison.filter (fun p => p / 8 != k / 32) }).modQ (fun d => { d with
    copies := d.copies.filter (fun c => !c.hits (k / 512 * 512) 512), out := d.out.filter (fun b => b.key / 512 != k / 512) })

/-- Stages one instruction: at the PC of the running current strand, or of a strand that has just been started. -/
def State.stage (s : State) (nbits w : Nat) : State :=
  let word : IWord := BitVec.ofNat 32 (w % 2 ^ nbits)
  let clear (t : State) : State := { t with agenda := [] }.modCur (fun x => { x with vq := [], mq := [], vf := none, waiting := false })
  match (if s.mayRun s.cur && !s.mustStop s.cur && !inWindow s.cur.sc.pc && canonical s.cur.sc.pc then s.peek s.cur.sc.pc else none) with
  | some p =>
    if (p.check s accFetch s.cur.sc.pc).isNone then (clear s).putWord p word
    else clear { s.started with mem := memSetN (stageTables s.mem) (homeKey 0 stagePa) (bytesOfWord word) }
  | none => clear { s.started with mem := memSetN (stageTables s.mem) (homeKey 0 stagePa) (bytesOfWord word) }

end Sys2Proof.Machine
end

