-- ==== Sys2Proof/Machine/Step.lean ====
section
/-! DEFINITION. The step, and the placing of one instruction where the step fetches its next (log 3, log 4). -/

namespace Sys2Proof.Machine

/-- One move of the machine: the agenda's next entry, otherwise the current strand's or the module's own move. -/
def step (s : State) : Host.Outcome State Fault Refusal :=
  match s.agenda with
  | a :: r => runAct a { s with agenda := r }
  | [] => advanceModule s

/-- The state with one instruction stored where the next step fetches. -/
def State.withFetchWord (s : State) (nbits w : Nat) : State := s.stage nbits w

end Sys2Proof.Machine
end

