-- ==== Sys2Proof/Safety.lean ====
section
/-! DEFINITION. The terms in which claims about the machine are stated: what holds in every state that a step reaches, when a
register can be read or written, when the current strand's front end works alone, and what an instruction leaves alone. -/

namespace Sys2Proof.Machine

/-- Memory and the drives' bytes are in canonical form. -/
def State.Inv (s : State) : Prop := Memory.wf s.mem = true ∧ Memory.wf s.flash = true

/-- A scalar register can be read: no queued instruction has still to write it (R157), and its word is not poisoned (R397). -/
def State.readable (s : State) (r : Reg) : Prop := s.owed r = false ∧ s.clean r = true

/-- A scalar register can be written: no queued instruction has still to write it (R157). -/
def State.writable (s : State) (r : Reg) : Prop := s.owed r = false

/-- The current strand's front end executes, its vector and matrix streams hold nothing and are not held back, no closed strip ring
still covers its registers, no fence holds back anything (R123), no word of its register files is poisoned, no `at` that it has
passed is unacknowledged (R333), and it has not been terminated (R264). -/
def State.Quiet (s : State) : Prop :=
  s.cur.inStream = 0 ∧ s.cur.vq = [] ∧ s.cur.mq = [] ∧ s.cur.vf = none ∧ s.cur.vHold = false ∧ s.cur.mHold = false ∧
  s.cur.poison = [] ∧ s.cur.closed = [] ∧ s.cur.fenced true true true = false ∧ s.isAhead s.cur.uid = false ∧ s.cur.status ≠ .ending

/-- Effects take place as they are handed over: the current quad keeps no checkpoint, and effects are not made to travel
step by step (log 6). -/
def State.Direct (s : State) : Prop := s.held = false ∧ s.cur.handed = none

/-- The step that follows the current one finds the current strand able to run its next instruction. -/
def State.CanRun (s : State) : Prop :=
  s.agenda = [] ∧ s.mayRun s.cur = true ∧ s.mustStop s.cur = false ∧ s.cur.waiting = false ∧
  s.cur.vReady = false ∧ s.cur.mReady = false

/-- Only scalar register `d`, its poison marks, the PC, the loop counts and the count of completed instructions differ: the
frame of a form that writes one scalar register (R91, R92, R104). -/
def OnlyReg (d : Reg) (s t : State) : Prop :=
  t = { s with cur := { s.cur with
        sc := { s.cur.sc with regs := t.cur.sc.regs, pc := t.cur.sc.pc, lcnt0 := t.cur.sc.lcnt0, lcnt1 := t.cur.sc.lcnt1,
                              icount := t.cur.sc.icount }
        poison := t.cur.poison } } ∧
  ∀ r, r ≠ d → t.reg r = s.reg r

/-- Only the scalar state of the current strand differs. -/
def OnlyScalar (s t : State) : Prop := t = { s with cur := { s.cur with sc := t.cur.sc } }

/-- The trap entry of R393 at the current strand, as the spec lists what it writes. -/
def TrapTaken (s t : State) (cause : Nat) (eval einfo : Word) (rst : Nat) : Prop :=
  t.cur.sc.epc = s.cur.sc.pc ∧ t.cur.sc.ecause = BitVec.ofNat 8 cause ∧ t.cur.sc.eval = eval ∧ t.cur.sc.einfo = einfo ∧
  t.cur.rstix = BitVec.ofNat 16 rst ∧ t.cur.sc.esave = s.cur.sc.mode.truncate 24 ∧ t.cur.sc.mode = modeReset ∧
  t.cur.sc.tnest = s.cur.sc.tnest + 1 ∧ t.cur.sc.pc = s.cur.sc.trbase ∧ t.mem = s.mem ∧ t.cur.sc.regs = s.cur.sc.regs

/-- The current strand has nothing under way: it is quiet, its pending set is empty, no strip is on its way, no fence holds back
anything, no instruction of it is in part done, no effect of it is on its way, and no home slice owes the host a byte of it. -/
def State.Settled (s : State) : Prop :=
  s.Quiet ∧ s.cur.pend = [] ∧ s.cur.handed = none ∧ s.cur.note = none ∧ s.cur.vat = none ∧ s.cur.syncWait = false ∧
  s.cur.deadline = none ∧ s.cur.fences = [] ∧ (∀ r, s.cur.ring = some r → r.filling = false ∧ r.due = []) ∧ s.busyOut s.cur.uid = false ∧
  ∀ b ∈ s.hostB, (b.dirty.getD []).contains s.cur.uid = false

/-- An effect is handed to the quad's platform, which has room for it (R413). -/
def State.hands (s : State) (k : EffKind) : Prop := s.held = true ∧ s.platRoom k.size = true

/-- The current strand has handed an effect and waits for its reply (R413). -/
def State.handWait (s : State) (k : EffKind) : State :=
  ((s.hand k).modCur (fun x => { x with handed := some ⟨s.effSeq, none⟩ })).setWaiting

/-- A trap taken at once by a quiet strand. -/
def State.traps (s : State) (cause : Nat) (eval einfo : Word) : Host.Outcome State Fault Refusal :=
  .next (s.trapEntry ⟨cause, eval, einfo, 0, 15, false⟩)

/-! ### Vector registers -/

/-- The current strand runs a vector instruction whole as it passes it: its streams are empty, RSTIX is 0, it has no strip ring
and no chunk of a transfer awaits an acquire by mask. -/
def State.VecReady (s : State) : Prop := s.Quiet ∧ s.cur.rstix = 0 ∧ s.cur.ring = none ∧ s.cur.mlines = []

/-- Register r may hold an operand of w-bit elements beside a type ETA of `we` bits (R159). -/
def State.spans (s : State) (r : Reg) (w we : Nat) : Prop :=
  let g := modeGRP s.cur.sc.md
  g * w ≤ 8 * we ∧ r.toNat % max (g * w / we) 1 = 0 ∧ r.toNat + max (g * w / we) 1 ≤ 32

/-- The groups hold VLC elements of the type ETA of `we` bits: the capacity rule (R159). -/
def State.holdsVlc (s : State) (we : Nat) : Prop := s.cur.sc.vlc * we ≤ modeGRP s.cur.sc.md * s.cur.vlg * 32

/-- Element e of a second source: of a vector register, or the low bits of a scalar register (R167). -/
def State.eltB (s : State) (b : VSrc) (w e : Nat) : Nat :=
  match b with
  | .v r => s.cur.elt r.toNat w e
  | .s r => (s.reg r).toNat % 2 ^ w

/-- Elements 0 to VLC − 1 of the group from register d take the values that `f` gives; none leaves an element alone. -/
def State.putElts (s : State) (d : Reg) (w : Nat) (f : Nat → Option Nat) : State :=
  s.modCur (fun x => (List.range s.cur.sc.vlc).foldl (fun (y : Strand) e =>
    match f e with
    | some v => y.setElt d.toNat w e v
    | none => y) x)

/-- What a guarded destination element takes (R162): `f` where it is active, and otherwise 0 under ZM and nothing without. -/
def State.guarded (s : State) (f : Nat → Nat) (e : Nat) : Option Nat :=
  if s.cur.active e then some (f e) else if modeZM s.cur.sc.md then some 0 else none

/-- The conditions that the active elements raise. -/
def State.flagsOver (s : State) (f : Nat → Flags) : Flags :=
  (List.range s.cur.sc.vlc).foldl (fun a e => if s.cur.active e then a ||| f e else a) 0

/-- No active element raises a condition that FPEN enables. -/
def State.noTrap (s : State) (f : Nat → Flags) : Prop :=
  ∀ e < s.cur.sc.vlc, s.cur.active e = true → f e &&& s.cur.sc.fpen.zeroExtend 6 = 0

/-- A vector instruction ends: raised conditions join FLAGS, the generator has made n draws, RSTIX is 0 and the PC moves on. -/
def State.vecDone (s : State) (fl : Flags) (n : Nat) : State :=
  ((s.modSc (fun c => { c with flags := c.flags ||| fl, seed := (draws n c.seed).2 })).modCur (fun x =>
    { x with rstix := 0, wrote := [] })).advance

/-- The rounding mode at element e, with its draw under RS (R133, R139). -/
def State.roundAt (s : State) (n e : Nat) : RMode := rmodeOf (modeRND s.cur.sc.md) ((draws n s.cur.sc.seed).1.getD e 0)

/-- n bytes at offset `off` of the strand's allotment stand in the quad's scratchpad alone, and no read of them fails: they lie in
one page, carry no faulting mark and no poison, and the core's outbound buffer holds no turned byte of them. -/
def State.padPlain (s : State) (off n : Nat) : Prop :=
  off % 4096 + n ≤ 4096 ∧ off + n ≤ s.cur.ident.alen ∧ s.cur.ident.alen ≤ 2 ^ 21 ∧
  ∀ j < n, let k := scratchKey s.cur.ident.quad (s.cur.ident.abase + off) + j
    s.faulting k = [] ∧ s.poisonedAt k = false ∧ stage1 s.quad.d s.cur.ident.core k false = none

/-- The n bytes at offset `off` of the strand's allotment, little-endian. -/
def State.padNat (s : State) (off n : Nat) : Nat :=
  leNat (memGetN s.mem (scratchKey s.cur.ident.quad (s.cur.ident.abase + off)) n)

end Sys2Proof.Machine
end

