-- ==== Sys2Proof/Certificates/Slice0/Obligations.lean ====
section
/-! DEFINITION. The statements about the machine that are to be proved. Each docstring names the rules of the spec it follows. -/

open Sys2Proof Sys2Proof.Machine

/-! ### The encoding -/

/-- R13 to R35: decoding the word of a well-formed instruction gives the instruction back, with every operand. R13 to R35: a
word that decodes is the word of the instruction it decodes to, so no two words share an instruction, and what is decoded is
well-formed. -/
def Obligations.DecodeOfEncode : Prop :=
  (∀ (i : Instr) (w : IWord), i.wf = true → encode i = some w → decode w = .ok i) ∧
  (∀ (i : Instr) (w : IWord), decode w = .ok i → i.wf = true ∧ encode i = some w)

/-- Words that the spec writes out decode to the instructions it gives them (R16, R96, R98, R100, R106, R111, R114, R119,
R126). -/
def Obligations.SpecWordsDecode : Prop :=
  decode 0x02000000 = .ok (.iaAdd 0 0 0) ∧ decode 0x0452F803 = .ok (.iiSra 5 5 3) ∧
  decode 0x0A501FFD = .ok (.brNe 5 0 0xFFD) ∧ decode 0x0E008000 = .ok (.jr 0 1 0) ∧
  decode 0x1271D802 = .ok (.ldDP 7 3 2) ∧ decode 0x16952C05 = .ok (.fsFma 9 10 11) ∧
  decode 0x18028000 = .ok (.qPush 0 5) ∧ decode 0x18608001 = .ok (.qPop 6 1) ∧
  decode 0x1A040FD0 = .ok (.mdSet 0x040FD0) ∧ decode 0x1E028400 = .ok (.syWr 5 0) ∧
  decode 0x1E801C00 = .ok (.syTime 8) ∧ decode 0x1E02B800 = .ok (.syIntr 5) ∧
  decode 0xFE000012 = .ok (.brk 0x12) ∧ decode 0xFFFFFFFF = .ok (.brk 0x1FFFFFF)

/-! ### Reset, the invariant and the step -/

/-- Whatever the step does, memory and the drives stay in canonical form, so that equal memories are equal data. -/
def Obligations.StepKeepsInv : Prop :=
  ∀ s t : State, s.Inv → step s = .next t → t.Inv

/-- Reset as the spec gives it: no strand exists, the reference timer counts from 0 (R124), no partition is set up, and
bring-up has still to run (R466). That every byte reads 0 is the model's choice (log 2). Memory and the drives are in
canonical form at reset. -/
def Obligations.ResetState : Prop :=
  (State.reset.timer = 0 ∧ State.reset.all = [] ∧ State.reset.parts = [] ∧ State.reset.lodge.step = 0 ∧
   State.reset.crews = [] ∧ State.reset.launches = [] ∧ ∀ k, memGet State.reset.mem k = 0) ∧
  (State.reset.Inv)

/-- A step of a strand that can run executes the instruction that the word at its PC decodes to, in the state that the fetch
leaves; what `breatheOut` adds is the model's scheduling (log 4). R18: a fetched word that is no instruction raises ILLEGAL
with EVAL = the word. -/
def Obligations.StepRunsDecoded : Prop :=
  (∀ (s t : State) (w : IWord) (i : Instr), s.CanRun →
     (fetchWord s.cur.sc.pc).run (s.modCur (fun x => { x with waiting := false })) = .ok w t → decode w = .ok i →
     step s = breatheOut (exec i t)) ∧
  (∀ (s t : State) (w : IWord) (e : Reject), s.CanRun →
     (fetchWord s.cur.sc.pc).run (s.modCur (fun x => { x with waiting := false })) = .ok w t → decode w = .error e →
     step s = breatheOut (.next (t.stopFrom t (.trap ⟨cILLEGAL, w.zeroExtend 64, 0, 0, 15, false⟩))))

/-- A byte reads as what was last written there, writing leaves every other byte alone, and the canonical form is kept. R7: a
run of bytes is written and read back, the lowest address first, and every byte outside it stays. -/
def Obligations.MemoryLaws : Prop :=
  (∀ (m : Memory) (k : Nat) (v : Byte), Memory.wf m = true →
     Memory.wf (memSet m k v) = true ∧ memGet (memSet m k v) k = v ∧ ∀ j, j ≠ k → memGet (memSet m k v) j = memGet m j) ∧
  (∀ (m : Memory) (k : Nat) (bs : List Byte), Memory.wf m = true →
     Memory.wf (memSetN m k bs) = true ∧ memGetN (memSetN m k bs) k bs.length = bs ∧
     (∀ j, j < k ∨ k + bs.length ≤ j → memGet (memSetN m k bs) j = memGet m j) ∧
     ∀ n v, v < 256 ^ n → leNat (leBytes n v) = v)

/-! ### Integer arithmetic -/

/-- R91: s0 reads as zero, a write to it is discarded, and the instruction that names it completes otherwise. The forms that
write one register leave every other register, the flags, MODE, the special registers, the queues, the vector, mask and tile
registers, memory and the quad as they were: the frame of every result of the shape `(s.setReg d v).advance`. -/
def Obligations.RegisterWrites : Prop :=
  ∀ (s : State) (v : Word), s.reg 0 = 0 ∧ (s.setReg 0 v).reg 0 = 0 ∧ (s.setReg 0 v).cur.sc = s.cur.sc ∧
    ∀ r : Reg, (r ≠ 0 → (s.setReg r v).reg r = v ∧ (s.setReg r v).clean r = true) ∧
      let t := (s.setReg r v).advance
      OnlyReg r s t ∧ t.cur.sc.flags = s.cur.sc.flags ∧ t.cur.sc.mode = s.cur.sc.mode ∧ t.cur.sc.seed = s.cur.sc.seed ∧
      t.cur.sc.epc = s.cur.sc.epc ∧ t.cur.sc.esave = s.cur.sc.esave ∧ t.cur.sc.tnest = s.cur.sc.tnest ∧ t.cur.sc.vlc = s.cur.sc.vlc ∧
      t.cur.v = s.cur.v ∧ t.cur.masks = s.cur.masks ∧ t.cur.tiles = s.cur.tiles ∧ t.quad = s.quad ∧
      ∀ k, memGet t.mem k = memGet s.mem k

/-- R94: what each two-operand form of `ia` writes. R94: what each one-operand form of `ia` writes; a width code is 0, 1 or 2.
R96: what each form of `ii` writes. R97: `lu.hi` and `la.pc`; neither faults. -/
def Obligations.IntegerResults : Prop :=
  (∀ (d a b : Reg) (s : State), s.readable a → s.readable b → s.writable d →
     let x := s.reg a
     let y := s.reg b
     let out (v : Word) : Host.Outcome State Fault Refusal := .next (s.setReg d v).advance
     exec (.iaAdd d a b) s = out (x + y) ∧ exec (.iaSub d a b) s = out (x - y) ∧ exec (.iaMul d a b) s = out (x * y) ∧
     exec (.iaMulh d a b) s = out (((x.signExtend 128 * y.signExtend 128) >>> 64).truncate 64) ∧
     exec (.iaMulhu d a b) s = out (((x.zeroExtend 128 * y.zeroExtend 128) >>> 64).truncate 64) ∧
     exec (.iaDiv d a b) s = out (if y = 0 then BitVec.allOnes 64 else x.sdiv y) ∧
     exec (.iaDivu d a b) s = out (if y = 0 then BitVec.allOnes 64 else x.udiv y) ∧
     exec (.iaRem d a b) s = out (if y = 0 then x else x.srem y) ∧
     exec (.iaRemu d a b) s = out (if y = 0 then x else x.umod y) ∧
     exec (.iaAnd d a b) s = out (x &&& y) ∧ exec (.iaOr d a b) s = out (x ||| y) ∧
     exec (.iaXor d a b) s = out (x ^^^ y) ∧ exec (.iaAndn d a b) s = out (x &&& ~~~y) ∧
     exec (.iaShl d a b) s = out (x <<< (y &&& 63)) ∧ exec (.iaShr d a b) s = out (x >>> (y &&& 63)) ∧
     exec (.iaSra d a b) s = out (x.sshiftRight' (y &&& 63)) ∧
     exec (.iaRol d a b) s = out (x <<< (y &&& 63) ||| x >>> (64 - (y &&& 63))) ∧
     exec (.iaSlt d a b) s = out (if x.slt y then 1 else 0) ∧ exec (.iaSltu d a b) s = out (if x < y then 1 else 0) ∧
     exec (.iaMin d a b) s = out (if x.sle y then x else y) ∧ exec (.iaMax d a b) s = out (if x.sle y then y else x) ∧
     exec (.iaMinu d a b) s = out (if x ≤ y then x else y) ∧ exec (.iaMaxu d a b) s = out (if x ≤ y then y else x)) ∧
  (∀ (d a w : Reg) (s : State), s.readable a → s.writable d →
     let x := s.reg a
     let n := 8 * 2 ^ w.toNat
     let out (v : Word) : Host.Outcome State Fault Refusal := .next (s.setReg d v).advance
     exec (.iaClz d a) s = out (w64 ((List.range 64).reverse.takeWhile (fun i => !x.getLsbD i)).length) ∧
     exec (.iaCtz d a) s = out (w64 ((List.range 64).takeWhile (fun i => !x.getLsbD i)).length) ∧
     exec (.iaPopc d a) s = out (w64 ((List.range 64).filter (fun i => x.getLsbD i)).length) ∧
     (w.toNat ≤ 2 →
       exec (.iaSext d a w) s = out ((x <<< (64 - n)).sshiftRight (64 - n)) ∧
       exec (.iaZext d a w) s = out ((x <<< (64 - n)) >>> (64 - n)))) ∧
  (∀ (d a : Reg) (i : BitVec 12) (h : BitVec 6) (s : State), s.readable a → s.writable d →
     let x := s.reg a
     let k : Word := i.signExtend 64
     let out (v : Word) : Host.Outcome State Fault Refusal := .next (s.setReg d v).advance
     exec (.iiAdd d a i) s = out (x + k) ∧ exec (.iiAnd d a i) s = out (x &&& k) ∧ exec (.iiOr d a i) s = out (x ||| k) ∧
     exec (.iiXor d a i) s = out (x ^^^ k) ∧ exec (.iiSlt d a i) s = out (if x.slt k then 1 else 0) ∧
     exec (.iiSltu d a i) s = out (if x < k then 1 else 0) ∧ exec (.iiShl d a h) s = out (x <<< h) ∧
     exec (.iiShr d a h) s = out (x >>> h) ∧ exec (.iiSra d a h) s = out (x.sshiftRight' h)) ∧
  (∀ (d : Reg) (i : BitVec 20) (s : State), s.writable d →
     exec (.luHi d i) s = .next (s.setReg d (i.signExtend 64 * 4096)).advance ∧
     exec (.laPc d i) s = .next (s.setReg d (s.cur.sc.pc + i.signExtend 64 * 4096)).advance)

/-- R95: division by zero, and the most negative number divided by −1; neither traps or sets FLAGS. -/
def Obligations.DivisionCorners : Prop :=
  ∀ (d a b : Reg) (s : State), s.readable a → s.readable b → s.writable d →
    let out (v : Word) : Host.Outcome State Fault Refusal := .next (s.setReg d v).advance
    (s.reg b = 0 →
      exec (.iaDiv d a b) s = out 0xFFFFFFFFFFFFFFFF ∧ exec (.iaDivu d a b) s = out 0xFFFFFFFFFFFFFFFF ∧
      exec (.iaRem d a b) s = out (s.reg a) ∧ exec (.iaRemu d a b) s = out (s.reg a)) ∧
    (s.reg a = 0x8000000000000000 → s.reg b = 0xFFFFFFFFFFFFFFFF →
      exec (.iaDiv d a b) s = out 0x8000000000000000 ∧ exec (.iaRem d a b) s = out 0) ∧
    ∀ v, (s.setReg d v).advance.cur.sc.flags = s.cur.sc.flags

/-! ### Transfers of control and loops -/

/-- R98: each condition of `br`, and where a taken branch goes. R99 and R100: `jl` links in s1; `jr` reads its base before it
writes the link, and a target that is not a multiple of 4 raises MISALIGN with nothing written. R102: `lp` outside a trap sets
the count and the end of its loop, or skips the body when the count is 0. R102, R105: `lp` in a handler raises ILLEGAL. -/
def Obligations.BranchResults : Prop :=
  (∀ (a b : Reg) (o : BitVec 12) (s : State), s.readable a → s.readable b →
     let x := s.reg a
     let y := s.reg b
     let out (c : Bool) : Host.Outcome State Fault Refusal :=
       .next (if c then s.transfer (s.cur.sc.pc + 4 * o.signExtend 64) else s.advance)
     exec (.brEq a b o) s = out (x == y) ∧ exec (.brNe a b o) s = out (x != y) ∧ exec (.brLt a b o) s = out (x.slt y) ∧
     exec (.brGe a b o) s = out (!x.slt y) ∧ exec (.brLtu a b o) s = out (x.ult y) ∧ exec (.brGeu a b o) s = out (!x.ult y)) ∧
  (∀ (d a : Reg) (i : BitVec 15) (o : BitVec 25) (s : State),
     (s.writable 1 → exec (.jl o) s = .next ((s.setReg 1 (s.cur.sc.pc + 4)).transfer (s.cur.sc.pc + 4 * o.signExtend 64))) ∧
     (s.readable a → s.writable d →
       let t := s.reg a + i.signExtend 64
       (t &&& 3 = 0 → exec (.jr d a i) s = .next ((s.setReg d (s.cur.sc.pc + 4)).transfer t)) ∧
       (t &&& 3 ≠ 0 → exec (.jr d a i) s = .next (s.stopFrom s (.trap ⟨cMISALIGN, t, 0, 0, 15, false⟩))))) ∧
  (∀ (a : Reg) (l : BitVec 12) (s : State), s.readable a → s.cur.sc.tnest = 0 → l ≠ 0 →
     let n := s.reg a
     let e := s.cur.sc.pc + 4 * l.zeroExtend 64
     (n = 0 →
       exec (.lpL0 a l) s = .next ((s.modSc (fun c => { c with lcnt0 := 0 })).transfer (e + 4)) ∧
       exec (.lpL1 a l) s = .next ((s.modSc (fun c => { c with lcnt1 := 0 })).transfer (e + 4))) ∧
     (n ≠ 0 →
       exec (.lpL0 a l) s = .next (s.modSc (fun c => { c with lcnt0 := n, lend0 := ⟨l, (e >>> 2).truncate 46⟩ })).advance ∧
       exec (.lpL1 a l) s = .next (s.modSc (fun c => { c with lcnt1 := n, lend1 := ⟨l, (e >>> 2).truncate 46⟩ })).advance)) ∧
  (∀ (a : Reg) (l : BitVec 12) (s : State), s.Quiet → s.cur.sc.tnest ≠ 0 → l ≠ 0 →
     exec (.lpL0 a l) s = .next (s.trapEntry ⟨cILLEGAL, (0x10000000 : Word) ||| (a.zeroExtend 64 <<< 15) ||| l.zeroExtend 64, 0, 0, 15, false⟩) ∧
     exec (.lpL1 a l) s = .next (s.trapEntry ⟨cILLEGAL, (0x10001000 : Word) ||| (a.zeroExtend 64 <<< 15) ||| l.zeroExtend 64, 0, 0, 15, false⟩))

/-- R104: the step after an instruction that made no taken transfer, with the two end tests in their order. -/
def Obligations.LoopEndTests : Prop :=
  ∀ (s : State) (c : Scalar), c = s.cur.sc →
    let t := s.advance.cur.sc
    let e0 := c.tnest = 0 ∧ c.lcnt0 ≠ 0 ∧ c.pc = c.lend0.addr
    let e1 := c.tnest = 0 ∧ c.lcnt1 ≠ 0 ∧ c.pc = c.lend1.addr
    (¬ e0 → ¬ e1 → t.pc = c.pc + 4 ∧ t.lcnt0 = c.lcnt0 ∧ t.lcnt1 = c.lcnt1) ∧
    (e0 → c.lcnt0 ≠ 1 → c.lend0.start ≠ c.pc + 4 → t.pc = c.lend0.start ∧ t.lcnt0 = c.lcnt0 - 1 ∧ t.lcnt1 = c.lcnt1) ∧
    (e0 → c.lcnt0 ≠ 1 → c.lend0.start = c.pc + 4 → t.lcnt0 = c.lcnt0 - 1 ∧
      (¬ e1 → t.pc = c.pc + 4 ∧ t.lcnt1 = c.lcnt1) ∧
      (e1 → t.lcnt1 = c.lcnt1 - 1 ∧ t.pc = if c.lcnt1 = 1 then c.pc + 4 else c.lend1.start)) ∧
    (e0 → c.lcnt0 = 1 → ¬ e1 → t.pc = c.pc + 4 ∧ t.lcnt0 = 0 ∧ t.lcnt1 = c.lcnt1) ∧
    (e0 → c.lcnt0 = 1 → e1 → c.lcnt1 ≠ 1 → t.pc = c.lend1.start ∧ t.lcnt0 = 0 ∧ t.lcnt1 = c.lcnt1 - 1) ∧
    (e0 → c.lcnt0 = 1 → e1 → c.lcnt1 = 1 → t.pc = c.pc + 4 ∧ t.lcnt0 = 0 ∧ t.lcnt1 = 0) ∧
    (¬ e0 → e1 → c.lcnt1 ≠ 1 → t.pc = c.lend1.start ∧ t.lcnt0 = c.lcnt0 ∧ t.lcnt1 = c.lcnt1 - 1) ∧
    (¬ e0 → e1 → c.lcnt1 = 1 → t.pc = c.pc + 4 ∧ t.lcnt0 = c.lcnt0 ∧ t.lcnt1 = 0) ∧
    ∀ a, (s.transfer a).cur.sc.pc = a ∧
      (s.transfer a).cur.sc.lcnt0 = (if c.lcnt0 ≠ 0 ∧ c.lend0.holds a = false then 0 else c.lcnt0) ∧
      (s.transfer a).cur.sc.lcnt1 = (if c.lcnt1 ≠ 0 ∧ c.lend1.holds a = false then 0 else c.lcnt1)

/-! ### Scalar loads and stores -/

/-- R106, R107, R110: a load whose pieces pass every check writes what it read, sign- or zero-extended. `loadBytes` is the
checked read of the bytes at s[A] + sext(OFF10, 10) × n, and `t` the state it leaves. R109: a probe that finds a page that is
not resident writes 0 and sets STS.NR; nothing is raised. R50, R226, R387: a load whose access fails a check raises the
check's cause at its own address, or parks, with no register written. R106, R109, R221, R297: a load, or a probe, of bytes
that stand in the strand's scratchpad allotment alone reads them, little-endian, sign- or zero-extended. -/
def Obligations.LoadResults : Prop :=
  (∀ (d a : Reg) (o : BitVec 10) (s : State), s.cur.inStream = 0 → s.cur.loadWaits = false →
     s.cur.vq.any (fun e => isSt e.instr) = false → s.isAhead s.cur.uid = false → s.readable a → s.writable d →
     let got (n : Nat) (i : Instr) (v : Nat → Word) : Prop := ∀ bs t, bs.length = n →
       loadBytes (s.reg a + o.signExtend 64 * w64 n) n accLd (modePOL s.cur.sc.md) 0 s = .ok bs t →
       exec i s = .next (t.setReg d (v (leNat bs))).advance
     got 1 (.ldB d a o) (fun v => (BitVec.ofNat 8 v).signExtend 64) ∧ got 1 (.ldBu d a o) w64 ∧
     got 2 (.ldH d a o) (fun v => (BitVec.ofNat 16 v).signExtend 64) ∧ got 2 (.ldHu d a o) w64 ∧
     got 4 (.ldW d a o) (fun v => (BitVec.ofNat 32 v).signExtend 64) ∧ got 4 (.ldWu d a o) w64 ∧
     got 8 (.ldD d a o) w64 ∧
     got 1 (.ldBP d a o) (fun v => (BitVec.ofNat 8 v).signExtend 64) ∧ got 1 (.ldBuP d a o) w64 ∧
     got 2 (.ldHP d a o) (fun v => (BitVec.ofNat 16 v).signExtend 64) ∧ got 2 (.ldHuP d a o) w64 ∧
     got 4 (.ldWP d a o) (fun v => (BitVec.ofNat 32 v).signExtend 64) ∧ got 4 (.ldWuP d a o) w64 ∧
     got 8 (.ldDP d a o) w64) ∧
  (∀ (d a : Reg) (o : BitVec 10) (s : State), s.cur.inStream = 0 → s.cur.loadWaits = false → s.readable a → s.writable d →
     let absent (n : Nat) (i : Instr) : Prop := ∀ f t,
       s.segs (s.reg a + o.signExtend 64 * w64 n) n accLd = (.error f, t) → f.nonres = true →
       exec i s = .next ((s.setReg d 0).modSc (fun c => { c with nr := true })).advance
     absent 1 (.ldBP d a o) ∧ absent 1 (.ldBuP d a o) ∧ absent 2 (.ldHP d a o) ∧ absent 2 (.ldHuP d a o) ∧
     absent 4 (.ldWP d a o) ∧ absent 4 (.ldWuP d a o) ∧ absent 8 (.ldDP d a o)) ∧
  (∀ (d a : Reg) (o : BitVec 10) (s : State), s.Quiet → ∀ f t,
     (∀ n i, (n, i) ∈ [(1, Instr.ldB d a o), (1, .ldBu d a o), (2, .ldH d a o), (2, .ldHu d a o), (4, .ldW d a o),
         (4, .ldWu d a o), (8, .ldD d a o)] →
       s.segs (s.reg a + o.signExtend 64 * w64 n) n accLd = (.error f, t) →
       exec i s = .next (s.stopped (t.failStop f accLd 0))) ∧
     (∀ n i gs e, (n, i) ∈ [(1, Instr.ldB d a o), (1, .ldBu d a o), (2, .ldH d a o), (2, .ldHu d a o), (4, .ldW d a o),
         (4, .ldWu d a o), (8, .ldD d a o)] →
       s.segs (s.reg a + o.signExtend 64 * w64 n) n accLd = (.ok gs, t) → t.turnFail gs = some e →
       exec i s = .next (t.stopped (.trap ⟨cTURN_NEEDED, e.1, e.2, 0, 1, false⟩)))) ∧
  (∀ (d a : Reg) (o : BitVec 10) (s : State) (off n : Nat), s.Quiet →
     s.reg a + o.signExtend 64 * w64 n = w64 (scratchBase + off) → s.padPlain off n →
     let v := s.padNat off n
     let out (k : Nat) (i : Instr) (w : Word) : Prop := n = k → exec i s = .next (s.setReg d w).advance
     out 1 (.ldB d a o) ((BitVec.ofNat 8 v).signExtend 64) ∧ out 1 (.ldBu d a o) (w64 v) ∧
     out 2 (.ldH d a o) ((BitVec.ofNat 16 v).signExtend 64) ∧ out 2 (.ldHu d a o) (w64 v) ∧
     out 4 (.ldW d a o) ((BitVec.ofNat 32 v).signExtend 64) ∧ out 4 (.ldWu d a o) (w64 v) ∧ out 8 (.ldD d a o) (w64 v) ∧
     out 1 (.ldBP d a o) ((BitVec.ofNat 8 v).signExtend 64) ∧ out 1 (.ldBuP d a o) (w64 v) ∧
     out 2 (.ldHP d a o) ((BitVec.ofNat 16 v).signExtend 64) ∧ out 2 (.ldHuP d a o) (w64 v) ∧
     out 4 (.ldWP d a o) ((BitVec.ofNat 32 v).signExtend 64) ∧ out 4 (.ldWuP d a o) (w64 v) ∧ out 8 (.ldDP d a o) (w64 v))

/-- R106, R223, R225: a store whose pieces pass every check enters its bytes in the core's outbound buffer, un-turned; and a
store within one page or window, with room in the buffer, leaves memory, the registers and every other byte of the buffer as
they were. -/
def Obligations.StoreResults : Prop :=
  ∀ (d a : Reg) (o : BitVec 10) (s : State), s.cur.inStream = 0 → s.cur.storeWaits = false → s.cur.vf = none →
    s.readable a → s.readable d →
    let put (n : Nat) (i : Instr) : Prop := ∀ gs t,
      segsM (s.reg a + o.signExtend 64 * w64 n) n accSt 0 s = .ok gs t →
      (∀ u, storeSegs gs (leBytes n (s.reg d).toNat) (modePOL s.cur.sc.md) t = .ok () u → exec i s =
        .next (u.modCur (fun x =>
          if x.inStream = 0 ∧ !(x.vq.isEmpty && x.mq.isEmpty) then { x with sure := x.seqNo } else x)).advance) ∧
      (∀ g, gs = [g] → g.n = n → g.mir = false → (∀ p, g.page = some p → p.dirty = true) → t.cur.marks.length < 8000 →
        t.cur.pend.length < 8000 → s.isAhead s.cur.uid = false → s.cur.ring = none →
        (outLines t.quad.d.out (some s.cur.ident.core)).length < 60 →
        ∃ u, exec i s = .next u ∧ u.mem = t.mem ∧ u.cur.sc = t.cur.sc.advance ∧
          (∀ j < n, (stage1 u.quad.d s.cur.ident.core (g.key + j) true).map (·.val) = some (BitVec.ofNat 8 ((s.reg d).toNat / 256 ^ j))) ∧
          (∀ j < n, stage1 u.quad.d s.cur.ident.core (g.key + j) false = none) ∧
          (∀ j < n, u.cur.marks.any (fun k => k.key == (g.key + j) / g.grain * g.grain && !k.core) = true) ∧
          ∀ c k, (c ≠ some s.cur.ident.core ∨ k < g.key ∨ g.key + n ≤ k) →
            (u.quad.d.out.filter (fun b => b.core == c && b.key == k)).map (fun b => (b.val, b.turned, b.owners)) =
              (t.quad.d.out.filter (fun b => b.core == c && b.key == k)).map (fun b => (b.val, b.turned, b.owners)))
    put 1 (.stB d a o) ∧ put 2 (.stH d a o) ∧ put 4 (.stW d a o) ∧ put 8 (.stD d a o)

/-! ### Scalar floating point -/

/-- R111 to R113: what each rounding or selecting form of `fs` writes when no condition it raises is enabled: the result in
the low bits, the raised conditions in FLAGS, and one draw under RS. R112: what `cvti`, the compares and `cls` write; they
round by no mode and make no draw. R111, R45: an `fs` form under an ETA that is no scalar floating type raises ILLEGAL with
EINFO = 4. -/
def Obligations.FloatResults : Prop :=
  (∀ (d a b : Reg) (s : State) (t : ETy), s.readable d → s.readable a → s.readable b →
     etyOfCode (modeETA s.cur.sc.md) = some t → etyIsArith t = true → modeRND s.cur.sc.md ≤ 5 →
     let x := (s.reg a).toNat % 2 ^ etyBits t
     let y := (s.reg b).toNat % 2 ^ etyBits t
     let z := (s.reg d).toNat % 2 ^ etyBits t
     let md := rmodeOf (modeRND s.cur.sc.md) (drawBits (drawStep s.cur.sc.seed))
     let sat := modeSAT s.cur.sc.md
     let out (i : Instr) (r : FRes) : Prop := r.fl &&& s.cur.sc.fpen.zeroExtend 6 = 0 →
       exec i s = .next (((s.modSc (fun c => { c with flags := c.flags ||| r.fl })).modSc Scalar.drawn).setReg d (w64 r.bits)).advance
     out (.fsAdd d a b) (fAdd t md sat x y) ∧ out (.fsSub d a b) (fSub t md sat x y) ∧
     out (.fsMul d a b) (fMul t md sat x y) ∧ out (.fsDiv d a b) (fDiv t md sat x y) ∧ out (.fsSqrt d a) (fSqrt t md sat x) ∧
     out (.fsFma d a b) (fFmaT t md sat false false x y z) ∧ out (.fsMin d a b) (fMinMax t false x y) ∧
     out (.fsMax d a b) (fMinMax t true x y) ∧
     (∀ u, etyOfCode (modeETB s.cur.sc.md) = some u → etyIsInt u = true →
       out (.fsCvtf d a) (cvtIntFp t md false (intVal u (s.reg a).toNat))) ∧
     (∀ u, etyOfCode (modeETB s.cur.sc.md) = some u → etyIsFp u = true →
       out (.fsCvt d a) (cvtFpFp u md sat (unpack t x))) ∧
     (modeETB s.cur.sc.md = 15 →
       out (.fsCvt d a) (if unpack t x = .nan true then ⟨x ||| 2 ^ ((fmtOf t).f - 1), fNV⟩ else ⟨x, 0⟩))) ∧
  (∀ (d a b : Reg) (s : State) (t : ETy), s.readable a → s.readable b → s.writable d →
     etyOfCode (modeETA s.cur.sc.md) = some t → etyIsArith t = true →
     let x := (s.reg a).toNat % 2 ^ etyBits t
     let y := (s.reg b).toNat % 2 ^ etyBits t
     let out (i : Instr) (v : Word) (fl : Flags) : Prop := fl &&& s.cur.sc.fpen.zeroExtend 6 = 0 →
       exec i s = .next ((s.modSc (fun c => { c with flags := c.flags ||| fl })).setReg d v).advance
     out (.fsEq d a b) (wBool (fEq t x y).1) (fEq t x y).2 ∧
     out (.fsLt d a b) (wBool (fLess t false x y).1) (fLess t false x y).2 ∧
     out (.fsLe d a b) (wBool (fLess t true x y).1) (fLess t true x y).2 ∧
     out (.fsCvti d a) (w64 (cvtFpInt .i64 .rtz (modeSAT s.cur.sc.md) (unpack t x)).1)
       (cvtFpInt .i64 .rtz (modeSAT s.cur.sc.md) (unpack t x)).2 ∧
     exec (.fsCls d a) s = .next (s.setReg d (w64 (fClass t x))).advance) ∧
  (∀ (d a b : Reg) (s : State), s.Quiet →
     (∀ t, etyOfCode (modeETA s.cur.sc.md) = some t → etyIsArith t = false) →
     ∀ i ∈ [Instr.fsAdd d a b, .fsSub d a b, .fsMul d a b, .fsDiv d a b, .fsSqrt d a, .fsFma d a b, .fsMin d a b, .fsMax d a b,
         .fsEq d a b, .fsLt d a b, .fsLe d a b, .fsCvti d a, .fsCvtf d a, .fsCls d a, .fsCvt d a],
       ∀ w, encode i = some w → exec i s = .next (s.trapEntry ⟨cILLEGAL, w.zeroExtend 64, 4, 0, 15, false⟩))

/-- R113: a raised condition whose FPEN bit is set raises FP_TRAP with the raised bits in EVAL, and writes neither sd nor
FLAGS. -/
def Obligations.FloatTraps : Prop :=
  ∀ (d a b : Reg) (s : State) (t : ETy), s.Quiet → etyOfCode (modeETA s.cur.sc.md) = some t → etyIsArith t = true →
    let c := s.cur.sc
    let x := (s.reg a).toNat % 2 ^ etyBits t
    let y := (s.reg b).toNat % 2 ^ etyBits t
    let z := (s.reg d).toNat % 2 ^ etyBits t
    let md := rmodeOf (modeRND c.md) (drawBits (drawStep c.seed))
    let sat := modeSAT c.md
    let traps (i : Instr) (fl : Flags) : Prop := fl &&& c.fpen.zeroExtend 6 ≠ 0 →
      exec i s = .next (s.trapEntry ⟨cFP_TRAP, fl.zeroExtend 64, 0, 0, 15, false⟩)
    (modeRND c.md ≤ 5 →
      traps (.fsAdd d a b) (fAdd t md sat x y).fl ∧ traps (.fsSub d a b) (fSub t md sat x y).fl ∧
      traps (.fsMul d a b) (fMul t md sat x y).fl ∧ traps (.fsDiv d a b) (fDiv t md sat x y).fl ∧
      traps (.fsSqrt d a) (fSqrt t md sat x).fl ∧ traps (.fsFma d a b) (fFmaT t md sat false false x y z).fl ∧
      traps (.fsMin d a b) (fMinMax t false x y).fl ∧ traps (.fsMax d a b) (fMinMax t true x y).fl ∧
      (∀ u, etyOfCode (modeETB c.md) = some u → etyIsInt u = true →
        traps (.fsCvtf d a) (cvtIntFp t md false (intVal u (s.reg a).toNat)).fl) ∧
      (∀ u, etyOfCode (modeETB c.md) = some u → etyIsFp u = true → traps (.fsCvt d a) (cvtFpFp u md sat (unpack t x)).fl) ∧
      (modeETB c.md = 15 → unpack t x = .nan true → traps (.fsCvt d a) fNV)) ∧
    traps (.fsEq d a b) (fEq t x y).2 ∧ traps (.fsLt d a b) (fLess t false x y).2 ∧ traps (.fsLe d a b) (fLess t true x y).2 ∧
    traps (.fsCvti d a) (cvtFpInt .i64 .rtz sat (unpack t x)).2

/-- R127, R129, R133: a finite value that a floating type holds is rounded to its own encoding, whatever the mode, with no
condition raised. R128: integer results wrap when SAT is 0, and saturate at the type's bounds with the SAT flag when it is 1.
-/
def Obligations.ExactValues : Prop :=
  (∀ (t : ETy) (md : RMode) (sat : Bool) (x : Nat), etyIsFp t = true → t ≠ .n4 → x < 2 ^ etyBits t →
     (∀ n, unpack t x ≠ .nan n) → (∀ n, unpack t x ≠ .inf n) → cvtFpFp t md sat (unpack t x) = ⟨x, 0⟩) ∧
  (∀ (t : ETy) (x : Int), etyIsInt t = true →
     let r := intResult t false x
     let q := intResult t true x
     r.1 < 2 ^ etyBits t ∧ r.2 = 0 ∧ (2 ^ etyBits t : Int) ∣ (r.1 : Int) - x ∧
     (intMin t ≤ x → x ≤ intMax t → q.2 = 0 ∧ intVal t q.1 = x) ∧
     (x < intMin t → q.2 = fSAT ∧ intVal t q.1 = intMin t) ∧ (intMax t < x → q.2 = fSAT ∧ intVal t q.1 = intMax t))

/-! ### Queue registers and MODE -/

/-- R114: a push to a queue with room appends, a pop from a queue that holds an entry removes the oldest, and a count gives
the number of entries. Nothing else but the PC's advance and the record of queue operations changes. R115: when the other
streams hold no instruction, a queue operation that would block closes a cycle: it raises QDEADLOCK, EVAL marking the queue
and EINFO the two streams. R28, R116, R117: `md.set` and `mr.put` replace MODE, `mr.get` reads it, and `mr.put` of a value
with a nonzero bit above 23 raises ILLEGAL with MODE unchanged. -/
def Obligations.QueueResults : Prop :=
  (∀ (d a : Reg) (v : Word) (r : List Word) (s : State), s.readable a → s.writable d →
     (s.cur.q0.length < 16 → ∃ t, exec (.qPush 0 a) s = .next t ∧
       t = s.advance.modCur (fun x => { x with q0 := s.cur.q0 ++ [s.reg a], qlog := t.cur.qlog })) ∧
     (s.cur.q2.length < 8 → ∃ t, exec (.qPush 2 a) s = .next t ∧
       t = s.advance.modCur (fun x => { x with q2 := s.cur.q2 ++ [s.reg a], qlog := t.cur.qlog })) ∧
     (s.cur.q1 = v :: r → s.cur.headPoison 1 = false → ∃ t, exec (.qPop d 1) s = .next t ∧ t.cur.q1 = r ∧
       t.cur.sc = (s.setReg d v).advance.cur.sc ∧ t.cur.q0 = s.cur.q0 ∧ t.cur.q2 = s.cur.q2 ∧ t.cur.q3 = s.cur.q3 ∧
       t.mem = s.mem ∧ t.quad = s.quad) ∧
     (s.cur.q3 = v :: r → s.cur.headPoison 3 = false → ∃ t, exec (.qPop d 3) s = .next t ∧ t.cur.q3 = r ∧
       t.cur.sc = (s.setReg d v).advance.cur.sc ∧ t.cur.q0 = s.cur.q0 ∧ t.cur.q1 = s.cur.q1 ∧ t.cur.q2 = s.cur.q2 ∧
       t.mem = s.mem ∧ t.quad = s.quad) ∧
     exec (.qCnt d 1) s = .next (s.setReg d (w64 s.cur.q1.length)).advance ∧
     exec (.qCnt d 3) s = .next (s.setReg d (w64 s.cur.q3.length)).advance) ∧
  (∀ (d a : Reg) (s : State), s.Quiet →
     let out (i : Instr) (eval einfo : Word) : Prop := exec i s = .next (s.trapEntry ⟨cQDEADLOCK, eval, einfo, 0, 15, false⟩)
     (16 ≤ s.cur.q0.length → out (.qPush 0 a) 1 3) ∧ (8 ≤ s.cur.q2.length → out (.qPush 2 a) 4 5) ∧
     (s.cur.q1 = [] → out (.qPop d 1) 2 3) ∧ (s.cur.q3 = [] → out (.qPop d 3) 8 5)) ∧
  (∀ (d a : Reg) (i : BitVec 24) (s : State), s.readable a → s.writable d →
     exec (.mdSet i) s = .next (s.modSc (fun c => { c with mode := i.zeroExtend 25 })).advance ∧
     exec (.mrGet d) s = .next (s.setReg d (s.cur.sc.mode.zeroExtend 64)).advance ∧
     (s.reg a >>> 24 = 0 → exec (.mrPut a) s = .next (s.modSc (fun c => { c with mode := (s.reg a).truncate 25 })).advance) ∧
     (s.reg a >>> 24 ≠ 0 → ∀ w, encode (.mrPut a) = some w →
       exec (.mrPut a) s = .next (s.stopFrom s (.trap ⟨cILLEGAL, w.zeroExtend 64, 0, 0, 15, false⟩))))

/-! ### Special registers -/

/-- R47, R93, R103, R120, R251: what `sy.rd` gives for every register of R47, by index. -/
def Obligations.SpecialRegisterReads : Prop :=
  ∀ (d : Reg) (s : State) (p : Part), s.Quiet → s.part? s.cur.ident.part = some p →
    let c := s.cur.sc
    let i := s.cur.ident
    let sts : Word := (c.fpen.zeroExtend 64 <<< 16) ||| (c.tnest.zeroExtend 64 <<< 10) ||| (if c.prv then 0x100 else 0) |||
      (if c.rolled then 8 else 0) ||| (if c.vlcut then 4 else 0) ||| (if c.nr then 2 else 0) ||| (if c.prot then 1 else 0)
    let lend (l : LoopEnd) : Word := (l.len.zeroExtend 64 <<< 48) ||| (l.stop.zeroExtend 64 <<< 2)
    (∀ r ∈ [(0x000#10, sts), (0x001#10, c.mode.zeroExtend 64), (0x002#10, c.flags.zeroExtend 64), (0x003#10, c.seed),
        (0x004#10, w64 s.cur.vlg), (0x005#10, w64 c.vlc), (0x008#10, c.epc), (0x009#10, c.ecause.zeroExtend 64), (0x00A#10, c.eval),
        (0x00B#10, c.einfo), (0x00C#10, s.cur.rstix.zeroExtend 64), (0x00D#10, c.turnprg.zeroExtend 64), (0x00E#10, c.trbase),
        (0x00F#10, c.esave.zeroExtend 64), (0x010#10, c.lcnt0), (0x011#10, lend c.lend0), (0x012#10, c.lcnt1), (0x013#10, lend c.lend1),
        (0x020#10, w64 i.strid), (0x021#10, w64 i.crewX), (0x022#10, w64 i.crewY), (0x023#10, w64 i.crewZ), (0x024#10, w64 i.ncrewX),
        (0x025#10, w64 i.ncrewY), (0x026#10, w64 i.ncrewZ), (0x027#10, w64 i.nstr), (0x028#10, w64 (4 * i.quad + i.core)),
        (0x029#10, w64 i.quad), (0x02A#10, w64 (i.quad / 36)), (0x02B#10, w64 i.devid), (0x02C#10, i.lparam),
        (0x040#10, w64 (s.cur.chan 0).cpdone), (0x041#10, w64 (s.cur.chan 1).cpdone), (0x042#10, w64 (s.cur.chan 2).cpdone),
        (0x043#10, w64 (s.cur.chan 3).cpdone), (0x048#10, s.cbstat), (0x050#10, c.scopelog), (0x051#10, c.scopectl.zeroExtend 64 <<< 1),
        (0x060#10, c.retHit), (0x061#10, c.retMiss), (0x062#10, c.retOvf), (0x063#10, c.l2Hit), (0x064#10, c.l2Miss), (0x070#10, w64 i.mirgrp),
        (0x080#10, c.tshape)],
      exec (.syRd d r.1) s = .next (s.setReg d r.2).advance) ∧
    (c.prv = true → ∀ r ∈ [(0x100#10, p.ptroot.zeroExtend 64 <<< 12), (0x101#10, p.asid.zeroExtend 64),
        (0x102#10, (p.fqbase.zeroExtend 64 <<< 12) ||| p.fqsize.zeroExtend 64), (0x103#10, p.fqhead.zeroExtend 64),
        (0x104#10, p.fqtail.zeroExtend 64), (0x105#10, w64 i.part), (0x106#10, w64 p.pthresh)],
      exec (.syRd d r.1) s = .next (s.setReg d r.2).advance)

/-- R93, R103, R120, R137, R392 and the maps of the registers: what `sy.wr` writes for every register that a user strand may
write; reserved bits are ignored, STS.ROLLED, VLCUT and NR are cleared by writing 1, SEED takes the constant for 0, and LEND
takes LEN 1 for 0. R267, R381, R399: what `sy.wr` writes for the privileged registers of the strand's partition, in privileged
state. R48, R43, R194: the checks on an index, in their order, and on the values that MODE and TSHAPE take. -/
def Obligations.SpecialRegisterWrites : Prop :=
  (∀ (a : Reg) (s : State), s.Quiet →
     let v := s.reg a
     let out (x : BitVec 10) (f : Scalar → Scalar) : Prop := exec (.syWr a x) s = .next (s.modSc f).advance
     let lend : LoopEnd := ⟨if (v >>> 48).truncate 12 = (0 : BitVec 12) then 1 else (v >>> 48).truncate 12, (v >>> 2).truncate 46⟩
     out 0x000 (fun c => { c with fpen := (v >>> 16).truncate 5, rolled := c.rolled && !v.getLsbD 3,
                                  vlcut := c.vlcut && !v.getLsbD 2, nr := c.nr && !v.getLsbD 1 }) ∧
     (v >>> 24 = 0 → out 0x001 (fun c => { c with mode := v.truncate 25 })) ∧
     out 0x002 (fun c => { c with flags := v.truncate 6 }) ∧
     out 0x003 (fun c => { c with seed := if v = 0 then 0x9E3779B97F4A7C15 else v }) ∧
     out 0x008 (fun c => { c with epc := v &&& 0xFFFFFFFFFFFFFFFC }) ∧ out 0x009 (fun c => { c with ecause := v.truncate 8 }) ∧
     out 0x00A (fun c => { c with eval := v }) ∧ out 0x00B (fun c => { c with einfo := v }) ∧
     exec (.syWr a 0x00C) s = .next (s.modCur (fun x => { x with rstix := v.truncate 16 })).advance ∧
     out 0x00D (fun c => { c with turnprg := v.truncate 33 }) ∧ out 0x00E (fun c => { c with trbase := v &&& 0xFFFFFFFFFFFFFFFC }) ∧
     out 0x00F (fun c => { c with esave := v.truncate 24 }) ∧ out 0x010 (fun c => { c with lcnt0 := v }) ∧
     out 0x011 (fun c => { c with lend0 := lend }) ∧ out 0x012 (fun c => { c with lcnt1 := v }) ∧
     out 0x013 (fun c => { c with lend1 := lend }) ∧ out 0x051 (fun c => { c with scopectl := (v >>> 1).truncate 5 }) ∧
     out 0x060 (fun c => { c with retHit := v }) ∧ out 0x061 (fun c => { c with retMiss := v }) ∧
     out 0x062 (fun c => { c with retOvf := v }) ∧ out 0x063 (fun c => { c with l2Hit := v }) ∧
     out 0x064 (fun c => { c with l2Miss := v }) ∧ (tshapeOk s.cur.sc.prot v = true → out 0x080 (fun c => { c with tshape := v }))) ∧
  (∀ (a : Reg) (s : State), s.Quiet → s.cur.sc.prv = true → (s.part? s.cur.ident.part).isSome = true →
     let v := s.reg a
     let out (x : BitVec 10) (f : Part → Part) : Prop := exec (.syWr a x) s = .next (s.modPart s.cur.ident.part f).advance
     out 0x100 (fun p => { p with ptroot := (v >>> 12).truncate 40 }) ∧ out 0x101 (fun p => { p with asid := v.truncate 16 }) ∧
     out 0x102 (fun p => { p with fqbase := (v >>> 12).truncate 40,
                                  fqsize := if 11 < v.toNat % 16 then 11 else v.truncate 4 }) ∧
     out 0x104 (fun p => { p with fqtail := if 16 * 2 ^ p.fqsize.toNat < (p.fqhead - v.truncate 32).toNat then p.fqhead
                                            else v.truncate 32 }) ∧
     out 0x106 (fun p => { p with pthresh := v.toNat % 64 })) ∧
  (∀ (d a : Reg) (x : BitVec 10) (s : State) (r w : IWord), s.Quiet →
     encode (.syRd d x) = some r → encode (.syWr a x) = some w →
     let trap (cause : Nat) (e : Word) : Host.Outcome State Fault Refusal := .next (s.trapEntry ⟨cause, e, 0, 0, 15, false⟩)
     (0x200 ≤ x.toNat → exec (.syRd d x) s = trap cILLEGAL (r.zeroExtend 64) ∧ exec (.syWr a x) s = trap cILLEGAL (w.zeroExtend 64)) ∧
     (0x100 ≤ x.toNat → x.toNat < 0x200 → s.cur.sc.prv = false →
       exec (.syRd d x) s = trap cPRIV (r.zeroExtend 64) ∧ exec (.syWr a x) s = trap cPRIV (w.zeroExtend 64)) ∧
     (x.toNat ∈ [0x006, 0x007, 0x014, 0x02D, 0x03F, 0x044, 0x049, 0x052, 0x065, 0x071, 0x081, 0x0FF] →
       exec (.syRd d x) s = trap cILLEGAL (r.zeroExtend 64) ∧ exec (.syWr a x) s = trap cILLEGAL (w.zeroExtend 64)) ∧
     (x.toNat ∈ [0x004, 0x005, 0x020, 0x021, 0x022, 0x023, 0x024, 0x025, 0x026, 0x027, 0x028, 0x029, 0x02A, 0x02B, 0x02C,
         0x040, 0x041, 0x042, 0x043, 0x048, 0x050, 0x070] → exec (.syWr a x) s = trap cILLEGAL (w.zeroExtend 64)) ∧
     (x = 0x001 → s.reg a >>> 24 ≠ 0 → exec (.syWr a x) s = trap cILLEGAL (w.zeroExtend 64)) ∧
     (x = 0x080 → tshapeOk s.cur.sc.prot (s.reg a) = false → exec (.syWr a x) s = trap cBOUNDS (s.reg a)))

/-! ### Exceptions -/

/-- R18, R35, R121, R126: the instructions whose effect is to raise a cause do so with the EVAL of their rules. R122:
`sy.eret` restores MODE from ESAVE, lowers TNEST and goes to EPC; outside a trap it raises ILLEGAL. -/
def Obligations.TrappingInstructions : Prop :=
  (∀ (c : BitVec 10) (k : BitVec 25) (w : IWord) (s : State), s.Quiet →
     exec (.syTrap c) s = .next (s.trapEntry ⟨cSW_TRAP, c.zeroExtend 64, 0, 0, 15, false⟩) ∧
     exec (.brk k) s = .next (s.trapEntry ⟨cBREAK, k.zeroExtend 64, 0, 0, 15, false⟩) ∧
     exec (.illegalWord w) s = .next (s.trapEntry ⟨cILLEGAL, w.zeroExtend 64, 0, 0, 15, false⟩) ∧
     exec .vfEnd s = .next (s.trapEntry ⟨cILLEGAL, 0x29000000, 0, 0, 15, false⟩)) ∧
  (∀ s : State,
     (s.cur.sc.tnest ≠ 0 → ∃ t, exec .syEret s = .next t ∧
       t = s.modSc (fun c => { c with mode := c.esave.zeroExtend 25, tnest := c.tnest - 1, pc := c.epc, icount := c.icount + 1 })) ∧
     (s.Quiet → s.cur.sc.tnest = 0 → exec .syEret s = .next (s.trapEntry ⟨cILLEGAL, 0x1E000C00, 0, 0, 15, false⟩)))

/-- R393: trap entry writes EPC, ECAUSE, EVAL, EINFO, RSTIX and ESAVE, resets MODE, increments TNEST, goes to TRBASE, and
changes no register and no memory. R395, R264: trap entry at TNEST = 3 or with TRBASE = 0 terminates the strand instead: it
passes no younger instruction and only finishes, and no trap register is written. -/
def Obligations.TrapEntryWrites : Prop :=
  (∀ (s : State) (t : Trap), s.cur.sc.tnest ≠ 3 → s.cur.sc.trbase ≠ 0 →
     TrapTaken s (s.trapEntry t) t.cause t.eval t.einfo t.rst ∧
     (s.trapEntry t).cur.sc.turnprg = s.cur.sc.turnprg ∧ (s.trapEntry t).cur.sc.flags = s.cur.sc.flags ∧
     (s.trapEntry t).cur.sc.lcnt0 = s.cur.sc.lcnt0 ∧ (s.trapEntry t).cur.sc.lcnt1 = s.cur.sc.lcnt1 ∧
     (s.trapEntry t).cur.v = s.cur.v ∧ (s.trapEntry t).cur.tiles = s.cur.tiles ∧ (s.trapEntry t).cur.masks = s.cur.masks ∧
     (s.trapEntry t).cur.q0 = s.cur.q0 ∧ (s.trapEntry t).cur.q1 = s.cur.q1 ∧ (s.trapEntry t).quad = s.quad) ∧
  (∀ (s : State) (t : Trap), s.cur.status = .running → (s.cur.sc.tnest = 3 ∨ s.cur.sc.trbase = 0) →
     (s.trapEntry t).cur.status = .ending ∧ (s.trapEntry t).cur.sc.epc = s.cur.sc.epc ∧
     (s.trapEntry t).cur.sc.ecause = s.cur.sc.ecause ∧ (s.trapEntry t).cur.sc.tnest = s.cur.sc.tnest)

/-- R394: a trap of the scalar stream waits while an older queued instruction may still complete, and one raised by a queued
instruction that no older one precedes is taken at that instruction, with the scalar state as it was when the front end passed
it. -/
def Obligations.TrapsInProgramOrder : Prop :=
  ∀ (s b : State) (t : Trap), t.cause ≠ cQDEADLOCK → s.cur.status ≠ .ending →
    (s.cur.inStream = 0 → s.cur.vq ≠ [] → s.cur.tried = false → b.stopFrom s (.trap t) = b.setWaiting) ∧
    (s.isAhead s.cur.uid = true → b.stopFrom s (.trap t) = b.setWaiting) ∧
    (∀ e r, s.cur.inStream = 1 → s.cur.vq = e :: r → s.isAhead s.cur.uid = false → s.cur.behindOlder e = false → e.snap.tnest ≠ 3 → e.snap.trbase ≠ 0 →
      let u := b.stopFrom s (.trap t)
      u.cur.sc.epc = e.snap.pc ∧ u.cur.sc.pc = e.snap.trbase ∧ u.cur.sc.regs = e.snap.regs ∧ u.cur.inStream = 0 ∧
      ∀ k ∈ u.cur.vq ++ u.cur.mq, k.seq < e.seq)

/-! ### The vector unit -/

/-- R128, R162, R166 to R170: what each element-wise arithmetic form of `va` writes when no raised condition is enabled. -/
def Obligations.VectorArithmetic : Prop :=
  ∀ (d a : Reg) (b : VSrc) (s : State) (t : ETy), s.VecReady → etyOfCode (modeETA s.cur.sc.md) = some t →
    s.spans d (etyBits t) (etyBits t) → s.spans a (etyBits t) (etyBits t) →
    (∀ r, b = .v r → s.spans r (etyBits t) (etyBits t)) → s.holdsVlc (etyBits t) →
    let w := etyBits t
    let sat := modeSAT s.cur.sc.md
    let x (e : Nat) := s.cur.elt a.toNat w e
    let y (e : Nat) := s.eltB b w e
    let z (e : Nat) := s.cur.elt d.toNat w e
    let out (i : Instr) (n : Nat) (f : Nat → Nat × Flags) : Prop := s.noTrap (fun e => (f e).2) →
      exec i s = .next ((s.putElts d w (s.guarded (fun e => (f e).1))).vecDone (s.flagsOver (fun e => (f e).2)) n)
    (etyIsInt t = true →
      let X (e : Nat) := intVal t (x e)
      let Y (e : Nat) := intVal t (y e)
      let Z (e : Nat) := intVal t (z e)
      out (.vaAdd d a b) 0 (fun e => intResult t sat (X e + Y e)) ∧ out (.vaSub d a b) 0 (fun e => intResult t sat (X e - Y e)) ∧
      out (.vaMul d a b) 0 (fun e => intResult t sat (X e * Y e)) ∧
      out (.vaMulh d a b) 0 (fun e => (wrapN w (X e * Y e / (2 ^ w : Nat)), 0)) ∧
      out (.vaFma d a b) 0 (fun e => intResult t sat (Z e + X e * Y e)) ∧
      out (.vaFms d a b) 0 (fun e => intResult t sat (Z e - X e * Y e)) ∧
      out (.vaFnma d a b) 0 (fun e => intResult t sat (-Z e - X e * Y e)) ∧
      out (.vaDiv d a b) 0 (fun e => (if y e = 0 then 2 ^ w - 1 else wrapN w ((X e).tdiv (Y e)), 0)) ∧
      out (.vaMin d a b) 0 (fun e => (if X e < Y e then x e else y e, 0)) ∧
      out (.vaMax d a b) 0 (fun e => (if X e < Y e then y e else x e, 0)) ∧
      out (.vaAbs d a) 0 (fun e => intResult t sat (X e).natAbs) ∧ out (.vaNeg d a) 0 (fun e => intResult t sat (-X e)) ∧
      out (.vaAnd d a b) 0 (fun e => (x e &&& y e, 0)) ∧ out (.vaOr d a b) 0 (fun e => (x e ||| y e, 0)) ∧
      out (.vaXor d a b) 0 (fun e => (x e ^^^ y e, 0)) ∧ out (.vaShl d a b) 0 (fun e => (x e * 2 ^ (y e % w) % 2 ^ w, 0)) ∧
      out (.vaShr d a b) 0 (fun e => (x e / 2 ^ (y e % w), 0)) ∧
      out (.vaSra d a b) 0 (fun e => (wrapN w ((if 2 ^ (w - 1) ≤ x e then (x e : Int) - (2 ^ w : Nat) else x e) / (2 ^ (y e % w) : Nat)), 0)) ∧
      out (.vaClip d a b) 0 (fun e =>
        (if etySigned t then
          let k : Int := (Y e).natAbs
          wrapN w (min (max (-k) (min k (X e))) (intMax t))
        else if Y e < X e then y e else x e, 0))) ∧
    (etyIsArith t = true → modeRND s.cur.sc.md ≤ 5 →
      let n := if modeRND s.cur.sc.md = 5 then s.cur.sc.vlc else 0
      let fp (i : Instr) (f : RMode → Nat → FRes) : Prop := out i n (fun e => ((f (s.roundAt n e) e).bits, (f (s.roundAt n e) e).fl))
      fp (.vaAdd d a b) (fun md e => fAdd t md sat (x e) (y e)) ∧ fp (.vaSub d a b) (fun md e => fSub t md sat (x e) (y e)) ∧
      fp (.vaMul d a b) (fun md e => fMul t md sat (x e) (y e)) ∧
      fp (.vaFma d a b) (fun md e => fFmaT t md sat false false (x e) (y e) (z e)) ∧
      fp (.vaFms d a b) (fun md e => fFmaT t md sat true false (x e) (y e) (z e)) ∧
      fp (.vaFnma d a b) (fun md e => fFmaT t md sat true true (x e) (y e) (z e)) ∧
      fp (.vaDiv d a b) (fun md e => fDiv t md sat (x e) (y e)) ∧ fp (.vaSqrt d a) (fun md e => fSqrt t md sat (x e)) ∧
      fp (.vaRsqrt d a) (fun md e => fRsqrt t md sat (x e)) ∧ fp (.vaRecip d a) (fun md e => fRecip t md sat (x e)) ∧
      fp (.vaExp2 d a) (fun md e => fExp2 t md sat (x e)) ∧ fp (.vaLog2 d a) (fun md e => fLog2 t md sat (x e)) ∧
      fp (.vaMin d a b) (fun _ e => fMinMax t false (x e) (y e)) ∧ fp (.vaMax d a b) (fun _ e => fMinMax t true (x e) (y e)) ∧
      fp (.vaAbs d a) (fun _ e => ⟨x e % 2 ^ (w - 1), 0⟩) ∧
      fp (.vaNeg d a) (fun _ e => ⟨if 2 ^ (w - 1) ≤ x e then x e - 2 ^ (w - 1) else x e + 2 ^ (w - 1), 0⟩) ∧
      fp (.vaClip d a b) (fun _ e =>
        if isNaN (unpack t (x e)) || isNaN (unpack t (y e)) then ⟨defaultNaN t, sigFlag (unpack t (x e)) (unpack t (y e))⟩
        else ⟨(fMinMax t false (fMinMax t true (x e) (y e % 2 ^ (w - 1) + 2 ^ (w - 1))).bits (y e % 2 ^ (w - 1))).bits, 0⟩))

/-- R143, R146, R171 to R173: what `va.cvt`, `va.mulw` and `va.dotw` write when no raised condition is enabled. -/
def Obligations.VectorConversions : Prop :=
  ∀ (d a : Reg) (b : VSrc) (s : State) (t u : ETy), s.VecReady → etyOfCode (modeETA s.cur.sc.md) = some t →
    (if modeETB s.cur.sc.md = 15 then u = t else etyOfCode (modeETB s.cur.sc.md) = some u ∧ u ≠ .n4) →
    s.holdsVlc (etyBits t) → s.spans a (etyBits t) (etyBits t) →
    let c := s.cur.sc
    let sat := modeSAT c.md
    let g := modeGRP c.md
    let n := if modeRND c.md = 5 then c.vlc else 0
    let act (e : Nat) : Bool := s.cur.active e
    (modeRND c.md ≤ 5 → s.spans d (etyBits u) (etyBits t) → (t = .n4 → a.toNat + max g 1 < 32 ∧ (u = .n4 → d.toNat + max g 1 < 32)) →
      let same := decide (modeETB c.md = 15)
      let f (e : Nat) := cvtElt t u same (s.roundAt n e) sat (s.cur.scaleOf a.toNat g (e / 32)) (s.cur.elt a.toNat (etyBits t) e)
      s.noTrap (fun e => (f e).2) →
      let r := s.putElts d (etyBits u) (s.guarded (fun e => (f e).1))
      let q := if same ∧ t = .n4 then r.modCur (fun y => s.cur.copyScales y d.toNat a.toNat g c.vlc) else r
      exec (.vaCvt d a) s = .next (q.vecDone (s.flagsOver (fun e => (f e).2)) n)) ∧
    (etyArith t = true → u ≠ .n4 → etyBits u ≤ etyBits t → etyIsInt t = etyIsInt u → s.spans d (etyBits t) (etyBits t) →
      (∀ r, b = .v r → s.spans r (etyBits u) (etyBits t)) → (etyIsFp t = true → modeRND c.md ≤ 5) →
      let m := if etyIsFp t then n else 0
      let x (e : Nat) := s.cur.elt a.toNat (etyBits t) e
      let y (e : Nat) := s.eltB b (etyBits u) e
      (let f (e : Nat) : Nat × Flags :=
         if etyIsInt t then intResult t sat (intVal t (x e) * intVal u (y e))
         else ((mulV t (s.roundAt m e) sat (unpack t (x e)) (unpack u (y e))).bits,
               (mulV t (s.roundAt m e) sat (unpack t (x e)) (unpack u (y e))).fl)
       s.noTrap (fun e => (f e).2) →
       exec (.vaMulw d a b) s = .next ((s.putElts d (etyBits t) (s.guarded (fun e => (f e).1))).vecDone (s.flagsOver (fun e => (f e).2)) m)) ∧
      (let js := List.range ((c.vlc + 3) / 4)
       let seg (j : Nat) := ((List.range 4).map (4 * j + ·)).filter act
       let z (j : Nat) := s.cur.elt d.toNat (etyBits t) j
       let f (j : Nat) : Nat × Flags :=
         if etyIsInt t then
           intResult t sat ((seg j).foldl (fun (k : Int) e => k + intVal t (x e) * intVal u (y e)) (intVal t (z j)))
         else
           let ps := (seg j).map (fun e => (unpack t (x e), unpack u (y e)))
           let sig := decide (unpack t (z j) = .nan true) || ps.any (fun p => decide (p.1 = .nan true) || decide (p.2 = .nan true))
           let r := dotRound t (s.roundAt m j) sat sig (unpack t (z j)) (ps.map (fun p => prodOf p.1 p.2))
           (r.bits, r.fl)
       (∀ j ∈ js, (f j).2 &&& c.fpen.zeroExtend 6 = 0) →
       exec (.vaDotw d a b) s = .next ((s.modCur (fun y => js.foldl (fun (y : Strand) j => y.setElt d.toNat (etyBits t) j (f j).1) y)).vecDone
         (js.foldl (fun a j => a ||| (f j).2) 0) m)))

/-- R158: an element reads as the low bits of what was last written there, and writing it leaves every other element of the
group, every other register and the masks alone, where no strip ring covers the registers. The grants of R153 are the
multiples of 32 up to 512. R161, R162, R174, R175: what each `vm` form writes: bits 0 to VLC − 1 of the destination mask, m0
excepted, or a scalar register. -/
def Obligations.ElementLaws : Prop :=
  (∀ (x : Strand) (r w e v : Nat), x.ring = none → x.closed = [] → w ∈ [8, 16, 32, 64] → 32 ∣ x.vlg → 0 < x.vlg → x.vlg ≤ 512 → r + e * w / (32 * x.vlg) < 32 →
     (x.setElt r w e v).elt r w e = v % 2 ^ w ∧
     (∀ j, j ≠ e → r + j * w / (32 * x.vlg) < 32 → (x.setElt r w e v).elt r w j = x.elt r w j) ∧
     (∀ k, k ≠ r + e * w / (32 * x.vlg) → (x.setElt r w e v).vreg k = x.vreg k) ∧
     (x.setElt r w e v).masks = x.masks ∧ (x.setElt r w e v).sc = x.sc ∧ (x.setElt r w e v).tiles = x.tiles) ∧
  (∀ (d a b r : Reg) (c : VSrc) (s : State), s.VecReady → d.toNat < 8 → s.cur.bound d.toNat = false →
     let put (i : Instr) (fl : Flags) (bit : Nat → Bool) : Prop := ∃ t, exec i s = .next t ∧
       t = ({ s with cur := { s.cur with masks := t.cur.masks, rstix := 0, wrote := [], sc := { s.cur.sc with flags := s.cur.sc.flags ||| fl } } }).advance ∧
       ∀ m < 8, ∀ e < 512, t.cur.maskBit m e = if m = d.toNat ∧ m ≠ 0 ∧ e < s.cur.sc.vlc then bit e else s.cur.maskBit m e
     put (.vmAnd d a b) 0 (fun e => s.cur.maskBit a.toNat e && s.cur.maskBit b.toNat e) ∧
     put (.vmOr d a b) 0 (fun e => s.cur.maskBit a.toNat e || s.cur.maskBit b.toNat e) ∧
     put (.vmXor d a b) 0 (fun e => s.cur.maskBit a.toNat e != s.cur.maskBit b.toNat e) ∧
     put (.vmAndn d a b) 0 (fun e => s.cur.maskBit a.toNat e && !s.cur.maskBit b.toNat e) ∧
     put (.vmNot d a) 0 (fun e => !s.cur.maskBit a.toNat e) ∧
     put (.vmFill d r) 0 (fun e => decide (e < (s.reg r).toNat)) ∧
     exec (.vmPop r a) s =
       .next ((s.setReg r (w64 ((List.range s.cur.sc.vlc).countP (fun e => s.cur.maskBit a.toNat e)))).vecDone 0 0) ∧
     exec (.vmFirst r a) s =
       .next ((s.setReg r (match (List.range s.cur.sc.vlc).find? (fun e => s.cur.maskBit a.toNat e) with
         | some e => w64 e
         | none => 0xFFFFFFFFFFFFFFFF)).vecDone 0 0) ∧
     ∀ t, etyOfCode (modeETA s.cur.sc.md) = some t → etyArith t = true → s.spans a (etyBits t) (etyBits t) →
       (∀ q, c = .v q → s.spans q (etyBits t) (etyBits t)) → s.holdsVlc (etyBits t) →
       let x (e : Nat) := s.cur.elt a.toNat (etyBits t) e
       let y (e : Nat) := s.eltB c (etyBits t) e
       let cmp (i : Instr) (fi : Int → Int → Bool) (ff : Nat → Nat → Bool × Flags) : Prop :=
         let f (e : Nat) : Bool × Flags := if etyIsInt t then (fi (intVal t (x e)) (intVal t (y e)), 0) else ff (x e) (y e)
         s.noTrap (fun e => (f e).2) → put i (s.flagsOver (fun e => (f e).2)) (fun e =>
           if s.cur.active e then (f e).1 else if modeZM s.cur.sc.md then false else s.cur.maskBit d.toNat e)
       cmp (.vmEq d a c) (fun p q => p == q) (fEq t) ∧ cmp (.vmNe d a c) (fun p q => p != q) (fun p q => (!(fEq t p q).1, (fEq t p q).2)) ∧
       cmp (.vmLt d a c) (fun p q => decide (p < q)) (fLess t false) ∧ cmp (.vmLe d a c) (fun p q => decide (p ≤ q)) (fLess t true) ∧
       cmp (.vmGt d a c) (fun p q => decide (q < p)) (fun p q => fLess t false q p) ∧
       cmp (.vmGe d a c) (fun p q => decide (q ≤ p)) (fun p q => fLess t true q p) ∧
       cmp (.vmUnord d a c) (fun _ _ => false)
         (fun p q => (isNaN (unpack t p) || isNaN (unpack t q), sigFlag (unpack t p) (unpack t q))))

/-- R114, R151, R176 to R179: what each `vp` form writes; R156: what the `vl` forms write. -/
def Obligations.PermuteResults : Prop :=
  ∀ (d a b r q : Reg) (c : VSrc) (s : State), s.VecReady →
    exec (.vlSet r q) s = .next ((s.modSc (fun c => { c with vlc := min (s.reg q).toNat s.cur.vlg })).setReg r
      (w64 (min (s.reg q).toNat s.cur.vlg))).advance ∧
    exec (.vlGet r) s = .next (s.setReg r (w64 s.cur.sc.vlc)).advance ∧
    ∀ t, etyOfCode (modeETA s.cur.sc.md) = some t → t ≠ .n4 → s.holdsVlc (etyBits t) →
    let w := etyBits t
    let n := s.cur.sc.vlc
    let zm := modeZM s.cur.sc.md
    let sat := modeSAT s.cur.sc.md
    let x (e : Nat) := s.cur.elt a.toNat w e
    let act (e : Nat) : Bool := s.cur.active e
    let k := (s.reg r).toNat
    let es := (List.range n).filter act
    let put (i : Instr) (f : Nat → Option Nat) : Prop := exec i s = .next ((s.putElts d w f).vecDone 0 0)
    let live (f : Nat → Option Nat) (e : Nat) : Option Nat := if act e then f e else if zm then some 0 else none
    let first (i : Instr) (m : Nat) (v : Nat × Flags) : Prop := v.2 &&& s.cur.sc.fpen.zeroExtend 6 = 0 →
      exec i s = .next ((s.modCur (fun y => y.setElt d.toNat w 0 v.1)).vecDone v.2 m)
    (s.spans d w w →
      put (.vpBcast d r) (fun _ => some k) ∧ (etyIsInt t = true → put (.vpIota d) some) ∧
      (∀ v l, s.cur.q0 = v :: l → k < n → exec (.vpIns d r) s =
        .next (((s.modCur (fun y => { y with q0 := l })).modCur (fun y => y.setElt d.toNat w k v.toNat)).vecDone 0 0)) ∧
      (n ≤ k → exec (.vpIns d r) s = s.traps cBOUNDS (s.reg r) 0)) ∧
    (s.spans a w w →
      (s.cur.q1.length < 16 → k < n → exec (.vpExt a r) s =
        .next ((s.modCur (fun y => { y with q1 := y.q1 ++
          [if etyIsInt t && etySigned t then BitVec.ofInt 64 (intVal t (x k)) else w64 (x k)] })).vecDone 0 0)) ∧
      (n ≤ k → exec (.vpExt a r) s = s.traps cBOUNDS (s.reg r) 0)) ∧
    (s.spans d w w → s.spans a w w →
      put (.vpMv d a) (live (fun e => some (x e))) ∧
      put (.vpSlup d a r) (live (fun e => if e < k then none else some (x (e - k)))) ∧
      put (.vpSldn d a r) (live (fun e => some (if e + k < n then x (e + k) else 0))) ∧
      (s.spans b w w → put (.vpPerm d a b) (live (fun e =>
        some (if s.cur.elt b.toNat w e < n then x (s.cur.elt b.toNat w e) else 0)))) ∧
      put (.vpCompress d a) (fun e => match es[e]? with | some j => some (x j) | none => if zm then some 0 else none) ∧
      ((∀ p, c = .v p → s.spans p w w) → put (.vpSel d a c) (fun e => some (if act e then x e else s.eltB c w e))) ∧
      (etyIsInt t = true →
        first (.vpRsum d a) 0 (intResult t sat (es.foldl (fun (m : Int) e => m + intVal t (x e)) 0))) ∧
      (etyIsArith t = true → modeRND s.cur.sc.md ≤ 5 →
        let m := if modeRND s.cur.sc.md = 5 then treeSize n - 1 else 0
        first (.vpRsum d a) m (if treeSize n = 1 then soleSum t (if 0 < n ∧ act 0 then x 0 else zeroOf t true) else sumTree t (modeRND s.cur.sc.md) sat 10
          ((List.range (treeSize n)).map (fun e => if e < n ∧ act e then x e else zeroOf t true)) (draws m s.cur.sc.seed).1)) ∧
      (etyArith t = true → first (.vpRmax d a) 0 (extreme t true (es.map x)) ∧ first (.vpRmin d a) 0 (extreme t false (es.map x))))

/-- R17, R118, R157: behind an older queued instruction, an instruction of the vector or matrix stream is queued with the
scalar state of that moment and the front end goes on; R19: `vf.go` is queued with the words that its scan found. -/
def Obligations.StreamsQueue : Prop :=
  ∀ (d a b : Reg) (o : BitVec 24) (s : State), s.cur.inStream = 0 →
    let entry (x : Strand) (i : Instr) (ws : List IWord) : Entry :=
      ⟨i, x.sc, x.seqNo, ws, none, x.poison.filter (fun k => k.kind == 0), x.chans.map (·.shadow), x.tids⟩
    (s.cur.vq ≠ [] ∨ s.cur.mq ≠ [] → s.cur.bound d.toNat = false → exec (.vmAnd d a b) s =
      .next (s.modCur (fun x => { x with seqNo := x.seqNo + 1, vq := x.vq ++ [entry x (.vmAnd d a b) []] })).advance) ∧
    (s.cur.vq ≠ [] ∨ s.cur.mq ≠ [] → d.toNat < s.cur.ntiles → d.toNat < 8 → s.cur.sc.busy.getLsbD d.toNat = true →
      exec (.mxZero d) s =
      .next (s.modCur (fun x => { x with seqNo := x.seqNo + 1, mq := x.mq ++ [entry x (.mxZero d) []] })).advance) ∧
    ∀ ws u, vfCheck (.vfGo o) (s.cur.sc.pc + 4 * o.signExtend 64) s = .ok ws u → exec (.vfGo o) s =
      .next (u.modCur (fun x => { x with seqNo := x.seqNo + 1, vq := x.vq ++ [entry x (.vfGo o) ws] })).advance

/-- R187, R188, R190: a block at the head of the vector stream. When no active element is left, at its start or at the
`vf.end` of an element, the instruction completes: RSTIX is 0, it leaves its stream, and the pairs that its words write are
zero in inactive elements under ZM; otherwise the next active element begins at the block's first word. R187 to R189: at the
head of the vector stream, a word of a block works on the slots of the running element: `ia.add` stands for the words that
write a register. No other slot and no scalar register of the front end changes. -/
def Obligations.BlockRuns : Prop :=
  (∀ (o : BitVec 24) (s : State) (e : Entry) (rest : List Entry) (c : Scalar) (start : Nat) (g : BitVec 512),
     s.cur.inStream = 1 → s.cur.vq = e :: rest → s.cur.saved = some c → s.cur.poison = [] → s.cur.ring = none → s.cur.closed = [] →
     s.cur.mlines = [] → 32 ∣ s.cur.vlg → s.cur.sc.vlc ≤ s.cur.vlg → s.cur.vlg ≤ 512 →
     (s.cur.vf = none ∧ start = s.cur.rstix.toNat ∧ g = s.cur.mask (modeG s.cur.sc.md)) ∨
       (∃ r, s.cur.vf = some r ∧ r.bpc = r.base + 4 * w64 (r.words.length - 1) ∧ start = r.e + 1 ∧ g = r.guard) →
     let act (n : Nat) : Prop := n < s.cur.sc.vlc ∧ (modeG s.cur.sc.md = 0 ∨ g.getLsbD n ≠ modeGN s.cur.sc.md)
     let base := s.cur.sc.pc + 4 * o.signExtend 64
     let slot (x : Strand) (q n : Nat) : Word := w64 (x.elt q 64 n)
     let dest (q : Nat) : Prop := ∃ w ∈ e.block, ∃ i d, decode w = .ok i ∧ blockDest i = some d ∧ d.toNat = q
     ((∀ n, start ≤ n → ¬ act n) → (∀ q, dest q → q % 2 = 0) → ∃ t, exec (.vfGo o) s = .next t ∧ t.cur.vf = none ∧ t.cur.rstix = 0 ∧
       t.cur.inStream = 0 ∧ t.cur.saved = none ∧ t.cur.vq.length = rest.length ∧ t.cur.sc.regs = c.regs ∧ t.cur.sc.pc = c.pc ∧
       t.mem = s.mem ∧ t.quad = s.quad ∧ t.cur.tiles = s.cur.tiles ∧ t.cur.masks = s.cur.masks ∧
       (modeZM s.cur.sc.md = false → t.cur.v = s.cur.v) ∧
       (modeZM s.cur.sc.md = true → ∀ q n, q < 32 → q % 2 = 0 → n < s.cur.vlg →
         (n < s.cur.sc.vlc → ¬ act n → q ≠ 0 → dest q → slot t.cur q n = 0) ∧
         (act n ∨ s.cur.sc.vlc ≤ n ∨ q = 0 ∨ ¬ dest q → slot t.cur q n = slot s.cur q n))) ∧
     ∀ n, start ≤ n → act n → (∀ m, start ≤ m → m < n → ¬ act m) → ∃ t, exec (.vfGo o) s = .next t ∧
       (∃ sv, t.cur.vf = some ⟨base, e.block, n, base, sv, s.cur.sc.flags, [], g⟩) ∧ t.cur.v = s.cur.v ∧ t.cur.inStream = 0 ∧
       t.cur.vq.length = s.cur.vq.length ∧ t.cur.sc.regs = c.regs ∧ t.cur.sc.pc = c.pc ∧ t.mem = s.mem ∧ t.quad = s.quad ∧
       t.cur.masks = s.cur.masks ∧ t.cur.tiles = s.cur.tiles) ∧
  (∀ (o : BitVec 24) (d a b : Reg) (s : State) (e : Entry) (c : Scalar) (r : VfRun) (k : Nat),
     s.cur.inStream = 1 → s.cur.vq.head? = some e → s.cur.saved = some c → s.cur.vf = some r → s.cur.poison = [] →
     s.cur.ring = none → s.cur.closed = [] →
     32 ∣ s.cur.vlg → s.cur.vlg ≤ 512 → r.e < s.cur.vlg → r.bpc = r.base + w64 (4 * k) → k + 1 < r.words.length →
     r.words.length ≤ 256 → decode (r.words.getD k 0) = .ok (.iaAdd d a b) → d ≠ 0 →
     d.toNat % 2 = 0 → a.toNat % 2 = 0 → b.toNat % 2 = 0 →
     let slot (x : Strand) (q : Nat) : Word := if q = 0 then 0 else w64 (x.elt q 64 r.e)
     ∃ t, exec (.vfGo o) s = .next t ∧ slot t.cur d.toNat = slot s.cur a.toNat + slot s.cur b.toNat ∧
       (∀ q < 32, q % 2 = 0 → q ≠ d.toNat → slot t.cur q = slot s.cur q) ∧
       t.cur.vf = some { r with bpc := r.bpc + 4 } ∧ t.cur.inStream = 0 ∧ t.cur.sc.regs = c.regs ∧ t.cur.sc.pc = c.pc ∧
       t.mem = s.mem ∧ t.quad = s.quad)

/-- R239, R241: what each `vld` form writes when its elements lie in the strand's scratchpad allotment; a probe clears the
bits of m7 (R242). Element e's address is s[A], plus its place, its stride or its index. R223, R225, R239 to R241: each `vst`
form whose elements lie in the strand's scratchpad allotment enters the bytes of its active elements in the core's outbound
buffer, un-turned, where the buffer has room for its lines. Memory, the registers and every other byte of the buffer stay. -/
def Obligations.VectorLoads : Prop :=
  (∀ (d a b : Reg) (eo ov p : Bool) (s : State) (t : ETy), s.VecReady → etyOfCode (modeETA s.cur.sc.md) = some t → t ≠ .n4 →
     s.spans d (etyBits t) (etyBits t) → s.holdsVlc (etyBits t) → (p = true → s.cur.bound 7 = false) →
     let w := etyBits t
     let ld (i : Instr) (addr : Nat → Word) : Prop := ∀ off : Nat → Nat,
       (∀ e < s.cur.sc.vlc, s.cur.active e = true → addr e = w64 (scratchBase + off e) ∧ s.padPlain (off e) (w / 8)) →
       exec i s = .next (((s.putElts d w (s.guarded (fun e => s.padNat (off e) (w / 8)))).modCur (fun y =>
         (List.range s.cur.sc.vlc).foldl (fun (y : Strand) e =>
           if p ∧ (s.cur.active e ∨ modeZM s.cur.sc.md) then y.setMaskBit 7 e false else y) y)).vecDone 0 0)
     ld (.vldU d a eo ov p) (fun e => s.reg a + w64 (e * (w / 8))) ∧
     ld (.vldS d a b eo ov p) (fun e => s.reg a + w64 e * s.reg b) ∧
     (s.spans b w w → ld (.vldX d a b eo ov p) (fun e => s.reg a +
       BitVec.ofInt 64 (if 2 ^ (w - 1) ≤ s.cur.elt b.toNat w e then (s.cur.elt b.toNat w e : Int) - (2 ^ w : Nat) else s.cur.elt b.toNat w e)))) ∧
  (∀ (d a b : Reg) (eo ov : Bool) (s : State) (t : ETy), s.VecReady → etyOfCode (modeETA s.cur.sc.md) = some t → t ≠ .n4 →
     s.spans d (etyBits t) (etyBits t) → s.holdsVlc (etyBits t) → s.cur.marks.length + 2 * s.cur.sc.vlc ≤ 8192 →
     s.cur.pend.length + 2 * s.cur.sc.vlc ≤ 8192 → s.cur.ident.alen ≤ 2 ^ 21 →
     let w := etyBits t
     let n := w / 8
     let me := s.cur.ident.core
     let base := scratchKey s.cur.ident.quad s.cur.ident.abase
     let st (i : Instr) (addr : Nat → Word) : Prop := ∀ (off : Nat → Nat) (ls : List Nat),
       (∀ e < s.cur.sc.vlc, s.cur.active e = true → addr e = w64 (scratchBase + off e) ∧ off e % 4096 + n ≤ 4096 ∧
         off e + n ≤ s.cur.ident.alen ∧ ∀ j < n, lineOf (base + off e + j) ∈ ls) →
       (∀ l ∈ outLines s.quad.d.out (some me), l ∈ ls) → ls.length ≤ 64 →
       let writes (e k : Nat) : Prop := e < s.cur.sc.vlc ∧ s.cur.active e = true ∧ base + off e ≤ k ∧ k < base + off e + n
       ∃ u, exec i s = .next u ∧ u.mem = s.mem ∧ u.cur.sc = s.cur.sc.advance ∧ u.cur.v = s.cur.v ∧ u.cur.masks = s.cur.masks ∧
         u.cur.tiles = s.cur.tiles ∧
         (∀ e j, j < n → writes e (base + off e + j) → (∀ f, writes f (base + off e + j) → f = e) →
           (stage1 u.quad.d me (base + off e + j) true).map (·.val) = some (BitVec.ofNat 8 (s.cur.elt d.toNat w e / 256 ^ j)) ∧
           stage1 u.quad.d me (base + off e + j) false = none) ∧
         ∀ c k, (c ≠ some me ∨ ∀ e, ¬ writes e k) →
           (u.quad.d.out.filter (fun x => x.core == c && x.key == k)).map (fun x => (x.val, x.turned, x.owners)) =
             (s.quad.d.out.filter (fun x => x.core == c && x.key == k)).map (fun x => (x.val, x.turned, x.owners))
     st (.vstU d a eo ov) (fun e => s.reg a + w64 (e * n)) ∧ st (.vstS d a b eo ov) (fun e => s.reg a + w64 e * s.reg b) ∧
     (s.spans b w w → st (.vstX d a b eo ov) (fun e => s.reg a +
       BitVec.ofInt 64 (if 2 ^ (w - 1) ≤ s.cur.elt b.toNat w e then (s.cur.elt b.toNat w e : Int) - (2 ^ w : Nat) else s.cur.elt b.toNat w e))))

/-- R180 to R185: the strip ring: `vb.decl` makes or ends it, the registers of an ended one keeping their contents; `vb.ld`
sends a strip to its next buffer, `vb.take` copies and binds a filled buffer, `vb.free` frees the longest bound one and
refuses another group size; a full ring with no strip on its way closes a cycle. -/
def Obligations.StripRing : Prop :=
  ∀ (d a b : Reg) (s : State), s.Quiet →
    let g := modeGRP s.cur.sc.md
    let n := (s.reg a).toNat
    let grouped := d.toNat % g = 0 ∧ d.toNat + g ≤ 32
    let put (r : Ring) : State := s.modCur (fun x => { x with ring := some r })
    let opened : State := match s.cur.ring with
      | some r => s.modCur (fun x => x.openUp { r with stop := x.seqNo })
      | none => s
    ((n = 0 → exec (.vbDecl d a) s = .next (opened.modCur (fun x => { x with ring := none })).advance) ∧
      (1 ≤ n → n ≤ 8 → d.toNat % g = 0 → d.toNat + n * g ≤ 32 → exec (.vbDecl d a) s =
        .next (opened.modCur (fun x => { x with ring := some {
          f := d.toNat, c := n, g := g, bufs := List.replicate n .free, fp := 0, tp := 0, order := [], strips := [],
          data := List.replicate (n * g) 0, bad := [], seq := s.cur.seqNo, stop := 0 } })).advance) ∧
      (1 ≤ n → n ≤ 8 → d.toNat % g ≠ 0 ∨ 32 < d.toNat + n * g → ∀ w, encode (.vbDecl d a) = some w →
        exec (.vbDecl d a) s = s.traps cILLEGAL (w.zeroExtend 64) 16) ∧
      (8 < n → exec (.vbDecl d a) s = s.traps cBOUNDS (s.reg a) 0)) ∧
    ∀ r, s.cur.ring = some r →
      (∀ off : Nat → Nat, r.buf r.fp = .free → 1 ≤ r.g → r.g ≤ 8 →
        let stride := if s.reg b = 0 then w64 (4 * r.g) else s.reg b
        let va (e : Nat) : Word := s.reg a + w64 e * stride
        (∀ e < s.cur.sc.vlc, va e = w64 (scratchBase + off e) ∧ s.padPlain (off e) (4 * r.g)) →
        exec (.vbLd a b) s = .next ((put { r with
          bufs := r.bufs.set r.fp .filling, fp := (r.fp + 1) % r.c,
          strips := r.strips ++ [⟨r.fp, (List.range s.cur.sc.vlc).map (fun e =>
              [⟨va e, 4 * r.g, scratchKey s.cur.ident.quad (s.cur.ident.abase + off e), none, false⟩]),
            modePOL s.cur.sc.md, s.cur.seqNo, none⟩] }).modCur (fun x => { x with qlog := [] })).advance) ∧
      (r.buf r.fp = .filled ∨ (∃ q, r.buf r.fp = .bound q) → exec (.vbLd a b) s =
        .next (s.trapEntry ⟨cQDEADLOCK, 0, 11, 0, 7, false⟩)) ∧
      (grouped → g = r.g → r.meets d.toNat g = false → r.bad = [] → (∀ t ∈ r.strips, t.got = none) → r.buf r.tp = .filled → exec (.vbTake d) s =
        .next (((s.modCur (fun x => (List.range g).foldl (fun (y : Strand) k =>
            y.setVreg (d.toNat + k) (r.data.getD (r.tp * r.g + k) 0)) x)).modCur (fun x => { x with ring := some { r with
          bufs := r.bufs.set r.tp (.bound d.toNat), tp := (r.tp + 1) % r.c, order := r.order ++ [r.tp] } })).vecDone 0 0)) ∧
      (∀ k q, grouped → r.order = k :: q → r.buf k = .bound d.toNat →
        (g = r.g → exec (.vbFree d) s = .next ((put { r with bufs := r.bufs.set k .free, order := q }).vecDone 0 0)) ∧
        (g ≠ r.g → ∀ w, encode (.vbFree d) = some w → exec (.vbFree d) s = s.traps cILLEGAL (w.zeroExtend 64) 0))

/-- R182, R184: a strip that stands in the scratchpad alone arrives in its buffer: element by element as the scratchpad holds
it now, with zero above the strip and no poison, and the buffer is FILLED; every other register, and memory, stay. Without
such a strip nothing changes. -/
def Obligations.StripArrival : Prop :=
  ∀ (s : State) (buf : Nat), s.cur.status ≠ .absent → s.Quiet →
    ((∀ r, s.cur.ring = some r → ∀ w ∈ r.due, w.buf ≠ buf) → exec (.stripFilled s.cur.uid buf) s = .next s) ∧
    ∀ (r : Ring) (w : Strip) (off : Nat → Nat), s.cur.ring = some r →
      w ∈ r.strips → w.buf = buf → (∀ t ∈ r.strips, t.got = none ∧ (t.buf = buf → t = w)) → r.seq ≤ s.cur.seqNo → r.g ∈ [1, 2, 4, 8] → buf < r.c → r.f + r.c * r.g ≤ 32 →
      r.data.length = r.c * r.g → s.cur.vlg % 32 = 0 → s.cur.vlg ≤ 512 → w.els.length ≤ s.cur.vlg →
      (∀ e < w.els.length, w.els.getD e [] = [⟨w64 (scratchBase + off e), 4 * r.g,
        scratchKey s.cur.ident.quad (s.cur.ident.abase + off e), none, false⟩] ∧ s.padPlain (off e) (4 * r.g)) →
      let reg := r.f + buf * r.g
      ∃ t, exec (.stripFilled s.cur.uid buf) s = .next t ∧ t.mem = s.mem ∧ t.cur.sc = s.cur.sc ∧ t.cur.tiles = s.cur.tiles ∧
        t.cur.masks = s.cur.masks ∧ t.quad = s.quad ∧
        (∃ ds bs, t.cur.ring = some { r with
          bufs := r.bufs.set buf .filled, strips := r.strips.filter (fun y => y.buf != buf), data := ds, bad := bs }) ∧
        (∀ e < s.cur.vlg, t.cur.elt reg (32 * r.g) e = if e < w.els.length then s.padNat (off e) (4 * r.g) else 0) ∧
        (∀ k, reg ≤ k → k < reg + r.g → ∀ j, t.cur.wordPoison k j = false) ∧
        ∀ k, k < reg ∨ reg + r.g ≤ k → t.cur.vreg k = s.cur.vreg k ∧ ∀ j, t.cur.wordPoison k j = s.cur.wordPoison k j

/-! ### The matrix engine -/

/-- R192 to R195, R198, R207, R208, R210: what the forms over tiles and their rows write. In protected mode rows 32 to 63
mirror rows 0 to 31 (R193). R209: a tile load and a tile store whose rows lie in the strand's scratchpad allotment; the core's
outbound buffer has room for the lines of the store. -/
def Obligations.TileResults : Prop :=
  (∀ (d a b : Reg) (s : State), s.VecReady →
     let c := s.cur.sc
     let M := c.shape.1
     let N := c.shape.2.1
     let rows := if c.prot then 32 else 64
     let row (i : Nat) := if c.prot then i % 32 else i
     let write (i : Instr) (fl : Flags) (n : Nat) (hit : Nat → Nat → Bool) (f : Nat → Nat → Nat) : Prop := ∃ t, exec i s = .next t ∧
       t = ({ s with cur := { s.cur with
         tiles := t.cur.tiles
         sc := { (c.setBusy d.toNat) with flags := c.flags ||| fl, seed := (draws n c.seed).2 } } }).advance ∧
       ∀ k < 8, ∀ i < 64, ∀ j < 64, t.cur.acc k i j =
         if k ≠ d.toNat then s.cur.acc k i j else if hit (row i) j then f (row i) j % 2 ^ 32 else s.cur.acc k (row i) j
     (∀ (m n : Nat) (acc : Bool), 1 ≤ m → m ≤ rows → 1 ≤ n → n ≤ 64 → s.reg a = w64 (m + 256 * n + 65536 * acc.toNat) →
       exec (.mxShape a) s = .next (s.modSc (fun c => { c with tshape := s.reg a })).advance) ∧
     (tshapeOk c.prot (s.reg a) = false → exec (.mxShape a) s = s.traps cBOUNDS (s.reg a) 0) ∧
     (d.toNat < s.cur.ntiles → d.toNat < 8 →
       write (.mxZero d) 0 0 (fun _ _ => true) (fun _ _ => 0) ∧
       exec (.mxWait d) s = .next (s.modSc (fun c => { c with busy := c.busy &&& ~~~((1 : BitVec 8) <<< d.toNat) })).advance ∧
       (∀ t, etyOfCode (modeETA c.md) = some t → etyRow t = true → (s.reg b).toNat < rows →
         write (.mxWr d a b) 0 0 (fun i j => i == (s.reg b).toNat && decide (j < c.vlc)) (fun _ j => s.cur.elt a.toNat 32 j)) ∧
       (let n := if modeRND c.md = 5 then M * N else 0
        let f (i j : Nat) : Nat × Flags := convert (if c.shape.2.2 then .f32 else .i32) (if c.shape.2.2 then .i32 else .f32)
          (s.roundAt n (i * N + j)) (modeSAT c.md) (s.cur.acc d.toNat i j)
        let fl := (List.range M).foldl (fun g i => (List.range N).foldl (fun g j => g ||| (f i j).2) g) (0 : Flags)
        modeRND c.md ≤ 5 → fl &&& c.fpen.zeroExtend 6 = 0 →
        write (.mxCvt d) fl n (fun i j => decide (i < M) && decide (j < N)) (fun i j => (f i j).1))) ∧
     (∀ t, a.toNat < s.cur.ntiles → a.toNat < 8 → etyOfCode (modeETA c.md) = some t → etyRow t = true → (s.reg b).toNat < rows →
       (c.busy.getLsbD a.toNat = false → exec (.mxRd d a b) s = .next ((s.putElts d 32 (fun e =>
         some (if e < 64 then s.cur.acc a.toNat (s.reg b).toNat e else 0))).vecDone 0 0)) ∧
       (c.busy.getLsbD a.toNat = true → exec (.mxRd d a b) s = s.traps cACC_BUSY (w64 a.toNat) (c.busyAddr.toList.getD a.toNat 0))) ∧
     ∀ k < 8, (c.setBusy k).busy = c.busy ||| (1 <<< k) ∧
       ∀ j < 8, (c.setBusy k).busyAddr.toList.getD j 0 = if j = k ∧ c.busy.getLsbD k = false then c.pc else c.busyAddr.toList.getD j 0) ∧
  (∀ (d a b : Reg) (s : State) (off : Nat → Nat), s.VecReady → d.toNat < s.cur.ntiles → d.toNat < 8 →
     let c := s.cur.sc
     let M := c.shape.1
     let N := c.shape.2.1
     let row (i : Nat) := if c.prot then i % 32 else i
     let base := scratchKey s.cur.ident.quad s.cur.ident.abase
     M ≤ (if c.prot then 32 else 64) → N ≤ 64 → (s.reg a).toNat % 4 = 0 → (s.reg b).toNat % 4 = 0 →
     (∀ i < M, s.reg a + w64 i * s.reg b = w64 (scratchBase + off i)) →
     ((∀ i < M, s.padPlain (off i) (4 * N)) → ∃ t, exec (.mxLd d a b) s = .next t ∧
       t = ({ s with cur := { s.cur with tiles := t.cur.tiles, sc := c.setBusy d.toNat } }).advance ∧
       ∀ k < 8, ∀ i < 64, ∀ j < 64, t.cur.acc k i j =
         if k ≠ d.toNat then s.cur.acc k i j
         else if row i < M ∧ j < N then s.padNat (off (row i) + 4 * j) 4 else s.cur.acc k (row i) j) ∧
     ((∀ i < M, off i % 4096 + 4 * N ≤ 4096 ∧ off i + 4 * N ≤ s.cur.ident.alen) → s.cur.ident.alen ≤ 2 ^ 21 →
       c.busy.getLsbD d.toNat = false → s.cur.marks.length + 2 * M * N ≤ 8192 → s.cur.pend.length + 2 * M * N ≤ 8192 →
       ∀ ls : List Nat, (∀ i < M, ∀ j < 4 * N, lineOf (base + off i + j) ∈ ls) →
       (∀ l ∈ outLines s.quad.d.out (some s.cur.ident.core), l ∈ ls) → ls.length ≤ 64 →
       ∃ u, exec (.mxSt d a b) s = .next u ∧ u.mem = s.mem ∧ u.cur.sc = c.advance ∧ u.cur.v = s.cur.v ∧ u.cur.tiles = s.cur.tiles ∧
         ∀ i < M, ∀ j < N, ∀ o < 4, (∀ k < M, k ≠ i → off k + 4 * N ≤ off i ∨ off i + 4 * N ≤ off k) →
           (stage1 u.quad.d s.cur.ident.core (base + off i + 4 * j + o) true).map (·.val) =
             some (BitVec.ofNat 8 (s.cur.acc d.toNat i j / 256 ^ o))))

/-- R150, R199 to R206: each `mx.opa` form adds to every accumulator of the shape the exact sum of the products of a row of
each operand, rounded once; an operand stands in a register group, or in scratchpad rows that a register pair names; a guarded
element contributes 0. -/
def Obligations.OuterProducts : Prop :=
  ∀ (d a b : Reg) (pa pb : Bool) (s : State) (t u : ETy), s.VecReady → etyOfCode (modeETA s.cur.sc.md) = some t →
    (if modeETB s.cur.sc.md = 15 then u = t else etyOfCode (modeETB s.cur.sc.md) = some u) →
    (opaFp t = true ∨ opaInt t = true) → opaPair t u = true → s.cur.sc.shape.2.2 = opaInt t → modeRND s.cur.sc.md ≤ 5 →
    d.toNat < s.cur.ntiles → d.toNat < 8 → s.holdsVlc (etyBits t) →
    let c := s.cur.sc
    let g := modeGRP c.md
    let M := c.shape.1
    let N := c.shape.2.1
    let kk := 32 / etyBits t
    let pad (r : Reg) : PadOp := ⟨bitsOf (s.reg r) 20 0, bitsOf (s.reg r) 23 21, bitsOf (s.reg (r + 1)) 31 16, bitsOf (s.reg (r + 1)) 15 0⟩
    let good (inPad : Bool) (r : Reg) (v : ETy) (n : Nat) : Prop :=
      if inPad then
        bitsOf (s.reg r) 63 24 = 0 ∧ bitsOf (s.reg (r + 1)) 63 32 = 0 ∧
        (∀ i < n, s.padPlain ((pad r).addr i) (kk * etyBits v / 8) ∧ (pad r).addr i % (kk * etyBits v / 8) = 0) ∧
        (v = .n4 → s.padPlain ((pad r).addr 64) 16 ∧ (pad r).addr 64 % 16 = 0)
      else s.spans r (etyBits v) (etyBits t) ∧ (v = .n4 → r.toNat + max g 1 < 32)
    let val (inPad : Bool) (r : Reg) (v : ETy) (e : Nat) : FVal :=
      if !s.cur.active e then .fin false 0 0
      else if inPad then
        valOf v (if v = .n4 then s.padNat ((pad r).addr 64 + e / kk / 4) 1 else 0)
          (bitsAt (s.padNat ((pad r).addr (e / kk)) (kk * etyBits v / 8)) (e % kk * etyBits v) (etyBits v))
      else valOf v (if v = .n4 then s.cur.elt (r.toNat + g) 8 (e / 32) else 0) (s.cur.elt r.toNat (etyBits v) e)
    let line (inPad : Bool) (r : Reg) (v : ETy) (i : Nat) : List FVal := (List.range kk).map (fun k => val inPad r v (i * kk + k))
    let n := if modeRND c.md = 5 then M * N else 0
    let f (i j : Nat) : Nat × Flags :=
      opaAt (opaInt t) (s.roundAt n (i * N + j)) (modeSAT c.md) (s.cur.acc d.toNat i j) (line pa a t i) (line pb b u j)
    let fl := (List.range M).foldl (fun g i => (List.range N).foldl (fun g j => g ||| (f i j).2) g) (0 : Flags)
    let i := match pa, pb with
      | false, false => Instr.mxOpa d a b
      | true, false => .mxOpaSa d a b
      | false, true => .mxOpaSb d a b
      | true, true => .mxOpaSs d a b
    M ≤ (if c.prot then 32 else 64) → N ≤ 64 → good pa a t M → good pb b u N →
    (fl &&& c.fpen.zeroExtend 6 = 0 → ∃ q, exec i s = .next q ∧
      q = ({ s with cur := { s.cur with
        tiles := q.cur.tiles
        sc := { (c.setBusy d.toNat) with flags := c.flags ||| fl, seed := (draws n c.seed).2 } } }).advance ∧
      ∀ k < 8, ∀ i < 64, ∀ j < 64, q.cur.acc k i j =
        let r := if c.prot then i % 32 else i
        if k ≠ d.toNat then s.cur.acc k i j else if r < M ∧ j < N then (f r j).1 % 2 ^ 32 else s.cur.acc k r j) ∧
    (fl &&& c.fpen.zeroExtend 6 ≠ 0 → exec i s = s.traps cFP_TRAP ((fl &&& c.fpen.zeroExtend 6).zeroExtend 64) 0)

/-! ### The system forms, the fault queue, the communication file and barriers -/

/-- R123, R124, R155, R263, R403, R413, R415, R435: what the unprivileged `sy` forms do for a strand with nothing under way;
what they hand to a platform waits there. At a yield the scheduler may take the crew: the model's free choice (`yieldCrew`).
-/
def Obligations.SystemResults : Prop :=
  ∀ (d a : Reg) (s : State) (p : Part), s.Settled → s.cur.status = .running → s.part? s.cur.ident.part = some p →
    let v := s.reg a
    let fit (n : Nat) : Prop := n % 32 = 0 ∧ 32 ≤ n ∧ n ≤ (if s.cur.sc.prot then 256 else 512) ∧
      n ≤ s.freeVec s.cur.ident.quad s.cur.ident.core + s.cur.vlg ∧ ∀ c l, s.crewOf s.cur.ident.crew = some c →
        s.launchOf c.launch = some l → vlMin' l.vlmin ≤ n ∧ n ≤ vlDes' l.vlmin l.vldes l.prot
    (∀ i ∈ [Instr.syFenceAll, .syFenceLd, .syFenceSt, .syFenceVec, .syFenceEng, .syFenceMat], exec i s = .next s.advance) ∧
    exec (.syTime d) s = .next (s.setReg d (w64 s.timer)).advance ∧
    ((∀ c ∈ s.cur.chans, c.xfers = []) → (s.held = false → exec .syEnd s = .next (s.retireStrand s.cur.uid true)) ∧
      (s.hands (.retire true) → exec .syEnd s = .next (s.handWait (.retire true)))) ∧
    ((s.cur.offer = none → exec .syYield s = .next s.yieldCrew.advance) ∧
      (∀ n, s.cur.offer = some n → fit n → s.cur.cutsBound n = false →
        exec .syYield s = .next (s.modCur (fun x => x.regrant n)).yieldCrew.advance) ∧
      (∀ n, s.cur.offer = some n → ¬ fit n → exec .syYield s = .next (s.modCur (fun x => { x with offer := none })).yieldCrew.advance) ∧
      (∀ n, s.cur.offer = some n → fit n → s.cur.cutsBound n = true → exec .syYield s = s.traps cILLEGAL 0x1E001800 0)) ∧
    (∀ n, let x := s.cur.regrant n
      x.vlg = n ∧ x.offer = none ∧ x.sc.vlc = min s.cur.sc.vlc n ∧
      (x.sc.vlcut = true ↔ s.cur.sc.vlcut = true ∨ n < s.cur.sc.vlc) ∧
      (∀ r < 32, (x.vreg r).toNat = (s.cur.vreg r).toNat % 2 ^ (32 * min s.cur.vlg n)) ∧
      ∀ m < 8, m ≠ 0 → (x.mask m).toNat = (s.cur.mask m).toNat % 2 ^ min s.cur.vlg n) ∧
    (v.toNat < p.veccnt → v.toNat < 2048 → (s.held = false → exec (.syIntr a) s = .next (s.interrupt (p.vecbase + v.toNat)).advance) ∧
      (s.hands (.intr (p.vecbase + v.toNat)) → exec (.syIntr a) s = .next (s.hand (.intr (p.vecbase + v.toNat))).advance)) ∧
    (p.veccnt ≤ v.toNat ∨ 2048 ≤ v.toNat → exec (.syIntr a) s = s.traps cBOUNDS v 0) ∧
    (p.fqbase = 0 ∨ canonical v = false ∨ inWindow v = true ∨ (∀ k, s.walk p.id v ≠ .none k false true) →
      exec (.syPgreq a) s = .next s.advance) ∧
    (∀ k, p.fqbase ≠ 0 → canonical v = true → inWindow v = false → s.walk p.id v = .none k false true →
      (s.held = false → p.fqFull = false → p.fqwait = [] →
        exec (.syPgreq a) s = .next (s.fqPut p (fqEntry v 0 cPAGE_NP 13 2 0)).advance) ∧
      (s.held = true → exec (.syPgreq a) s = .next (s.hand (.fq (fqEntry v 0 cPAGE_NP 13 2 0))).advance))

/-- R390: outside privileged state the privileged `sy` forms raise PRIV, EVAL the word; in it `sy.resume` frees the slot of
the park handle it is given, `sy.tlbinv` drops the translations it covers on the partition's quads, and the swap forms act on
a partition other than the issuer's. -/
def Obligations.PrivilegedResults : Prop :=
  ∀ (a : Reg) (s : State) (q : Part), s.Settled → s.part? s.cur.ident.part = some q →
    let v := s.reg a
    let k := v.toNat % 16
    (s.cur.sc.prv = false → ∀ i ∈ [Instr.syTlbinv a, .syResume a, .syHalt a, .syCtxsave a, .syCtxrest a],
      ∀ w, encode i = some w → exec i s = s.traps cPRIV (w.zeroExtend 64) 0) ∧
    (s.cur.sc.prv = true →
      (∀ h, q.parked.find? (fun h => parkHandle h.seq h.slot == v) = some h → exec (.syResume a) s =
        .next (s.modPart s.cur.ident.part (fun x => { x with
          parked := x.parked.filter (fun y => y.slot != h.slot), restart := x.restart ++ [h.uid] })).advance) ∧
      (q.parked.find? (fun h => parkHandle h.seq h.slot == v) = none → exec (.syResume a) s = .next s.advance) ∧
      (v.toNat % 4096 ≤ 1 → (∀ x ∈ s.all, x.ident.part = s.cur.ident.part → x.pend = []) → s.coveredOut s.cur.ident.part = false →
        ∃ t, exec (.syTlbinv a) s = .next t ∧ t.cur.sc = s.cur.sc.advance ∧ ∀ n ∈ q.quads,
          ∀ e ∈ (t.getQuad n).d.tlb, e ∈ (s.getQuad n).d.tlb ∧
            (e.asid = q.asid → v.toNat % 4096 = 0 ∧ ¬ (e.va ≤ v.toNat ∧ v.toNat < e.va + e.size))) ∧
      (1 < v.toNat % 4096 → exec (.syTlbinv a) s = s.traps cBOUNDS v 0) ∧
      (∀ i ∈ [Instr.syHalt a, .syCtxsave a, .syCtxrest a],
        (s.cur.ident.part ≠ 0 → k ≠ s.cur.ident.part → ∀ w, encode i = some w → exec i s = s.traps cPRIV (w.zeroExtend 64) 0) ∧
        (k = s.cur.ident.part → exec i s = s.traps cBOUNDS v 0)) ∧
      (s.cur.ident.part = 0 → k ≠ 0 → ∀ x, s.part? k = some x →
        (v.toNat = 256 + k → x.halted = true → x.saved = false →
          exec (.syHalt a) s = .next ((s.modPart k (fun x => { x with halted := false })).runStrands k).advance) ∧
        (v.toNat = 256 + k → x.halted = false ∨ x.saved = true → exec (.syHalt a) s = .next s.advance) ∧
        (let t := (s.modPart k (fun x => { x with halted := true })).haltStrands k
         v.toNat = k →
          (∀ y ∈ t.all, y.ident.part = k → y.status = .running → t.inReduction y = true) ∧
          ((∀ y ∈ t.partStrands k, y.status ≠ .running ∧ t.saveReady y = true) → exec (.syHalt a) s = .next t.advance)) ∧
        (let t := (s.crewsOn k).foldl State.turnCrew s
         v.toNat = k → x.halted = true → x.saved = false →
          (∀ y ∈ s.partStrands k, y.status ≠ .running ∧ s.saveReady y = true) → (∀ c ∈ t.crewsOn k, t.crewReady c = true) →
          exec (.syCtxsave a) s = .next (t.ctxSave k).advance ∧ ∀ y, (t.ctxSave k).part? k = some y → y.saved = true) ∧
        (v.toNat = k → x.saved = false → x.halted = false ∨ (∃ y ∈ s.partStrands k, y.status = .running ∨ s.saveReady y = false) →
          exec (.syCtxsave a) s = s.traps cBOUNDS v 1) ∧
        (v.toNat = k → x.saved = true → (∀ c ∈ s.crews, c.depot = true → c.spilled = true) → exec (.syCtxsave a) s = .next s.advance) ∧
        (v.toNat = k → x.saved = true → (∀ n ∈ s.quad :: s.quads, n.part = some k → n.lentTo = none) →
          exec (.syCtxrest a) s = .next (s.ctxRest k).advance ∧ ∀ y, (s.ctxRest k).part? k = some y → y.saved = false) ∧
        (v.toNat = k → x.saved = false → exec (.syCtxrest a) s = s.traps cBOUNDS v 2) ∧
        (v.toNat = k → x.saved = true → (∃ n ∈ s.quad :: s.quads, n.part = some k ∧ n.lentTo.isSome = true) →
          exec (.syCtxrest a) s = s.traps cBOUNDS v 3)))

/-- R399, R400: a fault-queue entry of 24 bytes is written at its slot with TIME, which is never 0, HEAD rises by one, and
every other byte of memory stays. R400, R401: a strand that parks keeps its registers and its PC at the instruction, takes the
lowest free slot of its partition's park table under the next SEQ, and stops issuing; an entry with PARKED reports it. -/
def Obligations.FaultQueueEntry : Prop :=
  (∀ (s : State) (p : Part) (bs : List Byte), Memory.wf s.mem = true → bs.length = 24 → s.part? p.id = some p →
     let k := homeKey 0 (4096 * p.fqbase.toNat + 32 * (p.fqhead.toNat % (16 * 2 ^ p.fqsize.toNat)))
     let t := s.fqPut p bs
     memGetN t.mem k 32 = bs ++ leBytes 8 (max s.timer 1) ∧
     (∀ j, j < k ∨ k + 32 ≤ j → memGet t.mem j = memGet s.mem j) ∧
     t.part? p.id = some { p with fqhead := p.fqhead + 1 } ∧ t.cur = s.cur ∧ t.quad = s.quad) ∧
  (∀ (s : State) (p : Part) (va : Word) (kind rst : Nat) (wr elt : Bool), s.part? s.cur.ident.part = some p → s.held = false →
     p.fqbase ≠ 0 → p.fqFull = false → p.fqwait = [] →
     let t := s.park va kind wr rst elt
     t.cur.status = .parked ∧ t.cur.sc = s.cur.sc ∧ t.cur.v = s.cur.v ∧ t.cur.tiles = s.cur.tiles ∧
     t.cur.rstix = (if elt then BitVec.ofNat 16 rst else s.cur.rstix) ∧ t.cur.parkSlot = some (freeSlot p) ∧ t.cur.parkSeq = p.parkSeq ∧
     (∃ q, t.part? s.cur.ident.part = some q ∧ q.parked = ⟨freeSlot p, p.parkSeq, s.cur.uid⟩ :: p.parked ∧
       q.fqhead = p.fqhead + 1) ∧
     t.mem = (s.memWrite (homeKey 0 (p.fqbase.toNat * 4096 + 32 * (p.fqhead.toNat % p.fqEntries)))
       (fqEntry va (parkHandle p.parkSeq (freeSlot p)) cPAGE_NP kind (if wr then 17 else 1) rst ++ leBytes 8 (max s.timer 1))).mem)

/-- R272 to R276: the semaphore bits and words of the quad's file, at every index; an index beyond them raises BOUNDS. R278 to
R286: the barrier operand's checks; an arrival counts once, completes a phase when COUNT has arrived, and makes the strand's
record; `cf.wait`, `cf.sync` and `cf.twait` answer by the record, and a complete one is discarded and acquires. -/
def Obligations.BarrierResults : Prop :=
  (∀ (d a b : Reg) (s : State), s.Settled →
     let i := (s.reg a).toNat
     let sem (f : BitVec 64 → BitVec 64) : State := s.modQ (fun q => { q with sem := f q.sem })
     let was := s.quad.d.sem.getLsbD i
     (i ≤ 63 →
       exec (.cfTsb d a) s = .next ((sem (fun m => m ||| (1 <<< i))).setReg d (wBool was)).advance ∧
       exec (.cfTst d a) s = .next (s.setReg d (wBool was)).advance ∧
       exec (.cfClr a) s = .next (sem (fun m => m &&& ~~~((1 : BitVec 64) <<< i))).advance) ∧
     (63 < i → exec (.cfTsb d a) s = s.traps cBOUNDS (s.reg a) 0 ∧ exec (.cfTst d a) s = s.traps cBOUNDS (s.reg a) 0 ∧
       exec (.cfClr a) s = s.traps cBOUNDS (s.reg a) 0) ∧
     (∀ h : i < 32,
       exec (.cfRd d a) s = .next (s.setReg d (s.quad.d.words.get ⟨i, h⟩)).advance ∧
       exec (.cfWr a b) s = .next (s.modQ (fun q => { q with words := q.words.set i (s.reg b) h })).advance) ∧
     (31 < i → exec (.cfRd d a) s = s.traps cBOUNDS (s.reg a) 0 ∧ exec (.cfWr a b) s = s.traps cBOUNDS (s.reg a) 0)) ∧
  (∀ (d a b : Reg) (s : State), s.Settled → s.cur.status = .running →
     let v := s.reg a
     let k := v.toNat / 256 % 8
     let id := v.toNat % 256
     let n := barKey (s.part? s.cur.ident.part) s.cur.ident k id
     let x := s.bar n
     let m := s.reg b
     let arrived := (s.modCur (fun y => y.noteArrival n)).arriveAt s.cur.uid n
     let through (u : State) : State := (u.modCur (fun y => y.dropRec n)).acquire k
     let now : Prop := k ≤ 2 ∨ s.held = false
     let forms : List Instr := [.cfArrive a, .cfWait a, .cfSync a, .cfTwait d a b, .cfCfg a b]
     (6 ≤ k → ∀ i ∈ forms, ∀ w, encode i = some w → exec i s = s.traps cILLEGAL (w.zeroExtend 64) 0) ∧
     (k ≤ 5 → k = 0 ∨ 2048 ≤ v.toNat ∨ barLimit (s.part? s.cur.ident.part) k ≤ id → ∀ i ∈ forms,
       exec i s = s.traps cBOUNDS v 0) ∧
     (1 ≤ k → k ≤ 5 → v.toNat < 2048 → id < barLimit (s.part? s.cur.ident.part) k →
       (now → exec (.cfArrive a) s = .next arrived.advance) ∧
       (3 ≤ k → s.hands (.arrive n) → exec (.cfArrive a) s = .next (((s.modCur (fun y => y.noteArrival n)).hand (.arrive n)).advance)) ∧
       (x.count = 0 → arrived.bar n = { x with who := x.who ++ [s.cur.uid] }) ∧
       (x.count ≠ 0 → x.who.length < 2 ^ 31 → arrived.bar n = { x with
         who := (x.who ++ [s.cur.uid]).drop ((x.who.length + 1) / x.count * x.count),
         phase := x.phase + BitVec.ofNat 32 ((x.who.length + 1) / x.count) }) ∧
       (s.cur.barRec n = none → x.who.length < 2 ^ 31 → ∃ r, arrived.cur.barRec n = some r ∧ r.phase = some x.phase ∧
         r.done = (decide (x.count ≠ 0) && decide (x.count ≤ x.who.length + 1)) ∧ (r.done = true → r.time = s.timer)) ∧
       (s.cur.barRec n = none → exec (.cfWait a) s = .next s.advance ∧
         (m.toNat < 2 ^ 32 → exec (.cfTwait d a b) s = .next (s.setReg d 2).advance)) ∧
       (2 ^ 32 ≤ m.toNat → exec (.cfTwait d a b) s = s.traps cBOUNDS m 0) ∧
       (∀ r, s.cur.barRec n = some r →
         (r.done = true → exec (.cfWait a) s = .next (through s).advance) ∧
         (r.done = false → exec (.cfWait a) s = .next s.setWaiting) ∧
         (r.done = true → barScope n = k → m.toNat < 2 ^ 32 → r.time ≤ s.timer + m.toNat →
           exec (.cfTwait d a b) s = .next ((through s).setReg d 0).advance) ∧
         (r.done = false → m.toNat < 2 ^ 32 → exec (.cfTwait d a b) s =
           .next (s.modCur (fun y => { y with deadline := some ⟨s.timer + m.toNat, d, n⟩ })).setWaiting)) ∧
       (∀ r, now → arrived.cur.barRec n = some r →
         (r.done = true → exec (.cfSync a) s = .next (through arrived).advance) ∧
         (r.done = false → exec (.cfSync a) s = .next (arrived.modCur (fun y => { y with syncWait := true })).setWaiting)) ∧
       (m.toNat < 2 ^ 20 → exec (.cfCfg a b) s = .next (s.settleBar { x with count := m.toNat }).advance) ∧
       (m.toNat = 2 ^ 20 → k ≤ 2 → ∀ c, s.crewOf s.cur.ident.crew = some c → exec (.cfCfg a b) s =
         .next (s.settleBar { x with count :=
           if k = 1 then (List.range c.nstr).countP (fun i => (c.base + i) % 4 == s.cur.ident.core) else s.cur.ident.nstr }).advance) ∧
       (2 ^ 20 < m.toNat ∨ (2 ^ 20 = m.toNat ∧ 3 ≤ k) → exec (.cfCfg a b) s = s.traps cBOUNDS m 0)))

/-! ### Tensors, turns, tokens and windows -/

/-- R38, R212, R213: `tn.def` gives an identifier the 128 bytes of a descriptor that keeps every rule of R212, and raises
BOUNDS with the offset of the first rule that fails; `tn.inv` takes the identifier away; `tn.rd` gives a word of the
descriptor. -/
def Obligations.TensorDescriptors : Prop :=
  ∀ (d a b : Reg) (s : State) (off : Nat), s.Quiet →
    let id := (s.reg a).toNat % 256
    let held := s.cur.tids.find? (fun t => t.1 == id)
    (s.reg b = w64 (scratchBase + off) → off % 128 = 0 → s.padPlain off 128 →
      let bs := memGetN s.mem (scratchKey s.cur.ident.quad (s.cur.ident.abase + off)) 128
      (firstBad (descRules bs) = none → exec (.tnDef a b) s =
        .next (s.modCur (fun x => { x with tids := (id, bs) :: x.tids.filter (fun t => t.1 != id) })).advance) ∧
      ∀ o, firstBad (descRules bs) = some o → exec (.tnDef a b) s = .next (s.trapEntry ⟨cBOUNDS, s.reg b, w64 o, 0, 11, false⟩)) ∧
    (held = none → exec (.tnInv a) s = s.traps cBOUNDS (w64 id) 0 ∧ exec (.tnRd d a b) s = s.traps cBOUNDS (w64 id) 0) ∧
    ∀ t, held = some t →
      exec (.tnInv a) s = .next (s.modCur (fun x => { x with tids := x.tids.filter (fun t => t.1 != id) })).advance ∧
      ((s.reg b).toNat ≤ 15 → exec (.tnRd d a b) s =
        .next (s.setReg d (w64 (leNat ((t.2.drop (8 * (s.reg b).toNat)).take 8)))).advance) ∧
      (15 < (s.reg b).toNat → exec (.tnRd d a b) s = s.traps cBOUNDS (s.reg b) 0)

/-- R214 to R217: `tn.tld` fills the rows of a window in the scratchpad, outside elements with FILL, and `tn.tst` writes the
inside elements of the rows; both store COUNT. Stated for a tensor and an origin record that lie in the strand's allotment,
and rows that are read from where nothing is written. -/
def Obligations.TensorTransfers : Prop :=
  ∀ (d a b : Reg) (s : State) (t : Nat × List Byte) (ro : Nat) (mem : Nat → Nat), Memory.wf s.mem = true → s.Settled → s.cur.marks.length < 8192 →
    (outLines s.quad.d.out (some s.cur.ident.core)).length < 64 →
    s.cur.tids.find? (fun t => t.1 == (s.reg a).toNat % 256) = some t → (descOf t.2).ty ≠ .n4 →
    s.reg b = w64 (scratchBase + ro) → ro % 64 = 0 → s.padPlain ro 64 →
    let base := scratchKey s.cur.ident.quad s.cur.ident.abase
    let rec_ := memGetN s.mem (base + ro) 64
    let w := winOf (descOf t.2) rec_ (s.reg d).toNat
    let size := etyBits w.t.ty / 8
    let placed : Prop := ∀ r < w.rows, ∀ p, w.inside r = some p → p.2.2 = w64 (scratchBase + mem r) ∧
      s.padPlain (mem r) (p.2.1 * size)
    (s.reg d).toNat < 2 ^ 21 → (s.reg d).toNat % 32 = 0 → firstBad (originRules (descOf t.2) rec_) = none →
    32 * w.s * w.rows ≤ 65536 → w.stop ≤ s.cur.ident.alen → placed →
    let counted (u : State) : Prop := u.cur.sc = s.cur.sc.advance ∧ u.cur.v = s.cur.v ∧ u.cur.tiles = s.cur.tiles ∧
      ∀ i < 8, (stage1 u.quad.d s.cur.ident.core (base + ro + 0x28 + i) true).map (·.val) = some (BitVec.ofNat 8 (w.count / 256 ^ i))
    ((∀ r < w.rows, ∀ p, w.inside r = some p → mem r + p.2.1 * size ≤ w.off ∨ w.stop ≤ mem r) →
      ∃ u, exec (.tnTld d a b) s = .next u ∧ counted u ∧
        (∀ r < w.rows, ∀ i < 32 * w.s, memGet u.mem (base + w.rowOff r + i) =
          let fill : Byte := BitVec.ofNat 8 (w.fill / 256 ^ (i % size))
          match w.inside r with
          | some p => if p.1 * size ≤ i ∧ i < (p.1 + p.2.1) * size then memGet s.mem (base + mem r + (i - p.1 * size)) else fill
          | none => fill) ∧
        ∀ k, (∀ r < w.rows, k < base + w.rowOff r ∨ base + w.rowOff r + 32 * w.s ≤ k) → memGet u.mem k = memGet s.mem k) ∧
    ((∀ r < w.rows, s.padPlain (w.rowOff r) (32 * w.s)) →
      (∀ r < w.rows, ∀ q < w.rows, ∀ p g, r ≠ q → w.inside r = some p → w.inside q = some g →
        mem r + p.2.1 * size ≤ mem q ∨ mem q + g.2.1 * size ≤ mem r) →
      ∃ u, exec (.tnTst d a b) s = .next u ∧ counted u ∧
        (∀ r < w.rows, ∀ p, w.inside r = some p → ∀ i < p.2.1 * size,
          memGet u.mem (base + mem r + i) = memGet s.mem (base + w.rowOff r + p.1 * size + i)) ∧
        ∀ k, (∀ r < w.rows, ∀ p, w.inside r = some p → k < base + mem r ∨ base + mem r + p.2.1 * size ≤ k) →
          memGet u.mem k = memGet s.mem k)

/-- R147, R218: packing and unpacking. Stated for tensors of one block of 32 elements in the strand's allotment; a pair of
tensors that a form does not admit raises BOUNDS with the second identifier. -/
def Obligations.TensorPacking : Prop :=
  ∀ (a b : Reg) (s : State) (ta tb : Nat × List Byte) (part code scale : Nat) (k : Blk), Memory.wf s.mem = true → s.Settled → s.quad.id = s.cur.ident.quad →
    s.cur.tids.find? (fun t => t.1 == (s.reg a).toNat % 256) = some ta →
    s.cur.tids.find? (fun t => t.1 == (s.reg b).toNat % 256) = some tb →
    let x := descOf ta.2
    let y := descOf tb.2
    let base := scratchKey s.cur.ident.quad s.cur.ident.abase
    let size (t : Desc) := etyBits t.ty / 8
    let fits (o n : Nat) : Prop := o % 4096 + n ≤ 4096 ∧ o + n ≤ s.cur.ident.alen ∧ s.cur.ident.alen ≤ 2 ^ 21
    -- `n4` is the packed tensor of one block k, `el` the other
    let one (n4 el : Desc) : Prop := n4.blocks = [k] ∧ n4.pieces = [(wordZ k.code, 16), (n4.scaleAddr k, 1)] ∧
      el.pieces = [(el.partAddr k, 32 * size el)] ∧ wordZ k.code = w64 (scratchBase + code) ∧
      n4.scaleAddr k = w64 (scratchBase + scale) ∧ el.partAddr k = w64 (scratchBase + part)
    let done (u : State) (fl : Flags) (bytes : List (Nat × Byte)) : Prop :=
      u.cur.sc = ({ s.cur.sc with flags := s.cur.sc.flags ||| fl }).advance ∧ u.cur.v = s.cur.v ∧ u.cur.tiles = s.cur.tiles ∧
      (∀ p ∈ bytes, memGet u.mem p.1 = p.2) ∧ ∀ j, (∀ p ∈ bytes, p.1 ≠ j) → memGet u.mem j = memGet s.mem j
    (packOk x y etyIsArith etyN4 = false → exec (.tnPack a b) s =
      .next (s.trapEntry ⟨cBOUNDS, w64 ((s.reg b).toNat % 256), 0, 0, 10, true⟩)) ∧
    (packOk x y etyN4 etyWide = false → exec (.tnUnpack a b) s =
      .next (s.trapEntry ⟨cBOUNDS, w64 ((s.reg b).toNat % 256), 0, 0, 10, true⟩)) ∧
    (packOk x y etyIsArith etyN4 = true → one y x → s.padPlain part (32 * size x) → fits code 16 → fits scale 1 →
      scale < code ∨ code + 16 ≤ scale →
      let xs := (List.range 32).map (fun i => unpack x.ty (s.padNat (part + i * size x) (size x)))
      let p := packBlock y.stype xs
      ∃ u, exec (.tnPack a b) s = .next u ∧ done u p.2.2 ((base + scale, BitVec.ofNat 8 p.1) ::
        (List.range 16).map (fun i => (base + code + i, BitVec.ofNat 8 (p.2.1.getD (2 * i) 0 + 16 * p.2.1.getD (2 * i + 1) 0))))) ∧
    (packOk x y etyN4 etyWide = true → one x y → s.padPlain code 16 → s.padPlain scale 1 → fits part (32 * size y) →
      let sc := if x.stype ≤ 3 then x.stype * 64 + s.padNat scale 1 % 64 else s.padNat scale 1
      let v (i : Nat) := (cvtFpFp y.ty .rne false (n4Decode sc (s.padNat (code + i / 2) 1 / (if i % 2 = 1 then 16 else 1) % 16))).bits
      ∃ u, exec (.tnUnpack a b) s = .next u ∧ done u 0 ((List.range (32 * size y)).map (fun i =>
        (base + part + i, BitVec.ofNat 8 (v (i / size y) / 256 ^ (i % size y))))))

/-- R232 to R237: a region's checks; `tr.turn` makes the strand's stores of the region readable at its level, moves their
bytes and takes its marks and pending grains away; `tr.inval` drops clean copies. Both leave TURNPRG 0. `areas` gives the
region's pieces that have grains (R233); a byte that a QUAD turn drains stands in the quad outbound cache or, where that has
no room, at its home. -/
def Obligations.TurnResults : Prop :=
  ∀ (d a b : Reg) (s : State), Memory.wf s.mem = true → s.Quiet → s.Direct → s.cur.status = .running → s.quad.id = s.cur.ident.quad →
    (∀ r, s.cur.ring = some r → r.due = []) → (∀ x ∈ s.quad.d.out, x.sent = none) →
    s.cur.sc.scopectl = 0 → s.cur.sc.turnprg = 0 → d.toNat ≤ 3 → (∀ m ∈ s.cur.marks, 0 < m.size) →
    (∀ p ∈ s.cur.pend, 0 < p.size) →
    let lo := (s.reg a).toNat
    let n := (s.reg b).toNat
    let hi := lo + n - 1
    let g0 := s.widen (s.reg a)
    let g1 := s.widen (w64 hi)
    let as_ := s.areas (lo / g0 * g0) (hi / g1 * g1 + g1 - 1)
    let inA (k : Nat) : Prop := ∃ A ∈ as_, A.key ≤ k ∧ k < A.key + A.n
    let me := s.cur.ident.core
    (2 ^ 32 < n → exec (.trTurn d a b) s = s.traps cBOUNDS (s.reg b) 0 ∧ exec (.trInval d a b) s = s.traps cBOUNDS (s.reg b) 0) ∧
    (1 ≤ n → n ≤ 2 ^ 32 → canonical (s.reg a) = false ∨ 2 ^ 64 ≤ hi ∨ canonical (w64 hi) = false →
      exec (.trTurn d a b) s = s.traps cBOUNDS (s.reg a) 0 ∧ exec (.trInval d a b) s = s.traps cBOUNDS (s.reg a) 0) ∧
    (n = 0 → exec (.trTurn d a b) s = .next s.advance ∧ exec (.trInval d a b) s = .next s.advance) ∧
    (1 ≤ n → n ≤ 2 ^ 32 → canonical (s.reg a) = true → hi < 2 ^ 64 → canonical (w64 hi) = true →
      (∃ t, exec (.trTurn d a b) s = .next t ∧
        t.cur.sc = { s.cur.sc.advance with scopelog := t.cur.sc.scopelog, retOvf := t.cur.sc.retOvf } ∧
        t.cur.v = s.cur.v ∧ t.cur.tiles = s.cur.tiles ∧
        (∀ m ∈ s.cur.marks.map (·.key) ++ s.cur.pend.map (·.key), inA m → ∀ k ∈ t.cur.marks, k.key = m → d.toNat = 0 ∧ k.core = true) ∧
        (∀ p ∈ s.cur.pend, inA p.key → 2 ≤ d.toNat → ∀ q ∈ t.cur.pend, q.key ≠ p.key) ∧
        ∀ p ∈ s.cur.pend, inA p.key → ∀ x ∈ s.quad.d.out, x.core = some me → s.cur.uid ∈ x.owners →
          p.key ≤ x.key → x.key < p.key + p.size → (∀ y ∈ s.quad.d.out, y.key = x.key → y = x) →
          (∀ y ∈ s.quad.d.out, y.key / 512 = x.key / 512 → y.tag.kid = x.tag.kid) →
          let home := t.homeBytes x.key 1
          (d.toNat = 0 → (stage1 t.quad.d me x.key false).map (·.val) = some x.val) ∧
          (d.toNat = 1 → keyHome x.key < 3 → (match stage3 t.quad.d x.key with | some y => [y.val] | none => home) = [x.val]) ∧
          (2 ≤ d.toNat ∨ (d.toNat = 1 ∧ keyHome p.key = 3) → home = [x.val]) ∧
          (d.toNat = 3 → memGet t.mem x.key = x.val)) ∧
      ∃ t, exec (.trInval d a b) s = .next t ∧ t.cur.sc = s.cur.sc.advance ∧ t.mem = s.mem ∧ t.quad.d.out = s.quad.d.out ∧
        t.cur.marks = s.cur.marks ∧ t.cur.pend = s.cur.pend ∧
        ∀ c ∈ t.quad.d.copies, c ∈ s.quad.d.copies ∧ ∀ A ∈ as_, c.hits A.key A.n = true →
          c.core ≠ some me ∧ (1 ≤ d.toNat → c.core.isSome = true))

/-- R308, R311 to R315: a token that is FREE, or HANDED to the acquirer's owner, is taken, and the scope records and the
acquirer's copies of the region go; a release turns the region at HOME, then makes the token FREE or hands it on; REGION is
raised by a token beyond the partition's, by acquiring a token that the strand holds and by releasing one that it does not
hold. -/
def Obligations.TokenResults : Prop :=
  ∀ (d a b : Reg) (s : State) (p : Part) (r : Option (Nat × Nat)), s.Settled → s.cur.status = .running →
    s.part? s.cur.ident.part = some p → (regionOf (s.reg a) (s.reg b)).run s = .ok r s →
    let v := (s.reg d).toNat
    let tok := v % 4096
    let owner := v / 2 ^ 32 % 65536
    let idx := p.tbase + tok
    let as_ := match r with
      | some q => s.areas q.1 q.2
      | none => []
    let turned : M Unit := match r with
      | some q => turnRegion q.1 q.2 2
      | none => pure ()
    v / 4096 % 2 ^ 20 = 0 → v < 2 ^ 48 →
    (p.tcount ≤ tok → exec (.trAcq d a b) s = s.traps cREGION (w64 tok) 0 ∧ exec (.trRel d a b) s = s.traps cREGION (w64 tok) 0) ∧
    (tok < p.tcount →
      (s.holdsToken idx = true → exec (.trAcq d a b) s = s.traps cREGION (w64 tok) 0) ∧
      (s.token idx = none ∨ (owner ≠ 0 ∧ s.token idx = some (.handed owner)) → (∀ q ∈ s.tokReqs, q.idx ≠ idx) →
        s.held = false →
        ∃ t, exec (.trAcq d a b) s = .next t ∧ t.cur.sc = s.cur.sc.advance ∧ t.token idx = some (.held owner s.cur.uid) ∧
          (∀ j, j ≠ idx → t.token j = s.token j) ∧ t.mem = s.mem ∧ t.tokReqs = s.tokReqs ∧ t.cur.handed = none ∧
          ∀ A ∈ as_, (∀ h ∈ t.hrecs, A.key ≤ h.key → h.key < A.key + A.n → h.scope = 0) ∧
            ∀ c ∈ t.quad.d.copies, c.hits A.key A.n = true → c.core ≠ none ∧ c.core ≠ some s.cur.ident.core) ∧
      (s.holdsToken idx = false → s.hands (.acq idx owner) → exec (.trAcq d a b) s = .next (s.handWait (.acq idx owner))) ∧
      (∀ id, r = none → exec (.trAcq d a b) (s.modCur (fun x => { x with handed := some ⟨id, some []⟩ })) = .next s.advance) ∧
      (s.holdsToken idx = false → exec (.trRel d a b) s = s.traps cREGION (w64 tok) 0) ∧
      (s.holdsToken idx = true →
        (r = none → s.held = false → exec (.trRel d a b) s = .next (s.giveToken idx owner).advance) ∧
        (r = none → s.hands (.rel idx owner) → exec (.trRel d a b) s = .next (s.handWait (.rel idx owner))) ∧
        ∀ u, turned.run s = .ok () u → u.cur.handed = none → u.held = false →
          exec (.trRel d a b) s = .next (u.giveToken idx owner).advance) ∧
      ((∀ q ∈ s.tokReqs, q.idx ≠ idx) → (s.giveToken idx owner).token idx = (if owner = 0 then none else some (.handed owner)) ∧
        ∀ j, j ≠ idx → (s.giveToken idx owner).token j = s.token j)) ∧
    ∀ (q : TokReq) (u : State), u.tokReqs.find? (fun q => q.idx == idx && mayTake (u.token idx) q.owner) = some q →
      (u.grantToken idx).token idx = some (.held q.owner q.uid)

/-- R316 to R319: opening and closing a retention window, and locking and unlocking a line, with the statuses that say why a
request was not granted. A lock and an unlock heat the line's bucket (R330). -/
def Obligations.WindowsAndLocks : Prop :=
  ∀ (d a b : Reg) (s : State) (p : Part) (c : Crew), s.Settled → s.part? s.cur.ident.part = some p →
    s.crewOf s.cur.ident.crew = some c →
    let lo := (s.reg a).toNat
    let n := (s.reg b).toNat
    let hi := lo + n - 1
    let out (v : Word) : Host.Outcome State Fault Refusal := .next (s.setReg d v).advance
    (n = 0 → exec (.trRetain d a b) s = out 0x8000000000000003) ∧
    (2 ^ 32 < n → exec (.trRetain d a b) s = s.traps cBOUNDS (s.reg b) 0) ∧
    (1 ≤ n → n ≤ 2 ^ 32 → canonical (s.reg a) = false ∨ 2 ^ 64 ≤ hi ∨ canonical (w64 hi) = false →
      exec (.trRetain d a b) s = s.traps cBOUNDS (s.reg a) 0) ∧
    (1 ≤ n → n ≤ 2 ^ 32 → canonical (s.reg a) = true → hi < 2 ^ 64 → canonical (w64 hi) = true →
      (p.qways = 0 → exec (.trRetain d a b) s = out 0x8000000000000002) ∧
      (p.qways ≠ 0 → (∀ k < 4, ∃ w ∈ c.windows, w.1 = k) → exec (.trRetain d a b) s = out 0x8000000000000001) ∧
      ∀ k < 4, p.qways ≠ 0 → (∀ w ∈ c.windows, w.1 ≠ k) → (∀ j < k, ∃ w ∈ c.windows, w.1 = j) → exec (.trRetain d a b) s =
        .next ((s.modCrew c.id (fun x => { x with
          windows := x.windows ++ [(k, lo / 512 * 512, hi / 512 * 512 + 511)] })).setReg d (w64 k)).advance) ∧
    (3 < lo → exec (.trUnpin a) s = s.traps cBOUNDS (s.reg a) 0) ∧
    (lo ≤ 3 → exec (.trUnpin a) s = .next ((s.modCrew s.cur.ident.crew (fun x => { x with
      windows := x.windows.filter (fun w => w.1 != lo) })).relaxLines s.cur.ident.part).advance) ∧
    (scratchBase ≤ lo → lo < scratchBase + s.cur.ident.alen → s.cur.ident.alen ≤ 2 ^ 21 →
      exec (.trLock d a) s = out 3 ∧ exec (.trUnlock a) s = .next s.advance) ∧
    ∀ gs t, segsM (s.reg a) 1 accLock 0 s = .ok gs t → t.held = false →
      let home := gs.findSome? (fun g => match g.page with
        | some p => if p.cach && keyHome g.key == 0 then some (keyPa g.key / 512) else none
        | none => none)
      (home = none → exec (.trLock d a) s = .next (t.setReg d 3).advance ∧ exec (.trUnlock a) s = .next t.advance) ∧
      ∀ l, home = some l →
        let u := t.heatUp s.cur.uid (512 * l)
        let r := u.lockLine s.cur.ident.part l (lo / 512 * 512)
        exec (.trLock d a) s = .next (r.1.setReg d (w64 r.2)).advance ∧
        exec (.trUnlock a) s = .next (u.unlockLine s.cur.ident.part l).advance ∧
        (r.2 = 0 → ∃ x ∈ r.1.lines, x.line = l ∧ x.resv = some s.cur.ident.part ∧ x.locked = true) ∧
        (r.2 ≠ 0 → r.1 = u) ∧ r.2 ∈ [0, 1, 2, 4] ∧
        ∀ x ∈ (u.unlockLine s.cur.ident.part l).lines, x.line = l → x.resv = some s.cur.ident.part → x.locked = false

/-! ### Atomics -/

/-- R40, R298, R332, R333: each `at` form on a word of the strand's scratchpad allotment that no scope record covers stores
the result of its operation, and writes the old value to s[D], sign-extended under I32, unless NR is set. Nothing else of
memory changes. R45, R46, R332, R333: the checks of an `at` form: ETA and SCP by MODE, then the alignment of its address. -/
def Obligations.AtomicResults : Prop :=
  (∀ (d a b : Reg) (nr ac : Bool) (o : AOrd) (s : State) (t : ETy) (off : Nat), s.Settled →
     etyOfCode (modeETA s.cur.sc.md) = some t → 1 ≤ modeSCP s.cur.sc.md → modeSCP s.cur.sc.md ≤ 5 →
     let w := etyBits t
     let n := w / 8
     let key := scratchKey s.cur.ident.quad (s.cur.ident.abase + off)
     s.reg a = w64 (scratchBase + off) → s.padPlain off n → off % n = 0 → keyHome key = 3 →
     (∀ r ∈ s.quad.d.recs, r.key = key / 32 * 32 → r.scope = 0) →
     (∀ x ∈ s.quad.d.out, x.core = some s.cur.ident.core → x.key < key ∨ key + n ≤ x.key) →
     let old := s.padNat off n
     let v := (s.reg b).toNat % 2 ^ w
     let z (x : Nat) : Int := if 2 ^ (w - 1) ≤ x then (x : Int) - (2 ^ w : Nat) else x
     let f : ETy := if w = 64 then .f64 else .f32
     let res : Word := if t = .i32 then (BitVec.ofNat 32 old).signExtend 64 else w64 old
     let out (i : Instr) (noResult : Bool) (m : Memory) : Prop := ∃ u, exec i s = .next u ∧ u.mem = m ∧
       u.cur.sc = (if noResult then s else s.setReg d res).advance.cur.sc ∧ u.cur.v = s.cur.v ∧ u.cur.tiles = s.cur.tiles ∧
       u.quad.d.out = s.quad.d.out ∧ u.cur.marks = s.cur.marks ∧ u.tokens = s.tokens
     let put (x : Nat) : Memory := memSetN s.mem key (leBytes n x)
     ((t = .i32 ∨ t = .c32 ∨ t = .i64 ∨ t = .c64) →
       out (.atAdd d a b nr o ac) nr (put ((old + v) % 2 ^ w)) ∧ out (.atAnd d a b nr o ac) nr (put (old &&& v)) ∧
       out (.atOr d a b nr o ac) nr (put (old ||| v)) ∧ out (.atXor d a b nr o ac) nr (put (old ^^^ v)) ∧
       out (.atMin d a b nr o ac) nr (put (if z v < z old then v else old)) ∧ out (.atMax d a b nr o ac) nr (put (if z old < z v then v else old)) ∧
       out (.atMinu d a b nr o ac) nr (put (min old v)) ∧ out (.atMaxu d a b nr o ac) nr (put (max old v))) ∧
     ((t = .i32 ∨ t = .c32 ∨ t = .i64 ∨ t = .c64 ∨ t = .f32 ∨ t = .f64) →
       out (.atSwap d a b nr o ac) nr (put v) ∧
       out (.atCas d a b o) false (if old = (s.reg d).toNat % 2 ^ w then put v else s.mem)) ∧
     ((t = .f32 ∨ t = .f64) →
       out (.atFadd d a b nr o ac) nr (put (fAdd f .rne false old v).bits) ∧ out (.atFmin d a b nr o ac) nr (put (fMinMax f false old v).bits) ∧
       out (.atFmax d a b nr o ac) nr (put (fMinMax f true old v).bits))) ∧
  (∀ (d a b : Reg) (nr ac : Bool) (o : AOrd) (s : State), s.Settled →
     let t? := etyOfCode (modeETA s.cur.sc.md)
     let int (t : ETy) : Prop := t = .i32 ∨ t = .c32 ∨ t = .i64 ∨ t = .c64
     let fp (t : ETy) : Prop := t = .f32 ∨ t = .f64
     let check (i : Instr) (ok : ETy → Prop) : Prop := ∀ w, encode i = some w →
       ((∀ t, t? = some t → ¬ ok t) → exec i s = .next (s.trapEntry ⟨cILLEGAL, w.zeroExtend 64, 4, 0, 3, true⟩)) ∧
       (∀ t, t? = some t → ok t → modeSCP s.cur.sc.md = 0 ∨ 6 ≤ modeSCP s.cur.sc.md →
         exec i s = .next (s.trapEntry ⟨cILLEGAL, w.zeroExtend 64, 18, 0, 3, true⟩)) ∧
       (∀ t, t? = some t → ok t → 1 ≤ modeSCP s.cur.sc.md → modeSCP s.cur.sc.md ≤ 5 → ∀ off, s.reg a = w64 (scratchBase + off) →
         s.cur.ident.alen ≤ 2 ^ 21 → off + etyBits t / 8 ≤ s.cur.ident.alen → off % (etyBits t / 8) ≠ 0 →
         exec i s = .next (s.trapEntry ⟨cMISALIGN, s.reg a, 0, 0, 3, true⟩))
     (∀ i ∈ [Instr.atAdd d a b nr o ac, .atAnd d a b nr o ac, .atOr d a b nr o ac, .atXor d a b nr o ac, .atMin d a b nr o ac,
       .atMax d a b nr o ac, .atMinu d a b nr o ac, .atMaxu d a b nr o ac], check i int) ∧
     (∀ i ∈ [Instr.atSwap d a b nr o ac, .atCas d a b o], check i (fun t => int t ∨ fp t)) ∧
     ∀ i ∈ [Instr.atFadd d a b nr o ac, .atFmin d a b nr o ac, .atFmax d a b nr o ac], check i fp)

/-- R298, R336, R337: each `vat` form, for one active element whose word lies in the strand's scratchpad allotment: the
element of the destination group is the operand and receives the old value, unless NR is set. -/
def Obligations.VectorAtomicResults : Prop :=
  ∀ (d a b : Reg) (nr ac : Bool) (o : AOrd) (s : State) (t : ETy) (off : Nat), s.Settled → s.VecReady →
    etyOfCode (modeETA s.cur.sc.md) = some t → 1 ≤ modeSCP s.cur.sc.md → modeSCP s.cur.sc.md ≤ 5 →
    let w := etyBits t
    let n := w / 8
    s.spans d w w → s.spans a w w → s.holdsVlc w → s.cur.sc.vlc = 1 → s.cur.active 0 = true →
    let key := scratchKey s.cur.ident.quad (s.cur.ident.abase + off)
    let z (x : Nat) : Int := if 2 ^ (w - 1) ≤ x then (x : Int) - (2 ^ w : Nat) else x
    s.reg b + BitVec.ofInt 64 (z (s.cur.elt a.toNat w 0)) = w64 (scratchBase + off) → s.padPlain off n → off % n = 0 →
    keyHome key = 3 → (∀ r ∈ s.quad.d.recs, r.key = key / 32 * 32 → r.scope = 0) →
    (∀ x ∈ s.quad.d.out, x.core = some s.cur.ident.core → x.key < key ∨ key + n ≤ x.key) →
    let old := s.padNat off n
    let v := s.cur.elt d.toNat w 0
    let f : ETy := if w = 64 then .f64 else .f32
    let out (i : Instr) (new_ : Nat) : Prop := ∃ u, exec i s = .next u ∧ u.mem = memSetN s.mem key (leBytes n new_) ∧
      u.cur.sc = s.cur.sc.advance ∧ u.cur.v = (if nr then s.cur else s.cur.setElt d.toNat w 0 old).v ∧ u.cur.masks = s.cur.masks ∧
      u.cur.tiles = s.cur.tiles ∧ u.quad.d.out = s.quad.d.out ∧ u.cur.marks = s.cur.marks
    ((t = .i32 ∨ t = .c32 ∨ t = .i64 ∨ t = .c64) →
      out (.vatAdd d a b nr o ac) ((old + v) % 2 ^ w) ∧ out (.vatAnd d a b nr o ac) (old &&& v) ∧
      out (.vatOr d a b nr o ac) (old ||| v) ∧ out (.vatXor d a b nr o ac) (old ^^^ v) ∧
      out (.vatMin d a b nr o ac) (if z v < z old then v else old) ∧ out (.vatMax d a b nr o ac) (if z old < z v then v else old) ∧
      out (.vatMinu d a b nr o ac) (min old v) ∧ out (.vatMaxu d a b nr o ac) (max old v)) ∧
    ((t = .i32 ∨ t = .c32 ∨ t = .i64 ∨ t = .c64 ∨ t = .f32 ∨ t = .f64) → out (.vatSwap d a b nr o ac) v) ∧
    ((t = .f32 ∨ t = .f64) →
      out (.vatFadd d a b nr o ac) (fAdd f .rne false old v).bits ∧ out (.vatFmin d a b nr o ac) (fMinMax f false old v).bits ∧
      out (.vatFmax d a b nr o ac) (fMinMax f true old v).bits)

/-! ### Copies, publications, reductions and launches -/

/-- R357 to R363, R368: `cp.set` and `cp.mask` write a channel's registers; `cp.go` takes the transfer that they describe when
each of its checks passes, and otherwise raises BOUNDS with the first register that fails; `cp.wait` answers by CPDONE;
`cp.stat` reads the status word and clears its fields. R372 to R375: `cp.cbcfg` makes or ends a controller of the crew;
`cp.cbacq` gives the address of the oldest filled slot, and waits for one when none is filled; `cp.cbrel` frees the slot that
was acquired first. -/
def Obligations.CopyResults : Prop :=
  (∀ (d a k x m : Reg) (s : State), s.Settled →
     let n := k.toNat % 4
     let c := s.cur.chan n
     let ch (f : Chan → Chan) : State := s.modCur (fun y => y.modChan n f)
     exec (.cpSet k a x) s = .next (ch (fun c => { c with shadow := c.shadow.set x.toNat (s.reg a) })).advance ∧
     exec (.cpMask m k) s = .next (ch (fun c => { c with
       shadow := c.shadow.set 5 ((c.shadow.getD 5 0 &&& 0xFFFFFFFFFFFFF8FF) ||| w64 (m.toNat % 8 * 256)) })).advance ∧
     (∀ i, c.xfers.length < 8 → s.cpBad c.shadow = some i → exec (.cpGo d k) s = s.traps cBOUNDS (c.shadow.getD i 0) (w64 i)) ∧
     (c.xfers.length < 8 → s.cpBad c.shadow = none →
       (s.held = false → exec (.cpGo d k) s =
         .next (((s.modCur (fun y => y.issue n)).releaseXfer s.cur.uid n c.nextId).setReg d (w64 c.nextId)).advance) ∧
       (s.hands (.cpGo n c.nextId) → exec (.cpGo d k) s =
         .next (((s.modCur (fun y => y.issue n)).hand (.cpGo n c.nextId)).setReg d (w64 c.nextId)).advance)) ∧
     (8 ≤ c.xfers.length → exec (.cpGo d k) s = .next s.setWaiting) ∧
     (let y := s.cur.issue n
      let j := (c.shadow.getD 5 0).toNat / 256 % 8
      (y.chan n).nextId = (if c.nextId + 1 = 2 ^ 48 then 1 else c.nextId + 1) ∧ (y.chan n).xfers.length = c.xfers.length + 1 ∧
      (∀ i < 4, i ≠ n → y.chan i = s.cur.chan i) ∧ y.sc = s.cur.sc ∧
      ∀ q < 8, ∀ e < 512, y.maskBit q e = (s.cur.maskBit q e && !(q == j && j != 0 && decide (e < s.cur.vlg)))) ∧
     ((c.cpdone + 2 ^ 48 - (s.reg a).toNat % 2 ^ 48) % 2 ^ 48 < 2 ^ 47 → exec (.cpWait k a) s =
       .next (match c.wrote with
         | some i => if reached (s.reg a).toNat i then s.acquire 3 else s
         | none => s).advance) ∧
     (2 ^ 47 ≤ (c.cpdone + 2 ^ 48 - (s.reg a).toNat % 2 ^ 48) % 2 ^ 48 → exec (.cpWait k a) s = .next s.setWaiting) ∧
     exec (.cpStat d k) s = .next ((s.setReg d (w64 (c.bytes % 2 ^ 32 * 2 ^ 32 + c.code % 2 ^ 8 * 2 ^ 24 + c.fchunk % 2 ^ 12 * 2 ^ 12 +
       c.fidlo % 2 ^ 12))).modCur (fun y => y.modChan n (fun c => { c with code := 0, fchunk := 0, fidlo := 0 }))).advance) ∧
  (∀ (d k b : Reg) (s : State), s.Settled →
     let n := k.toNat % 8
     let me := s.cur.ident.crew
     let found := s.quad.d.cbs.find? (fun c => c.idx == n)
     let v := (s.reg b).toNat
     let base := v % 2 ^ 21
     let slot := v / 2 ^ 21 % 2 ^ 11
     let ns := v / 2 ^ 32 % 2 ^ 7
     (found = none → exec (.cpCbacq d k) s = s.traps cBOUNDS (w64 n) 0 ∧ exec (.cpCbrel k) s = s.traps cBOUNDS (w64 n) 0) ∧
     (∀ c, found = some c → c.owner ≠ me → exec (.cpCbacq d k) s = s.traps cBOUNDS (w64 n) 0 ∧
       exec (.cpCbrel k) s = s.traps cBOUNDS (w64 n) 0 ∧ exec (.cpCbcfg k b) s = s.traps cBOUNDS (w64 n) 0) ∧
     (∀ c, found = some c → c.owner = me →
       (c.filled ≠ 0 → c.waitq = [] → exec (.cpCbacq d k) s =
         .next ((s.setCb { c with ci := (c.ci + 1) % c.nslot, filled := c.filled - 1, acqd := c.acqd ++ [c.ci] }).setReg d
           (w64 (scratchBase + c.base + c.ci * c.slot * 32))).advance) ∧
       (c.filled = 0 → c.waitq = [] → exec (.cpCbacq d k) s = .next (s.setCb { c with waitq := [s.cur.uid] }).setWaiting) ∧
       (∀ i r, c.acqd = i :: r → exec (.cpCbrel k) s =
         .next (s.setCb { c with acqd := r, free := c.free + 1 }).serveQuad.advance) ∧
       (c.acqd = [] → exec (.cpCbrel k) s = s.traps cBOUNDS (w64 n) 0)) ∧
     ((∀ c, found = some c → c.owner = me) →
       (2 ^ 39 ≤ v ∨ 64 < ns ∨ (ns ≠ 0 ∧ (slot = 0 ∨ base % 32 ≠ 0 ∨ s.cur.ident.alen < base + ns * slot * 32)) →
         exec (.cpCbcfg k b) s = s.traps cBOUNDS (s.reg b) 0) ∧
       (v < 2 ^ 39 → ns = 0 → s.cbTarget me n = false → exec (.cpCbcfg k b) s =
         .next (s.modQ (fun q => { q with cbs := q.cbs.filter (fun c => c.idx != n) })).advance) ∧
       (v < 2 ^ 39 → 1 ≤ ns → ns ≤ 64 → 1 ≤ slot → base % 32 = 0 → base + ns * slot * 32 ≤ s.cur.ident.alen →
         s.cbTarget me n = false → exec (.cpCbcfg k b) s = .next (s.modQ (fun q => { q with
           cbs := q.cbs.filter (fun c => c.idx != n) ++ [⟨n, me, base, slot, ns, ns, 0, 0, 0, [], [], [], []⟩] })).advance)))

/-- R437 to R442: `xr.pub` with LEN = 0 ends a publication and with another LEN makes one, at VERSION 1; `xr.sub` with no copy
cancels a subscription, and refuses a record that breaks a rule with the rule's offset; `xr.waitv` answers by the version word
at its home. A record stands in the strand's scratchpad allotment. R439 to R441, R445: a subscriber is served by lines and
then by its version word, or dropped when its module is out of reach; a registration takes the lowest free slot, or is
answered NOPUB or FULL; a message of a collective is kept once. -/
def Obligations.PublicationResults : Prop :=
  (∀ (d a b : Reg) (s : State) (off : Nat), s.Settled → s.cur.status = .running → s.reg a = w64 (scratchBase + off) →
     let key := scratchKey s.cur.ident.quad (s.cur.ident.abase + off)
     keyHome key = 3 → keyHome (key + 128) = 3 →
     (s.padPlain off 64 → off % 64 = 0 →
       let r := memGetN s.mem key 64
       let f (o n : Nat) : Nat := leNat ((r.drop o).take n)
       (∀ o, firstBad (s.pubRules r) = some o → exec (.xrPub a) s = .next (s.trapEntry ⟨cBOUNDS, s.reg a, w64 o, 0, 11, false⟩)) ∧
       (firstBad (s.pubRules r) = none → f 8 8 = 0 → s.held = false → ∃ t, exec (.xrPub a) s = .next t ∧ t.cur.sc = s.cur.sc.advance ∧
         t.pub? (f 0x10 2) = none ∧ t.cur.note = none ∧ t.cur.handed = none) ∧
       (firstBad (s.pubRules r) = none → f 8 8 ≠ 0 → s.held = false → s.pub? (f 0x10 2) = none → ∃ t, exec (.xrPub a) s = .next t ∧
         t.cur.sc = s.cur.sc.advance ∧ t.cur.note = none ∧ ∃ p, t.pub? (f 0x10 2) = some p ∧ p.version = 1 ∧ p.subs = [] ∧
           p.base = f 0 8 ∧ p.len = f 8 8 ∧ p.part = s.cur.ident.part)) ∧
     (s.padPlain off 32 → off % 32 = 0 →
       let r := memGetN s.mem key 32
       let f (o n : Nat) : Nat := leNat ((r.drop o).take n)
       (s.reg b = 0 → s.held = false → exec (.xrSub d a b) s = .next ((match s.localPage (w64 (f 0x10 8)) with
         | some g => s.unsubscribe s.cur.ident.part (f 0 1) (f 2 2) g
         | none => s).setReg d 0).advance) ∧
       (∀ o, s.reg b ≠ 0 → firstBad (s.subRules r) = some o →
         exec (.xrSub d a b) s = .next (s.setReg d (w64 (2 ^ 63 + o * 256 + 2))).advance) ∧
       (s.reg b ≠ 0 → firstBad (s.subRules r) = none → (s.reg b).toNat % 4096 ≠ 0 →
         exec (.xrSub d a b) s = .next (s.setReg d (w64 (2 ^ 63 + 8 * 256 + 2))).advance)) ∧
     ((s.reg b).toNat % 8 ≠ 0 → exec (.xrWaitv b d) s = .next (s.trapEntry ⟨cMISALIGN, s.reg b, 0, 0, 1, false⟩)) ∧
     ∀ g p u, (s.reg b).toNat % 8 = 0 → segsM (s.reg b) 8 accLd 0 s = .ok [g] u → g.page = some p → keyHome g.key = 0 →
       u.poisonIn g.key 8 = none →
       let w := u.homeLookup u.cur.uid u.cur.ident.part u.cur.ident.crew (g.key / g.grain * g.grain)
         ((s.reg b).toNat / g.grain * g.grain) g.grain 0 g.cach
       let r := w.keyRead g.kid g.key 8
       ((s.reg d).toNat ≤ leNat r.1 → exec (.xrWaitv b d) s = .next (r.2.acquire 3).advance) ∧
       (leNat r.1 < (s.reg d).toNat → exec (.xrWaitv b d) s = .next r.2.setWaiting)) ∧
  ((∀ (s : State) (p : Pub) (r : PubRun) (b : Sub) (slot : Nat), s.pub? p.id = some p →
     s.pubRuns.find? (fun r => r.pubid == p.id && r.todo.any (fun t => t.1 == slot)) = some r →
     p.subs.find? (fun b => b.slot == slot) = some b →
     let ls := ((r.todo.find? (fun t => t.1 == slot)).map (·.2)).getD []
     (s.reaches b.dev = true → exec (.publicationDelivery p.id slot) s = .next ({ s.deliver p b ls r.version with
       pubRuns := (s.deliver p b ls r.version).pubRuns.map (fun (k : PubRun) =>
         if k.pubid = p.id ∧ k.version = r.version then { k with todo := k.todo.filter (fun t => t.1 != slot), nsub := k.nsub + 1 }
         else k) }.settlePubs)) ∧
     (s.reaches b.dev = false → ∃ t, exec (.publicationDelivery p.id slot) s = .next t ∧ t.mem = s.mem ∧
       t.pub? p.id = some { p with subs := p.subs.filter (fun c => c.slot != slot), drops := p.drops + 1 })) ∧
   (∀ (s : State) (p : Pub) (b : Sub) (l pl v : Nat), Memory.wf s.mem = true → s.keyGen = [] → b.dev = s.devid → p.places [l] = [(l, pl)] →
     let dst := homeKey 0 (tagPa (b.pages.getD (pl / 8) 0) + pl % 8 * 512)
     let word := homeKey 0 (tagPa b.vword)
     tagPa (b.pages.getD (pl / 8) 0) + 4096 ≤ 2 ^ 52 → tagPa b.vword + 8 ≤ 2 ^ 52 → 512 * l + 512 ≤ 2 ^ 52 →
     word + 8 ≤ dst ∨ dst + 512 ≤ word →
     memGetN (s.deliver p b [l] v).mem dst 512 = memGetN s.mem (homeKey 0 (512 * l)) 512 ∧
     memGetN (s.deliver p b [l] v).mem word 8 = leBytes 8 v ∧
     ∀ k, (k < dst ∨ dst + 512 ≤ k) → (k < word ∨ word + 8 ≤ k) → memGet (s.deliver p b [l] v).mem k = memGet s.mem k) ∧
   (∀ (s : State) (p : Pub) (slot : Nat), s.pub? p.id = some p →
     ((∃ b ∈ p.subs, b.slot = slot ∧ b.dev ≠ s.devid) → ∃ t, exec (.subscriberDrop p.id slot) s = .next t ∧ t.mem = s.mem ∧
       t.pub? p.id = some { p with subs := p.subs.filter (fun c => c.slot != slot), drops := p.drops + 1 }) ∧
     ((∀ b ∈ p.subs, b.slot = slot → b.dev = s.devid) → exec (.subscriberDrop p.id slot) s = .next s)) ∧
   (∀ (s : State) (r : SubReq), r.uid = none →
     (r.dev = s.devid ∨ s.pub? r.pubid = none → exec (.subscriptionRegistration r) s = .next s) ∧
     ∀ p, r.dev ≠ s.devid → s.pub? r.pubid = some p →
       (p.len ≠ r.len ∨ (∀ i < 64, ∃ b ∈ p.subs, b.slot = i) → exec (.subscriptionRegistration r) s = .next s) ∧
       ∀ i < 64, p.len = r.len → (∀ b ∈ p.subs, b.slot ≠ i) → (∀ j < i, ∃ b ∈ p.subs, b.slot = j) →
         ∃ t, exec (.subscriptionRegistration r) s = .next t ∧ t.mem = s.mem ∧
           t.pub? r.pubid = some { p with
             seqNo := p.seqNo + 1, subs := p.subs ++ [⟨i, r.dev, r.part, r.vword, r.pages, r.vva, r.va, true⟩] }) ∧
   (∀ (s : State) (r k : SubReq) (u : Nat) (q : Req), r.uid = some u →
     s.reqs.find? (fun q => q.eff.uid == u && (match q.eff.kind with | .sub _ _ => true | _ => false)) = some q →
     q.eff.kind = .sub s.devid k → exec (.subscriptionRegistration r) s = .next
       (({ (s.enrol k).1 with reqs := (s.enrol k).1.reqs.filter (fun p => p.eff.id != q.eff.id) }).reply u q.eff.id [(s.enrol k).2])) ∧
   (∀ (s : State) (m : CollMsg), ∃ t, exec (.collectiveMessage m) s = .next t ∧ t.mem = s.mem ∧ t.cur.sc = s.cur.sc ∧
     ((∃ k ∈ s.colls, k.collid = m.collid ∧ k.seq = m.seq ∧ k.pos = m.pos ∧ k.join = m.join) →
       (m.join && s.callBroken m.collid m.seq m.npos) = false → t.colls = s.colls) ∧
     (m.join = true → s.callBroken m.collid m.seq m.npos = true → t.colls = s.colls ++ [m]) ∧
     ((∀ k ∈ s.colls, ¬ (k.collid = m.collid ∧ k.seq = m.seq ∧ k.pos = m.pos ∧ k.join = m.join)) → t.colls = s.colls ++ [m]) ∧
     ((∃ r, s.cur.note = some (noteRed :: r)) → t.cur.waiting = false)))

/-- R444, R445: `xr.red` at the last position, once every other member has joined with the same form and the values that leave
the position before it have arrived: each element becomes the step of what arrived and its own, the values leave this position
too, and the instruction completes. -/
def Obligations.ReductionResult : Prop :=
  ∀ (d a : Reg) (s : State) (t : ETy) (off : Nat) (ys : List Word), s.Settled → s.VecReady → s.held = false →
    etyOfCode (modeETA s.cur.sc.md) = some t → redType t = true → modeRND s.cur.sc.md ≤ 5 →
    let w := etyBits t
    let c := s.cur.sc
    s.spans d w w → s.holdsVlc w → s.reg a = w64 (scratchBase + off) → off % 128 = 0 → s.padPlain off 128 →
    let key := scratchKey s.cur.ident.quad (s.cur.ident.abase + off)
    let r := memGetN s.mem key 128
    let f (o n : Nat) : Nat := leNat ((r.drop o).take n)
    let collid := f 0 4
    let n := f 4 1
    let pos := f 5 1
    let op := f 6 1
    let seq := f 0x48 8
    keyHome key = 3 → keyHome (key + 128) = 3 → firstBad (s.redRules r) = none → pos + 1 = n →
    (∀ m ∈ s.colls, m.collid = collid → m.seq = seq → m.pos ≠ pos) →
    (∀ p < pos, ∃ m, joinOf (s.call collid seq) p = some m ∧ m.n = c.vlc ∧ m.eta = modeETA c.md ∧ m.op = op ∧ m.npos = n ∧
      m.devs = (redDevs r).take n) →
    leaves (s.call collid seq) (pos - 1) = some ys →
    let m := if modeRND c.md = 5 then c.vlc else 0
    let y (e : Nat) : Nat := (ys.getD e 0).toNat % 2 ^ w
    let x (e : Nat) : Nat := s.cur.elt d.toNat w e
    let sat := modeSAT c.md
    let res (e : Nat) : Nat × Flags :=
      if etyIsInt t then
        if op = 0 then intResult t sat (intVal t (y e) + intVal t (x e))
        else if op = 1 then (if intVal t (x e) < intVal t (y e) then x e else y e, 0)
        else (if intVal t (y e) < intVal t (x e) then x e else y e, 0)
      else
        let q := if op = 0 then fAdd t (s.roundAt m e) sat (y e) (x e) else fMinMax t (op != 1) (y e) (x e)
        (q.bits, q.fl)
    ∃ u, exec (.xrRed d a) s = .next u ∧
      u.cur.v = (s.putElts d w (fun e => some (res e).1)).cur.v ∧
      u.cur.sc = (s.vecDone ((List.range c.vlc).foldl (fun g e => g ||| (res e).2) 0) m).cur.sc ∧
      u.cur.note = none ∧ u.cur.tiles = s.cur.tiles ∧ u.cur.masks = s.cur.masks ∧
      leaves (u.call collid seq) pos = some ((List.range c.vlc).map (fun e => w64 (res e).1))

/-- R252 to R257: `ln.go` by a strand that is not privileged, with its LPB in the scratchpad allotment and DONEVA writable:
the launch is recorded under the handle returned, or refused with the first field that breaks a rule; `ln.stat` reports a
launch of the partition. -/
def Obligations.LaunchResults : Prop :=
  ∀ (d a : Reg) (s : State) (p : Part), s.Settled → s.cur.status = .running → s.part? s.cur.ident.part = some p →
    (∀ off g u, s.reg a = w64 (scratchBase + off) → off % 128 = 0 → s.padPlain off 128 → s.cur.sc.prv = false →
      let b := memGetN s.mem (scratchKey s.cur.ident.quad (s.cur.ident.abase + off)) 128
      let f (o n : Nat) : Nat := leNat ((b.drop o).take n)
      let done := w64 (f 0x10 8)
      done ≠ 0 → canonical done = true → inWindow done = false → done.toNat % 8 = 0 → s.segOf done 8 accSt = (.ok g, u) →
      (s.hands (.lnGo b false) → ∃ t, exec (.lnGo d a) s = .next t ∧ t.cur.waiting = true ∧ t.cur.handed = some ⟨s.effSeq, none⟩ ∧
        t.cur.sc = s.cur.sc ∧ t.launches = s.launches ∧
        t.quad.plat = s.quad.plat ++ [⟨s.effSeq, s.cur.uid, s.quad.id, s.releaseTick, .lnGo b false⟩]) ∧
      (s.held = false →
      let h := w64 (p.id * 2 ^ 48 + (p.launchSeq + 1) % 2 ^ 38 * 2 ^ 10 +
        ((List.range 1024).find? (fun i => !s.launches.any (fun l => l.handle.toNat % 1024 == i))).getD 0)
      let out (v : Word) (P : State → Prop) : Prop := ∃ t, exec (.lnGo d a) s = .next t ∧
        t.cur.sc = (s.setReg d v).advance.cur.sc ∧ t.cur.note = none ∧ t.cur.handed = none ∧ P t
      (1024 ≤ s.launches.length → out (w64 (2 ^ 63 + 1)) (fun t => t.launches = s.launches)) ∧
      (s.launches.length < 1024 →
        (∀ o, firstBad (lpbRules p b) = some o → out (w64 (2 ^ 63 + o * 256 + 2)) (fun t => t.launches = s.launches)) ∧
        (∀ o, firstBad (lpbRules p b) = none → firstBad (fitRules p b) = some o →
          out (w64 (2 ^ 63 + o * 256 + 3)) (fun t => t.launches = s.launches)) ∧
        (firstBad (lpbRules p b) = none → firstBad (fitRules p b) = none →
          out h (fun t => ∃ l ∈ t.launches, l = { launchOfLpb h p.id b false with deps := l.deps }))))) ∧
    (∀ off, s.reg a = w64 (scratchBase + off) → off % 128 ≠ 0 → off + 128 ≤ s.cur.ident.alen → s.cur.ident.alen ≤ 2 ^ 21 →
      (∀ j < 128, s.poisonedAt (scratchKey s.cur.ident.quad (s.cur.ident.abase + off) + j) = false) →
      exec (.lnGo d a) s = .next (s.trapEntry ⟨cLAUNCH, s.reg a, 0, 0, 11, false⟩)) ∧
    (s.launchOf (s.reg a) = none → exec (.lnStat d a) s = .next (s.setReg d 0).advance) ∧
    ∀ l, s.launchOf (s.reg a) = some l →
      (l.part ≠ s.cur.ident.part → exec (.lnStat d a) s = .next (s.setReg d 0).advance) ∧
      (l.part = s.cur.ident.part →
        let mine := s.crews.filter (fun c => c.launch == l.handle)
        let state := if ∃ x ∈ l.deps, x.met = false then 1 else if l.retired = l.ncx * l.ncy * l.ncz then 4
          else if l.placed = 0 ∨ (mine ≠ [] ∧ (∀ c ∈ mine, c.depot = true) ∧ l.retired = 0) then 2 else 3
        exec (.lnStat d a) s = .next (s.setReg d (w64 (l.retired % 2 ^ 32 * 2 ^ 32 +
          (if ∃ c ∈ s.crews, c.launch = s.reg a ∧ c.depot = true then 2 ^ 14 else 0) + l.prio * 2 ^ 8 + state))).advance)

/-! ### Events -/

/-- R43, R93, R103, R120, R137, R194, R392, R399: what the write of each register with a rule of its own leaves, as a step of
its own; MODE and TSHAPE keep their value when the written one is not taken. -/
def Obligations.RegisterWriteEvents : Prop :=
  ∀ (s : State) (v : Word),
    let c := s.cur.sc
    let lend : LoopEnd := ⟨if (v >>> 48).truncate 12 = (0 : BitVec 12) then 1 else (v >>> 48).truncate 12, (v >>> 2).truncate 46⟩
    let out (i : Instr) (f : Scalar → Scalar) : Prop := exec i s = .next { s with cur := { s.cur with sc := f c } }
    (v >>> 24 = 0 → out (.modeWrite v) (fun c => { c with mode := v.truncate 25 })) ∧
    (v >>> 24 ≠ 0 → exec (.modeWrite v) s = .next s) ∧
    out (.stsWrite v) (fun c => { c with fpen := (v >>> 16).truncate 5, rolled := c.rolled && !v.getLsbD 3,
                                         vlcut := c.vlcut && !v.getLsbD 2, nr := c.nr && !v.getLsbD 1 }) ∧
    out (.flagsWrite v) (fun c => { c with flags := v.truncate 6 }) ∧
    out (.seedWrite v) (fun c => { c with seed := if v = 0 then 0x9E3779B97F4A7C15 else v }) ∧
    out (.lendWrite false v) (fun c => { c with lend0 := lend }) ∧ out (.lendWrite true v) (fun c => { c with lend1 := lend }) ∧
    out (.ecauseWrite v) (fun c => { c with ecause := v.truncate 8 }) ∧
    (tshapeOk c.prot v = true → out (.tshapeWrite v) (fun c => { c with tshape := v })) ∧
    (tshapeOk c.prot v = false → exec (.tshapeWrite v) s = .next s) ∧
    ∀ p, s.part? s.cur.ident.part = some p → ∃ t, exec (.fqtailWrite v) s = .next t ∧ t.cur = s.cur ∧ t.mem = s.mem ∧
      let w : BitVec 32 := v.truncate 32
      t.part? s.cur.ident.part = some { p with
        fqtail := if 16 * 2 ^ p.fqsize.toNat < (p.fqhead - w).toNat then p.fqhead else w }

/-- R114, R115, R282, R283, R285, R286, R311, R313, R442: the ends of waits. A strand whose deadlock the detector has found
tries its instruction again, which then raises QDEADLOCK. Once the timer has passed a strand's deadline its `cf.twait` ends:
with 2 when no record stands, with 0 and an acquire when the phase completed by then, and otherwise with 1, the record kept; a
completed phase reaches a strand's records, but not those of a saved one; a token is granted to the first waiting request that
may take it. -/
def Obligations.WaitEvents : Prop :=
  (∀ (s : State) (uid : Nat), ∃ t, exec (.qdeadlockDetect uid) s = .next t ∧ (s.strand? uid = none → t = s) ∧
    (∀ x, s.strand? uid = some x → t.strand? uid = some { x with waiting := false }) ∧
    (∀ u, u ≠ uid → t.strand? u = s.strand? u) ∧ t.mem = s.mem ∧ t.quad = s.quad) ∧
  (∀ (s : State) (uid : Nat), ∃ t, exec (.waitvRecheck uid) s = .next t ∧ (s.strand? uid = none → t = s) ∧
    (∀ x, s.strand? uid = some x → t.strand? uid = some { x with waiting := false }) ∧
    (∀ u, u ≠ uid → t.strand? u = s.strand? u) ∧ t.mem = s.mem ∧ t.quad = s.quad) ∧
  (∀ (s : State) (w : TWait) (b : Bool), s.Settled → s.cur.status = .running →
    let u := s.modCur (fun x => { x with deadline := some w, waiting := b })
    let done (v : Word) (t : State) : Host.Outcome State Fault Refusal :=
      .next (((t.setReg w.d v).modCur (fun x => { x with deadline := none, waiting := false })).advance)
    exec (.twaitTimeout s.cur.uid) s = .next s ∧
    (s.timer ≤ w.deadline → exec (.twaitTimeout s.cur.uid) u = .next u) ∧
    (w.deadline < s.timer →
      (s.cur.barRec w.bar = none → exec (.twaitTimeout s.cur.uid) u = done 2 u) ∧
      ∀ r, s.cur.barRec w.bar = some r →
        (r.done = true → r.time ≤ w.deadline → exec (.twaitTimeout s.cur.uid) u =
          done 0 ((u.modCur (fun x => x.dropRec w.bar)).acquire (barScope w.bar))) ∧
        (r.done = false ∨ w.deadline < r.time → exec (.twaitTimeout s.cur.uid) u = done 1 u))) ∧
  (∀ (s : State) (uid : Nat),
    (s.strand? uid = none → exec (.barrierPhaseDelivery uid) s = .next s) ∧
    (∀ x, s.strand? uid = some x → x.status = .depot → ∃ t, exec (.barrierPhaseDelivery uid) s = .next t ∧
      t.strand? uid = some x ∧ t.mem = s.mem) ∧
    ∀ x, s.strand? uid = some x → x.status ≠ .depot → ∃ t, exec (.barrierPhaseDelivery uid) s = .next t ∧
    t.strand? uid = some { x with waiting := false, barRecs := x.barRecs.map (fun r =>
      if r.done = false ∧ r.phase.isSome ∧ r.phase ≠ some (s.bar r.bar).phase ∧ (s.bar r.bar).id = r.bar then
        { r with done := true, time := s.timer }
      else r) } ∧
    (∀ u, u ≠ uid → t.strand? u = s.strand? u) ∧ t.mem = s.mem) ∧
  ∀ (s : State) (idx : Nat),
    (s.tokReqs.find? (fun r => r.idx == idx && mayTake (s.token idx) r.owner) = none → exec (.tokenGrant idx) s = .next s) ∧
    ∀ r, s.tokReqs.find? (fun r => r.idx == idx && mayTake (s.token idx) r.owner) = some r →
      ∃ t, exec (.tokenGrant idx) s = .next t ∧ t.token idx = some (.held r.owner r.uid) ∧
        (∀ j, j ≠ idx → t.token j = s.token j) ∧ (∀ k ∈ t.tokReqs, k ∈ s.tokReqs ∧ ¬ (k.idx = idx ∧ k.uid = r.uid)) ∧
        ∀ x h, s.strand? r.uid = some x → x.handed = some h → h.id = r.eff →
          t.strand? r.uid = some { x with handed := some ⟨r.eff, some []⟩, waiting := false }

/-- R353, R361, R363, R366, R371, R374, R459, R463: a released transfer starts, with its slot where it has a controller, in
the order in which transfers reached it; the one chunk of a LINEAR or FILL transfer within the scratchpad is written and ends
it; a flash block whose tag differs, and one whose read fails, fail the transfer at the first chunk that touches it; an ended
transfer updates its channel. -/
def Obligations.TransferEvents : Prop :=
  (∀ (s : State) (uid ch : Nat),
    let start := exec (.transferStart uid ch) s
    (s.oldestXfer uid ch (fun t => !t.started) = none → start = .next s) ∧
    ∀ x t, s.oldestXfer uid ch (fun t => !t.started) = some (x, t) →
      let cb := (s.getQuad x.ident.quad).d.cbs.find? (fun c => c.idx == (regOf t.words 6).toNat % 8)
      (t.released = false ∨ x.served = false → start = .next s) ∧
      let me := (uid, ch, t.ident)
      let line (c : Cb) : List (Nat × Nat × Nat) :=
        let q := c.waits.filter (fun w => match s.xfer? w.1 w.2.1 w.2.2 with | some (_, u) => !u.started | none => false)
        if me ∈ q then q else q ++ [me]
      (cpCB t.words = true → cb = none → start = .next s) ∧
      (∀ c, t.released = true → x.served = true → cpCB t.words = true → cb = some c → c.free ≤ 0 ∨ (line c).head? ≠ some me →
        start = .next (s.modCb x.ident.quad c.idx (fun c' => { c' with waits := line c }))) ∧
      (t.released = true → x.served = true → t.chunks = [] → t.fail = none → 0 < t.count → cpKind t.words ≠ 4 → cpFlash t.words = false →
        (cpCB t.words = false → start = .next (s.putXfer uid ch { t with started := true, slot := none })) ∧
        ∀ c, cpCB t.words = true → cb = some c → 0 < c.free → (line c).head? = some me → start = .next ((s.modCb x.ident.quad c.idx
          (fun c' => { c' with free := c'.free - 1, pi := (c'.pi + 1) % c'.nslot, resv := c'.resv ++ [(c'.pi, false)],
                               waits := (line c).drop 1 })).putXfer uid ch
            { t with started := true, slot := some (c.idx, c.pi) }))) ∧
  (∀ (s : State) (uid ch n src dst : Nat) (x : Strand) (t : Xfer), Memory.wf s.mem = true → s.strand? uid = some x → x.served = true → ch < 4 →
    x.ident.quad < 144 → x.ident.abase + x.ident.alen ≤ 2 ^ 21 → s.memPoison = [] →
    (∀ w ∈ s.residents x.ident.quad, w.marks = []) → (x.chan ch).xfers = [t] → t.started = true → t.fail = none → t.chunks = [] →
    t.plan = [] → t.next = 0 → t.bytes = 0 → t.slot = none → t.ident < 2 ^ 47 → (x.chan ch).bytesId ≤ t.ident →
    1 < (x.chan ch).nextId → cpMask t.words = 0 → cpRows t.words = 1 → cpRowb t.words = n → 0 < n → n ≤ 4096 →
    cpKind t.words = 3 ∨ (cpKind t.words = 0 ∧ cpFlash t.words = false ∧ regOf t.words 0 = w64 (scratchBase + src) ∧
      src % 4096 + n ≤ 4096 ∧ src + n ≤ x.ident.alen) →
    regOf t.words 1 = w64 (scratchBase + dst) → dst % 4096 + n ≤ 4096 → dst + n ≤ x.ident.alen →
    let base := scratchKey x.ident.quad x.ident.abase
    ∃ u y, exec (.chunkComplete uid ch 0) s = .next u ∧ u.strand? uid = some y ∧
      (∀ i < n, memGet u.mem (base + dst + i) =
        if cpKind t.words = 3 then BitVec.ofNat 8 ((regOf t.words 7).toNat / 256 ^ (i % 8)) else memGet s.mem (base + src + i)) ∧
      (∀ k, k < base + dst ∨ base + dst + n ≤ k → memGet u.mem k = memGet s.mem k) ∧
      (y.chan ch).xfers = [] ∧ (y.chan ch).cpdone = (x.chan ch).nextId - 1 ∧ (y.chan ch).code = (x.chan ch).code ∧
      (y.chan ch).bytes = (if cpKind t.words = 3 then 0 else n) ∧ y.sc = x.sc ∧ y.waiting = false ∧
      ∀ i < 4, i ≠ ch → y.chan i = x.chan i) ∧
  (∀ (s : State) (uid ch b : Nat),
    (s.flashXfer uid ch b = none → exec (.flashBlockCheck uid ch b) s = .next s ∧ exec (.nvmeError uid ch b) s = .next s) ∧
    ∀ x t f, s.flashXfer uid ch b = some (x, t) → t.firstTouch b = some f → t.fail = none →
      exec (.nvmeError uid ch b) s = .next ((s.putXfer uid ch (t.failAt 8 f)).settleXfer uid ch t.ident) ∧
      (x.served = true → ∀ m, s.xferImage t = some m → cpCHK t.words = true →
        let tag := (sha3 (s.imgBytes m (m.doff + 65536 * b) 65536 ++ leBytes 8 b ++ m.iid)).take 16
        (tag ≠ s.imgBytes m (m.toff + 16 * b) 16 → exec (.flashBlockCheck uid ch b) s =
          .next ((s.putXfer uid ch (t.failAt 7 f)).settleXfer uid ch t.ident)) ∧
        (tag = s.imgBytes m (m.toff + 16 * b) 16 →
          (∀ k < t.count, b ∈ chunkBlocks t.words k → ∃ c ∈ chunkBlocks t.words k, c ≠ b ∧ c ∉ t.blocks) →
          exec (.flashBlockCheck uid ch b) s =
            .next ((s.putXfer uid ch { t with blocks := b :: t.blocks }).settleXfer uid ch t.ident)))) ∧
  (∀ (c : Chan) (t : Xfer) (f : Nat × Nat), t.fail = some f → f.1 ≠ 0 →
    (c.close t).xfers = c.xfers.filter (fun u => u.ident != t.ident) ∧ (c.close t).shadow = c.shadow ∧
    (c.close t).nextId = c.nextId ∧
    (c.code = 0 → (c.close t).code = f.1 ∧ (c.close t).fchunk = min f.2 4095 ∧ (c.close t).fidlo = t.ident % 4096) ∧
    (c.code ≠ 0 → (c.close t).code = c.code ∧ (c.close t).fchunk = c.fchunk ∧ (c.close t).fidlo = c.fidlo) ∧
    ∀ u r, (c.close t).xfers = u :: r → 1 < u.ident → (c.close t).cpdone = u.ident - 1)

/-- R431, R435, R446 to R450: the host reads and writes memory at its home; unmasking a vector sends its held message; a
datagram is refused without a grant, applied once, and acknowledged again when it is repeated; an answer completes a chunk, a
refusal or the sixteenth timeout fails its transfer with NET; a frame is dropped and counted, and a pause is honoured where it
is enabled. -/
def Obligations.HostAndNetworkEvents : Prop :=
  (∀ (s : State) (pa n : Nat) (bs : List Byte), Memory.wf s.mem = true → s.keyGen = [] → pa + n ≤ 2 ^ 52 → pa + bs.length ≤ 2 ^ 52 →
    (∃ t, exec (.hostRead pa n) s = .next t ∧ t.hostData = memGetN s.mem (homeKey 0 pa) n ∧ t.mem = s.mem ∧ t.cur = s.cur ∧
      t.quad = s.quad) ∧
    ∃ t, exec (.hostWrite pa bs) s = .next t ∧ memGetN t.mem (homeKey 0 pa) bs.length = bs ∧ t.cur = s.cur ∧ t.quad = s.quad ∧
      ∀ k, k < homeKey 0 pa ∨ homeKey 0 pa + bs.length ≤ k → memGet t.mem k = memGet s.mem k) ∧
  (∀ (s : State) (v : Nat), exec (.msixUnmask v) s = .next { s with
    msixMask := s.msixMask.filter (fun x => x != v), msixPend := s.msixPend.filter (fun x => x != v),
    hostMsgs := if v ∈ s.msixMask ∧ v ∈ s.msixPend then s.hostMsgs ++ [v] else s.hostMsgs }) ∧
  (∀ (s : State) (g : Datagram), Memory.wf s.mem = true → s.keyGen = [] → dgPaddr g + (dgData g).length + 8 ≤ 2 ^ 52 →
    let data := dgData g
    let key := homeKey 0 (dgPaddr g)
    let grain := homeKey 0 (dgPaddr g / 128 * 128)
    let me : DgKey := ⟨g.addr6, dgSpart g, dgSep g, dgSeq g⟩
    let ans (ok : Bool) : List DgAns := s.dgAns ++
      [⟨me, ok, dgHeader (if ok then 3 else 4) s.devid (dgSpart g) (dgSep g) (dgSeq g) (dgPaddr g) 0⟩]
    let say (ok : Bool) : Host.Outcome State Fault Refusal := .next { s with dgAns := ans ok }
    (dgValid g 1 = false → exec (.datagramData g) s = .next (s.dropFrame g.port)) ∧
    (dgValid g 2 = false → exec (.datagramSignal g) s = .next (s.dropFrame g.port)) ∧
    (dgValid g 1 = true → 1 ≤ data.length ∧ data.length ≤ 4096 ∧
      (s.grantFor g data.length = none → exec (.datagramData g) s = say false) ∧
      ∀ k, s.grantFor g data.length = some k →
        (me ∈ s.dgSeen → exec (.datagramData g) s = say true) ∧
        (me ∉ s.dgSeen → ∃ t, exec (.datagramData g) s = .next t ∧ memGetN t.mem key data.length = data ∧ me ∈ t.dgSeen ∧
          t.dgAns = ans true ∧ t.cur = s.cur ∧ ∀ j, j < key ∨ key + data.length ≤ j → memGet t.mem j = memGet s.mem j)) ∧
    (dgValid g 2 = true →
      (s.grantFor g 8 = none → exec (.datagramSignal g) s = say false) ∧
      ∀ k, s.grantFor g 8 = some k →
        (me ∈ s.dgSeen → exec (.datagramSignal g) s = say true) ∧
        (me ∉ s.dgSeen → ∃ t, exec (.datagramSignal g) s = .next t ∧ me ∈ t.dgSeen ∧ t.dgAns = ans true ∧
          leNat (memGetN t.mem key 8) = (leNat (memGetN s.mem key 8) + 1) % 2 ^ 64 ∧
          (t.homeRec grain).scope = 4 ∧ (t.homeRec grain).dom = s.devid ∧
          ∀ j, j < key ∨ key + 8 ≤ j → memGet t.mem j = memGet s.mem j))) ∧
  (∀ (s : State) (part sep n : Nat),
    (s.dgOf part sep n = none → ∀ i ∈ [Instr.datagramAck part sep n, .datagramRefusal part sep n, .datagramRetransmit part sep n],
      exec i s = .next s) ∧
    ∀ d, s.dgOf part sep n = some d →
      (d.tries < 16 → s.mayResend d = false → exec (.datagramRetransmit part sep n) s = .next s) ∧
      (d.tries < 16 → s.mayResend d = true → exec (.datagramRetransmit part sep n) s = .next { s with dgOut := s.dgOut.map (fun (k : DgOut) =>
        if k.part = part ∧ k.sep = sep ∧ k.seqNo = n then { k with tries := k.tries + 1 } else k) }) ∧
      (s.xfer? d.uid d.ch d.ident = none → exec (.datagramAck part sep n) s = .next (s.dropDg d)) ∧
      ∀ x t k, s.strand? d.uid = some x → d.ch < 4 → (x.chan d.ch).xfers = [t] → t.ident = d.ident → t.started = true → t.fail = none →
        (s.endpointOf x.ident.part t.words).isSome = true → d.chunk = some k → k < t.next → cpKind t.words = 4 →
        let ended (i : Instr) (code : Nat) : Prop := ∃ u y, exec i s = .next u ∧ u.strand? d.uid = some y ∧
          (y.chan d.ch).xfers = [] ∧ u.mem = s.mem ∧ (∀ j < 4, j ≠ d.ch → y.chan j = x.chan j) ∧
          ((x.chan d.ch).code = 0 → code ≠ 0 → (y.chan d.ch).code = code ∧ (y.chan d.ch).fchunk = min k 4095 ∧
            (y.chan d.ch).fidlo = t.ident % 4096) ∧ (code = 0 → (y.chan d.ch).code = (x.chan d.ch).code)
        ((∀ j < k, j ∈ t.chunks) → ended (.datagramRefusal part sep n) 9 ∧
          (16 ≤ d.tries → ended (.datagramRetransmit part sep n) 9)) ∧
        (cpSig t.words = false → k < t.count → k ∉ t.chunks → t.count ≤ t.next → (∀ j < t.count, j ≠ k → j ∈ t.chunks) →
          ended (.datagramAck part sep n) 0)) ∧
  ∀ (s : State) (i c q : Nat) (p : Port), q < 2 ^ 16 → s.ports[i]? = some p →
    (∃ t, exec (.frameDrop i) s = .next t ∧ t.ports[i]? = some { p with drops := p.drops + 1 } ∧
      (∀ j, j ≠ i → t.ports[j]? = s.ports[j]?) ∧ t.mem = s.mem ∧ t.cur = s.cur) ∧
    let on (k : Nat) : Prop := c = 0 ∨ c.testBit k = true
    let u := s.modPort i (fun p => if p.pauses then p.pause s.timer c q else p)
    (∃ p', u.ports[i]? = some p' ∧ (p.pauses = false → p' = p) ∧ (p.pauses = true →
      p' = { p with paused := p'.paused } ∧ (∀ e ∈ p.paused, ¬ on e.1 → e ∈ p'.paused) ∧
      (∀ k < 8, on k → ∀ e, (e ∈ p'.paused ∧ e.1 = k) ↔ e = (k, s.timer + (q * 512 + 799) / 800)))) ∧
    (∀ j, j ≠ i → u.ports[j]? = s.ports[j]?) ∧ u.mem = s.mem ∧ u.cur = s.cur ∧
    (q ≠ 0 → exec (.pauseFrame i (2 ^ 16 * c + q)) s = .next u) ∧ (q = 0 → exec (.pauseFrame i (2 ^ 16 * c + q)) s = .next u.pumpNet)

/-- R90, R249, R259, R261, R262, R265, R267, R268, R399, R402: the scheduler places and restores the crew whose turn it is,
pre-empts the crew that R267 chooses, reads dependences, writes the completion word, restarts parked strands and writes
waiting fault-queue entries and mirror stores, those of a strand in their order. -/
def Obligations.SchedulerEvents : Prop :=
  (∀ (s : State) (part : Nat) (l : Launch), s.pickLaunch part = some l → l ∈ s.launches ∧ l.part = part ∧ s.placeable l = true ∧
    ∀ k ∈ s.launches, k.part = part → s.placeable k = true → k.prio ≤ l.prio) ∧
  (∀ (s : State) (part quad base crew : Nat),
    (s.pickLaunch part = none → exec (.crewPlace part quad base) s = .next s) ∧
    (s.crewOf crew = none → exec (.crewRestore crew quad base) s = .next s) ∧
    ∀ l n, s.pickLaunch part = some l → s.nexts l = [n] → l.mirror = false →
      let served (t : State) : State := t.modPart part (fun p =>
        { p with rot := (l.prio, handleSeq l.handle) :: p.rot.filter (fun r => r.1 != l.prio) })
      (n.crew.isSome ∨ s.fitsNext l n quad base = false → exec (.crewPlace part quad base) s = .next s) ∧
      (n.crew = none → s.fitsNext l n quad base = true →
        exec (.crewPlace part quad base) s = .next (served (s.placeNew l n.index quad base))) ∧
      ∀ c, s.crewOf crew = some c → c.part = part →
        (n.crew ≠ some crew ∨ s.fitsNext l n quad base = false → exec (.crewRestore crew quad base) s = .next s) ∧
        (n.crew = some crew → s.fitsNext l n quad base = true →
          exec (.crewRestore crew quad base) s = .next (served (s.restoreCrew crew quad base false)))) ∧
  (∀ (s : State) (l : Launch) (c quad base i : Nat), i < l.nstr →
    let t := s.placeNew l c quad base
    t.cur = s.cur ∧ t.crewSeq = s.crewSeq + 1 ∧ (∀ x ∈ s.strands, x ∈ t.strands) ∧
    ∃ x ∈ t.strands, x.uid = s.uidSeq + i ∧ x.status = .running ∧ x.sc.pc = l.entry ∧ x.sc.regs = Vector.replicate 32 0 ∧
      x.sc.mode = 0x40FC0 ∧ x.sc.prv = l.prv ∧ x.sc.prot = l.prot ∧ x.sc.tnest = 0 ∧ x.sc.flags = 0 ∧ x.sc.trbase = 0 ∧
      x.sc.seed = 0x9E3779B97F4A7C15 ^^^ w64 (c * 32 ||| i) ∧ x.sc.vlc = x.vlg ∧ x.v = Vector.replicate 32 0 ∧
      x.masks = Vector.replicate 8 0 ∧ x.ident.strid = i ∧ x.ident.nstr = l.nstr ∧ x.ident.quad = quad ∧
      x.ident.core = (base + i) % 4 ∧ x.ident.lparam = l.param ∧ x.ident.crew = s.crewSeq ∧ x.ident.crewX = c % l.ncx ∧
      x.ident.crewY = c / l.ncx % l.ncy ∧ x.ident.crewZ = c / l.ncx / l.ncy) ∧
  (∀ (s : State) (c quad base : Nat) (k : Crew) (x : Strand), s.crewOf c = some k → k.bad = false → (s.all.map (·.uid)).Nodup →
    x ∈ s.liveOf c → x.offer = none → ∃ y, (s.restoreCrew c quad base false).strand? x.uid = some y ∧ y.sc = x.sc ∧ y.v = x.v ∧
      y.tiles = x.tiles ∧ y.masks = x.masks ∧ y.vlg = x.vlg ∧ y.ident.quad = quad ∧
      y.status = (if x.parkSlot.isSome then .parked else .running)) ∧
  (∀ (s : State) (part : Nat) (c : Crew), s.victimCrew part = some c → c ∈ s.crews ∧ c.part = part ∧ s.preemptible c = true ∧
    (∃ p w, s.part? part = some p ∧ s.waitingPrio part = some w ∧ s.prioOf c + p.pthresh ≤ w) ∧
    ∀ d ∈ s.crews, d.part = part → s.preemptible d = true → s.prioOf c ≤ s.prioOf d ∧ (s.prioOf d = s.prioOf c → d.seq ≤ c.seq)) ∧
  (∀ (s : State) (part : Nat), (∀ c ∈ s.crews, c.part = part → c.stopping = false) →
    (s.victimCrew part = none → exec (.schedulerPreempt part) s = .next s) ∧
    ∀ c, s.victimCrew part = some c →
      exec (.schedulerPreempt part) s = .next ((s.takeCrew c).saveStopped (fun d => d.part == part)) ∧
      (∃ d ∈ (s.takeCrew c).crews, d.id = c.id ∧ d.stopping = true) ∧
      ∀ x ∈ (s.takeCrew c).all, x.ident.crew = c.id → x.status = .running → s.inReduction x = true) ∧
  (∀ (s : State) (h : Word) (l : Launch), s.launchOf h = some l → ∃ t, exec (.dependencePoll h) s = .next t ∧ t.mem = s.mem ∧
    t.cur = s.cur ∧ t.launchOf h = some { l with deps := l.deps.map (fun d => { d with met := d.met || (s.homeWord l.part d.va).getLsbD 0 }) }) ∧
  (∀ (s : State) (h : Word) (l : Launch), s.launchOf h = some l →
    (l.retired ≠ l.ncx * l.ncy * l.ncz ∨ (∃ d ∈ l.deps, d.met = false) → exec (.completionWordWrite h) s = .next s) ∧
    ∀ p, l.retired = l.ncx * l.ncy * l.ncz → (∀ d ∈ l.deps, d.met = true) → s.homeOf l.part l.doneVa = some p → Memory.wf s.mem = true →
      s.keyGen = [] →
      keyHome (p.key + (l.doneVa.toNat - p.va)) ≠ 3 → ∃ t, exec (.completionWordWrite h) s = .next t ∧ t.launchOf h = none ∧
        memGetN t.mem (p.key + (l.doneVa.toNat - p.va)) 8 = leBytes 8 (w64 (l.normal % 2 ^ 32 * 2 ^ 32 + l.flags.toNat * 256 +
          (if l.rolled then 8 else 0) + (if l.ctxlost then 4 else 0) + (if l.faulted then 2 else 0) + 1)).toNat) ∧
  (∀ (s : State) (part : Nat) (p : Part), s.part? part = some p →
    (s.restartable p = none → exec (.strandRestart part) s = .next s) ∧
    (∀ x, s.restartable p = some x → p.halted = false → (∀ c, s.crewOf x.ident.crew = some c → c.stopping = false) →
      ∃ t, exec (.strandRestart part) s = .next t ∧ t.mem = s.mem ∧
        t.strand? x.uid = some { x with status := .running, parkSlot := none, waiting := false } ∧
        t.part? part = some { p with restart := p.restart.filter (fun u => u != x.uid) } ∧
        ∀ c ∈ (t.getQuad x.ident.quad).d.copies, c.core.isSome = true ∧ c.core ≠ some x.ident.core) ∧
    (∀ b r, p.fqwait = b :: r →
      (p.fqFull = true → exec (.faultQueueWrite part) s = .next s) ∧
      (p.fqFull = false → exec (.faultQueueWrite part) s = .next ((s.modPart part (fun p => { p with fqwait := r })).fqPut p b))) ∧
    (p.fqwait = [] → (∀ q ∈ s.reqs, ∀ b, q.eff.kind ≠ .fq b) → exec (.faultQueueWrite part) s = .next s) ∧
    ∀ q r b, p.fqwait = [] → s.reqs = q :: r → q.eff.kind = .fq b → s.partOfUid q.eff.uid = part →
      exec (.faultQueueWrite part) s = .next (({ s with reqs := s.reqs.filter (fun r => r.eff.id != q.eff.id) }).fqWrite part b)) ∧
  ∀ (s : State) (n off : Nat) (bs : List Byte) (q : Req) (c : Crew), Memory.wf s.mem = true →
    (s.reqs.find? (fun q => q.eff.id == n) = none → exec (.mirrorDelivery n) s = .next s) ∧
    let older : Prop := ∃ r ∈ s.reqs, r.eff.uid = q.eff.uid ∧ r.eff.id < n ∧ ∃ o b, r.eff.kind = .mirror o b
    (s.reqs.find? (fun q => q.eff.id == n) = some q → older → exec (.mirrorDelivery n) s = .next s) ∧
    (s.reqs.find? (fun q => q.eff.id == n) = some q → q.eff.kind = .mirror off bs → ¬ older →
      (∃ x, s.strand? q.eff.uid = some x ∧ s.crews.find? (fun d => d.id == x.ident.crew) = some c) → s.launchOf c.launch = none →
      ∃ t, exec (.mirrorDelivery n) s = .next t ∧ memGetN t.mem (scratchKey c.quad (c.abase + off)) bs.length = bs ∧
        (∀ r ∈ t.reqs, r.eff.id ≠ n) ∧ ∀ k, k < scratchKey c.quad (c.abase + off) ∨
          scratchKey c.quad (c.abase + off) + bs.length ≤ k → memGet t.mem k = memGet s.mem k)

/-- R409 to R419, R479, R481: a boundary takes a checkpoint, of which the quad keeps three; effects leave the platform at
their tick; a report rolls the quad back to the newest usable checkpoint, or marks the launches of its crews CTXLOST when
there is none; an aging quad's crews stop and a spare takes its place. -/
def Obligations.QuadEvents : Prop :=
  (∀ (s : State) (n : Nat), let q := s.getQuad n
    (s.timer % 128 ≠ 0 ∨ q.rolling = true → exec (.spanBoundary n) s = .next s) ∧
    (s.timer % 128 = 0 → q.rolling = false → ∃ t, exec (.spanBoundary n) s = .next t ∧ t.cur = s.cur ∧ t.mem = s.mem ∧
      let crews := s.crews.filter (fun c => c.quad == n && !c.depot)
      t.getQuad n = { q with ckpts := ({
        tick := s.timer, data := q.d, strands := (s.residents n).map s.keptStrand, scratch := scratchCells s.mem n, touched := [],
        cleared := [], poison := s.memPoison.filter (inScratch n), windows := crews.map (fun c => (c.id, c.windows)),
        launches := (crews.map (·.launch)).eraseDups } :: q.ckpts.filter (fun k => k.tick != s.timer)).take 3 })) ∧
  (∀ s : State, ((∀ e ∈ s.quad.plat, s.timer < e.tick) → exec (.platformRelease s.quad.id) s = .next s) ∧
    ∀ e r, s.quad.plat = e :: r → e.tick ≤ s.timer → (∀ k ∈ r, s.timer < k.tick) →
      let t : State := { s with quad := { s.quad with plat := r, lastRel := max s.quad.lastRel e.tick } }
      exec (.platformRelease s.quad.id) s = .next (if s.split && e.kind.travels then t.inject e else t.perform e) ∧
      ∃ k, (t.inject e).reqs = s.reqs ++ [k] ∧ k.eff = e ∧ k.st = .travel ∧ k.refusals = 0 ∧
        k.slices = s.lineSlices e.lines ∧ k.entry = false) ∧
  (∀ (s : State) (n : Nat), ∃ t, exec (.rollbackComplete n) s = .next t ∧ t.cur = s.cur ∧ t.mem = s.mem ∧
    t.getQuad n = { s.getQuad n with rolling := false }) ∧
  (∀ (s : State) (c : Ckpt), s.usable s.quad = some c → (∀ e ∈ s.quad.plat, s.timer < e.tick) →
    let since := s.quad.ckpts.filter (fun k => decide (c.tick ≤ k.tick))
    c.tick + 96 ≤ s.timer ∧ s.quad.lastRel < c.tick + 224 ∧
    (s.quad.ckpts.Pairwise (fun a b => b.tick < a.tick) →
      ∀ k ∈ s.quad.ckpts, k.tick + 96 ≤ s.timer → s.quad.lastRel < k.tick + 224 → k.tick ≤ c.tick) ∧
    ∃ t, exec (.strikeReport s.quad.id) s = .next t ∧ t.quad.rolling = true ∧ t.quad.plat = [] ∧
      (∀ k ∈ t.quad.ckpts, k.tick ≤ c.tick ∧ ∃ j ∈ s.quad.ckpts, j.tick = k.tick) ∧ t.quad.d.sem = c.data.sem ∧ t.quad.d.words = c.data.words ∧
      t.quad.d.out = c.data.out ∧ t.quad.d.copies = [] ∧
      (Memory.wf s.mem = true → ∀ k,
        ((∀ j ∈ since, k / 32 ∉ j.touched ∨ k ∈ j.cleared) → memGet t.mem k = memGet s.mem k) ∧
        (since = [c] → k / 32 ∈ c.touched → k ∉ c.cleared → memGet t.mem k = memGet c.scratch k)) ∧
      ∀ y, s.cur.onQuad s.quad.id = true → c.strands.find? (fun y => y.uid == s.cur.uid) = some y →
        (∀ p, s.part? s.cur.ident.part = some p → p.halted = false) → (∀ k, s.crewOf s.cur.ident.crew = some k → k.stopping = false) →
        (s.all.map (·.uid)).Nodup →
        t.cur.sc = { y.sc with rolled := true } ∧ t.cur.v = y.v ∧ t.cur.masks = y.masks ∧ t.cur.tiles = y.tiles ∧
        t.cur.q0 = y.q0 ∧ t.cur.q1 = y.q1 ∧ t.cur.status = (if y.status = .halted then .running else y.status) ∧
        t.cur.ident = s.cur.ident) ∧
  (∀ s : State, s.usable s.quad = none → (∀ e ∈ s.quad.plat, s.timer < e.tick) → (s.crews.map (·.id)).Nodup → (s.all.map (·.uid)).Nodup →
    ∃ t, exec (.strikeReport s.quad.id) s = .next t ∧ ∀ c ∈ s.crews, c.quad = s.quad.id → c.depot = false →
      ∀ l, s.launchOf c.launch = some l → ∃ k, t.launchOf c.launch = some k ∧ k.ctxlost = true) ∧
  ∀ (s : State) (n : Nat), let q := s.getQuad n
    let spares := s.lodge.spares.getD (n / 36) 0
    (144 ≤ n ∨ q.aging = true → exec (.quadAgingFlag n) s = .next s) ∧
    (n < 144 → q.aging = false → ∃ t, exec (.quadAgingFlag n) s = .next t ∧ t.mem = s.mem ∧
      t.getQuad n = { q with aging := true, agedAt := s.timer } ∧
      ∀ c ∈ s.crews, c.quad = n → s.preemptible c = true → ∃ d ∈ t.crews, d.id = c.id ∧ d.stopping = true) ∧
    (q.aging = false ∨ s.timer < q.agedAt + 1000000000 → exec (.noprePreemptTimeout n) s = .next s) ∧
    (q.aging = true → q.agedAt + 1000000000 ≤ s.timer → ∃ t, exec (.noprePreemptTimeout n) s = .next t ∧ t.mem = s.mem ∧
      ∀ c ∈ s.crews, c.quad = n → c.depot = false → ∃ d ∈ t.crews, d.id = c.id ∧ d.stopping = true) ∧
    (q.aging = false ∨ s.residents n ≠ [] ∨ q.plat ≠ [] ∨ q.rolling = true ∨ spares = 0 → exec (.quadSpareCopy n) s = .next s) ∧
    (q.aging = true → s.residents n = [] → q.plat = [] → q.rolling = false → spares ≠ 0 → ∃ t, exec (.quadSpareCopy n) s = .next t ∧
      t.mem = s.mem ∧ t.cur = s.cur ∧ t.lodge.spares = s.lodge.spares.set (n / 36) (spares - 1) ∧ t.lodge.qrepl = s.lodge.qrepl + 1 ∧
      t.getQuad n = { q with
        d := { q.d with copies := [], tlb := [], atoms := [], recs := [] }, aging := false, agedAt := 0, ckpts := [] })

/-- R322 to R329: a request is refused with the hint of the first reason that holds, waits for the fills of its lines, or is
performed; a fill serves the waiting requests in the order in which they were accepted, senior ones first; a refused request
is resent to the slices that the table gives, in its order; the replies of a slice and lane reach their strands in order. R339
to R342, R436: a passing request absorbs a waiting one with which it may combine and which is the first of its line there, at
the station of another quad or at the link port to another module, and the reply is split so that the absorbed request
receives the value that its operand met. -/
def Obligations.RequestEvents : Prop :=
  ((∀ (s : State) (n : Nat), s.req? n = none → ∀ i ∈ [Instr.sliceRequest n, .requestRetry n, .replyArrival n, .replySplit n],
     exec i s = .next s) ∧
   (∀ (s : State) (r : Req) (l slice : Nat),
     let why := s.refusalAt r l slice
     let moving : Prop := ∃ b, s.buckets.find? (fun k => k.idx == lineBucket l) = some b ∧ b.moving ≠ none
     let here : Prop := peerLine l = false
     let home : Prop := here ∧ s.sliceOf (lineBucket l) = slice
     (¬ here → why = none) ∧
     (here → ¬ home → why = some 0) ∧
     (home → moving → ∃ h < 1024, why = some h) ∧
     (home → ¬ moving → 4 ≤ r.refusals → why = if 64 ≤ s.entries slice true then some 256 else none) ∧
     (home → ¬ moving → r.refusals < 4 → l ∈ s.flushes ∨ l ∈ s.fills → ∃ h < 1024, why = some h) ∧
     (home → ¬ moving → r.refusals < 4 → l ∉ s.flushes → l ∉ s.fills → 48 ≤ s.entries slice false → why = some 64) ∧
     (home → ¬ moving → r.refusals < 4 → l ∉ s.flushes → l ∉ s.fills → s.entries slice false < 48 →
       ((∃ k ∈ s.before r.eff.id, k.eff.quad = r.eff.quad ∧ l ∈ k.lines ∧ ∃ g, k.st = .refused g) ↔ why ≠ none)) ∧
     (s.refusalOf r = none ↔ ∀ p ∈ r.slices, s.refusalAt r p.1 p.2 = none) ∧
     ∀ h, s.refusalOf r = some h → ∃ p ∈ r.slices, s.refusalAt r p.1 p.2 = some h) ∧
   (∀ (s : State) (n : Nat) (r : Req), s.req? n = some r →
     (r.st ≠ .travel ∨ (∃ k ∈ s.before n, k.st = .travel ∧ r.inLane k = true) → exec (.sliceRequest n) s = .next s) ∧
     (r.st = .travel → (∀ k ∈ s.before n, k.st = .travel → r.inLane k = false) →
       (∃ bs rs sys, r.eff.kind = .turn bs rs sys) ∨ (∃ rs, r.eff.kind = .atomic rs) ∨ (∃ l va, r.eff.kind = .lock l va) ∨
         (∃ l, r.eff.kind = .unlock l) →
       let waits : Prop := (∃ l ∈ r.lines, s.lineReady r.eff l = false) ∨
         ∃ k ∈ s.reqs, k.st = .waiting ∧ ∃ l ∈ r.lines, l ∈ k.lines
       (∀ h, s.refusalOf r = some h → ∃ t, exec (.sliceRequest n) s = .next t ∧ t.mem = s.mem ∧ t.cur = s.cur ∧ t.fills = s.fills ∧
         t.req? n = some { r with st := .refused h, refusals := r.refusals + 1, mayComb := r.mayComb && r.combined.isEmpty }) ∧
       (s.refusalOf r = none → ¬ waits → exec (.sliceRequest n) s = .next (s.serveReq r)) ∧
       (s.refusalOf r = none → waits → ∃ t, exec (.sliceRequest n) s = .next t ∧ t.mem = s.mem ∧ t.cur = s.cur ∧
         t.req? n = some { r with st := .waiting, entry := true, turnNo := s.effSeq } ∧
         ∀ l, l ∈ t.fills ↔ l ∈ s.fills ∨ (l ∈ r.lines ∧ s.lineReady r.eff l = false ∧ l ∉ s.flushes))) ∧
     (∀ h, r.st = .refused h →
       let earlier : Prop := ∃ k ∈ s.before n, k.eff.quad = r.eff.quad ∧ (∃ l ∈ r.lines, l ∈ k.lines) ∧ ∃ g, k.st = .refused g
       (¬ earlier → exec (.requestRetry n) s = .next (s.modReq n (fun k => { k with
         st := .travel, slices := k.eff.lines.map (fun l =>
           (l, if peerLine l = true then 512 + l / 2 ^ 37 % 64 else s.sliceOf (lineBucket l))) }))) ∧
       (earlier → exec (.requestRetry n) s = .next s)) ∧
     ((∀ h, r.st ≠ .refused h) → exec (.requestRetry n) s = .next s) ∧
     ((∀ ws, r.st ≠ .replied ws) → exec (.replyArrival n) s = .next s) ∧
     (∀ ws, r.st = .replied ws →
       let behind : Prop := ∃ k ∈ s.reqs, (∃ v, k.st = .replied v) ∧ k.turnNo < r.turnNo ∧ k.inLane r = true
       (r.combined ≠ [] ∨ behind → exec (.replyArrival n) s = .next s) ∧
       (r.combined = [] → ¬ behind → exec (.replyArrival n) s =
         .next (({ s with reqs := s.reqs.filter (fun k => k.eff.id != n) }).answer r.eff.uid n ws)))) ∧
   (∀ (s : State) (uid n : Nat) (ws : List Word), (∀ a ∈ s.ahead, a.eff ≠ n) → s.answer uid n ws = s.reply uid n ws) ∧
   (∀ (s : State) (l : Nat),
     let u : State := { s with fills := s.fills.filter (fun k => k != l) }
     (l ∉ s.fills → exec (.sliceFillArrival l) s = .next s) ∧
     (l ∈ s.fills → (∀ r ∈ s.reqs, r.st ≠ .waiting) → exec (.sliceFillArrival l) s = .next u) ∧
     ∀ a b, l ∈ s.fills → l ∉ s.flushes → s.reqs = [a, b] → a.st = .waiting → b.st = .waiting → a.lines = [l] → b.lines = [l] →
       let senior (r : Req) : Bool := decide (4 ≤ r.refusals)
       exec (.sliceFillArrival l) s = .next (if (senior b && !senior a) || (senior a == senior b && decide (b.turnNo < a.turnNo)) then
         (u.serveReq b).serveReq a else (u.serveReq a).serveReq b)) ∧
   ∀ (s : State) (r : Req) (line va : Nat), s.req? r.eff.id = some r → r.eff.kind = .lock line va →
     (s.serveReq r).req? r.eff.id = some { r with
       st := .replied [w64 ((s.heatUp r.eff.uid (512 * line)).lockLine (s.partOfUid r.eff.uid) line va).2], turnNo := s.effSeq }) ∧
  ((∀ (s : State) (p w : Nat) (x y : Req) (a b : AtReq), p ≠ w → s.req? p = some x → s.req? w = some y → x.eff.single = some a →
     y.eff.single = some b →
     let taken := ((s.reqs.flatMap (·.combined)).filter (fun k => k.port == false && k.eff.quad == y.eff.quad)).length
     (x.eff.quad ≠ y.eff.quad → taken < 64 → s.station x y a = some false) ∧
     (x.eff.quad = y.eff.quad ∨ 64 ≤ taken → keyHome a.key ≠ 2 ∨ a.scope ≠ 5 ∨ 128 ≤ s.portEntries (s.outPort a) →
       s.station x y a = none) ∧
     (64 ≤ taken → x.eff.quad ≠ y.eff.quad → keyHome a.key = 2 → a.scope = 5 → s.portEntries (s.outPort a) < 128 →
       s.station x y a = some true) ∧
     (x.st ≠ .travel ∨ y.st ≠ .travel ∨ 4 ≤ x.combined.length ∨ mayCombine a b = false ∨ s.lineBehind x y = true ∨
       s.station x y a = none → exec (.stationCombine p w) s = .next s) ∧
     (∀ port, x.st = .travel → y.st = .travel → x.mayComb = true → y.mayComb = true → y.combined = [] →
       s.station x y a = some port → x.combined.length < 4 → mayCombine a b = true → s.lineBehind x y = false →
       ∃ t, exec (.stationCombine p w) s = .next t ∧ t.mem = s.mem ∧ t.cur = s.cur ∧ t.req? w = none ∧
         t.req? p = some { x with
           eff := { x.eff with kind := .atomic [{ a with
             v := w64 (comb a.op a.width (a.v.toNat % 2 ^ a.width) (b.v.toNat % 2 ^ a.width)) }] }
           combined := x.combined ++ [⟨y.eff, a.v, port⟩] })) ∧
   (∀ (s : State) (n : Nat) (r : Req) (q : AtReq) (k : Station) (cs : List Station) (c old m e : Word), s.req? n = some r →
     r.st = .replied [c, old, m, e] → r.combined = cs ++ [k] → r.eff.single = some q → k.eff.id ≠ n →
     (∀ j ∈ s.reqs, j.eff.id ≠ k.eff.id) →
     ∃ t, exec (.replySplit n) s = .next t ∧ t.mem = s.mem ∧ t.cur = s.cur ∧ t.req? n = some { r with combined := cs } ∧
       ∃ j, t.req? k.eff.id = some j ∧ j.eff = k.eff ∧ j.combined = [] ∧ j.st = .replied (if c = 0 then
         [0, w64 (comb q.op q.width (old.toNat % 2 ^ q.width) (k.a.toNat % 2 ^ q.width)), m, e] else [c, old, m, e])) ∧
   (∀ (s : State) (n : Nat) (r : Req), s.req? n = some r → r.combined = [] → exec (.replySplit n) s = .next s) ∧
   ∀ a b : AtReq, mayCombine a b = true → a.key = b.key ∧ a.width = b.width ∧ a.op = b.op ∧ a.scope = b.scope ∧ a.dom = b.dom ∧
     a.trap = b.trap ∧ combinable a.op a.ac = true ∧ combinable b.op b.ac = true)

/-- R323, R428, R478, R480: a resend is counted and loses nothing; a segment and a lane are replaced once the lines are
drained, a lane only while its group's spare is free; islands are stretched and released, and a repaired row's home lines go.
-/
def Obligations.RepairEvents : Prop :=
  (∀ (s : State) (k : Nat),
    (∃ t, exec (.flitCrcFail k) s = .next t ∧ t = { s with resends := t.resends } ∧
      ((∀ r ∈ s.resends, r.1 ≠ k) → t.resends = (k, 1) :: s.resends) ∧
      ∀ n, (k, n) ∈ s.resends → (k, n + 1) ∈ t.resends) ∧
    (k ∈ s.segments ∨ (∃ r ∈ s.reqs, r.st = .travel) → exec (.segmentRetire k) s = .next s) ∧
    (k ∉ s.segments → (∀ r ∈ s.reqs, r.st ≠ .travel) → exec (.segmentRetire k) s = .next { s with
      segments := k :: s.segments, resends := s.resends.filter (fun r => r.1 != k),
      lodge := { s.lodge with lrepl := s.lodge.lrepl + 1 } }) ∧
    (∃ t, exec (.droopTrip k) s = .next t ∧ t = { s with stretched := t.stretched } ∧
      ∀ j, j ∈ t.stretched ↔ j ∈ s.stretched ∨ (j = k ∧ k < 848)) ∧
    (∃ t, exec (.droopClear k) s = .next t ∧ t = { s with stretched := t.stretched } ∧
      ∀ j, j ∈ t.stretched ↔ j ∈ s.stretched ∧ j ≠ k) ∧
    ∀ m,
      let group (l : Nat × Nat) : Option (Nat × Nat) :=
        if l.1 < 18 ∧ l.2 < 8 then some (l.1, 0) else if 18 ≤ l.1 ∧ l.1 < 22 ∧ l.2 < 128 then some (l.1, l.2 / 32) else none
      let can : Prop := group (k, m) ≠ none ∧ (∀ r ∈ s.reqs, r.st ≠ .travel) ∧ ∀ l ∈ s.lanes, group l ≠ group (k, m)
      (¬ can → exec (.laneReplace k m) s = .next s) ∧
      (can → exec (.laneReplace k m) s = .next { s with
        lanes := (k, m) :: s.lanes, lodge := { s.lodge with lrepl := s.lodge.lrepl + 1 } })) ∧
  ∀ (s : State) (base len : Nat),
    let hit (l : Nat) : Prop := l < 2 ^ 43 ∧ base < 512 * l + 512 ∧ 512 * l < base + len
    let busy : Prop := ∃ r ∈ s.reqs, (∃ l ∈ r.lines, hit l) ∧ (r.st = .waiting ∨ s.holdsEntry r = true)
    (busy → exec (.hbmRowRepair base len) s = .next s) ∧
    (¬ busy → ∃ t, exec (.hbmRowRepair base len) s = .next t ∧
      t.mem = s.mem ∧ t.cur = s.cur ∧ t.rowFixes = (base, len) :: s.rowFixes ∧
      (∀ k ∈ t.lines, k ∈ s.lines ∧ ¬ hit k.line) ∧ ∀ k ∈ s.lines, ¬ hit k.line → k ∈ t.lines)

/-- R325, R330, R331, R480: a bucket moves only under R330's conditions, and then its home changes with no byte of memory and
its locked lines are fetched again; a move toward a slice that has been retired ends where it began; a retired slice gives its
buckets to the spare; heat halves every 64 µs. -/
def Obligations.ShunterEvents : Prop :=
  (∀ (s : State),
    (s.timer < s.heatTick + 64000 → exec .heatHalving s = .next s) ∧
    (s.heatTick + 64000 ≤ s.timer → (s.heat.map (fun h => (h.bucket, h.die))).Nodup → ∃ t, exec .heatHalving s = .next t ∧
      t = { s with heat := t.heat, heatTick := t.heatTick } ∧ s.heatTick < t.heatTick ∧ t.heatTick ≤ s.timer ∧
      ∀ b d, t.heatOf b d = s.heatOf b d / 2)) ∧
  (∀ (s : State) (b slice : Nat), b < 4096 → slice < 512 →
    let x := s.bucket b
    let ok : Prop := x.moving = none ∧ slice ≠ x.slice ∧ slice ∉ s.badSlices ∧
      4 * s.heatOf b (x.slice / 128) < s.heatOf b (slice / 128) ∧ (∀ n, x.last = some n → n + 1000000 ≤ s.timer) ∧
      ∀ n, s.moveTick = some n → n + 2000 ≤ s.timer
    (¬ ok → exec (.bucketMoveStart b slice) s = .next s) ∧
    (ok → ∃ t, exec (.bucketMoveStart b slice) s = .next t ∧ t.bucket b = { x with moving := some slice } ∧
      t.moveTick = some s.timer ∧ t.sliceOf b = s.sliceOf b ∧ (∀ j, j ≠ b → t.bucket j = s.bucket j) ∧ t.mem = s.mem ∧ t.cur = s.cur) ∧
    let busy : Prop := ∃ r ∈ s.reqs, (∃ l ∈ r.lines, peerLine l = false ∧ lineBucket l = b) ∧ (r.st = .waiting ∨ s.holdsEntry r = true)
    (x.moving = none ∨ busy → exec (.bucketMoveFinish b) s = .next s) ∧
    (x.moving = some slice → ¬ busy → slice ∈ s.badSlices → ∃ t, exec (.bucketMoveFinish b) s = .next t ∧
      t.bucket b = { x with moving := none } ∧ (∀ j, j ≠ b → t.bucket j = s.bucket j) ∧ t.mem = s.mem ∧ t.lines = s.lines) ∧
    (x.moving = some slice → ¬ busy → slice ∉ s.badSlices →
      ∃ t, exec (.bucketMoveFinish b) s = .next t ∧ t.sliceOf b = slice ∧ (∀ j, j ≠ b → t.sliceOf j = s.sliceOf j) ∧
        t.bucket b = { x with slice := slice, moving := none, moves := (x.moves + 1) % 256, last := some s.timer } ∧
        t.cur = s.cur ∧ ((∀ k ∈ s.lines, k.line < 2 ^ 43) → t.mem = s.mem) ∧
        ((∀ k ∈ s.lines, k.locked = false ∧ k.line < 2 ^ 43) → t.hrecs = s.hrecs) ∧
        (∀ k ∈ t.lines, lineBucket k.line = b → k.locked = true ∧ k.sectors = 0) ∧
        ∀ k ∈ s.lines, lineBucket k.line = b → k.locked = true → { k with sectors := 0 } ∈ t.lines)) ∧
  ∀ (s : State) (slice spare : Nat),
    let busy : Prop := ∃ r ∈ s.reqs, (∃ l ∈ r.lines, peerLine l = false ∧ s.sliceOf (lineBucket l) = slice) ∧ (r.st = .waiting ∨ s.holdsEntry r = true)
    (slice = spare ∨ 512 ≤ slice ∨ 512 ≤ spare ∨ spare ∈ s.badSlices ∨ busy → exec (.sliceRetire slice spare) s = .next s) ∧
    (slice ≠ spare → slice < 512 → spare < 512 → spare ∉ s.badSlices → ¬ busy →
      ∃ t, exec (.sliceRetire slice spare) s = .next t ∧ t.cur = s.cur ∧ slice ∈ t.badSlices ∧
        ((∀ k ∈ s.lines, k.line < 2 ^ 43) → t.mem = s.mem) ∧
        t.lodge.sret = s.lodge.sret + 1 ∧ ((∀ k ∈ s.lines, k.locked = false ∧ k.line < 2 ^ 43) → t.hrecs = s.hrecs) ∧
        (∀ b, (s.bucket b).moving = some slice → s.sliceOf b ≠ slice → b < 4096 → (t.bucket b).moving = some spare) ∧
        ∀ b < 4096, t.sliceOf b = if s.sliceOf b = slice then spare else s.sliceOf b)

/-- R435, R466 to R471: a response holds the kind, the length, the tag and the status, raises RSPSEQ by one and vector 0;
before the module is brought up every request but ATTEST and STATUS is answered by status 4 and the step; ATTEST reports the
slots under a signature that is free (log 12), EXTEND measures into slots 11 to 15, a request that arrives while another waits
is served after it, and a reset ends with every step done. -/
def Obligations.LodgeResults : Prop :=
  (∀ (s : State) (kind st detail : Nat) (tag : Word) (r : List Byte), let t := s.respond kind tag st detail r
    t.lodge.resp = leBytes 4 kind ++ leBytes 4 (8 + r.length) ++ leBytes 8 tag.toNat ++ leBytes 4 st ++ leBytes 4 detail ++ r ∧
    t.lodge.rspSeq = s.lodge.rspSeq + 1 ∧ t.lodge.reqSeq = t.lodge.rspSeq ∧ t.lodge.slots = s.lodge.slots ∧ t.mem = s.mem ∧
    t.cur = s.cur ∧ t.quad = s.quad ∧ t.parts = s.parts ∧
    (0 ∈ s.msixMask → t.hostMsgs = s.hostMsgs ∧ 0 ∈ t.msixPend) ∧ (0 ∉ s.msixMask → t.hostMsgs = s.hostMsgs ++ [0])) ∧
  (∀ (s : State) (tag ref : Word) (p q r : Nat) (b : Bool) (qs : List Nat) (body : PartBody) (ep : Endpoint) (gr : InGrant)
    (h : BitVec 32) (g : BitVec 256), s.lodge.step < 8 → s.lodge.waiting = [] →
    ∀ i ∈ [(Instr.partitionSet tag body, 2), (.partitionLend tag p q qs, 2), (.partitionRecall tag p q qs, 2),
      (.register tag p q b r r, 3), (.unregister tag h, 4), (.extend tag p g, 6), (.start tag p ref, 7), (.endpointSet tag p q ep, 8),
      (.endpointClear tag p q, 8), (.grant tag p q gr, 8), (.revoke tag p q, 8), (.localAddress tag p q r, 8), (.keyGenerate tag p, 9),
      (.keyBind tag p q r r, 9), (.keyUnbind tag p, 9), (.malformedRequest tag 2 p, 2)],
      exec i.1 s = .next (s.respond i.2 tag 4 s.lodge.step [])) ∧
  (∀ (s : State) (tag : Word) (nonce : BitVec 256), s.lodge.waiting = [] → ∃ sig : List Byte, sig.length = 2420 ∧ ∃ t, exec (.attest tag nonce) s = .next t ∧
    t = { s.respond 1 tag 0 0 (leBytes 4 0x3147444C ++ leBytes 2 1 ++ leBytes 2 0 ++ leBytes 32 nonce.toNat ++
      s.lodge.slots.flatMap (fun v => leBytes 32 v.toNat) ++ leBytes 8 s.timer ++ leBytes 8 s.lodge.serial.toNat ++ leBytes 8 0 ++
      sig) with freeCtr := t.freeCtr }) ∧
  (∀ (s : State) (tag : Word), s.ports.length = 8 → s.lodge.waiting = [] → exec (.status tag) s = .next (s.respond 5 tag 0 0
    (leBytes 1 s.lodge.step ++ leBytes 1 s.lodge.stat ++ leBytes 1 s.devid ++ [0] ++
      (List.range 4).flatMap (fun d => leBytes 1 (s.lodge.spares.getD d 0)) ++ leBytes 2 s.lodge.qrepl ++ leBytes 2 s.lodge.sret ++
      leBytes 2 s.lodge.lrepl ++ [0, 0] ++ s.ports.flatMap (fun p => leBytes 8 p.drops)))) ∧
  (∀ (s : State) (tag : Word) (k n kind : Nat) (d : BitVec 256), 8 ≤ s.lodge.step → s.lodge.waiting = [] →
    (k < 11 ∨ 15 < k → exec (.extend tag k d) s = .next (s.respond 6 tag 1 0 [])) ∧
    (11 ≤ k → k ≤ 15 → ∀ v, s.lodge.slots[k]? = some v → ∃ t, exec (.extend tag k d) s = .next t ∧
      leBytes 32 (t.lodge.slots.getD k 0).toNat = sha3 (leBytes 32 v.toNat ++ leBytes 32 d.toNat) ∧
      (∀ j, j ≠ k → t.lodge.slots[j]? = s.lodge.slots[j]?) ∧ t.mem = s.mem ∧ t.cur = s.cur) ∧
    exec (.malformedRequest tag kind n) s = .next (s.respond kind tag 1 (if 1 ≤ kind ∧ kind ≤ 9 then n % 2 ^ 32 else 0) [])) ∧
  (∀ (s : State) (tag ref : Word) (p q r : Nat) (b : Bool) (qs : List Nat) (body : PartBody) (ep : Endpoint) (gr : InGrant)
    (h : BitVec 32) (g n : BitVec 256), s.lodge.waiting ≠ [] →
    ∀ i ∈ [(Instr.attest tag n, Request.attest tag n), (.status tag, .status tag), (.partitionSet tag body, .partitionSet tag body),
      (.partitionLend tag p q qs, .partitionLend tag p q qs), (.partitionRecall tag p q qs, .partitionRecall tag p q qs),
      (.register tag p q b r r, .register tag p q b r r), (.unregister tag h, .unregister tag h), (.extend tag p g, .extend tag p g),
      (.start tag p ref, .start tag p ref), (.endpointSet tag p q ep, .endpointSet tag p q ep),
      (.endpointClear tag p q, .endpointClear tag p q), (.grant tag p q gr, .grant tag p q gr), (.revoke tag p q, .revoke tag p q),
      (.localAddress tag p q r, .localAddress tag p q r), (.keyGenerate tag p, .keyGenerate tag p),
      (.keyBind tag p q r r, .keyBind tag p q r r), (.keyUnbind tag p, .keyUnbind tag p),
      (.malformedRequest tag q p, .malformed tag q p)],
      exec i.1 s = .next { s with lodge := { s.lodge with waiting := s.lodge.waiting ++ [i.2] } }) ∧
  ∀ s : State, Memory.wf s.mem = true → s.lodge.faulty = none → s.lodge.straps % 64 ∉ s.links →
    ∃ t, exec .moduleReset s = .next t ∧ t.lodge.step = 8 ∧ t.lodge.stat = 0 ∧ t.devid = s.lodge.straps % 64 ∧ t.strands = [] ∧
      t.cur = Strand.absent ∧ t.quads = [] ∧ t.parts = [] ∧ t.crews = [] ∧ t.launches = [] ∧ t.tokens = [] ∧ t.reqs = [] ∧
      t.timer = 0 ∧ t.lodge.rspSeq = 0 ∧ t.lodge.spares = s.lodge.spares ∧ t.badSlices = s.badSlices ∧ t.flash = s.flash ∧
      (∀ k, memGet t.mem k = if keyHome k = 1 ∨ keyHome k = 2 then memGet s.mem k else 0) ∧
      ∀ k, 11 ≤ k → k ≤ 15 → t.lodge.slots.getD k 1 = 0

/-- R472, R474 to R476: PARTITION sets a partition up as its body says, or names the first field that fails; it is BUSY while
the partition has launches and is not saved; quads of a saved partition are lent, and return once the borrower's crews have
left them; START accepts a launch with the scheduler's handle. R447, R457 to R461, R473, R477: images are registered in the
lowest free slot (log 86) under a GEN that the slot has not had, or refused with the first field that fails, and taken away
once no transfer reads them; endpoints, grants and port addresses are set and cleared; keys are generated, bound to a range of
addresses and unbound. -/
def Obligations.LodgeRequests : Prop :=
  ((∀ (s : State) (tag : Word) (b : PartBody), 8 ≤ s.lodge.step → s.lodge.waiting = [] →
     let others := s.parts.filter (fun x => x.setUp && x.id != b.part)
     let busy : Prop := ∃ p, s.part? b.part = some p ∧ p.saved = false ∧ ∃ l ∈ s.launches, l.part = b.part
     (busy → exec (.partitionSet tag b) s = .next (s.respond 2 tag 2 0 [])) ∧
     (∀ o, ¬ busy → firstBad (partRules b others) = some o → exec (.partitionSet tag b) s = .next (s.respond 2 tag 3 o [])) ∧
     (¬ busy → firstBad (partRules b others) = none → ∃ t p, exec (.partitionSet tag b) s = .next t ∧ t.part? b.part = some p ∧
       t.lodge.rspSeq = s.lodge.rspSeq + 1 ∧ p.quads = b.quads ∧ p.plo = b.plo ∧ p.phi = b.phi ∧ p.pthresh = 8 ∧ p.qways = b.qways ∧
       p.tcount = b.tcount ∧ p.ptroot = (b.ptbase >>> 12).truncate 40 ∧ p.asid = b.asid ∧ p.vecbase = b.vecbase ∧
       p.veccnt = b.veccnt ∧ p.fqhead = 0 ∧ p.fqtail = 0 ∧ p.keymask = b.keymask ||| 1 ∧ p.peers = b.peers ∧
       (∀ j, j ≠ b.part → t.part? j = s.part? j) ∧ ∀ q ∈ b.quads, (t.getQuad q).part = some b.part ∧ (t.getQuad q).d.bars = [] ∧
         (t.getQuad q).d.sem = 0 ∧ (t.getQuad q).d.cbs = [])) ∧
   (∀ (b : PartBody) (os : List Part) (o : Part), firstBad (partRules b os) = none → o ∈ os →
     b.part ≤ 15 ∧ b.plo ≤ b.phi ∧ b.phi ≤ 63 ∧ b.qways + (os.map (·.qways)).sum ≤ 4 ∧ b.tcount + (os.map (·.tcount)).sum ≤ 4096 ∧
     1 ≤ b.vecbase ∧ b.vecbase + b.veccnt ≤ 2048 ∧ (∀ q ∈ b.quads, q < 144 ∧ q ∉ o.quads) ∧ b.quads.Nodup ∧ b.peers.length ≤ 63 ∧
     ∀ v, o.vecbase ≤ v → v < o.vecbase + o.veccnt → ¬ (b.vecbase ≤ v ∧ v < b.vecbase + b.veccnt)) ∧
   (∀ (s : State) (tag : Word) (i j : Nat) (qs : List Nat), 8 ≤ s.lodge.step → s.lodge.waiting = [] →
     let lend := exec (.partitionLend tag i j qs) s
     let back := exec (.partitionRecall tag i j qs) s
     let mine : Prop := ∀ q ∈ qs, (s.getQuad q).part = some i ∧ (s.getQuad q).lentTo = some j
     (15 < i → lend = .next (s.respond 2 tag 3 0 []) ∧ back = .next (s.respond 2 tag 3 0 [])) ∧
     (i ≤ 15 → 15 < j ∨ i = j → lend = .next (s.respond 2 tag 3 2 []) ∧ back = .next (s.respond 2 tag 3 2 [])) ∧
     (i ≤ 15 → j ≤ 15 → i ≠ j → s.part? i = none ∨ s.part? j = none ∨ (∃ p, s.part? i = some p ∧ (p.saved = false ∨ ∃ q ∈ qs, q ∉ p.quads)) →
       lend = .next (s.respond 2 tag 2 0 [])) ∧
     (∀ p k, i ≤ 15 → j ≤ 15 → i ≠ j → s.part? i = some p → s.part? j = some k → p.saved = true → (∀ q ∈ qs, q ∈ p.quads) → ∃ t, lend = .next t ∧
       t.part? i = some { p with quads := p.quads.filter (fun q => !qs.contains q) } ∧
       t.part? j = some { k with quads := k.quads ++ qs } ∧
       ((∀ c ∈ s.crews, c.depot = true → c.quad ∈ qs → c.spilled = true) → t.mem = s.mem) ∧
       ∀ q ∈ qs, (t.getQuad q).lentTo = some j ∧ (t.getQuad q).part = (s.getQuad q).part ∧ (t.getQuad q).d.bars = []) ∧
     (i ≤ 15 → j ≤ 15 → i ≠ j → ¬ mine → back = .next (s.respond 2 tag 2 0 [])) ∧
     (i ≤ 15 → j ≤ 15 → i ≠ j → mine → (∃ c ∈ s.crews, c.quad ∈ qs ∧ c.depot = false) →
       (∀ c ∈ s.crews, c.quad ∈ qs → c.depot = false → c.stopping = true ∧
         ∃ x ∈ s.liveOf c.id, x.status = .running ∧ s.inReduction x = true) →
       ∃ t, back = .next t ∧ t.lodge.waiting = [.partitionRecall tag i j qs] ∧ t.lodge.rspSeq = s.lodge.rspSeq ∧
         t.lodge.reqSeq = s.lodge.rspSeq + 1) ∧
     (i ≤ 15 → j ≤ 15 → i ≠ j → mine →
       (∀ c ∈ s.crews, c.quad ∈ qs → c.depot = true ∧ c.stopping = false) → ∀ p k, s.part? i = some p → s.part? j = some k →
       ∃ t, back = .next t ∧ t.part? i = some { p with quads := p.quads ++ qs } ∧
         t.part? j = some { k with quads := k.quads.filter (fun q => !qs.contains q) } ∧
         ((∀ c ∈ s.crews, c.quad ∈ qs → c.spilled = true) → t.mem = s.mem) ∧
         ∀ q ∈ qs, (t.getQuad q).lentTo = none ∧ (t.getQuad q).part = some i)) ∧
   ∀ (s : State) (tag lpb : Word) (part : Nat), 8 ≤ s.lodge.step → s.lodge.waiting = [] →
     let out (t : State) (st detail : Nat) (r : List Byte) : Prop := exec (.start tag part lpb) s = .next (t.respond 7 tag st detail r)
     (s.part? part = none → out s 2 0 []) ∧
     (∀ p, s.part? part = some p →
       (s.lodgeRead part lpb 128 = none → out s 3 0 []) ∧
       ∀ b, s.lodgeRead part lpb 128 = some b →
         (lpb.toNat % 128 ≠ 0 → out s 3 0 []) ∧
         (lpb.toNat % 128 = 0 →
           (s.doneOk part (w64 (recField b 0x10 8)) = false → out s 3 0x10 []) ∧
           (s.doneOk part (w64 (recField b 0x10 8)) = true →
             let a := s.acceptLaunch part b true
             (a.2.getLsbD 63 = true → out a.1 3 (a.2.toNat % 65536) []) ∧
             (a.2.getLsbD 63 = false → out a.1 0 0 (leBytes 8 a.2.toNat)))))) ∧
  ((∀ (s : State) (tag : Word) (part ssd nsid slba : Nat) (raw : Bool), 8 ≤ s.lodge.step → s.lodge.waiting = [] →
     let out (t : State) (st detail : Nat) (r : List Byte) : Prop :=
       exec (.register tag part ssd raw nsid slba) s = .next (t.respond 3 tag st detail r)
     let m : Image := ⟨0, 0, part, ssd, nsid, slba, raw, 0, 0, 0, []⟩
     let last (i : Nat) : Nat := match s.imgGens.find? (fun g => g.1 == i) with | some g => g.2 | none => 0
     let used (i : Nat) : Prop := (∃ k ∈ s.images, k.slot = i) ∨ 2 ^ 20 ≤ last i + 1
     ((∀ i < 4096, used i) ∨ s.lodge.ssds ≤ ssd → out s 3 0 []) ∧
     ∀ i < 4096, ¬ used i → (∀ j < i, used j) → ssd < s.lodge.ssds →
       (∀ o, s.badImage m = some o → out s 3 (o % 2 ^ 32) []) ∧
       (s.badImage m = none →
         let h := s.imgBytes m 0 4096
         let gen := last i + 1
         let x : Image := { m with
           slot := i, gen := gen, nblk := fieldN h 0x20 8, toff := fieldN h 0x38 8, doff := fieldN h 0x40 8, iid := (h.drop 0x10).take 16 }
         1 ≤ gen ∧ gen < 2 ^ 20 ∧ out { s with images := x :: s.images, imgGens := (i, gen) :: s.imgGens.filter (fun g => g.1 != i) } 0 0
           (leBytes 4 (gen * 4096 + i) ++ [0, 0, 0, 0]))) ∧
   (∀ (s : State) (m : Image), s.badImage m = none → let h := s.imgBytes m 0 4096
     fieldN h 0 8 = 0x0A1A0A0D4B5A4C4D ∧ 1 ≤ fieldN h 0x20 8 ∧ fieldN h 0x20 8 ≤ 2 ^ 32 ∧ fieldN h 0x48 8 = fieldN h 0x20 8 * 65536 ∧
     (h.drop 0x50).take 32 = sha3 (h.take 0x50 ++ s.imgBytes m 0x1000 (min (fieldN h 0x30 4) 65535 * 256))) ∧
   (∀ (s : State) (tag : Word) (h : BitVec 32), 8 ≤ s.lodge.step → s.lodge.waiting = [] →
     (s.imageOf h.toNat = none → exec (.unregister tag h) s = .next (s.respond 4 tag 3 0 [])) ∧
     ∀ m, s.imageOf h.toNat = some m →
       ((∃ x ∈ s.all, ∃ c ∈ x.chans, ∃ t ∈ c.xfers, cpFlash t.words = true ∧ (regOf t.words 0).toNat % 2 ^ 32 = h.toNat) →
         exec (.unregister tag h) s =
           .next { s with lodge := { s.lodge with waiting := [.unregister tag h], reqSeq := s.lodge.rspSeq + 1 } }) ∧
       ((∀ x ∈ s.all, ∀ c ∈ x.chans, ∀ t ∈ c.xfers, cpFlash t.words = true → (regOf t.words 0).toNat % 2 ^ 32 ≠ h.toNat) →
         exec (.unregister tag h) s = .next (({ s with images := s.images.filter (fun k => k.slot != m.slot) }).respond 4 tag 0 0 []))) ∧
   (∀ (s : State) (tag : Word) (p n port mac addr : Nat) (ep : Endpoint) (gr : InGrant), 8 ≤ s.lodge.step → s.lodge.waiting = [] →
     let ok (f : Part → Part) : Host.Outcome State Fault Refusal := .next ((s.modPart p f).respond 8 tag 0 0 [])
     let no (st detail : Nat) : Host.Outcome State Fault Refusal := .next (s.respond 8 tag st detail [])
     (s.part? p = none → ∀ i ∈ [Instr.endpointSet tag p n ep, .endpointClear tag p n, .grant tag p n gr, .revoke tag p n], exec i s = no 2 0) ∧
     ((s.part? p).isSome = true →
       (255 < n → exec (.endpointSet tag p n ep) s = no 3 2 ∧ exec (.endpointClear tag p n) s = no 3 2) ∧
       (63 < n → exec (.grant tag p n gr) s = no 3 2 ∧ exec (.revoke tag p n) s = no 3 2) ∧
       (n ≤ 255 → exec (.endpointSet tag p n ep) s = ok (fun p => { p with eps := (n, ep) :: p.eps.filter (fun e => e.1 != n) })) ∧
       (n ≤ 255 → (∀ x ∈ s.all, x.ident.part = p → ∀ c ∈ x.chans, ∀ t ∈ c.xfers, cpKind t.words = 4 →
           (regOf t.words 1).toNat / 2 ^ 56 ≠ n) →
         exec (.endpointClear tag p n) s = ok (fun p => { p with eps := p.eps.filter (fun e => e.1 != n) })) ∧
       (n ≤ 255 → (∃ x ∈ s.all, x.ident.part = p ∧ ∃ c ∈ x.chans, ∃ t ∈ c.xfers, cpKind t.words = 4 ∧
           (regOf t.words 1).toNat / 2 ^ 56 = n) →
         exec (.endpointClear tag p n) s =
           .next { s with lodge := { s.lodge with waiting := [.endpointClear tag p n], reqSeq := s.lodge.rspSeq + 1 } }) ∧
       (n ≤ 63 → exec (.grant tag p n gr) s = ok (fun p => { p with grants := (n, gr) :: p.grants.filter (fun g => g.1 != n) }) ∧
         exec (.revoke tag p n) s = ok (fun p => { p with grants := p.grants.filter (fun g => g.1 != n) }))) ∧
     (7 < port → exec (.localAddress tag port mac addr) s = no 3 2) ∧
     ∀ x, port ≤ 7 → s.ports[port]? = some x → ∃ t, exec (.localAddress tag port mac addr) s = .next t ∧
       t.ports[port]? = some { x with mac := mac, addr6 := addr } ∧ (∀ j, j ≠ port → t.ports[j]? = s.ports[j]?) ∧ t.mem = s.mem) ∧
   ∀ (s : State) (tag : Word) (kid slot base len : Nat), 8 ≤ s.lodge.step → s.lodge.waiting = [] →
     let no (detail : Nat) : Host.Outcome State Fault Refusal := .next (s.respond 9 tag 3 detail [])
     let rest := s.keyMap.filter (fun k => k.slot != slot)
     (kid = 0 ∨ 63 < kid → exec (.keyGenerate tag kid) s = no 0 ∧ exec (.keyBind tag kid slot base len) s = no 0) ∧
     (15 < slot → exec (.keyUnbind tag slot) s = no 2 ∧ (1 ≤ kid → kid ≤ 63 → exec (.keyBind tag kid slot base len) s = no 2)) ∧
     (slot ≤ 15 → exec (.keyUnbind tag slot) s = .next (({ s with keyMap := rest }).respond 9 tag 0 0 []) ∧
       (1 ≤ kid → kid ≤ 63 → exec (.keyBind tag kid slot base len) s =
         .next (({ s with keyMap := ⟨slot, base, len, kid⟩ :: rest }).respond 9 tag 0 0 []))) ∧
     (1 ≤ kid → kid ≤ 63 → ∃ t, exec (.keyGenerate tag kid) s = .next t ∧ kid ∈ t.keyGen ∧ (∀ k ∈ s.keyGen, k ∈ t.keyGen) ∧ t.cur = s.cur ∧
       ((∀ p ∈ s.lineKeys, p.2 ≠ kid) → t.mem = s.mem)))
end

