-- ==== Sys2Proof/Laws/Encoding.lean ====
section
/-! SUPPORT. The fields of a packed word: what each field reads from each format, and that a word is packed from its fields. -/

namespace Sys2Proof

/-- A concatenation as a number. -/
theorem append_toNat {u w : Nat} (x : BitVec u) (y : BitVec w) : (x ++ y).toNat = x.toNat * 2 ^ w + y.toNat := by
  rw [BitVec.toNat_append, ← Nat.shiftLeft_add_eq_or_of_lt y.isLt, Nat.shiftLeft_eq]

/-- A field as a number. -/
theorem field_toNat {n : Nat} (w : BitVec n) (s k : Nat) : (w.extractLsb' s k).toNat = w.toNat / 2 ^ s % 2 ^ k := by
  rw [BitVec.extractLsb'_toNat, Nat.shiftRight_eq_div_pow]

@[simp] theorem fMaj_packA (m : BitVec 7) (d a b : BitVec 5) (f : BitVec 10) : fMaj (packA m d a b f) = m := by
  apply BitVec.eq_of_toNat_eq
  simp only [fMaj, packA, field_toNat, append_toNat]
  omega
@[simp] theorem fD_packA (m : BitVec 7) (d a b : BitVec 5) (f : BitVec 10) : fD (packA m d a b f) = d := by
  apply BitVec.eq_of_toNat_eq
  simp only [fD, packA, field_toNat, append_toNat]
  omega
@[simp] theorem fA_packA (m : BitVec 7) (d a b : BitVec 5) (f : BitVec 10) : fA (packA m d a b f) = a := by
  apply BitVec.eq_of_toNat_eq
  simp only [fA, packA, field_toNat, append_toNat]
  omega
@[simp] theorem fB_packA (m : BitVec 7) (d a b : BitVec 5) (f : BitVec 10) : fB (packA m d a b f) = b := by
  apply BitVec.eq_of_toNat_eq
  simp only [fB, packA, field_toNat, append_toNat]
  omega
@[simp] theorem fLow_packA (m : BitVec 7) (d a b : BitVec 5) (f : BitVec 10) : fLow (packA m d a b f) = f := by
  apply BitVec.eq_of_toNat_eq
  simp only [fLow, packA, field_toNat, append_toNat]
  omega

/-- A word is packed from its fields. -/
theorem packA_fields (w : IWord) : packA (fMaj w) (fD w) (fA w) (fB w) (fLow w) = w := by
  apply BitVec.eq_of_toNat_eq
  simp only [fMaj, fD, fA, fB, fLow, packA, field_toNat, append_toNat]
  omega

@[simp] theorem fMaj_packK (m : BitVec 7) (d a : BitVec 5) (f : BitVec 3) (i : BitVec 12) : fMaj (packK m d a f i) = m := by
  apply BitVec.eq_of_toNat_eq
  simp only [fMaj, packK, field_toNat, append_toNat]
  omega
@[simp] theorem fD_packK (m : BitVec 7) (d a : BitVec 5) (f : BitVec 3) (i : BitVec 12) : fD (packK m d a f i) = d := by
  apply BitVec.eq_of_toNat_eq
  simp only [fD, packK, field_toNat, append_toNat]
  omega
@[simp] theorem fA_packK (m : BitVec 7) (d a : BitVec 5) (f : BitVec 3) (i : BitVec 12) : fA (packK m d a f i) = a := by
  apply BitVec.eq_of_toNat_eq
  simp only [fA, packK, field_toNat, append_toNat]
  omega
@[simp] theorem fFn3_packK (m : BitVec 7) (d a : BitVec 5) (f : BitVec 3) (i : BitVec 12) : fFn3 (packK m d a f i) = f := by
  apply BitVec.eq_of_toNat_eq
  simp only [fFn3, packK, field_toNat, append_toNat]
  omega
@[simp] theorem fImm12_packK (m : BitVec 7) (d a : BitVec 5) (f : BitVec 3) (i : BitVec 12) : fImm12 (packK m d a f i) = i := by
  apply BitVec.eq_of_toNat_eq
  simp only [fImm12, packK, field_toNat, append_toNat]
  omega

/-- A word is packed from its fields. -/
theorem packK_fields (w : IWord) : packK (fMaj w) (fD w) (fA w) (fFn3 w) (fImm12 w) = w := by
  apply BitVec.eq_of_toNat_eq
  simp only [fMaj, fD, fA, fFn3, fImm12, packK, field_toNat, append_toNat]
  omega

@[simp] theorem fMaj_packU (m : BitVec 7) (d : BitVec 5) (i : BitVec 20) : fMaj (packU m d i) = m := by
  apply BitVec.eq_of_toNat_eq
  simp only [fMaj, packU, field_toNat, append_toNat]
  omega
@[simp] theorem fD_packU (m : BitVec 7) (d : BitVec 5) (i : BitVec 20) : fD (packU m d i) = d := by
  apply BitVec.eq_of_toNat_eq
  simp only [fD, packU, field_toNat, append_toNat]
  omega
@[simp] theorem fImm20_packU (m : BitVec 7) (d : BitVec 5) (i : BitVec 20) : fImm20 (packU m d i) = i := by
  apply BitVec.eq_of_toNat_eq
  simp only [fImm20, packU, field_toNat, append_toNat]
  omega

/-- A word is packed from its fields. -/
theorem packU_fields (w : IWord) : packU (fMaj w) (fD w) (fImm20 w) = w := by
  apply BitVec.eq_of_toNat_eq
  simp only [fMaj, fD, fImm20, packU, field_toNat, append_toNat]
  omega

@[simp] theorem fMaj_packI (m : BitVec 7) (d a : BitVec 5) (i : BitVec 15) : fMaj (packI m d a i) = m := by
  apply BitVec.eq_of_toNat_eq
  simp only [fMaj, packI, field_toNat, append_toNat]
  omega
@[simp] theorem fD_packI (m : BitVec 7) (d a : BitVec 5) (i : BitVec 15) : fD (packI m d a i) = d := by
  apply BitVec.eq_of_toNat_eq
  simp only [fD, packI, field_toNat, append_toNat]
  omega
@[simp] theorem fA_packI (m : BitVec 7) (d a : BitVec 5) (i : BitVec 15) : fA (packI m d a i) = a := by
  apply BitVec.eq_of_toNat_eq
  simp only [fA, packI, field_toNat, append_toNat]
  omega
@[simp] theorem fImm15_packI (m : BitVec 7) (d a : BitVec 5) (i : BitVec 15) : fImm15 (packI m d a i) = i := by
  apply BitVec.eq_of_toNat_eq
  simp only [fImm15, packI, field_toNat, append_toNat]
  omega

/-- A word is packed from its fields. -/
theorem packI_fields (w : IWord) : packI (fMaj w) (fD w) (fA w) (fImm15 w) = w := by
  apply BitVec.eq_of_toNat_eq
  simp only [fMaj, fD, fA, fImm15, packI, field_toNat, append_toNat]
  omega

@[simp] theorem fMaj_packZ (m : BitVec 7) (i : BitVec 25) : fMaj (packZ m i) = m := by
  apply BitVec.eq_of_toNat_eq
  simp only [fMaj, packZ, field_toNat, append_toNat]
  omega
@[simp] theorem fImm25_packZ (m : BitVec 7) (i : BitVec 25) : fImm25 (packZ m i) = i := by
  apply BitVec.eq_of_toNat_eq
  simp only [fImm25, packZ, field_toNat, append_toNat]
  omega

/-- A word is packed from its fields. -/
theorem packZ_fields (w : IWord) : packZ (fMaj w) (fImm25 w) = w := by
  apply BitVec.eq_of_toNat_eq
  simp only [fMaj, fImm25, packZ, field_toNat, append_toNat]
  omega

end Sys2Proof
end

