-- ==== Sys2Proof/Laws/State.lean ====
section
/-! SUPPORT. What each update of a state leaves alone: one lemma per field per update, so that no proof unfolds a record update. -/

namespace Sys2Proof.Machine

/-! ### Fields of the module -/

@[simp] theorem State.modCur_quad (s : State) (f : Strand → Strand) : (s.modCur f).quad = s.quad := rfl
@[simp] theorem State.modCur_strands (s : State) (f : Strand → Strand) : (s.modCur f).strands = s.strands := rfl
@[simp] theorem State.modCur_quads (s : State) (f : Strand → Strand) : (s.modCur f).quads = s.quads := rfl
@[simp] theorem State.modCur_mem (s : State) (f : Strand → Strand) : (s.modCur f).mem = s.mem := rfl
@[simp] theorem State.modCur_memPoison (s : State) (f : Strand → Strand) : (s.modCur f).memPoison = s.memPoison := rfl
@[simp] theorem State.modCur_hrecs (s : State) (f : Strand → Strand) : (s.modCur f).hrecs = s.hrecs := rfl
@[simp] theorem State.modCur_hostB (s : State) (f : Strand → Strand) : (s.modCur f).hostB = s.hostB := rfl
@[simp] theorem State.modCur_lines (s : State) (f : Strand → Strand) : (s.modCur f).lines = s.lines := rfl
@[simp] theorem State.modCur_useCtr (s : State) (f : Strand → Strand) : (s.modCur f).useCtr = s.useCtr := rfl
@[simp] theorem State.modCur_buckets (s : State) (f : Strand → Strand) : (s.modCur f).buckets = s.buckets := rfl
@[simp] theorem State.modCur_moveTick (s : State) (f : Strand → Strand) : (s.modCur f).moveTick = s.moveTick := rfl
@[simp] theorem State.modCur_timer (s : State) (f : Strand → Strand) : (s.modCur f).timer = s.timer := rfl
@[simp] theorem State.modCur_effSeq (s : State) (f : Strand → Strand) : (s.modCur f).effSeq = s.effSeq := rfl
@[simp] theorem State.modCur_ahead (s : State) (f : Strand → Strand) : (s.modCur f).ahead = s.ahead := rfl
@[simp] theorem State.modCur_reqs (s : State) (f : Strand → Strand) : (s.modCur f).reqs = s.reqs := rfl
@[simp] theorem State.modCur_fills (s : State) (f : Strand → Strand) : (s.modCur f).fills = s.fills := rfl
@[simp] theorem State.modCur_flushes (s : State) (f : Strand → Strand) : (s.modCur f).flushes = s.flushes := rfl
@[simp] theorem State.modCur_heatTick (s : State) (f : Strand → Strand) : (s.modCur f).heatTick = s.heatTick := rfl
@[simp] theorem State.modCur_parts (s : State) (f : Strand → Strand) : (s.modCur f).parts = s.parts := rfl
@[simp] theorem State.modCur_crews (s : State) (f : Strand → Strand) : (s.modCur f).crews = s.crews := rfl
@[simp] theorem State.modCur_launches (s : State) (f : Strand → Strand) : (s.modCur f).launches = s.launches := rfl
@[simp] theorem State.modCur_crewSeq (s : State) (f : Strand → Strand) : (s.modCur f).crewSeq = s.crewSeq := rfl
@[simp] theorem State.modCur_uidSeq (s : State) (f : Strand → Strand) : (s.modCur f).uidSeq = s.uidSeq := rfl
@[simp] theorem State.modCur_tokens (s : State) (f : Strand → Strand) : (s.modCur f).tokens = s.tokens := rfl
@[simp] theorem State.modCur_tokReqs (s : State) (f : Strand → Strand) : (s.modCur f).tokReqs = s.tokReqs := rfl
@[simp] theorem State.modCur_msixMask (s : State) (f : Strand → Strand) : (s.modCur f).msixMask = s.msixMask := rfl
@[simp] theorem State.modCur_msixPend (s : State) (f : Strand → Strand) : (s.modCur f).msixPend = s.msixPend := rfl
@[simp] theorem State.modCur_hostMsgs (s : State) (f : Strand → Strand) : (s.modCur f).hostMsgs = s.hostMsgs := rfl
@[simp] theorem State.modCur_wideBars (s : State) (f : Strand → Strand) : (s.modCur f).wideBars = s.wideBars := rfl
@[simp] theorem State.modCur_devid (s : State) (f : Strand → Strand) : (s.modCur f).devid = s.devid := rfl
@[simp] theorem State.modCur_agenda (s : State) (f : Strand → Strand) : (s.modCur f).agenda = s.agenda := rfl
@[simp] theorem State.modCur_freeCtr (s : State) (f : Strand → Strand) : (s.modCur f).freeCtr = s.freeCtr := rfl
@[simp] theorem State.modCur_split (s : State) (f : Strand → Strand) : (s.modCur f).split = s.split := rfl
@[simp] theorem State.modCur_mirRecs (s : State) (f : Strand → Strand) : (s.modCur f).mirRecs = s.mirRecs := rfl
@[simp] theorem State.modCur_hostAtom (s : State) (f : Strand → Strand) : (s.modCur f).hostAtom = s.hostAtom := rfl
@[simp] theorem State.modCur_hostBusy (s : State) (f : Strand → Strand) : (s.modCur f).hostBusy = s.hostBusy := rfl
@[simp] theorem State.modCur_hostData (s : State) (f : Strand → Strand) : (s.modCur f).hostData = s.hostData := rfl
@[simp] theorem State.modCur_heat (s : State) (f : Strand → Strand) : (s.modCur f).heat = s.heat := rfl
@[simp] theorem State.modCur_pubs (s : State) (f : Strand → Strand) : (s.modCur f).pubs = s.pubs := rfl
@[simp] theorem State.modCur_pubRuns (s : State) (f : Strand → Strand) : (s.modCur f).pubRuns = s.pubRuns := rfl
@[simp] theorem State.modCur_farSubs (s : State) (f : Strand → Strand) : (s.modCur f).farSubs = s.farSubs := rfl
@[simp] theorem State.modCur_colls (s : State) (f : Strand → Strand) : (s.modCur f).colls = s.colls := rfl
@[simp] theorem State.modCur_voided (s : State) (f : Strand → Strand) : (s.modCur f).voided = s.voided := rfl
@[simp] theorem State.modCur_links (s : State) (f : Strand → Strand) : (s.modCur f).links = s.links := rfl
@[simp] theorem State.modCur_routes (s : State) (f : Strand → Strand) : (s.modCur f).routes = s.routes := rfl
@[simp] theorem State.modCur_peerAns (s : State) (f : Strand → Strand) : (s.modCur f).peerAns = s.peerAns := rfl
@[simp] theorem State.modCur_opened (s : State) (f : Strand → Strand) : (s.modCur f).opened = s.opened := rfl
@[simp] theorem State.modCur_dgOut (s : State) (f : Strand → Strand) : (s.modCur f).dgOut = s.dgOut := rfl
@[simp] theorem State.modCur_dgSeqs (s : State) (f : Strand → Strand) : (s.modCur f).dgSeqs = s.dgSeqs := rfl
@[simp] theorem State.modCur_dgSeen (s : State) (f : Strand → Strand) : (s.modCur f).dgSeen = s.dgSeen := rfl
@[simp] theorem State.modCur_dgAns (s : State) (f : Strand → Strand) : (s.modCur f).dgAns = s.dgAns := rfl
@[simp] theorem State.modCur_ports (s : State) (f : Strand → Strand) : (s.modCur f).ports = s.ports := rfl
@[simp] theorem State.modCur_flash (s : State) (f : Strand → Strand) : (s.modCur f).flash = s.flash := rfl
@[simp] theorem State.modCur_images (s : State) (f : Strand → Strand) : (s.modCur f).images = s.images := rfl
@[simp] theorem State.modCur_imgGens (s : State) (f : Strand → Strand) : (s.modCur f).imgGens = s.imgGens := rfl
@[simp] theorem State.modCur_keyGen (s : State) (f : Strand → Strand) : (s.modCur f).keyGen = s.keyGen := rfl
@[simp] theorem State.modCur_lineKeys (s : State) (f : Strand → Strand) : (s.modCur f).lineKeys = s.lineKeys := rfl
@[simp] theorem State.modCur_keyMap (s : State) (f : Strand → Strand) : (s.modCur f).keyMap = s.keyMap := rfl
@[simp] theorem State.modCur_stretched (s : State) (f : Strand → Strand) : (s.modCur f).stretched = s.stretched := rfl
@[simp] theorem State.modCur_badSlices (s : State) (f : Strand → Strand) : (s.modCur f).badSlices = s.badSlices := rfl
@[simp] theorem State.modCur_lanes (s : State) (f : Strand → Strand) : (s.modCur f).lanes = s.lanes := rfl
@[simp] theorem State.modCur_segments (s : State) (f : Strand → Strand) : (s.modCur f).segments = s.segments := rfl
@[simp] theorem State.modCur_resends (s : State) (f : Strand → Strand) : (s.modCur f).resends = s.resends := rfl
@[simp] theorem State.modCur_rowFixes (s : State) (f : Strand → Strand) : (s.modCur f).rowFixes = s.rowFixes := rfl
@[simp] theorem State.modCur_lodge (s : State) (f : Strand → Strand) : (s.modCur f).lodge = s.lodge := rfl
@[simp] theorem State.modSc_quad (s : State) (f : Scalar → Scalar) : (s.modSc f).quad = s.quad := rfl
@[simp] theorem State.modSc_strands (s : State) (f : Scalar → Scalar) : (s.modSc f).strands = s.strands := rfl
@[simp] theorem State.modSc_quads (s : State) (f : Scalar → Scalar) : (s.modSc f).quads = s.quads := rfl
@[simp] theorem State.modSc_mem (s : State) (f : Scalar → Scalar) : (s.modSc f).mem = s.mem := rfl
@[simp] theorem State.modSc_memPoison (s : State) (f : Scalar → Scalar) : (s.modSc f).memPoison = s.memPoison := rfl
@[simp] theorem State.modSc_hrecs (s : State) (f : Scalar → Scalar) : (s.modSc f).hrecs = s.hrecs := rfl
@[simp] theorem State.modSc_hostB (s : State) (f : Scalar → Scalar) : (s.modSc f).hostB = s.hostB := rfl
@[simp] theorem State.modSc_lines (s : State) (f : Scalar → Scalar) : (s.modSc f).lines = s.lines := rfl
@[simp] theorem State.modSc_useCtr (s : State) (f : Scalar → Scalar) : (s.modSc f).useCtr = s.useCtr := rfl
@[simp] theorem State.modSc_buckets (s : State) (f : Scalar → Scalar) : (s.modSc f).buckets = s.buckets := rfl
@[simp] theorem State.modSc_moveTick (s : State) (f : Scalar → Scalar) : (s.modSc f).moveTick = s.moveTick := rfl
@[simp] theorem State.modSc_timer (s : State) (f : Scalar → Scalar) : (s.modSc f).timer = s.timer := rfl
@[simp] theorem State.modSc_effSeq (s : State) (f : Scalar → Scalar) : (s.modSc f).effSeq = s.effSeq := rfl
@[simp] theorem State.modSc_ahead (s : State) (f : Scalar → Scalar) : (s.modSc f).ahead = s.ahead := rfl
@[simp] theorem State.modSc_reqs (s : State) (f : Scalar → Scalar) : (s.modSc f).reqs = s.reqs := rfl
@[simp] theorem State.modSc_fills (s : State) (f : Scalar → Scalar) : (s.modSc f).fills = s.fills := rfl
@[simp] theorem State.modSc_flushes (s : State) (f : Scalar → Scalar) : (s.modSc f).flushes = s.flushes := rfl
@[simp] theorem State.modSc_heatTick (s : State) (f : Scalar → Scalar) : (s.modSc f).heatTick = s.heatTick := rfl
@[simp] theorem State.modSc_parts (s : State) (f : Scalar → Scalar) : (s.modSc f).parts = s.parts := rfl
@[simp] theorem State.modSc_crews (s : State) (f : Scalar → Scalar) : (s.modSc f).crews = s.crews := rfl
@[simp] theorem State.modSc_launches (s : State) (f : Scalar → Scalar) : (s.modSc f).launches = s.launches := rfl
@[simp] theorem State.modSc_crewSeq (s : State) (f : Scalar → Scalar) : (s.modSc f).crewSeq = s.crewSeq := rfl
@[simp] theorem State.modSc_uidSeq (s : State) (f : Scalar → Scalar) : (s.modSc f).uidSeq = s.uidSeq := rfl
@[simp] theorem State.modSc_tokens (s : State) (f : Scalar → Scalar) : (s.modSc f).tokens = s.tokens := rfl
@[simp] theorem State.modSc_tokReqs (s : State) (f : Scalar → Scalar) : (s.modSc f).tokReqs = s.tokReqs := rfl
@[simp] theorem State.modSc_msixMask (s : State) (f : Scalar → Scalar) : (s.modSc f).msixMask = s.msixMask := rfl
@[simp] theorem State.modSc_msixPend (s : State) (f : Scalar → Scalar) : (s.modSc f).msixPend = s.msixPend := rfl
@[simp] theorem State.modSc_hostMsgs (s : State) (f : Scalar → Scalar) : (s.modSc f).hostMsgs = s.hostMsgs := rfl
@[simp] theorem State.modSc_wideBars (s : State) (f : Scalar → Scalar) : (s.modSc f).wideBars = s.wideBars := rfl
@[simp] theorem State.modSc_devid (s : State) (f : Scalar → Scalar) : (s.modSc f).devid = s.devid := rfl
@[simp] theorem State.modSc_agenda (s : State) (f : Scalar → Scalar) : (s.modSc f).agenda = s.agenda := rfl
@[simp] theorem State.modSc_freeCtr (s : State) (f : Scalar → Scalar) : (s.modSc f).freeCtr = s.freeCtr := rfl
@[simp] theorem State.modSc_split (s : State) (f : Scalar → Scalar) : (s.modSc f).split = s.split := rfl
@[simp] theorem State.modSc_mirRecs (s : State) (f : Scalar → Scalar) : (s.modSc f).mirRecs = s.mirRecs := rfl
@[simp] theorem State.modSc_hostAtom (s : State) (f : Scalar → Scalar) : (s.modSc f).hostAtom = s.hostAtom := rfl
@[simp] theorem State.modSc_hostBusy (s : State) (f : Scalar → Scalar) : (s.modSc f).hostBusy = s.hostBusy := rfl
@[simp] theorem State.modSc_hostData (s : State) (f : Scalar → Scalar) : (s.modSc f).hostData = s.hostData := rfl
@[simp] theorem State.modSc_heat (s : State) (f : Scalar → Scalar) : (s.modSc f).heat = s.heat := rfl
@[simp] theorem State.modSc_pubs (s : State) (f : Scalar → Scalar) : (s.modSc f).pubs = s.pubs := rfl
@[simp] theorem State.modSc_pubRuns (s : State) (f : Scalar → Scalar) : (s.modSc f).pubRuns = s.pubRuns := rfl
@[simp] theorem State.modSc_farSubs (s : State) (f : Scalar → Scalar) : (s.modSc f).farSubs = s.farSubs := rfl
@[simp] theorem State.modSc_colls (s : State) (f : Scalar → Scalar) : (s.modSc f).colls = s.colls := rfl
@[simp] theorem State.modSc_voided (s : State) (f : Scalar → Scalar) : (s.modSc f).voided = s.voided := rfl
@[simp] theorem State.modSc_links (s : State) (f : Scalar → Scalar) : (s.modSc f).links = s.links := rfl
@[simp] theorem State.modSc_routes (s : State) (f : Scalar → Scalar) : (s.modSc f).routes = s.routes := rfl
@[simp] theorem State.modSc_peerAns (s : State) (f : Scalar → Scalar) : (s.modSc f).peerAns = s.peerAns := rfl
@[simp] theorem State.modSc_opened (s : State) (f : Scalar → Scalar) : (s.modSc f).opened = s.opened := rfl
@[simp] theorem State.modSc_dgOut (s : State) (f : Scalar → Scalar) : (s.modSc f).dgOut = s.dgOut := rfl
@[simp] theorem State.modSc_dgSeqs (s : State) (f : Scalar → Scalar) : (s.modSc f).dgSeqs = s.dgSeqs := rfl
@[simp] theorem State.modSc_dgSeen (s : State) (f : Scalar → Scalar) : (s.modSc f).dgSeen = s.dgSeen := rfl
@[simp] theorem State.modSc_dgAns (s : State) (f : Scalar → Scalar) : (s.modSc f).dgAns = s.dgAns := rfl
@[simp] theorem State.modSc_ports (s : State) (f : Scalar → Scalar) : (s.modSc f).ports = s.ports := rfl
@[simp] theorem State.modSc_flash (s : State) (f : Scalar → Scalar) : (s.modSc f).flash = s.flash := rfl
@[simp] theorem State.modSc_images (s : State) (f : Scalar → Scalar) : (s.modSc f).images = s.images := rfl
@[simp] theorem State.modSc_imgGens (s : State) (f : Scalar → Scalar) : (s.modSc f).imgGens = s.imgGens := rfl
@[simp] theorem State.modSc_keyGen (s : State) (f : Scalar → Scalar) : (s.modSc f).keyGen = s.keyGen := rfl
@[simp] theorem State.modSc_lineKeys (s : State) (f : Scalar → Scalar) : (s.modSc f).lineKeys = s.lineKeys := rfl
@[simp] theorem State.modSc_keyMap (s : State) (f : Scalar → Scalar) : (s.modSc f).keyMap = s.keyMap := rfl
@[simp] theorem State.modSc_stretched (s : State) (f : Scalar → Scalar) : (s.modSc f).stretched = s.stretched := rfl
@[simp] theorem State.modSc_badSlices (s : State) (f : Scalar → Scalar) : (s.modSc f).badSlices = s.badSlices := rfl
@[simp] theorem State.modSc_lanes (s : State) (f : Scalar → Scalar) : (s.modSc f).lanes = s.lanes := rfl
@[simp] theorem State.modSc_segments (s : State) (f : Scalar → Scalar) : (s.modSc f).segments = s.segments := rfl
@[simp] theorem State.modSc_resends (s : State) (f : Scalar → Scalar) : (s.modSc f).resends = s.resends := rfl
@[simp] theorem State.modSc_rowFixes (s : State) (f : Scalar → Scalar) : (s.modSc f).rowFixes = s.rowFixes := rfl
@[simp] theorem State.modSc_lodge (s : State) (f : Scalar → Scalar) : (s.modSc f).lodge = s.lodge := rfl
@[simp] theorem State.setReg_quad (s : State) (r : Reg) (v : Word) : (s.setReg r v).quad = s.quad := rfl
@[simp] theorem State.setReg_strands (s : State) (r : Reg) (v : Word) : (s.setReg r v).strands = s.strands := rfl
@[simp] theorem State.setReg_quads (s : State) (r : Reg) (v : Word) : (s.setReg r v).quads = s.quads := rfl
@[simp] theorem State.setReg_mem (s : State) (r : Reg) (v : Word) : (s.setReg r v).mem = s.mem := rfl
@[simp] theorem State.setReg_memPoison (s : State) (r : Reg) (v : Word) : (s.setReg r v).memPoison = s.memPoison := rfl
@[simp] theorem State.setReg_hrecs (s : State) (r : Reg) (v : Word) : (s.setReg r v).hrecs = s.hrecs := rfl
@[simp] theorem State.setReg_hostB (s : State) (r : Reg) (v : Word) : (s.setReg r v).hostB = s.hostB := rfl
@[simp] theorem State.setReg_lines (s : State) (r : Reg) (v : Word) : (s.setReg r v).lines = s.lines := rfl
@[simp] theorem State.setReg_useCtr (s : State) (r : Reg) (v : Word) : (s.setReg r v).useCtr = s.useCtr := rfl
@[simp] theorem State.setReg_buckets (s : State) (r : Reg) (v : Word) : (s.setReg r v).buckets = s.buckets := rfl
@[simp] theorem State.setReg_moveTick (s : State) (r : Reg) (v : Word) : (s.setReg r v).moveTick = s.moveTick := rfl
@[simp] theorem State.setReg_timer (s : State) (r : Reg) (v : Word) : (s.setReg r v).timer = s.timer := rfl
@[simp] theorem State.setReg_effSeq (s : State) (r : Reg) (v : Word) : (s.setReg r v).effSeq = s.effSeq := rfl
@[simp] theorem State.setReg_ahead (s : State) (r : Reg) (v : Word) : (s.setReg r v).ahead = s.ahead := rfl
@[simp] theorem State.setReg_reqs (s : State) (r : Reg) (v : Word) : (s.setReg r v).reqs = s.reqs := rfl
@[simp] theorem State.setReg_fills (s : State) (r : Reg) (v : Word) : (s.setReg r v).fills = s.fills := rfl
@[simp] theorem State.setReg_flushes (s : State) (r : Reg) (v : Word) : (s.setReg r v).flushes = s.flushes := rfl
@[simp] theorem State.setReg_heatTick (s : State) (r : Reg) (v : Word) : (s.setReg r v).heatTick = s.heatTick := rfl
@[simp] theorem State.setReg_parts (s : State) (r : Reg) (v : Word) : (s.setReg r v).parts = s.parts := rfl
@[simp] theorem State.setReg_crews (s : State) (r : Reg) (v : Word) : (s.setReg r v).crews = s.crews := rfl
@[simp] theorem State.setReg_launches (s : State) (r : Reg) (v : Word) : (s.setReg r v).launches = s.launches := rfl
@[simp] theorem State.setReg_crewSeq (s : State) (r : Reg) (v : Word) : (s.setReg r v).crewSeq = s.crewSeq := rfl
@[simp] theorem State.setReg_uidSeq (s : State) (r : Reg) (v : Word) : (s.setReg r v).uidSeq = s.uidSeq := rfl
@[simp] theorem State.setReg_tokens (s : State) (r : Reg) (v : Word) : (s.setReg r v).tokens = s.tokens := rfl
@[simp] theorem State.setReg_tokReqs (s : State) (r : Reg) (v : Word) : (s.setReg r v).tokReqs = s.tokReqs := rfl
@[simp] theorem State.setReg_msixMask (s : State) (r : Reg) (v : Word) : (s.setReg r v).msixMask = s.msixMask := rfl
@[simp] theorem State.setReg_msixPend (s : State) (r : Reg) (v : Word) : (s.setReg r v).msixPend = s.msixPend := rfl
@[simp] theorem State.setReg_hostMsgs (s : State) (r : Reg) (v : Word) : (s.setReg r v).hostMsgs = s.hostMsgs := rfl
@[simp] theorem State.setReg_wideBars (s : State) (r : Reg) (v : Word) : (s.setReg r v).wideBars = s.wideBars := rfl
@[simp] theorem State.setReg_devid (s : State) (r : Reg) (v : Word) : (s.setReg r v).devid = s.devid := rfl
@[simp] theorem State.setReg_agenda (s : State) (r : Reg) (v : Word) : (s.setReg r v).agenda = s.agenda := rfl
@[simp] theorem State.setReg_freeCtr (s : State) (r : Reg) (v : Word) : (s.setReg r v).freeCtr = s.freeCtr := rfl
@[simp] theorem State.setReg_split (s : State) (r : Reg) (v : Word) : (s.setReg r v).split = s.split := rfl
@[simp] theorem State.setReg_mirRecs (s : State) (r : Reg) (v : Word) : (s.setReg r v).mirRecs = s.mirRecs := rfl
@[simp] theorem State.setReg_hostAtom (s : State) (r : Reg) (v : Word) : (s.setReg r v).hostAtom = s.hostAtom := rfl
@[simp] theorem State.setReg_hostBusy (s : State) (r : Reg) (v : Word) : (s.setReg r v).hostBusy = s.hostBusy := rfl
@[simp] theorem State.setReg_hostData (s : State) (r : Reg) (v : Word) : (s.setReg r v).hostData = s.hostData := rfl
@[simp] theorem State.setReg_heat (s : State) (r : Reg) (v : Word) : (s.setReg r v).heat = s.heat := rfl
@[simp] theorem State.setReg_pubs (s : State) (r : Reg) (v : Word) : (s.setReg r v).pubs = s.pubs := rfl
@[simp] theorem State.setReg_pubRuns (s : State) (r : Reg) (v : Word) : (s.setReg r v).pubRuns = s.pubRuns := rfl
@[simp] theorem State.setReg_farSubs (s : State) (r : Reg) (v : Word) : (s.setReg r v).farSubs = s.farSubs := rfl
@[simp] theorem State.setReg_colls (s : State) (r : Reg) (v : Word) : (s.setReg r v).colls = s.colls := rfl
@[simp] theorem State.setReg_voided (s : State) (r : Reg) (v : Word) : (s.setReg r v).voided = s.voided := rfl
@[simp] theorem State.setReg_links (s : State) (r : Reg) (v : Word) : (s.setReg r v).links = s.links := rfl
@[simp] theorem State.setReg_routes (s : State) (r : Reg) (v : Word) : (s.setReg r v).routes = s.routes := rfl
@[simp] theorem State.setReg_peerAns (s : State) (r : Reg) (v : Word) : (s.setReg r v).peerAns = s.peerAns := rfl
@[simp] theorem State.setReg_opened (s : State) (r : Reg) (v : Word) : (s.setReg r v).opened = s.opened := rfl
@[simp] theorem State.setReg_dgOut (s : State) (r : Reg) (v : Word) : (s.setReg r v).dgOut = s.dgOut := rfl
@[simp] theorem State.setReg_dgSeqs (s : State) (r : Reg) (v : Word) : (s.setReg r v).dgSeqs = s.dgSeqs := rfl
@[simp] theorem State.setReg_dgSeen (s : State) (r : Reg) (v : Word) : (s.setReg r v).dgSeen = s.dgSeen := rfl
@[simp] theorem State.setReg_dgAns (s : State) (r : Reg) (v : Word) : (s.setReg r v).dgAns = s.dgAns := rfl
@[simp] theorem State.setReg_ports (s : State) (r : Reg) (v : Word) : (s.setReg r v).ports = s.ports := rfl
@[simp] theorem State.setReg_flash (s : State) (r : Reg) (v : Word) : (s.setReg r v).flash = s.flash := rfl
@[simp] theorem State.setReg_images (s : State) (r : Reg) (v : Word) : (s.setReg r v).images = s.images := rfl
@[simp] theorem State.setReg_imgGens (s : State) (r : Reg) (v : Word) : (s.setReg r v).imgGens = s.imgGens := rfl
@[simp] theorem State.setReg_keyGen (s : State) (r : Reg) (v : Word) : (s.setReg r v).keyGen = s.keyGen := rfl
@[simp] theorem State.setReg_lineKeys (s : State) (r : Reg) (v : Word) : (s.setReg r v).lineKeys = s.lineKeys := rfl
@[simp] theorem State.setReg_keyMap (s : State) (r : Reg) (v : Word) : (s.setReg r v).keyMap = s.keyMap := rfl
@[simp] theorem State.setReg_stretched (s : State) (r : Reg) (v : Word) : (s.setReg r v).stretched = s.stretched := rfl
@[simp] theorem State.setReg_badSlices (s : State) (r : Reg) (v : Word) : (s.setReg r v).badSlices = s.badSlices := rfl
@[simp] theorem State.setReg_lanes (s : State) (r : Reg) (v : Word) : (s.setReg r v).lanes = s.lanes := rfl
@[simp] theorem State.setReg_segments (s : State) (r : Reg) (v : Word) : (s.setReg r v).segments = s.segments := rfl
@[simp] theorem State.setReg_resends (s : State) (r : Reg) (v : Word) : (s.setReg r v).resends = s.resends := rfl
@[simp] theorem State.setReg_rowFixes (s : State) (r : Reg) (v : Word) : (s.setReg r v).rowFixes = s.rowFixes := rfl
@[simp] theorem State.setReg_lodge (s : State) (r : Reg) (v : Word) : (s.setReg r v).lodge = s.lodge := rfl
@[simp] theorem State.advance_quad (s : State) : (s.advance).quad = s.quad := rfl
@[simp] theorem State.advance_strands (s : State) : (s.advance).strands = s.strands := rfl
@[simp] theorem State.advance_quads (s : State) : (s.advance).quads = s.quads := rfl
@[simp] theorem State.advance_mem (s : State) : (s.advance).mem = s.mem := rfl
@[simp] theorem State.advance_memPoison (s : State) : (s.advance).memPoison = s.memPoison := rfl
@[simp] theorem State.advance_hrecs (s : State) : (s.advance).hrecs = s.hrecs := rfl
@[simp] theorem State.advance_hostB (s : State) : (s.advance).hostB = s.hostB := rfl
@[simp] theorem State.advance_lines (s : State) : (s.advance).lines = s.lines := rfl
@[simp] theorem State.advance_useCtr (s : State) : (s.advance).useCtr = s.useCtr := rfl
@[simp] theorem State.advance_buckets (s : State) : (s.advance).buckets = s.buckets := rfl
@[simp] theorem State.advance_moveTick (s : State) : (s.advance).moveTick = s.moveTick := rfl
@[simp] theorem State.advance_timer (s : State) : (s.advance).timer = s.timer := rfl
@[simp] theorem State.advance_effSeq (s : State) : (s.advance).effSeq = s.effSeq := rfl
@[simp] theorem State.advance_ahead (s : State) : (s.advance).ahead = s.ahead := rfl
@[simp] theorem State.advance_reqs (s : State) : (s.advance).reqs = s.reqs := rfl
@[simp] theorem State.advance_fills (s : State) : (s.advance).fills = s.fills := rfl
@[simp] theorem State.advance_flushes (s : State) : (s.advance).flushes = s.flushes := rfl
@[simp] theorem State.advance_heatTick (s : State) : (s.advance).heatTick = s.heatTick := rfl
@[simp] theorem State.advance_parts (s : State) : (s.advance).parts = s.parts := rfl
@[simp] theorem State.advance_crews (s : State) : (s.advance).crews = s.crews := rfl
@[simp] theorem State.advance_launches (s : State) : (s.advance).launches = s.launches := rfl
@[simp] theorem State.advance_crewSeq (s : State) : (s.advance).crewSeq = s.crewSeq := rfl
@[simp] theorem State.advance_uidSeq (s : State) : (s.advance).uidSeq = s.uidSeq := rfl
@[simp] theorem State.advance_tokens (s : State) : (s.advance).tokens = s.tokens := rfl
@[simp] theorem State.advance_tokReqs (s : State) : (s.advance).tokReqs = s.tokReqs := rfl
@[simp] theorem State.advance_msixMask (s : State) : (s.advance).msixMask = s.msixMask := rfl
@[simp] theorem State.advance_msixPend (s : State) : (s.advance).msixPend = s.msixPend := rfl
@[simp] theorem State.advance_hostMsgs (s : State) : (s.advance).hostMsgs = s.hostMsgs := rfl
@[simp] theorem State.advance_wideBars (s : State) : (s.advance).wideBars = s.wideBars := rfl
@[simp] theorem State.advance_devid (s : State) : (s.advance).devid = s.devid := rfl
@[simp] theorem State.advance_agenda (s : State) : (s.advance).agenda = s.agenda := rfl
@[simp] theorem State.advance_freeCtr (s : State) : (s.advance).freeCtr = s.freeCtr := rfl
@[simp] theorem State.advance_split (s : State) : (s.advance).split = s.split := rfl
@[simp] theorem State.advance_mirRecs (s : State) : (s.advance).mirRecs = s.mirRecs := rfl
@[simp] theorem State.advance_hostAtom (s : State) : (s.advance).hostAtom = s.hostAtom := rfl
@[simp] theorem State.advance_hostBusy (s : State) : (s.advance).hostBusy = s.hostBusy := rfl
@[simp] theorem State.advance_hostData (s : State) : (s.advance).hostData = s.hostData := rfl
@[simp] theorem State.advance_heat (s : State) : (s.advance).heat = s.heat := rfl
@[simp] theorem State.advance_pubs (s : State) : (s.advance).pubs = s.pubs := rfl
@[simp] theorem State.advance_pubRuns (s : State) : (s.advance).pubRuns = s.pubRuns := rfl
@[simp] theorem State.advance_farSubs (s : State) : (s.advance).farSubs = s.farSubs := rfl
@[simp] theorem State.advance_colls (s : State) : (s.advance).colls = s.colls := rfl
@[simp] theorem State.advance_voided (s : State) : (s.advance).voided = s.voided := rfl
@[simp] theorem State.advance_links (s : State) : (s.advance).links = s.links := rfl
@[simp] theorem State.advance_routes (s : State) : (s.advance).routes = s.routes := rfl
@[simp] theorem State.advance_peerAns (s : State) : (s.advance).peerAns = s.peerAns := rfl
@[simp] theorem State.advance_opened (s : State) : (s.advance).opened = s.opened := rfl
@[simp] theorem State.advance_dgOut (s : State) : (s.advance).dgOut = s.dgOut := rfl
@[simp] theorem State.advance_dgSeqs (s : State) : (s.advance).dgSeqs = s.dgSeqs := rfl
@[simp] theorem State.advance_dgSeen (s : State) : (s.advance).dgSeen = s.dgSeen := rfl
@[simp] theorem State.advance_dgAns (s : State) : (s.advance).dgAns = s.dgAns := rfl
@[simp] theorem State.advance_ports (s : State) : (s.advance).ports = s.ports := rfl
@[simp] theorem State.advance_flash (s : State) : (s.advance).flash = s.flash := rfl
@[simp] theorem State.advance_images (s : State) : (s.advance).images = s.images := rfl
@[simp] theorem State.advance_imgGens (s : State) : (s.advance).imgGens = s.imgGens := rfl
@[simp] theorem State.advance_keyGen (s : State) : (s.advance).keyGen = s.keyGen := rfl
@[simp] theorem State.advance_lineKeys (s : State) : (s.advance).lineKeys = s.lineKeys := rfl
@[simp] theorem State.advance_keyMap (s : State) : (s.advance).keyMap = s.keyMap := rfl
@[simp] theorem State.advance_stretched (s : State) : (s.advance).stretched = s.stretched := rfl
@[simp] theorem State.advance_badSlices (s : State) : (s.advance).badSlices = s.badSlices := rfl
@[simp] theorem State.advance_lanes (s : State) : (s.advance).lanes = s.lanes := rfl
@[simp] theorem State.advance_segments (s : State) : (s.advance).segments = s.segments := rfl
@[simp] theorem State.advance_resends (s : State) : (s.advance).resends = s.resends := rfl
@[simp] theorem State.advance_rowFixes (s : State) : (s.advance).rowFixes = s.rowFixes := rfl
@[simp] theorem State.advance_lodge (s : State) : (s.advance).lodge = s.lodge := rfl
@[simp] theorem State.transfer_quad (s : State) (a : Word) : (s.transfer a).quad = s.quad := rfl
@[simp] theorem State.transfer_strands (s : State) (a : Word) : (s.transfer a).strands = s.strands := rfl
@[simp] theorem State.transfer_quads (s : State) (a : Word) : (s.transfer a).quads = s.quads := rfl
@[simp] theorem State.transfer_mem (s : State) (a : Word) : (s.transfer a).mem = s.mem := rfl
@[simp] theorem State.transfer_memPoison (s : State) (a : Word) : (s.transfer a).memPoison = s.memPoison := rfl
@[simp] theorem State.transfer_hrecs (s : State) (a : Word) : (s.transfer a).hrecs = s.hrecs := rfl
@[simp] theorem State.transfer_hostB (s : State) (a : Word) : (s.transfer a).hostB = s.hostB := rfl
@[simp] theorem State.transfer_lines (s : State) (a : Word) : (s.transfer a).lines = s.lines := rfl
@[simp] theorem State.transfer_useCtr (s : State) (a : Word) : (s.transfer a).useCtr = s.useCtr := rfl
@[simp] theorem State.transfer_buckets (s : State) (a : Word) : (s.transfer a).buckets = s.buckets := rfl
@[simp] theorem State.transfer_moveTick (s : State) (a : Word) : (s.transfer a).moveTick = s.moveTick := rfl
@[simp] theorem State.transfer_timer (s : State) (a : Word) : (s.transfer a).timer = s.timer := rfl
@[simp] theorem State.transfer_effSeq (s : State) (a : Word) : (s.transfer a).effSeq = s.effSeq := rfl
@[simp] theorem State.transfer_ahead (s : State) (a : Word) : (s.transfer a).ahead = s.ahead := rfl
@[simp] theorem State.transfer_reqs (s : State) (a : Word) : (s.transfer a).reqs = s.reqs := rfl
@[simp] theorem State.transfer_fills (s : State) (a : Word) : (s.transfer a).fills = s.fills := rfl
@[simp] theorem State.transfer_flushes (s : State) (a : Word) : (s.transfer a).flushes = s.flushes := rfl
@[simp] theorem State.transfer_heatTick (s : State) (a : Word) : (s.transfer a).heatTick = s.heatTick := rfl
@[simp] theorem State.transfer_parts (s : State) (a : Word) : (s.transfer a).parts = s.parts := rfl
@[simp] theorem State.transfer_crews (s : State) (a : Word) : (s.transfer a).crews = s.crews := rfl
@[simp] theorem State.transfer_launches (s : State) (a : Word) : (s.transfer a).launches = s.launches := rfl
@[simp] theorem State.transfer_crewSeq (s : State) (a : Word) : (s.transfer a).crewSeq = s.crewSeq := rfl
@[simp] theorem State.transfer_uidSeq (s : State) (a : Word) : (s.transfer a).uidSeq = s.uidSeq := rfl
@[simp] theorem State.transfer_tokens (s : State) (a : Word) : (s.transfer a).tokens = s.tokens := rfl
@[simp] theorem State.transfer_tokReqs (s : State) (a : Word) : (s.transfer a).tokReqs = s.tokReqs := rfl
@[simp] theorem State.transfer_msixMask (s : State) (a : Word) : (s.transfer a).msixMask = s.msixMask := rfl
@[simp] theorem State.transfer_msixPend (s : State) (a : Word) : (s.transfer a).msixPend = s.msixPend := rfl
@[simp] theorem State.transfer_hostMsgs (s : State) (a : Word) : (s.transfer a).hostMsgs = s.hostMsgs := rfl
@[simp] theorem State.transfer_wideBars (s : State) (a : Word) : (s.transfer a).wideBars = s.wideBars := rfl
@[simp] theorem State.transfer_devid (s : State) (a : Word) : (s.transfer a).devid = s.devid := rfl
@[simp] theorem State.transfer_agenda (s : State) (a : Word) : (s.transfer a).agenda = s.agenda := rfl
@[simp] theorem State.transfer_freeCtr (s : State) (a : Word) : (s.transfer a).freeCtr = s.freeCtr := rfl
@[simp] theorem State.transfer_split (s : State) (a : Word) : (s.transfer a).split = s.split := rfl
@[simp] theorem State.transfer_mirRecs (s : State) (a : Word) : (s.transfer a).mirRecs = s.mirRecs := rfl
@[simp] theorem State.transfer_hostAtom (s : State) (a : Word) : (s.transfer a).hostAtom = s.hostAtom := rfl
@[simp] theorem State.transfer_hostBusy (s : State) (a : Word) : (s.transfer a).hostBusy = s.hostBusy := rfl
@[simp] theorem State.transfer_hostData (s : State) (a : Word) : (s.transfer a).hostData = s.hostData := rfl
@[simp] theorem State.transfer_heat (s : State) (a : Word) : (s.transfer a).heat = s.heat := rfl
@[simp] theorem State.transfer_pubs (s : State) (a : Word) : (s.transfer a).pubs = s.pubs := rfl
@[simp] theorem State.transfer_pubRuns (s : State) (a : Word) : (s.transfer a).pubRuns = s.pubRuns := rfl
@[simp] theorem State.transfer_farSubs (s : State) (a : Word) : (s.transfer a).farSubs = s.farSubs := rfl
@[simp] theorem State.transfer_colls (s : State) (a : Word) : (s.transfer a).colls = s.colls := rfl
@[simp] theorem State.transfer_voided (s : State) (a : Word) : (s.transfer a).voided = s.voided := rfl
@[simp] theorem State.transfer_links (s : State) (a : Word) : (s.transfer a).links = s.links := rfl
@[simp] theorem State.transfer_routes (s : State) (a : Word) : (s.transfer a).routes = s.routes := rfl
@[simp] theorem State.transfer_peerAns (s : State) (a : Word) : (s.transfer a).peerAns = s.peerAns := rfl
@[simp] theorem State.transfer_opened (s : State) (a : Word) : (s.transfer a).opened = s.opened := rfl
@[simp] theorem State.transfer_dgOut (s : State) (a : Word) : (s.transfer a).dgOut = s.dgOut := rfl
@[simp] theorem State.transfer_dgSeqs (s : State) (a : Word) : (s.transfer a).dgSeqs = s.dgSeqs := rfl
@[simp] theorem State.transfer_dgSeen (s : State) (a : Word) : (s.transfer a).dgSeen = s.dgSeen := rfl
@[simp] theorem State.transfer_dgAns (s : State) (a : Word) : (s.transfer a).dgAns = s.dgAns := rfl
@[simp] theorem State.transfer_ports (s : State) (a : Word) : (s.transfer a).ports = s.ports := rfl
@[simp] theorem State.transfer_flash (s : State) (a : Word) : (s.transfer a).flash = s.flash := rfl
@[simp] theorem State.transfer_images (s : State) (a : Word) : (s.transfer a).images = s.images := rfl
@[simp] theorem State.transfer_imgGens (s : State) (a : Word) : (s.transfer a).imgGens = s.imgGens := rfl
@[simp] theorem State.transfer_keyGen (s : State) (a : Word) : (s.transfer a).keyGen = s.keyGen := rfl
@[simp] theorem State.transfer_lineKeys (s : State) (a : Word) : (s.transfer a).lineKeys = s.lineKeys := rfl
@[simp] theorem State.transfer_keyMap (s : State) (a : Word) : (s.transfer a).keyMap = s.keyMap := rfl
@[simp] theorem State.transfer_stretched (s : State) (a : Word) : (s.transfer a).stretched = s.stretched := rfl
@[simp] theorem State.transfer_badSlices (s : State) (a : Word) : (s.transfer a).badSlices = s.badSlices := rfl
@[simp] theorem State.transfer_lanes (s : State) (a : Word) : (s.transfer a).lanes = s.lanes := rfl
@[simp] theorem State.transfer_segments (s : State) (a : Word) : (s.transfer a).segments = s.segments := rfl
@[simp] theorem State.transfer_resends (s : State) (a : Word) : (s.transfer a).resends = s.resends := rfl
@[simp] theorem State.transfer_rowFixes (s : State) (a : Word) : (s.transfer a).rowFixes = s.rowFixes := rfl
@[simp] theorem State.transfer_lodge (s : State) (a : Word) : (s.transfer a).lodge = s.lodge := rfl
@[simp] theorem State.modQ_cur (s : State) (f : QuadData → QuadData) : (s.modQ f).cur = s.cur := rfl
@[simp] theorem State.modQ_strands (s : State) (f : QuadData → QuadData) : (s.modQ f).strands = s.strands := rfl
@[simp] theorem State.modQ_quads (s : State) (f : QuadData → QuadData) : (s.modQ f).quads = s.quads := rfl
@[simp] theorem State.modQ_mem (s : State) (f : QuadData → QuadData) : (s.modQ f).mem = s.mem := rfl
@[simp] theorem State.modQ_memPoison (s : State) (f : QuadData → QuadData) : (s.modQ f).memPoison = s.memPoison := rfl
@[simp] theorem State.modQ_hrecs (s : State) (f : QuadData → QuadData) : (s.modQ f).hrecs = s.hrecs := rfl
@[simp] theorem State.modQ_hostB (s : State) (f : QuadData → QuadData) : (s.modQ f).hostB = s.hostB := rfl
@[simp] theorem State.modQ_lines (s : State) (f : QuadData → QuadData) : (s.modQ f).lines = s.lines := rfl
@[simp] theorem State.modQ_useCtr (s : State) (f : QuadData → QuadData) : (s.modQ f).useCtr = s.useCtr := rfl
@[simp] theorem State.modQ_buckets (s : State) (f : QuadData → QuadData) : (s.modQ f).buckets = s.buckets := rfl
@[simp] theorem State.modQ_moveTick (s : State) (f : QuadData → QuadData) : (s.modQ f).moveTick = s.moveTick := rfl
@[simp] theorem State.modQ_timer (s : State) (f : QuadData → QuadData) : (s.modQ f).timer = s.timer := rfl
@[simp] theorem State.modQ_effSeq (s : State) (f : QuadData → QuadData) : (s.modQ f).effSeq = s.effSeq := rfl
@[simp] theorem State.modQ_ahead (s : State) (f : QuadData → QuadData) : (s.modQ f).ahead = s.ahead := rfl
@[simp] theorem State.modQ_reqs (s : State) (f : QuadData → QuadData) : (s.modQ f).reqs = s.reqs := rfl
@[simp] theorem State.modQ_fills (s : State) (f : QuadData → QuadData) : (s.modQ f).fills = s.fills := rfl
@[simp] theorem State.modQ_flushes (s : State) (f : QuadData → QuadData) : (s.modQ f).flushes = s.flushes := rfl
@[simp] theorem State.modQ_heatTick (s : State) (f : QuadData → QuadData) : (s.modQ f).heatTick = s.heatTick := rfl
@[simp] theorem State.modQ_parts (s : State) (f : QuadData → QuadData) : (s.modQ f).parts = s.parts := rfl
@[simp] theorem State.modQ_crews (s : State) (f : QuadData → QuadData) : (s.modQ f).crews = s.crews := rfl
@[simp] theorem State.modQ_launches (s : State) (f : QuadData → QuadData) : (s.modQ f).launches = s.launches := rfl
@[simp] theorem State.modQ_crewSeq (s : State) (f : QuadData → QuadData) : (s.modQ f).crewSeq = s.crewSeq := rfl
@[simp] theorem State.modQ_uidSeq (s : State) (f : QuadData → QuadData) : (s.modQ f).uidSeq = s.uidSeq := rfl
@[simp] theorem State.modQ_tokens (s : State) (f : QuadData → QuadData) : (s.modQ f).tokens = s.tokens := rfl
@[simp] theorem State.modQ_tokReqs (s : State) (f : QuadData → QuadData) : (s.modQ f).tokReqs = s.tokReqs := rfl
@[simp] theorem State.modQ_msixMask (s : State) (f : QuadData → QuadData) : (s.modQ f).msixMask = s.msixMask := rfl
@[simp] theorem State.modQ_msixPend (s : State) (f : QuadData → QuadData) : (s.modQ f).msixPend = s.msixPend := rfl
@[simp] theorem State.modQ_hostMsgs (s : State) (f : QuadData → QuadData) : (s.modQ f).hostMsgs = s.hostMsgs := rfl
@[simp] theorem State.modQ_wideBars (s : State) (f : QuadData → QuadData) : (s.modQ f).wideBars = s.wideBars := rfl
@[simp] theorem State.modQ_devid (s : State) (f : QuadData → QuadData) : (s.modQ f).devid = s.devid := rfl
@[simp] theorem State.modQ_agenda (s : State) (f : QuadData → QuadData) : (s.modQ f).agenda = s.agenda := rfl
@[simp] theorem State.modQ_freeCtr (s : State) (f : QuadData → QuadData) : (s.modQ f).freeCtr = s.freeCtr := rfl
@[simp] theorem State.modQ_split (s : State) (f : QuadData → QuadData) : (s.modQ f).split = s.split := rfl
@[simp] theorem State.modQ_mirRecs (s : State) (f : QuadData → QuadData) : (s.modQ f).mirRecs = s.mirRecs := rfl
@[simp] theorem State.modQ_hostAtom (s : State) (f : QuadData → QuadData) : (s.modQ f).hostAtom = s.hostAtom := rfl
@[simp] theorem State.modQ_hostBusy (s : State) (f : QuadData → QuadData) : (s.modQ f).hostBusy = s.hostBusy := rfl
@[simp] theorem State.modQ_hostData (s : State) (f : QuadData → QuadData) : (s.modQ f).hostData = s.hostData := rfl
@[simp] theorem State.modQ_heat (s : State) (f : QuadData → QuadData) : (s.modQ f).heat = s.heat := rfl
@[simp] theorem State.modQ_pubs (s : State) (f : QuadData → QuadData) : (s.modQ f).pubs = s.pubs := rfl
@[simp] theorem State.modQ_pubRuns (s : State) (f : QuadData → QuadData) : (s.modQ f).pubRuns = s.pubRuns := rfl
@[simp] theorem State.modQ_farSubs (s : State) (f : QuadData → QuadData) : (s.modQ f).farSubs = s.farSubs := rfl
@[simp] theorem State.modQ_colls (s : State) (f : QuadData → QuadData) : (s.modQ f).colls = s.colls := rfl
@[simp] theorem State.modQ_voided (s : State) (f : QuadData → QuadData) : (s.modQ f).voided = s.voided := rfl
@[simp] theorem State.modQ_links (s : State) (f : QuadData → QuadData) : (s.modQ f).links = s.links := rfl
@[simp] theorem State.modQ_routes (s : State) (f : QuadData → QuadData) : (s.modQ f).routes = s.routes := rfl
@[simp] theorem State.modQ_peerAns (s : State) (f : QuadData → QuadData) : (s.modQ f).peerAns = s.peerAns := rfl
@[simp] theorem State.modQ_opened (s : State) (f : QuadData → QuadData) : (s.modQ f).opened = s.opened := rfl
@[simp] theorem State.modQ_dgOut (s : State) (f : QuadData → QuadData) : (s.modQ f).dgOut = s.dgOut := rfl
@[simp] theorem State.modQ_dgSeqs (s : State) (f : QuadData → QuadData) : (s.modQ f).dgSeqs = s.dgSeqs := rfl
@[simp] theorem State.modQ_dgSeen (s : State) (f : QuadData → QuadData) : (s.modQ f).dgSeen = s.dgSeen := rfl
@[simp] theorem State.modQ_dgAns (s : State) (f : QuadData → QuadData) : (s.modQ f).dgAns = s.dgAns := rfl
@[simp] theorem State.modQ_ports (s : State) (f : QuadData → QuadData) : (s.modQ f).ports = s.ports := rfl
@[simp] theorem State.modQ_flash (s : State) (f : QuadData → QuadData) : (s.modQ f).flash = s.flash := rfl
@[simp] theorem State.modQ_images (s : State) (f : QuadData → QuadData) : (s.modQ f).images = s.images := rfl
@[simp] theorem State.modQ_imgGens (s : State) (f : QuadData → QuadData) : (s.modQ f).imgGens = s.imgGens := rfl
@[simp] theorem State.modQ_keyGen (s : State) (f : QuadData → QuadData) : (s.modQ f).keyGen = s.keyGen := rfl
@[simp] theorem State.modQ_lineKeys (s : State) (f : QuadData → QuadData) : (s.modQ f).lineKeys = s.lineKeys := rfl
@[simp] theorem State.modQ_keyMap (s : State) (f : QuadData → QuadData) : (s.modQ f).keyMap = s.keyMap := rfl
@[simp] theorem State.modQ_stretched (s : State) (f : QuadData → QuadData) : (s.modQ f).stretched = s.stretched := rfl
@[simp] theorem State.modQ_badSlices (s : State) (f : QuadData → QuadData) : (s.modQ f).badSlices = s.badSlices := rfl
@[simp] theorem State.modQ_lanes (s : State) (f : QuadData → QuadData) : (s.modQ f).lanes = s.lanes := rfl
@[simp] theorem State.modQ_segments (s : State) (f : QuadData → QuadData) : (s.modQ f).segments = s.segments := rfl
@[simp] theorem State.modQ_resends (s : State) (f : QuadData → QuadData) : (s.modQ f).resends = s.resends := rfl
@[simp] theorem State.modQ_rowFixes (s : State) (f : QuadData → QuadData) : (s.modQ f).rowFixes = s.rowFixes := rfl
@[simp] theorem State.modQ_lodge (s : State) (f : QuadData → QuadData) : (s.modQ f).lodge = s.lodge := rfl

/-! ### What the updates write -/

@[simp] theorem State.modCur_cur (s : State) (f : Strand → Strand) : (s.modCur f).cur = f s.cur := rfl
@[simp] theorem State.modSc_sc (s : State) (f : Scalar → Scalar) : (s.modSc f).cur.sc = f s.cur.sc := rfl
@[simp] theorem State.setReg_sc (s : State) (r : Reg) (v : Word) : (s.setReg r v).cur.sc = s.cur.sc.setReg r v := rfl
@[simp] theorem State.advance_sc (s : State) : s.advance.cur.sc = s.cur.sc.advance := rfl
@[simp] theorem State.transfer_sc (s : State) (a : Word) : (s.transfer a).cur.sc = s.cur.sc.transfer a := rfl
@[simp] theorem State.modQ_d (s : State) (f : QuadData → QuadData) : (s.modQ f).quad.d = f s.quad.d := rfl

/-! ### Fields of the current strand -/

@[simp] theorem State.modSc_cur_uid (s : State) (f : Scalar → Scalar) : (s.modSc f).cur.uid = s.cur.uid := rfl
@[simp] theorem State.modSc_cur_status (s : State) (f : Scalar → Scalar) : (s.modSc f).cur.status = s.cur.status := rfl
@[simp] theorem State.modSc_cur_vlg (s : State) (f : Scalar → Scalar) : (s.modSc f).cur.vlg = s.cur.vlg := rfl
@[simp] theorem State.modSc_cur_rstix (s : State) (f : Scalar → Scalar) : (s.modSc f).cur.rstix = s.cur.rstix := rfl
@[simp] theorem State.modSc_cur_masks (s : State) (f : Scalar → Scalar) : (s.modSc f).cur.masks = s.cur.masks := rfl
@[simp] theorem State.modSc_cur_v (s : State) (f : Scalar → Scalar) : (s.modSc f).cur.v = s.cur.v := rfl
@[simp] theorem State.modSc_cur_ntiles (s : State) (f : Scalar → Scalar) : (s.modSc f).cur.ntiles = s.cur.ntiles := rfl
@[simp] theorem State.modSc_cur_tiles (s : State) (f : Scalar → Scalar) : (s.modSc f).cur.tiles = s.cur.tiles := rfl
@[simp] theorem State.modSc_cur_q0 (s : State) (f : Scalar → Scalar) : (s.modSc f).cur.q0 = s.cur.q0 := rfl
@[simp] theorem State.modSc_cur_q1 (s : State) (f : Scalar → Scalar) : (s.modSc f).cur.q1 = s.cur.q1 := rfl
@[simp] theorem State.modSc_cur_q2 (s : State) (f : Scalar → Scalar) : (s.modSc f).cur.q2 = s.cur.q2 := rfl
@[simp] theorem State.modSc_cur_q3 (s : State) (f : Scalar → Scalar) : (s.modSc f).cur.q3 = s.cur.q3 := rfl
@[simp] theorem State.modSc_cur_ident (s : State) (f : Scalar → Scalar) : (s.modSc f).cur.ident = s.cur.ident := rfl
@[simp] theorem State.modSc_cur_marks (s : State) (f : Scalar → Scalar) : (s.modSc f).cur.marks = s.cur.marks := rfl
@[simp] theorem State.modSc_cur_pend (s : State) (f : Scalar → Scalar) : (s.modSc f).cur.pend = s.cur.pend := rfl
@[simp] theorem State.modSc_cur_ring (s : State) (f : Scalar → Scalar) : (s.modSc f).cur.ring = s.cur.ring := rfl
@[simp] theorem State.modSc_cur_closed (s : State) (f : Scalar → Scalar) : (s.modSc f).cur.closed = s.cur.closed := rfl
@[simp] theorem State.modSc_cur_chans (s : State) (f : Scalar → Scalar) : (s.modSc f).cur.chans = s.cur.chans := rfl
@[simp] theorem State.modSc_cur_barRecs (s : State) (f : Scalar → Scalar) : (s.modSc f).cur.barRecs = s.cur.barRecs := rfl
@[simp] theorem State.modSc_cur_arrs (s : State) (f : Scalar → Scalar) : (s.modSc f).cur.arrs = s.cur.arrs := rfl
@[simp] theorem State.modSc_cur_poison (s : State) (f : Scalar → Scalar) : (s.modSc f).cur.poison = s.cur.poison := rfl
@[simp] theorem State.modSc_cur_parkSeq (s : State) (f : Scalar → Scalar) : (s.modSc f).cur.parkSeq = s.cur.parkSeq := rfl
@[simp] theorem State.modSc_cur_parkSlot (s : State) (f : Scalar → Scalar) : (s.modSc f).cur.parkSlot = s.cur.parkSlot := rfl
@[simp] theorem State.modSc_cur_handed (s : State) (f : Scalar → Scalar) : (s.modSc f).cur.handed = s.cur.handed := rfl
@[simp] theorem State.modSc_cur_syncWait (s : State) (f : Scalar → Scalar) : (s.modSc f).cur.syncWait = s.cur.syncWait := rfl
@[simp] theorem State.modSc_cur_deadline (s : State) (f : Scalar → Scalar) : (s.modSc f).cur.deadline = s.cur.deadline := rfl
@[simp] theorem State.modSc_cur_vq (s : State) (f : Scalar → Scalar) : (s.modSc f).cur.vq = s.cur.vq := rfl
@[simp] theorem State.modSc_cur_mq (s : State) (f : Scalar → Scalar) : (s.modSc f).cur.mq = s.cur.mq := rfl
@[simp] theorem State.modSc_cur_vf (s : State) (f : Scalar → Scalar) : (s.modSc f).cur.vf = s.cur.vf := rfl
@[simp] theorem State.modSc_cur_seqNo (s : State) (f : Scalar → Scalar) : (s.modSc f).cur.seqNo = s.cur.seqNo := rfl
@[simp] theorem State.modSc_cur_qlog (s : State) (f : Scalar → Scalar) : (s.modSc f).cur.qlog = s.cur.qlog := rfl
@[simp] theorem State.modSc_cur_mlog (s : State) (f : Scalar → Scalar) : (s.modSc f).cur.mlog = s.cur.mlog := rfl
@[simp] theorem State.modSc_cur_fences (s : State) (f : Scalar → Scalar) : (s.modSc f).cur.fences = s.cur.fences := rfl
@[simp] theorem State.modSc_cur_sure (s : State) (f : Scalar → Scalar) : (s.modSc f).cur.sure = s.cur.sure := rfl
@[simp] theorem State.modSc_cur_wrote (s : State) (f : Scalar → Scalar) : (s.modSc f).cur.wrote = s.cur.wrote := rfl
@[simp] theorem State.modSc_cur_inStream (s : State) (f : Scalar → Scalar) : (s.modSc f).cur.inStream = s.cur.inStream := rfl
@[simp] theorem State.modSc_cur_vHold (s : State) (f : Scalar → Scalar) : (s.modSc f).cur.vHold = s.cur.vHold := rfl
@[simp] theorem State.modSc_cur_mHold (s : State) (f : Scalar → Scalar) : (s.modSc f).cur.mHold = s.cur.mHold := rfl
@[simp] theorem State.modSc_cur_waiting (s : State) (f : Scalar → Scalar) : (s.modSc f).cur.waiting = s.cur.waiting := rfl
@[simp] theorem State.modSc_cur_tried (s : State) (f : Scalar → Scalar) : (s.modSc f).cur.tried = s.cur.tried := rfl
@[simp] theorem State.modSc_cur_saved (s : State) (f : Scalar → Scalar) : (s.modSc f).cur.saved = s.cur.saved := rfl
@[simp] theorem State.modSc_cur_offer (s : State) (f : Scalar → Scalar) : (s.modSc f).cur.offer = s.cur.offer := rfl
@[simp] theorem State.modSc_cur_mlines (s : State) (f : Scalar → Scalar) : (s.modSc f).cur.mlines = s.cur.mlines := rfl
@[simp] theorem State.modSc_cur_tids (s : State) (f : Scalar → Scalar) : (s.modSc f).cur.tids = s.cur.tids := rfl
@[simp] theorem State.modSc_cur_vat (s : State) (f : Scalar → Scalar) : (s.modSc f).cur.vat = s.cur.vat := rfl
@[simp] theorem State.modSc_cur_owedMis (s : State) (f : Scalar → Scalar) : (s.modSc f).cur.owedMis = s.cur.owedMis := rfl
@[simp] theorem State.modSc_cur_note (s : State) (f : Scalar → Scalar) : (s.modSc f).cur.note = s.cur.note := rfl
@[simp] theorem State.setReg_cur_uid (s : State) (r : Reg) (v : Word) : (s.setReg r v).cur.uid = s.cur.uid := rfl
@[simp] theorem State.setReg_cur_status (s : State) (r : Reg) (v : Word) : (s.setReg r v).cur.status = s.cur.status := rfl
@[simp] theorem State.setReg_cur_vlg (s : State) (r : Reg) (v : Word) : (s.setReg r v).cur.vlg = s.cur.vlg := rfl
@[simp] theorem State.setReg_cur_rstix (s : State) (r : Reg) (v : Word) : (s.setReg r v).cur.rstix = s.cur.rstix := rfl
@[simp] theorem State.setReg_cur_masks (s : State) (r : Reg) (v : Word) : (s.setReg r v).cur.masks = s.cur.masks := rfl
@[simp] theorem State.setReg_cur_v (s : State) (r : Reg) (v : Word) : (s.setReg r v).cur.v = s.cur.v := rfl
@[simp] theorem State.setReg_cur_ntiles (s : State) (r : Reg) (v : Word) : (s.setReg r v).cur.ntiles = s.cur.ntiles := rfl
@[simp] theorem State.setReg_cur_tiles (s : State) (r : Reg) (v : Word) : (s.setReg r v).cur.tiles = s.cur.tiles := rfl
@[simp] theorem State.setReg_cur_q0 (s : State) (r : Reg) (v : Word) : (s.setReg r v).cur.q0 = s.cur.q0 := rfl
@[simp] theorem State.setReg_cur_q1 (s : State) (r : Reg) (v : Word) : (s.setReg r v).cur.q1 = s.cur.q1 := rfl
@[simp] theorem State.setReg_cur_q2 (s : State) (r : Reg) (v : Word) : (s.setReg r v).cur.q2 = s.cur.q2 := rfl
@[simp] theorem State.setReg_cur_q3 (s : State) (r : Reg) (v : Word) : (s.setReg r v).cur.q3 = s.cur.q3 := rfl
@[simp] theorem State.setReg_cur_ident (s : State) (r : Reg) (v : Word) : (s.setReg r v).cur.ident = s.cur.ident := rfl
@[simp] theorem State.setReg_cur_marks (s : State) (r : Reg) (v : Word) : (s.setReg r v).cur.marks = s.cur.marks := rfl
@[simp] theorem State.setReg_cur_pend (s : State) (r : Reg) (v : Word) : (s.setReg r v).cur.pend = s.cur.pend := rfl
@[simp] theorem State.setReg_cur_ring (s : State) (r : Reg) (v : Word) : (s.setReg r v).cur.ring = s.cur.ring := rfl
@[simp] theorem State.setReg_cur_closed (s : State) (r : Reg) (v : Word) : (s.setReg r v).cur.closed = s.cur.closed := rfl
@[simp] theorem State.setReg_cur_chans (s : State) (r : Reg) (v : Word) : (s.setReg r v).cur.chans = s.cur.chans := rfl
@[simp] theorem State.setReg_cur_barRecs (s : State) (r : Reg) (v : Word) : (s.setReg r v).cur.barRecs = s.cur.barRecs := rfl
@[simp] theorem State.setReg_cur_arrs (s : State) (r : Reg) (v : Word) : (s.setReg r v).cur.arrs = s.cur.arrs := rfl
@[simp] theorem State.setReg_cur_parkSeq (s : State) (r : Reg) (v : Word) : (s.setReg r v).cur.parkSeq = s.cur.parkSeq := rfl
@[simp] theorem State.setReg_cur_parkSlot (s : State) (r : Reg) (v : Word) : (s.setReg r v).cur.parkSlot = s.cur.parkSlot := rfl
@[simp] theorem State.setReg_cur_handed (s : State) (r : Reg) (v : Word) : (s.setReg r v).cur.handed = s.cur.handed := rfl
@[simp] theorem State.setReg_cur_syncWait (s : State) (r : Reg) (v : Word) : (s.setReg r v).cur.syncWait = s.cur.syncWait := rfl
@[simp] theorem State.setReg_cur_deadline (s : State) (r : Reg) (v : Word) : (s.setReg r v).cur.deadline = s.cur.deadline := rfl
@[simp] theorem State.setReg_cur_vq (s : State) (r : Reg) (v : Word) : (s.setReg r v).cur.vq = s.cur.vq := rfl
@[simp] theorem State.setReg_cur_mq (s : State) (r : Reg) (v : Word) : (s.setReg r v).cur.mq = s.cur.mq := rfl
@[simp] theorem State.setReg_cur_vf (s : State) (r : Reg) (v : Word) : (s.setReg r v).cur.vf = s.cur.vf := rfl
@[simp] theorem State.setReg_cur_seqNo (s : State) (r : Reg) (v : Word) : (s.setReg r v).cur.seqNo = s.cur.seqNo := rfl
@[simp] theorem State.setReg_cur_qlog (s : State) (r : Reg) (v : Word) : (s.setReg r v).cur.qlog = s.cur.qlog := rfl
@[simp] theorem State.setReg_cur_mlog (s : State) (r : Reg) (v : Word) : (s.setReg r v).cur.mlog = s.cur.mlog := rfl
@[simp] theorem State.setReg_cur_fences (s : State) (r : Reg) (v : Word) : (s.setReg r v).cur.fences = s.cur.fences := rfl
@[simp] theorem State.setReg_cur_sure (s : State) (r : Reg) (v : Word) : (s.setReg r v).cur.sure = s.cur.sure := rfl
@[simp] theorem State.setReg_cur_wrote (s : State) (r : Reg) (v : Word) : (s.setReg r v).cur.wrote = s.cur.wrote := rfl
@[simp] theorem State.setReg_cur_inStream (s : State) (r : Reg) (v : Word) : (s.setReg r v).cur.inStream = s.cur.inStream := rfl
@[simp] theorem State.setReg_cur_vHold (s : State) (r : Reg) (v : Word) : (s.setReg r v).cur.vHold = s.cur.vHold := rfl
@[simp] theorem State.setReg_cur_mHold (s : State) (r : Reg) (v : Word) : (s.setReg r v).cur.mHold = s.cur.mHold := rfl
@[simp] theorem State.setReg_cur_waiting (s : State) (r : Reg) (v : Word) : (s.setReg r v).cur.waiting = s.cur.waiting := rfl
@[simp] theorem State.setReg_cur_tried (s : State) (r : Reg) (v : Word) : (s.setReg r v).cur.tried = s.cur.tried := rfl
@[simp] theorem State.setReg_cur_saved (s : State) (r : Reg) (v : Word) : (s.setReg r v).cur.saved = s.cur.saved := rfl
@[simp] theorem State.setReg_cur_offer (s : State) (r : Reg) (v : Word) : (s.setReg r v).cur.offer = s.cur.offer := rfl
@[simp] theorem State.setReg_cur_mlines (s : State) (r : Reg) (v : Word) : (s.setReg r v).cur.mlines = s.cur.mlines := rfl
@[simp] theorem State.setReg_cur_tids (s : State) (r : Reg) (v : Word) : (s.setReg r v).cur.tids = s.cur.tids := rfl
@[simp] theorem State.setReg_cur_vat (s : State) (r : Reg) (v : Word) : (s.setReg r v).cur.vat = s.cur.vat := rfl
@[simp] theorem State.setReg_cur_owedMis (s : State) (r : Reg) (v : Word) : (s.setReg r v).cur.owedMis = s.cur.owedMis := rfl
@[simp] theorem State.setReg_cur_note (s : State) (r : Reg) (v : Word) : (s.setReg r v).cur.note = s.cur.note := rfl
@[simp] theorem State.advance_cur_uid (s : State) : (s.advance).cur.uid = s.cur.uid := rfl
@[simp] theorem State.advance_cur_status (s : State) : (s.advance).cur.status = s.cur.status := rfl
@[simp] theorem State.advance_cur_vlg (s : State) : (s.advance).cur.vlg = s.cur.vlg := rfl
@[simp] theorem State.advance_cur_rstix (s : State) : (s.advance).cur.rstix = s.cur.rstix := rfl
@[simp] theorem State.advance_cur_masks (s : State) : (s.advance).cur.masks = s.cur.masks := rfl
@[simp] theorem State.advance_cur_v (s : State) : (s.advance).cur.v = s.cur.v := rfl
@[simp] theorem State.advance_cur_ntiles (s : State) : (s.advance).cur.ntiles = s.cur.ntiles := rfl
@[simp] theorem State.advance_cur_tiles (s : State) : (s.advance).cur.tiles = s.cur.tiles := rfl
@[simp] theorem State.advance_cur_q0 (s : State) : (s.advance).cur.q0 = s.cur.q0 := rfl
@[simp] theorem State.advance_cur_q1 (s : State) : (s.advance).cur.q1 = s.cur.q1 := rfl
@[simp] theorem State.advance_cur_q2 (s : State) : (s.advance).cur.q2 = s.cur.q2 := rfl
@[simp] theorem State.advance_cur_q3 (s : State) : (s.advance).cur.q3 = s.cur.q3 := rfl
@[simp] theorem State.advance_cur_ident (s : State) : (s.advance).cur.ident = s.cur.ident := rfl
@[simp] theorem State.advance_cur_marks (s : State) : (s.advance).cur.marks = s.cur.marks := rfl
@[simp] theorem State.advance_cur_pend (s : State) : (s.advance).cur.pend = s.cur.pend := rfl
@[simp] theorem State.advance_cur_ring (s : State) : (s.advance).cur.ring = s.cur.ring := rfl
@[simp] theorem State.advance_cur_closed (s : State) : (s.advance).cur.closed = s.cur.closed := rfl
@[simp] theorem State.advance_cur_chans (s : State) : (s.advance).cur.chans = s.cur.chans := rfl
@[simp] theorem State.advance_cur_barRecs (s : State) : (s.advance).cur.barRecs = s.cur.barRecs := rfl
@[simp] theorem State.advance_cur_arrs (s : State) : (s.advance).cur.arrs = s.cur.arrs := rfl
@[simp] theorem State.advance_cur_poison (s : State) : (s.advance).cur.poison = s.cur.poison := rfl
@[simp] theorem State.advance_cur_parkSeq (s : State) : (s.advance).cur.parkSeq = s.cur.parkSeq := rfl
@[simp] theorem State.advance_cur_parkSlot (s : State) : (s.advance).cur.parkSlot = s.cur.parkSlot := rfl
@[simp] theorem State.advance_cur_handed (s : State) : (s.advance).cur.handed = s.cur.handed := rfl
@[simp] theorem State.advance_cur_syncWait (s : State) : (s.advance).cur.syncWait = s.cur.syncWait := rfl
@[simp] theorem State.advance_cur_deadline (s : State) : (s.advance).cur.deadline = s.cur.deadline := rfl
@[simp] theorem State.advance_cur_vq (s : State) : (s.advance).cur.vq = s.cur.vq := rfl
@[simp] theorem State.advance_cur_mq (s : State) : (s.advance).cur.mq = s.cur.mq := rfl
@[simp] theorem State.advance_cur_vf (s : State) : (s.advance).cur.vf = s.cur.vf := rfl
@[simp] theorem State.advance_cur_seqNo (s : State) : (s.advance).cur.seqNo = s.cur.seqNo := rfl
@[simp] theorem State.advance_cur_qlog (s : State) : (s.advance).cur.qlog = s.cur.qlog := rfl
@[simp] theorem State.advance_cur_mlog (s : State) : (s.advance).cur.mlog = s.cur.mlog := rfl
@[simp] theorem State.advance_cur_fences (s : State) : (s.advance).cur.fences = s.cur.fences := rfl
@[simp] theorem State.advance_cur_sure (s : State) : (s.advance).cur.sure = s.cur.sure := rfl
@[simp] theorem State.advance_cur_wrote (s : State) : (s.advance).cur.wrote = s.cur.wrote := rfl
@[simp] theorem State.advance_cur_inStream (s : State) : (s.advance).cur.inStream = s.cur.inStream := rfl
@[simp] theorem State.advance_cur_vHold (s : State) : (s.advance).cur.vHold = s.cur.vHold := rfl
@[simp] theorem State.advance_cur_mHold (s : State) : (s.advance).cur.mHold = s.cur.mHold := rfl
@[simp] theorem State.advance_cur_waiting (s : State) : (s.advance).cur.waiting = s.cur.waiting := rfl
@[simp] theorem State.advance_cur_tried (s : State) : (s.advance).cur.tried = s.cur.tried := rfl
@[simp] theorem State.advance_cur_saved (s : State) : (s.advance).cur.saved = s.cur.saved := rfl
@[simp] theorem State.advance_cur_offer (s : State) : (s.advance).cur.offer = s.cur.offer := rfl
@[simp] theorem State.advance_cur_mlines (s : State) : (s.advance).cur.mlines = s.cur.mlines := rfl
@[simp] theorem State.advance_cur_tids (s : State) : (s.advance).cur.tids = s.cur.tids := rfl
@[simp] theorem State.advance_cur_vat (s : State) : (s.advance).cur.vat = s.cur.vat := rfl
@[simp] theorem State.advance_cur_owedMis (s : State) : (s.advance).cur.owedMis = s.cur.owedMis := rfl
@[simp] theorem State.advance_cur_note (s : State) : (s.advance).cur.note = s.cur.note := rfl
@[simp] theorem State.transfer_cur_uid (s : State) (a : Word) : (s.transfer a).cur.uid = s.cur.uid := rfl
@[simp] theorem State.transfer_cur_status (s : State) (a : Word) : (s.transfer a).cur.status = s.cur.status := rfl
@[simp] theorem State.transfer_cur_vlg (s : State) (a : Word) : (s.transfer a).cur.vlg = s.cur.vlg := rfl
@[simp] theorem State.transfer_cur_rstix (s : State) (a : Word) : (s.transfer a).cur.rstix = s.cur.rstix := rfl
@[simp] theorem State.transfer_cur_masks (s : State) (a : Word) : (s.transfer a).cur.masks = s.cur.masks := rfl
@[simp] theorem State.transfer_cur_v (s : State) (a : Word) : (s.transfer a).cur.v = s.cur.v := rfl
@[simp] theorem State.transfer_cur_ntiles (s : State) (a : Word) : (s.transfer a).cur.ntiles = s.cur.ntiles := rfl
@[simp] theorem State.transfer_cur_tiles (s : State) (a : Word) : (s.transfer a).cur.tiles = s.cur.tiles := rfl
@[simp] theorem State.transfer_cur_q0 (s : State) (a : Word) : (s.transfer a).cur.q0 = s.cur.q0 := rfl
@[simp] theorem State.transfer_cur_q1 (s : State) (a : Word) : (s.transfer a).cur.q1 = s.cur.q1 := rfl
@[simp] theorem State.transfer_cur_q2 (s : State) (a : Word) : (s.transfer a).cur.q2 = s.cur.q2 := rfl
@[simp] theorem State.transfer_cur_q3 (s : State) (a : Word) : (s.transfer a).cur.q3 = s.cur.q3 := rfl
@[simp] theorem State.transfer_cur_ident (s : State) (a : Word) : (s.transfer a).cur.ident = s.cur.ident := rfl
@[simp] theorem State.transfer_cur_marks (s : State) (a : Word) : (s.transfer a).cur.marks = s.cur.marks := rfl
@[simp] theorem State.transfer_cur_pend (s : State) (a : Word) : (s.transfer a).cur.pend = s.cur.pend := rfl
@[simp] theorem State.transfer_cur_ring (s : State) (a : Word) : (s.transfer a).cur.ring = s.cur.ring := rfl
@[simp] theorem State.transfer_cur_closed (s : State) (a : Word) : (s.transfer a).cur.closed = s.cur.closed := rfl
@[simp] theorem State.transfer_cur_chans (s : State) (a : Word) : (s.transfer a).cur.chans = s.cur.chans := rfl
@[simp] theorem State.transfer_cur_barRecs (s : State) (a : Word) : (s.transfer a).cur.barRecs = s.cur.barRecs := rfl
@[simp] theorem State.transfer_cur_arrs (s : State) (a : Word) : (s.transfer a).cur.arrs = s.cur.arrs := rfl
@[simp] theorem State.transfer_cur_poison (s : State) (a : Word) : (s.transfer a).cur.poison = s.cur.poison := rfl
@[simp] theorem State.transfer_cur_parkSeq (s : State) (a : Word) : (s.transfer a).cur.parkSeq = s.cur.parkSeq := rfl
@[simp] theorem State.transfer_cur_parkSlot (s : State) (a : Word) : (s.transfer a).cur.parkSlot = s.cur.parkSlot := rfl
@[simp] theorem State.transfer_cur_handed (s : State) (a : Word) : (s.transfer a).cur.handed = s.cur.handed := rfl
@[simp] theorem State.transfer_cur_syncWait (s : State) (a : Word) : (s.transfer a).cur.syncWait = s.cur.syncWait := rfl
@[simp] theorem State.transfer_cur_deadline (s : State) (a : Word) : (s.transfer a).cur.deadline = s.cur.deadline := rfl
@[simp] theorem State.transfer_cur_vq (s : State) (a : Word) : (s.transfer a).cur.vq = s.cur.vq := rfl
@[simp] theorem State.transfer_cur_mq (s : State) (a : Word) : (s.transfer a).cur.mq = s.cur.mq := rfl
@[simp] theorem State.transfer_cur_vf (s : State) (a : Word) : (s.transfer a).cur.vf = s.cur.vf := rfl
@[simp] theorem State.transfer_cur_seqNo (s : State) (a : Word) : (s.transfer a).cur.seqNo = s.cur.seqNo := rfl
@[simp] theorem State.transfer_cur_qlog (s : State) (a : Word) : (s.transfer a).cur.qlog = s.cur.qlog := rfl
@[simp] theorem State.transfer_cur_mlog (s : State) (a : Word) : (s.transfer a).cur.mlog = s.cur.mlog := rfl
@[simp] theorem State.transfer_cur_fences (s : State) (a : Word) : (s.transfer a).cur.fences = s.cur.fences := rfl
@[simp] theorem State.transfer_cur_sure (s : State) (a : Word) : (s.transfer a).cur.sure = s.cur.sure := rfl
@[simp] theorem State.transfer_cur_wrote (s : State) (a : Word) : (s.transfer a).cur.wrote = s.cur.wrote := rfl
@[simp] theorem State.transfer_cur_inStream (s : State) (a : Word) : (s.transfer a).cur.inStream = s.cur.inStream := rfl
@[simp] theorem State.transfer_cur_vHold (s : State) (a : Word) : (s.transfer a).cur.vHold = s.cur.vHold := rfl
@[simp] theorem State.transfer_cur_mHold (s : State) (a : Word) : (s.transfer a).cur.mHold = s.cur.mHold := rfl
@[simp] theorem State.transfer_cur_waiting (s : State) (a : Word) : (s.transfer a).cur.waiting = s.cur.waiting := rfl
@[simp] theorem State.transfer_cur_tried (s : State) (a : Word) : (s.transfer a).cur.tried = s.cur.tried := rfl
@[simp] theorem State.transfer_cur_saved (s : State) (a : Word) : (s.transfer a).cur.saved = s.cur.saved := rfl
@[simp] theorem State.transfer_cur_offer (s : State) (a : Word) : (s.transfer a).cur.offer = s.cur.offer := rfl
@[simp] theorem State.transfer_cur_mlines (s : State) (a : Word) : (s.transfer a).cur.mlines = s.cur.mlines := rfl
@[simp] theorem State.transfer_cur_tids (s : State) (a : Word) : (s.transfer a).cur.tids = s.cur.tids := rfl
@[simp] theorem State.transfer_cur_vat (s : State) (a : Word) : (s.transfer a).cur.vat = s.cur.vat := rfl
@[simp] theorem State.transfer_cur_owedMis (s : State) (a : Word) : (s.transfer a).cur.owedMis = s.cur.owedMis := rfl
@[simp] theorem State.transfer_cur_note (s : State) (a : Word) : (s.transfer a).cur.note = s.cur.note := rfl

/-! ### Fields of the scalar state -/

@[simp] theorem Scalar.setReg_pc (c : Scalar) (r : Reg) (v : Word) : (c.setReg r v).pc = c.pc := by
  unfold Scalar.setReg; split <;> rfl
@[simp] theorem Scalar.setReg_mode (c : Scalar) (r : Reg) (v : Word) : (c.setReg r v).mode = c.mode := by
  unfold Scalar.setReg; split <;> rfl
@[simp] theorem Scalar.setReg_fpen (c : Scalar) (r : Reg) (v : Word) : (c.setReg r v).fpen = c.fpen := by
  unfold Scalar.setReg; split <;> rfl
@[simp] theorem Scalar.setReg_tnest (c : Scalar) (r : Reg) (v : Word) : (c.setReg r v).tnest = c.tnest := by
  unfold Scalar.setReg; split <;> rfl
@[simp] theorem Scalar.setReg_prv (c : Scalar) (r : Reg) (v : Word) : (c.setReg r v).prv = c.prv := by
  unfold Scalar.setReg; split <;> rfl
@[simp] theorem Scalar.setReg_rolled (c : Scalar) (r : Reg) (v : Word) : (c.setReg r v).rolled = c.rolled := by
  unfold Scalar.setReg; split <;> rfl
@[simp] theorem Scalar.setReg_vlcut (c : Scalar) (r : Reg) (v : Word) : (c.setReg r v).vlcut = c.vlcut := by
  unfold Scalar.setReg; split <;> rfl
@[simp] theorem Scalar.setReg_nr (c : Scalar) (r : Reg) (v : Word) : (c.setReg r v).nr = c.nr := by
  unfold Scalar.setReg; split <;> rfl
@[simp] theorem Scalar.setReg_prot (c : Scalar) (r : Reg) (v : Word) : (c.setReg r v).prot = c.prot := by
  unfold Scalar.setReg; split <;> rfl
@[simp] theorem Scalar.setReg_lcnt0 (c : Scalar) (r : Reg) (v : Word) : (c.setReg r v).lcnt0 = c.lcnt0 := by
  unfold Scalar.setReg; split <;> rfl
@[simp] theorem Scalar.setReg_lend0 (c : Scalar) (r : Reg) (v : Word) : (c.setReg r v).lend0 = c.lend0 := by
  unfold Scalar.setReg; split <;> rfl
@[simp] theorem Scalar.setReg_lcnt1 (c : Scalar) (r : Reg) (v : Word) : (c.setReg r v).lcnt1 = c.lcnt1 := by
  unfold Scalar.setReg; split <;> rfl
@[simp] theorem Scalar.setReg_lend1 (c : Scalar) (r : Reg) (v : Word) : (c.setReg r v).lend1 = c.lend1 := by
  unfold Scalar.setReg; split <;> rfl
@[simp] theorem Scalar.setReg_flags (c : Scalar) (r : Reg) (v : Word) : (c.setReg r v).flags = c.flags := by
  unfold Scalar.setReg; split <;> rfl
@[simp] theorem Scalar.setReg_seed (c : Scalar) (r : Reg) (v : Word) : (c.setReg r v).seed = c.seed := by
  unfold Scalar.setReg; split <;> rfl
@[simp] theorem Scalar.setReg_vlc (c : Scalar) (r : Reg) (v : Word) : (c.setReg r v).vlc = c.vlc := by
  unfold Scalar.setReg; split <;> rfl
@[simp] theorem Scalar.setReg_epc (c : Scalar) (r : Reg) (v : Word) : (c.setReg r v).epc = c.epc := by
  unfold Scalar.setReg; split <;> rfl
@[simp] theorem Scalar.setReg_ecause (c : Scalar) (r : Reg) (v : Word) : (c.setReg r v).ecause = c.ecause := by
  unfold Scalar.setReg; split <;> rfl
@[simp] theorem Scalar.setReg_eval (c : Scalar) (r : Reg) (v : Word) : (c.setReg r v).eval = c.eval := by
  unfold Scalar.setReg; split <;> rfl
@[simp] theorem Scalar.setReg_einfo (c : Scalar) (r : Reg) (v : Word) : (c.setReg r v).einfo = c.einfo := by
  unfold Scalar.setReg; split <;> rfl
@[simp] theorem Scalar.setReg_turnprg (c : Scalar) (r : Reg) (v : Word) : (c.setReg r v).turnprg = c.turnprg := by
  unfold Scalar.setReg; split <;> rfl
@[simp] theorem Scalar.setReg_trbase (c : Scalar) (r : Reg) (v : Word) : (c.setReg r v).trbase = c.trbase := by
  unfold Scalar.setReg; split <;> rfl
@[simp] theorem Scalar.setReg_esave (c : Scalar) (r : Reg) (v : Word) : (c.setReg r v).esave = c.esave := by
  unfold Scalar.setReg; split <;> rfl
@[simp] theorem Scalar.setReg_tshape (c : Scalar) (r : Reg) (v : Word) : (c.setReg r v).tshape = c.tshape := by
  unfold Scalar.setReg; split <;> rfl
@[simp] theorem Scalar.setReg_scopectl (c : Scalar) (r : Reg) (v : Word) : (c.setReg r v).scopectl = c.scopectl := by
  unfold Scalar.setReg; split <;> rfl
@[simp] theorem Scalar.setReg_scopelog (c : Scalar) (r : Reg) (v : Word) : (c.setReg r v).scopelog = c.scopelog := by
  unfold Scalar.setReg; split <;> rfl
@[simp] theorem Scalar.setReg_retHit (c : Scalar) (r : Reg) (v : Word) : (c.setReg r v).retHit = c.retHit := by
  unfold Scalar.setReg; split <;> rfl
@[simp] theorem Scalar.setReg_retMiss (c : Scalar) (r : Reg) (v : Word) : (c.setReg r v).retMiss = c.retMiss := by
  unfold Scalar.setReg; split <;> rfl
@[simp] theorem Scalar.setReg_retOvf (c : Scalar) (r : Reg) (v : Word) : (c.setReg r v).retOvf = c.retOvf := by
  unfold Scalar.setReg; split <;> rfl
@[simp] theorem Scalar.setReg_l2Hit (c : Scalar) (r : Reg) (v : Word) : (c.setReg r v).l2Hit = c.l2Hit := by
  unfold Scalar.setReg; split <;> rfl
@[simp] theorem Scalar.setReg_l2Miss (c : Scalar) (r : Reg) (v : Word) : (c.setReg r v).l2Miss = c.l2Miss := by
  unfold Scalar.setReg; split <;> rfl
@[simp] theorem Scalar.setReg_busy (c : Scalar) (r : Reg) (v : Word) : (c.setReg r v).busy = c.busy := by
  unfold Scalar.setReg; split <;> rfl
@[simp] theorem Scalar.setReg_busyAddr (c : Scalar) (r : Reg) (v : Word) : (c.setReg r v).busyAddr = c.busyAddr := by
  unfold Scalar.setReg; split <;> rfl
@[simp] theorem Scalar.setReg_icount (c : Scalar) (r : Reg) (v : Word) : (c.setReg r v).icount = c.icount := by
  unfold Scalar.setReg; split <;> rfl
@[simp] theorem Scalar.advance_regs (c : Scalar) : c.advance.regs = c.regs := rfl
@[simp] theorem Scalar.advance_mode (c : Scalar) : c.advance.mode = c.mode := rfl
@[simp] theorem Scalar.advance_fpen (c : Scalar) : c.advance.fpen = c.fpen := rfl
@[simp] theorem Scalar.advance_tnest (c : Scalar) : c.advance.tnest = c.tnest := rfl
@[simp] theorem Scalar.advance_prv (c : Scalar) : c.advance.prv = c.prv := rfl
@[simp] theorem Scalar.advance_rolled (c : Scalar) : c.advance.rolled = c.rolled := rfl
@[simp] theorem Scalar.advance_vlcut (c : Scalar) : c.advance.vlcut = c.vlcut := rfl
@[simp] theorem Scalar.advance_nr (c : Scalar) : c.advance.nr = c.nr := rfl
@[simp] theorem Scalar.advance_prot (c : Scalar) : c.advance.prot = c.prot := rfl
@[simp] theorem Scalar.advance_lend0 (c : Scalar) : c.advance.lend0 = c.lend0 := rfl
@[simp] theorem Scalar.advance_lend1 (c : Scalar) : c.advance.lend1 = c.lend1 := rfl
@[simp] theorem Scalar.advance_flags (c : Scalar) : c.advance.flags = c.flags := rfl
@[simp] theorem Scalar.advance_seed (c : Scalar) : c.advance.seed = c.seed := rfl
@[simp] theorem Scalar.advance_vlc (c : Scalar) : c.advance.vlc = c.vlc := rfl
@[simp] theorem Scalar.advance_epc (c : Scalar) : c.advance.epc = c.epc := rfl
@[simp] theorem Scalar.advance_ecause (c : Scalar) : c.advance.ecause = c.ecause := rfl
@[simp] theorem Scalar.advance_eval (c : Scalar) : c.advance.eval = c.eval := rfl
@[simp] theorem Scalar.advance_einfo (c : Scalar) : c.advance.einfo = c.einfo := rfl
@[simp] theorem Scalar.advance_turnprg (c : Scalar) : c.advance.turnprg = c.turnprg := rfl
@[simp] theorem Scalar.advance_trbase (c : Scalar) : c.advance.trbase = c.trbase := rfl
@[simp] theorem Scalar.advance_esave (c : Scalar) : c.advance.esave = c.esave := rfl
@[simp] theorem Scalar.advance_tshape (c : Scalar) : c.advance.tshape = c.tshape := rfl
@[simp] theorem Scalar.advance_scopectl (c : Scalar) : c.advance.scopectl = c.scopectl := rfl
@[simp] theorem Scalar.advance_scopelog (c : Scalar) : c.advance.scopelog = c.scopelog := rfl
@[simp] theorem Scalar.advance_retHit (c : Scalar) : c.advance.retHit = c.retHit := rfl
@[simp] theorem Scalar.advance_retMiss (c : Scalar) : c.advance.retMiss = c.retMiss := rfl
@[simp] theorem Scalar.advance_retOvf (c : Scalar) : c.advance.retOvf = c.retOvf := rfl
@[simp] theorem Scalar.advance_l2Hit (c : Scalar) : c.advance.l2Hit = c.l2Hit := rfl
@[simp] theorem Scalar.advance_l2Miss (c : Scalar) : c.advance.l2Miss = c.l2Miss := rfl
@[simp] theorem Scalar.advance_busy (c : Scalar) : c.advance.busy = c.busy := rfl
@[simp] theorem Scalar.advance_busyAddr (c : Scalar) : c.advance.busyAddr = c.busyAddr := rfl
@[simp] theorem Scalar.transfer_regs (c : Scalar) (a : Word) : (c.transfer a).regs = c.regs := rfl
@[simp] theorem Scalar.transfer_mode (c : Scalar) (a : Word) : (c.transfer a).mode = c.mode := rfl
@[simp] theorem Scalar.transfer_fpen (c : Scalar) (a : Word) : (c.transfer a).fpen = c.fpen := rfl
@[simp] theorem Scalar.transfer_tnest (c : Scalar) (a : Word) : (c.transfer a).tnest = c.tnest := rfl
@[simp] theorem Scalar.transfer_prv (c : Scalar) (a : Word) : (c.transfer a).prv = c.prv := rfl
@[simp] theorem Scalar.transfer_rolled (c : Scalar) (a : Word) : (c.transfer a).rolled = c.rolled := rfl
@[simp] theorem Scalar.transfer_vlcut (c : Scalar) (a : Word) : (c.transfer a).vlcut = c.vlcut := rfl
@[simp] theorem Scalar.transfer_nr (c : Scalar) (a : Word) : (c.transfer a).nr = c.nr := rfl
@[simp] theorem Scalar.transfer_prot (c : Scalar) (a : Word) : (c.transfer a).prot = c.prot := rfl
@[simp] theorem Scalar.transfer_lend0 (c : Scalar) (a : Word) : (c.transfer a).lend0 = c.lend0 := rfl
@[simp] theorem Scalar.transfer_lend1 (c : Scalar) (a : Word) : (c.transfer a).lend1 = c.lend1 := rfl
@[simp] theorem Scalar.transfer_flags (c : Scalar) (a : Word) : (c.transfer a).flags = c.flags := rfl
@[simp] theorem Scalar.transfer_seed (c : Scalar) (a : Word) : (c.transfer a).seed = c.seed := rfl
@[simp] theorem Scalar.transfer_vlc (c : Scalar) (a : Word) : (c.transfer a).vlc = c.vlc := rfl
@[simp] theorem Scalar.transfer_epc (c : Scalar) (a : Word) : (c.transfer a).epc = c.epc := rfl
@[simp] theorem Scalar.transfer_ecause (c : Scalar) (a : Word) : (c.transfer a).ecause = c.ecause := rfl
@[simp] theorem Scalar.transfer_eval (c : Scalar) (a : Word) : (c.transfer a).eval = c.eval := rfl
@[simp] theorem Scalar.transfer_einfo (c : Scalar) (a : Word) : (c.transfer a).einfo = c.einfo := rfl
@[simp] theorem Scalar.transfer_turnprg (c : Scalar) (a : Word) : (c.transfer a).turnprg = c.turnprg := rfl
@[simp] theorem Scalar.transfer_trbase (c : Scalar) (a : Word) : (c.transfer a).trbase = c.trbase := rfl
@[simp] theorem Scalar.transfer_esave (c : Scalar) (a : Word) : (c.transfer a).esave = c.esave := rfl
@[simp] theorem Scalar.transfer_tshape (c : Scalar) (a : Word) : (c.transfer a).tshape = c.tshape := rfl
@[simp] theorem Scalar.transfer_scopectl (c : Scalar) (a : Word) : (c.transfer a).scopectl = c.scopectl := rfl
@[simp] theorem Scalar.transfer_scopelog (c : Scalar) (a : Word) : (c.transfer a).scopelog = c.scopelog := rfl
@[simp] theorem Scalar.transfer_retHit (c : Scalar) (a : Word) : (c.transfer a).retHit = c.retHit := rfl
@[simp] theorem Scalar.transfer_retMiss (c : Scalar) (a : Word) : (c.transfer a).retMiss = c.retMiss := rfl
@[simp] theorem Scalar.transfer_retOvf (c : Scalar) (a : Word) : (c.transfer a).retOvf = c.retOvf := rfl
@[simp] theorem Scalar.transfer_l2Hit (c : Scalar) (a : Word) : (c.transfer a).l2Hit = c.l2Hit := rfl
@[simp] theorem Scalar.transfer_l2Miss (c : Scalar) (a : Word) : (c.transfer a).l2Miss = c.l2Miss := rfl
@[simp] theorem Scalar.transfer_busy (c : Scalar) (a : Word) : (c.transfer a).busy = c.busy := rfl
@[simp] theorem Scalar.transfer_busyAddr (c : Scalar) (a : Word) : (c.transfer a).busyAddr = c.busyAddr := rfl
@[simp] theorem Scalar.transfer_pc (c : Scalar) (a : Word) : (c.transfer a).pc = a := rfl
@[simp] theorem Scalar.advance_icount (c : Scalar) : c.advance.icount = c.icount + 1 := rfl
@[simp] theorem Scalar.transfer_icount (c : Scalar) (a : Word) : (c.transfer a).icount = c.icount + 1 := rfl

/-! ### Scalar registers -/

@[simp] theorem Scalar.reg_zero (c : Scalar) : c.reg 0 = 0 := rfl
@[simp] theorem Scalar.setReg_zero (c : Scalar) (v : Word) : c.setReg 0 v = c := rfl

/-- A register other than s0 reads as what was written. -/
theorem Scalar.reg_setReg_same {r : Reg} (h : r ≠ 0) (c : Scalar) (v : Word) : (c.setReg r v).reg r = v := by
  unfold Scalar.reg Scalar.setReg
  rw [if_neg h, if_neg h]
  exact Vector.getElem_set_self r.isLt

/-- Every other register reads as before. -/
theorem Scalar.reg_setReg_ne {q r : Reg} (h : q ≠ r) (c : Scalar) (v : Word) : (c.setReg r v).reg q = c.reg q := by
  unfold Scalar.reg Scalar.setReg
  split
  · rfl
  · split
    · rfl
    · exact Vector.getElem_set_ne r.isLt q.isLt (fun e => h (BitVec.eq_of_toNat_eq e.symm))

theorem State.reg_setReg_ne {q r : Reg} (h : q ≠ r) (s : State) (v : Word) : (s.setReg r v).reg q = s.reg q :=
  Scalar.reg_setReg_ne h s.cur.sc v

@[simp] theorem State.reg_advance (s : State) (r : Reg) : s.advance.reg r = s.reg r := rfl
@[simp] theorem State.reg_transfer (s : State) (a : Word) (r : Reg) : (s.transfer a).reg r = s.reg r := rfl

end Sys2Proof.Machine
end

