-- ==== Sys2Proof/Laws/Ops.lean ====
section
/-! SUPPORT. What each shared operation does: binds, register operands, how an instruction ends, and what a quiet strand does
when it stops. -/

namespace Sys2Proof.Machine

/-! ### Binds -/

theorem bind_ok {α β : Type} {m : M α} {f : α → M β} {s t : State} {x : α} (h : m s = .ok x t) :
    (m >>= f) s = f x t := by simp only [bind, EStateM.bind, h]

theorem bind_error {α β : Type} {m : M α} {f : α → M β} {s t : State} {e : Stop} (h : m s = .error e t) :
    (m >>= f) s = .error e t := by simp only [bind, EStateM.bind, h]

/-- A bind that completes did so in two parts. -/
theorem bind_eq_ok {α β : Type} {m : M α} {f : α → M β} {s u : State} {y : β} (h : (m >>= f) s = .ok y u) :
    ∃ x t, m s = .ok x t ∧ f x t = .ok y u := by
  cases hm : m s with
  | ok x t => exact ⟨x, t, rfl, by rwa [bind_ok hm] at h⟩
  | error e t => rw [bind_error hm] at h; cases h

@[simp] theorem pure_run {α : Type} (x : α) (s : State) : (pure x : M α) s = .ok x s := rfl
@[simp] theorem get_run (s : State) : (get : M State) s = .ok s s := rfl
@[simp] theorem set_run (s t : State) : (set t : M PUnit) s = .ok ⟨⟩ t := rfl
@[simp] theorem modify_run (f : State → State) (s : State) : (modify f : M PUnit) s = .ok ⟨⟩ (f s) := rfl
@[simp] theorem throw_run {α : Type} (e : Stop) (s : State) : (throw e : M α) s = .error e s := rfl
@[simp] theorem block_run {α : Type} (s : State) : (block : M α) s = .error .wait s := rfl
@[simp] theorem raise_run {α : Type} (c : Nat) (v : Word) (s : State) :
    (raise c v : M α) s = .error (.trap ⟨c, v, 0, 0, 15, false⟩) s := rfl
@[simp] theorem raiseAt_run {α : Type} (c : Nat) (v i : Word) (r : Nat) (s : State) :
    (raiseAt c v i r : M α) s = .error (.trap ⟨c, v, i, r, 15, false⟩) s := rfl
@[simp] theorem wr_run (r : Reg) (v : Word) (s : State) : wr r v s = .ok () (s.setReg r v) := rfl
@[simp] theorem modSc_run (f : Scalar → Scalar) (s : State) : modSc f s = .ok () (s.modSc f) := rfl
@[simp] theorem modCur_run (f : Strand → Strand) (s : State) : modCur f s = .ok () (s.modCur f) := rfl

/-! ### Register operands -/

theorem rd_of_readable {s : State} {r : Reg} (h : s.readable r) : rd r s = .ok (s.reg r) s := by
  obtain ⟨h1, h2⟩ := h
  unfold rd
  rw [bind_ok (get_run s)]
  simp [h1, h2]

theorem ready_of_writable {s : State} {r : Reg} (h : s.writable r) : ready r s = .ok () s := by
  have h1 : s.owed r = false := h
  unfold ready
  rw [bind_ok (get_run s)]
  simp [h1]

/-- Reading a register changes nothing: it gives the value, or waits, or raises POISON with the register's number (R397). -/
theorem rd_cases (r : Reg) (s : State) :
    rd r s = .ok (s.reg r) s ∨ rd r s = .error .wait s ∨
    (s.clean r = false ∧ rd r s = .error (.trap ⟨cPOISON, BitVec.ofNat 64 r.toNat, 0, 0, 15, false⟩) s) := by
  unfold rd
  rw [bind_ok (get_run s)]
  by_cases h1 : s.owed r = true
  · simp [h1]
  · by_cases h2 : s.clean r = true
    · simp [h1, h2]
    · simp [h1, h2]

/-! ### A quiet strand -/

theorem State.Quiet.owed {s : State} (h : s.Quiet) (r : Reg) : s.owed r = false := by
  simp [State.owed, h.2.1]

theorem State.Quiet.clean {s : State} (h : s.Quiet) (r : Reg) : s.clean r = true := by
  simp [State.clean, h.2.2.2.2.2.2.1]

theorem State.Quiet.readable {s : State} (h : s.Quiet) (r : Reg) : s.readable r := ⟨h.owed r, h.clean r⟩

theorem State.Quiet.writable {s : State} (h : s.Quiet) (r : Reg) : s.writable r := h.owed r

theorem State.Quiet.headEntry {s : State} (h : s.Quiet) : s.headEntry = none := by
  simp [State.headEntry, h.1]

theorem State.Quiet.mayStop {s : State} (h : s.Quiet) : s.cur.mayStop = true := by
  simp [Strand.mayStop, h.2.1, h.2.2.1]

theorem State.Quiet.closed {s : State} (h : s.Quiet) : s.cur.closed = [] := h.2.2.2.2.2.2.2.1

theorem State.Quiet.notAhead {s : State} (h : s.Quiet) : s.isAhead s.cur.uid = false := h.2.2.2.2.2.2.2.2.2.1

theorem Strand.fenced_of_all {x : Strand} (h : x.fenced true true true = false) (l t e : Bool) : x.fenced l t e = false := by
  simp only [Strand.fenced, List.any_eq_false, Bool.and_eq_true, not_and] at h ⊢
  intro f hf ha hb
  refine h f hf ha ?_
  rcases f with ⟨k, n⟩
  revert hb
  split <;> simp_all

theorem State.Quiet.fenced {s : State} (h : s.Quiet) (l t e : Bool) : s.cur.fenced l t e = false :=
  Strand.fenced_of_all h.2.2.2.2.2.2.2.2.1 l t e

theorem State.Quiet.loadWaits {s : State} (h : s.Quiet) : s.cur.loadWaits = false := by
  simp [Strand.loadWaits, h.2.1, h.2.2.1, h.fenced]

theorem State.Quiet.notEnding {s : State} (h : s.Quiet) : s.cur.status ≠ .ending := h.2.2.2.2.2.2.2.2.2.2

/-- A quiet strand takes a trap at once (R393, R394). -/
theorem State.Quiet.stopped_trap {s : State} (h : s.Quiet) (t : Trap) : s.stopped (.trap t) = s.trapEntry t := by
  simp [State.stopped, h.headEntry, h.notEnding]

/-- A quiet strand parks at once (R401). -/
theorem State.Quiet.stopped_park {s : State} (h : s.Quiet) (va : Word) (k : Nat) (w : Bool) (r : Nat) (e : Bool) :
    s.stopped (.park va k w r e) = s.park va k w r e := by
  simp [State.stopped, h.headEntry, h.notEnding]

/-- Nothing holds a quiet strand's trap or park back (R333, R394). -/
theorem State.Quiet.holdsBack {s : State} (h : s.Quiet) (e : Stop) : s.holdsBack e = false := by
  cases e <;> simp [State.holdsBack, h.headEntry, h.mayStop, h.notAhead]

/-! ### How an instruction ends -/

theorem finish_adv {m : M Done} {s t : State} (h : m s = .ok .adv t) : finish m s = .next t.advance := by
  simp only [finish, h]

theorem finish_jump {m : M Done} {s t : State} {a : Word} (h : m s = .ok (.jump a) t) : finish m s = .next (t.transfer a) := by
  simp only [finish, h]

theorem finish_stay {m : M Done} {s t : State} (h : m s = .ok .stay t) : finish m s = .next t := by
  simp only [finish, h]

theorem finish_error {m : M Done} {s t : State} {e : Stop} (h : m s = .error e t) : finish m s = .next (s.stopFrom t e) := by
  simp only [finish, h]

/-- A quiet strand's instruction that raises a cause takes the trap. -/
theorem finish_trap {m : M Done} {s u : State} {t : Trap} (h : m s = .error (.trap t) u) (hq : u.Quiet) :
    finish m s = .next (u.trapEntry t) := by
  rw [finish_error h, State.stopFrom, hq.holdsBack]
  simp [hq.stopped_trap]

/-- `finishK` ends an instruction that completes as `finish` does. -/
theorem finishK_ok {k : Nat} {w : Bool} {m : M Done} {s t : State} {d : Done} (h : m s = .ok d t) :
    finishK k w m s = finish m s := by
  simp only [finishK, finish, h]

/-- Every instruction ends in a next state. -/
theorem finish_next (m : M Done) (s : State) : ∃ t, finish m s = .next t := by
  unfold finish
  split <;> exact ⟨_, rfl⟩

theorem finishK_next (k : Nat) (w : Bool) (m : M Done) (s : State) : ∃ t, finishK k w m s = .next t := finish_next _ s

theorem event_next (f : State → State) (s : State) : ∃ t, event f s = .next t := ⟨_, rfl⟩

/-! ### Shapes of the scalar forms -/

theorem alu2_run {s : State} {d a b : Reg} (f : Word → Word → Word) (ha : s.readable a) (hb : s.readable b)
    (hd : s.writable d) : alu2 d a b f s = .ok .adv (s.setReg d (f (s.reg a) (s.reg b))) := by
  unfold alu2
  rw [bind_ok (rd_of_readable ha), bind_ok (rd_of_readable hb), bind_ok (ready_of_writable hd), bind_ok (wr_run _ _ _)]
  rfl

theorem alu1_run {s : State} {d a : Reg} (f : Word → Word) (ha : s.readable a) (hd : s.writable d) :
    alu1 d a f s = .ok .adv (s.setReg d (f (s.reg a))) := by
  unfold alu1
  rw [bind_ok (rd_of_readable ha), bind_ok (ready_of_writable hd), bind_ok (wr_run _ _ _)]
  rfl

theorem branch_run {s : State} {a b : Reg} (o : BitVec 12) (p : Word → Word → Bool) (ha : s.readable a) (hb : s.readable b) :
    branch a b o p s = .ok (if p (s.reg a) (s.reg b) then .jump (s.cur.sc.pc + (o.signExtend 64 <<< 2)) else .adv) s := by
  unfold branch
  rw [bind_ok (rd_of_readable ha), bind_ok (rd_of_readable hb)]
  rfl

/-! ### Trap entry -/

/-- A trap that has a handler is entered, and what it leaves alone (R393). -/
theorem trapEntry_eq {s : State} (t : Trap) (h1 : s.cur.sc.tnest ≠ 3) (h2 : s.cur.sc.trbase ≠ 0) :
    (s.trapEntry t).cur.sc = s.cur.sc.enter t ∧ (s.trapEntry t).mem = s.mem ∧ (s.trapEntry t).quad = s.quad := by
  unfold State.trapEntry
  rw [if_neg (not_or.2 ⟨h1, h2⟩)]
  exact ⟨rfl, rfl, rfl⟩

@[simp] theorem Scalar.enter_regs (c : Scalar) (t : Trap) : (c.enter t).regs = c.regs := rfl
@[simp] theorem Scalar.enter_flags (c : Scalar) (t : Trap) : (c.enter t).flags = c.flags := rfl
@[simp] theorem Scalar.enter_mode (c : Scalar) (t : Trap) : (c.enter t).mode = modeReset := rfl
@[simp] theorem Scalar.enter_pc (c : Scalar) (t : Trap) : (c.enter t).pc = c.trbase := rfl
@[simp] theorem Scalar.enter_epc (c : Scalar) (t : Trap) : (c.enter t).epc = c.pc := rfl

/-! ### Instructions of the vector stream -/

/-- With no closed ring nothing is given back (R181). -/
theorem Strand.openRings_nil {x : Strand} (h : x.closed = []) (n : Nat) : x.openRings n = x := by
  cases x
  simp_all [Strand.openRings]

/-- The restart element of an instruction that completes is of no account (R396). -/
theorem aboveStart_ok {α : Type} {i : Instr} {m : M α} {s t : State} {x : α} (h : m s = .ok x t) :
    aboveStart i m s = .ok x t := by
  unfold aboveStart
  rw [h]

/-- With empty streams and nothing to wait for, an instruction of the vector stream is checked and run as it is passed. -/
theorem vecInstr_run {s : State} {i : Instr} {check run : M Unit} {n : State → Nat} {t u : State}
    (h0 : s.cur.inStream = 0) (hv : s.cur.vq = []) (hm : s.cur.mq = []) (hh : s.cur.vHold = false)
    (hb : vBlock s.cur i = .no) (hx : s.cur.closed = []) (hc : check s = .ok () t) (hr : run (t.modCur (fun x => { x with wrote := [] })) = .ok () u) (hu : u.cur.inStream = 0) :
    vecInstr i check n run s =
      .ok .adv ((u.modSc (fun c => { c with seed := (draws (n s) c.seed).2 })).modCur (fun x => { x with rstix := 0 })) := by
  have hm' : s.modCur (fun x => x.openRings x.seqNo) = s := by
    simp only [State.modCur, Strand.openRings_nil hx]
  have hp : (do modCur (fun x => x.openRings x.seqNo); check) s = .ok () t := by
    rw [bind_ok (modCur_run _ _), hm', hc]
  unfold vecInstr
  refine aboveStart_ok ?_
  rw [bind_ok (get_run s)]
  have : ¬ (decide (s.cur.inStream = 0) && (!s.cur.vq.isEmpty || s.cur.vHold || vBlock s.cur i != .no || !s.cur.mq.isEmpty)) = true := by
    simp [h0, hv, hm, hh, hb]
  rw [if_neg this]
  simp only [h0, if_true]
  rw [bind_ok hp, bind_ok (modCur_run _ _), bind_ok hr]
  have he : endDraws (n s) u = .ok () (u.modSc (fun c => { c with seed := (draws (n s) c.seed).2 })) := by
    unfold endDraws
    rw [bind_ok (get_run u)]
    simp [hu]
  rw [bind_ok he, bind_ok (modCur_run _ _)]
  unfold streamDone
  rw [bind_ok (get_run _)]
  simp [hu, State.modSc, State.modCur]

end Sys2Proof.Machine
end

