-- ==== Sys2Proof/Laws/Keeps.lean ====
section
/-! SUPPORT. How an invariant of the state passes through a meaning: whatever way a meaning ends, the state it leaves keeps it. -/

namespace Sys2Proof.Machine

/-- However `m` ends from a state that meets P, it leaves a state that meets P. -/
def Keeps {α : Type} (P : State → Prop) (m : M α) : Prop :=
  ∀ s, P s → match m s with
    | .ok _ t => P t
    | .error _ t => P t

theorem keeps_pure {α : Type} {P : State → Prop} (x : α) : Keeps P (pure x : M α) := fun _ h => h
theorem keeps_throw {α : Type} {P : State → Prop} (e : Stop) : Keeps P (throw e : M α) := fun _ h => h
theorem keeps_get {P : State → Prop} : Keeps P (get : M State) := fun _ h => h
theorem keeps_set {P : State → Prop} {t : State} (h : P t) : Keeps P (set t : M PUnit) := fun _ _ => h
theorem keeps_modify {P : State → Prop} {f : State → State} (h : ∀ s, P s → P (f s)) : Keeps P (modify f : M PUnit) := h
theorem keeps_block {α : Type} {P : State → Prop} : Keeps P (block : M α) := fun _ h => h
theorem keeps_raise {α : Type} {P : State → Prop} (c : Nat) (v : Word) : Keeps P (raise c v : M α) := fun _ h => h
theorem keeps_raiseAt {α : Type} {P : State → Prop} (c : Nat) (v i : Word) (r : Nat) : Keeps P (raiseAt c v i r : M α) :=
  fun _ h => h

theorem keeps_bind {α β : Type} {P : State → Prop} {m : M α} {f : α → M β} (hm : Keeps P m) (hf : ∀ x, Keeps P (f x)) :
    Keeps P (m >>= f) := by
  intro s h
  have h1 := hm s h
  cases e : m s with
  | ok x t =>
    rw [e] at h1
    rw [bind_ok e]
    exact hf x t h1
  | error x t =>
    rw [e] at h1
    rw [bind_error e]
    exact h1

/-- A read of the state, with what is known of the state it gives. -/
theorem keeps_get_bind {β : Type} {P : State → Prop} {f : State → M β}
    (hf : ∀ s, P s → match f s s with | .ok _ t => P t | .error _ t => P t) : Keeps P (get >>= f) := by
  intro s h
  rw [bind_ok (get_run s)]
  exact hf s h

theorem keeps_ite {α : Type} {P : State → Prop} {c : Prop} [Decidable c] {m n : M α} (hm : Keeps P m) (hn : Keeps P n) :
    Keeps P (if c then m else n) := by
  split
  · exact hm
  · exact hn

theorem keeps_forM {α : Type} {P : State → Prop} {f : α → M PUnit} (hf : ∀ x, Keeps P (f x)) :
    ∀ l : List α, Keeps P (l.forM f)
  | [] => keeps_pure _
  | x :: r => keeps_bind (hf x) (fun _ => keeps_forM hf r)

/-- An instruction that ends in any way keeps P, when its meaning, the ways it can complete and stopping keep it. -/
theorem keeps_finish {P : State → Prop} {m : M Done} (hm : Keeps P m) (ha : ∀ s, P s → P s.advance)
    (hj : ∀ s a, P s → P (s.transfer a))
    (hg : ∀ s a, P s → P (s.modSc (fun c => { c with pc := a, icount := c.icount + 1 })))
    (hs : ∀ s e, P s → P (s.stopped e)) (hw : ∀ s, P s → P s.setWaiting) {s t : State} (h : P s) (ht : finish m s = .next t) :
    P t := by
  have h1 := hm s h
  unfold finish at ht
  split at ht <;> rename_i e <;> rw [e] at h1 <;> cases ht
  · exact ha _ h1
  · exact hj _ _ h1
  · exact hg _ _ h1
  · exact h1
  · unfold State.stopFrom
    split
    · exact hw _ h
    · exact hs _ _ h1

/-! ### The canonical form -/

/-- A change that leaves memory and the drives alone keeps the invariant. -/
theorem inv_of_eq {s t : State} (h : s.Inv) (hm : t.mem = s.mem) (hf : t.flash = s.flash) : t.Inv := by
  unfold State.Inv at *
  rw [hm, hf]
  exact h

theorem inv_modCur {s : State} (f : Strand → Strand) (h : s.Inv) : (s.modCur f).Inv := h
theorem inv_modSc {s : State} (f : Scalar → Scalar) (h : s.Inv) : (s.modSc f).Inv := h
theorem inv_modQ {s : State} (f : QuadData → QuadData) (h : s.Inv) : (s.modQ f).Inv := h
theorem inv_setReg {s : State} (r : Reg) (v : Word) (h : s.Inv) : (s.setReg r v).Inv := h
theorem inv_advance {s : State} (h : s.Inv) : s.advance.Inv := h
theorem inv_transfer {s : State} (a : Word) (h : s.Inv) : (s.transfer a).Inv := h
theorem inv_setWaiting {s : State} (h : s.Inv) : s.setWaiting.Inv := by
  unfold State.setWaiting
  split <;> exact h

theorem keeps_rd (r : Reg) : Keeps State.Inv (rd r) := by
  intro s h
  rcases rd_cases r s with e | e | ⟨_, e⟩ <;> rw [e] <;> exact h

theorem keeps_wr (r : Reg) (v : Word) : Keeps State.Inv (wr r v) := fun _ h => h
theorem keeps_modSc (f : Scalar → Scalar) : Keeps State.Inv (modSc f) := fun _ h => h
theorem keeps_modCur (f : Strand → Strand) : Keeps State.Inv (modCur f) := fun _ h => h

end Sys2Proof.Machine
end

