-- ==== Sys2Proof/Laws/Memory.lean ====
section
/-! SUPPORT. Every memory operation keeps the canonical form: writing bytes, dropping bytes by key, putting saved bytes back. -/

namespace Sys2Proof.Machine

/-- A canonical list stays canonical from any lower bound. -/
theorem memWfFrom_mono {lo lo' : Nat} (h : lo' ≤ lo) : ∀ {m : Memory}, memWfFrom lo m = true → memWfFrom lo' m = true
  | [], _ => rfl
  | (a, b) :: r, hm => by
    simp only [memWfFrom, Bool.and_eq_true, decide_eq_true_eq] at hm ⊢
    exact ⟨⟨by omega, hm.1.2⟩, hm.2⟩

/-- Writing at or above the bound keeps the form above the bound. -/
theorem memWfFrom_memSet {k : Nat} (v : Byte) :
    ∀ {m : Memory} {lo : Nat}, lo ≤ k → memWfFrom lo m = true → memWfFrom lo (memSet m k v) = true
  | [], lo, hk, _ => by
    unfold memSet
    split <;> simp_all [memWfFrom]
  | (a, b) :: r, lo, hk, hm => by
    simp only [memWfFrom, Bool.and_eq_true, decide_eq_true_eq] at hm
    obtain ⟨⟨h1, h2⟩, h3⟩ := hm
    unfold memSet
    split
    · split <;> simp_all [memWfFrom]
    · split
      · split
        · exact memWfFrom_mono (by omega) h3
        · subst a
          simp_all [memWfFrom]
      · have := memWfFrom_memSet (k := k) (m := r) (lo := a + 1) v (by omega) h3
        simp_all [memWfFrom]

/-- Dropping bytes keeps the form. -/
theorem memWfFrom_filter (p : Host.Cell → Bool) :
    ∀ {m : Memory} {lo : Nat}, memWfFrom lo m = true → memWfFrom lo (m.filter p) = true
  | [], _, _ => rfl
  | (a, b) :: r, lo, hm => by
    simp only [memWfFrom, Bool.and_eq_true, decide_eq_true_eq] at hm
    obtain ⟨⟨h1, h2⟩, h3⟩ := hm
    have hr := memWfFrom_filter p h3
    simp only [List.filter]
    split
    · simp [memWfFrom, h1, h2, hr]
    · exact memWfFrom_mono (by omega) hr

theorem wf_memSet {m : Memory} (k : Nat) (v : Byte) (h : m.wf = true) : (memSet m k v).wf = true :=
  memWfFrom_memSet v (Nat.zero_le k) h

theorem wf_memSetN (bs : List Byte) : ∀ {m : Memory} (k : Nat), m.wf = true → (memSetN m k bs).wf = true := by
  induction bs with
  | nil => exact fun _ h => h
  | cons b r ih => exact fun k h => ih (k + 1) (wf_memSet k b h)

theorem wf_filter {m : Memory} (p : Host.Cell → Bool) (h : m.wf = true) : (Memory.wf (m.filter p)) = true :=
  memWfFrom_filter p h

theorem wf_putCells (lo : Nat) (cs : List Host.Cell) : ∀ {m : Memory}, m.wf = true → (putCells m lo cs).wf = true := by
  induction cs with
  | nil => exact fun h => h
  | cons c r ih => exact fun h => ih (wf_memSet (lo + c.1) c.2 h)

/-- Undoing a journal keeps the form (R412). -/
theorem wf_undo (c : Ckpt) {s : State} (h : Memory.wf s.mem = true) : Memory.wf (c.undo s).mem = true := by
  unfold Ckpt.undo
  induction c.touched generalizing s with
  | nil => exact h
  | cons i r ih =>
    rw [List.foldl_cons]
    apply ih
    show Memory.wf (List.foldl _ s.mem _) = true
    generalize List.filter _ _ = ks
    generalize s.mem = m at h ⊢
    induction ks generalizing m with
    | nil => exact h
    | cons k ks ih2 => exact ih2 (memSet m k (memGet c.scratch k)) (wf_memSet k _ h)

theorem wf_scratchCells {m : Memory} (q : Nat) (h : m.wf = true) : (scratchCells m q).wf = true := wf_filter _ h

theorem wf_stageTables {m : Memory} (h : m.wf = true) : (stageTables m).wf = true := wf_memSetN _ _ (wf_memSetN _ _ h)

/-- The memory of reset is canonical. -/
theorem wf_reset : Memory.wf State.reset.mem = true := rfl

/-- In a canonical memory a listed byte is not what an unlisted one reads as. -/
theorem memWfFrom_mem {b : Byte} {k : Nat} :
    ∀ {m : Memory} {lo : Nat}, memWfFrom lo m = true → (k, b) ∈ m → b ≠ unlisted ∧ lo ≤ k
  | (a, c) :: r, lo, hm, h => by
    simp only [memWfFrom, Bool.and_eq_true, decide_eq_true_eq] at hm
    rcases List.mem_cons.1 h with h | h
    · obtain ⟨rfl, rfl⟩ := Prod.mk.inj h
      exact ⟨hm.1.2, hm.1.1⟩
    · have := memWfFrom_mem hm.2 h
      exact ⟨this.1, by omega⟩

end Sys2Proof.Machine
end

