-- ==== Sys2Proof/Tests/Slice0.lean ====
section
/-! SUPPORT. The model's own tests: words written out from the spec's encodings, ill-formed terms that the checks refuse, single
steps on small states, and for every statement with hypotheses a state and operands that meet them. -/

set_option maxRecDepth 20000
set_option Elab.async false

namespace Sys2Proof.Tests

open Sys2Proof Sys2Proof.Machine

/-! ### Small states -/

/-- A word decodes to an instruction. -/
def readsAs (w : IWord) (i : Instr) : Bool :=
  match decode w with
  | .ok j => decide (j = i)
  | .error _ => false

/-- The state after a step, when there is one. -/
def after (o : Host.Outcome State Fault Refusal) (f : State → Bool) : Bool :=
  match o with
  | .next t => f t
  | _ => false

/-- A MODE value: the predicate, ETA, ETB, RND, SAT, GRP and SCP. -/
def modeOf (g eta etb rnd sat grp scp : Nat) : Nat :=
  g + eta * 16 + etb * 256 + rnd * 4096 + sat * 32768 + grp * 65536 + scp * 262144

/-- A partition with two quads, tokens, vectors and a fault queue. -/
def part1 : Part := { Part.blank 1 with setUp := true, quads := [0, 1], tcount := 8, veccnt := 4, vecbase := 8, fqbase := 0x100, qways := 2, phi := 63 }

/-- A crew of two strands with 64 KiB of scratchpad from 4096 on. -/
def crew5 : Crew := {
  id := 5, launch := w64 (2 ^ 48 + 1024), part := 1, index := 0, quad := 0, base := 0, nstr := 2, abase := 4096, alen := 65536, flags := 0,
  faulted := false, depot := false, seq := 0, windows := [], scratch := [], cbs := [], memPoison := [], spilled := false, swapped := false,
  stopping := false, bad := false }

/-- A strand of that crew. -/
def id1 : Ident := { Ident.blank with
  part := 1, crew := 5, abase := 4096, alen := 65536, nstr := 2, ncrewX := 1, ncrewY := 1, ncrewZ := 1, lparam := 77, devid := 3 }

/-- The strand runs under a MODE value, with VLC = 4 and VLG = 64. -/
def ranAt (mode : Nat) : Strand := { Strand.absent with
  uid := 1, status := .running, vlg := 64, ntiles := 8, ident := id1
  sc := { Scalar.blank with pc := 0x10000, mode := BitVec.ofNat 25 mode, trbase := 0x8000, vlc := 4, tshape := 0x0504 } }

/-- The machine with that strand alone, whose effects take place as they are handed over. -/
def at_ (mode : Nat) : State := { State.reset with
  split := false, cur := ranAt mode, parts := [part1], crews := [crew5], timer := 1000, crewSeq := 9, uidSeq := 20, devid := 3 }

/-- The strand under ETA = F32. -/
def s0 : State := at_ (modeOf 0 12 15 0 0 0 2)

/-- Registers s3, s4 and s5 hold values. -/
def regs (s : State) (x y z : Nat) : State := ((s.setReg 3 (w64 x)).setReg 4 (w64 y)).setReg 5 (w64 z)

/-- Bytes at an offset of the allotment. -/
def pad (s : State) (off : Nat) (bs : List Byte) : State := { s with mem := memSetN s.mem (scratchKey 0 (4096 + off)) bs }

theorem test_decode_integer : ([
  (0x02376400, .iaAdd 3 14 25),
  (0x02AA8001, .iaSub 10 21 0),
  (0x031E1C02, .iaMul 17 28 7),
  (0x0381B803, .iaMulh 24 3 14),
  (0x03F55404, .iaMulhu 31 10 21),
  (0x0268F005, .iaDiv 6 17 28),
  (0x02DC0C06, .iaDivu 13 24 3),
  (0x034FA807, .iaRem 20 31 10),
  (0x03B34408, .iaRemu 27 6 17),
  (0x0226E009, .iaAnd 2 13 24),
  (0x029A7C0A, .iaOr 9 20 31),
  (0x030D980B, .iaXor 16 27 6),
  (0x0371340C, .iaAndn 23 2 13),
  (0x03E4D00D, .iaShl 30 9 20),
  (0x02586C0E, .iaShr 5 16 27),
  (0x02CB880F, .iaSra 12 23 2),
  (0x033F2410, .iaRol 19 30 9),
  (0x03A2C011, .iaSlt 26 5 16),
  (0x02165C12, .iaSltu 1 12 23),
  (0x0289F813, .iaMin 8 19 30),
  (0x02FD1414, .iaMax 15 26 5),
  (0x0360B015, .iaMinu 22 1 12),
  (0x03D44C16, .iaMaxu 29 8 19),
  (0x02478017, .iaClz 4 15),
  (0x02BB0018, .iaCtz 11 22),
  (0x032E8019, .iaPopc 18 29),
  (0x0392081A, .iaSext 25 4 2),
  (0x0205801B, .iaZext 0 11 0)] : List (IWord × Instr)).all (fun p => readsAs p.1 p.2) = true := by decide

theorem test_decode_immediate : ([
  (0x047901C3, .iiAdd 7 18 451),
  (0x04EC9519, .iiAnd 14 25 1305),
  (0x05502870, .iiOr 21 0 2160),
  (0x05C3BBC6, .iiXor 28 7 3014),
  (0x04374F1D, .iiSlt 3 14 3869),
  (0x04AAD274, .iiSltu 10 21 628),
  (0x051E6027, .iiShl 17 28 39),
  (0x0581F03A, .iiShr 24 3 58),
  (0x05F57816, .iiSra 31 10 22)] : List (IWord × Instr)).all (fun p => readsAs p.1 p.2) = true := by decide

theorem test_decode_upper : ([
  (0x0665F9C8, .luHi 6 391624),
  (0x08D6649A, .laPc 13 418970)] : List (IWord × Instr)).all (fun p => readsAs p.1 p.2) = true := by decide

theorem test_decode_branch : ([
  (0x0B4F867B, .brEq 20 31 1659),
  (0x0BB319D1, .brNe 27 6 2513),
  (0x0A26AD28, .brLt 2 13 3368),
  (0x0A9A307F, .brGe 9 20 127),
  (0x0B0DC3D5, .brLtu 16 27 981),
  (0x0B71572C, .brGeu 23 2 1836)] : List (IWord × Instr)).all (fun p => readsAs p.1 p.2) = true := by decide

theorem test_decode_jump : ([
  (0x0D2A0B10, .jl 19532560),
  (0x0E584DD9, .jr 5 16 19929)] : List (IWord × Instr)).all (fun p => readsAs p.1 p.2) = true := by decide

theorem test_decode_loop : ([
  (0x100605FC, .lpL0 12 1532),
  (0x100990CE, .lpL1 19 206)] : List (IWord × Instr)).all (fun p => readsAs p.1 p.2) = true := by decide

theorem test_decode_load : ([
  (0x13A287DD, .ldB 26 5 989),
  (0x12160333, .ldBu 1 12 819),
  (0x12898E8A, .ldH 8 19 650),
  (0x12FD09E0, .ldHu 15 26 480),
  (0x13609537, .ldW 22 1 311),
  (0x13D4108D, .ldWu 29 8 141),
  (0x12479BE4, .ldD 4 15 996),
  (0x12BB473A, .ldBP 11 22 826),
  (0x132EC291, .ldBuP 18 29 657),
  (0x13924DE8, .ldHP 25 4 488),
  (0x1205C93E, .ldHuP 0 11 318),
  (0x12795495, .ldWP 7 18 149),
  (0x12ECD3EB, .ldWuP 14 25 1003),
  (0x13505B42, .ldDP 21 0 834)] : List (IWord × Instr)).all (fun p => readsAs p.1 p.2) = true := by decide

theorem test_decode_store : ([
  (0x15C38298, .stB 28 7 664),
  (0x143709EF, .stH 3 14 495),
  (0x14AA9145, .stW 10 21 325),
  (0x151E189C, .stD 17 28 156)] : List (IWord × Instr)).all (fun p => readsAs p.1 p.2) = true := by decide

theorem test_decode_float : ([
  (0x1781B800, .fsAdd 24 3 14),
  (0x17F55401, .fsSub 31 10 21),
  (0x1668F002, .fsMul 6 17 28),
  (0x16DC0C03, .fsDiv 13 24 3),
  (0x174F8004, .fsSqrt 20 31),
  (0x17B34405, .fsFma 27 6 17),
  (0x1626E006, .fsMin 2 13 24),
  (0x169A7C07, .fsMax 9 20 31),
  (0x170D9808, .fsEq 16 27 6),
  (0x17713409, .fsLt 23 2 13),
  (0x17E4D00A, .fsLe 30 9 20),
  (0x1658000B, .fsCvti 5 16),
  (0x16CB800C, .fsCvtf 12 23),
  (0x173F000D, .fsCls 19 30),
  (0x17A2800E, .fsCvt 26 5)] : List (IWord × Instr)).all (fun p => readsAs p.1 p.2) = true := by decide

theorem test_decode_queue : ([
  (0x18260000, .qPush 2 12),
  (0x18818001, .qPop 8 3),
  (0x18F08002, .qCnt 15 1)] : List (IWord × Instr)).all (fun p => readsAs p.1 p.2) = true := by decide

theorem test_decode_mode : ([
  (0x1A4D7F27, .mdSet 5078823),
  (0x1C020000, .mrPut 4),
  (0x1CB00001, .mrGet 11)] : List (IWord × Instr)).all (fun p => readsAs p.1 p.2) = true := by decide

theorem test_decode_system : ([
  (0x1F20006F, .syRd 18 111),
  (0x1E0C8741, .syWr 25 833),
  (0x1E00085A, .syTrap 90),
  (0x1E000C00, .syEret),
  (0x1E001000, .syFenceAll),
  (0x1E001001, .syFenceLd),
  (0x1E001002, .syFenceSt),
  (0x1E001003, .syFenceVec),
  (0x1E001004, .syFenceEng),
  (0x1E001005, .syFenceMat),
  (0x1E001400, .syEnd),
  (0x1E001800, .syYield),
  (0x1FE01C00, .syTime 30),
  (0x1E02A000, .syTlbinv 5),
  (0x1E062400, .syPgreq 12),
  (0x1E09A800, .syResume 19),
  (0x1E0D2C00, .syCtxsave 26),
  (0x1E00B000, .syCtxrest 1),
  (0x1E043400, .syHalt 8),
  (0x1E07B800, .syIntr 15),
  (0xFEEB6CC8, .brk 15428808)] : List (IWord × Instr)).all (fun p => readsAs p.1 p.2) = true := by decide

theorem test_decode_vector : ([
  (0x2047E800, .vaAdd 4 15 (.v 26)),
  (0x20BB0401, .vaSub 11 22 (.v 1)),
  (0x212EA202, .vaMul 18 29 (.s 8)),
  (0x21923C03, .vaMulh 25 4 (.v 15)),
  (0x2005D804, .vaFma 0 11 (.v 22)),
  (0x20797605, .vaFms 7 18 (.s 29)),
  (0x20EC9206, .vaFnma 14 25 (.s 4)),
  (0x21502C07, .vaDiv 21 0 (.v 11)),
  (0x21C38008, .vaSqrt 28 7),
  (0x20370009, .vaRsqrt 3 14),
  (0x20AA800A, .vaRecip 10 21),
  (0x211E000B, .vaExp2 17 28),
  (0x2181800C, .vaLog2 24 3),
  (0x21F5560D, .vaMin 31 10 (.s 21)),
  (0x2068F20E, .vaMax 6 17 (.s 28)),
  (0x20DC000F, .vaAbs 13 24),
  (0x214F8010, .vaNeg 20 31),
  (0x21B34611, .vaAnd 27 6 (.s 17)),
  (0x2026E012, .vaOr 2 13 (.v 24)),
  (0x209A7C13, .vaXor 9 20 (.v 31)),
  (0x210D9A14, .vaShl 16 27 (.s 6)),
  (0x21713615, .vaShr 23 2 (.s 13)),
  (0x21E4D016, .vaSra 30 9 (.v 20)),
  (0x20580017, .vaCvt 5 16),
  (0x20CB8A18, .vaMulw 12 23 (.s 2)),
  (0x213F2619, .vaDotw 19 30 (.s 9)),
  (0x21A2C01A, .vaClip 26 5 (.v 16))] : List (IWord × Instr)).all (fun p => readsAs p.1 p.2) = true := by decide

theorem test_decode_mask : ([
  (0x22265C00, .vmEq 2 12 (.v 23)),
  (0x2229FA01, .vmNe 2 19 (.s 30)),
  (0x222D1602, .vmLt 2 26 (.s 5)),
  (0x2220B003, .vmLe 2 1 (.v 12)),
  (0x22244C04, .vmGt 2 8 (.v 19)),
  (0x2257EA05, .vmGe 5 15 (.s 26)),
  (0x225B0406, .vmUnord 5 22 (.v 1)),
  (0x22528010, .vmAnd 5 5 0),
  (0x22521C11, .vmOr 5 4 7),
  (0x22119812, .vmXor 1 3 6),
  (0x22111413, .vmAndn 1 2 5),
  (0x22108014, .vmNot 1 1),
  (0x23500015, .vmPop 21 0),
  (0x23C38016, .vmFirst 28 7),
  (0x22470217, .vmFill 4 14)] : List (IWord × Instr)).all (fun p => readsAs p.1 p.2) = true := by decide

theorem test_decode_permute : ([
  (0x24AA8000, .vpMv 10 21),
  (0x25107201, .vpBcast 17 28),
  (0x25800002, .vpIota 24),
  (0x25F55603, .vpSlup 31 10 21),
  (0x2468F204, .vpSldn 6 17 28),
  (0x24DC0C05, .vpPerm 13 24 3),
  (0x254F8006, .vpCompress 20 31),
  (0x25B34407, .vpSel 27 6 (.v 17)),
  (0x24268008, .vpRsum 2 13),
  (0x249A0009, .vpRmax 9 20),
  (0x250D800A, .vpRmin 16 27),
  (0x240B8A0B, .vpExt 23 2),
  (0x25E0260C, .vpIns 30 9)] : List (IWord × Instr)).all (fun p => readsAs p.1 p.2) = true := by decide

theorem test_decode_length : ([
  (0x26580000, .vlSet 5 16),
  (0x26C00001, .vlGet 12),
  (0x28FF394D, .vfGo 16726349),
  (0x29000000, .vfEnd)] : List (IWord × Instr)).all (fun p => readsAs p.1 p.2) = true := by decide

theorem test_decode_vector_load : ([
  (0x2A160100, .vldU 1 12 false true false),
  (0x2A89F8A0, .vldS 8 19 30 false false true),
  (0x2AFD14C0, .vldX 15 26 5 false false true),
  (0x2D608100, .vstU 22 1 false true),
  (0x2DD44D20, .vstS 29 8 19 false true),
  (0x2C47E940, .vstX 4 15 26 false true)] : List (IWord × Instr)).all (fun p => readsAs p.1 p.2) = true := by decide

theorem test_decode_ring : ([
  (0x2EBB0000, .vbDecl 11 22),
  (0x2E097401, .vbLd 18 29),
  (0x2E000002, .vbTake 0),
  (0x2E700003, .vbFree 7)] : List (IWord × Instr)).all (fun p => readsAs p.1 p.2) = true := by decide

theorem test_decode_matrix : ([
  (0x30070000, .mxShape 14),
  (0x30500001, .mxZero 5),
  (0x3043C802, .mxOpa 4 7 18),
  (0x303F6403, .mxOpaSa 3 30 25),
  (0x302A8804, .mxOpaSb 2 21 2),
  (0x301E4005, .mxOpaSs 1 28 16),
  (0x3181B806, .mxRd 24 3 14),
  (0x30755407, .mxWr 7 10 21),
  (0x3068F008, .mxLd 6 17 28),
  (0x305C0C09, .mxSt 5 24 3),
  (0x3040000A, .mxWait 4),
  (0x3030000B, .mxCvt 3)] : List (IWord × Instr)).all (fun p => readsAs p.1 p.2) = true := by decide

theorem test_decode_tensor : ([
  (0x32013400, .tnDef 2 13),
  (0x32048001, .tnInv 9),
  (0x330D9802, .tnRd 16 27 6),
  (0x33713403, .tnTld 23 2 13),
  (0x33E4D004, .tnTst 30 9 20),
  (0x3202C005, .tnPack 5 16),
  (0x32065C06, .tnUnpack 12 23)] : List (IWord × Instr)).all (fun p => readsAs p.1 p.2) = true := by decide

theorem test_decode_turn : ([
  (0x343F2400, .trTurn 3 30 9),
  (0x3422C001, .trInval 2 5 16),
  (0x34165C02, .trAcq 1 12 23),
  (0x34FD1403, .trRel 15 26 5),
  (0x3560B004, .trRetain 22 1 12),
  (0x340E8005, .trUnpin 29),
  (0x34478006, .trLock 4 15),
  (0x34058007, .trUnlock 11)] : List (IWord × Instr)).all (fun p => readsAs p.1 p.2) = true := by decide

theorem test_decode_atomic : ([
  (0x372EA180, .atAdd 18 29 8 false .ar false),
  (0x36023E81, .atAnd 0 4 15 true .acq false),
  (0x3605DB82, .atOr 0 11 22 true .ar false),
  (0x367974C3, .atXor 7 18 29 false .acq true),
  (0x36EC91C4, .atMin 14 25 4 false .ar true),
  (0x36002EC5, .atMax 0 0 11 true .acq true),
  (0x3603CBC6, .atMinu 0 7 18 true .ar true),
  (0x36376487, .atMaxu 3 14 25 false .acq false),
  (0x36AA8188, .atSwap 10 21 0 false .ar false),
  (0x371E1C89, .atCas 17 28 7 .acq),
  (0x3781B90A, .atFadd 24 3 14 false .rel false),
  (0x37F5544B, .atFmin 31 10 21 false .rlx true),
  (0x3608F34C, .atFmax 0 17 28 true .rel true)] : List (IWord × Instr)).all (fun p => readsAs p.1 p.2) = true := by decide

theorem test_decode_vector_atomic : ([
  (0x38DC0E40, .vatAdd 13 24 3 true .rlx true),
  (0x394FA941, .vatAnd 20 31 10 false .rel true),
  (0x39B34402, .vatOr 27 6 17 false .rlx false),
  (0x3826E303, .vatXor 2 13 24 true .rel false),
  (0x389A7E04, .vatMin 9 20 31 true .rlx false),
  (0x390D9905, .vatMax 16 27 6 false .rel false),
  (0x39713446, .vatMinu 23 2 13 false .rlx true),
  (0x39E4D347, .vatMaxu 30 9 20 true .rel true),
  (0x38586E48, .vatSwap 5 16 27 true .rlx true),
  (0x38CB894A, .vatFadd 12 23 2 false .rel true),
  (0x393F240B, .vatFmin 19 30 9 false .rlx false),
  (0x39A2C28C, .vatFmax 26 5 16 true .acq false)] : List (IWord × Instr)).all (fun p => readsAs p.1 p.2) = true := by decide

theorem test_decode_crew : ([
  (0x3A160000, .cfTsb 1 12),
  (0x3A898001, .cfTst 8 19),
  (0x3A078002, .cfClr 15),
  (0x3B608003, .cfRd 22 1),
  (0x3A0EA004, .cfWr 29 8),
  (0x3A020005, .cfArrive 4),
  (0x3A058006, .cfWait 11),
  (0x3A090007, .cfSync 18),
  (0x3B923C08, .cfTwait 25 4 15),
  (0x3A076409, .cfCfg 14 25)] : List (IWord × Instr)).all (fun p => readsAs p.1 p.2) = true := by decide

theorem test_decode_copy : ([
  (0x3C100C00, .cpSet 1 0 3),
  (0x3DC18001, .cpGo 28 3),
  (0x3C01B802, .cpWait 3 14),
  (0x3C408003, .cpMask 4 1),
  (0x3D120004, .cpCbacq 17 4),
  (0x3C000005, .cpCbrel 0),
  (0x3C03A806, .cpCbcfg 7 10),
  (0x3C608007, .cpStat 6 1)] : List (IWord × Instr)).all (fun p => readsAs p.1 p.2) = true := by decide

theorem test_decode_publish : ([
  (0x3E268000, .xrRed 2 13),
  (0x3E080001, .xrPub 16),
  (0x3F713402, .xrSub 23 2 13),
  (0x3E0F2403, .xrWaitv 30 9),
  (0x40CB8000, .lnGo 12 23),
  (0x413F0001, .lnStat 19 30)] : List (IWord × Instr)).all (fun p => readsAs p.1 p.2) = true := by decide


/-! ### Witnesses: the hypotheses of the statements are met -/

/-- A result of a checked read or a check is a value that satisfies `f`. -/
def okM {α : Type} (m : M α) (s : State) (f : α → State → Bool) : Bool :=
  match m s with
  | .ok a t => f a t
  | .error _ _ => false

/-- The strand with value x in s3, address `scratchBase + off` in s4 and value y in s5. -/
def atPad (s : State) (x off y : Nat) : State := regs s x (scratchBase + off) y

/-- The strand within a trap of depth n. -/
def inTrap (s : State) (n : Nat) : State := s.modSc (fun c => { c with tnest := BitVec.ofNat 2 n })

/-- The strand in privileged state. -/
def inPrv (s : State) : State := s.modSc (fun c => { c with prv := true })

theorem witness_DecodeOfEncode : (Instr.brk 0x1FFFFFF).wf = true ∧ encode (.brk 0x1FFFFFF) = some 0xFFFFFFFF ∧
    (Instr.iaAdd 31 0 31).wf = true ∧ (encode (.iaAdd 31 0 31)).isSome = true ∧ decode 0x02000000 = .ok (.iaAdd 0 0 0) := by decide

theorem witness_StepKeepsInv : s0.Inv ∧ State.reset.Inv := by
  dsimp only [State.Inv]; decide

theorem witness_StepRunsDecoded :
    (State.reset.withFetchWord 32 0x02000000).CanRun ∧
    okM (fetchWord (State.reset.withFetchWord 32 0x02000000).cur.sc.pc)
      ((State.reset.withFetchWord 32 0x02000000).modCur (fun x => { x with waiting := false }))
      (fun w _ => readsAs w (.iaAdd 0 0 0)) = true ∧
    (State.reset.withFetchWord 32 0x00000001).CanRun ∧
    okM (fetchWord (State.reset.withFetchWord 32 0x00000001).cur.sc.pc)
      ((State.reset.withFetchWord 32 0x00000001).modCur (fun x => { x with waiting := false }))
      (fun w _ => match decode w with | .error _ => true | .ok _ => false) = true := by
  dsimp only [State.CanRun]; decide

theorem witness_MemoryLaws : Memory.wf (memSetN [] 7 [1, 0, 5]) = true ∧ memSetN [] 7 [1, 0, 5] = [⟨7, 1⟩, ⟨9, 5⟩] := by decide

theorem witness_IntegerResults : let s := regs s0 1 0x8000000000000000 0
    s.readable 3 ∧ s.readable 4 ∧ s.writable 5 ∧ s.writable 0 ∧ (2 : Reg).toNat ≤ 2 := by
  dsimp only [State.readable, State.writable]; decide

theorem witness_DivisionCorners : let s := regs s0 0x8000000000000000 0xFFFFFFFFFFFFFFFF 0
    s.readable 3 ∧ s.readable 4 ∧ s.readable 5 ∧ s.writable 6 ∧ s.reg 5 = 0 ∧
    s.reg 3 = 0x8000000000000000 ∧ s.reg 4 = 0xFFFFFFFFFFFFFFFF := by
  dsimp only [State.readable, State.writable]; decide

theorem witness_ImmediateResults : s0.readable 0 ∧ s0.writable 31 := by
  dsimp only [State.readable, State.writable]; decide

theorem witness_BranchResults : let s := regs s0 5 0x1000 0x1001
    s.readable 3 ∧ s.readable 4 ∧ s.writable 1 ∧ (s.reg 4 + (0 : BitVec 15).signExtend 64) &&& 3 = 0 ∧
    (s.reg 5 + (0 : BitVec 15).signExtend 64) &&& 3 ≠ 0 := by
  dsimp only [State.readable, State.writable]; decide

theorem witness_LoopSetup : let s := regs s0 0 1 0
    s.readable 3 ∧ s.cur.sc.tnest = 0 ∧ (1 : BitVec 12) ≠ 0 ∧ s.reg 3 = 0 ∧ s.reg 4 ≠ 0 ∧ s.readable 4 ∧
    (inTrap s0 1).Quiet ∧ (inTrap s0 1).cur.sc.tnest ≠ 0 := by
  dsimp only [State.readable, State.Quiet]; decide

/-- The loops' counts, l0's LEN and the word addresses at which their bodies end. -/
def loops (n0 n1 len0 e0 e1 : Nat) : State := s0.modSc (fun c => { c with
  lcnt0 := w64 n0
  lcnt1 := w64 n1
  lend0 := ⟨BitVec.ofNat 12 len0, BitVec.ofNat 46 e0⟩
  lend1 := ⟨2, BitVec.ofNat 46 e1⟩ })

/-- The PC is l0's end, and l1's. -/
def atEnds (s : State) : Bool × Bool :=
  let c := s.cur.sc
  (decide (c.tnest = 0 ∧ c.lcnt0 ≠ 0 ∧ c.pc = c.lend0.addr), decide (c.tnest = 0 ∧ c.lcnt1 ≠ 0 ∧ c.pc = c.lend1.addr))

/-- Each clause of R104, at the PC 0x10000. -/
theorem witness_LoopEndTests :
    atEnds (loops 0 0 2 0x4000 0x4000) = (false, false) ∧ atEnds (loops 1 1 2 0x4001 0x3FFF) = (false, false) ∧
    atEnds (loops 2 1 2 0x4000 0x4000) = (true, true) ∧ (loops 2 1 2 0x4000 0x4000).cur.sc.lend0.start ≠ 0x10004 ∧
    atEnds (loops 2 1 0 0x4000 0x4000) = (true, true) ∧ (loops 2 1 0 0x4000 0x4000).cur.sc.lend0.start = 0x10004 ∧
    atEnds (loops 2 1 0 0x4000 0x4001) = (true, false) ∧ (loops 2 1 0 0x4000 0x4001).cur.sc.lend0.start = 0x10004 ∧
    atEnds (loops 1 1 2 0x4000 0x4001) = (true, false) ∧ atEnds (loops 1 2 2 0x4000 0x4000) = (true, true) ∧
    atEnds (loops 1 1 2 0x4000 0x4000) = (true, true) ∧ atEnds (loops 0 2 2 0x4000 0x4000) = (false, true) ∧
    atEnds (loops 0 1 2 0x4000 0x4000) = (false, true) := by decide

/-- A first-level table in HBM page 1 whose entry 0 is v. -/
def paged (s : State) (v : Nat) : State := { s with
  parts := [{ part1 with ptroot := 1 }]
  mem := memSetN s.mem (homeKey 0 0x1000) (leBytes 8 v) }

/-- What a checked access answers where it fails. -/
def failOf (s : State) (va : Word) (n : Nat) (a : Acc) : Option Fail :=
  match (s.segs va n a).1 with
  | .error f => some f
  | .ok _ => none

/-- The state after a step, or the state itself where the step goes nowhere. -/
def nextOf (o : Host.Outcome State Fault Refusal) : State :=
  match o with
  | .next t => t
  | _ => State.reset

/-- The bytes at offset 64 of the allotment have been stored, and stand in the core's outbound buffer. -/
def stored : State := nextOf (exec (.stD 5 4 0) (atPad s0 0 64 77))

/-- R106, R109, R226: a load that reads bytes of the scratchpad, a probe of a page that is not resident, a load beyond the
allotment, and a load of bytes that a store left un-turned. -/
theorem witness_LoadResults : let s := atPad s0 0 0xFFF8 0
    s.cur.inStream = 0 ∧ s.cur.loadWaits = false ∧ s.readable 4 ∧ s.writable 3 ∧
    okM (loadBytes (s.reg 4 + (0 : BitVec 10).signExtend 64 * w64 8) 8 accLd 0 0) s (fun bs _ => bs.length == 8) = true ∧
    ((failOf (paged (regs s0 0 0x500000 0) 2) 0x500000 8 accLd).map (fun f => f.nonres)) = some true ∧
    s.Quiet ∧ (failOf s (w64 (scratchBase + 0x10000)) 1 accLd).isSome = true ∧
    (match (stored.segs (w64 (scratchBase + 64)) 8 accLd) with
     | (.ok gs, t) => (t.turnFail gs).isSome
     | _ => false) = true := by
  dsimp only [State.Settled, State.Quiet, State.readable, State.writable, State.VecReady, State.spans, State.holdsVlc,
    State.padPlain, State.Direct, State.noTrap, State.hands]
  and_intros <;> decide +kernel

theorem witness_LoadFromScratchpad : let s := atPad s0 0 0xFFF8 0
    s.Quiet ∧ s.reg 4 + (0 : BitVec 10).signExtend 64 * w64 8 = w64 (scratchBase + 0xFFF8) ∧ s.padPlain 0xFFF8 8 ∧
    s.padPlain 0xFFFF 1 ∧ s.padPlain 0 1 := by
  dsimp only [State.Settled, State.Quiet, State.readable, State.writable, State.VecReady, State.spans, State.holdsVlc,
    State.padPlain, State.Direct, State.noTrap, State.hands]
  and_intros <;> decide +kernel

theorem witness_StoreResults : let s := atPad s0 0 64 77
    s.cur.inStream = 0 ∧ s.cur.storeWaits = false ∧ s.cur.vf = none ∧ s.readable 4 ∧ s.readable 5 ∧ s.isAhead s.cur.uid = false ∧
    s.cur.ring = none ∧ (outLines s.quad.d.out (some s.cur.ident.core)).length < 60 ∧
    okM (segsM (s.reg 4 + (0 : BitVec 10).signExtend 64 * w64 8) 8 accSt 0) s (fun gs t =>
      decide (gs.length = 1) && gs.all (fun g => g.n == 8 && !g.mir && g.page.isNone) &&
      decide (t.cur.marks.length < 8000 ∧ t.cur.pend.length < 8000 ∧ (outLines t.quad.d.out (some 0)).length < 60) &&
      okM (storeSegs gs (leBytes 8 77) 0) t (fun _ _ => true)) = true := by
  dsimp only [State.Settled, State.Quiet, State.readable, State.writable, State.VecReady, State.spans, State.holdsVlc,
    State.padPlain, State.Direct, State.noTrap, State.hands]
  and_intros <;> decide +kernel

/-- The strand under a MODE value, with values in s3 to s5 and FPEN. -/
def fpAt (mode x y z fpen : Nat) : State := (regs (at_ mode) x y z).modSc (fun c => { c with fpen := BitVec.ofNat 5 fpen })

/-- R111 to R113: F32 sums under RND = 0 and under RS; a conversion with ETB = I32, and with ETB = F16; a conversion of a
signalling NaN with ETB = 15. -/
theorem witness_FloatResults :
    (let s := fpAt (modeOf 0 12 15 0 0 0 2) 0x3F800000 0x7FA00000 0 0
     s.readable 3 ∧ s.readable 4 ∧ s.writable 5 ∧ s.readable 5 ∧ etyOfCode (modeETA s.cur.sc.md) = some .f32 ∧
     etyIsArith .f32 = true ∧ modeRND s.cur.sc.md ≤ 5 ∧ modeETB s.cur.sc.md = 15 ∧ unpack .f32 0x7FA00000 = .nan true ∧
     (fAdd .f32 .rne false 0x3F800000 0x3F800000).fl &&& s.cur.sc.fpen.zeroExtend 6 = 0) ∧
    (let s := fpAt (modeOf 0 12 2 5 0 0 2) 0x3F800000 0x7FA00000 0 0
     modeRND s.cur.sc.md = 5 ∧ etyOfCode (modeETB s.cur.sc.md) = some .i32 ∧ etyIsInt .i32 = true) ∧
    etyOfCode (modeETB (fpAt (modeOf 0 12 10 5 0 0 2) 0 0 0 0).cur.sc.md) = some .f16 ∧ etyIsFp .f16 = true ∧
    (let s := fpAt (modeOf 0 0 15 0 0 0 2) 0 0 0 0
     s.Quiet ∧ etyOfCode (modeETA s.cur.sc.md) = some .i8 ∧ etyIsArith .i8 = false ∧ encode (.fsAdd 3 4 5) ≠ none) := by
  dsimp only [State.Settled, State.Quiet, State.readable, State.writable, State.VecReady, State.spans, State.holdsVlc,
    State.padPlain, State.Direct, State.noTrap, State.hands]
  and_intros <;> decide +kernel

/-- R113: a division of 1 by 0 raises DZ, which FPEN enables; a compare of a signalling NaN raises NV. -/
theorem witness_FloatTraps : let s := fpAt (modeOf 0 12 15 0 0 0 2) 0x3F800000 0 0x7FA00000 31
    s.Quiet ∧ etyOfCode (modeETA s.cur.sc.md) = some .f32 ∧ etyIsArith .f32 = true ∧ modeRND s.cur.sc.md ≤ 5 ∧
    (fDiv .f32 .rne false 0x3F800000 0).fl &&& s.cur.sc.fpen.zeroExtend 6 ≠ 0 ∧
    (fLess .f32 false 0x3F800000 0x7FA00000).2 &&& s.cur.sc.fpen.zeroExtend 6 ≠ 0 ∧
    modeETB s.cur.sc.md = 15 ∧ unpack .f32 0x7FA00000 = .nan true ∧ (fNV : Flags) &&& s.cur.sc.fpen.zeroExtend 6 ≠ 0 := by
  dsimp only [State.Settled, State.Quiet, State.readable, State.writable, State.VecReady, State.spans, State.holdsVlc,
    State.padPlain, State.Direct, State.noTrap, State.hands]
  and_intros <;> decide +kernel

theorem witness_ExactValues : etyIsFp .f32 = true ∧ 0x7F7FFFFF < 2 ^ etyBits .f32 ∧
    (∀ n, unpack .f32 0x7F7FFFFF ≠ .nan n) ∧ (∀ n, unpack .f32 0x7F7FFFFF ≠ .inf n) ∧ etyIsInt .i8 = true ∧
    intMin .i8 ≤ -128 ∧ (127 : Int) ≤ intMax .i8 ∧ (-129 : Int) < intMin .i8 ∧ intMax .i8 < 128 := by decide

/-- Queue registers with n0, n1, n2 and n3 entries. -/
def queued (s : State) (n0 n1 n2 n3 : Nat) : State := s.modCur (fun x => { x with
  q0 := List.replicate n0 5
  q1 := List.replicate n1 6
  q2 := List.replicate n2 7
  q3 := List.replicate n3 8 })

/-- R114, R115, R117: queues with one place left and with one entry; full and empty ones; a value with bit 24 set. -/
theorem witness_QueueResults :
    (let s := queued (regs s0 0xFFFFFF 0x1000000 0) 15 1 7 1
     s.readable 3 ∧ s.writable 5 ∧ s.cur.q0.length < 16 ∧ s.cur.q2.length < 8 ∧ s.cur.q1 = [6] ∧
     s.cur.headPoison 1 = false ∧ s.cur.q3 = [8] ∧ s.cur.headPoison 3 = false ∧ s.reg 3 >>> 24 = 0 ∧ s.readable 4 ∧
     s.reg 4 >>> 24 ≠ 0 ∧ encode (.mrPut 4) ≠ none) ∧
    (let s := queued s0 16 0 8 0
     s.Quiet ∧ 16 ≤ s.cur.q0.length ∧ 8 ≤ s.cur.q2.length ∧ s.cur.q1 = [] ∧ s.cur.q3 = []) := by
  dsimp only [State.Settled, State.Quiet, State.readable, State.writable, State.VecReady, State.spans, State.holdsVlc,
    State.padPlain, State.Direct, State.noTrap, State.hands]
  and_intros <;> decide +kernel

theorem witness_SpecialRegisterReads : (inPrv s0).Quiet ∧ (inPrv s0).part? (inPrv s0).cur.ident.part = some part1 ∧
    (inPrv s0).cur.sc.prv = true := by
  dsimp only [State.Settled, State.Quiet, State.readable, State.writable, State.VecReady, State.spans, State.holdsVlc,
    State.padPlain, State.Direct, State.noTrap, State.hands]
  and_intros <;> decide +kernel

theorem witness_SpecialRegisterWrites : let s := inPrv (regs s0 0xFFFFFF 0x0504 0)
    s.Quiet ∧ s.reg 3 >>> 24 = 0 ∧ tshapeOk s.cur.sc.prot (s.reg 4) = true ∧ s.cur.sc.prv = true ∧
    (s.part? s.cur.ident.part).isSome = true := by
  dsimp only [State.Settled, State.Quiet, State.readable, State.writable, State.VecReady, State.spans, State.holdsVlc,
    State.padPlain, State.Direct, State.noTrap, State.hands]
  and_intros <;> decide +kernel

/-- R48: an index at each boundary, in user state. -/
theorem witness_SpecialRegisterChecks : let s := regs s0 0x1000000 0xFFFF 0
    s.Quiet ∧ encode (.syRd 3 0x200) ≠ none ∧ encode (.syWr 3 0x080) ≠ none ∧ 0x200 ≤ (0x200 : BitVec 10).toNat ∧
    0x100 ≤ (0x100 : BitVec 10).toNat ∧ (0x1FF : BitVec 10).toNat < 0x200 ∧ s.cur.sc.prv = false ∧
    s.reg 3 >>> 24 ≠ 0 ∧ tshapeOk s.cur.sc.prot (s.reg 4) = false := by
  dsimp only [State.Settled, State.Quiet, State.readable, State.writable, State.VecReady, State.spans, State.holdsVlc,
    State.padPlain, State.Direct, State.noTrap, State.hands]
  and_intros <;> decide +kernel

theorem witness_TrappingInstructions : s0.Quiet ∧ s0.cur.sc.tnest = 0 ∧ (inTrap s0 1).cur.sc.tnest ≠ 0 ∧
    (inTrap s0 3).cur.sc.tnest ≠ 0 := by
  dsimp only [State.Settled, State.Quiet, State.readable, State.writable, State.VecReady, State.spans, State.holdsVlc,
    State.padPlain, State.Direct, State.noTrap, State.hands]
  and_intros <;> decide +kernel

theorem witness_TrapEntryWrites : (inTrap s0 2).cur.sc.tnest ≠ 3 ∧ (inTrap s0 2).cur.sc.trbase ≠ 0 ∧
    (inTrap s0 3).cur.status = .running ∧ (inTrap s0 3).cur.sc.tnest = 3 ∧
    (s0.modSc (fun c => { c with trbase := 0 })).cur.sc.trbase = 0 := by decide

/-- A vector instruction is queued. -/
def withQueued (k : Nat) : State := s0.modCur (fun x => { x with
  vq := [⟨.vmAnd 1 2 3, s0.cur.sc, 7, [], none, [], [], []⟩]
  inStream := k })

theorem witness_TrapsInProgramOrder : let e : Entry := ⟨.vmAnd 1 2 3, s0.cur.sc, 7, [], none, [], [], []⟩
    cBOUNDS ≠ cQDEADLOCK ∧ (withQueued 0).cur.inStream = 0 ∧ (withQueued 0).cur.vq ≠ [] ∧ (withQueued 0).cur.tried = false ∧
    (withQueued 1).cur.inStream = 1 ∧ (withQueued 1).cur.vq = e :: [] ∧ e.snap.tnest ≠ 3 ∧ e.snap.trbase ≠ 0 := by decide

/-! #### Vectors, the strip ring and tiles -/

/-- R159: operands at the last register, VLC at a group's capacity, integers and floating types, with GRP = 0 and GRP = 3. -/
theorem witness_VectorArithmetic :
    (let s := (at_ (modeOf 0 0 15 0 1 0 2)).modSc (fun c => { c with vlc := 256 })
     s.VecReady ∧ etyOfCode (modeETA s.cur.sc.md) = some .i8 ∧ etyIsInt .i8 = true ∧ s.spans 31 8 8 ∧ s.holdsVlc 8) ∧
    (let s := (fpAt (modeOf 0 12 15 5 0 3 2) 0 0 0 31).modSc (fun c => { c with vlc := 256 })
     s.VecReady ∧ etyOfCode (modeETA s.cur.sc.md) = some .f32 ∧ etyIsArith .f32 = true ∧ modeRND s.cur.sc.md ≤ 5 ∧
     s.spans 24 32 32 ∧ s.holdsVlc 32) ∧
    (fpAt (modeOf 0 12 15 0 0 0 2) 0 0 0 31).noTrap (fun _ => 0) ∧ (fpAt (modeOf 0 12 15 0 0 0 2) 0 0 0 0).noTrap (fun _ => fNV) := by
  dsimp only [State.Settled, State.Quiet, State.readable, State.writable, State.VecReady, State.spans, State.holdsVlc,
    State.padPlain, State.Direct, State.noTrap, State.hands]
  and_intros <;> decide +kernel

/-- R171 to R173: F32 to F32 (ETB = 15), F32 by F16, N4 with its scales in the last register, and I32 by I8. -/
theorem witness_VectorConversions :
    (s0.VecReady ∧ etyOfCode (modeETA s0.cur.sc.md) = some .f32 ∧ modeETB s0.cur.sc.md = 15 ∧ s0.holdsVlc 32 ∧
     s0.spans 31 32 32 ∧ modeRND s0.cur.sc.md ≤ 5 ∧ s0.noTrap (fun _ => 0) ∧ etyArith .f32 = true) ∧
    (let s := at_ (modeOf 0 12 10 5 0 0 2)
     etyOfCode (modeETB s.cur.sc.md) = some .f16 ∧ ETy.f16 ≠ .n4 ∧ etyBits .f16 ≤ etyBits .f32 ∧ etyIsInt .f32 = etyIsInt .f16 ∧
     s.spans 31 16 32 ∧ modeRND s.cur.sc.md = 5) ∧
    (let s := at_ (modeOf 0 14 15 0 0 0 2)
     s.VecReady ∧ etyOfCode (modeETA s.cur.sc.md) = some .n4 ∧ modeETB s.cur.sc.md = 15 ∧ s.holdsVlc 4 ∧ s.spans 30 4 4 ∧
     (30 : Reg).toNat + max (modeGRP s.cur.sc.md) 1 < 32) ∧
    (let s := at_ (modeOf 0 2 0 0 0 0 2)
     etyOfCode (modeETA s.cur.sc.md) = some .i32 ∧ etyOfCode (modeETB s.cur.sc.md) = some .i8 ∧ etyIsInt .i32 = etyIsInt .i8 ∧
     etyBits .i8 ≤ etyBits .i32 ∧ s.spans 31 8 32) := by
  dsimp only [State.Settled, State.Quiet, State.readable, State.writable, State.VecReady, State.spans, State.holdsVlc,
    State.padPlain, State.Direct, State.noTrap, State.hands]
  and_intros <;> decide +kernel

theorem witness_ElementLaws : s0.cur.ring = none ∧ s0.cur.closed = [] ∧ (8 : Nat) ∈ [8, 16, 32, 64] ∧ 32 ∣ s0.cur.vlg ∧ 0 < s0.cur.vlg ∧ s0.cur.vlg ≤ 512 ∧
    31 + 255 * 8 / (32 * s0.cur.vlg) < 32 ∧ 28 + 255 * 32 / (32 * s0.cur.vlg) < 32 := by decide

theorem witness_MaskResults :
    s0.VecReady ∧ (7 : Reg).toNat < 8 ∧ (0 : Reg).toNat < 8 ∧ s0.cur.bound 7 = false ∧ s0.cur.bound 0 = false ∧
    etyOfCode (modeETA s0.cur.sc.md) = some .f32 ∧ etyArith .f32 = true ∧ s0.spans 31 32 32 ∧ s0.holdsVlc 32 ∧
    s0.noTrap (fun _ => 0) := by
  dsimp only [State.Settled, State.Quiet, State.readable, State.writable, State.VecReady, State.spans, State.holdsVlc,
    State.padPlain, State.Direct, State.noTrap, State.hands]
  and_intros <;> decide +kernel

/-- R177, R178: positions VLC − 1 and VLC; q1 one short of full; an integer and a floating type. -/
theorem witness_PermuteResults : let s := queued (regs s0 3 4 0) 1 15 0 0
    s.VecReady ∧ etyOfCode (modeETA s.cur.sc.md) = some .f32 ∧ ETy.f32 ≠ .n4 ∧ s.holdsVlc 32 ∧ s.spans 31 32 32 ∧
    s.cur.q0 = [5] ∧ (s.reg 3).toNat < s.cur.sc.vlc ∧ s.cur.sc.vlc ≤ (s.reg 4).toNat ∧ s.cur.q1.length < 16 ∧
    etyIsArith .f32 = true ∧ modeRND s.cur.sc.md ≤ 5 ∧ etyArith .f32 = true ∧
    etyOfCode (modeETA (at_ (modeOf 0 3 15 0 0 0 2)).cur.sc.md) = some .i64 ∧ etyIsInt .i64 = true := by
  dsimp only [State.Settled, State.Quiet, State.readable, State.writable, State.VecReady, State.spans, State.holdsVlc,
    State.padPlain, State.Direct, State.noTrap, State.hands]
  and_intros <;> decide +kernel

/-- A block of two words at the fetched address, its first word `ia.add`, at the head of the vector stream. -/
def inBlock : State := s0.modCur (fun x => { x with
  inStream := 1
  vq := [⟨.vfGo 8, x.sc, 3, [0x02432000, 0x29000000], none, [], [], []⟩]
  saved := some { x.sc with pc := 0x7777 }
  vf := some ⟨0x5000, [0x02432000, 0x29000000], 2, 0x5000, [], 63, [], 0⟩ })

/-- R19, R157, R187 to R189: a vector and a matrix instruction behind a queued one; a `vf.go` whose block stands in memory; a
block's `ia.add`, at the last element of the grant. -/
theorem witness_StreamsQueue :
    ((withQueued 0).cur.inStream = 0 ∧ (withQueued 0).cur.vq ≠ [] ∧ (withQueued 0).cur.bound 7 = false ∧
     (7 : Reg).toNat < (withQueued 0).cur.ntiles ∧ (7 : Reg).toNat < 8 ∧
     ((withQueued 0).modSc (fun c => { c with busy := 0x80 })).cur.sc.busy.getLsbD 7 = true) ∧
    (let s := State.reset.withFetchWord 32 0x29000000
     s.cur.inStream = 0 ∧ okM (vfCheck (.vfGo 0) s.cur.sc.pc) s (fun ws _ => ws == [0x29000000]) = true) ∧
    (let s := inBlock
     let r : VfRun := ⟨0x5000, [0x02432000, 0x29000000], 2, 0x5000, [], 63, [], 0⟩
     s.cur.inStream = 1 ∧ s.cur.vq.head? = some ⟨.vfGo 8, s0.cur.sc, 3, [0x02432000, 0x29000000], none, [], [], []⟩ ∧
     s.cur.saved = some { s0.cur.sc with pc := 0x7777 } ∧ s.cur.vf = some r ∧ s.cur.poison = [] ∧ s.cur.ring = none ∧ s.cur.closed = [] ∧ 32 ∣ s.cur.vlg ∧
     s.cur.vlg ≤ 512 ∧ r.e < s.cur.vlg ∧ r.bpc = r.base + w64 (4 * 0) ∧ 0 + 1 < r.words.length ∧ r.words.length ≤ 256 ∧
     readsAs (r.words.getD 0 0) (.iaAdd 4 6 8) = true) := by
  dsimp only [State.Settled, State.Quiet, State.readable, State.writable, State.VecReady, State.spans, State.holdsVlc,
    State.padPlain, State.Direct, State.noTrap, State.hands]
  and_intros <;> decide +kernel

/-- The words of that block write pair 4 alone (R188). -/
theorem inBlock_dest (q : Nat) (h : ∃ w ∈ ([0x02432000, 0x29000000] : List IWord), ∃ i d, decode w = .ok i ∧ blockDest i = some d ∧
    d.toNat = q) : q % 2 = 0 := by
  obtain ⟨w, hw, i, d, hi, hd, rfl⟩ := h
  have h1 : decode 0x02432000 = .ok (.iaAdd 4 6 8) := by decide
  have h2 : decode 0x29000000 = .ok .vfEnd := by decide
  simp only [List.mem_cons, List.not_mem_nil, or_false] at hw
  obtain rfl | rfl := hw
  · rw [h1] at hi; injection hi with hi; subst hi; cases hd; rfl
  · rw [h2] at hi; injection hi with hi; subst hi; cases hd

/-- R187, R190: the same block before its first element, and at the `vf.end` of the last. -/
def blockAt (vf : Option VfRun) : State := inBlock.modCur (fun x => { x with vf := vf })

theorem witness_BlockRuns :
    (let s := blockAt none
     s.cur.inStream = 1 ∧ s.cur.saved = some { s0.cur.sc with pc := 0x7777 } ∧ s.cur.vf = none ∧ s.cur.rstix.toNat = 0 ∧
     s.cur.poison = [] ∧ s.cur.ring = none ∧ s.cur.closed = [] ∧ s.cur.mlines = [] ∧ 32 ∣ s.cur.vlg ∧ s.cur.sc.vlc ≤ s.cur.vlg ∧
     s.cur.vlg ≤ 512 ∧ 0 < s.cur.sc.vlc ∧ modeG s.cur.sc.md = 0) ∧
    (let r : VfRun := ⟨0x5000, [0x02432000, 0x29000000], 3, 0x5004, [], 63, [], 0⟩
     (blockAt (some r)).cur.vf = some r ∧ r.bpc = r.base + 4 * w64 (r.words.length - 1) ∧
     ∀ n, 3 + 1 ≤ n → ¬ n < (blockAt (some r)).cur.sc.vlc) := by
  refine ⟨by decide, rfl, by decide, ?_⟩
  intro n h
  show ¬ n < 4
  omega

/-- R239 to R242: four words of 32 bits at the end of the allotment, in places next to each other, 8 bytes apart, and by an
index register that holds 0. -/
theorem witness_VectorLoads : let s := atPad (at_ (modeOf 0 2 15 0 0 0 2)) 0 0xFFE0 8
    s.VecReady ∧ etyOfCode (modeETA s.cur.sc.md) = some .i32 ∧ ETy.i32 ≠ .n4 ∧ s.spans 31 32 32 ∧ s.holdsVlc 32 ∧
    s.cur.bound 7 = false ∧
    (∀ e < s.cur.sc.vlc, s.reg 4 + w64 (e * 4) = w64 (scratchBase + (0xFFE0 + 4 * e)) ∧ s.padPlain (0xFFE0 + 4 * e) 4) ∧
    (∀ e < s.cur.sc.vlc, s.reg 4 + w64 e * s.reg 5 = w64 (scratchBase + (0xFFE0 + 8 * e)) ∧ s.padPlain (0xFFE0 + 8 * e) 4) ∧
    (∀ e < s.cur.sc.vlc, s.cur.elt 31 32 e = 0 ∧ s.padPlain 0xFFE0 4) ∧
    s.cur.marks.length + 2 * s.cur.sc.vlc ≤ 8192 ∧ s.cur.pend.length + 2 * s.cur.sc.vlc ≤ 8192 ∧ s.cur.ident.alen ≤ 2 ^ 21 ∧
    (∀ e < s.cur.sc.vlc, s.cur.active e = true ∧ (0xFFE0 + 8 * e) % 4096 + 4 ≤ 4096 ∧ 0xFFE0 + 8 * e + 4 ≤ s.cur.ident.alen) ∧
    (let ls := [lineOf (scratchKey 0 4096 + 0xFFE0)]
     (∀ e < s.cur.sc.vlc, ∀ j < 4, lineOf (scratchKey 0 4096 + (0xFFE0 + 8 * e) + j) ∈ ls) ∧
     (∀ l ∈ outLines s.quad.d.out (some s.cur.ident.core), l ∈ ls) ∧ ls.length ≤ 64) := by
  dsimp only [State.Settled, State.Quiet, State.readable, State.writable, State.VecReady, State.spans, State.holdsVlc,
    State.padPlain, State.Direct, State.noTrap, State.hands]
  and_intros <;> decide +kernel

/-- A strip ring of three buffers from v8 on. -/
def ringed (bufs : List BufSt) (fp tp : Nat) (order : List Nat) : State := (atPad s0 0 0xFFE0 8).modCur (fun x => { x with
  ring := some ⟨8, 3, 1, bufs, fp, tp, order, [], [7, 8, 9], [], 0, 0⟩ })

/-- R180 to R185: counts 0, 1, 8 and 9; a free buffer at FP; a filled and a bound one; a filled buffer at TP; the longest bound
one. -/
theorem witness_StripRing :
    (let s := regs s0 8 9 1
     s.Quiet ∧ s.cur.ring = none ∧ (24 : Reg).toNat % modeGRP s.cur.sc.md = 0 ∧ s.reg 0 = 0 ∧ 1 ≤ (s.reg 5).toNat ∧
     1 ≤ (s.reg 3).toNat ∧ (s.reg 3).toNat ≤ 8 ∧ (24 : Reg).toNat + (s.reg 3).toNat * modeGRP s.cur.sc.md ≤ 32 ∧ 8 < (s.reg 4).toNat) ∧
    (let s := ringed [.free, .filled, .free] 0 1 []
     let r : Ring := ⟨8, 3, 1, [.free, .filled, .free], 0, 1, [], [], [7, 8, 9], [], 0, 0⟩
     s.Quiet ∧ s.cur.ring = some r ∧ r.filling = false ∧ r.buf r.fp = .free ∧ r.g ≤ 8 ∧ s.reg 5 ≠ 0 ∧
     (∀ e < s.cur.sc.vlc, s.reg 4 + w64 e * s.reg 5 = w64 (scratchBase + (0xFFE0 + 8 * e)) ∧ s.padPlain (0xFFE0 + 8 * e) (4 * r.g)) ∧
     (20 : Reg).toNat % modeGRP s.cur.sc.md = 0 ∧ (31 : Reg).toNat + modeGRP s.cur.sc.md ≤ 32 ∧ modeGRP s.cur.sc.md = r.g ∧
     r.meets 20 1 = false ∧ r.meets 31 1 = false ∧ r.buf r.tp = .filled) ∧
    (let r : Ring := ⟨8, 3, 1, [.filled, .bound 20, .free], 0, 0, [1], [], [7, 8, 9], [], 0, 0⟩
     (ringed [.filled, .bound 20, .free] 0 0 [1]).cur.ring = some r ∧ r.buf r.fp = .filled ∧ r.order = 1 :: [] ∧
     r.buf 1 = .bound (20 : Reg).toNat) ∧
    (let r : Ring := ⟨8, 3, 1, [.filled, .bound 20, .free], 1, 0, [1], [], [7, 8, 9], [], 0, 0⟩
     (ringed [.filled, .bound 20, .free] 1 0 [1]).cur.ring = some r ∧ r.buf r.fp = .bound 20) := by
  dsimp only [State.Settled, State.Quiet, State.readable, State.writable, State.VecReady, State.spans, State.holdsVlc,
    State.padPlain, State.Direct, State.noTrap, State.hands]
  and_intros <;> decide +kernel

/-- A shape of m rows and n columns with ACC, and a vector length. -/
def shaped (s : State) (m n acc vlc : Nat) : State := s.modSc (fun c => { c with
  tshape := w64 (m + 256 * n + 65536 * acc)
  vlc := vlc })

/-- R192 to R210: the greatest shape and a register that names it; a breach of it; the last tile and the last row, idle and
busy; four rows of the scratchpad. -/
theorem witness_TileResults :
    (let s := regs s0 (64 + 256 * 64 + 65536) (65 + 256 * 64) 63
     s.VecReady ∧ s.reg 3 = w64 (64 + 256 * 64 + 65536 * true.toNat) ∧ s.cur.sc.prot = false ∧
     tshapeOk s.cur.sc.prot (s.reg 4) = false ∧ (7 : Reg).toNat < s.cur.ntiles ∧ (7 : Reg).toNat < 8 ∧
     etyOfCode (modeETA s.cur.sc.md) = some .f32 ∧ etyRow .f32 = true ∧ (s.reg 5).toNat < 64 ∧ modeRND s.cur.sc.md ≤ 5 ∧
     s.cur.sc.busy.getLsbD 7 = false ∧ (s.modSc (fun c => { c with busy := 0x80 })).cur.sc.busy.getLsbD 7 = true) ∧
    (let s := atPad s0 0 0xFFC0 16
     s.VecReady ∧ (7 : Reg).toNat < s.cur.ntiles ∧ s.cur.sc.shape.1 = 4 ∧ s.cur.sc.shape.2.1 = 5 ∧ (s.reg 4).toNat % 4 = 0 ∧
     (s.reg 5).toNat % 4 = 0) ∧
    (let s := shaped (atPad s0 0 0xFFC0 16) 4 4 0 4
     s.VecReady ∧ s.cur.sc.shape.1 = 4 ∧ s.cur.sc.shape.2.1 = 4 ∧ s.cur.sc.shape.1 ≤ 64 ∧ (s.reg 4).toNat % 4 = 0 ∧
     (s.reg 5).toNat % 4 = 0 ∧
     (∀ i < 4, s.reg 4 + w64 i * s.reg 5 = w64 (scratchBase + (0xFFC0 + 16 * i)) ∧ s.padPlain (0xFFC0 + 16 * i) (4 * 4) ∧
       (0xFFC0 + 16 * i) % 4096 + 4 * 4 ≤ 4096 ∧ 0xFFC0 + 16 * i + 4 * 4 ≤ s.cur.ident.alen) ∧
     s.cur.ident.alen ≤ 2 ^ 21 ∧ s.cur.sc.busy.getLsbD 7 = false ∧ s.cur.marks.length + 2 * 4 * 4 ≤ 8192 ∧
     s.cur.pend.length + 2 * 4 * 4 ≤ 8192 ∧
     (let ls := [lineOf (scratchKey 0 4096 + 0xFFC0)]
      (∀ i < 4, ∀ j < 16, lineOf (scratchKey 0 4096 + (0xFFC0 + 16 * i) + j) ∈ ls) ∧
      (∀ l ∈ outLines s.quad.d.out (some s.cur.ident.core), l ∈ ls) ∧ ls.length ≤ 64)) := by
  dsimp only [State.Settled, State.Quiet, State.readable, State.writable, State.VecReady, State.spans, State.holdsVlc,
    State.padPlain, State.Direct, State.noTrap, State.hands]
  and_intros <;> decide +kernel

/-- R199 to R206: F16 operands in registers; I8 operands whose rows of one product each stand in the scratchpad. -/
theorem witness_OuterProducts :
    (let s := shaped (at_ (modeOf 0 10 15 5 0 0 2)) 2 2 0 4
     s.VecReady ∧ etyOfCode (modeETA s.cur.sc.md) = some .f16 ∧ modeETB s.cur.sc.md = 15 ∧ opaFp .f16 = true ∧
     opaPair .f16 .f16 = true ∧ s.cur.sc.shape.2.2 = opaInt .f16 ∧ modeRND s.cur.sc.md ≤ 5 ∧ (7 : Reg).toNat < s.cur.ntiles ∧
     s.holdsVlc 16 ∧ s.cur.sc.shape.1 ≤ 64 ∧ s.cur.sc.shape.2.1 ≤ 64 ∧ s.spans 31 16 16) ∧
    (let s := shaped (regs (at_ (modeOf 0 0 15 0 0 0 2)) 0 0xFFC0 (4 * 65536 + 8)) 2 2 1 8
     let p : PadOp := ⟨0xFFC0, 0, 4, 8⟩
     s.VecReady ∧ etyOfCode (modeETA s.cur.sc.md) = some .i8 ∧ opaInt .i8 = true ∧ opaPair .i8 .i8 = true ∧
     s.cur.sc.shape.2.2 = opaInt .i8 ∧ s.holdsVlc 8 ∧ bitsOf (s.reg 4) 63 24 = 0 ∧ bitsOf (s.reg 5) 63 32 = 0 ∧
     (∀ i < 2, s.padPlain (p.addr i) 4 ∧ p.addr i % 4 = 0)) := by
  dsimp only [State.Settled, State.Quiet, State.readable, State.writable, State.VecReady, State.spans, State.holdsVlc,
    State.padPlain, State.Direct, State.noTrap, State.hands]
  and_intros <;> decide +kernel

/-! #### The system forms, barriers, tensors and turns -/

/-- The launch of the strand's crew. -/
def launch1 : Launch := { stageLaunch with handle := w64 (2 ^ 48 + 1024), part := 1, vlmin := 32, vldes := 512 }

/-- The strand is offered a grant, and holds a vector length. -/
def offered (n : Option Nat) (vlc : Nat) : State := ({ s0 with launches := [launch1] }).modCur (fun x => { x with
  offer := n
  sc := { x.sc with vlc := vlc } })

/-- A transfer of the strand is bound to mask 1, whose bits reach beyond a grant of 32. -/
def boundMask : State := (offered (some 32) 64).modCur (fun x => { x with
  masks := x.masks.set 1 (BitVec.allOnes 512)
  chans := [{ Chan.zero with
    xfers := [⟨1, [0, 0, 0, 0, 0, 0x100, 0, 0], [], false, true, true, none, 0, [], [], 0, [], none, false, false⟩] }] })

/-- R123, R124, R155, R263, R403, R415: no offer, offers that fit and do not, one that would cut a bound buffer; the last and
the first index beyond the partition's vectors; pages that are resident, or not, with a fault queue and without. -/
theorem witness_SystemResults :
    (s0.Settled ∧ s0.cur.status = .running ∧ s0.part? s0.cur.ident.part = some part1 ∧ (∀ c ∈ s0.cur.chans, c.xfers = []) ∧
     s0.cur.ring = none ∧ s0.cur.offer = none) ∧
    (let s := offered (some 32) 4
     s.Settled ∧ s.cur.offer = some 32 ∧ 32 ≤ s.freeVec s.cur.ident.quad s.cur.ident.core + s.cur.vlg ∧
     s.crewOf s.cur.ident.crew = some crew5 ∧ s.launchOf crew5.launch = some launch1 ∧ vlMin' launch1.vlmin ≤ 32 ∧
     32 ≤ vlDes' launch1.vlmin launch1.vldes launch1.prot ∧ s.cur.cutsBound 32 = false) ∧
    ((offered (some 33) 4).Settled ∧ ¬ (33 % 32 = 0)) ∧
    (boundMask.Settled ∧ boundMask.cur.ring = none ∧ boundMask.cur.cutsBound 32 = true) ∧
    (let s := regs s0 3 4 0x500000
     (s.reg 3).toNat < part1.veccnt ∧ (s.reg 3).toNat < 2048 ∧ part1.veccnt ≤ (s.reg 4).toNat ∧
     part1.fqbase ≠ 0 ∧ canonical (s.reg 5) = true ∧ inWindow (s.reg 5) = false ∧
     (paged s 2).walk 1 (s.reg 5) = .none 1 false true ∧ ({ part1 with ptroot := 1 } : Part).fqFull = false ∧ part1.fqwait = [] ∧
     (paged s 0).walk 1 (s.reg 5) = .none 1 false false) := by
  dsimp only [State.Settled, State.Quiet, State.readable, State.writable, State.VecReady, State.spans, State.holdsVlc,
    State.padPlain, State.Direct, State.noTrap, State.hands]
  and_intros <;> decide +kernel

/-- A strand of partition 0 in privileged state, which acts on partition 3. -/
def boss (k : Nat) (halted saved lent : Bool) : State := { inPrv (regs s0 0 k 0) with
  parts := [{ part1 with id := 0, quads := [0] }, { part1 with id := 3, quads := [2], halted := halted, saved := saved }]
  quad := { Quad.empty 0 with part := some 0 }
  cur := { (inPrv (regs s0 0 k 0)).cur with ident := { id1 with part := 0 } }
  strands := [{ s0.cur with uid := 9, ident := { id1 with part := 3, quad := 2, crew := 8 }, status := if halted then .halted else .running }]
  quads := [{ Quad.empty 2 with part := some 3, lentTo := if lent then some 5 else none }]
  crews := [crew5, { crew5 with id := 8, part := 3, quad := 2 }] }

/-- The partition's parked strand. -/
def part1p : Part := { part1 with ptroot := 1, parked := [⟨2, 5, 17⟩] }

/-- R390: user state and privileged state; a handle that names a parked strand and one that does not; `sy.tlbinv` of all, of an
address, and beyond; a partition of its own, and another one that runs, is halted, and is saved. -/
theorem witness_PrivilegedResults :
    (s0.Settled ∧ s0.part? s0.cur.ident.part = some part1 ∧ s0.cur.sc.prv = false ∧ encode (.syHalt 4) ≠ none) ∧
    (let s := { inPrv (regs s0 (parkHandle 5 2).toNat 0x500001 2) with parts := [part1p] }
     s.Settled ∧ s.part? s.cur.ident.part = some part1p ∧ s.cur.sc.prv = true ∧
     part1p.parked.find? (fun h => parkHandle h.seq h.slot == s.reg 3) = some ⟨2, 5, 17⟩ ∧
     part1p.parked.find? (fun h => parkHandle h.seq h.slot == s.reg 4) = none ∧ (s.reg 4).toNat % 4096 ≤ 1 ∧
     (∀ x ∈ s.all, x.ident.part = s.cur.ident.part → x.pend = []) ∧ s.coveredOut s.cur.ident.part = false ∧ 1 < (s.reg 5).toNat % 4096 ∧
     s.cur.ident.part ≠ 0 ∧ (s.reg 5).toNat % 16 ≠ s.cur.ident.part ∧ (s.reg 4).toNat % 16 = s.cur.ident.part) ∧
    (∀ h ∈ [false, true], ∀ v ∈ [false, true], ∀ n ∈ [3, 256 + 3],
     let s := boss n h v false
     s.Settled ∧ s.cur.sc.prv = true ∧ s.cur.ident.part = 0 ∧ (s.reg 4).toNat % 16 ≠ 0 ∧ (s.reg 4).toNat = n ∧
     (s.part? s.cur.ident.part).isSome = true ∧
     (s.part? ((s.reg 4).toNat % 16)).map (fun x => (x.halted, x.saved)) = some (h, v)) ∧
    (let t := ((boss 3 false false false).modPart 3 (fun x => { x with halted := true })).haltStrands 3
     ∀ y ∈ t.partStrands 3, y.status ≠ .running ∧ t.saveReady y = true) ∧
    (let t := ((boss 3 true false false).crewsOn 3).foldl State.turnCrew (boss 3 true false false)
     t.crewsOn 3 ≠ [] ∧ ∀ c ∈ t.crewsOn 3, t.crewReady c = true) ∧
    (∀ n ∈ (boss 3 true true false).quad :: (boss 3 true true false).quads, n.part = some 3 → n.lentTo = none) ∧
    ((boss 3 true true true).quads.any (fun n => n.part == some 3 && n.lentTo.isSome)) = true := by
  dsimp only [State.Settled, State.Quiet, State.readable, State.writable, State.VecReady, State.spans, State.holdsVlc,
    State.padPlain, State.Direct, State.noTrap, State.hands]
  and_intros <;> decide +kernel

theorem witness_FaultQueueEntry :
    let p : Part := { part1 with fqsize := 1, fqhead := 31, fqtail := 0 }
    let s := { s0 with parts := [p] }
    Memory.wf s.mem = true ∧ (List.replicate 24 (7 : Byte)).length = 24 ∧ s.part? p.id = some p ∧
    s.part? s.cur.ident.part = some p ∧ s.held = false ∧ p.fqbase ≠ 0 ∧ p.fqFull = false ∧ p.fqwait = [] := by
  dsimp only [State.Settled, State.Quiet, State.readable, State.writable, State.VecReady, State.spans, State.holdsVlc,
    State.padPlain, State.Direct, State.noTrap, State.hands]
  and_intros <;> decide +kernel

/-- A barrier of the crew's kind with a COUNT, arrivals and the strand's record. -/
def barred (s : State) (count : Nat) (who : List Nat) (r : Option BarRec) : State :=
  let n := barKey (s.part? 1) id1 2 3
  (s.modQ (fun d => { d with bars := [⟨n, count, who, 7⟩] })).modCur (fun x => { x with
    barRecs := r.toList.map (fun q => { q with bar := n }) })

/-- R272 to R286: the last bit and word of the file and the first beyond; kinds 6, 0 and 5; identifiers at the limit; a
barrier without COUNT, one that completes, one that does not; records that are done and not; the bounds of the limit and of
COUNT. -/
theorem witness_BarrierResults :
    (s0.Settled ∧ s0.cur.status = .running) ∧
    (let s := regs s0 63 64 31
     s.Settled ∧ (s.reg 3).toNat ≤ 63 ∧ 63 < (s.reg 4).toNat ∧ (s.reg 5).toNat < 32 ∧ 31 < (s.reg 3).toNat) ∧
    (let s := regs s0 0x600 0x500 0x800
     6 ≤ (s.reg 3).toNat / 256 % 8 ∧ encode (.cfWait 3) ≠ none ∧ (s.reg 4).toNat / 256 % 8 ≤ 5 ∧ 2048 ≤ (s.reg 5).toNat ∧
     (s.reg 0).toNat / 256 % 8 = 0 ∧ barLimit (s.part? 1) 1 = 64 ∧ barLimit (s.part? 1) 5 ≤ 0) ∧
    (let n := barKey (some part1) id1 2 3
     let s := regs s0 0x203 0xFFFFFFFF (2 ^ 32)
     1 ≤ (s.reg 3).toNat / 256 % 8 ∧ (s.reg 3).toNat / 256 % 8 = 2 ∧ (s.reg 3).toNat < 2048 ∧
     (s.reg 3).toNat % 256 < barLimit (s.part? 1) 2 ∧ (s.bar n).count = 0 ∧ ((barred s 2 [9] none).bar n).count = 2 ∧
     ((barred s 2 [9] none).bar n).who.length < 2 ^ 31 ∧ (barred s 2 [9] none).cur.barRec n = none ∧
     (s.reg 4).toNat < 2 ^ 32 ∧ 2 ^ 32 ≤ (s.reg 5).toNat ∧
     (let u := barred s 3 [9] (some ⟨n, some 6, true, 1020⟩)
      u.Settled ∧ u.cur.barRec n = some ⟨n, some 6, true, 1020⟩ ∧ 1020 ≤ u.timer + (s.reg 4).toNat) ∧
     (let u := barred s 3 [9] (some ⟨n, some 7, false, 0⟩)
      u.Settled ∧ u.cur.barRec n = some ⟨n, some 7, false, 0⟩ ∧ s.reg 0 = 0 ∧ s.reg 4 ≠ 0) ∧
     ((((barred s 2 [9] none).modCur (fun y => y.noteArrival n)).arriveAt 1 n).cur.barRec n).map (fun r => r.done) = some true ∧
     ((((barred s 3 [9] none).modCur (fun y => y.noteArrival n)).arriveAt 1 n).cur.barRec n).map (fun r => r.done) = some false) ∧
    (let s := regs s0 (2 ^ 20 - 1) (2 ^ 20) (2 ^ 21)
     (s.reg 3).toNat < 2 ^ 20 ∧ (s.reg 4).toNat = 2 ^ 20 ∧ s.crewOf s.cur.ident.crew = some crew5 ∧ 2 ^ 21 ≤ (s.reg 5).toNat) := by
  dsimp only [State.Settled, State.Quiet, State.readable, State.writable, State.VecReady, State.spans, State.holdsVlc,
    State.padPlain, State.Direct, State.noTrap, State.hands]
  and_intros <;> decide +kernel

/-- A descriptor with a type, a rank, a split, a scale type, a fill, its bases, its extents and its strides. -/
def descriptor (ty rank split stype fill base sbase : Nat) (dims strides : List Nat) : List Byte :=
  [BitVec.ofNat 8 ty, BitVec.ofNat 8 rank, BitVec.ofNat 8 split, BitVec.ofNat 8 stype, 0, 0, 0, 0] ++ leBytes 8 base ++
  leBytes 8 sbase ++ leBytes 4 fill ++ leBytes 4 0 ++ ((dims ++ [0, 0, 0, 0, 0]).take 5).flatMap (leBytes 4) ++ leBytes 4 0 ++
  ((strides ++ [0, 0, 0, 0, 0]).take 5).flatMap (leBytes 8) ++ List.replicate 32 0

/-- Nine columns by five rows of I32 at offset 0x2000 of the allotment. -/
def desc1 : List Byte := descriptor 2 2 0 0 0x99 (scratchBase + 0x2000) 0 [9, 5] [4, 40]

theorem witness_TensorDescriptors :
    (let s := pad (regs s0 3 (scratchBase + 0xFF80) 0) 0xFF80 desc1
     s.Quiet ∧ s.reg 4 = w64 (scratchBase + 0xFF80) ∧ 0xFF80 % 128 = 0 ∧ s.padPlain 0xFF80 128 ∧
     firstBad (descRules (memGetN s.mem (scratchKey 0 (4096 + 0xFF80)) 128)) = none ∧
     (firstBad (descRules (desc1.set 1 6))).isSome = true ∧ s.cur.tids.find? (fun t => t.1 == 3) = none) ∧
    (let s := (regs s0 3 15 16).modCur (fun x => { x with tids := [(3, desc1)] })
     s.Quiet ∧ s.cur.tids.find? (fun t => t.1 == (s.reg 3).toNat % 256) = some (3, desc1) ∧ (s.reg 4).toNat ≤ 15 ∧
     15 < (s.reg 5).toNat) := by
  dsimp only [State.Settled, State.Quiet, State.readable, State.writable, State.VecReady, State.spans, State.holdsVlc,
    State.padPlain, State.Direct, State.noTrap, State.hands]
  and_intros <;> decide +kernel

/-- An origin record at coordinates (c0, c1) of extents (e0, e1) and pad p. -/
def origin (c0 c1 e0 e1 p : Nat) : List Byte :=
  leBytes 4 c0 ++ leBytes 4 c1 ++ leBytes 12 0 ++ leBytes 4 0 ++ leBytes 2 e0 ++ leBytes 2 e1 ++ leBytes 2 1 ++ leBytes 2 1 ++
  leBytes 2 1 ++ leBytes 2 0 ++ leBytes 4 p ++ leBytes 8 0 ++ List.replicate 16 0

/-- R214 to R217: a window whose last row and last columns lie outside the tensor. -/
theorem witness_TensorTransfers :
    let s := pad ((regs s0 0x3000 3 (scratchBase + 256)).modCur (fun x => { x with tids := [(3, desc1)] })) 256 (origin 4 3 9 3 96)
    let r := memGetN s.mem (scratchKey 0 4096 + 256) 64
    let w := winOf (descOf desc1) r 0x3000
    let mem (i : Nat) : Nat := 0x2000 + 40 * (3 + i) + 16
    Memory.wf s.mem = true ∧ s.Settled ∧ s.cur.marks.length < 8192 ∧ 256 % 64 = 0 ∧
    (outLines s.quad.d.out (some s.cur.ident.core)).length < 64 ∧ s.cur.tids.find? (fun t => t.1 == (s.reg 4).toNat % 256) = some (3, desc1) ∧ (descOf desc1).ty ≠ .n4 ∧
    s.reg 5 = w64 (scratchBase + 256) ∧ s.padPlain 256 64 ∧ (s.reg 3).toNat = 0x3000 ∧ firstBad (originRules (descOf desc1) r) = none ∧
    32 * w.s * w.rows ≤ 65536 ∧ w.stop ≤ s.cur.ident.alen ∧ w.rows = 3 ∧
    (w.inside 0).isSome = true ∧ (w.inside 2) = none ∧
    (∀ i < w.rows, ∀ p ∈ w.inside i, p.2.2 = w64 (scratchBase + mem i) ∧ s.padPlain (mem i) (p.2.1 * 4) ∧
      mem i + p.2.1 * 4 ≤ w.off) ∧
    (∀ i < w.rows, s.padPlain (w.rowOff i) (32 * w.s)) ∧
    (∀ i < w.rows, ∀ j < w.rows, ∀ p ∈ w.inside i, ∀ q ∈ w.inside j, i = j ∨ mem i + p.2.1 * 4 ≤ mem j ∨ mem j + q.2.1 * 4 ≤ mem i) := by
  dsimp only [State.Settled, State.Quiet, State.readable, State.writable, State.VecReady, State.spans, State.holdsVlc,
    State.padPlain, State.Direct, State.noTrap, State.hands]
  and_intros <;> decide +kernel

/-- A packed tensor of 32 elements with its scale, and one of 32 F32 elements. -/
def packed : State := (regs s0 3 4 5).modCur (fun x => { x with
  tids := [(3, descriptor 12 1 0 0 0 (scratchBase + 0x3000) 0 [32] [4]), (4, descriptor 14 1 5 0x80 0 (scratchBase + 0x2000) (scratchBase + 0x2040) [32] [0])] })

theorem witness_TensorPacking :
    let s := packed
    let el := descOf (descriptor 12 1 0 0 0 (scratchBase + 0x3000) 0 [32] [4])
    let n4 := descOf (descriptor 14 1 5 0x80 0 (scratchBase + 0x2000) (scratchBase + 0x2040) [32] [0])
    let k : Blk := ⟨[0, 0, 0, 0], 0, (scratchBase + 0x2000 : Nat)⟩
    Memory.wf s.mem = true ∧ s.Settled ∧ s.quad.id = s.cur.ident.quad ∧
    (s.cur.tids.find? (fun t => t.1 == (s.reg 3).toNat % 256)).map (fun t => descOf t.2) = some el ∧
    (s.cur.tids.find? (fun t => t.1 == (s.reg 4).toNat % 256)).map (fun t => descOf t.2) = some n4 ∧
    packOk n4 el etyIsArith etyN4 = false ∧ packOk el n4 etyN4 etyWide = false ∧
    packOk el n4 etyIsArith etyN4 = true ∧ packOk n4 el etyN4 etyWide = true ∧
    n4.blocks = [k] ∧ n4.pieces = [(wordZ k.code, 16), (n4.scaleAddr k, 1)] ∧ el.pieces = [(el.partAddr k, 128)] ∧
    wordZ k.code = w64 (scratchBase + 0x2000) ∧ n4.scaleAddr k = w64 (scratchBase + 0x2040) ∧
    el.partAddr k = w64 (scratchBase + 0x3000) ∧ s.padPlain 0x3000 128 ∧ s.padPlain 0x2000 16 ∧ s.padPlain 0x2040 1 := by
  dsimp only [State.Settled, State.Quiet, State.readable, State.writable, State.VecReady, State.spans, State.holdsVlc,
    State.padPlain, State.Direct, State.noTrap, State.hands]
  and_intros <;> decide +kernel

/-- R232 to R237: the bytes of a store, in a region of the scratchpad that holds them; the greatest length and one more; an
address that is not canonical; a length of 0. -/
theorem witness_TurnResults :
    let s := regs stored (scratchBase + 64) 8 0
    Memory.wf s.mem = true ∧ s.Quiet ∧ s.Direct ∧ s.cur.status = .running ∧ s.quad.id = s.cur.ident.quad ∧ s.cur.sc.scopectl = 0 ∧
    s.cur.sc.turnprg = 0 ∧ s.cur.ring = none ∧ (∀ x ∈ s.quad.d.out, x.sent = none) ∧ (∀ m ∈ s.cur.marks, 0 < m.size) ∧ (∀ p ∈ s.cur.pend, 0 < p.size) ∧ canonical (s.reg 3) = true ∧
    (s.reg 3).toNat + 7 < 2 ^ 64 ∧ canonical (w64 ((s.reg 3).toNat + 7)) = true ∧ (s.reg 5).toNat = 0 ∧
    (let g := s.widen (s.reg 3)
     let as_ := s.areas ((s.reg 3).toNat / g * g) (((s.reg 3).toNat + 7) / g * g + g - 1)
     s.cur.marks.any (fun m => as_.any (fun A => decide (A.key ≤ m.key ∧ m.key < A.key + A.n))) = true ∧
     s.cur.pend.any (fun p => as_.any (fun A => decide (A.key ≤ p.key ∧ p.key < A.key + A.n)) &&
       s.quad.d.out.any (fun x => x.core == some 0 && x.owners.contains 1 && decide (p.key ≤ x.key ∧ x.key < p.key + p.size) &&
         s.quad.d.out.all (fun y => y.key != x.key || y == x) &&
         s.quad.d.out.all (fun y => y.key / 512 != x.key / 512 || y.tag.kid == x.tag.kid))) = true) ∧
    (let r := regs s0 (2 ^ 60) (2 ^ 32 + 1) (2 ^ 32)
     2 ^ 32 < (r.reg 4).toNat ∧ (r.reg 5).toNat ≤ 2 ^ 32 ∧ canonical (r.reg 3) = false) := by
  dsimp only [State.Settled, State.Quiet, State.readable, State.writable, State.VecReady, State.spans, State.holdsVlc,
    State.padPlain, State.Direct, State.noTrap, State.hands]
  and_intros <;> decide +kernel

/-! #### Tokens, windows, lines and atomics -/

/-- A partition whose tokens start at 4096. -/
def partTok : Part := { part1 with tbase := 4096 }

/-- The strand names a token of an owner. -/
def tokened (tok owner : Nat) (ts : List Token) (rs : List TokReq) : State := { regs s0 (tok + owner * 2 ^ 32) 0 0 with
  parts := [partTok]
  tokens := ts
  tokReqs := rs }

/-- The crew with k windows open. -/
def crewWin (k : Nat) : Crew := { crew5 with windows := (List.range k).map (fun i => (i, 0, 511)) }

/-- A cached, writable page of 1 GiB at the address 2^40. -/
def mapped (s : State) : State := { s with
  parts := [{ part1 with ptroot := 1 }]
  mem := memSetN (memSetN s.mem (homeKey 0 0x1010) (leBytes 8 0x2001)) (homeKey 0 0x2000) (leBytes 8 0x400000FF) }

/-- The line of an address that may be locked. -/
def lineOf (s : State) : Option Nat :=
  match segsM (s.reg 4) 1 accLock 0 s with
  | .ok gs _ => gs.findSome? (fun g => match g.page with
      | some p => if p.cach && keyHome g.key == 0 then some (keyPa g.key / 512) else none
      | none => none)
  | .error _ _ => none

/-- R308 to R315: the last token and the first beyond, free, handed to the owner, held, asked for. -/
theorem witness_TokenResults :
    (let s := tokened 7 9 [] []
     s.Settled ∧ s.cur.status = .running ∧ s.part? s.cur.ident.part = some partTok ∧ s.reg 0 = 0 ∧
     (s.reg 3).toNat / 4096 % 2 ^ 20 = 0 ∧ (s.reg 3).toNat < 2 ^ 48 ∧ (s.reg 3).toNat % 4096 < partTok.tcount ∧
     s.token 4103 = none ∧ (∀ r ∈ s.tokReqs, r.idx ≠ 4103) ∧ s.holdsToken 4103 = false) ∧
    partTok.tcount ≤ ((tokened 8 9 [] []).reg 3).toNat % 4096 ∧
    (tokened 7 9 [⟨4103, .handed 9⟩] []).token 4103 = some (.handed 9) ∧
    (tokened 7 9 [⟨4103, .held 9 1⟩] []).holdsToken 4103 = true ∧
    (tokened 7 9 [⟨4103, .handed 9⟩] [⟨4103, 9, 33, 4⟩]).tokReqs.find? (fun r => r.idx == 4103 &&
      mayTake ((tokened 7 9 [⟨4103, .handed 9⟩] [⟨4103, 9, 33, 4⟩]).token 4103) r.owner) = some ⟨4103, 9, 33, 4⟩ ∧
    okM (regionOf ((tokened 7 9 [] []).reg 0) ((tokened 7 9 [] []).reg 0)) (tokened 7 9 [] []) (fun r _ => r.isNone) = true := by
  dsimp only [State.Settled, State.Quiet, State.readable, State.writable, State.VecReady, State.spans, State.holdsVlc,
    State.padPlain, State.Direct, State.noTrap, State.hands]
  and_intros <;> decide +kernel

/-- R316 to R319: no window, all four, and the last place; lengths 0, 1, 2^32 and beyond; windows 3 and 4; a scratchpad address and a
cached line. -/
theorem witness_WindowsAndLocks :
    (let s := regs s0 (2 ^ 40) (2 ^ 32) (2 ^ 32 + 1)
     s.Settled ∧ s.crewOf s.cur.ident.crew = some crew5 ∧ (s.reg 0).toNat = 0 ∧ 2 ^ 32 < (s.reg 5).toNat ∧
     1 ≤ (s.reg 4).toNat ∧ (s.reg 4).toNat ≤ 2 ^ 32 ∧ canonical (s.reg 3) = true ∧ (s.reg 3).toNat + 2 ^ 32 - 1 < 2 ^ 64 ∧
     canonical (w64 ((s.reg 3).toNat + 2 ^ 32 - 1)) = true ∧ part1.qways ≠ 0 ∧ ({ part1 with qways := 0 } : Part).qways = 0 ∧
     (∀ k < 4, ∃ w ∈ (crewWin 4).windows, w.1 = k) ∧ (∀ w ∈ (crewWin 3).windows, w.1 ≠ 3) ∧
     (∀ j < 3, ∃ w ∈ (crewWin 3).windows, w.1 = j) ∧ (∀ w ∈ crew5.windows, w.1 ≠ 0) ∧
     3 < ((regs s0 3 4 0).reg 4).toNat ∧ ((regs s0 3 4 0).reg 3).toNat ≤ 3) ∧
    (let s := atPad s0 0 0xFFFF 0
     scratchBase ≤ (s.reg 4).toNat ∧ (s.reg 4).toNat < scratchBase + s.cur.ident.alen ∧ s.cur.ident.alen ≤ 2 ^ 21) ∧
    (let s := mapped (regs s0 0 (2 ^ 40) 0)
     s.Settled ∧ okM (segsM (s.reg 4) 1 accLock 0) s (fun _ t => !t.held) = true ∧ lineOf s = some (0x40000000 / 512)) := by
  dsimp only [State.Settled, State.Quiet, State.readable, State.writable, State.VecReady, State.spans, State.holdsVlc,
    State.padPlain, State.Direct, State.noTrap, State.hands]
  and_intros <;> decide +kernel

/-- R332, R333: an I32, a C64, an F32 and an F64 word, aligned and misaligned, under SCP 1, 5, 0 and 6; an ETA that a form does
not admit. -/
theorem witness_AtomicResults :
    (let s := atPad (at_ (modeOf 0 2 15 0 0 0 1)) 0 0xFFFC 7
     s.Settled ∧ etyOfCode (modeETA s.cur.sc.md) = some .i32 ∧ 1 ≤ modeSCP s.cur.sc.md ∧ modeSCP s.cur.sc.md ≤ 5 ∧
     s.reg 4 = w64 (scratchBase + 0xFFFC) ∧ s.padPlain 0xFFFC 4 ∧ 0xFFFC % 4 = 0 ∧ keyHome (scratchKey 0 (4096 + 0xFFFC)) = 3 ∧
     (∀ r ∈ s.quad.d.recs, r.scope = 0) ∧ s.quad.d.out = [] ∧ encode (.atAdd 3 4 5 false .rlx false) ≠ none) ∧
    (let s := atPad (at_ (modeOf 0 7 15 0 0 0 5)) 0 0xFFF8 7
     s.Settled ∧ etyOfCode (modeETA s.cur.sc.md) = some .c64 ∧ modeSCP s.cur.sc.md ≤ 5 ∧ s.padPlain 0xFFF8 8) ∧
    etyOfCode (modeETA (at_ (modeOf 0 12 15 0 0 0 1)).cur.sc.md) = some .f32 ∧
    etyOfCode (modeETA (at_ (modeOf 0 13 15 0 0 0 1)).cur.sc.md) = some .f64 ∧
    etyOfCode (modeETA (at_ (modeOf 0 0 15 0 0 0 1)).cur.sc.md) = some .i8 ∧
    modeSCP (at_ (modeOf 0 2 15 0 0 0 0)).cur.sc.md = 0 ∧ 6 ≤ modeSCP (at_ (modeOf 0 2 15 0 0 0 6)).cur.sc.md ∧
    (let s := atPad (at_ (modeOf 0 2 15 0 0 0 1)) 0 0xFFFA 7
     s.reg 4 = w64 (scratchBase + 0xFFFA) ∧ 0xFFFA + 4 ≤ s.cur.ident.alen ∧ 0xFFFA % 4 ≠ 0) := by
  dsimp only [State.Settled, State.Quiet, State.readable, State.writable, State.VecReady, State.spans, State.holdsVlc,
    State.padPlain, State.Direct, State.noTrap, State.hands]
  and_intros <;> decide +kernel

theorem witness_VectorAtomicResults :
    let s := (regs (at_ (modeOf 0 2 15 0 0 0 2)) 0 0 (scratchBase + 0xFFFC)).modSc (fun c => { c with vlc := 1 })
    s.Settled ∧ s.VecReady ∧ etyOfCode (modeETA s.cur.sc.md) = some .i32 ∧ 1 ≤ modeSCP s.cur.sc.md ∧ modeSCP s.cur.sc.md ≤ 5 ∧
    s.spans 31 32 32 ∧ s.spans 30 32 32 ∧ s.holdsVlc 32 ∧ s.cur.sc.vlc = 1 ∧ s.cur.active 0 = true ∧ s.cur.elt 30 32 0 = 0 ∧
    s.reg 5 + BitVec.ofInt 64 0 = w64 (scratchBase + 0xFFFC) ∧ s.padPlain 0xFFFC 4 ∧ keyHome (scratchKey 0 (4096 + 0xFFFC)) = 3 ∧
    s.quad.d.recs = [] ∧ s.quad.d.out = [] := by
  dsimp only [State.Settled, State.Quiet, State.readable, State.writable, State.VecReady, State.spans, State.holdsVlc,
    State.padPlain, State.Direct, State.noTrap, State.hands]
  and_intros <;> decide +kernel

/-! #### Copies, publications, reductions and launches -/

/-- Channel 1 of the strand holds register values. -/
def copying (ws : List Nat) : State := s0.modCur (fun x => x.modChan 1 (fun c => { c with shadow := ws.map w64 }))

/-- A transfer as it is taken. -/
def xferOf (ident : Nat) (ws : List Nat) : Xfer := {
  ident := ident, words := ws.map w64, desc := [], prv := false, released := true, started := false, slot := none, next := 0,
  plan := [], chunks := [], bytes := 0, blocks := [], fail := none, glob := false, sig := false }

/-- A controller of crew 5 with a slot filled and one acquired. -/
def cb5 : Cb := ⟨2, 5, 1024, 4, 6, 4, 1, 0, 3, [], [3], [], []⟩

/-- The quad has a controller. -/
def withCb (s : State) (c : Cb) : State := s.modQ (fun q => { q with cbs := [c] })

/-- R357 to R375: a transfer whose registers keep every rule and one whose source does not; eight transfers; an identifier
reached, one 2^47 before it, and the next; no controller, one of the crew, one of another, empty or with no slot acquired;
controllers of 0, 1, 64 and 65 slots. -/
theorem witness_CopyResults :
    (let s := copying [scratchBase, scratchBase + 4096, 64, 0, 0, 0x300, 0, 0]
     s.Settled ∧ (s.cur.chan 1).xfers.length < 8 ∧ s.cpBad (s.cur.chan 1).shadow = none) ∧
    (let s := copying [scratchBase + 65536, scratchBase + 4096, 64, 0, 0, 0, 0, 0]
     s.Settled ∧ (s.cpBad (s.cur.chan 1).shadow).isSome = true) ∧
    (let s := s0.modCur (fun x => x.modChan 1 (fun c => { c with xfers := List.replicate 8 (xferOf 1 []) }))
     s.Settled ∧ 8 ≤ (s.cur.chan 1).xfers.length) ∧
    (let s := regs s0 10 11 0
     (10 + 2 ^ 48 - (s.reg 3).toNat % 2 ^ 48) % 2 ^ 48 < 2 ^ 47 ∧ 2 ^ 47 ≤ (10 + 2 ^ 48 - (s.reg 4).toNat % 2 ^ 48) % 2 ^ 48) ∧
    (s0.quad.d.cbs.find? (fun c => c.idx == 2) = none) ∧
    ((withCb s0 cb5).Settled ∧ (withCb s0 cb5).quad.d.cbs.find? (fun c => c.idx == 2) = some cb5 ∧
     cb5.owner = (withCb s0 cb5).cur.ident.crew ∧ cb5.filled ≠ 0 ∧ cb5.waitq = [] ∧ cb5.acqd = 3 :: [] ∧
     ({ cb5 with filled := 0, acqd := [], owner := 6 } : Cb).filled = 0 ∧ (6 : Nat) ≠ (withCb s0 cb5).cur.ident.crew) ∧
    (let v := 1024 + 4 * 2 ^ 21 + 64 * 2 ^ 32
     v < 2 ^ 39 ∧ v / 2 ^ 32 % 2 ^ 7 = 64 ∧ v / 2 ^ 21 % 2 ^ 11 = 4 ∧ v % 2 ^ 21 + 64 * 4 * 32 ≤ s0.cur.ident.alen ∧
     s0.cbTarget 5 2 = false) ∧
    64 < (1024 + 4 * 2 ^ 21 + 65 * 2 ^ 32) / 2 ^ 32 % 2 ^ 7 ∧ 2 ^ 39 ≤ 2 ^ 39 + 1024 ∧ 1024 / 2 ^ 32 % 2 ^ 7 = 0 := by
  dsimp only [State.Settled, State.Quiet, State.readable, State.writable, State.VecReady, State.spans, State.holdsVlc,
    State.padPlain, State.Direct, State.noTrap, State.hands]
  and_intros <;> decide +kernel

/-- A publication's record, and a subscription's. -/
def pubRec (base len id : Nat) : List Byte := leBytes 8 base ++ leBytes 8 len ++ leBytes 2 id ++ List.replicate 46 0

/-- A subscription's record. -/
def subRec (dev id len vw : Nat) : List Byte :=
  leBytes 1 dev ++ leBytes 1 0 ++ leBytes 2 id ++ leBytes 4 0 ++ leBytes 8 len ++ leBytes 8 vw ++ leBytes 8 0

/-- A record stands at offset 64 of the allotment, which s3 names, and s4 holds a value. -/
def recorded (bs : List Byte) (v : Nat) : State := pad (mapped (regs s0 (scratchBase + 64) v 0)) 64 bs

/-- Subscriber i on module dev. -/
def sub (i dev : Nat) : Sub := ⟨i, dev, 1, pageTag 0 0x3008, [pageTag 0 0x5000], 0, 0, true⟩

/-- A publication of one page with two subscribers, the second on a module that no link reaches. -/
def pub7 : Pub := {
  id := 7, part := 1, base := 2 ^ 40, len := 4096, pages := [pageTag 0 0x40000000], version := 3, seqNo := 2,
  subs := [sub 0 3, sub 2 9], dirty := [], drops := 1 }

/-- A run that has lines to deliver to both. -/
def run7 : PubRun := ⟨7, 4, 1, 55, [(0, [0x200000]), (2, [0x200000])], 0⟩

/-- The machine with that publication and run. -/
def published : State := { s0 with pubs := [pub7], pubRuns := [run7], links := [] }

/-- A message of a collective. -/
def msg1 : CollMsg := ⟨1, 2, 0, true, 13, 12, 0, 2, [3, 4], []⟩

/-- A subscription of another strand. -/
def req7 (dev len : Nat) : SubReq := ⟨7, dev, 1, len, pageTag 0 0x3008, [pageTag 0 0x5000], 0, 0, none⟩

/-- R437 to R445: records that keep every rule and that break one, with LEN 0 and not; a copy of 0, on a page's first byte, and
not; a misaligned version word and one read at its home; a subscriber in reach and one out of reach; free slots and none; a
message that is known, and one that is not. -/
theorem witness_PublicationResults :
    (let s := recorded (pubRec (2 ^ 40) 4096 7) 0
     s.Settled ∧ s.cur.status = .running ∧ s.reg 3 = w64 (scratchBase + 64) ∧ keyHome (scratchKey 0 (4096 + 64)) = 3 ∧
     keyHome (scratchKey 0 (4096 + 64) + 128) = 3 ∧ s.padPlain 64 64 ∧ firstBad (s.pubRules (pubRec (2 ^ 40) 4096 7)) = none ∧
     firstBad (s.pubRules (pubRec (2 ^ 40) 0 7)) = none ∧ (firstBad (s.pubRules (pubRec (2 ^ 40 + 1) 4096 7))).isSome = true ∧
     s.pub? 7 = none) ∧
    (let s := recorded (subRec 3 7 4096 (2 ^ 40 + 8)) (2 ^ 40)
     s.Settled ∧ s.padPlain 64 32 ∧ s.reg 4 ≠ 0 ∧ firstBad (s.subRules (subRec 3 7 4096 (2 ^ 40 + 8))) = none ∧
     (firstBad (s.subRules (subRec 64 7 4096 (2 ^ 40 + 8)))).isSome = true ∧ (w64 (2 ^ 40 + 8)).toNat % 4096 ≠ 0 ∧ s.reg 5 = 0) ∧
    (let s := mapped (regs s0 0 (2 ^ 40 + 4) (2 ^ 40))
     s.Settled ∧ (s.reg 4).toNat % 8 ≠ 0 ∧ (s.reg 5).toNat % 8 = 0 ∧ okM (segsM (s.reg 5) 8 accLd 0) s (fun gs u =>
       match gs with
       | [g] => g.page.isSome && keyHome g.key == 0 && (u.poisonIn g.key 8).isNone
       | _ => false) = true) ∧
    (let s := published
     s.pub? 7 = some pub7 ∧ s.pubRuns.find? (fun r => r.pubid == 7 && r.todo.any (fun t => t.1 == 0)) = some run7 ∧
     s.pubRuns.find? (fun r => r.pubid == 7 && r.todo.any (fun t => t.1 == 2)) = some run7 ∧
     pub7.subs.find? (fun b => b.slot == 0) = some (sub 0 3) ∧ pub7.subs.find? (fun b => b.slot == 2) = some (sub 2 9) ∧
     s.reaches 3 = true ∧ s.reaches 9 = false) ∧
    (Memory.wf published.mem = true ∧ published.keyGen = [] ∧ (sub 0 3).dev = published.devid ∧ pub7.places [0x200000] = [(0x200000, 0)] ∧
     tagPa ((sub 0 3).pages.getD 0 0) + 4096 ≤ 2 ^ 52 ∧ tagPa (sub 0 3).vword + 8 ≤ 2 ^ 52 ∧ 512 * 0x200000 + 512 ≤ 2 ^ 52 ∧
     homeKey 0 (tagPa (sub 0 3).vword) + 8 ≤ homeKey 0 (tagPa ((sub 0 3).pages.getD 0 0))) ∧
    ((∃ b ∈ pub7.subs, b.slot = 2 ∧ published.reaches b.dev = false) ∧ (∀ b ∈ pub7.subs, b.slot = 0 → published.reaches b.dev = true)) ∧
    ((req7 9 4096).uid = none ∧ (req7 3 4096).dev = published.devid ∧ (req7 9 4096).dev ≠ published.devid ∧
     pub7.len ≠ (req7 9 8192).len ∧ pub7.len = (req7 9 4096).len ∧ (∀ b ∈ pub7.subs, b.slot ≠ 1) ∧ (∀ j < 1, ∃ b ∈ pub7.subs, b.slot = j) ∧
     ∀ i < 64, ∃ b ∈ (List.range 64).map (fun k => sub k 3), b.slot = i) ∧
    ((∃ k ∈ [msg1], k.collid = msg1.collid ∧ k.seq = msg1.seq ∧ k.pos = msg1.pos ∧ k.join = msg1.join) ∧ s0.colls = [] ∧
     (s0.modCur (fun x => { x with note := some [noteRed, 0] })).cur.note = some (noteRed :: [0])) ∧
    (let q : Req := ⟨⟨4, 9, 0, 7, .sub 3 (req7 9 4096)⟩, [], .travel, 0, [], false, false, 0⟩
     let s := { s0 with reqs := [q] }
     ({ req7 9 4096 with uid := some 9 } : SubReq).uid = some 9 ∧ q.eff.kind = .sub s.devid (req7 9 4096) ∧
     s.reqs.find? (fun q => q.eff.uid == 9 && (match q.eff.kind with | .sub _ _ => true | _ => false)) = some q) := by
  dsimp only [State.Settled, State.Quiet, State.readable, State.writable, State.VecReady, State.spans, State.holdsVlc,
    State.padPlain, State.Direct, State.noTrap, State.hands]
  and_intros <;> decide +kernel

/-- A member's joining, or values that leave a position. -/
def collMsg (pos : Nat) (join : Bool) (vs : List Nat) : CollMsg := ⟨1, 2, pos, join, 13, 12, 0, 3, [7, 9, 3], vs.map w64⟩

/-- The last of three members of an F32 sum of four elements, at position 2. -/
def redRec : List Byte :=
  leBytes 4 1 ++ leBytes 1 3 ++ leBytes 1 2 ++ leBytes 1 0 ++ leBytes 1 0 ++ leBytes 64 (7 + 9 * 256 + 3 * 65536) ++ leBytes 8 2 ++
  List.replicate 48 0

/-- Every other member has joined, and the values that leave position 1 have arrived. -/
theorem witness_ReductionResult :
    let j (p : Nat) (join : Bool) (vs : List Nat) : CollMsg := ⟨1, 2, p, join, 4, 12, 0, 3, [7, 9, 3], vs.map w64⟩
    let s := { pad (atPad s0 0 0xFF80 0) 0xFF80 redRec with
      colls := [j 0 true [], j 1 true [], j 0 false [1, 2, 3, 4], j 1 false [5, 6, 7, 8]], links := [7, 9], devid := 3 }
    s.Settled ∧ s.VecReady ∧ etyOfCode (modeETA s.cur.sc.md) = some .f32 ∧ redType .f32 = true ∧ modeRND s.cur.sc.md ≤ 5 ∧
    s.spans 31 32 32 ∧ s.holdsVlc 32 ∧ s.reg 4 = w64 (scratchBase + 0xFF80) ∧ 0xFF80 % 128 = 0 ∧ s.padPlain 0xFF80 128 ∧
    keyHome (scratchKey 0 (4096 + 0xFF80)) = 3 ∧ keyHome (scratchKey 0 (4096 + 0xFF80) + 128) = 3 ∧
    firstBad (s.redRules redRec) = none ∧ (∀ m ∈ s.colls, m.collid = 1 → m.seq = 2 → m.pos ≠ 2) ∧
    (∀ p < 2, (joinOf (s.call 1 2) p).any (fun m => m.n == 4 && m.eta == 12 && m.op == 0 && m.npos == 3 &&
      m.devs == (redDevs redRec).take 3) = true) ∧
    leaves (s.call 1 2) 1 = some [5, 6, 7, 8] := by
  dsimp only [State.Settled, State.Quiet, State.readable, State.writable, State.VecReady, State.spans, State.holdsVlc,
    State.padPlain, State.Direct, State.noTrap, State.hands]
  and_intros <;> decide +kernel

/-- A launch block. -/
def lpb (entry done nx ny nz nstr prio tiles fl vlmin vldes spad mg dep : Nat) : List Byte :=
  leBytes 8 entry ++ leBytes 8 99 ++ leBytes 8 done ++ leBytes 4 nx ++ leBytes 4 ny ++ leBytes 4 nz ++ leBytes 1 nstr ++
  leBytes 1 prio ++ leBytes 1 tiles ++ leBytes 1 fl ++ leBytes 2 vlmin ++ leBytes 2 vldes ++ leBytes 4 spad ++ leBytes 1 mg ++
  leBytes 7 0 ++ leBytes 8 dep ++ List.replicate 64 0

/-- Two crews of four strands, with the completion word in the mapped page. -/
def lpb1 : List Byte := lpb (2 ^ 40) (2 ^ 40 + 8) 2 1 1 4 3 2 0 32 64 4096 0 0

/-- Launches that fill the table up to n. -/
def launchesOf (n : Nat) : List Launch := (List.range n).map (fun i => { launch1 with handle := w64 (2 ^ 48 + 5120 + i) })

/-- R252 to R257: a block that keeps every rule, one that breaks a rule and one that does not fit; 1023 launches and 1024; a
misaligned block; a handle of no launch, of another partition's, and of the strand's own. -/
theorem witness_LaunchResults :
    (let s := pad (mapped (atPad s0 0 0xFF80 0)) 0xFF80 lpb1
     let p : Part := { part1 with ptroot := 1 }
     s.Settled ∧ s.cur.status = .running ∧ s.part? s.cur.ident.part = some p ∧ s.reg 4 = w64 (scratchBase + 0xFF80) ∧
     s.padPlain 0xFF80 128 ∧ s.cur.sc.prv = false ∧ w64 (2 ^ 40 + 8) ≠ 0 ∧ canonical (w64 (2 ^ 40 + 8)) = true ∧
     inWindow (w64 (2 ^ 40 + 8)) = false ∧ (w64 (2 ^ 40 + 8)).toNat % 8 = 0 ∧
     (match (s.segOf (w64 (2 ^ 40 + 8)) 8 accSt).1 with | .ok _ => true | .error _ => false) = true ∧
     s.launches.length < 1024 ∧ firstBad (lpbRules p lpb1) = none ∧ firstBad (fitRules p lpb1) = none ∧
     (firstBad (lpbRules p (lpb (2 ^ 40 + 2) (2 ^ 40 + 8) 2 1 1 4 3 2 0 32 64 4096 0 0))).isSome = true ∧
     firstBad (lpbRules p (lpb (2 ^ 40) (2 ^ 40 + 8) 2 1 1 32 3 8 0 32 64 4096 0 0)) = none ∧
     (firstBad (fitRules p (lpb (2 ^ 40) (2 ^ 40 + 8) 2 1 1 32 3 8 0 32 64 4096 0 0))).isSome = true) ∧
    (launchesOf 1024).length = 1024 ∧ (launchesOf 1023).length < 1024 ∧
    (let s := atPad s0 0 0xFF7F 0
     s.reg 4 = w64 (scratchBase + 0xFF7F) ∧ 0xFF7F % 128 ≠ 0 ∧ 0xFF7F + 128 ≤ s.cur.ident.alen ∧ s.cur.ident.alen ≤ 2 ^ 21 ∧
     ∀ j < 128, s.poisonedAt (scratchKey s.cur.ident.quad (s.cur.ident.abase + 0xFF7F) + j) = false) ∧
    (let s := { regs s0 (2 ^ 48 + 1024) (2 ^ 48 + 2048) 0 with launches := [launch1, { launch1 with handle := w64 (2 ^ 48 + 2048), part := 2 }] }
     s.launchOf (s.reg 3) = some launch1 ∧ launch1.part = s.cur.ident.part ∧ s.launchOf (s.reg 5) = none ∧
     (s.launchOf (s.reg 4)).map (fun l => l.part) = some 2) := by
  dsimp only [State.Settled, State.Quiet, State.readable, State.writable, State.VecReady, State.spans, State.holdsVlc,
    State.padPlain, State.Direct, State.noTrap, State.hands]
  and_intros <;> decide +kernel

/-! #### Events -/

/-- A strand that waits, beside the current one. -/
def beside (s : State) (x : Strand) : State := { s with strands := [x] }

/-- A strip of 20 positions on its way. -/
def stripS : Strip := ⟨1, (List.range 20).map (fun e =>
  [⟨w64 (scratchBase + (64 + 8 * e)), 8, scratchKey 0 (4096 + (64 + 8 * e)), none, false⟩]), 0, 4, none⟩

/-- The ring that waits for it. -/
def ringS : Ring := ⟨4, 3, 2, [.free, .filling, .bound 3], 1, 1, [2], [stripS], List.replicate 6 0, [], 0, 0⟩

/-- R43, R194, R399: a value with bit 24 set and one without; shapes that are kept and not. -/
theorem witness_RegisterWriteEvents :
    w64 0xFFFFFF >>> 24 = 0 ∧ w64 0x1000000 >>> 24 ≠ 0 ∧ tshapeOk s0.cur.sc.prot (w64 0x14040) = true ∧
    tshapeOk s0.cur.sc.prot (w64 0x14041) = false ∧ s0.part? s0.cur.ident.part = some part1 := by decide

/-- R114, R283, R311, R442: a deadline of this
tick and of the last one, with no record, one that has completed by then, and one that has not; a token that a request may take, and
one that it may not. -/
theorem witness_WaitEvents :
    (let s := beside s0 { Strand.absent with uid := 7, status := .running, waiting := true }
     s.strand? 8 = none ∧ s.strand? 7 = some { Strand.absent with uid := 7, status := .running, waiting := true }) ∧
    (s0.Settled ∧ s0.cur.status = .running ∧ s0.timer ≤ 1000 ∧ 999 < s0.timer ∧ s0.cur.barRec 5 = none ∧
     (let r : BarRec := ⟨5, some 0, true, 999⟩
      let u := s0.modCur (fun x => { x with barRecs := [r] })
      u.Settled ∧ u.cur.barRec 5 = some r ∧ r.time ≤ 999) ∧
     (let r : BarRec := ⟨5, some 0, true, 1000⟩
      (s0.modCur (fun x => { x with barRecs := [r] })).cur.barRec 5 = some r ∧ 999 < r.time)) ∧
    (let r : TokReq := ⟨4099, 7, 1, 33⟩
     let s := { s0.modCur (fun x => { x with handed := some ⟨33, none⟩ }) with tokens := [⟨4099, .handed 7⟩], tokReqs := [r] }
     s.tokReqs.find? (fun r => r.idx == 4099 && mayTake (s.token 4099) r.owner) = some r ∧
     s.tokReqs.find? (fun r => r.idx == 4098 && mayTake (s.token 4098) r.owner) = none ∧
     (s.strand? r.uid).map (fun x => x.handed.map (fun h => h.id)) = some (some r.eff)) := by
  dsimp only [State.Settled, State.Quiet, State.readable, State.writable, State.VecReady, State.spans, State.holdsVlc,
    State.padPlain, State.Direct, State.noTrap, State.hands]
  and_intros <;> decide +kernel

/-- R182: a strip in the scratchpad on its way to a buffer. -/
theorem witness_StripArrival : let s := s0.modCur (fun x => { x with ring := some ringS })
    s.cur.status ≠ .absent ∧ s.Quiet ∧ s.cur.ring = some ringS ∧ ringS.strips.find? (fun w => w.buf == 1) = some stripS ∧
    ringS.seq ≤ s.cur.seqNo ∧ ringS.g ∈ [1, 2, 4, 8] ∧ 1 < ringS.c ∧ ringS.f + ringS.c * ringS.g ≤ 32 ∧
    ringS.data.length = ringS.c * ringS.g ∧ s.cur.vlg % 32 = 0 ∧ s.cur.vlg ≤ 512 ∧ stripS.els.length ≤ s.cur.vlg ∧
    (∀ w ∈ ringS.strips, w.buf ≠ 0) ∧
    ∀ e < stripS.els.length, stripS.els.getD e [] = [⟨w64 (scratchBase + (64 + 8 * e)), 4 * ringS.g,
      scratchKey s.cur.ident.quad (s.cur.ident.abase + (64 + 8 * e)), none, false⟩] ∧ s.padPlain (64 + 8 * e) (4 * ringS.g) := by
  dsimp only [State.Settled, State.Quiet, State.readable, State.writable, State.VecReady, State.spans, State.holdsVlc,
    State.padPlain, State.Direct, State.noTrap, State.hands]
  and_intros <;> decide +kernel

/-- A strand that has a transfer on channel 1. -/
def mover (t : Xfer) : Strand := ({ s0.cur with uid := 7 }).modChan 1 (fun c => { c with xfers := [t], nextId := 6, cpdone := 4 })

/-- A transfer of 64 bytes within the scratchpad, and a fill. -/
def copy64 : Xfer := xferOf 5 [scratchBase + 100, scratchBase + 4096 + 50, 64, 0, 0, 0, 0, 0]

/-- A transfer into controller 2. -/
def copyCb : Xfer := xferOf 5 [scratchBase + 100, 0, 64, 0, 0, 32, 2, 0]

/-- A transfer of 128 checked bytes that blocks 0 and 1 of an image hold. -/
def copyFlash : Xfer := { xferOf 5 [5 * 4096 + 3, scratchBase + 4096, 128, 65472, 0, 72, 0, 0] with started := true }

/-- The image it reads. -/
def image3 : Image := ⟨3, 5, 1, 0, 1, 0, true, 2, 0x2000, 0x10000, []⟩

/-- Bytes from a key up, as memory. -/
def cellsAt : Nat → List Byte → Memory
  | _, [] => []
  | k, b :: r => if b = 0 then cellsAt (k + 1) r else (k, b) :: cellsAt (k + 1) r

theorem memGet_cellsAt_low : ∀ (bs : List Byte) (k j : Nat), j < k → memGet (cellsAt k bs) j = 0 := by
  intro bs
  induction bs with
  | nil => intro k j _; rfl
  | cons b r ih =>
    intro k j h
    by_cases hb : b = 0
    · simp only [cellsAt, if_pos hb, ih (k + 1) j (by omega)]
    · simp only [cellsAt, if_neg hb, memGet, if_neg (show ¬ k = j by omega), if_pos h, unlisted]

theorem memGet_cellsAt_high : ∀ (bs : List Byte) (k j : Nat), k + bs.length ≤ j → memGet (cellsAt k bs) j = 0 := by
  intro bs
  induction bs with
  | nil => intro k j _; rfl
  | cons b r ih =>
    intro k j h
    have h' : k + 1 + r.length ≤ j := by simp at h; omega
    by_cases hb : b = 0
    · simp only [cellsAt, if_pos hb, ih (k + 1) j h']
    · simp only [cellsAt, if_neg hb, memGet, if_neg (show ¬ k = j by omega), if_neg (show ¬ j < k by omega), ih (k + 1) j h']

theorem memGetN_congr (m m' : Memory) : ∀ (n k : Nat), (∀ j, k ≤ j → j < k + n → memGet m j = memGet m' j) →
    memGetN m k n = memGetN m' k n := by
  intro n
  induction n with
  | zero => intro k _; rfl
  | succ n ih =>
    intro k h
    simp only [memGetN]
    rw [h k (by omega) (by omega), ih (k + 1) (fun j h1 h2 => h j (by omega) (by omega))]

theorem memGetN_cellsAt : ∀ (bs : List Byte) (k : Nat), memGetN (cellsAt k bs) k bs.length = bs := by
  intro bs
  induction bs with
  | nil => intro k; rfl
  | cons b r ih =>
    intro k
    simp only [List.length_cons, memGetN]
    by_cases hb : b = 0
    · simp [cellsAt, hb, memGet_cellsAt_low r (k + 1) k (by omega), ih (k + 1)]
    · simp only [cellsAt, if_neg hb, memGet, if_true]
      rw [memGetN_congr _ (cellsAt (k + 1) r) r.length (k + 1)
        (fun j h1 _ => by simp [memGet, show ¬ k = j by omega, show ¬ j < k by omega]), ih (k + 1)]

theorem leBytes_length : ∀ n x : Nat, (leBytes n x).length = n := by
  intro n
  induction n with
  | zero => intro x; rfl
  | succ n ih => intro x; simp [leBytes, ih]

theorem sha3_length (m : List Byte) : (sha3 m).length = 32 := leBytes_length 32 _

/-- The machine whose drive holds the bytes `tag` at the tag of the image's block 0, and nothing else. -/
def tagged (tag : List Byte) : State := { beside s0 (mover copyFlash) with
  images := [image3]
  flash := cellsAt (driveKey 0 1 0 0x2000) tag }

/-- The tag that block 0 has. -/
def tag0 : List Byte :=
  (sha3 (memGetN [] (driveKey 0 1 0 0x10000) 65536 ++ leBytes 8 0 ++ [])).take 16

theorem tagged_block (tag : List Byte) (h : tag.length = 16) :
    (tagged tag).imgBytes image3 (image3.doff + 65536 * 0) 65536 = memGetN [] (driveKey 0 1 0 0x10000) 65536 ∧
    (tagged tag).imgBytes image3 (image3.toff + 16 * 0) 16 = tag := by
  constructor
  · refine memGetN_congr _ _ 65536 _ (fun j h1 _ => ?_)
    rw [show memGet [] j = 0 from rfl]
    refine memGet_cellsAt_high tag _ j ?_
    have : driveKey 0 1 0 0x2000 + 16 ≤ driveKey 0 1 0 0x10000 := by decide
    have h2 : driveKey 0 1 0 0x10000 ≤ j := h1
    omega
  · have := memGetN_cellsAt tag (driveKey 0 1 0 0x2000)
    rw [h] at this
    exact this

/-- R463: the tag agrees in one of the machines, and differs in another. -/
theorem witness_TransferEvents_tag :
    (∃ s : State, s.imgBytes image3 (image3.toff + 16 * 0) 16 =
      (sha3 (s.imgBytes image3 (image3.doff + 65536 * 0) 65536 ++ leBytes 8 0 ++ image3.iid)).take 16 ∧
      s.xferImage copyFlash = some image3 ∧ s.flashXfer 7 1 0 = some (mover copyFlash, copyFlash)) ∧
    ∃ s : State, s.imgBytes image3 (image3.toff + 16 * 0) 16 ≠
      (sha3 (s.imgBytes image3 (image3.doff + 65536 * 0) 65536 ++ leBytes 8 0 ++ image3.iid)).take 16 ∧
      s.xferImage copyFlash = some image3 ∧ s.flashXfer 7 1 0 = some (mover copyFlash, copyFlash) := by
  have hx : ∀ t, (tagged t).xferImage copyFlash = some image3 ∧
      (tagged t).flashXfer 7 1 0 = some (mover copyFlash, copyFlash) := fun t => ⟨rfl, by
        show (({ beside s0 (mover copyFlash) with images := [image3] } : State)).flashXfer 7 1 0 = _
        decide +kernel⟩
  have hl : tag0.length = 16 := by simp [tag0, sha3_length]
  constructor
  · obtain ⟨h1, h2⟩ := tagged_block tag0 hl
    exact ⟨tagged tag0, by rw [h1, h2]; rfl, hx _⟩
  · have key : ∀ t : List Byte, t.length = 16 → t ≠ tag0 → ∃ s : State, s.imgBytes image3 (image3.toff + 16 * 0) 16 ≠
        (sha3 (s.imgBytes image3 (image3.doff + 65536 * 0) 65536 ++ leBytes 8 0 ++ image3.iid)).take 16 ∧
        s.xferImage copyFlash = some image3 ∧ s.flashXfer 7 1 0 = some (mover copyFlash, copyFlash) := by
      intro t ht hne
      obtain ⟨h1, h2⟩ := tagged_block t ht
      exact ⟨tagged t, by rw [h1, h2]; exact hne, hx _⟩
    by_cases h : List.replicate 16 (0 : Byte) = tag0
    · exact key (List.replicate 16 1) rfl (by rw [← h]; decide)
    · exact key (List.replicate 16 0) rfl h

/-- R353 to R371: transfers not released, released, with a slot and without; one chunk of a copy and of a fill at the end of the
allotment; a block of a checked image; a failed transfer on a channel that has reported nothing, and on one that has. -/
theorem witness_TransferEvents :
    (let s := beside s0 (mover copy64)
     s.oldestXfer 7 1 (fun t => !t.started) = some (mover copy64, copy64) ∧ s.oldestXfer 7 2 (fun t => !t.started) = none ∧
     copy64.released = true ∧ (mover copy64).served = true ∧ copy64.chunks = [] ∧ copy64.fail = none ∧ 0 < copy64.count ∧
     cpKind copy64.words ≠ 4 ∧ cpFlash copy64.words = false ∧ cpCB copy64.words = false) ∧
    (let s := withCb (beside s0 (mover copyCb)) cb5
     s.oldestXfer 7 1 (fun t => !t.started) = some (mover copyCb, copyCb) ∧ cpCB copyCb.words = true ∧
     (s.getQuad 0).d.cbs.find? (fun c => c.idx == (regOf copyCb.words 6).toNat % 8) = some cb5 ∧ 0 < cb5.free ∧ cb5.waits = [] ∧
     ({ cb5 with free := 0 } : Cb).free ≤ 0) ∧
    (∀ t ∈ [xferOf 5 [scratchBase + 100, scratchBase + 0xFFC0, 64, 0, 0, 0, 0, 0], xferOf 5 [0, scratchBase + 0xFFC0, 64, 0, 0, 3, 0, 77]],
     let y : Xfer := { t with started := true }
     let s := beside s0 (mover y)
     let x := mover y
     Memory.wf s.mem = true ∧ s.strand? 7 = some x ∧ x.served = true ∧ x.ident.quad < 144 ∧ x.ident.abase + x.ident.alen ≤ 2 ^ 21 ∧
     s.memPoison = [] ∧ (∀ w ∈ s.residents x.ident.quad, w.marks = []) ∧ (x.chan 1).xfers = [y] ∧ y.ident < 2 ^ 47 ∧
     (x.chan 1).bytesId ≤ y.ident ∧ 1 < (x.chan 1).nextId ∧ cpMask y.words = 0 ∧ cpRows y.words = 1 ∧ cpRowb y.words = 64 ∧
     (cpKind y.words = 3 ∨ (cpKind y.words = 0 ∧ cpFlash y.words = false ∧ regOf y.words 0 = w64 (scratchBase + 100) ∧
       100 % 4096 + 64 ≤ 4096)) ∧
     regOf y.words 1 = w64 (scratchBase + 0xFFC0) ∧ 0xFFC0 % 4096 + 64 ≤ 4096 ∧ 0xFFC0 + 64 ≤ x.ident.alen) ∧
    (let s := beside s0 (mover copyFlash)
     s.flashXfer 7 1 0 = some (mover copyFlash, copyFlash) ∧ s.flashXfer 7 1 2 = none ∧ copyFlash.firstTouch 0 = some 0 ∧
     copyFlash.fail = none ∧ cpCHK copyFlash.words = true ∧
     (∀ k < copyFlash.count, 0 ∈ chunkBlocks copyFlash.words k → ∃ c ∈ chunkBlocks copyFlash.words k, c ≠ 0 ∧ c ∉ copyFlash.blocks)) ∧
    (let t : Xfer := { copy64 with fail := some (7, 5000) }
     t.fail = some (7, 5000) ∧ (7, 5000).1 ≠ 0 ∧ ((mover copy64).chan 1).code = 0 ∧
     ({ (mover copy64).chan 1 with code := 3 } : Chan).code ≠ 0 ∧
     (({ (mover copy64).chan 1 with xfers := [t, { copy64 with ident := 9 }] } : Chan).close t).xfers.map (fun u => u.ident) = [9]) := by
  dsimp only [State.Settled, State.Quiet, State.readable, State.writable, State.VecReady, State.spans, State.holdsVlc,
    State.padPlain, State.Direct, State.noTrap, State.hands]
  and_intros <;> decide +kernel

/-- A datagram of a kind, with its data at the end of a grant. -/
def gram (kind n : Nat) : Datagram :=
  let data := if kind = 1 then List.replicate n (5 : Byte) else []
  ⟨1, 77, dgHeader kind 9 2 3 9 (0x40001000 - n) data.length ++ data⟩

/-- The partition has an inbound grant of one page and an endpoint. -/
def partNet : Part := { part1 with
  grants := [(4, { addr6 := 77, spart := 2, key := 0, base := 0x40000000, len := 4096 })]
  eps := [(5, (⟨1, 2, 3, 4, 5, 6, 0, 65536⟩ : Endpoint))] }

/-- The machine with that partition. -/
def networked : State := { s0 with parts := [partNet] }

/-- A network transfer of three chunks, all sent, two of them complete. -/
def netCopy (done : List Nat) : Xfer := { xferOf 5 [scratchBase, 5 * 2 ^ 56 + 64, 10000, 0, 0, 4, 0, 0] with
  started := true, next := 3, chunks := done }

/-- Its datagram of a chunk, sent again n times. -/
def netGram (chunk ident n : Nat) : DgOut := ⟨1, 5, 9, 7, 1, ident, some chunk, [], n⟩

/-- R431, R435, R446 to R450: the last bytes of the module's memory; a masked vector with a message and without; a datagram that
fills its grant to the end, seen and unseen, and one that has none; the fifteenth and the sixteenth timeout; a transfer that is
gone; a chunk whose lower ones are complete, and one that is the last to complete. -/
theorem witness_HostAndNetworkEvents :
    (Memory.wf s0.mem = true ∧ s0.keyGen = [] ∧ (2 ^ 52 - 8) + 8 ≤ 2 ^ 52 ∧ 3 ∈ [3, 4] ∧ 4 ∈ [4]) ∧
    (dgPaddr (gram 1 70) + (dgData (gram 1 70)).length + 8 ≤ 2 ^ 52 ∧ dgValid (gram 1 70) 1 = true ∧ dgValid (gram 1 70) 2 = false ∧
     dgValid (gram 2 8) 2 = true ∧ dgValid (gram 2 8) 1 = false ∧ s0.grantFor (gram 1 70) 70 = none ∧ s0.grantFor (gram 2 8) 8 = none ∧
     (networked.grantFor (gram 1 70) 70).isSome = true ∧ (networked.grantFor (gram 2 8) 8).isSome = true ∧
     networked.grantFor (gram 2 7) 8 = none ∧ (⟨77, 2, 3, 9⟩ : DgKey) ∉ networked.dgSeen) ∧
    (let s := { beside networked (mover (netCopy [0, 2])) with dgOut := [netGram 1 5 15] }
     s.dgOf 1 5 9 = some (netGram 1 5 15) ∧ s.dgOf 1 5 8 = none ∧ s.mayResend (netGram 1 5 15) = true ∧ (netGram 1 5 15).tries < 16 ∧ 16 ≤ (netGram 1 5 16).tries ∧
     s.xfer? 7 1 6 = none ∧ s.strand? 7 = some (mover (netCopy [0, 2])) ∧ ((mover (netCopy [0, 2])).chan 1).xfers = [netCopy [0, 2]] ∧
     (s.endpointOf (mover (netCopy [0, 2])).ident.part (netCopy [0, 2]).words).isSome = true ∧
     1 < (netCopy [0, 2]).next ∧ cpKind (netCopy [0, 2]).words = 4 ∧ cpSig (netCopy [0, 2]).words = false ∧
     (netCopy [0, 2]).count = 3 ∧ (netCopy [0, 2]).count ≤ (netCopy [0, 2]).next ∧ (∀ j < 1, j ∈ (netCopy [0, 2]).chunks) ∧
     1 ∉ (netCopy [0, 2]).chunks ∧ (∀ j < 3, j ≠ 1 → j ∈ (netCopy [0, 2]).chunks) ∧ (netCopy [0, 2]).fail = none) ∧
    ([(⟨1, 2, 3, true, []⟩ : Port)][0]? = some ⟨1, 2, 3, true, []⟩) := by
  dsimp only [State.Settled, State.Quiet, State.readable, State.writable, State.VecReady, State.spans, State.holdsVlc,
    State.padPlain, State.Direct, State.noTrap, State.hands]
  and_intros <;> decide +kernel

/-- A launch of six crews, two of them placed, with its completion word in the mapped page. -/
def launch6 : Launch := { launch1 with
  doneVa := w64 (2 ^ 40 + 8)
  ncx := 3
  ncy := 2
  nstr := 2
  prio := 5
  tiles := 1
  vldes := 64
  spad := 4096
  placed := 2
  prv := false }

/-- A crew of it that the depot holds. -/
def crewSaved : Crew := { crew5 with id := 8, launch := launch6.handle, index := 1, depot := true, quad := 1 }

/-- A strand of a crew. -/
def memberOf (u crew quad strid : Nat) : Strand := { s0.cur with
  uid := u
  ident := { id1 with crew := crew, quad := quad, strid := strid } }

/-- Nothing runs, and that launch has crews to place. -/
def idle6 : State := { mapped s0 with
  cur := { Strand.absent with uid := 99 }
  crews := []
  launches := [launch6] }

/-- A launch of a high priority that finds no room. -/
def launchHi : Launch := { launch6 with
  handle := w64 (2 ^ 48 + 2049)
  prio := 40
  tiles := 8
  placed := 0
  nstr := 32
  vlmin := 512
  vldes := 512
  spad := 2 ^ 21 }

/-- Three crews of the launch run on two quads, and the other one waits. -/
def crowded : State := { mapped s0 with
  cur := memberOf 1 20 0 0
  strands := [memberOf 2 21 1 0, memberOf 3 22 0 0]
  crews := [{ crew5 with id := 20, launch := launch6.handle, seq := 3 }, { crew5 with id := 21, launch := launch6.handle, quad := 1, seq := 9 },
    { crew5 with id := 22, launch := launch6.handle, seq := 4 }]
  launches := [launch6, launchHi] }

/-- A request of an effect. -/
def reqOf (id uid quad : Nat) (k : EffKind) (st : ReqSt) (refusals : Nat) (slice : Nat) (cs : List Station) : Req :=
  let e : Eff := ⟨id, uid, quad, 0, k⟩
  ⟨e, e.lines.map (fun l => (l, slice)), st, refusals, cs, true, decide (st = .waiting), id⟩

/-- R249 to R268, R399, R402: a launch that can be placed, on a quad that has room and one that the partition has not; a crew in
the depot; a victim; dependences that are met and not; all crews retired; a parked strand whose slot is free; entries that wait
for a fault queue with room and without; a mirror store on its way. -/
theorem witness_SchedulerEvents :
    (idle6.pickLaunch 1 = some launch6 ∧ idle6.pickLaunch 2 = none ∧ idle6.crewOf 8 = none ∧ idle6.nexts launch6 = [⟨none, 2⟩] ∧
     launch6.mirror = false ∧ idle6.fitsNext launch6 ⟨none, 2⟩ 0 3 = true ∧ idle6.fitsNext launch6 ⟨none, 2⟩ 7 3 = false ∧ 1 < launch6.nstr) ∧
    (let s := { idle6 with crews := [crewSaved], strands := [memberOf 3 8 1 0, memberOf 4 8 1 1] }
     s.pickLaunch 1 = some launch6 ∧ s.nexts launch6 = [⟨some 8, 1⟩] ∧ s.crewOf 8 = some crewSaved ∧ crewSaved.part = 1 ∧
     s.fitsNext launch6 ⟨some 8, 1⟩ 0 3 = true ∧ s.fitsNext launch6 ⟨some 8, 1⟩ 7 3 = false ∧ crewSaved.bad = false ∧
     (s.all.map (·.uid)).Nodup ∧ memberOf 4 8 1 1 ∈ s.liveOf 8 ∧ (memberOf 4 8 1 1).offer = none) ∧
    ((crowded.victimCrew 1).map (fun c => c.id) = some 21 ∧ (∀ c ∈ crowded.crews, c.part = 1 → c.stopping = false) ∧
     idle6.victimCrew 1 = none) ∧
    (let l : Launch := { launch6 with retired := 6, deps := [⟨w64 (2 ^ 40 + 64), true⟩] }
     let s := { mapped s0 with launches := [l, { launch6 with handle := 7, deps := [⟨w64 (2 ^ 40 + 64), false⟩] }] }
     s.launchOf launch6.handle = some l ∧ l.retired = l.ncx * l.ncy * l.ncz ∧ launch6.retired ≠ launch6.ncx * launch6.ncy * launch6.ncz ∧
     (∀ d ∈ l.deps, d.met = true) ∧ (s.launchOf 7).isSome = true ∧
     (match s.homeOf l.part l.doneVa with
      | some p => keyHome (p.key + (l.doneVa.toNat - p.va)) != 3
      | none => false) = true ∧ Memory.wf s.mem = true ∧ s.keyGen = []) ∧
    (let p : Part := { part1 with restart := [4, 3], fqwait := [[1, 2]] }
     let x : Strand := { memberOf 3 5 0 0 with status := .parked, parkSlot := some 2 }
     let s := { s0 with parts := [p], strands := [x, memberOf 4 5 0 1] }
     s.part? 1 = some p ∧ s.restartable p = some x ∧ p.halted = false ∧ s.crewOf x.ident.crew = some crew5 ∧ crew5.stopping = false ∧
     p.fqwait = [1, 2] :: [] ∧ p.fqFull = false ∧ ({ p with fqhead := 16 } : Part).fqFull = true ∧ s0.restartable part1 = none ∧
     part1.fqwait = [] ∧ s0.reqs = []) ∧
    (let q := reqOf 31 1 0 (.fq [5]) .travel 0 0 []
     let s := { s0 with reqs := [q] }
     s.reqs = q :: [] ∧ q.eff.kind = .fq [5] ∧ s.partOfUid q.eff.uid = 1) ∧
    (let q := reqOf 31 1 0 (.mirror 100 [1, 2, 3, 4]) .travel 0 0 []
     let s := { s0 with reqs := [q] }
     s.reqs.find? (fun q => q.eff.id == 31) = some q ∧ s.reqs.find? (fun q => q.eff.id == 32) = none ∧
     s.strand? q.eff.uid = some s.cur ∧ s.crews.find? (fun d => d.id == s.cur.ident.crew) = some crew5 ∧
     s.launchOf crew5.launch = none ∧ Memory.wf s.mem = true ∧ s.reqs.all (fun r => decide (31 ≤ r.eff.id)) = true ∧
     (let o := reqOf 30 1 0 (.mirror 96 [5]) .travel 0 0 []
      o.eff.uid = q.eff.uid ∧ o.eff.id < 31 ∧ o.eff.kind = .mirror 96 [5])) := by
  dsimp only [State.Settled, State.Quiet, State.readable, State.writable, State.VecReady, State.spans, State.holdsVlc,
    State.padPlain, State.Direct, State.noTrap, State.hands]
  and_intros <;> decide +kernel

/-- A kept boundary of the current quad. -/
def ckptAt (tick : Nat) : Ckpt := {
  tick := tick, data := s0.quad.d, strands := [s0.cur], scratch := [(scratchKey 0 5000, 7)], touched := [scratchKey 0 5000 / 32]
  cleared := [scratchKey 0 5001], poison := [], windows := [], launches := [launch1.handle] }

/-- The machine at a tick, with its quad changed. -/
def quadAt (tick : Nat) (f : Quad → Quad) : State := { s0 with timer := tick, quad := f s0.quad }

/-- R409 to R419, R479, R481: a boundary tick and the one before it; an effect whose tick is due, and one that is not; a
checkpoint that is just usable, by its age and by the last release, and none; an aging quad before and at the limit, empty and
with a spare. -/
theorem witness_QuadEvents :
    ((quadAt 1152 id).timer % 128 = 0 ∧ ((quadAt 1152 id).getQuad 0).rolling = false ∧ (quadAt 1151 id).timer % 128 ≠ 0) ∧
    (let e : Eff := ⟨3, 1, 0, 1000, .arrive 4⟩
     let s := quadAt 1000 (fun q => { q with plat := [e, ⟨4, 1, 0, 1001, .retire true⟩] })
     s.quad.plat = e :: [⟨4, 1, 0, 1001, .retire true⟩] ∧ e.tick ≤ s.timer ∧ (∀ k ∈ [(⟨4, 1, 0, 1001, .retire true⟩ : Eff)], s.timer < k.tick) ∧
     ∀ x ∈ (quadAt 999 (fun q => { q with plat := [⟨3, 1, 0, 1000, .arrive 4⟩] })).quad.plat, 999 < x.tick) ∧
    (let s := quadAt 1248 (fun q => { q with ckpts := [ckptAt 1152, ckptAt 1024], lastRel := 1375 })
     s.usable s.quad = some (ckptAt 1152) ∧ s.quad.ckpts.Pairwise (fun a b => b.tick < a.tick) ∧ Memory.wf s.mem = true ∧
     (∀ e ∈ s.quad.plat, s.timer < e.tick) ∧ (s.quad.ckpts.filter (fun k => decide ((ckptAt 1152).tick ≤ k.tick))) = [ckptAt 1152] ∧
     scratchKey 0 5000 / 32 ∈ (ckptAt 1152).touched ∧ scratchKey 0 5000 ∉ (ckptAt 1152).cleared ∧
     scratchKey 0 5001 ∈ (ckptAt 1152).cleared ∧
     s.cur.onQuad s.quad.id = true ∧ (ckptAt 1152).strands.find? (fun y => y.uid == s.cur.uid) = some s0.cur ∧
     (s.part? s.cur.ident.part) = some part1 ∧ part1.halted = false ∧ s.crewOf s.cur.ident.crew = some crew5 ∧
     crew5.stopping = false ∧ (s.all.map (·.uid)).Nodup ∧ (s.crews.map (·.id)).Nodup) ∧
    ((quadAt 1247 (fun q => { q with ckpts := [ckptAt 1152] })).usable (quadAt 1247 (fun q => { q with ckpts := [ckptAt 1152] })).quad = none ∧
     (let s := { quadAt 1248 (fun q => { q with ckpts := [ckptAt 1152], lastRel := 1376 }) with launches := [launch1] }
      s.usable s.quad = none ∧ (∀ e ∈ s.quad.plat, s.timer < e.tick) ∧ (s.crews.map (·.id)).Nodup ∧ (s.all.map (·.uid)).Nodup ∧ crew5.quad = s.quad.id ∧ crew5.depot = false ∧ s.launchOf crew5.launch = some launch1)) ∧
    (let s := { quadAt 1000000005 (fun q => { q with aging := true, agedAt := 5 }) with cur := Strand.absent, lodge := { s0.lodge with spares := [2, 1, 1, 1] } }
     (s0.getQuad 143).aging = false ∧ 143 < 144 ∧ s0.preemptible crew5 = true ∧ (s.getQuad 0).aging = true ∧
     (s.getQuad 0).agedAt + 1000000000 ≤ s.timer ∧ s.residents 0 = [] ∧ (s.getQuad 0).plat = [] ∧ (s.getQuad 0).rolling = false ∧
     s.lodge.spares.getD (0 / 36) 0 ≠ 0) := by
  dsimp only [State.Settled, State.Quiet, State.readable, State.writable, State.VecReady, State.spans, State.holdsVlc,
    State.padPlain, State.Direct, State.noTrap, State.hands]
  and_intros <;> decide +kernel

/-- An atomic addition of v to a word of the line 0x200000. -/
def addOf (v : Nat) : AtReq := ⟨0x40000000, 0, 64, 0, false, w64 v, 0, 3, 0, 0, 0, false, 0x40000000, 0, 128, 5, 1, 0, true, false, 0, 0⟩

/-- The slice that is the line's home. -/
def homeSlice : Nat := s0.sliceOf (bucketOf 0x40000000)

/-- A request of such an addition. -/
def addReq (id quad : Nat) (st : ReqSt) (refusals : Nat) (cs : List Station) : Req :=
  reqOf id 1 quad (.atomic [addOf 5]) st refusals homeSlice cs

/-- Requests, lines that the slices hold, and fills. -/
def slices (rs : List Req) (lines : List HLine) (fills : List Nat) : State := { s0 with reqs := rs, lines := lines, fills := fills }

/-- Whether the home slice of the line refuses a request, and the held entries of its senior queue and waiting room. -/
def slicePlace (s : State) (r : Req) : Bool × Nat × Nat :=
  ((s.refusalAt r 0x200000 homeSlice).isSome, s.entries homeSlice true, s.entries homeSlice false)

/-- A line that the slice holds. -/
def line1 : HLine := ⟨0x200000, 0xFFFF, none, false, 5, true, 0⟩

/-- R322 to R329: requests on their way to their home, elsewhere, at a moving bucket, with 47, 48, 63 and 64 others waiting, with
its line there, on its way, being written back, and neither; behind another request of its line; refused and answered ones, the first of
their line and lane and not; a lock. -/
theorem witness_RequestEvents :
    (let r := addReq 1 0 .travel 0 []
     let s := slices [r] [line1] []
     s.req? 2 = none ∧ s.req? 1 = some r ∧ r.st = .travel ∧ r.lines = [0x200000] ∧ (∀ k ∈ s.before 1, k.eff.quad ≠ r.eff.quad) ∧
     r.eff.kind = .atomic [addOf 5] ∧ s.refusalOf r = none ∧ slicePlace s r = (false, 0, 0) ∧ s.lineReady r.eff 0x200000 = true ∧
     (∀ k ∈ s.reqs, k.st ≠ .waiting) ∧ (slices [r] [] []).lineReady r.eff 0x200000 = false ∧ (slices [r] [] []).refusalOf r = none ∧
     s.sliceOf (bucketOf (512 * 0x200000)) = homeSlice ∧ 0x200000 ∉ s.fills ∧ 0x200000 ∉ s.flushes ∧
     (slices [r] [line1] [0x200000]).refusalOf r ≠ none ∧ ({ s with flushes := [0x200000] }).refusalOf r ≠ none ∧
     ({ s with buckets := [⟨bucketOf 0x40000000, homeSlice, some 3, 0, none⟩] }).refusalOf r ≠ none ∧
     (({ s with buckets := [⟨bucketOf 0x40000000, homeSlice + 1, none, 0, none⟩] }).refusalAt r 0x200000 homeSlice) = some 0 ∧
     slicePlace (slices (r :: List.replicate 48 (addReq 9 9 .waiting 0 [])) [] []) r = (true, 0, 48) ∧
     slicePlace (slices (r :: List.replicate 47 (addReq 9 9 .waiting 3 [])) [] []) r = (false, 0, 47) ∧
     slicePlace (slices (List.replicate 64 (addReq 9 9 .waiting 4 [])) [] []) (addReq 1 0 .travel 4 []) = (true, 64, 0) ∧
     slicePlace (slices (List.replicate 63 (addReq 9 9 .waiting 4 [])) [] []) (addReq 1 0 .travel 4 []) = (false, 63, 0) ∧
     (slices [r, addReq 2 0 .travel 0 []] [line1] []).before 2 = [r] ∧ (addReq 2 0 .travel 0 []).inLane r = true) ∧
    (let s := slices [addReq 1 0 (.refused 4) 1 [], addReq 2 0 (.refused 4) 1 [], addReq 3 1 (.replied [1, 2]) 0 [],
        addReq 4 1 (.replied [3]) 0 [], addReq 5 2 .waiting 0 []] [] []
     s.before 1 = [] ∧ (s.req? 1).map (fun r => r.st) = some (.refused 4) ∧
     (s.before 2).any (fun k => k.eff.quad == 0 && k.lines == [0x200000] && decide (k.st = .refused 4)) = true ∧
     (s.req? 3).map (fun r => (r.st, r.combined, s.replyBehind r)) = some (.replied [1, 2], [], false) ∧
     (s.req? 4).map (fun r => (r.st, s.replyBehind r)) = some (.replied [3], true) ∧ (s.req? 5).map (fun r => r.st) = some .waiting ∧
     s.ahead = []) ∧
    (let a := addReq 4 0 .waiting 3 []
     let b := addReq 5 1 .waiting 4 []
     let s := slices [a, b] [line1] [0x200000]
     s.reqs = [a, b] ∧ a.st = .waiting ∧ b.st = .waiting ∧ a.lines = [0x200000] ∧ b.lines = [0x200000] ∧ 0x200000 ∈ s.fills ∧
     0x200000 ∉ s.flushes ∧ a.refusals < 4 ∧ 4 ≤ b.refusals ∧ a.turnNo < b.turnNo ∧ s0.reqs = [] ∧ 0x200001 ∉ s.fills) ∧
    (let r := reqOf 7 1 0 (.lock 0x200000 0) .waiting 0 homeSlice []
     (slices [r] [line1] []).req? r.eff.id = some r ∧ r.eff.kind = .lock 0x200000 0) := by
  dsimp only [State.Settled, State.Quiet, State.readable, State.writable, State.VecReady, State.spans, State.holdsVlc,
    State.padPlain, State.Direct, State.noTrap, State.hands]
  and_intros <;> decide +kernel

/-- An addition to a word of another module. -/
def farAdd : AtReq := { addOf 5 with key := homeKey 2 (3 * 2 ^ 46 + 64), scope := 5 }

/-- R339 to R342, R436: two requests of different quads that combine, of one quad, of another operation, behind an earlier request of the
line, and with all stations used; two of one quad that combine at a link port, and two when its quad's entries are taken; an answer
to split. -/
theorem witness_CombiningEvents :
    (let x := addReq 1 0 .travel 0 []
     let y := addReq 2 1 .travel 0 []
     let k : Station := ⟨⟨8, 1, 2, 0, .atomic [addOf 1]⟩, 4, false⟩
     let s := slices [x, y] [line1] []
     s.req? 1 = some x ∧ s.req? 2 = some y ∧ x.eff.single = some (addOf 5) ∧ y.eff.single = some (addOf 5) ∧ x.mayComb = true ∧
     y.mayComb = true ∧ y.combined = [] ∧ x.eff.quad ≠ y.eff.quad ∧ x.combined.length < 4 ∧ mayCombine (addOf 5) (addOf 5) = true ∧
     s.lineBehind x y = false ∧ s.station x y (addOf 5) = some false ∧
     (slices [addReq 3 1 .travel 0 [], x, y] [line1] []).lineBehind x y = true ∧ s.station x (addReq 4 0 .travel 0 []) (addOf 5) = none ∧
     (addReq 1 0 .travel 0 (List.replicate 4 k)).combined.length = 4 ∧ (addReq 2 0 .travel 0 []).eff.quad = x.eff.quad ∧
     mayCombine (addOf 5) { addOf 5 with op := 1 } = false) ∧
    (let x := reqOf 1 1 0 (.atomic [farAdd]) .travel 0 600 []
     let y := reqOf 2 1 0 (.atomic [farAdd]) .travel 0 600 []
     let z := reqOf 3 1 1 (.atomic [farAdd]) .travel 0 600 []
     let k : Station := ⟨⟨8, 1, 1, 0, .atomic [addOf 1]⟩, 4, false⟩
     let full := reqOf 4 1 0 (.atomic [addOf 5]) .travel 0 0 (List.replicate 64 k)
     let s := slices [x, y, z, full] [] []
     keyHome farAdd.key = 2 ∧ s.portEntries (s.outPort farAdd) < 128 ∧ s.station x y farAdd = some true ∧ x.eff.single = some farAdd ∧
     mayCombine farAdd farAdd = true ∧ s.lineBehind x y = false ∧ s.station x z farAdd = some true ∧
     ((s.reqs.flatMap (·.combined)).filter (fun k => k.port == false && k.eff.quad == z.eff.quad)).length = 64 ∧
     s.req? 1 = some x ∧ s.req? 2 = some y ∧ s.req? 3 = some z) ∧
    (let k : Station := ⟨⟨8, 1, 2, 0, .atomic [addOf 1]⟩, 4, false⟩
     let r := addReq 1 0 (.replied [0, 10, 0, 0]) 0 ([] ++ [k])
     let s := slices [r] [] []
     s.req? 1 = some r ∧ r.st = .replied [0, 10, 0, 0] ∧ r.eff.single = some (addOf 5) ∧ k.eff.id ≠ 1 ∧ (∀ j ∈ s.reqs, j.eff.id ≠ k.eff.id) ∧
     (addReq 1 0 .travel 0 []).combined = []) := by
  dsimp only [State.Settled, State.Quiet, State.readable, State.writable, State.VecReady, State.spans, State.holdsVlc,
    State.padPlain, State.Direct, State.noTrap, State.hands]
  and_intros <;> decide +kernel

/-- Repairs under way. -/
def repairing : State := { s0 with
  resends := [(3, 4), (5, 1)]
  timer := 5000000
  heat := [⟨5, 1, 9⟩, ⟨5, 0, 2⟩]
  buckets := [⟨5, 5, none, 255, some 4000000⟩, ⟨8, 200, some 130, 4, none⟩]
  moveTick := some 4998000
  lines := [⟨8, 3, none, true, 5, true, 0⟩, ⟨5, 3, none, false, 5, true, 0⟩]
  badSlices := [9] }

/-- R323, R428, R478, R480: a link whose flit has been resent and one whose has not; a retired segment and a sound one; lane groups with
their spare and without, and no group; rows that a waiting request's line lies in, and not. -/
theorem witness_RepairEvents :
    ((∀ r ∈ repairing.resends, r.1 ≠ 7) ∧ (3, 4) ∈ repairing.resends ∧ 7 ∉ repairing.segments ∧ 7 ∈ ({ repairing with segments := [7] } : State).segments ∧
     (∀ r ∈ repairing.reqs, r.st ≠ .travel) ∧ (∃ r ∈ (slices [addReq 1 0 .travel 0 []] [] []).reqs, r.st = .travel) ∧
     repairing.lanes = [] ∧ 17 < 18 ∧ 7 < 8 ∧ 21 < 22 ∧ 127 < 128) ∧
    (let r := addReq 1 0 .waiting 0 []
     let s := slices [r] [] []
     (∃ q ∈ s.reqs, q.st = .waiting ∧ 0x200000 ∈ q.lines) ∧ 0x40000000 < 512 * 0x200000 + 512 ∧ 512 * 0x200000 < 0x40000000 + 1 ∧
     repairing.reqs = []) := by
  dsimp only [State.Settled, State.Quiet, State.readable, State.writable, State.VecReady, State.spans, State.holdsVlc,
    State.padPlain, State.Direct, State.noTrap, State.hands]
  and_intros <;> decide +kernel

/-- R325, R330, R331, R480: heat of distinct buckets at its tick and one before; a bucket that may move at its last bound, one that may not,
and ones that move, toward a sound slice and toward a retired one; a slice with a spare, with none, and with a request that waits. -/
theorem witness_ShunterEvents :
    ((repairing.heat.map (fun h => (h.bucket, h.die))).Nodup ∧ repairing.heatTick + 64000 ≤ repairing.timer ∧
     ({ repairing with timer := 63999 } : State).timer < repairing.heatTick + 64000) ∧
    ((repairing.bucket 5).moving = none ∧ 130 ≠ (repairing.bucket 5).slice ∧ 130 ∉ repairing.badSlices ∧
     4 * repairing.heatOf 5 0 < repairing.heatOf 5 1 ∧ (repairing.bucket 5).last = some 4000000 ∧
     4000000 + 1000000 ≤ repairing.timer ∧ repairing.moveTick = some 4998000 ∧ 4998000 + 2000 ≤ repairing.timer ∧
     5 = (repairing.bucket 5).slice ∧ (repairing.bucket 8).moving = some 130 ∧ repairing.reqs = [] ∧ 4095 < 4096 ∧ 511 < 512 ∧
     (let s := { repairing with badSlices := [130] }
      (s.bucket 8).moving = some 130 ∧ 130 ∈ s.badSlices)) ∧
    (let r := addReq 1 0 .waiting 0 []
     let s := slices [r] [] []
     (∃ q ∈ s.reqs, q.st = .waiting ∧ ∃ l ∈ q.lines, bucketOf (512 * l) = bucketOf 0x40000000) ∧
     (∃ q ∈ s.reqs, q.st = .waiting ∧ ∃ l ∈ q.lines, s.sliceOf (bucketOf (512 * l)) = homeSlice)) ∧
    (5 ≠ 11 ∧ 11 ∉ repairing.badSlices ∧ 9 ∈ repairing.badSlices) := by
  dsimp only [State.Settled, State.Quiet, State.readable, State.writable, State.VecReady, State.spans, State.holdsVlc,
    State.padPlain, State.Direct, State.noTrap, State.hands]
  and_intros <;> decide +kernel

/-- The module brought up, with two drives. -/
def ready : State := { s0 with lodge := { s0.lodge with step := 8, stat := 0, nssd := 2, ssds := 2, slots := (List.range 16).map (fun i => BitVec.ofNat 256 (i * 7)) } }

/-- R466 to R471: before bring-up and after; a masked vector 0; slots 10, 11, 15 and 16; a module whose bring-up meets no
fault. -/
theorem witness_LodgeResults :
    (s0.lodge.step < 8 ∧ s0.ports.length = 8 ∧ 8 ≤ ready.lodge.step ∧ 10 < 11 ∧ 15 < 16 ∧ (ready.lodge.slots[11]?).isSome = true ∧
     (ready.lodge.slots[15]?).isSome = true ∧ 0 ∈ ({ s0 with msixMask := [0] } : State).msixMask ∧ 0 ∉ s0.msixMask) ∧
    (Memory.wf ready.mem = true ∧ ready.lodge.faulty = none ∧ ready.lodge.straps % 64 ∉ ready.links ∧ s0.lodge.waiting = [] ∧
     ready.lodge.waiting = [] ∧ ({ ready.lodge with waiting := [.status 0] } : Lodge).waiting ≠ []) := by
  dsimp only [State.Settled, State.Quiet, State.readable, State.writable, State.VecReady, State.spans, State.holdsVlc,
    State.padPlain, State.Direct, State.noTrap, State.hands]
  and_intros <;> decide +kernel

/-- A PARTITION body. -/
def body3 (part : Nat) (qs : List Nat) (qways vecbase : Nat) : PartBody := {
  part := part, plo := 1, phi := 63, qways := qways, tcount := 4088, ptbase := 0x5000, asid := 3, vecbase := vecbase, veccnt := 4,
  borrower := 0, iflags := 1, fqbase := 0x800C, spillBase := 0, spillLen := 0, quads := qs, keymask := 6, dieBase := 1, dieCnt := 2,
  pkgBase := 1, pkgCnt := 1, podBase := 1, podCnt := 1, peers := [⟨3, 4, 4096, 8192⟩] }

/-- An image of a slot. -/
def imageOf (n : Nat) : Image := ⟨n, 5, 1, 0, 1, 0, true, 4, 0, 0, []⟩

/-- R458, R472 to R477: a body that takes all that is left, a body that names a quad of another partition, a partition with a
launch; quads of a saved partition, lent and not; START in a place that can be read, misaligned, and with a DONEVA that is not
writable; a drive that is there, and the first beyond; a handle of an image that no transfer reads, and one that one reads;
endpoint 255 and 256, grant 63 and 64, port 7 and 8, key 0, 1, 63 and 64, slot 15 and 16. -/
theorem witness_LodgeRequests :
    (8 ≤ ready.lodge.step ∧ ready.part? 3 = none ∧ firstBad (partRules (body3 3 [5, 143] 2 12) [part1]) = none ∧
     firstBad (partRules (body3 3 [5, 143] 2 2044) [part1]) = none ∧ (firstBad (partRules (body3 3 [1] 2 12) [part1])).isSome = true ∧
     part1 ∈ [part1] ∧ part1.saved = false ∧ (∃ l ∈ ({ ready with launches := [launch1] } : State).launches, l.part = 1)) ∧
    (let p : Part := { part1 with saved := true }
     let k : Part := { part1 with id := 2, quads := [7] }
     let s := { ready with parts := [p, k] }
     s.part? 1 = some p ∧ s.part? 2 = some k ∧ p.saved = true ∧ (∀ q ∈ [0, 1], q ∈ p.quads) ∧ (∃ q ∈ [2], q ∉ p.quads) ∧
     (∃ q ∈ [1], (s.getQuad q).part ≠ some 1) ∧
     (let t := ({ s with crews := [] }).modQuad 1 (fun x => { x with part := some 1, lentTo := some 2 })
      (∀ q ∈ [1], (t.getQuad q).part = some 1 ∧ (t.getQuad q).lentTo = some 2) ∧ (∀ c ∈ t.crews, c.quad ∉ [1]) ∧
      (∀ d ∈ [{ crewSaved with spilled := true }], d.quad ∈ [1] ∧ d.depot = true ∧ d.stopping = false ∧ d.spilled = true) ∧
      (let c : Crew := { crew5 with quad := 1, stopping := true }
       let x : Strand := { memberOf 3 5 1 0 with note := some [noteRed, 1, 0, 0, 0, 0] }
       let u : State := { t with crews := [c], strands := [x] }
       c.depot = false ∧ (∀ d ∈ u.crews, d = c) ∧ x ∈ u.liveOf c.id ∧ x.status = .running ∧ u.inReduction x = true))) ∧
    (let s := { mapped ready with mem := memSetN (mapped ready).mem (homeKey 0 0x40000080) lpb1 }
     s.lodgeRead 1 (w64 (2 ^ 40 + 128)) 128 = some lpb1 ∧ s.lodgeRead 1 5 128 = none ∧ (w64 (2 ^ 40 + 128)).toNat % 128 = 0 ∧
     (w64 (2 ^ 40 + 127)).toNat % 128 ≠ 0 ∧ (s.lodgeRead 1 (w64 (2 ^ 40 + 127)) 128).isSome = true ∧
     s.doneOk 1 (w64 (2 ^ 40 + 8)) = true ∧ s.doneOk 1 (w64 (2 ^ 40 + 9)) = false ∧ s.part? 4 = none ∧
     (s.acceptLaunch 1 lpb1 true).2.getLsbD 63 = false ∧
     (s.acceptLaunch 1 (lpb (2 ^ 40 + 2) (2 ^ 40 + 8) 2 1 1 4 3 2 0 32 64 4096 0 0) true).2.getLsbD 63 = true) ∧
    (let s := { ready with images := [imageOf 0, imageOf 1, imageOf 3] }
     s.lodge.ssds ≤ 2 ∧ 1 < s.lodge.ssds ∧ s.imgGens = [] ∧ (∀ k ∈ s.images, k.slot ≠ 2) ∧ (∀ j < 2, ∃ k ∈ s.images, k.slot = j) ∧
     (s.badImage (imageOf 0)).isSome = true ∧ s.imageOf (5 * 4096 + 3) = some (imageOf 3) ∧ s.imageOf (5 * 4096 + 2) = none ∧
     (∀ x ∈ s.all, ∀ c ∈ x.chans, c.xfers = []) ∧ cpFlash copyFlash.words = true ∧ (regOf copyFlash.words 0).toNat % 2 ^ 32 = 5 * 4096 + 3) ∧
    (let x : Strand := mover (netCopy [])
     let s : State := beside ready x
     x ∈ s.all ∧ x.ident.part = 1 ∧ netCopy [] ∈ (x.chan 1).xfers ∧ x.chan 1 ∈ x.chans ∧ cpKind (netCopy []).words = 4 ∧
     (regOf (netCopy []).words 1).toNat / 2 ^ 56 = 5) ∧
    (ready.part? 2 = none ∧ (ready.part? 1).isSome = true ∧ (∀ x ∈ ready.all, ∀ c ∈ x.chans, c.xfers = []) ∧
     (ready.ports[7]?).isSome = true ∧ (∀ p ∈ ready.lineKeys, p.2 ≠ 63) ∧ 255 < 256 ∧ 63 < 64 ∧ 15 < 16) := by
  dsimp only [State.Settled, State.Quiet, State.readable, State.writable, State.VecReady, State.spans, State.holdsVlc,
    State.padPlain, State.Direct, State.noTrap, State.hands]
  and_intros <;> decide +kernel

/-- The first 80 bytes of the header of an image of one block and one segment. -/
def imageHead : List Byte :=
  leBytes 8 0x0A1A0A0D4B5A4C4D ++ leBytes 2 1 ++ leBytes 2 0 ++ leBytes 4 0 ++ leBytes 16 9 ++ leBytes 8 1 ++ leBytes 8 0x1000 ++
  leBytes 4 1 ++ leBytes 4 0 ++ leBytes 8 0x2000 ++ leBytes 8 0x10000 ++ leBytes 8 65536

/-- Its manifest: one segment of 64 bytes, a vector of 16 I32 elements. -/
def imageManifest : List Byte :=
  leBytes 8 0 ++ leBytes 8 64 ++ leBytes 4 0 ++ List.replicate 108 0 ++ descriptor 2 1 0 0 0 0 0 [16] [4]

/-- The SHA3-256 of the two, computed outside the model. -/
def imageDigest : List Byte := leBytes 32 0x91B7419B5B916DE192A450F8B96EFD736D751DDEC3EFA9F6A48831DB75D344BC

/-- The first two pages of the image. -/
def imageBytes : List Byte :=
  imageHead ++ imageDigest ++ List.replicate 3984 0 ++ imageManifest ++ List.replicate 3840 0

/-- The registration that names it, before it has a slot. -/
def image0 : Image := ⟨0, 0, 1, 0, 1, 0, true, 0, 0, 0, []⟩

/-- The machine whose drive holds that image. -/
def imaged : State := { ready with flash := cellsAt (driveKey 0 1 0 0) imageBytes }

theorem memGetN_append (m : Memory) : ∀ (a b k : Nat), memGetN m k (a + b) = memGetN m k a ++ memGetN m (k + a) b := by
  intro a
  induction a with
  | zero => intro b k; simp [memGetN]
  | succ a ih =>
    intro b k
    rw [show a + 1 + b = (a + b) + 1 by omega, memGetN, memGetN, ih b (k + 1), show k + 1 + a = k + (a + 1) by omega]
    rfl

theorem memGetN_length (m : Memory) : ∀ (n k : Nat), (memGetN m k n).length = n := by
  intro n
  induction n with
  | zero => intro k; rfl
  | succ n ih => intro k; simp [memGetN, ih]

theorem imaged_bytes (off n : Nat) (h : off + n ≤ 8192) : imaged.imgBytes image0 off n = (imageBytes.drop off).take n := by
  have hl : imageBytes.length = 8192 := by decide +kernel
  have e := memGetN_cellsAt imageBytes (driveKey 0 1 0 0)
  rw [hl, show (8192 : Nat) = off + (n + (8192 - off - n)) by omega, memGetN_append, memGetN_append] at e
  rw [← e, List.drop_append_of_le_length (by rw [memGetN_length]),
    List.drop_of_length_le (by rw [memGetN_length]), List.nil_append,
    List.take_append_of_le_length (by rw [memGetN_length]),
    List.take_of_length_le (by rw [memGetN_length])]
  show memGetN _ (driveKey 0 1 0 off) n = _
  rw [show driveKey 0 1 0 off = driveKey 0 1 0 0 + off by simp [driveKey]]
  rfl

/-- The sponge after block 1 of the two, computed outside the model. -/
def imageSponge1 : Sponge := #v[
  0x4EFD8A2116949F747542D1FC1A000E117E3E83E3174A029D453D0427B92F525E560B1DD867D4FEAC,
  0x30ED6B48C3AE8931E7413210BA2175D68A43821E47E94721AEBF48A60252F9FF3AFE539886A1AF81,
  0x7C71524D5A0EFA3F2BF57EC11256541ED06D40A2E2287EC598C56D878B4E6C24C324B22E4DD7652D,
  0x659222CAD81A04710B574315A412C4D71C3A7247453FC95F594AB140990F0A43579E7F80E253D2A,
  0x54AB243CAAD9AD01B6BBE7EE70B7D392B60C44D805C98BC26E62F28335BD87347895F68DD3A05F17]

/-- The sponge after block 2 of the two, computed outside the model. -/
def imageSponge2 : Sponge := #v[
  0x85AF50F0B7E250D1A481CB10758BC41997546C0C8C9CF28C702F2C74F22502618AB0798FD384A383,
  0xB55608BD528785905B93D4AA2204A0653AE4A87803AFF29FD7982D2BA2C7CA45796B28D50E250FD4,
  0x5E2CF211602967FC637C8DF0EE57680F804EA89787A8D05D8734231D365A942CF798093D8DD9B7BB,
  0x663043ACB0468C1E0AD00630E942B180342A80CAF510CDB43839B0004245DB10A933469AEC52547B,
  0xE5E9716DF2CD38F76B60D4F2D844CA26661FEA8996EF24F2DF56FA54EF96FFC3C196DA1FD8DBDA66]

/-- The sponge after block 3 of the two, computed outside the model. -/
def imageSponge3 : Sponge := #v[
  0xC2DC8426E8303F6991B7419B5B916DE192A450F8B96EFD736D751DDEC3EFA9F6A48831DB75D344BC,
  0xB40DC69D29F656545225543CB1661AB9ADF7E5527206AB5D235C47BBDDCFAA3DF5FB9279D9A416EB,
  0xC42A78869035E50D8E6933DFA965A0B74C9B3CB82B304FFC1CC4D294007022810B95A99CD358B482,
  0x75EABFBFD5F3D7F6F7DDA5FF4E2B745C03B30623AD2537EBFD3FFF92282B01F3404C66328CD72E64,
  0x5BDB25827F1A63A448CA6C64BEB3E1241C348D99BB18A5DDF080CAAE482F62B1329C41523F8F3651]

/-- The padded message. -/
def imagePadded : List Byte := shaPadded (imageHead ++ imageManifest)

theorem absorb_succ (n : Nat) (m : List Byte) (a : Sponge) : absorb (n + 1) m a = absorb n (m.drop 136) (absorb 1 m a) := rfl

theorem image_block1 : absorb 1 imagePadded (Vector.replicate 5 0) = imageSponge1 := by decide +kernel

theorem image_block2 : absorb 1 (imagePadded.drop 136) imageSponge1 = imageSponge2 := by decide +kernel

theorem image_block3 : absorb 1 ((imagePadded.drop 136).drop 136) imageSponge2 = imageSponge3 := by decide +kernel

theorem image_digest : sha3 (imageHead ++ imageManifest) = imageDigest := by
  have n : imagePadded.length / 136 = 3 := by decide +kernel
  show leBytes 32 ((absorb (imagePadded.length / 136) imagePadded (Vector.replicate 5 0))[0]).toNat = imageDigest
  rw [n, absorb_succ 2, absorb_succ 1, image_block1, image_block2, image_block3]
  decide +kernel

theorem image_header : firstBad (headerRules ((imageBytes.drop 0).take 4096) ((imageBytes.drop 4096).take 256)) = none := by
  have e : ((imageBytes.drop 0).take 4096).take 80 ++ (imageBytes.drop 4096).take 256 = imageHead ++ imageManifest := by decide +kernel
  have d : (((imageBytes.drop 0).take 4096).drop 80).take 32 = imageDigest := by decide +kernel
  simp only [headerRules, e, d, image_digest, beq_self_eq_true]
  decide +kernel

theorem image_entry : firstBad (entryRules (fieldN ((imageBytes.drop 0).take 4096) 0xA 2) (fieldN ((imageBytes.drop 0).take 4096) 0x48 8)
    ((((imageBytes.drop 4096).take 256).drop 0).take 256)) = none := by decide +kernel

theorem image_zeros : imageBytes.drop 4352 = List.replicate 3840 0 := by
  have n : (imageHead ++ imageDigest ++ List.replicate 3984 0 ++ imageManifest).length = 4352 := by
    rw [List.length_append, List.length_append, List.length_append, List.length_replicate, show imageHead.length = 80 by decide,
      show imageDigest.length = 32 by decide, show imageManifest.length = 256 by decide]
  unfold imageBytes
  rw [← n, List.drop_left]

theorem image_padding (i : Nat) (hi : i < 3840) : (imageBytes.drop (4352 + i)).take 1 = [0] := by
  rw [← List.drop_drop, image_zeros, List.drop_replicate, List.take_replicate, show min 1 (3840 - i) = 1 by omega, List.replicate_one]

theorem image_kept (s : State) (m : Image) (h man : List Byte) (hh : s.imgBytes m 0 4096 = h) (hm : s.imgBytes m 4096 256 = man)
    (hn : min (fieldN h 0x30 4) 65535 = 1) (hz : fieldN h 0x38 8 = 8192) (hr : firstBad (headerRules h man) = none)
    (he : firstBad (entryRules (fieldN h 0xA 2) (fieldN h 0x48 8) ((man.drop 0).take 256)) = none)
    (hp : ∀ i < 3840, s.imgBytes m (4352 + i) 1 = [0]) : s.badImage m = none := by
  have hl : (List.range 3840).findSome? (fun i => if s.imgBytes m (4352 + i) 1 = [0] then none else some (4352 + i)) = none := by
    rw [List.findSome?_eq_none_iff]
    intro i hi
    rw [if_pos (hp i (List.mem_range.1 hi))]
  simp only [State.badImage, hh, hn, hz, Nat.one_mul, hm, hr, show List.range 1 = [0] from rfl, List.findSome?_cons, Nat.mul_zero, he,
    Option.map_none, List.findSome?_nil]
  exact hl

/-- R458, R460, R461: an image that keeps every rule. -/
theorem witness_LodgeRequests_image : imaged.badImage image0 = none :=
  image_kept imaged image0 _ _ (imaged_bytes 0 4096 (by omega)) (imaged_bytes 4096 256 (by omega)) (by decide +kernel) (by decide +kernel)
    image_header image_entry (fun i hi => (imaged_bytes (4352 + i) 1 (by omega)).trans (image_padding i hi))

/-- FIPS 202: the SHA3-256 of the message "abc", computed outside the model. -/
theorem test_sha3 : sha3 [0x61, 0x62, 0x63] = leBytes 32 0x3215431145E2BF465B529D3E6E085F85BD90D36B2D175C04B225E24FA75D983A := by decide +kernel

/-! ### Ill-formed terms, refused -/

/-- Every instruction of a list is ill formed. -/
def noneWf (is : List Instr) : Bool := is.all (fun i => !i.wf)

theorem test_wf_width : noneWf [.iaSext 1 2 3, .iaZext 1 2 31] = true ∧ (Instr.iaSext 1 2 2).wf = true := by decide

theorem test_wf_loop : noneWf [.lpL0 1 0, .lpL1 1 0] = true ∧ (Instr.lpL0 1 1).wf = true := by decide

theorem test_wf_queue : noneWf [.qPush 1 1, .qPush 3 1, .qPush 4 1, .qPop 1 0, .qPop 1 2, .qCnt 1 4] = true ∧
    (Instr.qPush 2 1).wf = true ∧ (Instr.qPop 1 3).wf = true := by decide

theorem test_wf_mask_destination : noneWf [.vmEq 0 1 (.v 2), .vmNe 8 1 (.v 2), .vmLt 0 1 (.v 2), .vmLe 8 1 (.v 2), .vmGt 0 1 (.v 2),
    .vmGe 8 1 (.v 2), .vmUnord 0 1 (.v 2), .vmAnd 0 1 2, .vmOr 8 1 2, .vmXor 0 1 2, .vmAndn 8 1 2, .vmNot 0 1, .vmFill 0 1] = true ∧
    (Instr.vmFill 7 1).wf = true := by decide

theorem test_wf_mask_source : noneWf [.vmAnd 1 8 0, .vmOr 1 0 8, .vmXor 1 31 0, .vmAndn 1 0 16, .vmNot 1 8, .vmPop 1 8, .vmFirst 1 9] = true ∧
    (Instr.vmAnd 1 7 0).wf = true := by decide

theorem test_wf_tile : noneWf [.mxZero 8, .mxOpa 8 0 0, .mxOpaSa 8 2 0, .mxOpaSb 8 0 2, .mxOpaSs 8 2 4, .mxRd 1 8 0, .mxWr 8 1 0,
    .mxLd 8 1 2, .mxSt 8 1 2, .mxWait 8, .mxCvt 8] = true ∧ (Instr.mxZero 7).wf = true := by decide

theorem test_wf_pair : noneWf [.mxOpaSa 0 0 1, .mxOpaSa 0 3 1, .mxOpaSb 0 1 31, .mxOpaSs 0 2 0, .mxOpaSs 0 5 4] = true ∧
    (Instr.mxOpaSs 0 2 30).wf = true := by decide

theorem test_wf_level : noneWf [.trTurn 4 1 2, .trInval 31 1 2] = true ∧ (Instr.trTurn 3 1 2).wf = true := by decide

theorem test_wf_no_result : noneWf [.atAdd 1 2 3 true .rlx false, .atAnd 1 2 3 true .rlx false, .atOr 1 2 3 true .rlx false,
    .atXor 1 2 3 true .rlx false, .atMin 1 2 3 true .rlx false, .atMax 1 2 3 true .rlx false, .atMinu 1 2 3 true .rlx false,
    .atMaxu 1 2 3 true .rlx false, .atSwap 1 2 3 true .rlx false, .atFadd 1 2 3 true .rlx false, .atFmin 1 2 3 true .rlx false,
    .atFmax 1 2 3 true .rlx false] = true ∧ (Instr.atAdd 0 2 3 true .rlx false).wf = true := by decide

theorem test_wf_copy : noneWf [.cpSet 4 1 0, .cpSet 0 1 8, .cpGo 1 4, .cpWait 4 1, .cpMask 0 1, .cpMask 1 4, .cpCbacq 1 8, .cpCbrel 8,
    .cpCbcfg 8 1, .cpStat 1 4] = true ∧ (Instr.cpSet 3 1 7).wf = true := by decide

theorem test_wf_event_strand : noneWf [.stripFilled 1 8, .tokenGrant 4096, .transferStart 1 4, .chunkComplete 1 4 0, .flashBlockCheck 1 4 0,
    .nvmeError 1 4 0] = true ∧ (Instr.stripFilled 1 7).wf = true := by decide

theorem test_wf_event_quad : noneWf [.crewPlace 16 0 0, .crewPlace 0 144 0, .schedulerPreempt 16, .crewRestore 1 144 0, .strandRestart 16,
    .faultQueueWrite 16, .spanBoundary 144, .platformRelease 144, .strikeReport 144, .rollbackComplete 144, .quadAgingFlag 144,
    .noprePreemptTimeout 144, .quadSpareCopy 144] = true ∧ (Instr.crewPlace 15 143 0).wf = true := by decide

theorem test_wf_event_module : noneWf [.bucketMoveStart 4096 0, .bucketMoveStart 0 512, .bucketMoveFinish 4096, .msixUnmask 2048,
    .datagramAck 16 0 0, .datagramRefusal 16 0 0, .datagramRetransmit 16 0 0, .frameDrop 8, .pauseFrame 8 0, .sliceRetire 512 0] = true ∧
    (Instr.bucketMoveStart 4095 511).wf = true := by decide

/-! ### Words that are no instruction -/

/-- A word is rejected under this name. -/
def rejects (w : IWord) (e : Reject) : Bool :=
  match decode w with
  | .ok _ => false
  | .error f => decide (f = e)

-- R18: MAJ 0x00 and 0x21 to 0x7E are reserved.
theorem test_reject_major : (rejects 0x00000000 .reservedMajor && rejects (0x21#7 ++ 0#25) .reservedMajor &&
    rejects (0x7E#7 ++ 0#25) .reservedMajor) = true := by decide

-- R20: FN values from 28 on; R23: conditions 6 and 7.
theorem test_reject_function : (rejects (0x01#7 ++ 0#15 ++ 28#10) .unassigned && rejects (packK 0x05 1 2 6 0) .unassigned) = true := by decide

-- R20: clz takes no B; R24: lp takes no D.
theorem test_reject_nonzero : (rejects (packA 0x01 1 2 3 23) .mustBeZero && rejects (packK 0x08 1 2 0 4) .mustBeZero) = true := by decide

-- R20: a width of 3; R24: a loop body of no instruction.
theorem test_reject_range : (rejects (packA 0x01 1 2 3 26) .outOfRange && rejects (packK 0x08 0 2 0 0) .outOfRange) = true := by decide

theorem test_reject_short : (match decodeBytes [0, 0, 0] with | .error e => decide (e = Reject.short) | .ok _ => false) = true := by decide

/-! ### More states that meet the hypotheses of statements -/

/-- The machine as it is right after reset: effects wait on the quad's platform. -/
def waits (s : State) : State := { s with split := true }

/-- R413: a state in which each of the effects that a form hands waits, with the form's other hypotheses. -/
theorem witness_effects_wait :
    ((waits s0).Settled ∧ (waits s0).VecReady ∧ (waits s0).held = true ∧ (waits s0).hands (.retire true) ∧
     (waits s0).hands (.intr (part1.vecbase + 3)) ∧ ∀ c ∈ (waits s0).cur.chans, c.xfers = []) ∧
    (let s := waits (tokened 7 9 [] [])
     s.Settled ∧ s.holdsToken 4103 = false ∧ s.hands (.acq 4103 9) ∧ s.hands (.rel 4103 9) ∧ s.cur.handed = none) ∧
    (let s := waits (copying [scratchBase, scratchBase + 4096, 64, 0, 0, 0x300, 0, 0])
     s.Settled ∧ (s.cur.chan 1).xfers.length < 8 ∧ s.cpBad (s.cur.chan 1).shadow = none ∧ s.hands (.cpGo 1 (s.cur.chan 1).nextId)) ∧
    (let s := waits (regs s0 0x303 0 0)
     s.Settled ∧ 3 ≤ (s.reg 3).toNat / 256 % 8 ∧ (s.reg 3).toNat / 256 % 8 ≤ 5 ∧ (s.reg 3).toNat < 2048 ∧
     s.hands (.arrive (barKey (some part1) id1 3 3))) ∧
    (let s := waits (pad (mapped (atPad s0 0 0xFF80 0)) 0xFF80 lpb1)
     s.Settled ∧ s.padPlain 0xFF80 128 ∧ s.hands (.lnGo lpb1 false)) := by
  dsimp only [State.Settled, State.Quiet, State.readable, State.writable, State.VecReady, State.spans, State.holdsVlc,
    State.padPlain, State.Direct, State.noTrap, State.hands]
  and_intros <;> decide +kernel

/-- An `at` without a result that the strand has passed. -/
def passed : State := { s0 with ahead := [⟨none, addOf 1, false, s0.cur⟩] }

/-- A strand that the depot holds, with a record of an arrival. -/
def inDepot : Strand := { memberOf 7 8 1 0 with status := .depot, barRecs := [⟨5, some 3, false, 0⟩] }

/-- An endpoint. -/
def ep5 : Endpoint := ⟨1, 2, 3, 4, 5, 6, 0, 65536⟩

/-- R114, R286, R333, R407, R439, R444: a strand with an `at` on its way; one that the depot holds, and one that waits for a queue; the
barrier that its phase differs from; a saved partition with a context in the spill area, one that runs, and one that is halted; a subscriber of
another module, and none; joins that agree, and joins that differ; an
endpoint with a free port, and one with none. -/
theorem witness_more_premises :
    (passed.isAhead passed.cur.uid = true ∧ passed.cur.status ≠ .ending ∧ (withQueued 1).isAhead (withQueued 1).cur.uid = false ∧
     (∀ e ∈ (withQueued 1).cur.vq, (withQueued 1).cur.behindOlder e = false)) ∧
    ((beside s0 inDepot).strand? 7 = some inDepot ∧ inDepot.status = .depot ∧ ({ inDepot with status := .running } : Strand).status ≠ .depot ∧
     ((beside s0 inDepot).bar 5).id = 5 ∧ inDepot.barRecs.all (fun r => r.phase != some ((beside s0 inDepot).bar 5).phase) = true) ∧
    (let s := boss 3 true true false
     let c : Crew := { crewSaved with part := 3, spilled := true }
     s.Settled ∧ (s.part? 3).map (fun x => x.saved) = some true ∧ ∀ d ∈ ({ s with crews := [c] } : State).crews, d.depot = true ∧ d.spilled = true) ∧
    ((∃ y ∈ (boss 3 false false false).partStrands 3, y.status = .running) ∧
     ∀ y ∈ (boss 3 true false false).partStrands 3, y.status ≠ .running ∧ (boss 3 true false false).saveReady y = true) ∧
    ((∃ b ∈ pub7.subs, b.slot = 2 ∧ b.dev ≠ published.devid) ∧ (∀ b ∈ pub7.subs, b.slot = 1 → b.dev = published.devid)) ∧
    (let m (pos n : Nat) : CollMsg := ⟨1, 2, pos, true, n, 12, 0, 2, [3, 4], []⟩
     ({ s0 with colls := [m 0 13, m 1 13] } : State).callBroken 1 2 2 = false ∧
     ({ s0 with colls := [m 0 13, m 1 14] } : State).callBroken 1 2 2 = true) ∧
    (2 ^ 20 ≤ (2 ^ 20 - 1) + 1 ∧ 65535 < 2 ^ 16 ∧ (s0.ports[7]?).isSome = true ∧ networked.mayResend (netGram 1 5 15) = true ∧
     ({ networked with parts := [{ partNet with eps := [(5, { ep5 with ports := 256 })] }] } : State).mayResend (netGram 1 5 15) = false) := by
  dsimp only [State.Settled, State.Quiet, State.readable, State.writable, State.VecReady, State.spans, State.holdsVlc,
    State.padPlain, State.Direct, State.noTrap, State.hands]
  and_intros <;> decide +kernel

/-! ### Single steps, with results worked out from the rules -/

/-- What an instruction leaves in s5 of a strand with x in s3 and y in s4. -/
def gives (i : Instr) (x y v : Nat) : Bool := after (exec i (regs s0 x y 0)) (fun t => decide (t.reg 5 = w64 v))

-- R94: arithmetic wraps modulo 2 ^ 64.
theorem test_add_wraps : gives (.iaAdd 5 3 4) 0xFFFFFFFFFFFFFFFF 3 2 = true := by decide +kernel
theorem test_sub_wraps : gives (.iaSub 5 3 4) 0 1 0xFFFFFFFFFFFFFFFF = true := by decide +kernel
-- R94: the high halves of (-1) * (-1), signed and unsigned.
theorem test_mulh_signed : gives (.iaMulh 5 3 4) 0xFFFFFFFFFFFFFFFF 0xFFFFFFFFFFFFFFFF 0 = true := by decide +kernel
theorem test_mulhu_unsigned : gives (.iaMulhu 5 3 4) 0xFFFFFFFFFFFFFFFF 0xFFFFFFFFFFFFFFFF 0xFFFFFFFFFFFFFFFE = true := by decide +kernel
theorem test_sra_copies_sign : gives (.iaSra 5 3 4) 0x8000000000000000 67 0xF000000000000000 = true := by decide +kernel
theorem test_clz_of_zero : gives (.iaClz 5 3) 0 0 64 = true := by decide +kernel
theorem test_sext_byte : gives (.iaSext 5 3 0) 0x180 0 0xFFFFFFFFFFFFFF80 = true := by decide +kernel
theorem test_source_is_destination : gives (.iaSub 5 5 5) 1 2 0 = true := by decide +kernel
-- R91: a write to s0 is discarded.
theorem test_s0_stays_zero : after (exec (.iiAdd 0 3 7) (regs s0 5 0 0)) (fun t => decide (t.reg 0 = 0)) = true := by decide +kernel

end Sys2Proof.Tests
end

section
/-! Reading back what was written: one byte, a run of bytes, and a number's little-endian bytes (R7). -/

namespace Sys2Proof.Machine

/-- Below every listed key a byte is unlisted. -/
theorem memGet_of_lt {k : Nat} : ∀ {m : Memory} {lo : Nat}, memWfFrom lo m = true → k < lo → memGet m k = unlisted
  | [], _, _, _ => rfl
  | (a, b) :: r, lo, hm, hk => by
    simp only [memWfFrom, Bool.and_eq_true, decide_eq_true_eq] at hm
    have hka : k < a := by omega
    simp [memGet, hka, Nat.ne_of_gt hka]

/-- A byte reads as what was last written there, and every other byte stays. -/
theorem memGet_memSet (k j : Nat) (v : Byte) :
    ∀ {m : Memory} {lo : Nat}, memWfFrom lo m = true → memGet (memSet m k v) j = if j = k then v else memGet m j
  | [], _, _ => by grind [memSet, memGet]
  | (a, b) :: r, lo, hm => by
    simp only [memWfFrom, Bool.and_eq_true, decide_eq_true_eq] at hm
    obtain ⟨-, hr⟩ := hm
    have hlow (hj : j ≤ a) : memGet r j = unlisted := memGet_of_lt hr (by omega)
    unfold memSet
    split
    next hka => grind [memGet]
    next hka =>
      split
      next he => grind [memGet]
      next he =>
        have hrec := memGet_memSet k j v hr
        grind [memGet]

theorem memGet_memSet_same {m : Memory} (k : Nat) (v : Byte) (h : m.wf = true) : memGet (memSet m k v) k = v := by
  rw [memGet_memSet k k v h, if_pos rfl]

theorem memGet_memSet_ne {m : Memory} {k j : Nat} (v : Byte) (h : m.wf = true) (hj : j ≠ k) :
    memGet (memSet m k v) j = memGet m j := by
  rw [memGet_memSet k j v h, if_neg hj]

/-- Every byte outside a run that is written stays. -/
theorem memGet_memSetN_outside {j : Nat} : ∀ (bs : List Byte) {m : Memory} {k : Nat}, m.wf = true →
    j < k ∨ k + bs.length ≤ j → memGet (memSetN m k bs) j = memGet m j
  | [], _, _, _, _ => rfl
  | b :: bs, m, k, h, hj => by
    rw [List.length_cons] at hj
    rw [memSetN, memGet_memSetN_outside bs (wf_memSet k b h) (by omega), memGet_memSet_ne b h (by omega)]

/-- A run of bytes reads as what was last written there. -/
theorem memGetN_memSetN : ∀ (bs : List Byte) {m : Memory} (k : Nat), m.wf = true →
    memGetN (memSetN m k bs) k bs.length = bs
  | [], _, _, _ => rfl
  | b :: bs, m, k, h => by
    have hb : memGet (memSetN (memSet m k b) (k + 1) bs) k = b := by
      rw [memGet_memSetN_outside bs (wf_memSet k b h) (by omega), memGet_memSet_same k b h]
    rw [memSetN, List.length_cons, memGetN, hb, memGetN_memSetN bs (k + 1) (wf_memSet k b h)]

/-- The little-endian bytes of a number that n bytes hold give the number back. -/
theorem leNat_leBytes : ∀ {n v : Nat}, v < 256 ^ n → leNat (leBytes n v) = v
  | 0, v, hv => by
    rw [pow_zero] at hv
    simp only [leBytes, leNat]
    omega
  | n + 1, v, hv => by
    have hq : v / 256 < 256 ^ n := Nat.div_lt_of_lt_mul (by rwa [← pow_succ'])
    have hb : (BitVec.ofNat 8 v).toNat = v % 256 := BitVec.toNat_ofNat v 8
    rw [leBytes, leNat, leNat_leBytes hq, hb]
    omega

/-- Settles O6: a list in canonical form rises, so a byte is found at its place; runs follow by induction on their bytes. -/
theorem memoryLaws : Obligations.MemoryLaws := by
  unfold Obligations.MemoryLaws
  refine ⟨fun m k v h => ⟨wf_memSet k v h, memGet_memSet_same k v h, fun j hj => memGet_memSet_ne v h hj⟩, ?_⟩
  exact fun m k bs h =>
    ⟨wf_memSetN bs k h, memGetN_memSetN bs k h, fun j hj => memGet_memSetN_outside bs h hj, fun n v hv => leNat_leBytes hv⟩

end Sys2Proof.Machine
end

section
/-! How the canonical form passes through the shapes of the model's code: choices, folds, pairs, programs
that read the state, outcomes. Names: `inv_f` says that the operation f keeps the canonical form, `keeps_m` that the program m
does however it ends, `next_o` that the outcome o goes on in a state in canonical form. -/

namespace Sys2Proof.Machine

theorem inv_ite {c : Prop} [Decidable c] {s t : State} (hs : s.Inv) (ht : t.Inv) : (if c then s else t).Inv := by
  split
  · exact hs
  · exact ht

theorem inv_foldl {α : Type} {f : State → α → State} {l : List α} {s : State} (hf : ∀ s a, s.Inv → (f s a).Inv)
    (h : s.Inv) : (l.foldl f s).Inv := by
  induction l generalizing s with
  | nil => exact h
  | cons a l ih => exact ih (hf s a h)

theorem inv_elim {α : Type} {o : Option α} {s : State} {f : α → State} (hs : s.Inv) (hf : ∀ a, (f a).Inv) :
    (o.elim s f).Inv := by
  cases o with
  | none => exact hs
  | some a => exact hf a

theorem inv_fst {α : Type} {p : State × α} {x : α} {t : State} (h : p.1.Inv) (e : p = (t, x)) : t.Inv := by
  rwa [e] at h

theorem inv_snd {α : Type} {p : α × State} {x : α} {t : State} (h : p.2.Inv) (e : p = (x, t)) : t.Inv := by
  rwa [e] at h

theorem inv_foldl_fst {α β : Type} {f : State × β → α → State × β} {l : List α} {p : State × β}
    (hf : ∀ p a, p.1.Inv → (f p a).1.Inv) (h : p.1.Inv) : (l.foldl f p).1.Inv := by
  induction l generalizing p with
  | nil => exact h
  | cons a l ih => exact ih (hf p a h)

theorem inv_foldl_snd {α β : Type} {f : β × State → α → β × State} {l : List α} {p : β × State}
    (hf : ∀ p a, p.2.Inv → (f p a).2.Inv) (h : p.2.Inv) : (l.foldl f p).2.Inv := by
  induction l generalizing p with
  | nil => exact h
  | cons a l ih => exact ih (hf p a h)

theorem inv_foldr {α : Type} {f : α → State → State} {l : List α} {s : State} (hf : ∀ a s, s.Inv → (f a s).Inv)
    (h : s.Inv) : (l.foldr f s).Inv := by
  induction l with
  | nil => exact h
  | cons a l ih => exact hf a _ ih

/-- A read of the state: what follows may use that the state read keeps P. -/
theorem keeps_read {β : Type} {P : State → Prop} {f : State → M β} (hf : ∀ s, P s → Keeps P (f s)) :
    Keeps P (get >>= f) :=
  keeps_get_bind fun s h => hf s h s h

theorem keeps_modifyGet {α : Type} {P : State → Prop} {f : State → α × State} (hf : ∀ s, P s → P (f s).2) :
    Keeps P (modifyGet f : M α) := hf

theorem keeps_map {α β : Type} {P : State → Prop} {m : M α} (f : α → β) (hm : Keeps P m) : Keeps P (f <$> m) :=
  keeps_bind hm fun x => keeps_pure (f x)

theorem keeps_mapM {α β : Type} {P : State → Prop} {f : α → M β} {l : List α} (hf : ∀ a, Keeps P (f a)) :
    Keeps P (l.mapM f) := by
  induction l with
  | nil => exact keeps_pure _
  | cons a l ih =>
    rw [List.mapM_cons]
    exact keeps_bind (hf a) fun _ => keeps_bind ih fun _ => keeps_pure _

theorem keeps_ok {α : Type} {P : State → Prop} {m : M α} {s t : State} {x : α} (hm : Keeps P m) (h : P s)
    (e : m s = .ok x t) : P t := by
  have h1 := hm s h
  rwa [e] at h1

theorem keeps_error {α : Type} {P : State → Prop} {m : M α} {s t : State} {x : Stop} (hm : Keeps P m) (h : P s)
    (e : m s = .error x t) : P t := by
  have h1 := hm s h
  rwa [e] at h1

theorem keeps_run_ok {α : Type} {P : State → Prop} {m : M α} {s t : State} {x : α} (hm : Keeps P m) (h : P s)
    (e : m.run s = .ok x t) : P t := keeps_ok hm h e

theorem keeps_run_error {α : Type} {P : State → Prop} {m : M α} {s t : State} {x : Stop} (hm : Keeps P m) (h : P s)
    (e : m.run s = .error x t) : P t := keeps_error hm h e

/-- The state that an outcome goes on in is in canonical form. -/
def NextInv (o : Host.Outcome State Fault Refusal) : Prop := ∀ t, o = .next t → t.Inv

theorem next_inv {o : Host.Outcome State Fault Refusal} {t : State} (ho : NextInv o) (e : o = .next t) : t.Inv := ho t e

theorem next_next {t : State} (h : t.Inv) : NextInv (.next t) := fun _ e => Host.Outcome.next.inj e ▸ h

theorem next_fault (r : Fault) : NextInv (.fault r) := fun _ e => nomatch e

theorem next_refused (r : Refusal) : NextInv (.refused r) := fun _ e => nomatch e

theorem next_ite {c : Prop} [Decidable c] {o p : Host.Outcome State Fault Refusal} (ho : NextInv o) (hp : NextInv p) :
    NextInv (if c then o else p) := by
  split
  · exact ho
  · exact hp

theorem next_event {f : State → State} {s : State} (hf : ∀ s, s.Inv → (f s).Inv) (h : s.Inv) : NextInv (event f s) :=
  next_next (hf s h)

end Sys2Proof.Machine
end

section
/-! Reads of the current strand, updates of strands and quadrants, and work done as another strand keep the canonical form. -/

namespace Sys2Proof.Machine

theorem keeps_ready {r} : Keeps State.Inv (ready r) :=
  keeps_read fun _ _ => keeps_ite (keeps_throw _) (keeps_pure _)

theorem keeps_rv {r} : Keeps State.Inv (rv r) :=
  keeps_read fun _ _ => keeps_ite (keeps_throw _) (keeps_pure _)

theorem keeps_sound {rs} : Keeps State.Inv (sound rs) := by
  unfold sound
  refine keeps_read fun _ _ => ?_
  split
  · exact keeps_raise _ _
  · exact keeps_pure _

theorem keeps_behindAt : Keeps State.Inv behindAt :=
  keeps_read fun _ _ => keeps_ite (keeps_throw _) (keeps_pure _)

theorem keeps_sc : Keeps State.Inv sc :=
  keeps_read fun _ _ => keeps_pure _

theorem keeps_orFlags {f} : Keeps State.Inv (orFlags f) :=
  keeps_modSc _

theorem inv_modStrand {s : State} {uid} {f : Strand → Strand} (h : s.Inv) : (s.modStrand uid f).Inv :=
  inv_ite (inv_of_eq h rfl rfl) (inv_of_eq h rfl rfl)

theorem inv_mapStrands {s : State} {f : Strand → Strand} (h : s.Inv) : (s.mapStrands f).Inv :=
  inv_of_eq h rfl rfl

theorem inv_setQuad {s : State} {x} (h : s.Inv) : (s.setQuad x).Inv :=
  inv_ite (inv_of_eq h rfl rfl) (inv_ite (inv_of_eq h rfl rfl) (inv_of_eq h rfl rfl))

theorem inv_modQuad {s : State} {q} {f : Quad → Quad} (h : s.Inv) : (s.modQuad q f).Inv :=
  inv_setQuad h

theorem inv_modQuadAll {s : State} {q} {f : QuadData → QuadData} (h : s.Inv) : (s.modQuadAll q f).Inv :=
  inv_modQuad h

theorem inv_modStrandAll {s : State} {uid} {f : Strand → Strand} (h : s.Inv) : (s.modStrandAll uid f).Inv := by
  unfold State.modStrandAll
  split
  · exact h
  · exact inv_modQuad (inv_of_eq (inv_modStrand h) rfl rfl)

theorem inv_reply {s : State} {uid id ws} (h : s.Inv) : (s.reply uid id ws).Inv :=
  inv_modStrandAll h

theorem inv_select {s : State} {uid} (h : s.Inv) : (s.select uid).Inv := by
  unfold State.select
  split
  · exact h
  · exact inv_ite (inv_of_eq h rfl rfl) (inv_of_eq h rfl rfl)

theorem inv_as {s : State} {uid} {f : State → State} (hf : ∀ t, t.Inv → (f t).Inv) (h : s.Inv) : (s.as uid f).Inv := by
  unfold State.as
  have ht := hf _ (inv_select (uid := uid) h)
  split
  · exact hf s h
  · exact inv_ite (inv_ite (inv_of_eq ht rfl rfl) (inv_select ht)) h

theorem inv_modPart {s : State} {p} {f : Part → Part} (h : s.Inv) : (s.modPart p f).Inv :=
  inv_of_eq h rfl rfl

end Sys2Proof.Machine
end

section
/-! Every way to write memory, the host's included, keeps it canonical: the writes end in `memSet`, `memSetN` and the drops by key. -/

namespace Sys2Proof.Machine

theorem inv_scratchWrite {s : State} {q off bs} (h : s.Inv) : (s.scratchWrite q off bs).Inv := by
  obtain ⟨hm, hf⟩ := h
  exact inv_modQuad ⟨wf_memSetN bs _ hm, hf⟩

theorem inv_journal {s : State} {k n} (h : s.Inv) : (s.journal k n).Inv :=
  inv_ite h (inv_modQuad h)

theorem inv_memWrite {s : State} {k bs} (h : s.Inv) : (s.memWrite k bs).Inv := by
  obtain ⟨hm, hf⟩ := inv_journal (k := k) (n := bs.length) h
  exact ⟨wf_memSetN bs k hm, hf⟩

theorem inv_putBytes {s : State} {bs} (h : s.Inv) : (s.putBytes bs).Inv :=
  inv_of_eq (inv_foldl (fun _ _ ht => inv_memWrite ht) h) rfl rfl

theorem inv_spoilWords {s : State} {ws} (h : s.Inv) : (s.spoilWords ws).Inv :=
  inv_of_eq h rfl rfl

theorem inv_spoil {s : State} {k} (h : s.Inv) : (s.spoil k).Inv :=
  inv_spoilWords h

theorem inv_hostFill {s : State} {k n} (h : s.Inv) : (s.hostFill k n).Inv :=
  inv_ite h (inv_of_eq h rfl rfl)

theorem inv_hostPut {s : State} {bs} (h : s.Inv) : (s.hostPut bs).Inv :=
  inv_of_eq h rfl rfl

theorem inv_hostOut {s : State} {p : HostB → Bool} (h : s.Inv) : (s.hostOut p).Inv := by
  obtain ⟨hm, hf⟩ := h
  refine ⟨?_, hf⟩
  exact List.foldlRecOn (motive := fun m : Memory => m.wf = true) _ _ hm fun _ h b _ => wf_memSet b.key b.val h

theorem inv_hostTidy {s : State} (h : s.Inv) : s.hostTidy.Inv :=
  inv_of_eq h rfl rfl

theorem inv_hostDrop {s : State} {k n} (h : s.Inv) : (s.hostDrop k n).Inv :=
  inv_hostTidy (inv_of_eq h rfl rfl)

theorem inv_freeBytes {s : State} {n} (h : s.Inv) : (s.freeBytes n).2.Inv :=
  inv_of_eq h rfl rfl

theorem inv_keyRead {s : State} {kid key n} (h : s.Inv) : (s.keyRead kid key n).2.Inv := by
  unfold State.keyRead
  split
  · exact inv_freeBytes h
  · exact h

theorem inv_keyWrite {s : State} {kid key} (h : s.Inv) : (s.keyWrite kid key).Inv := by
  unfold State.keyWrite
  split
  · exact h
  · extract_lets -underBinder
    split
    · exact inv_ite (inv_memWrite (inv_freeBytes h)) h
    · exact inv_of_eq (inv_ite (inv_memWrite (inv_freeBytes h)) h) rfl rfl

end Sys2Proof.Machine
end

section
/-! Translating an address touches only the walk's records, never memory. -/

namespace Sys2Proof.Machine

theorem inv_orLeaf {s : State} {p va bits} (h : s.Inv) : (s.orLeaf p va bits).Inv := by
  unfold State.orLeaf
  split
  · exact h
  · split
    · exact inv_memWrite h
    · exact h

theorem inv_xlate {s : State} {va a} (h : s.Inv) : (s.xlate va a).2.Inv := by
  unfold State.xlate
  extract_lets -underBinder
  split
  · exact h
  · split
    · exact h
    · exact inv_modQ _ (inv_ite h (inv_orLeaf h))

theorem inv_segOf {s : State} {va n a} (h : s.Inv) : (s.segOf va n a).2.Inv := by
  unfold State.segOf
  split
  · exact h
  · split
    · exact h
    · split
      next s11 e =>
        have hs11 := inv_snd (inv_xlate h) e
        exact hs11
      next s11 e =>
        have hs11 := inv_snd (inv_xlate h) e
        split
        · exact hs11
        · split
          · exact hs11
          · exact hs11

theorem inv_segsGo {ps a} {s : State} {f acc} (h : s.Inv) : (State.segsGo ps a s f acc).2.Inv := by
  induction ps generalizing s f acc with
  | nil => cases f <;> exact h
  | cons p ps ih =>
    unfold State.segsGo
    split
    next e => exact ih (inv_snd (inv_segOf h) e)
    next e => exact ih (inv_snd (inv_segOf h) e)

theorem inv_segs {s : State} {va n a} (h : s.Inv) : (s.segs va n a).2.Inv := by
  unfold State.segs
  extract_lets -underBinder
  split
  · exact inv_segsGo h
  · exact inv_segsGo h

theorem inv_setDirtyAt {s : State} {va} (h : s.Inv) : (s.setDirtyAt va).Inv :=
  inv_modQ _ (inv_orLeaf h)

theorem inv_setDirty {s : State} {segs} (h : s.Inv) : (s.setDirty segs).Inv := by
  unfold State.setDirty
  refine inv_foldl (fun _ _ ht => ?_) h
  split
  · exact inv_ite ht (inv_setDirtyAt ht)
  · exact ht

end Sys2Proof.Machine
end

section
/-! Home slices: lookups, heat, landings and the log change bytes only through `memWrite`; what leaves for another die is only queued. -/

namespace Sys2Proof.Machine

theorem inv_noneRecs {s : State} {p : ScopeRec → Bool} (h : s.Inv) : (s.noneRecs p).Inv :=
  inv_of_eq h rfl rfl

theorem inv_dropLine {s : State} {line} (h : s.Inv) : (s.dropLine line).Inv :=
  inv_ite (inv_hostDrop (inv_hostOut h)) (inv_noneRecs (inv_of_eq h rfl rfl))

theorem inv_touchLine {s : State} {p line mask win pol va} (h : s.Inv) :
    (s.touchLine p line mask win pol va).1.Inv := by
  unfold State.touchLine
  extract_lets -underBinder
  split
  · exact inv_of_eq h rfl rfl
  · extract_lets -underBinder
    exact inv_of_eq (inv_ite h (by split; exacts [inv_dropLine h, h])) rfl rfl

theorem inv_heatUp {s : State} {uid pa} (h : s.Inv) : (s.heatUp uid pa).Inv := by
  unfold State.heatUp
  split
  · exact h
  · exact inv_ite (inv_of_eq h rfl rfl) (inv_of_eq h rfl rfl)

theorem inv_homeLookup {s0 : State} {uid p crew key va n pol cach} (h : s0.Inv) :
    (s0.homeLookup uid p crew key va n pol cach).Inv :=
  inv_ite h (inv_modStrand (inv_touchLine (inv_heatUp (inv_hostFill h))))

theorem inv_countOvf {s : State} {uid refused} (h : s.Inv) : (s.countOvf uid refused).Inv :=
  inv_ite h (inv_modStrand h)

theorem inv_touchLines {s : State} {part crew key va n g pol} (h : s.Inv) :
    (s.touchLines part crew key va n g pol).1.Inv := by
  unfold State.touchLines
  split
  · exact h
  · exact inv_foldl_fst (fun _ _ ht => inv_touchLine ht) h

theorem inv_landMove {s : State} {part crew m} (h : s.Inv) : (s.landMove part crew m).1.Inv := by
  unfold State.landMove
  split
  · exact inv_scratchWrite h
  · exact inv_touchLines (inv_memWrite (inv_keyWrite (inv_ite (inv_hostTidy (inv_of_eq h rfl rfl)) h)))

theorem inv_land {s : State} {part m} (h : s.Inv) : (s.land part m).Inv :=
  inv_landMove h

theorem inv_engHeat {s : State} {x key n g} (h : s.Inv) : (s.engHeat x key n g).Inv :=
  inv_ite h (inv_foldl (fun _ _ ht => inv_heatUp ht) h)

theorem inv_engLand {s : State} {x m} (h : s.Inv) : (s.engLand x m).Inv :=
  inv_countOvf (inv_landMove (inv_engHeat h))

theorem inv_engFetch {s : State} {x key va n g pol cach} (h : s.Inv) : (s.engFetch x key va n g pol cach).Inv :=
  inv_countOvf (inv_touchLines (inv_engHeat h))

theorem inv_landLine {s : State} {uid part line bs} (h : s.Inv) : (s.landLine uid part line bs).Inv := by
  unfold State.landLine
  split
  · exact h
  · extract_lets -underBinder
    split
    · exact inv_touchLine (inv_heatUp (inv_hostPut (inv_foldl (fun _ _ ht => inv_hostFill ht) h)))
    · split
      · refine inv_countOvf
          (inv_touchLine (inv_heatUp (inv_foldl (fun _ _ ht => inv_spoil ht) (inv_putBytes (inv_keyWrite h)))))
      · exact inv_foldl (fun _ _ ht => inv_spoil ht) (inv_putBytes (inv_keyWrite h))

theorem inv_setHomeRec {s : State} {r} (h : s.Inv) : (s.setHomeRec r).Inv :=
  inv_of_eq h rfl rfl

theorem inv_chargeLog {s : State} {uid x} (h : s.Inv) : (s.chargeLog uid x).Inv :=
  inv_modStrand h

theorem inv_handOn {s : State} {q uid k} (h : s.Inv) : (s.handOn q uid k).Inv :=
  inv_modQuad (inv_of_eq h rfl rfl)

theorem inv_hand {s : State} {k} (h : s.Inv) : (s.hand k).Inv :=
  inv_of_eq h rfl rfl

theorem keeps_platform {n} : Keeps State.Inv (platform n) :=
  keeps_read fun _ _ => keeps_ite keeps_block (keeps_pure _)

theorem keeps_outwardGo {k} {direct : State → State × List Word} (hdirect : ∀ t, t.Inv → (direct t).1.Inv) :
    Keeps State.Inv (outwardGo k direct) := by
  unfold outwardGo
  refine keeps_read fun _ hs => ?_
  split
  · split
    · exact keeps_bind (keeps_modCur _) fun _ => keeps_pure _
    · exact keeps_block
  · split
    · exact keeps_bind (keeps_set (inv_modCur _ (inv_hand hs))) fun _ => keeps_block
    · exact keeps_bind (keeps_set (hdirect _ hs)) fun _ => keeps_pure _

theorem keeps_outward {k} {direct : State → State × List Word} (hdirect : ∀ t, t.Inv → (direct t).1.Inv) :
    Keeps State.Inv (outward k direct) :=
  keeps_bind keeps_platform fun _ => keeps_outwardGo hdirect

theorem keeps_emitGo {k} {direct : State → State} (hdirect : ∀ t, t.Inv → (direct t).Inv) :
    Keeps State.Inv (emitGo k direct) :=
  keeps_modify (fun _ ht => inv_ite (inv_hand ht) (hdirect _ ht))

theorem keeps_emit {k} {direct : State → State} (hdirect : ∀ t, t.Inv → (direct t).Inv) :
    Keeps State.Inv (emit k direct) :=
  keeps_bind keeps_platform fun _ => keeps_emitGo hdirect

end Sys2Proof.Machine
end

section
/-! Reads and writes of a piece through the quadrant and the home, and turns on their way home. -/

namespace Sys2Proof.Machine

theorem inv_readGrain {s : State} {p gkey gva pol} (h : s.Inv) : (s.readGrain p gkey gva pol).2.Inv := by
  have hk {kid n} :
    ((s.homeLookup s.cur.uid s.cur.ident.part s.cur.ident.crew gkey gva n pol p.cach).keyRead kid gkey n).2.Inv :=
    inv_keyRead (inv_homeLookup h)
  unfold State.readGrain
  dsimp only
  split
  · exact inv_modQ _ h
  · split
    · exact inv_ite (inv_modQ _ (inv_modQ _ h)) (inv_modQ _ h)
    · exact inv_ite (inv_modQ _ (inv_ite (inv_modQ _ hk) hk)) (inv_ite (inv_modQ _ hk) hk)

theorem keeps_readPartB {p key n pol gva} : Keeps State.Inv (readPartB p key n pol gva) := by
  unfold readPartB
  refine keeps_read fun _ hs => ?_
  exact keeps_ite (keeps_pure _) (keeps_bind (keeps_set (inv_readGrain hs)) fun _ => keeps_pure _)

theorem keeps_readSegB {pol g} : Keeps State.Inv (readSegB pol g) := by
  unfold readSegB
  split
  · exact keeps_read fun _ _ => keeps_pure _
  · exact keeps_bind (keeps_mapM (fun _ => keeps_readPartB)) fun _ => keeps_pure _

theorem keeps_readSeg {pol g} : Keeps State.Inv (readSeg pol g) := by
  unfold readSeg
  refine keeps_read fun _ hs => ?_
  refine keeps_bind keeps_readSegB fun _ => ?_
  split
  · exact keeps_bind (keeps_set hs) fun _ => keeps_raiseAt _ _ _ _
  · exact keeps_pure _

theorem keeps_turnCheck {segs rst} : Keeps State.Inv (turnCheck segs rst) := by
  unfold turnCheck
  refine keeps_read fun _ _ => ?_
  split
  · exact keeps_raiseAt _ _ _ _
  · exact keeps_pure _

theorem keeps_segsM {va n a rst} : Keeps State.Inv (segsM va n a rst) := by
  unfold segsM
  refine keeps_read fun _ hs => ?_
  extract_lets -underBinder
  split
  · exact keeps_bind (keeps_set (inv_segs hs)) fun _ => keeps_pure _
  · exact keeps_throw _

theorem inv_segsAllGo {ps a} {s : State} {f acc} (h : s.Inv) : (State.segsAllGo ps a s f acc).2.Inv := by
  induction ps generalizing s f acc with
  | nil => cases f <;> exact h
  | cons p ps ih =>
    unfold State.segsAllGo
    split
    next e => exact ih (inv_snd (inv_segs h) e)
    next e => exact ih (inv_snd (inv_segs h) e)

theorem keeps_segsAll {xs a rst} : Keeps State.Inv (segsAll xs a rst) := by
  unfold segsAll
  refine keeps_read fun _ hs => ?_
  extract_lets -underBinder
  split
  · exact keeps_bind (keeps_set (inv_segsAllGo hs)) fun _ => keeps_pure _
  · exact keeps_throw _

theorem inv_spill {s : State} {quad core bs} (h : s.Inv) : (s.spill quad core bs).Inv :=
  inv_ite (inv_modQuad h) (inv_foldl (fun _ _ ht => inv_spoil ht) (inv_putBytes (inv_modQuad h)))

theorem inv_landRec {s : State} {quad id r} (h : s.Inv) : (s.landRec quad id r).1.Inv :=
  inv_setHomeRec h

theorem inv_landTurn {s : State} {quad uid id bytes rcds how} (h : s.Inv) :
    (s.landTurn quad uid id bytes rcds how).1.Inv := by
  unfold State.landTurn
  extract_lets +onlyGivenNames i s1 s2 s3
  have h1 : s1.Inv := inv_foldl (fun _ _ ht => inv_landLine ht) h
  have h2 : s2.Inv := by
    unfold s2
    split
    · exact inv_hostOut h1
    · exact h1
  refine inv_foldl_fst (fun p r hp => ?_) (inv_modQuadAll h2)
  have hr : (p.1.landRec quad i r).1.Inv := inv_landRec hp
  split
  · refine inv_foldl (fun _ _ ht => ?_) hr
    split
    · exact inv_chargeLog ht
    · exact ht
  · exact hr

theorem inv_markSent {s : State} {quad ks id} (h : s.Inv) : (s.markSent quad ks id).Inv :=
  inv_modQuad h

theorem inv_sendHome {s : State} {quad uid bs rcds how} (h : s.Inv) : (s.sendHome quad uid bs rcds how).Inv := by
  unfold State.sendHome
  extract_lets -underBinder
  split
  · exact inv_handOn (inv_markSent h)
  · exact inv_foldl (fun _ _ ht => inv_chargeLog ht) (inv_landTurn (inv_of_eq (inv_markSent h) rfl rfl))

theorem inv_drainHome {s : State} {quad bs} (h : s.Inv) : (s.drainHome quad bs).Inv := by
  unfold State.drainHome
  split
  · exact h
  · exact inv_sendHome h

theorem inv_fitOutbound {s : State} {quad} (h : s.Inv) : (s.fitOutbound quad).Inv :=
  inv_ite h (inv_foldr (fun _ _ ht => inv_drainHome ht) h)

theorem inv_passUncached {s : State} {quad} (h : s.Inv) : (s.passUncached quad).Inv :=
  inv_foldr (fun _ _ ht => inv_drainHome ht) h

theorem inv_drainCore {s : State} {quad core bs} (h : s.Inv) : (s.drainCore quad core bs).Inv :=
  inv_ite h (inv_fitOutbound (inv_passUncached (inv_spill h)))

theorem inv_fitBuffer {s : State} {quad core} (h : s.Inv) : (s.fitBuffer quad core).Inv :=
  inv_drainCore h

theorem inv_turnCoreBytes {s : State} {x gkey size} (h : s.Inv) : (s.turnCoreBytes x gkey size).Inv :=
  inv_modQuad h

theorem inv_liftAtom {s : State} {x gkey} (h : s.Inv) : (s.liftAtom x gkey).1.Inv := by
  unfold State.liftAtom
  extract_lets -underBinder
  split
  · exact h
  · extract_lets -underBinder
    split
    · exact inv_modQuad h
    · split
      · exact inv_modQuad h
      · exact inv_modQuad h

theorem inv_turnQuadBytes {s : State} {x gkey size cach} (h : s.Inv) : (s.turnQuadBytes x gkey size cach).1.Inv := by
  unfold State.turnQuadBytes
  extract_lets mine s1 t s2 d ours kid
  have h1 : s1.Inv := inv_spill h
  have h2 : s2.Inv := inv_modQuad (inv_liftAtom h1)
  split
  · exact h1
  · split
    next base s3 e =>
      refine inv_fitOutbound (inv_modQuad (inv_snd ?_ e))
      split
      · exact h2
      · exact inv_keyRead h2

theorem inv_turnGrainLow {s : State} {x gkey size quadLevel cach} (h : s.Inv) :
    (s.turnGrainLow x gkey size quadLevel cach).1.Inv := by
  unfold State.turnGrainLow
  split
  · exact inv_modStrand (inv_turnQuadBytes h)
  · exact inv_modStrand (inv_turnCoreBytes h)

theorem inv_turnAway {s : State} {x g how} (h : s.Inv) : (s.turnAway x g how).Inv := by
  unfold State.turnAway
  extract_lets +onlyGivenNames t line who s1
  have h1 : s1.Inv := inv_modStrand
    (inv_foldl (fun _ _ ht => inv_elim ht fun _ => inv_chargeLog ht) (inv_turnGrainLow h))
  exact inv_ite h1 (inv_ite h1 (inv_sendHome h1))

theorem inv_roomForMark {s : State} {gkey} (h : s.Inv) : (s.roomForMark gkey).Inv := by
  unfold State.roomForMark
  split
  · exact h
  · split
    · exact h
    · extract_lets -underBinder
      split
      · exact inv_foldl (fun _ _ ht => inv_chargeLog ht) (inv_turnGrainLow h)
      · exact inv_sendHome (inv_foldl (fun _ _ ht => inv_chargeLog ht) (inv_turnGrainLow h))

theorem inv_roomForPend {s : State} {gkey} (h : s.Inv) : (s.roomForPend gkey).Inv := by
  unfold State.roomForPend
  split
  · exact h
  · split
    · exact h
    · exact inv_turnAway h

theorem inv_addPend {s : State} {gkey gva size cach} (h : s.Inv) : (s.addPend gkey gva size cach).Inv :=
  inv_ite (inv_roomForPend h) (inv_modCur _ (inv_roomForPend h))

theorem inv_addMark {s : State} {gkey gva size cach} (h : s.Inv) : (s.addMark gkey gva size cach).Inv :=
  inv_ite (inv_modCur _ (inv_addPend (inv_roomForMark h))) (inv_modCur _ (inv_addPend (inv_roomForMark h)))

theorem inv_putOut {s : State} {key v turned tag} (h : s.Inv) : (s.putOut key v turned tag).Inv :=
  inv_modQ _ h

theorem inv_storeSeg {s : State} {g bs pol} (h : s.Inv) : (s.storeSeg g bs pol).Inv :=
  inv_fitBuffer (inv_foldl (fun _ _ ht => inv_putOut ht) (inv_foldl (fun _ _ ht => inv_addMark ht) h))

theorem inv_deliverMirror {s : State} {crew off bs} (h : s.Inv) : (s.deliverMirror crew off bs).Inv :=
  inv_foldl (fun _ _ ht => inv_scratchWrite ht) h

theorem keeps_clearOfStrips {segs} : Keeps State.Inv (clearOfStrips segs) :=
  keeps_read fun _ _ => keeps_ite (keeps_throw _) (keeps_pure _)

theorem keeps_storeSegs {segs bs pol} : Keeps State.Inv (storeSegs segs bs pol) := by
  unfold storeSegs
  refine keeps_bind keeps_behindAt fun _ => ?_
  refine keeps_bind keeps_clearOfStrips fun _ => ?_
  refine keeps_bind keeps_platform fun _ => ?_
  refine keeps_bind (keeps_modify (fun _ ht => inv_setDirty ht)) fun _ => ?_
  refine keeps_forM (fun _ => ?_) _
  split
  · exact keeps_read fun _ _ => keeps_emitGo (fun _ ht1 => inv_deliverMirror ht1)
  · exact keeps_modify (fun _ ht1 => inv_storeSeg ht1)

theorem keeps_storeBytes {va bs a pol rst} : Keeps State.Inv (storeBytes va bs a pol rst) :=
  keeps_bind keeps_segsM fun _ => keeps_storeSegs

theorem inv_dropGrain {s : State} {gkey size quadToo} (h : s.Inv) : (s.dropGrain gkey size quadToo).Inv :=
  inv_modQ _ h

theorem inv_acquire {s : State} {k} (h : s.Inv) : (s.acquire k).Inv :=
  inv_ite h (inv_modQ _ h)

theorem keeps_chargeTurn {gva ms} : Keeps State.Inv (chargeTurn gva ms) := by
  unfold chargeTurn
  refine keeps_forM (fun _ => ?_) _
  exact keeps_read fun _ hs => keeps_ite (keeps_raiseAt _ _ _ _) (keeps_set (inv_chargeLog hs))

theorem keeps_carryHome {key bs rcds how} : Keeps State.Inv (carryHome key bs rcds how) := by
  unfold carryHome
  refine keeps_read fun _ _ => ?_
  refine keeps_bind keeps_platform fun _ => ?_
  refine keeps_bind (keeps_ite (keeps_modify (fun _ ht => inv_markSent ht)) (keeps_pure _)) fun _ => ?_
  exact keeps_bind (keeps_outwardGo (fun _ ht => inv_landTurn ht)) fun _ => keeps_pure _

theorem keeps_chargeAll {gkey gva ms} : Keeps State.Inv (chargeAll gkey gva ms) :=
  keeps_read fun _ _ => keeps_bind (keeps_modCur _) fun _ => keeps_chargeTurn

theorem keeps_turnGrain {gkey gva size level cach} : Keeps State.Inv (turnGrain gkey gva size level cach) := by
  unfold turnGrain
  refine keeps_read fun _ hs0 => ?_
  refine keeps_bind (keeps_set (inv_turnGrainLow hs0)) fun _ => ?_
  refine keeps_bind (keeps_modCur _) fun _ => ?_
  split
  · exact keeps_bind (keeps_ite (keeps_modCur _) (keeps_pure _)) fun _ => keeps_chargeAll
  · refine keeps_read fun _ _ => ?_
    split
    · exact keeps_block
    · extract_lets -underBinder
      split
      · exact keeps_bind (keeps_ite (keeps_modCur _) (keeps_pure _)) fun _ => keeps_chargeAll
      · refine keeps_bind keeps_carryHome fun _ => ?_
        exact keeps_bind (keeps_ite (keeps_modCur _) (keeps_pure _)) fun _ => keeps_chargeAll

theorem keeps_writeThrough : Keeps State.Inv writeThrough := by
  unfold writeThrough
  refine keeps_read fun _ _ => ?_
  split
  · exact keeps_pure _
  · refine keeps_bind (keeps_ite (keeps_pure _) (keeps_modify (fun _ ht => inv_sendHome ht))) fun _ => ?_
    exact keeps_read fun _ _ => keeps_ite (keeps_pure _) keeps_block

theorem keeps_release {k} : Keeps State.Inv (release k) := by
  unfold release
  refine keeps_read fun _ _ => ?_
  refine keeps_bind (keeps_forM (fun _ => keeps_turnGrain) _) fun _ => ?_
  exact keeps_read fun _ _ => keeps_ite keeps_block (keeps_ite keeps_writeThrough (keeps_pure _))

end Sys2Proof.Machine
end

section
/-! Barriers count arrivals and wake strands; memory stays. -/

namespace Sys2Proof.Machine

theorem inv_setBar {s : State} {x} (h : s.Inv) : (s.setBar x).Inv :=
  inv_ite (inv_modQuad h) (inv_of_eq h rfl rfl)

theorem inv_deliverPhases {s : State} {x} (h : s.Inv) : (s.deliverPhases x).Inv :=
  inv_ite (inv_mapStrands h) (inv_of_eq h rfl rfl)

theorem inv_settleBar {s : State} {x} (h : s.Inv) : (s.settleBar x).Inv :=
  inv_ite (inv_deliverPhases (inv_setBar h)) (inv_setBar h)

theorem inv_arriveAt {s : State} {uid b} (h : s.Inv) : (s.arriveAt uid b).Inv :=
  inv_settleBar (inv_ite (inv_modStrand h) (inv_modStrandAll h))

theorem inv_podArrive {s : State} {i} (h : s.Inv) : (s.podArrive i).Inv :=
  inv_settleBar h

theorem inv_podWithdraw {s : State} {i n} (h : s.Inv) : (s.podWithdraw i n).Inv :=
  inv_setBar h

theorem inv_podConfig {s : State} {i n} (h : s.Inv) : (s.podConfig i n).Inv :=
  inv_settleBar h

theorem inv_withdraw {s : State} {x} (h : s.Inv) : (s.withdraw x).Inv :=
  inv_modStrand (inv_foldl (fun _ _ ht => inv_setBar ht) h)

end Sys2Proof.Machine
end

section
/-! Ends of strands and crews: fault queue records and lines written out are writes of bytes, the rest is bookkeeping. -/

namespace Sys2Proof.Machine

theorem inv_interrupt {s : State} {vec} (h : s.Inv) : (s.interrupt vec).Inv :=
  inv_ite (inv_of_eq h rfl rfl) (inv_of_eq h rfl rfl)

theorem inv_fqPut {s : State} {p bs} (h : s.Inv) : (s.fqPut p bs).Inv :=
  inv_ite (inv_interrupt (inv_modPart (inv_memWrite h))) (inv_modPart (inv_memWrite h))

theorem inv_fqWrite {s : State} {pid bs} (h : s.Inv) : (s.fqWrite pid bs).Inv := by
  unfold State.fqWrite
  split
  · exact h
  · exact inv_ite h (inv_ite (inv_modPart h) (inv_fqPut h))

theorem inv_fqFor {s : State} {pid bs} (h : s.Inv) : (s.fqFor pid bs).Inv :=
  inv_ite (inv_hand h) (inv_fqWrite h)

theorem inv_park {s : State} {va kind wr rst elt} (h : s.Inv) : (s.park va kind wr rst elt).Inv := by
  unfold State.park
  extract_lets -underBinder
  split
  · exact h
  · exact inv_fqFor (inv_modCur _ (inv_modPart h))

theorem inv_modLaunch {s : State} {h} {f : Launch → Launch} (h1 : s.Inv) : (s.modLaunch h f).Inv :=
  inv_of_eq h1 rfl rfl

theorem inv_modCrew {s : State} {c} {f : Crew → Crew} (h : s.Inv) : (s.modCrew c f).Inv :=
  inv_of_eq h rfl rfl

theorem inv_freeTokens {s : State} {uid} (h : s.Inv) : (s.freeTokens uid).Inv :=
  inv_of_eq h rfl rfl

theorem inv_turnAllHome {s : State} {uid sys} (h : s.Inv) : (s.turnAllHome uid sys).Inv := by
  unfold State.turnAllHome
  split
  · exact h
  · refine inv_foldl (fun _ _ ht => ?_) h
    split
    · exact ht
    · exact inv_turnAway ht

theorem inv_writeOut {s : State} {uid} (h : s.Inv) : (s.writeOut uid).Inv := by
  unfold State.writeOut
  split
  · exact h
  · exact inv_ite h (inv_sendHome h)

theorem inv_relaxLines {s : State} {p} (h : s.Inv) : (s.relaxLines p).Inv :=
  inv_of_eq h rfl rfl

theorem inv_dropCbs {s : State} {q crew} (h : s.Inv) : (s.dropCbs q crew).Inv :=
  inv_modQuadAll h

theorem inv_withdrawCrew {s : State} {c} (h : s.Inv) : (s.withdrawCrew c).Inv :=
  inv_foldl (fun _ _ ht => inv_withdraw ht) h

theorem inv_retireCrew {s : State} {c} (h : s.Inv) : (s.retireCrew c).Inv := by
  unfold State.retireCrew
  split
  · exact h
  · extract_lets s1
    have h1 : s1.Inv := inv_modLaunch (inv_dropCbs (inv_withdrawCrew h))
    exact inv_relaxLines (inv_of_eq h1 rfl rfl)

theorem inv_retireStrand {s : State} {uid normal} (h : s.Inv) : (s.retireStrand uid normal).Inv := by
  unfold State.retireStrand
  split
  · exact h
  · extract_lets s1 s2 s3 s4
    have h4 : s4.Inv := inv_modPart (inv_modStrand (inv_modCrew (inv_freeTokens h)))
    exact inv_ite (inv_retireCrew h4) h4

theorem inv_endFaulted {s : State} {uid} (h : s.Inv) : (s.endFaulted uid).Inv := by
  unfold State.endFaulted
  split
  · exact h
  · exact inv_ite (inv_handOn h) (inv_retireStrand h)

theorem inv_beginEnd {s : State} {uid} (h : s.Inv) : (s.beginEnd uid).Inv := by
  unfold State.beginEnd
  split
  · exact h
  · exact inv_modPart (inv_modStrand h)

theorem inv_terminate {s : State} {t} (h : s.Inv) : (s.terminate t).Inv :=
  inv_foldl (fun _ _ ht1 => inv_beginEnd ht1) (inv_fqFor h)

end Sys2Proof.Machine
end

section
/-! Publications: deliveries write bytes through the landings above. -/

namespace Sys2Proof.Machine

theorem inv_putSub {s : State} {dev part tag off bs} (h : s.Inv) : (s.putSub dev part tag off bs).Inv :=
  inv_land h

theorem inv_modPub {s : State} {id} {f : Pub → Pub} (h : s.Inv) : (s.modPub id f).Inv :=
  inv_of_eq h rfl rfl

theorem inv_settlePubs {s : State} (h : s.Inv) : s.settlePubs.Inv :=
  inv_foldl (fun _ _ ht => inv_reply ht) (inv_of_eq h rfl rfl)

theorem inv_dropSub {s : State} {pubid slot mark} (h : s.Inv) : (s.dropSub pubid slot mark).Inv := by
  unfold State.dropSub
  split
  · exact h
  · split
    · exact h
    · extract_lets s1 s2
      have h2 : s2.Inv := inv_of_eq (inv_modPub h : s1.Inv) rfl rfl
      exact inv_settlePubs (inv_ite (inv_putSub h2) h2)

theorem inv_deliver {s : State} {p b ls version} (h : s.Inv) : (s.deliver p b ls version).Inv :=
  inv_putSub (inv_foldl (fun _ _ ht => inv_putSub (inv_keyRead ht)) h)

theorem inv_serveSub {s : State} {pubid slot} (h : s.Inv) : (s.serveSub pubid slot).Inv := by
  unfold State.serveSub
  split
  · split
    · exact h
    · exact inv_ite (inv_dropSub h) (inv_settlePubs (inv_of_eq (inv_deliver h) rfl rfl))
  · exact h

theorem inv_pumpPub {s : State} {pubid} (h : s.Inv) : (s.pumpPub pubid).Inv :=
  inv_settlePubs (inv_foldl (fun _ _ ht => inv_serveSub ht) h)

theorem inv_unbind {s : State} {pubid} (h : s.Inv) : (s.unbind pubid).Inv := by
  unfold State.unbind
  split
  · exact h
  · exact inv_of_eq (inv_foldl (fun _ _ ht => inv_putSub ht) (inv_pumpPub h)) rfl rfl

theorem inv_start {uid eff} {s : State} {p} (h : s.Inv) : (State.publish.start uid eff s p).Inv := by
  unfold State.publish.start
  extract_lets run s1 s2
  have h2 : s2.Inv := inv_of_eq (inv_modPub h : s1.Inv) rfl rfl
  exact inv_ite (inv_settlePubs h2) (inv_pumpPub h2)

theorem inv_publish {s : State} {r uid eff} (h : s.Inv) : (s.publish r uid eff).Inv := by
  unfold State.publish
  split
  · exact inv_ite (inv_reply h) (inv_ite (inv_reply (inv_unbind h)) (inv_start h))
  · exact inv_ite (inv_reply h) (inv_start (inv_of_eq h rfl rfl))

theorem inv_enrol {s : State} {r} (h : s.Inv) : (s.enrol r).1.Inv := by
  unfold State.enrol
  split
  · exact h
  · split
    · exact h
    · split
      · exact h
      · exact inv_modPub h

theorem inv_subscribe {s : State} {dev r} (h : s.Inv) : (s.subscribe dev r).1.Inv := by
  unfold State.subscribe
  split
  · exact inv_enrol h
  · split
    · exact h
    · extract_lets -underBinder
      split
      · exact inv_of_eq h rfl rfl
      · exact inv_of_eq h rfl rfl

theorem inv_unsubscribe {s : State} {part dev pubid vword} (h : s.Inv) : (s.unsubscribe part dev pubid vword).Inv := by
  unfold State.unsubscribe
  split
  · split
    · exact h
    · split
      · exact inv_dropSub h
      · exact h
  · exact inv_of_eq h rfl rfl

theorem inv_endSubs {s : State} {part} {hit : Nat → Bool} (h : s.Inv) : (s.endSubs part hit).Inv := by
  unfold State.endSubs
  refine inv_foldl (fun _ _ ht => ?_)
    (inv_of_eq (inv_foldl (fun _ _ ht => inv_foldl (fun _ _ ht1 => inv_dropSub ht1) ht) h) rfl rfl)
  exact inv_putSub ht

theorem inv_farDelivery {s : State} {dev pubid ls version} (h : s.Inv) : (s.farDelivery dev pubid ls version).Inv := by
  unfold State.farDelivery
  refine inv_foldl (fun _ _ ht => ?_) h
  extract_lets -underBinder
  split
  · exact inv_of_eq (inv_putSub (inv_foldl (fun _ _ ht1 => inv_ite (inv_putSub ht1) ht1) ht)) rfl rfl
  · exact inv_putSub (inv_foldl (fun _ _ ht1 => inv_ite (inv_putSub ht1) ht1) ht)

theorem inv_heed {s : State} {m} (h : s.Inv) : (s.heed m).Inv :=
  inv_ite h (inv_of_eq h rfl rfl)

theorem inv_voidJoins {s : State} {collid seq npos} (h : s.Inv) : (s.voidJoins collid seq npos).Inv := by
  unfold State.voidJoins
  refine inv_foldl (fun _ _ ht => ?_) h
  extract_lets -underBinder
  split
  · exact inv_of_eq ht rfl rfl
  · exact ht

theorem inv_reviveJoins {s : State} {tick u} (h : s.Inv) : (s.reviveJoins tick u).Inv :=
  inv_of_eq h rfl rfl

theorem inv_withdrawJoin {s : State} {x} (h : s.Inv) : (s.withdrawJoin x).Inv := by
  unfold State.withdrawJoin
  split
  · exact inv_ite (inv_of_eq h rfl rfl) h
  · exact h

end Sys2Proof.Machine
end

section
/-! Trap entry, unwinding, and how an instruction ends: whatever a program that keeps the canonical form does, its outcome does. -/

namespace Sys2Proof.Machine

theorem inv_trapEntry {s : State} {t} (h : s.Inv) : (s.trapEntry t).Inv :=
  inv_ite (inv_terminate h) (inv_modCur _ (inv_of_eq h rfl rfl))

theorem inv_unwind {s : State} {e} (h : s.Inv) : (s.unwind e).Inv :=
  inv_modCur _ h

theorem inv_stopped {s : State} {st} (h : s.Inv) : (s.stopped st).Inv := by
  unfold State.stopped
  extract_lets u
  have hu : u.Inv := by
    unfold u
    split
    · exact inv_unwind h
    · exact h
  split
  · exact inv_setWaiting h
  · exact inv_ite hu (inv_trapEntry hu)
  · exact inv_ite hu (inv_park hu)

theorem inv_stopFrom {s : State} {t : State} {st} (h : s.Inv) (ht : t.Inv) : (s.stopFrom t st).Inv :=
  inv_ite (inv_setWaiting h) (inv_stopped ht)

/-- An instruction's outcome goes on only in a state that its program leaves.
@next_finishK
The same with the books of the instruction's kind (`finishK`).
@keeps_vecInstr
The shell of every vector instruction: a check at issue, and a body that runs in the stream.
@keeps_matInstr
The shell of every matrix instruction.
@inv_memWrite
Every write of guest memory is this one: the journal, then the bytes.
@inv_driveWrite
A drive's data is written as memory is.
@keeps_blockM
A form inside a vector block is a scalar form, and each family of forms keeps the canonical form.
@inv_tloadRow
The row that TLOAD puts is a fill row, or one read from memory piece by piece; put is any way to place it.
@next_exec
Every instruction, by the lemma on its meaning.
@next_strandStep
A strand's step is a step of its front or of its stream.
@inv_happen
An event that happens is one of the meanings above, or nothing.
@inv_fabricMoves
Every move of the fabric is an event or the end of a flush.
@next_runAct
What the outside does to the module: a host's access, a frame from a peer, a request to the lodge.
@next_step
A step is an act of the outside, or the module's own next move. -/
theorem next_finish {m : M Done} {s : State} (hm : Keeps State.Inv m) (h : s.Inv) : NextInv (finish m s) := fun _ e =>
  keeps_finish hm (fun _ h => inv_advance h) (fun _ _ h => inv_transfer _ h) (fun _ _ h => inv_modSc _ h)
    (fun _ _ h => inv_stopped h) (fun _ h => inv_setWaiting h) h e

theorem next_finishK {kind wr} {m : M Done} {s : State} (hm : Keeps State.Inv m) (h : s.Inv) :
    NextInv (finishK kind wr m s) := by
  refine next_finish (fun s h => ?_) h
  cases e : m s with
  | ok => exact keeps_ok hm h e
  | error r => cases r <;> exact keeps_error hm h e

end Sys2Proof.Machine
end

section
/-! The mode's checks only read or raise. -/

namespace Sys2Proof.Machine

theorem keeps_modeIllegal {α : Type} {i bit_} : Keeps State.Inv (modeIllegal i bit_ : M α) :=
  keeps_raiseAt _ _ _ _

theorem keeps_wordIllegal {α : Type} {i} : Keeps State.Inv (wordIllegal i : M α) :=
  keeps_raise _ _

theorem keeps_wordPriv {α : Type} {i} : Keeps State.Inv (wordPriv i : M α) :=
  keeps_raise _ _

theorem keeps_needETA {i} {ok : ETy → Bool} : Keeps State.Inv (needETA i ok) := by
  unfold needETA
  refine keeps_bind keeps_sc fun _ => ?_
  split
  · exact keeps_ite (keeps_pure _) keeps_modeIllegal
  · exact keeps_modeIllegal

theorem keeps_needETB {i t} {ok : ETy → Bool} : Keeps State.Inv (needETB i t ok) := by
  unfold needETB
  refine keeps_bind keeps_sc fun _ => ?_
  dsimp only
  split
  · exact keeps_ite (keeps_pure _) keeps_modeIllegal
  · exact keeps_modeIllegal

theorem keeps_needRND {i} : Keeps State.Inv (needRND i) :=
  keeps_bind keeps_sc fun _ => keeps_ite (keeps_pure _) keeps_modeIllegal

theorem keeps_rmodeScalar {i} : Keeps State.Inv (rmodeScalar i) :=
  keeps_bind keeps_needRND fun _ => keeps_bind keeps_sc fun _ => keeps_pure _

theorem keeps_scalarFlags {fl} : Keeps State.Inv (scalarFlags fl) :=
  keeps_bind keeps_sc fun _ => keeps_ite (keeps_raise _ _) keeps_orFlags

end Sys2Proof.Machine
end

section
/-! Entry to and exit from the vector stream, and the two shells that vector and matrix instructions share. -/

namespace Sys2Proof.Machine

theorem inv_enterStream {s : State} {k} (h : s.Inv) : (s.enterStream k).Inv := by
  unfold State.enterStream
  split
  · exact h
  · exact inv_modCur _ h

theorem inv_leaveStream {s : State} (h : s.Inv) : s.leaveStream.Inv := by
  unfold State.leaveStream
  split
  · exact inv_modCur _ h
  · exact h

theorem keeps_streamDone : Keeps State.Inv streamDone := by
  unfold streamDone
  refine keeps_read fun _ hs => ?_
  exact keeps_ite (keeps_pure _) (keeps_bind (keeps_set (inv_leaveStream hs)) fun _ => keeps_pure _)

theorem inv_enqueue {s : State} {i mat nDraws block} (h : s.Inv) : (s.enqueue i mat nDraws block).Inv :=
  inv_modCur _ h

theorem keeps_endDraws {nDraws} : Keeps State.Inv (endDraws nDraws) :=
  keeps_read fun _ _ => keeps_ite (keeps_modSc _) (keeps_pure _)

theorem keeps_aboveStart {α : Type} {i} {m : M α} (hm : Keeps State.Inv m) : Keeps State.Inv (aboveStart i m) := by
  intro s h
  unfold aboveStart
  cases e : m s with
  | ok => exact keeps_ok hm h e
  | error => exact keeps_error hm h e

theorem keeps_vecInstr {i} {check : M Unit} {nDraws : State → Nat} {run : M Unit} (hcheck : Keeps State.Inv check)
    (hrun : Keeps State.Inv run) : Keeps State.Inv (vecInstr i check nDraws run) := by
  unfold vecInstr
  refine keeps_aboveStart ?_
  refine keeps_read fun _ _ => ?_
  split
  · exact keeps_bind hcheck fun _ => keeps_bind (keeps_modify (fun _ ht => inv_enqueue ht)) fun _ => keeps_pure _
  · refine keeps_bind (keeps_ite (keeps_bind (keeps_modCur _) fun _ => hcheck) (keeps_pure _)) fun _ => ?_
    refine keeps_bind (keeps_modCur _) fun _ => ?_
    refine keeps_bind hrun fun _ => ?_
    exact keeps_bind keeps_endDraws fun _ => keeps_bind (keeps_modCur _) fun _ => keeps_streamDone

theorem keeps_matInstr {i} {check : M Unit} {busy : Scalar → Scalar} {nDraws : State → Nat} {run : M Unit}
    (hcheck : Keeps State.Inv check) (hrun : Keeps State.Inv run) :
    Keeps State.Inv (matInstr i check busy nDraws run) := by
  unfold matInstr
  refine keeps_read fun _ _ => ?_
  split
  · refine keeps_bind hcheck fun _ => ?_
    refine keeps_bind (keeps_modify (fun _ ht => inv_enqueue ht)) fun _ => ?_
    exact keeps_bind (keeps_modSc _) fun _ => keeps_pure _
  · refine keeps_bind (keeps_ite (keeps_bind (keeps_modCur _) fun _ => hcheck) (keeps_pure _)) fun _ => ?_
    refine keeps_bind hrun fun _ => ?_
    exact keeps_bind keeps_endDraws fun _ => keeps_bind (keeps_modSc _) fun _ => keeps_streamDone

theorem keeps_unfenced {load store} : Keeps State.Inv (unfenced load store) :=
  keeps_read fun _ _ => keeps_ite keeps_block (keeps_pure _)

theorem keeps_drained : Keeps State.Inv drained :=
  keeps_read fun _ _ => keeps_ite keeps_block (keeps_pure _)

theorem keeps_settled : Keeps State.Inv settled :=
  keeps_read fun _ _ => keeps_ite keeps_block (keeps_pure _)

theorem keeps_makeSure : Keeps State.Inv makeSure :=
  keeps_modCur _

theorem keeps_soundAt {rs rst} : Keeps State.Inv (soundAt rs rst) := by
  unfold soundAt
  refine keeps_read fun _ _ => ?_
  extract_lets -underBinder
  split
  · exact keeps_raiseAt _ _ _ _
  · exact keeps_pure _

theorem keeps_waitStream {α : Type} {q} : Keeps State.Inv (waitStream q : M α) := by
  unfold waitStream
  refine keeps_read fun _ _ => ?_
  split
  · exact keeps_raiseAt _ _ _ _
  · exact keeps_block

end Sys2Proof.Machine
end

section
/-! Scalar loads, probes, stores and floating point. -/

namespace Sys2Proof.Machine

theorem keeps_behindStores {p : Instr → Bool} {gs} : Keeps State.Inv (behindStores p gs) :=
  keeps_read fun _ _ => keeps_ite keeps_block (keeps_pure _)

theorem keeps_accIn {a} : Keeps State.Inv (accIn a) :=
  keeps_read fun _ _ => keeps_pure _

theorem keeps_loadOp {d a o n signed} : Keeps State.Inv (loadOp d a o n signed) := by
  unfold loadOp
  refine keeps_bind keeps_ready fun _ => ?_
  refine keeps_bind keeps_rv fun _ => ?_
  refine keeps_read fun _ _ => ?_
  split
  · exact keeps_block
  · refine keeps_bind keeps_accIn fun _ => ?_
    refine keeps_bind keeps_segsM fun _ => ?_
    refine keeps_bind keeps_behindStores fun _ => ?_
    refine keeps_bind keeps_turnCheck fun _ => ?_
    refine keeps_bind keeps_sound fun _ => ?_
    exact keeps_bind (keeps_mapM (fun _ => keeps_readSeg)) fun _ => keeps_bind (keeps_wr _ _) fun _ => keeps_pure _

theorem keeps_probeOp {d a o n signed} : Keeps State.Inv (probeOp d a o n signed) := by
  unfold probeOp
  refine keeps_bind keeps_ready fun _ => ?_
  refine keeps_bind keeps_rv fun _ => ?_
  refine keeps_read fun _ hs => ?_
  split
  · exact keeps_block
  · extract_lets -underBinder
    split
    · split
      · refine keeps_bind keeps_sound fun _ => ?_
        exact keeps_bind (keeps_wr _ _) fun _ => keeps_bind (keeps_modSc _) fun _ => keeps_pure _
      · exact keeps_throw _
    · refine keeps_bind (keeps_set (inv_segs hs)) fun _ => ?_
      refine keeps_bind keeps_behindStores fun _ => ?_
      refine keeps_bind keeps_turnCheck fun _ => ?_
      refine keeps_bind keeps_sound fun _ => ?_
      exact keeps_bind (keeps_mapM (fun _ => keeps_readSeg)) fun _ => keeps_bind (keeps_wr _ _) fun _ => keeps_pure _

theorem keeps_storeOp {i d a o n} : Keeps State.Inv (storeOp i d a o n) := by
  unfold storeOp
  refine keeps_bind keeps_ready fun _ => ?_
  refine keeps_bind keeps_rv fun _ => ?_
  refine keeps_read fun _ _ => ?_
  split
  · exact keeps_bind (keeps_modify (fun _ ht => inv_enqueue ht)) fun _ => keeps_pure _
  · refine keeps_bind keeps_unfenced fun _ => ?_
    refine keeps_bind keeps_accIn fun _ => ?_
    refine keeps_bind keeps_segsM fun _ => ?_
    refine keeps_bind keeps_rv fun _ => ?_
    refine keeps_bind (keeps_ite keeps_sound keeps_soundAt) fun _ => ?_
    refine keeps_bind keeps_storeSegs fun _ => ?_
    exact keeps_bind keeps_makeSure fun _ => keeps_ite (keeps_pure _) keeps_streamDone

theorem keeps_fsRound {i d} {f : ETy → RMode → Bool → M FRes} (hf : ∀ ty rm b, Keeps State.Inv (f ty rm b)) :
    Keeps State.Inv (fsRound i d f) := by
  unfold fsRound
  refine keeps_bind keeps_needETA fun _ => ?_
  refine keeps_bind keeps_rmodeScalar fun _ => ?_
  refine keeps_bind keeps_sc fun _ => ?_
  refine keeps_bind keeps_ready fun _ => ?_
  refine keeps_bind (hf _ _ _) fun _ => ?_
  refine keeps_bind keeps_scalarFlags fun _ => ?_
  exact keeps_bind (keeps_modSc _) fun _ => keeps_bind (keeps_wr _ _) fun _ => keeps_pure _

theorem keeps_fsTwo {i d a b} {f : ETy → RMode → Bool → Nat → Nat → FRes} : Keeps State.Inv (fsTwo i d a b f) :=
  keeps_fsRound (fun _ _ _ => keeps_bind (keeps_rd _) fun _ => keeps_bind (keeps_rd _) fun _ => keeps_pure _)

theorem keeps_fsCmp {i d a b} {f : ETy → Nat → Nat → Bool × Flags} : Keeps State.Inv (fsCmp i d a b f) := by
  unfold fsCmp
  refine keeps_bind keeps_needETA fun _ => ?_
  refine keeps_bind keeps_ready fun _ => ?_
  refine keeps_bind (keeps_rd _) fun _ => ?_
  refine keeps_bind (keeps_rd _) fun _ => ?_
  exact keeps_bind keeps_scalarFlags fun _ => keeps_bind (keeps_wr _ _) fun _ => keeps_pure _

theorem keeps_mFsSqrt {d a} : Keeps State.Inv (mFsSqrt d a) :=
  keeps_fsRound (fun _ _ _ => keeps_bind (keeps_rd _) fun _ => keeps_pure _)

theorem keeps_mFsFma {d a b} : Keeps State.Inv (mFsFma d a b) := by
  unfold mFsFma
  refine keeps_fsRound (fun _ _ _ => ?_)
  refine keeps_bind (keeps_rd _) fun _ => ?_
  exact keeps_bind (keeps_rd _) fun _ => keeps_bind (keeps_rd _) fun _ => keeps_pure _

theorem keeps_mFsMin {d a b} : Keeps State.Inv (mFsMin d a b) :=
  keeps_fsTwo

theorem keeps_mFsMax {d a b} : Keeps State.Inv (mFsMax d a b) :=
  keeps_fsTwo

theorem keeps_mFsCvti {d a} : Keeps State.Inv (mFsCvti d a) := by
  unfold mFsCvti
  refine keeps_bind keeps_needETA fun _ => ?_
  refine keeps_bind keeps_sc fun _ => ?_
  refine keeps_bind keeps_ready fun _ => ?_
  refine keeps_bind (keeps_rd _) fun _ => ?_
  exact keeps_bind keeps_scalarFlags fun _ => keeps_bind (keeps_wr _ _) fun _ => keeps_pure _

theorem keeps_mFsCvtf {d a} : Keeps State.Inv (mFsCvtf d a) := by
  unfold mFsCvtf
  refine keeps_bind keeps_needETA fun _ => ?_
  refine keeps_bind keeps_needETB fun _ => ?_
  refine keeps_bind keeps_rmodeScalar fun _ => ?_
  refine keeps_bind keeps_ready fun _ => ?_
  refine keeps_bind (keeps_rd _) fun _ => ?_
  refine keeps_bind keeps_scalarFlags fun _ => ?_
  exact keeps_bind (keeps_modSc _) fun _ => keeps_bind (keeps_wr _ _) fun _ => keeps_pure _

theorem keeps_mFsCls {d a} : Keeps State.Inv (mFsCls d a) := by
  unfold mFsCls
  refine keeps_bind keeps_needETA fun _ => ?_
  refine keeps_bind keeps_ready fun _ => ?_
  exact keeps_bind (keeps_rd _) fun _ => keeps_bind (keeps_wr _ _) fun _ => keeps_pure _

theorem keeps_mFsCvt {d a} : Keeps State.Inv (mFsCvt d a) := by
  unfold mFsCvt
  refine keeps_bind keeps_needETA fun _ => ?_
  refine keeps_bind keeps_sc fun _ => ?_
  refine keeps_bind keeps_needETB fun _ => ?_
  refine keeps_bind keeps_rmodeScalar fun _ => ?_
  refine keeps_bind keeps_ready fun _ => ?_
  refine keeps_bind (keeps_rd _) fun _ => ?_
  refine keeps_bind keeps_scalarFlags fun _ => ?_
  exact keeps_bind (keeps_modSc _) fun _ => keeps_bind (keeps_wr _ _) fun _ => keeps_pure _

theorem keeps_logQ {q pop} : Keeps State.Inv (logQ q pop) :=
  keeps_modCur _

theorem next_execQPush {q a} {s : State} (h : s.Inv) : NextInv (execQPush q a s) := by
  unfold execQPush
  refine next_finish ?_ h
  refine keeps_bind (keeps_rd _) fun _ => ?_
  refine keeps_read fun _ _ => ?_
  split
  · exact keeps_ite keeps_waitStream (keeps_bind (keeps_modCur _) fun _ => keeps_bind keeps_logQ fun _ => keeps_pure _)
  · exact keeps_ite keeps_waitStream (keeps_bind (keeps_modCur _) fun _ => keeps_bind keeps_logQ fun _ => keeps_pure _)

theorem next_execQPop {d q} {s : State} (h : s.Inv) : NextInv (execQPop d q s) := by
  unfold execQPop
  refine next_finish ?_ h
  refine keeps_bind keeps_ready fun _ => ?_
  refine keeps_read fun _ _ => ?_
  split
  · split
    · exact keeps_waitStream
    · split
      · exact keeps_raise _ _
      · refine keeps_bind (keeps_modCur _) fun _ => ?_
        exact keeps_bind keeps_logQ fun _ => keeps_bind (keeps_wr _ _) fun _ => keeps_pure _
  · split
    · exact keeps_waitStream
    · split
      · exact keeps_raise _ _
      · refine keeps_bind (keeps_modCur _) fun _ => ?_
        exact keeps_bind keeps_logQ fun _ => keeps_bind (keeps_wr _ _) fun _ => keeps_pure _

theorem next_execQCnt {d q} {s : State} (h : s.Inv) : NextInv (execQCnt d q s) := by
  unfold execQCnt
  refine next_finish ?_ h
  exact keeps_bind keeps_ready fun _ => keeps_read fun _ _ => keeps_bind (keeps_wr _ _) fun _ => keeps_pure _

theorem next_execQdeadlockDetect {uid} {s : State} (h : s.Inv) : NextInv (execQdeadlockDetect uid s) :=
  next_event (fun _ ht => inv_modStrand ht) h

end Sys2Proof.Machine
end

section
/-! Placing, saving and restoring crews: the saved words go to memory by writes of bytes. -/

namespace Sys2Proof.Machine

theorem inv_acquireFor {s : State} {q cores} (h : s.Inv) : (s.acquireFor q cores).Inv :=
  inv_modQuad h

theorem inv_clearAllot {s : State} {q base len} (h : s.Inv) : (s.clearAllot q base len).Inv := by
  obtain ⟨hm, hf⟩ := h
  exact ⟨wf_filter _ hm, hf⟩

theorem inv_addStrand {s : State} {x} (h : s.Inv) : (s.addStrand x).Inv :=
  inv_of_eq h rfl rfl

theorem inv_joinCkpts {s : State} {cid} (h : s.Inv) : (s.joinCkpts cid).Inv := by
  unfold State.joinCkpts
  split
  · exact h
  · exact inv_modQuad h

theorem inv_leaveCkpts {s : State} {q cid} (h : s.Inv) : (s.leaveCkpts q cid).Inv :=
  inv_modQuad h

theorem inv_placeNew {s : State} {l c q b} (h : s.Inv) : (s.placeNew l c q b).Inv := by
  unfold State.placeNew
  extract_lets -underBinder
  refine inv_joinCkpts ?_
  refine inv_modLaunch ?_
  refine inv_foldl (fun _ _ ht => ?_) (inv_of_eq (inv_acquireFor (inv_clearAllot h)) rfl rfl)
  exact inv_addStrand (inv_of_eq ht rfl rfl)

theorem inv_stopCrew {s : State} {c} (h : s.Inv) : (s.stopCrew c).Inv :=
  inv_modCrew (inv_mapStrands h)

theorem inv_turnForSave {s : State} {uid} (h : s.Inv) : (s.turnForSave uid).Inv := by
  unfold State.turnForSave
  split
  · exact h
  · exact inv_modStrand (inv_turnAllHome h)

theorem inv_turnCrew {s : State} {c} (h : s.Inv) : (s.turnCrew c).Inv :=
  inv_foldl (fun _ _ ht => inv_turnForSave ht) h

theorem inv_withdrawReqs {s : State} {uid} (h : s.Inv) : (s.withdrawReqs uid).Inv := by
  unfold State.withdrawReqs
  split
  · exact h
  · exact inv_modStrand (inv_withdrawJoin (inv_modQuad (inv_of_eq h rfl rfl)))

theorem inv_spillOut {s : State} {cr} (h : s.Inv) : (s.spillOut cr).Inv := by
  unfold State.spillOut
  split
  · exact h
  · exact inv_ite h (inv_foldl (fun _ _ ht => inv_memWrite ht) (inv_freeBytes (inv_of_eq h rfl rfl)))

theorem inv_spillDepot {s : State} {q} (h : s.Inv) : (s.spillDepot q).Inv :=
  inv_foldl (fun _ _ ht => inv_modCrew (inv_spillOut ht)) h

theorem inv_saveCrew {s : State} {c swap} (h : s.Inv) : (s.saveCrew c swap).Inv := by
  unfold State.saveCrew
  split
  · exact h
  · extract_lets -underBinder
    split
    · refine inv_spillOut ?_
      refine inv_leaveCkpts ?_
      refine inv_clearAllot ?_
      refine inv_dropCbs ?_
      refine inv_modCrew ?_
      exact inv_mapStrands (inv_withdrawCrew (inv_foldl (fun _ _ ht => inv_withdrawReqs (inv_turnForSave ht)) h))
    · refine inv_leaveCkpts ?_
      refine inv_clearAllot ?_
      refine inv_dropCbs ?_
      refine inv_modCrew ?_
      exact inv_mapStrands (inv_withdrawCrew (inv_foldl (fun _ _ ht => inv_withdrawReqs (inv_turnForSave ht)) h))

theorem inv_rejoin {s : State} {uid} {p : Nat → Bool} (h : s.Inv) : (s.rejoin uid p).Inv := by
  unfold State.rejoin
  split
  · exact h
  · exact inv_foldl (fun _ _ ht => inv_settleBar ht) (inv_modStrand h)

theorem inv_loseCrew {s : State} {c} (h : s.Inv) : (s.loseCrew c).Inv := by
  unfold State.loseCrew
  split
  · exact h
  · exact inv_modLaunch (inv_foldl (fun _ _ ht => inv_retireStrand ht) (inv_modCrew (inv_fqWrite (inv_modLaunch h))))

theorem inv_restoreCrew {s : State} {c q b halt} (h : s.Inv) : (s.restoreCrew c q b halt).Inv := by
  unfold State.restoreCrew
  split
  · exact h
  · split
    · exact inv_loseCrew h
    · extract_lets +onlyGivenNames -underBinder abase lo live s0 s1 s2 s3 s3' all s4
      have h1 : s1.Inv := by
        obtain ⟨hm, hf⟩ : s0.Inv := inv_acquireFor (inv_clearAllot h)
        exact ⟨wf_putCells lo _ hm, hf⟩
      have h2 : s2.Inv := inv_modCrew (inv_modQuad h1)
      have h3 : s3.Inv := inv_foldl (fun _ _ ht => inv_modStrand ht) (inv_of_eq h2 rfl rfl)
      have h3' : s3'.Inv := inv_mapStrands h3
      have h4 : s4.Inv := inv_foldl (fun _ _ ht => inv_rejoin (inv_modStrand ht)) h3'
      exact inv_foldl (fun _ _ ht => inv_rejoin ht) (inv_joinCkpts h4)

end Sys2Proof.Machine
end

section
/-! Integer arithmetic, immediates, branches, jumps and queues. -/

namespace Sys2Proof.Machine

theorem keeps_alu2 {d a b} {f : Word → Word → Word} : Keeps State.Inv (alu2 d a b f) := by
  unfold alu2
  refine keeps_bind (keeps_rd _) fun _ => ?_
  refine keeps_bind (keeps_rd _) fun _ => ?_
  exact keeps_bind keeps_ready fun _ => keeps_bind (keeps_wr _ _) fun _ => keeps_pure _

theorem keeps_alu1 {d a} {f : Word → Word} : Keeps State.Inv (alu1 d a f) := by
  unfold alu1
  refine keeps_bind (keeps_rd _) fun _ => ?_
  exact keeps_bind keeps_ready fun _ => keeps_bind (keeps_wr _ _) fun _ => keeps_pure _

theorem keeps_mIiSlt {d a i} : Keeps State.Inv (mIiSlt d a i) :=
  keeps_alu1

theorem keeps_mIiSltu {d a i} : Keeps State.Inv (mIiSltu d a i) :=
  keeps_alu1

theorem next_execIiShl {d a h} {s : State} (h1 : s.Inv) : NextInv (execIiShl d a h s) :=
  next_finish keeps_alu1 h1

theorem next_execIiShr {d a h} {s : State} (h1 : s.Inv) : NextInv (execIiShr d a h s) :=
  next_finish keeps_alu1 h1

theorem next_execIiSra {d a h} {s : State} (h1 : s.Inv) : NextInv (execIiSra d a h s) :=
  next_finish keeps_alu1 h1

theorem keeps_mLuHi {d i} : Keeps State.Inv (mLuHi d i) :=
  keeps_bind keeps_ready fun _ => keeps_bind (keeps_wr _ _) fun _ => keeps_pure _

theorem next_execLaPc {d i} {s : State} (h : s.Inv) : NextInv (execLaPc d i s) := by
  unfold execLaPc
  refine next_finish ?_ h
  exact keeps_bind keeps_sc fun _ => keeps_bind keeps_ready fun _ => keeps_bind (keeps_wr _ _) fun _ => keeps_pure _

theorem keeps_branch {a b o} {p : Word → Word → Bool} : Keeps State.Inv (branch a b o p) :=
  keeps_bind (keeps_rd _) fun _ => keeps_bind (keeps_rd _) fun _ => keeps_bind keeps_sc fun _ => keeps_pure _

theorem keeps_mBrLt {a b o} : Keeps State.Inv (mBrLt a b o) :=
  keeps_branch

theorem keeps_mBrGe {a b o} : Keeps State.Inv (mBrGe a b o) :=
  keeps_branch

theorem keeps_mBrLtu {a b o} : Keeps State.Inv (mBrLtu a b o) :=
  keeps_branch

theorem keeps_mBrGeu {a b o} : Keeps State.Inv (mBrGeu a b o) :=
  keeps_branch

theorem next_execJl {o} {s : State} (h : s.Inv) : NextInv (execJl o s) := by
  unfold execJl
  refine next_finish ?_ h
  exact keeps_bind keeps_sc fun _ => keeps_bind keeps_ready fun _ => keeps_bind (keeps_wr _ _) fun _ => keeps_pure _

theorem next_execJr {d a i} {s : State} (h : s.Inv) : NextInv (execJr d a i s) := by
  unfold execJr
  refine next_finish ?_ h
  refine keeps_bind keeps_rv fun _ => ?_
  refine keeps_bind keeps_sc fun _ => ?_
  extract_lets -underBinder
  split
  · exact keeps_raise _ _
  · refine keeps_bind keeps_sound fun _ => ?_
    exact keeps_bind keeps_ready fun _ => keeps_bind (keeps_wr _ _) fun _ => keeps_pure _

theorem keeps_loopStart {i k a l} : Keeps State.Inv (loopStart i k a l) := by
  unfold loopStart
  refine keeps_bind keeps_sc fun _ => ?_
  split
  · exact keeps_wordIllegal
  · refine keeps_bind (keeps_rd _) fun _ => ?_
    split
    · exact keeps_bind (keeps_modSc _) fun _ => keeps_pure _
    · exact keeps_bind (keeps_modSc _) fun _ => keeps_pure _

theorem next_execMdSet {i} {s : State} (h : s.Inv) : NextInv (execMdSet i s) :=
  next_finish (keeps_bind (keeps_modSc _) fun _ => keeps_pure _) h

theorem next_execMrPut {a} {s : State} (h : s.Inv) : NextInv (execMrPut a s) := by
  unfold execMrPut
  refine next_finish ?_ h
  refine keeps_bind keeps_rv fun _ => ?_
  exact keeps_ite keeps_wordIllegal (keeps_bind keeps_sound fun _ => keeps_bind (keeps_modSc _) fun _ => keeps_pure _)

theorem next_execMrGet {d} {s : State} (h : s.Inv) : NextInv (execMrGet d s) := by
  unfold execMrGet
  refine next_finish ?_ h
  exact keeps_bind keeps_sc fun _ => keeps_bind keeps_ready fun _ => keeps_bind (keeps_wr _ _) fun _ => keeps_pure _

end Sys2Proof.Machine
end

section
/-! System registers, traps, fences and waits. -/

namespace Sys2Proof.Machine

theorem keeps_checkSpec {i x w} : Keeps State.Inv (checkSpec i x w) := by
  unfold checkSpec
  refine keeps_read fun _ _ => ?_
  extract_lets -underBinder
  split
  · exact keeps_wordIllegal
  · exact keeps_ite keeps_wordPriv (keeps_ite keeps_wordIllegal (keeps_ite keeps_wordIllegal (keeps_pure _)))

theorem next_execSyRd {d x} {s : State} (h : s.Inv) : NextInv (execSyRd d x s) := by
  unfold execSyRd
  refine next_finish ?_ h
  refine keeps_bind keeps_checkSpec fun _ => ?_
  extract_lets +onlyGivenNames -underBinder rest
  have hrest : ∀ r, Keeps State.Inv (rest r) := by
    intro r
    refine keeps_read fun _ _ => ?_
    extract_lets +onlyGivenNames -underBinder rest
    have hrest : ∀ r, Keeps State.Inv (rest r) := by
      intro r
      exact keeps_bind keeps_ready fun _ => keeps_read fun _ _ => keeps_bind (keeps_wr _ _) fun _ => keeps_pure _
    exact keeps_ite (keeps_bind keeps_block fun _ => hrest ()) (hrest ())
  exact keeps_ite (keeps_bind keeps_drained fun _ => hrest ()) (hrest ())

theorem next_execSyWr {a x} {s : State} (h : s.Inv) : NextInv (execSyWr a x s) := by
  unfold execSyWr
  refine next_finish ?_ h
  refine keeps_bind keeps_checkSpec fun _ => ?_
  extract_lets +onlyGivenNames -underBinder rest
  have hrest : ∀ r, Keeps State.Inv (rest r) := by
    intro r
    refine keeps_bind keeps_rv fun _ => ?_
    refine keeps_bind keeps_sc fun _ => ?_
    split
    · exact keeps_wordIllegal
    · split
      · exact keeps_raise _ _
      · refine keeps_bind keeps_sound fun _ => ?_
        extract_lets +onlyGivenNames -underBinder rest
        have hrest : ∀ r, Keeps State.Inv (rest r) := by
          intro r
          exact keeps_pure _
        split
        · exact keeps_bind (keeps_modCur _) fun _ => hrest ()
        · split
          · exact keeps_bind keeps_drained fun _ => keeps_bind (keeps_modify (fun _ ht => inv_modPart ht)) fun _ =>
              hrest ()
          · exact keeps_bind (keeps_modSc _) fun _ => hrest ()
  exact keeps_ite (keeps_bind keeps_drained fun _ => hrest ()) (hrest ())

theorem next_execModeWrite {v} {s : State} (h : s.Inv) : NextInv (execModeWrite v s) :=
  next_event (fun _ ht => inv_modSc _ ht) h

theorem next_execStsWrite {v} {s : State} (h : s.Inv) : NextInv (execStsWrite v s) :=
  next_event (fun _ ht => inv_modSc _ ht) h

theorem next_execFlagsWrite {v} {s : State} (h : s.Inv) : NextInv (execFlagsWrite v s) :=
  next_event (fun _ ht => inv_modSc _ ht) h

theorem next_execSeedWrite {v} {s : State} (h : s.Inv) : NextInv (execSeedWrite v s) :=
  next_event (fun _ ht => inv_modSc _ ht) h

theorem next_execLendWrite {k v} {s : State} (h : s.Inv) : NextInv (execLendWrite k v s) :=
  next_event (fun _ ht => inv_modSc _ ht) h

theorem next_execEcauseWrite {v} {s : State} (h : s.Inv) : NextInv (execEcauseWrite v s) :=
  next_event (fun _ ht => inv_modSc _ ht) h

theorem next_execTshapeWrite {v} {s : State} (h : s.Inv) : NextInv (execTshapeWrite v s) :=
  next_event (fun _ ht => inv_modSc _ ht) h

theorem next_execFqtailWrite {v} {s : State} (h : s.Inv) : NextInv (execFqtailWrite v s) :=
  next_event (fun _ ht => inv_modPart ht) h

theorem next_execSyTrap {c} {s : State} (h : s.Inv) : NextInv (execSyTrap c s) :=
  next_finish (keeps_raise _ _) h

theorem next_execBrk {c} {s : State} (h : s.Inv) : NextInv (execBrk c s) :=
  next_finish (keeps_raise _ _) h

theorem next_execIllegalWord {w} {s : State} (h : s.Inv) : NextInv (execIllegalWord w s) :=
  next_finish (keeps_raise _ _) h

theorem next_execSyEret {s : State} (h : s.Inv) : NextInv (execSyEret s) := by
  unfold execSyEret
  refine next_finish ?_ h
  exact keeps_bind keeps_sc fun _ => keeps_ite keeps_wordIllegal (keeps_bind (keeps_modSc _) fun _ => keeps_pure _)

theorem keeps_noFilling : Keeps State.Inv noFilling := by
  unfold noFilling
  refine keeps_read fun _ _ => ?_
  split
  · exact keeps_ite keeps_block (keeps_pure _)
  · exact keeps_pure _

theorem keeps_awaitOlder {v : Instr → Bool} {m : Instr → Bool} {out : EffKind → Bool} :
    Keeps State.Inv (awaitOlder v m out) :=
  keeps_read fun _ _ => keeps_ite keeps_block (keeps_pure _)

theorem keeps_performed : Keeps State.Inv performed :=
  keeps_bind keeps_behindAt fun _ => keeps_bind keeps_awaitOlder fun _ => keeps_noFilling

theorem keeps_noteFence {kind} : Keeps State.Inv (noteFence kind) :=
  keeps_modCur _

theorem next_execSyFenceAll {s : State} (h : s.Inv) : NextInv (execSyFenceAll s) :=
  next_finish (keeps_bind keeps_awaitOlder fun _ => keeps_bind keeps_noFilling fun _ => keeps_pure _) h

theorem next_execSyFenceLd {s : State} (h : s.Inv) : NextInv (execSyFenceLd s) :=
  next_finish (keeps_bind keeps_noteFence fun _ => keeps_pure _) h

theorem next_execSyFenceSt {s : State} (h : s.Inv) : NextInv (execSyFenceSt s) :=
  next_finish (keeps_bind keeps_noteFence fun _ => keeps_pure _) h

theorem next_execSyFenceVec {s : State} (h : s.Inv) : NextInv (execSyFenceVec s) :=
  next_finish (keeps_bind keeps_awaitOlder fun _ => keeps_pure _) h

theorem next_execSyFenceEng {s : State} (h : s.Inv) : NextInv (execSyFenceEng s) :=
  next_finish (keeps_read fun _ _ => keeps_ite keeps_block (keeps_bind keeps_noteFence fun _ => keeps_pure _)) h

theorem next_execSyFenceMat {s : State} (h : s.Inv) : NextInv (execSyFenceMat s) :=
  next_finish (keeps_bind keeps_awaitOlder fun _ => keeps_pure _) h

theorem keeps_unfencedEngine : Keeps State.Inv unfencedEngine :=
  keeps_read fun _ _ => keeps_ite keeps_block (keeps_pure _)

theorem next_execSyTime {d} {s : State} (h : s.Inv) : NextInv (execSyTime d s) := by
  unfold execSyTime
  refine next_finish ?_ h
  exact keeps_bind keeps_ready fun _ => keeps_read fun _ _ => keeps_bind (keeps_wr _ _) fun _ => keeps_pure _

theorem next_execSyEnd {s : State} (h : s.Inv) : NextInv (execSyEnd s) := by
  unfold execSyEnd
  refine next_finish ?_ h
  refine keeps_bind keeps_drained fun _ => ?_
  refine keeps_bind keeps_noFilling fun _ => ?_
  refine keeps_read fun _ _ => ?_
  split
  · exact keeps_block
  · refine keeps_bind keeps_release fun _ => ?_
    refine keeps_read fun _ _ => ?_
    exact keeps_ite keeps_block (keeps_bind (keeps_outward (fun _ ht1 => inv_retireStrand ht1)) fun _ => keeps_pure _)

theorem next_execSyIntr {a} {s : State} (h : s.Inv) : NextInv (execSyIntr a s) := by
  unfold execSyIntr
  refine next_finish ?_ h
  refine keeps_bind (keeps_rd _) fun _ => ?_
  refine keeps_read fun _ _ => ?_
  split
  · exact keeps_raise _ _
  · refine keeps_bind keeps_drained fun _ => ?_
    refine keeps_bind keeps_performed fun _ => ?_
    exact keeps_bind keeps_release fun _ => keeps_bind (keeps_emit (fun _ ht => inv_interrupt ht)) fun _ => keeps_pure _

theorem keeps_needPriv {i} : Keeps State.Inv (needPriv i) :=
  keeps_bind keeps_sc fun _ => keeps_ite (keeps_pure _) keeps_wordPriv

theorem inv_turnCovered {s : State} {p} {cov : Nat → Bool} (h : s.Inv) : (s.turnCovered p cov).Inv := by
  unfold State.turnCovered
  refine inv_foldl (fun _ _ ht => ?_) h
  refine inv_foldl (fun _ _ ht1 => ?_) ht
  split
  · exact ht1
  · exact inv_turnAway ht1

theorem inv_dropCovered {s : State} {p all} {cov : Nat → Bool} {rs} (h : s.Inv) : (s.dropCovered p all cov rs).Inv :=
  inv_noneRecs (inv_foldl (fun _ _ ht => inv_modQuad ht) (inv_foldl (fun _ _ ht => inv_modQuad ht) h))

theorem next_execSyTlbinv {a} {s : State} (h : s.Inv) : NextInv (execSyTlbinv a s) := by
  unfold execSyTlbinv
  refine next_finish ?_ h
  refine keeps_bind keeps_needPriv fun _ => ?_
  refine keeps_bind keeps_rv fun _ => ?_
  split
  · exact keeps_raise _ _
  · refine keeps_bind keeps_sound fun _ => ?_
    refine keeps_bind keeps_drained fun _ => ?_
    refine keeps_bind keeps_noFilling fun _ => ?_
    refine keeps_bind keeps_release fun _ => ?_
    refine keeps_read fun _ hs1 => ?_
    refine keeps_bind (keeps_set (inv_turnCovered hs1)) fun _ => ?_
    refine keeps_read fun _ ht => ?_
    exact keeps_ite keeps_block (keeps_bind (keeps_set (inv_endSubs (inv_dropCovered ht))) fun _ => keeps_pure _)

theorem next_execSyPgreq {a} {s : State} (h : s.Inv) : NextInv (execSyPgreq a s) := by
  unfold execSyPgreq
  refine next_finish ?_ h
  refine keeps_bind (keeps_rd _) fun _ => ?_
  refine keeps_bind keeps_drained fun _ => ?_
  refine keeps_read fun _ hs1 => ?_
  split
  · exact keeps_pure _
  · split
    · exact keeps_pure _
    · split
      · exact keeps_ite keeps_block (keeps_bind (keeps_set (inv_fqFor hs1)) fun _ => keeps_pure _)
      · exact keeps_pure _

theorem inv_resume {s : State} {h} (h1 : s.Inv) : (s.resume h).Inv := by
  unfold State.resume
  extract_lets -underBinder
  split
  · exact h1
  · split
    · exact h1
    · exact inv_modPart h1

theorem next_execSyResume {a} {s : State} (h : s.Inv) : NextInv (execSyResume a s) := by
  unfold execSyResume
  refine next_finish ?_ h
  refine keeps_bind keeps_needPriv fun _ => ?_
  refine keeps_bind (keeps_rd _) fun _ => ?_
  refine keeps_bind keeps_drained fun _ => ?_
  refine keeps_bind keeps_performed fun _ => ?_
  exact keeps_bind keeps_release fun _ => keeps_bind (keeps_modify (fun _ ht => inv_resume ht)) fun _ => keeps_pure _

theorem keeps_swapPart {i v mask} : Keeps State.Inv (swapPart i v mask) := by
  unfold swapPart
  refine keeps_read fun _ _ => ?_
  exact keeps_ite keeps_wordPriv (keeps_ite (keeps_raise _ _) (keeps_ite (keeps_raise _ _) (keeps_pure _)))

theorem inv_haltStrands {s : State} {p} (h : s.Inv) : (s.haltStrands p).Inv :=
  inv_mapStrands h

theorem inv_runStrands {s : State} {p} (h : s.Inv) : (s.runStrands p).Inv :=
  inv_mapStrands h

theorem next_execSyHalt {a} {s : State} (h : s.Inv) : NextInv (execSyHalt a s) := by
  unfold execSyHalt
  refine next_finish ?_ h
  refine keeps_bind keeps_needPriv fun _ => ?_
  refine keeps_bind keeps_rv fun _ => ?_
  refine keeps_bind keeps_swapPart fun _ => ?_
  refine keeps_bind keeps_sound fun _ => ?_
  refine keeps_bind keeps_drained fun _ => ?_
  refine keeps_read fun _ hs1 => ?_
  split
  · split
    · exact keeps_ite (keeps_bind (keeps_set (inv_runStrands (inv_modPart hs1))) fun _ => keeps_pure _) (keeps_pure _)
    · exact keeps_pure _
  · refine keeps_bind (keeps_set (inv_haltStrands (inv_modPart hs1))) fun _ => ?_
    exact keeps_read fun _ _ => keeps_ite (keeps_pure _) keeps_block

theorem inv_ctxSave {s : State} {p} (h : s.Inv) : (s.ctxSave p).Inv := by
  unfold State.ctxSave
  extract_lets -underBinder
  refine inv_modPart ?_
  refine inv_foldl (fun _ _ ht => ?_)
    (inv_foldl (fun _ _ ht => inv_saveCrew ht) (inv_foldl (fun _ _ ht => inv_spillDepot ht) h))
  exact inv_modQuad ht

theorem next_execSyCtxsave {a} {s : State} (h : s.Inv) : NextInv (execSyCtxsave a s) := by
  unfold execSyCtxsave
  refine next_finish ?_ h
  refine keeps_bind keeps_needPriv fun _ => ?_
  refine keeps_bind keeps_rv fun _ => ?_
  refine keeps_bind keeps_swapPart fun _ => ?_
  refine keeps_bind keeps_sound fun _ => ?_
  refine keeps_bind keeps_drained fun _ => ?_
  refine keeps_read fun _ hs1 => ?_
  split
  · split
    · exact keeps_bind (keeps_set (inv_foldl (fun _ _ ht => inv_spillDepot ht) hs1)) fun _ => keeps_pure _
    · split
      · refine keeps_bind (keeps_set (inv_foldl (fun _ _ ht => inv_turnCrew ht) hs1)) fun _ => ?_
        split
        · exact keeps_bind (keeps_set (inv_ctxSave (inv_foldl (fun _ _ ht => inv_turnCrew ht) hs1))) fun _ =>
            keeps_pure _
        · exact keeps_block
      · exact keeps_raiseAt _ _ _ _
  · exact keeps_raiseAt _ _ _ _

theorem inv_leaveToScheduler {s : State} {c} (h : s.Inv) : (s.leaveToScheduler c).Inv :=
  inv_modCrew (inv_ite h (inv_spillOut h))

theorem inv_ctxRest {s : State} {p} (h : s.Inv) : (s.ctxRest p).Inv := by
  unfold State.ctxRest
  extract_lets -underBinder
  refine inv_modPart ?_
  refine inv_foldl (fun _ _ ht => ?_)
    (inv_foldl (fun _ _ ht => inv_ite (inv_leaveToScheduler ht) (inv_ite (inv_loseCrew ht) (inv_restoreCrew ht)))
    (inv_mapStrands (inv_foldl (fun _ _ ht => inv_modQuad ht) (inv_foldl (fun _ _ ht => inv_modQuad ht) h))))
  exact inv_modQuad ht

theorem next_execSyCtxrest {a} {s : State} (h : s.Inv) : NextInv (execSyCtxrest a s) := by
  unfold execSyCtxrest
  refine next_finish ?_ h
  refine keeps_bind keeps_needPriv fun _ => ?_
  refine keeps_bind keeps_rv fun _ => ?_
  refine keeps_bind keeps_swapPart fun _ => ?_
  refine keeps_bind keeps_sound fun _ => ?_
  refine keeps_bind keeps_drained fun _ => ?_
  refine keeps_read fun _ hs1 => ?_
  split
  · split
    · exact keeps_raiseAt _ _ _ _
    · exact keeps_ite (keeps_raiseAt _ _ _ _) (keeps_bind (keeps_set (inv_ctxRest hs1)) fun _ => keeps_pure _)
  · exact keeps_raiseAt _ _ _ _

end Sys2Proof.Machine
end

section
/-! Vector arithmetic, conversions, masks and permutations: element by element on the vector registers. -/

namespace Sys2Proof.Machine

theorem keeps_vGroups {i we ops} : Keeps State.Inv (vGroups i we ops) := by
  unfold vGroups
  refine keeps_read fun _ _ => ?_
  extract_lets -underBinder
  split
  · exact keeps_modeIllegal
  · split
    · exact keeps_ite keeps_wordIllegal (keeps_pure _)
    · exact keeps_pure _

theorem keeps_waitSources {ns} : Keeps State.Inv (waitSources ns) := by
  unfold waitSources
  refine keeps_read fun _ _ => ?_
  split
  · exact keeps_ite keeps_block (keeps_pure _)
  · exact keeps_pure _

theorem keeps_acquireMask {m} : Keeps State.Inv (acquireMask m) :=
  keeps_read fun _ _ => keeps_modify (fun _ ht => inv_foldl (fun _ _ ht1 => inv_dropGrain ht1) ht)

theorem keeps_readGuard : Keeps State.Inv readGuard :=
  keeps_bind keeps_sc fun _ => keeps_ite (keeps_pure _) keeps_acquireMask

theorem keeps_freeMask {i m} : Keeps State.Inv (freeMask i m) :=
  keeps_read fun _ _ => keeps_ite keeps_wordIllegal (keeps_pure _)

theorem keeps_vPoison {α : Type} {r e} : Keeps State.Inv (vPoison r e : M α) :=
  keeps_raiseAt _ _ _ _

theorem keeps_forElements {act : Strand → Nat → M Unit} {idle : Nat → M Unit} (hact : ∀ x k, Keeps State.Inv (act x k))
    (hidle : ∀ k, Keeps State.Inv (idle k)) : Keeps State.Inv (forElements act idle) := by
  unfold forElements
  refine keeps_bind keeps_readGuard fun _ => ?_
  refine keeps_read fun _ _ => ?_
  refine keeps_forM (fun _ => ?_) _
  exact keeps_ite (keeps_pure _) (keeps_ite (keeps_raiseAt _ _ _ _) (keeps_ite (hact _ _) (hidle _)))

theorem keeps_idleElt {d w e} : Keeps State.Inv (idleElt d w e) :=
  keeps_bind keeps_sc fun _ => keeps_ite (keeps_modCur _) (keeps_pure _)

theorem keeps_elementFlags {fl e} : Keeps State.Inv (elementFlags fl e) :=
  keeps_bind keeps_sc fun _ => keeps_ite (keeps_raiseAt _ _ _ _) keeps_orFlags

theorem keeps_elementwise {d w} {f : Strand → Nat → Except Nat (Nat × Flags)} :
    Keeps State.Inv (elementwise d w f) := by
  unfold elementwise
  refine keeps_forElements (fun _ _ => ?_) (fun _ => keeps_idleElt)
  split
  · exact keeps_vPoison
  · exact keeps_bind keeps_elementFlags fun _ => keeps_modCur _

theorem keeps_needB {b} : Keeps State.Inv (needB b) := by
  unfold needB
  split
  · exact keeps_pure _
  · exact keeps_bind (keeps_rd _) fun _ => keeps_pure _

theorem keeps_vaCheck {i d a b} {ok : ETy → Bool} : Keeps State.Inv (vaCheck i d a b ok) := by
  unfold vaCheck
  refine keeps_bind keeps_needETA fun _ => ?_
  extract_lets +onlyGivenNames -underBinder rest
  have hrest : ∀ r, Keeps State.Inv (rest r) := by
    intro r
    refine keeps_bind keeps_vGroups fun _ => ?_
    split
    · exact keeps_needB
    · exact keeps_pure _
  exact keeps_ite (keeps_bind keeps_needRND fun _ => hrest ()) (hrest ())

theorem keeps_vaForm {i d a b acc} {ok : ETy → Bool} {fi ff} : Keeps State.Inv (vaForm i d a b acc ok fi ff) :=
  keeps_vecInstr keeps_vaCheck (keeps_read fun _ _ => keeps_bind keeps_waitSources fun _ => keeps_elementwise)

theorem keeps_cvtCheck {d a} : Keeps State.Inv (cvtCheck d a) := by
  unfold cvtCheck
  refine keeps_bind keeps_needETA fun _ => ?_
  refine keeps_bind keeps_needETB fun _ => ?_
  exact keeps_bind keeps_sc fun _ => keeps_ite keeps_modeIllegal (keeps_bind keeps_needRND fun _ => keeps_vGroups)

theorem next_execVaCvt {d a} {s : State} (h : s.Inv) : NextInv (execVaCvt d a s) := by
  unfold execVaCvt
  refine next_finish ?_ h
  refine keeps_vecInstr keeps_cvtCheck ?_
  refine keeps_read fun _ _ => ?_
  refine keeps_bind keeps_waitSources fun _ => ?_
  exact keeps_bind keeps_elementwise fun _ => keeps_ite (keeps_modCur _) (keeps_pure _)

theorem keeps_mixCheck {i d a b} : Keeps State.Inv (mixCheck i d a b) := by
  unfold mixCheck
  refine keeps_bind keeps_needETA fun _ => ?_
  refine keeps_bind keeps_needETB fun _ => ?_
  extract_lets +onlyGivenNames -underBinder rest
  have hrest : ∀ r, Keeps State.Inv (rest r) := by
    intro r
    exact keeps_bind keeps_vGroups fun _ => keeps_needB
  exact keeps_ite (keeps_bind keeps_needRND fun _ => hrest ()) (hrest ())

theorem next_execVaMulw {d a b} {s : State} (h : s.Inv) : NextInv (execVaMulw d a b s) := by
  unfold execVaMulw
  refine next_finish ?_ h
  exact keeps_vecInstr keeps_mixCheck (keeps_read fun _ _ => keeps_bind keeps_waitSources fun _ => keeps_elementwise)

theorem next_execVaDotw {d a b} {s : State} (h : s.Inv) : NextInv (execVaDotw d a b s) := by
  unfold execVaDotw
  refine next_finish ?_ h
  refine keeps_vecInstr keeps_mixCheck ?_
  refine keeps_read fun _ _ => ?_
  refine keeps_bind keeps_waitSources fun _ => ?_
  refine keeps_bind keeps_readGuard fun _ => ?_
  refine keeps_forM (fun _ => ?_) _
  split
  · exact keeps_pure _
  · split
    · exact keeps_raiseAt _ _ _ _
    · split
      · exact keeps_vPoison
      · exact keeps_bind keeps_elementFlags fun _ => keeps_modCur _

theorem keeps_vmCompare {i d a b} {fi : Int → Int → Bool} {ff : ETy → Nat → Nat → Bool × Flags} :
    Keeps State.Inv (vmCompare i d a b fi ff) := by
  unfold vmCompare
  refine keeps_vecInstr ?_ ?_
  · refine keeps_bind keeps_needETA fun _ => ?_
    exact keeps_bind keeps_vGroups fun _ => keeps_bind keeps_freeMask fun _ => keeps_needB
  · refine keeps_read fun _ _ => ?_
    refine keeps_bind keeps_waitSources fun _ => ?_
    refine keeps_forElements (fun _ _ => ?_) (fun _ => keeps_bind keeps_sc fun _ => keeps_ite (keeps_modCur _)
      (keeps_pure _))
    dsimp only
    split
    · exact keeps_vPoison
    · exact keeps_bind keeps_elementFlags fun _ => keeps_modCur _

theorem keeps_readMask {m n} : Keeps State.Inv (readMask m n) :=
  keeps_read fun _ _ => keeps_ite (keeps_raiseAt _ _ _ _) (keeps_bind keeps_acquireMask fun _ => keeps_pure _)

theorem keeps_vmLogic {i d a b} {f : BitVec 512 → BitVec 512 → BitVec 512} : Keeps State.Inv (vmLogic i d a b f) := by
  unfold vmLogic
  refine keeps_vecInstr keeps_freeMask ?_
  refine keeps_bind keeps_acquireMask fun _ => ?_
  refine keeps_bind keeps_acquireMask fun _ => ?_
  refine keeps_read fun _ _ => ?_
  extract_lets -underBinder
  split
  · exact keeps_bind (keeps_modCur _) fun _ => keeps_raiseAt _ _ _ _
  · exact keeps_modCur _

theorem next_execVmPop {d a} {s : State} (h : s.Inv) : NextInv (execVmPop d a s) := by
  unfold execVmPop
  refine next_finish ?_ h
  exact keeps_vecInstr keeps_ready (keeps_bind keeps_sc fun _ => keeps_bind keeps_readMask fun _ => keeps_wr _ _)

theorem next_execVmFirst {d a} {s : State} (h : s.Inv) : NextInv (execVmFirst d a s) := by
  unfold execVmFirst
  refine next_finish ?_ h
  exact keeps_vecInstr keeps_ready (keeps_bind keeps_sc fun _ => keeps_bind keeps_readMask fun _ => keeps_wr _ _)

theorem next_execVmFill {d a} {s : State} (h : s.Inv) : NextInv (execVmFill d a s) := by
  unfold execVmFill
  refine next_finish ?_ h
  refine keeps_vecInstr (keeps_bind keeps_freeMask fun _ => keeps_bind (keeps_rd _) fun _ => keeps_pure _)
    (keeps_bind keeps_sc fun _ => keeps_modCur _)

theorem keeps_vpCheck {i} {ok : ETy → Bool} {d src} {more : M Unit} (hmore : Keeps State.Inv more) :
    Keeps State.Inv (vpCheck i ok d src more) :=
  keeps_bind keeps_needETA fun _ => keeps_bind keeps_vGroups fun _ => hmore

theorem keeps_vpWidth : Keeps State.Inv vpWidth :=
  keeps_bind keeps_sc fun _ => keeps_pure _

theorem next_execVpMv {d a} {s : State} (h : s.Inv) : NextInv (execVpMv d a s) := by
  unfold execVpMv
  refine next_finish ?_ h
  refine keeps_vecInstr (keeps_vpCheck (keeps_pure _))
    (keeps_bind keeps_vpWidth fun _ => keeps_bind keeps_waitSources fun _ => keeps_elementwise)

theorem keeps_fillElements {d w} {f : Nat → Nat} : Keeps State.Inv (fillElements d w f) :=
  keeps_read fun _ _ => keeps_modCur _

theorem next_execVpBcast {d b} {s : State} (h : s.Inv) : NextInv (execVpBcast d b s) := by
  unfold execVpBcast
  refine next_finish ?_ h
  refine keeps_vecInstr (keeps_vpCheck keeps_needB)
    (keeps_bind keeps_vpWidth fun _ => keeps_bind keeps_sc fun _ => keeps_fillElements)

theorem next_execVpIota {d} {s : State} (h : s.Inv) : NextInv (execVpIota d s) := by
  unfold execVpIota
  refine next_finish
    (keeps_vecInstr (keeps_vpCheck (keeps_pure _)) (keeps_bind keeps_vpWidth fun _ => keeps_fillElements)) h

theorem keeps_whole {run : M Unit} (hrun : Keeps State.Inv run) : Keeps State.Inv (whole run) :=
  keeps_bind (keeps_modCur _) fun _ => hrun

theorem keeps_wholeElements {d w} {f : Strand → Nat → Except Nat (Option Nat)} :
    Keeps State.Inv (wholeElements d w f) := by
  unfold wholeElements
  refine keeps_bind keeps_readGuard fun _ => ?_
  refine keeps_read fun _ _ => ?_
  refine keeps_bind ?_ fun _ => ?_
  · refine keeps_mapM fun _ => ?_
    split
    · exact keeps_raiseAt _ _ _ _
    · split
      · split
        · exact keeps_vPoison
        · exact keeps_pure _
      · exact keeps_pure _
  · exact keeps_modCur _

theorem next_execVpSlup {d a b} {s : State} (h : s.Inv) : NextInv (execVpSlup d a b s) := by
  unfold execVpSlup
  refine next_finish ?_ h
  refine keeps_vecInstr (keeps_vpCheck keeps_needB) ?_
  refine keeps_whole ?_
  refine keeps_bind keeps_vpWidth fun _ => ?_
  exact keeps_bind keeps_sc fun _ => keeps_bind keeps_waitSources fun _ => keeps_wholeElements

theorem next_execVpSldn {d a b} {s : State} (h : s.Inv) : NextInv (execVpSldn d a b s) := by
  unfold execVpSldn
  refine next_finish ?_ h
  refine keeps_vecInstr (keeps_vpCheck keeps_needB) ?_
  refine keeps_whole ?_
  refine keeps_bind keeps_vpWidth fun _ => ?_
  exact keeps_bind keeps_sc fun _ => keeps_bind keeps_waitSources fun _ => keeps_wholeElements

theorem next_execVpPerm {d a b} {s : State} (h : s.Inv) : NextInv (execVpPerm d a b s) := by
  unfold execVpPerm
  refine next_finish ?_ h
  refine keeps_vecInstr (keeps_vpCheck (keeps_pure _)) ?_
  refine keeps_whole ?_
  refine keeps_bind keeps_vpWidth fun _ => ?_
  exact keeps_bind keeps_sc fun _ => keeps_bind keeps_waitSources fun _ => keeps_wholeElements

theorem next_execVpCompress {d a} {s : State} (h : s.Inv) : NextInv (execVpCompress d a s) := by
  unfold execVpCompress
  refine next_finish ?_ h
  refine keeps_vecInstr (keeps_vpCheck (keeps_pure _)) ?_
  refine keeps_whole ?_
  refine keeps_bind keeps_vpWidth fun _ => ?_
  refine keeps_bind keeps_waitSources fun _ => ?_
  refine keeps_bind keeps_readGuard fun _ => ?_
  refine keeps_read fun _ _ => ?_
  extract_lets -underBinder
  split
  · exact keeps_raiseAt _ _ _ _
  · refine keeps_bind ?_ fun _ => ?_
    · refine keeps_mapM fun _ => ?_
      split
      · exact keeps_vPoison
      · exact keeps_pure _
    · exact keeps_modCur _

theorem next_execVpSel {d a b} {s : State} (h : s.Inv) : NextInv (execVpSel d a b s) := by
  unfold execVpSel
  refine next_finish ?_ h
  refine keeps_vecInstr (keeps_vpCheck keeps_needB) ?_
  refine keeps_bind keeps_vpWidth fun _ => ?_
  refine keeps_bind keeps_waitSources fun _ => ?_
  refine keeps_bind keeps_readGuard fun _ => ?_
  refine keeps_read fun _ _ => ?_
  refine keeps_forM (fun _ => ?_) _
  split
  · exact keeps_pure _
  · split
    · exact keeps_raiseAt _ _ _ _
    · split
      · exact keeps_vPoison
      · exact keeps_modCur _

theorem keeps_activeValues {a w} : Keeps State.Inv (activeValues a w) := by
  unfold activeValues
  refine keeps_bind keeps_readGuard fun _ => ?_
  refine keeps_read fun _ _ => ?_
  extract_lets -underBinder
  split
  · exact keeps_raiseAt _ _ _ _
  · refine keeps_mapM fun _ => ?_
    split
    · exact keeps_vPoison
    · exact keeps_pure _

theorem keeps_writeFirst {d w v} : Keeps State.Inv (writeFirst d w v) :=
  keeps_modCur _

theorem keeps_redCheck {i d a rnd} : Keeps State.Inv (redCheck i d a rnd) := by
  unfold redCheck
  refine keeps_vpCheck ?_
  exact keeps_bind keeps_sc fun _ => keeps_ite (keeps_bind keeps_needRND fun _ => keeps_pure _) (keeps_pure _)

theorem next_execVpRsum {d a} {s : State} (h : s.Inv) : NextInv (execVpRsum d a s) := by
  unfold execVpRsum
  refine next_finish ?_ h
  refine keeps_vecInstr ?_ ?_
  · refine keeps_bind keeps_sc fun _ => ?_
    extract_lets +onlyGivenNames -underBinder rest
    have hrest : ∀ r, Keeps State.Inv (rest r) := by
      intro r
      exact keeps_redCheck
    split
    · exact keeps_ite (keeps_bind (keeps_bind keeps_needRND fun _ => keeps_pure _) fun _ => hrest ()) (hrest ())
    · exact hrest ()
  · refine keeps_whole ?_
    refine keeps_read fun _ _ => ?_
    refine keeps_bind keeps_waitSources fun _ => ?_
    refine keeps_bind keeps_activeValues fun _ => ?_
    split
    · exact keeps_bind keeps_elementFlags fun _ => keeps_writeFirst
    · exact keeps_bind keeps_elementFlags fun _ => keeps_writeFirst

theorem keeps_reduceExt {i mx d a} : Keeps State.Inv (reduceExt i mx d a) := by
  unfold reduceExt
  refine keeps_vecInstr keeps_redCheck ?_
  refine keeps_whole ?_
  refine keeps_bind keeps_sc fun _ => ?_
  refine keeps_bind keeps_waitSources fun _ => ?_
  exact keeps_bind keeps_activeValues fun _ => keeps_bind keeps_elementFlags fun _ => keeps_writeFirst

theorem keeps_vpIndex {b} : Keeps State.Inv (vpIndex b) := by
  unfold vpIndex
  refine keeps_bind keeps_rv fun _ => ?_
  exact keeps_bind keeps_sc fun _ => keeps_ite (keeps_raise _ _) (keeps_bind keeps_sound fun _ => keeps_pure _)

theorem next_execVpExt {a b} {s : State} (h : s.Inv) : NextInv (execVpExt a b s) := by
  unfold execVpExt
  refine next_finish ?_ h
  refine keeps_vecInstr (keeps_vpCheck (keeps_bind keeps_vpIndex fun _ => keeps_pure _)) ?_
  refine keeps_bind keeps_sc fun _ => ?_
  refine keeps_bind keeps_waitSources fun _ => ?_
  refine keeps_read fun _ _ => ?_
  split
  · exact keeps_vPoison
  · exact keeps_modCur _

theorem next_execVpIns {d b} {s : State} (h : s.Inv) : NextInv (execVpIns d b s) := by
  unfold execVpIns
  refine next_finish ?_ h
  refine keeps_vecInstr (keeps_vpCheck (keeps_bind keeps_vpIndex fun _ => keeps_pure _)) ?_
  refine keeps_bind keeps_vpWidth fun _ => ?_
  refine keeps_bind keeps_sc fun _ => ?_
  refine keeps_read fun _ _ => ?_
  split
  · exact keeps_block
  · exact keeps_ite (keeps_raiseAt _ _ _ _) (keeps_modCur _)

theorem next_execVlSet {d a} {s : State} (h : s.Inv) : NextInv (execVlSet d a s) := by
  unfold execVlSet
  refine next_finish ?_ h
  refine keeps_bind (keeps_rd _) fun _ => ?_
  refine keeps_bind keeps_ready fun _ => ?_
  exact keeps_read fun _ _ => keeps_bind (keeps_modSc _) fun _ => keeps_bind (keeps_wr _ _) fun _ => keeps_pure _

theorem next_execVlGet {d} {s : State} (h : s.Inv) : NextInv (execVlGet d s) := by
  unfold execVlGet
  refine next_finish ?_ h
  exact keeps_bind keeps_ready fun _ => keeps_bind keeps_sc fun _ => keeps_bind (keeps_wr _ _) fun _ => keeps_pure _

end Sys2Proof.Machine
end

section
/-! Vector loads and stores and the strip ring. -/

namespace Sys2Proof.Machine

theorem keeps_addrSound {y a m w e} : Keeps State.Inv (addrSound y a m w e) := by
  unfold addrSound
  refine keeps_bind keeps_soundAt fun _ => ?_
  split
  · split
    · exact keeps_vPoison
    · exact keeps_pure _
  · exact keeps_pure _

theorem keeps_soundIdle {rs} : Keeps State.Inv (soundIdle rs) :=
  keeps_read fun _ _ => keeps_ite keeps_soundAt (keeps_pure _)

theorem keeps_vmemCheck {i d a m st} : Keeps State.Inv (vmemCheck i d a m st) :=
  keeps_bind keeps_needETA fun _ => keeps_bind keeps_vGroups fun _ => keeps_forM (fun _ => keeps_ready) _

theorem keeps_loadElt {addr n e probe} {chk : M Unit} (hchk : Keeps State.Inv chk) :
    Keeps State.Inv (loadElt addr n e probe chk) := by
  unfold loadElt
  refine keeps_read fun _ hs => ?_
  extract_lets -underBinder
  split
  · exact keeps_ite (keeps_bind hchk fun _ => keeps_pure _) (keeps_throw _)
  · refine keeps_bind (keeps_set (inv_segs hs)) fun _ => ?_
    refine keeps_bind keeps_turnCheck fun _ => ?_
    refine keeps_bind hchk fun _ => ?_
    refine keeps_bind keeps_sc fun _ => ?_
    refine keeps_bind ?_ fun _ => ?_
    · refine keeps_mapM fun _ => ?_
      refine keeps_read fun _ ht => ?_
      split
      next u1 e1 =>
        have hu1 := keeps_run_ok keeps_readSeg ht e1
        exact keeps_bind (keeps_set hu1) fun _ => keeps_pure _
      · exact keeps_throw _
      · exact keeps_throw _
    · exact keeps_pure _

theorem keeps_loadPassed {d w v} : Keeps State.Inv (loadPassed d w v) :=
  keeps_bind keeps_sc fun _ => keeps_bind (keeps_mapM (fun _ => keeps_readSegB)) fun _ => keeps_modCur _

theorem keeps_vldForm {i d a m probe} : Keeps State.Inv (vldForm i d a m probe) := by
  unfold vldForm
  refine keeps_vecInstr (keeps_bind keeps_vmemCheck fun _ => keeps_ite keeps_freeMask (keeps_pure _)) ?_
  refine keeps_bind keeps_vpWidth fun _ => ?_
  refine keeps_bind keeps_waitSources fun _ => ?_
  refine keeps_bind keeps_unfenced fun _ => ?_
  refine keeps_bind keeps_behindAt fun _ => ?_
  refine keeps_bind keeps_soundIdle fun _ => ?_
  refine keeps_read fun _ _ => ?_
  extract_lets -underBinder
  refine keeps_forElements (fun _ _ => ?_) (fun _ => ?_)
  · refine keeps_bind ?_ fun _ => ?_
    · split
      · exact keeps_ite (keeps_pure _) (keeps_bind keeps_loadPassed fun _ => keeps_pure _)
      · exact keeps_bind (keeps_loadElt keeps_addrSound) fun _ => keeps_pure _
    · split
      · extract_lets +onlyGivenNames -underBinder rest
        have hrest : ∀ r, Keeps State.Inv (rest r) := by
          intro r
          exact keeps_ite (keeps_modCur _) (keeps_pure _)
        split
        · exact keeps_bind (keeps_modCur _) fun _ => hrest ()
        · exact hrest ()
      · exact keeps_bind (keeps_modCur _) fun _ => keeps_modSc _
  · exact keeps_bind keeps_idleElt fun _ => keeps_bind keeps_sc fun _ => keeps_ite (keeps_modCur _) (keeps_pure _)

theorem keeps_storeElt {x d a m w e} : Keeps State.Inv (storeElt x d a m w e) := by
  unfold storeElt
  refine keeps_bind keeps_segsM fun _ => ?_
  refine keeps_bind keeps_addrSound fun _ => ?_
  split
  · exact keeps_vPoison
  · exact keeps_pure _

theorem keeps_checkElts {f : Nat → M VElem} {es acc} (hf : ∀ e, Keeps State.Inv (f e)) :
    Keeps State.Inv (checkElts f es acc) := by
  induction es generalizing acc with
  | nil => exact keeps_pure _
  | cons e es ih =>
    unfold checkElts
    refine keeps_read fun s hs => ?_
    split
    next v t r => exact keeps_bind (keeps_set (keeps_run_ok (hf e) hs r)) fun _ => ih
    next => exact keeps_pure _

theorem keeps_spillElts {f : Nat → M VElem} {es acc} (hf : ∀ e, Keeps State.Inv (f e)) :
    Keeps State.Inv (spillElts f es acc) := by
  induction es generalizing acc with
  | nil => exact keeps_pure _
  | cons e es ih =>
    unfold spillElts
    refine keeps_read fun s hs => keeps_bind (keeps_set (inv_of_eq hs rfl rfl)) fun _ => keeps_ite ?_ ih
    split
    next v t r =>
      exact keeps_bind (keeps_set (keeps_run_ok (s := { s with freeCtr := s.freeCtr + 1 }) (hf e) hs r)) fun _ => ih
    next => exact ih

theorem keeps_performElts {eo pol vs} : Keeps State.Inv (performElts eo pol vs) := by
  unfold performElts
  refine keeps_bind keeps_behindAt fun _ => ?_
  refine keeps_bind keeps_clearOfStrips fun _ => ?_
  refine keeps_bind keeps_platform fun _ => ?_
  refine keeps_bind (keeps_modify (fun _ ht => inv_foldl (fun _ _ ht1 => inv_setDirty ht1) ht)) fun _ => ?_
  extract_lets -underBinder
  split
  · exact keeps_forM (fun _ => keeps_storeSegs) _
  · refine keeps_read fun _ hs => ?_
    refine keeps_bind (keeps_set (inv_of_eq hs rfl rfl)) fun _ => ?_
    refine keeps_bind (keeps_forM (fun _ => keeps_storeSegs) _) fun _ => ?_
    refine keeps_forM (fun _ => ?_) _
    refine keeps_read fun _ ht => ?_
    exact keeps_bind (keeps_set (inv_of_eq ht rfl rfl)) fun _ => keeps_ite keeps_storeSegs (keeps_pure _)

theorem keeps_storeAll {eo pol es} {f : Nat → M VElem} (hf : ∀ k, Keeps State.Inv (f k)) :
    Keeps State.Inv (storeAll eo pol es f) := by
  unfold storeAll
  refine keeps_bind (keeps_checkElts hf) fun r => ?_
  split
  · exact keeps_performElts
  · extract_lets +onlyGivenNames -underBinder rest
    have hrest : ∀ r, Keeps State.Inv (rest r) := by
      intro r
      exact keeps_bind keeps_performElts fun _ => keeps_throw _
    exact keeps_ite (keeps_bind (keeps_pure _) fun _ => hrest _) (keeps_bind (keeps_spillElts hf) fun _ => hrest _)

theorem keeps_vstForm {i d a m eo} : Keeps State.Inv (vstForm i d a m eo) := by
  unfold vstForm
  refine keeps_vecInstr keeps_vmemCheck ?_
  refine keeps_bind keeps_vpWidth fun _ => ?_
  refine keeps_bind keeps_waitSources fun _ => ?_
  refine keeps_bind keeps_unfenced fun _ => ?_
  refine keeps_bind keeps_readGuard fun _ => ?_
  refine keeps_read fun _ _ => ?_
  extract_lets -underBinder
  split
  · exact keeps_performElts
  · exact keeps_bind keeps_soundIdle fun _ => keeps_storeAll (fun _ => keeps_ite (keeps_raiseAt _ _ _ _) keeps_storeElt)

theorem inv_precheck {s : State} (h : s.Inv) : s.precheck.Inv := by
  unfold State.precheck
  split
  · exact h
  · split
    · exact h
    · extract_lets go
      split
      · exact inv_modCur _ h
      · exact h

theorem keeps_modRing {f : Ring → Ring} : Keeps State.Inv (modRing f) :=
  keeps_modCur _

theorem next_execVbDecl {d a} {s : State} (h : s.Inv) : NextInv (execVbDecl d a s) := by
  unfold execVbDecl
  refine next_finish ?_ h
  refine keeps_read fun _ _ => ?_
  split
  · exact keeps_block
  · refine keeps_bind keeps_rv fun _ => ?_
    extract_lets -underBinder
    split
    · exact keeps_raise _ _
    · split
      · exact keeps_modeIllegal
      · exact keeps_bind keeps_sound fun _ => keeps_bind (keeps_modCur _) fun _ => keeps_pure _

theorem next_execVbLd {a b} {s : State} (h : s.Inv) : NextInv (execVbLd a b s) := by
  unfold execVbLd
  refine next_finishK ?_ h
  refine keeps_read fun _ _ => ?_
  split
  · exact keeps_wordIllegal
  · refine keeps_bind keeps_rv fun _ => ?_
    refine keeps_bind keeps_rv fun _ => ?_
    split
    · refine keeps_bind keeps_segsAll fun _ => ?_
      refine keeps_bind keeps_behindStores fun _ => ?_
      refine keeps_bind keeps_turnCheck fun _ => ?_
      exact keeps_bind keeps_sound fun _ => keeps_bind keeps_logQ fun _ => keeps_bind keeps_modRing fun _ =>
        keeps_pure _
    · exact keeps_block
    · exact keeps_waitStream

theorem keeps_stripBytes {t} : Keeps State.Inv (stripBytes t) :=
  keeps_mapM (fun _ => keeps_bind (keeps_mapM (fun _ => keeps_readSegB)) fun _ => keeps_pure _)

theorem inv_fillStrip {s : State} {t} (h : s.Inv) : (s.fillStrip t).Inv := by
  unfold State.fillStrip
  split
  next u1 e =>
    have hu1 := keeps_run_error keeps_stripBytes h e
    exact hu1
  next u1 e =>
    have hu1 := keeps_run_ok keeps_stripBytes h e
    exact inv_modCur _ hu1

theorem inv_stripHere {s : State} {buf} (h : s.Inv) : (s.stripHere buf).Inv := by
  unfold State.stripHere
  split
  · exact inv_ite h (inv_fillStrip h)
  · exact h

theorem next_execStripFilled {uid buf} {s : State} (h : s.Inv) : NextInv (execStripFilled uid buf s) :=
  next_event (fun _ ht => inv_as (fun _ ht1 => inv_stripHere ht1) ht) h

theorem next_execVbTake {d} {s : State} (h : s.Inv) : NextInv (execVbTake d s) := by
  unfold execVbTake
  refine next_finish ?_ h
  refine keeps_vecInstr ?_ ?_
  · refine keeps_read fun _ _ => ?_
    extract_lets -underBinder
    split
    · exact keeps_modeIllegal
    · split
      · exact keeps_wordIllegal
      · exact keeps_ite keeps_wordIllegal (keeps_pure _)
  · refine keeps_read fun _ _ => ?_
    split
    · exact keeps_wordIllegal
    · split
      · exact keeps_wordIllegal
      · exact keeps_bind (keeps_modCur _) fun _ => keeps_modRing
      · exact keeps_block

theorem next_execVbFree {d} {s : State} (h : s.Inv) : NextInv (execVbFree d s) := by
  unfold execVbFree
  refine next_finish ?_ h
  refine keeps_vecInstr (keeps_read fun _ _ => keeps_ite keeps_modeIllegal (keeps_pure _)) ?_
  refine keeps_read fun _ _ => ?_
  split
  · exact keeps_wordIllegal
  · split
    · exact keeps_wordIllegal
    · exact keeps_ite keeps_modRing keeps_wordIllegal

end Sys2Proof.Machine
end

section
/-! Fetch, and vector blocks: a block is a list of instructions each of which keeps the canonical form. -/

namespace Sys2Proof.Machine

theorem keeps_fetchWord {va} : Keeps State.Inv (fetchWord va) :=
  keeps_bind keeps_segsM fun _ => keeps_bind (keeps_mapM (fun _ => keeps_readSeg)) fun _ => keeps_pure _

theorem keeps_blockM {i} : Keeps State.Inv (blockM i) := by
  unfold blockM
  split
  iterate 23 · exact keeps_alu2
  iterate 9 · exact keeps_alu1
  · exact keeps_mIiSlt
  · exact keeps_mIiSltu
  · exact keeps_alu1
  · exact keeps_alu1
  · exact keeps_alu1
  · exact keeps_mLuHi
  · exact keeps_branch
  · exact keeps_branch
  · exact keeps_mBrLt
  · exact keeps_mBrGe
  · exact keeps_mBrLtu
  · exact keeps_mBrGeu
  iterate 4 · exact keeps_fsTwo
  · exact keeps_mFsSqrt
  · exact keeps_mFsFma
  · exact keeps_mFsMin
  · exact keeps_mFsMax
  · exact keeps_fsCmp
  · exact keeps_fsCmp
  · exact keeps_fsCmp
  · exact keeps_mFsCvti
  · exact keeps_mFsCvtf
  · exact keeps_mFsCls
  · exact keeps_mFsCvt
  iterate 7 · exact keeps_loadOp
  iterate 4 · exact keeps_storeOp
  · exact keeps_wordIllegal

theorem keeps_scanBlock {va fuel acc} : Keeps State.Inv (scanBlock va fuel acc) := by
  induction fuel generalizing va acc with
  | zero => exact keeps_raise _ _
  | succ fuel ih =>
    unfold scanBlock
    refine keeps_bind keeps_fetchWord fun _ => ?_
    split
    · split
      · exact keeps_pure _
      · exact ih
      · exact keeps_raise _ _
    · exact keeps_raise _ _

theorem inv_pauseStream {s : State} (h : s.Inv) : s.pauseStream.Inv := by
  unfold State.pauseStream
  split
  · exact inv_modCur _ h
  · exact h

theorem keeps_runWord {r} : Keeps State.Inv (runWord r) := by
  unfold runWord
  refine keeps_read fun s hs => ?_
  dsimp only
  split
  · exact keeps_raiseAt _ _ _ _
  · split
    · exact keeps_throw _
    next st t _ e =>
      have ht := keeps_run_error keeps_blockM (inv_modCur _ hs) e
      exact keeps_bind (keeps_set (inv_modCur _ (inv_modCur _ ht))) fun _ => keeps_throw _
    next dn t e =>
      have ht := keeps_run_ok keeps_blockM (inv_modCur _ hs) e
      refine keeps_ite (keeps_bind (keeps_set (inv_modCur _ (inv_modCur _ ht))) fun _ => keeps_raiseAt _ _ _ _)
        (keeps_set (inv_modCur _ ?_))
      split
      · exact inv_ite (inv_modCur _ ht) (inv_modCur _ (inv_modCur _ ht))
      · exact inv_modCur _ ht

theorem keeps_nextElement {base ws g start} : Keeps State.Inv (nextElement base ws g start) := by
  unfold nextElement
  refine keeps_read fun _ _ => ?_
  extract_lets -underBinder
  split
  · refine keeps_bind (keeps_modCur _) fun _ => ?_
    exact keeps_bind (keeps_modify (fun _ ht => inv_pauseStream ht)) fun _ => keeps_pure _
  · exact keeps_bind (keeps_modCur _) fun _ => keeps_streamDone
  · split
    · split
      · refine keeps_bind (keeps_modCur _) fun _ => ?_
        exact keeps_bind (keeps_modify (fun _ ht => inv_pauseStream ht)) fun _ => keeps_pure _
      · exact keeps_bind (keeps_modCur _) fun _ => keeps_raiseAt _ _ _ _
    · exact keeps_bind (keeps_modCur _) fun _ => keeps_raiseAt _ _ _ _

theorem keeps_stepBlock {base ws} : Keeps State.Inv (stepBlock base ws) := by
  unfold stepBlock
  refine keeps_read fun _ _ => ?_
  split
  · refine keeps_bind keeps_waitSources fun _ => ?_
    exact keeps_bind keeps_readGuard fun _ => keeps_read fun _ _ => keeps_nextElement
  · split
    · exact keeps_nextElement
    · refine keeps_bind keeps_runWord fun _ => ?_
      exact keeps_bind (keeps_modify (fun _ ht => inv_pauseStream ht)) fun _ => keeps_pure _

theorem keeps_vfCheck {i base} : Keeps State.Inv (vfCheck i base) := by
  unfold vfCheck
  refine keeps_bind keeps_scanBlock fun _ => ?_
  extract_lets -underBinder
  split
  · exact keeps_raise _ _
  · extract_lets +onlyGivenNames -underBinder rest
    have hrest : ∀ r, Keeps State.Inv (rest r) := by
      intro r
      refine keeps_read fun _ _ => ?_
      split
      · exact keeps_ite keeps_wordIllegal (keeps_pure _)
      · exact keeps_pure _
    split
    · refine keeps_bind keeps_needETA fun _ => ?_
      exact keeps_bind keeps_sc fun _ => keeps_ite (keeps_bind keeps_modeIllegal fun _ => hrest ()) (hrest ())
    · exact hrest ()

theorem next_execVfGo {o} {s : State} (h : s.Inv) : NextInv (execVfGo o s) := by
  unfold execVfGo
  refine next_finish ?_ h
  refine keeps_read fun _ _ => ?_
  extract_lets -underBinder
  split
  · split
    · exact keeps_stepBlock
    · exact keeps_pure _
  · exact keeps_bind keeps_vfCheck fun _ => keeps_bind (keeps_modify (fun _ ht => inv_enqueue ht)) fun _ => keeps_pure _

theorem next_execVfEnd {s : State} (h : s.Inv) : NextInv (execVfEnd s) :=
  next_finish keeps_wordIllegal h

end Sys2Proof.Machine
end

section
/-! Matrix tiles: shapes, products, moves, loads and stores. -/

namespace Sys2Proof.Machine

theorem keeps_needTile {i k} : Keeps State.Inv (needTile i k) :=
  keeps_read fun _ _ => keeps_ite keeps_wordIllegal (keeps_pure _)

theorem keeps_checkBusy {k} : Keeps State.Inv (checkBusy k) :=
  keeps_bind keeps_sc fun _ => keeps_ite (keeps_raiseAt _ _ _ _) (keeps_pure _)

theorem keeps_tileClean {k} {hit : Nat → Nat → Bool} : Keeps State.Inv (tileClean k hit) := by
  unfold tileClean
  refine keeps_read fun _ _ => ?_
  split
  · exact keeps_raiseAt _ _ _ _
  · exact keeps_pure _

theorem keeps_writeRect {k rs} : Keeps State.Inv (writeRect k rs) :=
  keeps_bind keeps_sc fun _ => keeps_ite (keeps_raise _ _) (keeps_bind keeps_orFlags fun _ => keeps_modCur _)

theorem next_execMxShape {a} {s : State} (h : s.Inv) : NextInv (execMxShape a s) := by
  unfold execMxShape
  refine next_finish ?_ h
  refine keeps_bind keeps_rv fun _ => ?_
  refine keeps_bind keeps_sc fun _ => ?_
  exact keeps_ite (keeps_bind keeps_sound fun _ => keeps_bind (keeps_modSc _) fun _ => keeps_pure _) (keeps_raise _ _)

theorem next_execMxZero {d} {s : State} (h : s.Inv) : NextInv (execMxZero d s) :=
  next_finish (keeps_matInstr keeps_needTile (keeps_modCur _)) h

theorem next_execMxWait {d} {s : State} (h : s.Inv) : NextInv (execMxWait d s) :=
  next_finish (keeps_matInstr keeps_needTile (keeps_pure _)) h

theorem keeps_padOf {n} : Keeps State.Inv (padOf n) :=
  keeps_bind keeps_sc fun _ => keeps_ite (keeps_raise _ _) (keeps_ite (keeps_raise _ _) (keeps_pure _))

theorem keeps_checkRows {rows} : Keeps State.Inv (checkRows rows) := by
  unfold checkRows
  refine keeps_read fun _ _ => ?_
  split
  · exact keeps_raise _ _
  · split
    · exact keeps_raise _ _
    · exact keeps_pure _

theorem keeps_rowSegs {x kk scale rows} : Keeps State.Inv (rowSegs x kk scale rows) :=
  keeps_mapM (fun _ => keeps_ite keeps_segsM (keeps_pure _))

theorem keeps_readRows {gs} : Keeps State.Inv (readRows gs) := by
  unfold readRows
  refine keeps_mapM fun _ => ?_
  refine keeps_bind (keeps_mapM (fun _ => keeps_readSegB)) fun _ => ?_
  extract_lets -underBinder
  split
  · exact keeps_raiseAt _ _ _ _
  · exact keeps_pure _

theorem keeps_opaRows {a b sa sb} : Keeps State.Inv (opaRows a b sa sb) := by
  unfold opaRows
  refine keeps_bind keeps_sc fun _ => ?_
  refine keeps_bind (keeps_ite (keeps_bind keeps_padOf fun _ => keeps_pure _) (keeps_pure _)) fun _ => ?_
  refine keeps_bind (keeps_ite (keeps_bind keeps_padOf fun _ => keeps_pure _) (keeps_pure _)) fun _ => ?_
  exact keeps_bind keeps_checkRows fun _ => keeps_pure _

theorem keeps_opaCheck {i d a b sa sb} : Keeps State.Inv (opaCheck i d a b sa sb) := by
  unfold opaCheck
  refine keeps_bind keeps_needTile fun _ => ?_
  refine keeps_bind keeps_needETA fun _ => ?_
  refine keeps_bind keeps_needETB fun _ => ?_
  refine keeps_bind keeps_sc fun _ => ?_
  split
  · exact keeps_modeIllegal
  · refine keeps_bind keeps_needRND fun _ => ?_
    refine keeps_bind keeps_vGroups fun _ => ?_
    refine keeps_bind (keeps_ite (keeps_bind keeps_ready fun _ => keeps_ready) (keeps_pure _)) fun _ => ?_
    refine keeps_bind (keeps_ite (keeps_bind keeps_ready fun _ => keeps_ready) (keeps_pure _)) fun _ => ?_
    exact keeps_bind keeps_opaRows fun _ => keeps_pure _

theorem keeps_opaGuard {n} : Keeps State.Inv (opaGuard n) :=
  keeps_read fun _ _ => keeps_ite (keeps_raiseAt _ _ _ _) keeps_readGuard

theorem keeps_opaRun {d a b sa sb} : Keeps State.Inv (opaRun d a b sa sb) := by
  unfold opaRun
  refine keeps_read fun _ _ => ?_
  refine keeps_bind keeps_waitSources fun _ => ?_
  refine keeps_bind keeps_opaRows fun _ => ?_
  refine keeps_bind keeps_rowSegs fun _ => ?_
  refine keeps_bind keeps_rowSegs fun _ => ?_
  refine keeps_bind ?_ fun _ => ?_
  · split
    · exact keeps_pure _
    · exact keeps_bind keeps_unfenced fun _ => keeps_bind keeps_behindStores fun _ => keeps_turnCheck
  · refine keeps_bind keeps_soundAt fun _ => ?_
    refine keeps_bind keeps_opaGuard fun _ => ?_
    refine keeps_bind keeps_readRows fun _ => ?_
    refine keeps_bind keeps_readRows fun _ => ?_
    refine keeps_bind (keeps_read fun _ _ => keeps_pure _) fun _ => ?_
    split
    · exact keeps_raiseAt _ _ _ _
    · exact keeps_raiseAt _ _ _ _
    · exact keeps_bind keeps_tileClean fun _ => keeps_writeRect

theorem keeps_opaForm {i d a b sa sb} : Keeps State.Inv (opaForm i d a b sa sb) :=
  keeps_matInstr keeps_opaCheck keeps_opaRun

theorem keeps_tileRow {b} : Keeps State.Inv (tileRow b) :=
  keeps_bind keeps_sc fun _ => keeps_ite (keeps_raise _ _) (keeps_pure _)

theorem keeps_mxRdCheck {d a b} : Keeps State.Inv (mxRdCheck d a b) := by
  unfold mxRdCheck
  refine keeps_bind keeps_needTile fun _ => ?_
  refine keeps_bind keeps_needETA fun _ => ?_
  refine keeps_bind keeps_ready fun _ => ?_
  refine keeps_read fun _ _ => ?_
  extract_lets +onlyGivenNames -underBinder rest
  have hrest : ∀ r, Keeps State.Inv (rest r) := by
    intro r
    exact keeps_bind keeps_tileRow fun _ => keeps_bind keeps_checkBusy fun _ => keeps_sound
  split
  · exact keeps_ite (keeps_bind keeps_wordIllegal fun _ => hrest ()) (hrest ())
  · exact hrest ()

theorem next_execMxRd {d a b} {s : State} (h : s.Inv) : NextInv (execMxRd d a b s) := by
  unfold execMxRd
  refine next_finish ?_ h
  refine keeps_vecInstr keeps_mxRdCheck ?_
  refine keeps_bind keeps_tileRow fun _ => ?_
  refine keeps_read fun _ _ => ?_
  exact keeps_forM (fun _ => keeps_ite (keeps_pure _) (keeps_ite (keeps_raiseAt _ _ _ _) (keeps_modCur _))) _

theorem next_execMxWr {d a b} {s : State} (h : s.Inv) : NextInv (execMxWr d a b s) := by
  unfold execMxWr
  refine next_finish ?_ h
  refine keeps_matInstr ?_ ?_
  · refine keeps_bind keeps_needTile fun _ => ?_
    refine keeps_bind keeps_needETA fun _ => ?_
    exact keeps_bind keeps_ready fun _ => keeps_bind keeps_tileRow fun _ => keeps_sound
  · refine keeps_bind keeps_tileRow fun _ => ?_
    refine keeps_read fun _ _ => ?_
    refine keeps_bind keeps_waitSources fun _ => ?_
    extract_lets -underBinder
    split
    · exact keeps_raiseAt _ _ _ _
    · exact keeps_modCur _

theorem keeps_alignedSegs {bad eval ps a rst} : Keeps State.Inv (alignedSegs bad eval ps a rst) := by
  unfold alignedSegs
  refine keeps_read fun _ hs => ?_
  extract_lets -underBinder
  split
  · exact keeps_ite (keeps_raiseAt _ _ _ _) (keeps_throw _)
  · exact keeps_ite (keeps_raiseAt _ _ _ _) (keeps_bind (keeps_set (inv_segsGo hs)) fun _ => keeps_pure _)

theorem keeps_loadAcc {pol va} : Keeps State.Inv (loadAcc pol va) :=
  keeps_bind keeps_segsM fun _ => keeps_bind (keeps_mapM (fun _ => keeps_readSegB)) fun _ => keeps_pure _

theorem next_execMxLd {d a b} {s : State} (h : s.Inv) : NextInv (execMxLd d a b s) := by
  unfold execMxLd
  refine next_finishK ?_ h
  refine keeps_matInstr (keeps_bind keeps_needTile fun _ => keeps_bind keeps_ready fun _ => keeps_ready) ?_
  refine keeps_bind keeps_sc fun _ => ?_
  refine keeps_bind keeps_alignedSegs fun _ => ?_
  refine keeps_bind keeps_unfenced fun _ => ?_
  refine keeps_bind keeps_behindStores fun _ => ?_
  refine keeps_bind keeps_turnCheck fun _ => ?_
  refine keeps_bind keeps_soundAt fun _ => ?_
  refine keeps_bind (keeps_mapM (fun _ => keeps_mapM (fun _ => keeps_loadAcc))) fun _ => ?_
  exact keeps_bind (keeps_modCur _) fun _ => keeps_modCur _

theorem next_execMxSt {d a b} {s : State} (h : s.Inv) : NextInv (execMxSt d a b s) := by
  unfold execMxSt
  refine next_finishK ?_ h
  refine keeps_vecInstr ?_ ?_
  · refine keeps_bind keeps_needTile fun _ => ?_
    exact keeps_bind keeps_ready fun _ => keeps_bind keeps_ready fun _ => keeps_checkBusy
  · refine keeps_bind keeps_unfenced fun _ => ?_
    refine keeps_read fun _ _ => ?_
    extract_lets -underBinder
    refine keeps_storeAll (fun _ => ?_)
    refine keeps_bind keeps_alignedSegs fun _ => ?_
    exact keeps_bind keeps_soundAt fun _ => keeps_ite (keeps_raiseAt _ _ _ _) (keeps_pure _)

theorem next_execMxCvt {d} {s : State} (h : s.Inv) : NextInv (execMxCvt d s) := by
  unfold execMxCvt
  refine next_finish ?_ h
  refine keeps_matInstr (keeps_bind keeps_needTile fun _ => keeps_bind keeps_needRND fun _ => keeps_pure _)
    (keeps_read fun _ _ => keeps_bind keeps_tileClean fun _ => keeps_writeRect)

end Sys2Proof.Machine
end

section
/-! Tensor descriptors, loads, stores, packing and unpacking. -/

namespace Sys2Proof.Machine

theorem keeps_tensor {id} : Keeps State.Inv (tensor id) := by
  unfold tensor
  refine keeps_read fun _ _ => ?_
  split
  · exact keeps_pure _
  · exact keeps_raise _ _

theorem keeps_tensorId {a} : Keeps State.Inv (tensorId a) :=
  keeps_bind keeps_rv fun _ => keeps_pure _

theorem keeps_readStruct {bad va n a ops} : Keeps State.Inv (readStruct bad va n a ops) := by
  unfold readStruct
  refine keeps_bind keeps_alignedSegs fun _ => ?_
  refine keeps_bind keeps_turnCheck fun _ => ?_
  exact keeps_bind keeps_sound fun _ => keeps_bind (keeps_mapM (fun _ => keeps_readSeg)) fun _ => keeps_pure _

theorem next_execTnDef {a b} {s : State} (h : s.Inv) : NextInv (execTnDef a b s) := by
  unfold execTnDef
  refine next_finishK ?_ h
  refine keeps_bind keeps_tensorId fun _ => ?_
  refine keeps_bind keeps_rv fun _ => ?_
  refine keeps_read fun _ _ => ?_
  split
  · exact keeps_block
  · refine keeps_bind keeps_readStruct fun _ => ?_
    split
    · exact keeps_raiseAt _ _ _ _
    · exact keeps_bind (keeps_modCur _) fun _ => keeps_pure _

theorem next_execTnInv {a} {s : State} (h : s.Inv) : NextInv (execTnInv a s) := by
  unfold execTnInv
  refine next_finish ?_ h
  refine keeps_bind keeps_tensorId fun _ => ?_
  refine keeps_bind keeps_tensor fun _ => ?_
  exact keeps_bind keeps_sound fun _ => keeps_bind (keeps_modCur _) fun _ => keeps_pure _

theorem next_execTnRd {d a b} {s : State} (h : s.Inv) : NextInv (execTnRd d a b s) := by
  unfold execTnRd
  refine next_finish ?_ h
  refine keeps_bind keeps_ready fun _ => ?_
  refine keeps_bind keeps_tensorId fun _ => ?_
  refine keeps_bind keeps_rv fun _ => ?_
  refine keeps_bind keeps_tensor fun _ => ?_
  exact keeps_ite (keeps_raise _ _) (keeps_bind keeps_sound fun _ => keeps_bind (keeps_wr _ _) fun _ => keeps_pure _)

theorem keeps_tnReady : Keeps State.Inv tnReady := by
  unfold tnReady
  refine keeps_bind keeps_drained fun _ => ?_
  exact keeps_bind keeps_unfencedEngine fun _ => keeps_read fun _ _ => keeps_ite keeps_block (keeps_pure _)

theorem keeps_windowFor {d a b} : Keeps State.Inv (windowFor d a b) := by
  unfold windowFor
  refine keeps_bind keeps_tnReady fun _ => ?_
  refine keeps_bind keeps_tensorId fun _ => ?_
  refine keeps_bind keeps_rv fun _ => ?_
  refine keeps_bind keeps_rv fun _ => ?_
  refine keeps_bind keeps_tensor fun _ => ?_
  extract_lets -underBinder
  split
  · exact keeps_raise _ _
  · split
    · exact keeps_raise _ _
    · split
      · exact keeps_raise _ _
      · refine keeps_bind keeps_readStruct fun _ => ?_
        split
        · exact keeps_raiseAt _ _ _ _
        · exact keeps_read fun _ _ => keeps_ite (keeps_raise _ _) (keeps_pure _)

theorem inv_segsMixed {ps} {s : State} {f acc} (h : s.Inv) : (State.segsMixed ps s f acc).2.Inv := by
  induction ps generalizing s f acc with
  | nil => cases f <;> exact h
  | cons p ps ih =>
    unfold State.segsMixed
    split
    next e => exact ih (inv_snd (inv_segOf h) e)
    next e => exact ih (inv_snd (inv_segOf h) e)

theorem keeps_checkPieces {rs ws} : Keeps State.Inv (checkPieces rs ws) := by
  unfold checkPieces
  refine keeps_read fun _ hs => ?_
  extract_lets -underBinder
  split
  · exact keeps_throw _
  · exact keeps_bind (keeps_set (inv_segsMixed hs)) fun _ => keeps_pure _

theorem inv_fillGrain {s : State} {gs grain pol} (h : s.Inv) : (s.fillGrain gs grain pol).Inv := by
  unfold State.fillGrain
  refine inv_foldl (fun _ _ ht => ?_) h
  split
  · exact ht
  · exact inv_ite ht (inv_foldl (fun _ _ ht1 => inv_readGrain ht1) ht)

theorem keeps_readTensor {t va n} : Keeps State.Inv (readTensor t va n) := by
  unfold readTensor
  refine keeps_bind keeps_segsM fun _ => ?_
  refine keeps_bind (keeps_modify (fun _ ht1 => inv_fillGrain ht1)) fun _ => ?_
  exact keeps_bind (keeps_mapM (fun _ => keeps_readSegB)) fun _ => keeps_pure _

theorem keeps_emitMirrors {gs bs} : Keeps State.Inv (emitMirrors gs bs) := by
  unfold emitMirrors
  refine keeps_forM (fun _ => ?_) _
  exact keeps_read fun _ _ => keeps_ite (keeps_emitGo (fun _ ht => inv_deliverMirror ht)) (keeps_pure _)

theorem keeps_writeCount {va n} : Keeps State.Inv (writeCount va n) :=
  keeps_storeBytes

theorem keeps_run {x : TnEnd} : Keeps State.Inv x.run := by
  unfold TnEnd.run
  split
  · exact keeps_raiseAt _ _ _ _
  · extract_lets +onlyGivenNames -underBinder rest
    have hrest : ∀ r, Keeps State.Inv (rest r) := by
      intro r
      exact keeps_bind keeps_orFlags fun _ => keeps_bind (keeps_modCur _) fun _ => keeps_pure _
    split
    · exact keeps_bind keeps_writeCount fun _ => hrest ()
    · exact hrest ()

theorem keeps_deliver {hs x} : Keeps State.Inv (deliver hs x) := by
  unfold deliver
  refine keeps_read fun _ hs1 => ?_
  refine keeps_bind (keeps_set (inv_putBytes hs1)) fun _ => ?_
  refine keeps_bind (keeps_modCur _) fun _ => ?_
  split
  · exact keeps_run
  · exact keeps_bind (keeps_outwardGo (fun _ ht => inv_landTurn (inv_of_eq ht rfl rfl))) fun _ => keeps_run

theorem keeps_tnStore {m : M Done} (hm : Keeps State.Inv m) : Keeps State.Inv (tnStore m) := by
  unfold tnStore
  refine keeps_read fun _ _ => ?_
  split
  · exact keeps_ite (keeps_bind (keeps_outwardGo (fun _ ht => ht)) fun _ => keeps_run) keeps_run
  · exact hm

theorem inv_poisonBytes {s : State} {k ps} (h : s.Inv) : (s.poisonBytes k ps).Inv :=
  inv_spoilWords h

theorem keeps_loadRow {w r} : Keeps State.Inv (loadRow w r) := by
  unfold loadRow
  refine keeps_read fun _ _ => ?_
  extract_lets -underBinder
  split
  · exact keeps_modify (fun _ ht => inv_memWrite ht)
  · exact keeps_bind keeps_readTensor fun _ => keeps_modify (fun _ ht => inv_poisonBytes (inv_memWrite ht))

theorem next_execTnTld {d a b} {s : State} (h : s.Inv) : NextInv (execTnTld d a b s) := by
  unfold execTnTld
  refine next_finishK ?_ h
  refine keeps_bind keeps_windowFor fun _ => ?_
  refine keeps_bind keeps_checkPieces fun _ => ?_
  refine keeps_bind keeps_turnCheck fun _ => ?_
  refine keeps_bind (keeps_mapM (fun _ => keeps_segsM)) fun _ => ?_
  refine keeps_bind keeps_clearOfStrips fun _ => ?_
  exact keeps_bind (keeps_forM (fun _ => keeps_loadRow) _) fun _ => keeps_bind keeps_writeCount fun _ => keeps_pure _

theorem keeps_storeRow {w p} : Keeps State.Inv (storeRow w p) :=
  keeps_bind keeps_segsM fun _ => keeps_bind (keeps_mapM (fun _ => keeps_readSegB)) fun _ => keeps_pure _

theorem next_execTnTst {d a b} {s : State} (h : s.Inv) : NextInv (execTnTst d a b s) := by
  unfold execTnTst
  refine next_finishK ?_ h
  refine keeps_tnStore ?_
  refine keeps_bind keeps_windowFor fun _ => ?_
  refine keeps_bind keeps_checkPieces fun _ => ?_
  refine keeps_bind (keeps_mapM (fun _ => keeps_segsM)) fun _ => ?_
  refine keeps_bind keeps_turnCheck fun _ => ?_
  refine keeps_bind (keeps_mapM (fun _ => keeps_storeRow)) fun _ => ?_
  refine keeps_bind keeps_platform fun _ => ?_
  refine keeps_bind ?_ fun _ => ?_
  · refine keeps_mapM fun _ => ?_
    refine keeps_bind keeps_segsM fun _ => ?_
    refine keeps_bind (keeps_modify (fun _ ht => inv_setDirty ht)) fun _ => ?_
    refine keeps_bind keeps_clearOfStrips fun _ => ?_
    exact keeps_read fun _ _ => keeps_ite (keeps_bind keeps_emitMirrors fun _ => keeps_pure _) (keeps_pure _)
  · exact keeps_deliver

theorem keeps_readWhole {t va n} : Keeps State.Inv (readWhole t va n) := by
  unfold readWhole
  refine keeps_bind keeps_readTensor fun _ => ?_
  split
  · exact keeps_pure _
  · exact keeps_pure _

theorem keeps_runBlocks {f : Blk → M (Except Word BlkOut)} {ks acc} (hf : ∀ k, Keeps State.Inv (f k)) :
    Keeps State.Inv (runBlocks f ks acc) := by
  induction ks generalizing acc with
  | nil => exact keeps_pure _
  | cons k ks ih =>
    unfold runBlocks
    refine keeps_bind (hf k) fun _ => ?_
    split
    · exact ih
    · exact keeps_pure _

theorem keeps_finishBlocks {t r} : Keeps State.Inv (finishBlocks t r) := by
  unfold finishBlocks
  refine keeps_bind keeps_platform fun _ => ?_
  refine keeps_bind ?_ fun _ => ?_
  · refine keeps_mapM fun _ => ?_
    refine keeps_bind keeps_segsM fun _ => ?_
    refine keeps_bind (keeps_modify (fun _ ht1 => inv_setDirty ht1)) fun _ => ?_
    refine keeps_bind keeps_clearOfStrips fun _ => ?_
    exact keeps_bind keeps_emitMirrors fun _ => keeps_read fun _ _ => keeps_pure _
  · exact keeps_deliver

theorem keeps_packPair {a b} {okX : ETy → Bool} {okY : ETy → Bool} : Keeps State.Inv (packPair a b okX okY) := by
  unfold packPair
  refine keeps_bind keeps_tnReady fun _ => ?_
  refine keeps_bind keeps_tensorId fun _ => ?_
  refine keeps_bind keeps_tensorId fun _ => ?_
  exact keeps_bind keeps_tensor fun _ => keeps_bind keeps_tensor fun _ => keeps_ite (keeps_pure _) (keeps_raise _ _)

theorem keeps_packChecks {a b rs ws} : Keeps State.Inv (packChecks a b rs ws) :=
  keeps_bind keeps_checkPieces fun _ => keeps_bind keeps_turnCheck fun _ => keeps_sound

theorem next_execTnPack {a b} {s : State} (h : s.Inv) : NextInv (execTnPack a b s) := by
  unfold execTnPack
  refine next_finishK ?_ h
  refine keeps_tnStore ?_
  refine keeps_bind keeps_packPair fun _ => ?_
  refine keeps_bind keeps_packChecks fun _ => ?_
  refine keeps_bind ?_ fun _ => ?_
  · refine keeps_runBlocks (fun _ => ?_)
    refine keeps_bind keeps_readWhole fun _ => ?_
    split
    · exact keeps_pure _
    · exact keeps_pure _
  · exact keeps_finishBlocks

theorem next_execTnUnpack {a b} {s : State} (h : s.Inv) : NextInv (execTnUnpack a b s) := by
  unfold execTnUnpack
  refine next_finishK ?_ h
  refine keeps_tnStore ?_
  refine keeps_bind keeps_packPair fun _ => ?_
  refine keeps_bind keeps_packChecks fun _ => ?_
  refine keeps_bind ?_ fun _ => ?_
  · refine keeps_runBlocks (fun _ => ?_)
    refine keeps_bind keeps_readWhole fun _ => ?_
    refine keeps_bind keeps_readWhole fun _ => ?_
    split
    · exact keeps_pure _
    · exact keeps_pure _
    · exact keeps_pure _
  · exact keeps_finishBlocks

end Sys2Proof.Machine
end

section
/-! Turns, invalidations, tokens, acquire and release, locks. -/

namespace Sys2Proof.Machine

theorem keeps_rangeOf {a n} : Keeps State.Inv (rangeOf a n) :=
  keeps_ite (keeps_raise _ _) (keeps_ite (keeps_pure _) (keeps_ite (keeps_raise _ _) (keeps_pure _)))

theorem keeps_regionOf {a n} : Keeps State.Inv (regionOf a n) :=
  keeps_bind keeps_rangeOf fun _ => keeps_read fun _ _ => keeps_pure _

theorem keeps_turnOne {lo level cach g} : Keeps State.Inv (turnOne lo level cach g) := by
  unfold turnOne
  refine keeps_read fun _ hs => ?_
  extract_lets -underBinder
  split
  next t1 e =>
    have ht1 := keeps_run_ok keeps_turnGrain (inv_modSc _ hs) e
    exact keeps_set ht1
  next t1 e =>
    have ht1 := keeps_run_error keeps_turnGrain (inv_modSc _ hs) e
    exact keeps_bind (keeps_set (inv_modSc _ ht1)) fun _ => keeps_throw _
  next t1 e =>
    have ht1 := keeps_run_error keeps_turnGrain (inv_modSc _ hs) e
    exact keeps_bind (keeps_set ht1) fun _ => keeps_throw _

theorem keeps_turnRest {level a} : Keeps State.Inv (turnRest level a) :=
  keeps_read fun _ _ => keeps_ite (keeps_bind keeps_carryHome fun _ => keeps_pure _) (keeps_pure _)

theorem keeps_awaitLanding {level a} : Keeps State.Inv (awaitLanding level a) :=
  keeps_read fun _ _ => keeps_ite keeps_block (keeps_pure _)

theorem keeps_turnRegion {lo hi level} : Keeps State.Inv (turnRegion lo hi level) := by
  unfold turnRegion
  refine keeps_read fun _ _ => ?_
  refine keeps_bind ?_ fun _ => ?_
  · refine keeps_forM (fun _ => ?_) _
    refine keeps_read fun _ _ => ?_
    refine keeps_bind (keeps_forM (fun _ => keeps_turnOne) _) fun _ => ?_
    exact keeps_bind keeps_awaitLanding fun _ => keeps_turnRest
  · exact keeps_modSc _

theorem next_execTrTurn {d a b} {s : State} (h : s.Inv) : NextInv (execTrTurn d a b s) := by
  unfold execTrTurn
  refine next_finish ?_ h
  refine keeps_bind keeps_rv fun _ => ?_
  refine keeps_bind keeps_rv fun _ => ?_
  refine keeps_bind keeps_regionOf fun r => ?_
  refine keeps_bind keeps_sound fun _ => ?_
  refine keeps_bind keeps_drained fun _ => ?_
  extract_lets +onlyGivenNames -underBinder rest
  have hrest : ∀ r, Keeps State.Inv (rest r) := by
    intro r
    exact keeps_pure _
  split
  · exact keeps_bind (keeps_modSc _) fun _ => hrest ()
  · exact keeps_bind keeps_performed fun _ => keeps_bind keeps_turnRegion fun _ => hrest ()

theorem inv_dropRegion {s : State} {lo hi quadToo} (h : s.Inv) : (s.dropRegion lo hi quadToo).Inv :=
  inv_foldl (fun _ _ ht => inv_dropGrain ht) h

theorem inv_dropHost {s : State} {lo hi} (h : s.Inv) : (s.dropHost lo hi).Inv :=
  inv_foldl (fun _ _ ht => inv_hostDrop ht) h

theorem next_execTrInval {d a b} {s : State} (h : s.Inv) : NextInv (execTrInval d a b s) := by
  unfold execTrInval
  refine next_finish ?_ h
  refine keeps_bind keeps_rv fun _ => ?_
  refine keeps_bind keeps_rv fun _ => ?_
  refine keeps_bind keeps_regionOf fun r => ?_
  refine keeps_bind keeps_sound fun _ => ?_
  refine keeps_bind keeps_drained fun _ => ?_
  extract_lets +onlyGivenNames -underBinder rest
  have hrest : ∀ r, Keeps State.Inv (rest r) := by
    intro r
    exact keeps_bind (keeps_modSc _) fun _ => keeps_pure _
  split
  · exact hrest ()
  · refine keeps_bind keeps_performed fun _ => ?_
    refine keeps_bind
      (keeps_modify (fun _ ht => inv_ite (inv_dropHost (inv_dropRegion ht)) (inv_dropRegion ht))) fun _ => ?_
    exact hrest ()

theorem inv_setToken {s : State} {idx st} (h : s.Inv) : (s.setToken idx st).Inv :=
  inv_of_eq h rfl rfl

theorem inv_grantToken {s : State} {idx} (h : s.Inv) : (s.grantToken idx).Inv := by
  unfold State.grantToken
  split
  · exact h
  · exact inv_reply (inv_setToken (inv_of_eq h rfl rfl))

theorem inv_serveToken {s : State} {idx} (h : s.Inv) : (s.serveToken idx).Inv :=
  inv_ite h (inv_grantToken h)

theorem inv_askToken {s : State} {idx owner uid eff} (h : s.Inv) : (s.askToken idx owner uid eff).Inv :=
  inv_serveToken (inv_of_eq h rfl rfl)

theorem inv_giveToken {s : State} {idx next} (h : s.Inv) : (s.giveToken idx next).Inv :=
  inv_serveToken (inv_setToken h)

theorem next_execTokenGrant {tok} {s : State} (h : s.Inv) : NextInv (execTokenGrant tok s) :=
  next_event (fun _ ht => inv_grantToken ht) h

theorem keeps_tokenOps {d a b} : Keeps State.Inv (tokenOps d a b) := by
  unfold tokenOps
  refine keeps_bind keeps_rv fun _ => ?_
  refine keeps_bind keeps_rv fun _ => ?_
  refine keeps_bind keeps_rv fun _ => ?_
  split
  · exact keeps_raise _ _
  · refine keeps_bind keeps_regionOf fun _ => ?_
    exact keeps_bind keeps_sound fun _ => keeps_read fun _ _ => keeps_ite (keeps_raise _ _) (keeps_pure _)

theorem inv_clearRecords {s : State} {lo hi} (h : s.Inv) : (s.clearRecords lo hi).Inv :=
  inv_foldl (fun _ _ ht => inv_modQ _ (inv_noneRecs ht)) h

theorem inv_acquireRegion {s : State} {r} (h : s.Inv) : (s.acquireRegion r).Inv := by
  unfold State.acquireRegion
  split
  · exact h
  · exact inv_dropRegion (inv_clearRecords h)

theorem keeps_acquireToken {idx owner} : Keeps State.Inv (acquireToken idx owner) := by
  unfold acquireToken
  refine keeps_read fun _ hs => ?_
  split
  · exact keeps_ite (keeps_bind (keeps_modCur _) fun _ => keeps_pure _) (keeps_pure _)
  · extract_lets -underBinder
    split
    · exact keeps_bind (keeps_set (inv_modCur _ (inv_hand hs))) fun _ => keeps_pure _
    · refine keeps_bind (keeps_set (inv_askToken (inv_modCur _ (inv_of_eq hs rfl rfl)))) fun _ => ?_
      exact keeps_read fun _ _ => keeps_ite (keeps_bind (keeps_modCur _) fun _ => keeps_pure _) (keeps_pure _)

theorem next_execTrAcq {d a b} {s : State} (h : s.Inv) : NextInv (execTrAcq d a b s) := by
  unfold execTrAcq
  refine next_finish ?_ h
  refine keeps_bind keeps_tokenOps fun _ => ?_
  refine keeps_read fun _ _ => ?_
  split
  · exact keeps_raise _ _
  · refine keeps_bind keeps_drained fun _ => ?_
    refine keeps_bind keeps_performed fun _ => ?_
    refine keeps_bind keeps_platform fun _ => ?_
    refine keeps_bind keeps_acquireToken fun _ => ?_
    exact keeps_ite (keeps_bind (keeps_modify (fun _ ht => inv_acquireRegion ht)) fun _ => keeps_pure _) keeps_block

theorem next_execTrRel {d a b} {s : State} (h : s.Inv) : NextInv (execTrRel d a b s) := by
  unfold execTrRel
  refine next_finish ?_ h
  refine keeps_bind keeps_tokenOps fun _ => ?_
  refine keeps_read fun _ _ => ?_
  split
  · exact keeps_raise _ _
  · refine keeps_bind keeps_drained fun _ => ?_
    refine keeps_bind keeps_performed fun _ => ?_
    extract_lets +onlyGivenNames -underBinder rest
    have hrest : ∀ r, Keeps State.Inv (rest r) := by
      intro r
      exact keeps_bind (keeps_outward (fun _ ht => inv_giveToken ht)) fun _ => keeps_pure _
    split
    · exact keeps_bind keeps_turnRegion fun _ => hrest ()
    · exact hrest ()

theorem next_execTrRetain {d a b} {s : State} (h : s.Inv) : NextInv (execTrRetain d a b s) := by
  unfold execTrRetain
  refine next_finish ?_ h
  refine keeps_bind keeps_ready fun _ => ?_
  refine keeps_bind keeps_rv fun _ => ?_
  refine keeps_bind keeps_rv fun _ => ?_
  split
  · refine keeps_bind keeps_sound fun _ => ?_
    exact keeps_bind keeps_drained fun _ => keeps_bind (keeps_wr _ _) fun _ => keeps_pure _
  · refine keeps_bind keeps_drained fun _ => ?_
    refine keeps_bind keeps_rangeOf fun _ => ?_
    refine keeps_bind keeps_sound fun _ => ?_
    refine keeps_read fun _ _ => ?_
    split
    · split
      · exact keeps_bind (keeps_wr _ _) fun _ => keeps_pure _
      · split
        · exact keeps_bind (keeps_wr _ _) fun _ => keeps_pure _
        · refine keeps_bind (keeps_modify (fun _ ht => inv_modCrew ht)) fun _ => ?_
          exact keeps_bind (keeps_wr _ _) fun _ => keeps_pure _
    · exact keeps_pure _

theorem next_execTrUnpin {a} {s : State} (h : s.Inv) : NextInv (execTrUnpin a s) := by
  unfold execTrUnpin
  refine next_finish ?_ h
  refine keeps_bind keeps_rv fun _ => ?_
  split
  · exact keeps_raise _ _
  · refine keeps_bind keeps_sound fun _ => ?_
    refine keeps_bind keeps_drained fun _ => ?_
    exact keeps_bind (keeps_modify (fun _ ht => inv_relaxLines (inv_modCrew ht))) fun _ => keeps_pure _

theorem inv_lockLine {s : State} {p line va} (h : s.Inv) : (s.lockLine p line va).1.Inv := by
  unfold State.lockLine
  extract_lets old retained q ls mine all t
  have ht : t.Inv := inv_touchLine h
  simp only [apply_ite Prod.fst]
  exact inv_ite h (inv_ite h (inv_ite h (inv_of_eq ht rfl rfl)))

theorem inv_unlockLine {s : State} {p line} (h : s.Inv) : (s.unlockLine p line).Inv :=
  inv_relaxLines (inv_of_eq h rfl rfl)

theorem keeps_lockable {va} : Keeps State.Inv (lockable va) :=
  keeps_bind keeps_segsM fun _ => keeps_pure _

theorem next_execTrLock {d a} {s : State} (h : s.Inv) : NextInv (execTrLock d a s) := by
  unfold execTrLock
  refine next_finishK ?_ h
  refine keeps_bind keeps_ready fun _ => ?_
  refine keeps_bind keeps_rv fun _ => ?_
  refine keeps_bind keeps_drained fun _ => ?_
  refine keeps_read fun _ _ => ?_
  split
  · exact keeps_block
  · refine keeps_bind keeps_lockable fun _ => ?_
    refine keeps_bind keeps_sound fun _ => ?_
    split
    · exact keeps_bind (keeps_wr _ _) fun _ => keeps_pure _
    · refine keeps_bind (keeps_outward (fun _ ht => inv_lockLine (inv_heatUp ht))) fun _ => ?_
      exact keeps_bind (keeps_wr _ _) fun _ => keeps_pure _

theorem next_execTrUnlock {a} {s : State} (h : s.Inv) : NextInv (execTrUnlock a s) := by
  unfold execTrUnlock
  refine next_finishK ?_ h
  refine keeps_bind keeps_rv fun _ => ?_
  refine keeps_bind keeps_drained fun _ => ?_
  refine keeps_read fun _ _ => ?_
  split
  · exact keeps_block
  · refine keeps_bind keeps_lockable fun _ => ?_
    refine keeps_bind keeps_sound fun _ => ?_
    split
    · exact keeps_pure _
    · exact keeps_bind (keeps_outward (fun _ ht => inv_unlockLine (inv_heatUp ht))) fun _ => keeps_pure _

end Sys2Proof.Machine
end

section
/-! Atomics, at the quadrant and at the home: each writes its result by bytes. -/

namespace Sys2Proof.Machine

theorem inv_hostTries {r fuel old} {s : State} (h : s.Inv) : (State.hostTries r fuel old s).2.Inv := by
  induction fuel generalizing old s with
  | zero => exact h
  | succ fuel ih =>
    unfold State.hostTries
    extract_lets n new_ s1 now
    have h1 : s1.Inv := inv_ite (inv_memWrite (inv_of_eq h rfl rfl)) h
    split
    · exact h
    · split
      · exact inv_memWrite h1
      · exact ih h1

theorem inv_atHost {s : State} {r} (h : s.Inv) : (s.atHost r).2.Inv := by
  unfold State.atHost
  extract_lets -underBinder
  split
  · exact inv_hostDrop (inv_hostOut h)
  · split
    · exact inv_hostTries (inv_hostDrop (inv_hostOut h))
    · split
      · exact inv_memWrite (inv_hostDrop (inv_hostOut h))
      · exact inv_hostDrop (inv_hostOut h)

theorem inv_atHomeFrom {s : State} {i uid r} (h : s.Inv) : (s.atHomeFrom i uid r).2.Inv := by
  unfold State.atHomeFrom
  extract_lets n s1 rec_ ok s2 f old s3
  have hf : f.2.Inv := inv_keyRead (inv_setHomeRec (inv_homeLookup h))
  have h3 : s3.Inv := inv_ite (inv_memWrite (inv_keyWrite hf)) hf
  split
  · exact h
  · split
    · exact h
    · exact h3

theorem inv_atHome {s : State} {quad uid r} (h : s.Inv) : (s.atHome quad uid r).2.Inv := by
  unfold State.atHome
  split
  · exact inv_atHost h
  · exact inv_atHomeFrom h

theorem inv_atHomes {s : State} {quad uid rs acc j} (h : s.Inv) : (s.atHomes quad uid rs acc j).1.Inv := by
  induction rs generalizing s acc j with
  | nil => exact h
  | cons r rs ih =>
    unfold State.atHomes
    split
    next e => exact ih (inv_snd (inv_atHome h) e)
    next e => exact inv_snd (inv_atHome h) e

theorem inv_atomics {s : State} {quad uid rs} (h : s.Inv) : (s.atomics quad uid rs).1.Inv := by
  unfold State.atomics
  extract_lets -underBinder
  split
  · split
    · split
      · exact inv_memWrite (inv_of_eq h rfl rfl)
      · exact h
    · exact h
  · exact inv_atHomes (inv_foldl (fun _ _ ht => inv_as (fun _ ht1 => inv_setDirtyAt ht1) ht) h)

theorem inv_pushCore {s : State} {key n} (h : s.Inv) : (s.pushCore key n).Inv :=
  inv_modQ _ (inv_spill h)

theorem inv_atScratch {s : State} {r} (h : s.Inv) : (s.atScratch r).2.Inv := by
  unfold State.atScratch
  extract_lets -underBinder
  split
  · exact h
  · split
    · exact h
    · exact inv_addPend (inv_ite (inv_memWrite (inv_modQ _ (inv_pushCore h))) (inv_modQ _ (inv_pushCore h)))

theorem inv_atLine {s : State} {r} (h : s.Inv) : (s.atLine r).2.Inv := by
  unfold State.atLine
  split
  · exact h
  · split
    · exact h
    · exact inv_keyRead (inv_homeLookup h)

theorem inv_putResult {s : State} {r bs} (h : s.Inv) : (s.putResult r bs).Inv := by
  unfold State.putResult
  extract_lets t
  have ht : t.Inv := inv_foldl (fun _ _ ht => inv_ite (inv_putOut ht) (inv_modQ _ ht)) h
  exact inv_ite (inv_fitBuffer ht) (inv_fitOutbound ht)

theorem inv_passOn {s : State} {r} (h : s.Inv) : (s.passOn r).Inv :=
  inv_ite h (inv_sendHome h)

theorem inv_dropAtom {s : State} {core key} (h : s.Inv) : (s.dropAtom core key).Inv := by
  unfold State.dropAtom
  extract_lets id t r u
  have hu : u.Inv := by
    unfold u
    split
    · exact inv_foldl (fun _ _ ht => inv_chargeLog ht) (inv_liftAtom h)
    · exact inv_liftAtom h
  exact inv_fitOutbound (inv_passUncached hu)

theorem inv_fitAtoms {s : State} {core} (h : s.Inv) : (s.fitAtoms core).Inv :=
  inv_foldl (fun _ _ ht => inv_dropAtom ht) h

theorem inv_atQuad {s : State} {r} (h : s.Inv) : (s.atQuad r).2.Inv := by
  unfold State.atQuad
  extract_lets +onlyGivenNames -underBinder n s0 l word
  have hl : l.2.Inv := inv_atLine (inv_ite h (inv_pushCore h))
  split
  · exact h
  · split
    · exact h
    · have h2 {f bs key va size cach} : (((l.2.modQ f).putResult r bs).addPend key va size cach).Inv := inv_addPend
        (inv_putResult (inv_modQ _ hl))
      exact inv_dropGrain (inv_passOn (inv_ite (inv_fitAtoms h2) h2))

theorem inv_atLocal {s : State} {r} (h : s.Inv) : (s.atLocal r).2.Inv := by
  unfold State.atLocal
  split
  · exact inv_atScratch h
  · split
    · exact inv_atQuad (inv_setDirtyAt h)
    · exact inv_atQuad h

theorem keeps_logAt {r a b} : Keeps State.Inv (logAt r a b) :=
  keeps_read fun _ hs => keeps_ite (keeps_pure _) (keeps_set (inv_chargeLog hs))

theorem inv_pushHome {s : State} {r} (h : s.Inv) : (s.pushHome r).Inv :=
  inv_dropGrain (inv_ite (inv_modQ _ (inv_pushCore h)) (inv_sendHome (inv_modQ _ (inv_pushCore h))))

theorem keeps_sendAt {rs} : Keeps State.Inv (sendAt rs) := by
  unfold sendAt
  refine keeps_read fun _ _ => ?_
  refine keeps_bind keeps_platform fun _ => ?_
  refine keeps_bind
    (keeps_ite (keeps_modify (fun _ ht => inv_foldl (fun _ _ ht1 => inv_pushHome ht1) ht)) (keeps_pure _)) fun _ => ?_
  exact keeps_outwardGo (fun _ ht => inv_atomics ht)

theorem inv_handNext {s : State} {uid} (h : s.Inv) : (s.handNext uid).Inv := by
  unfold State.handNext
  split
  · exact inv_ite h (inv_of_eq (inv_handOn h) rfl rfl)
  · exact h

theorem inv_answer {s : State} {uid id ws} (h : s.Inv) : (s.answer uid id ws).Inv := by
  unfold State.answer
  split
  · exact inv_reply h
  · extract_lets s1
    have h1 : s1.Inv := inv_reply (inv_of_eq h rfl rfl)
    split
    · split
      · extract_lets s2 s3
        have h2 : s2.Inv := inv_ite h1 (inv_chargeLog h1)
        exact inv_handNext (inv_ite (inv_as (fun _ ht => inv_acquire ht) h2) h2)
      · exact h1
    · exact inv_modStrand (inv_of_eq h1 rfl rfl)

theorem keeps_passAt {r o} : Keeps State.Inv (passAt r o) := by
  unfold passAt
  refine keeps_bind keeps_platform fun _ => ?_
  refine keeps_read fun _ hs => ?_
  exact keeps_bind (keeps_set (inv_handNext (inv_of_eq (inv_pushHome hs) rfl rfl))) fun _ => keeps_modCur _

theorem keeps_needSCP {i} : Keeps State.Inv (needSCP i) :=
  keeps_bind keeps_sc fun _ => keeps_ite keeps_modeIllegal (keeps_pure _)

theorem keeps_atAccess {x w a rst} : Keeps State.Inv (atAccess x w a rst) := by
  unfold atAccess
  refine keeps_bind keeps_alignedSegs fun _ => ?_
  refine keeps_bind keeps_behindStores fun _ => ?_
  refine keeps_bind keeps_turnCheck fun _ => ?_
  split
  · exact keeps_pure _
  · exact keeps_throw _

theorem keeps_ordRelease {o scp} : Keeps State.Inv (ordRelease o scp) := by
  unfold ordRelease
  split
  · exact keeps_bind keeps_performed fun _ => keeps_release
  · exact keeps_bind keeps_performed fun _ => keeps_release
  · exact keeps_pure _

theorem keeps_ordAcquire {o scp} : Keeps State.Inv (ordAcquire o scp) := by
  unfold ordAcquire
  split
  · exact keeps_modify (fun _ ht => inv_acquire ht)
  · exact keeps_modify (fun _ ht => inv_acquire ht)
  · exact keeps_pure _

theorem keeps_atPerform {r loc} : Keeps State.Inv (atPerform r loc) := by
  unfold atPerform
  split
  · refine keeps_read fun _ hs => ?_
    split
    next t1 e =>
      have ht1 := inv_snd (inv_atLocal hs) e
      exact keeps_bind (keeps_set ht1) fun _ => keeps_bind keeps_logAt fun _ => keeps_pure _
    · exact keeps_throw _
  · refine keeps_bind keeps_sendAt fun _ => ?_
    split
    · exact keeps_bind keeps_logAt fun _ => keeps_pure _
    · exact keeps_throw _
    · exact keeps_pure _

theorem keeps_atTry {r loc} : Keeps State.Inv (atTry r loc) := by
  unfold atTry
  refine keeps_read fun _ _ => ?_
  split
  · exact keeps_pure _
  · split
    · exact keeps_pure _
    · exact keeps_throw _

theorem keeps_atOrder {loc nr} : Keeps State.Inv (atOrder loc nr) := by
  unfold atOrder
  refine keeps_read fun _ _ => ?_
  exact keeps_ite keeps_behindAt (keeps_ite keeps_block (keeps_ite (keeps_pure _) keeps_behindAt))

theorem keeps_atGo {d nr o t scp r} : Keeps State.Inv (atGo d nr o t scp r) := by
  unfold atGo
  refine keeps_bind keeps_ordRelease fun _ => ?_
  refine keeps_read fun _ _ => ?_
  split
  · exact keeps_bind keeps_passAt fun _ => keeps_pure _
  · refine keeps_bind keeps_atPerform fun _ => ?_
    refine keeps_bind keeps_makeSure fun _ => ?_
    refine keeps_bind keeps_ordAcquire fun _ => ?_
    refine keeps_bind (keeps_modCur _) fun _ => ?_
    exact keeps_bind (keeps_ite (keeps_pure _) (keeps_wr _ _)) fun _ => keeps_pure _

theorem keeps_atForm {i d a b nr o ac op} : Keeps State.Inv (atForm i d a b nr o ac op) := by
  unfold atForm
  refine keeps_bind keeps_needETA fun _ => ?_
  refine keeps_bind keeps_needSCP fun _ => ?_
  refine keeps_bind keeps_rv fun _ => ?_
  refine keeps_bind keeps_rv fun _ => ?_
  refine keeps_bind (keeps_ite keeps_rv (keeps_pure _)) fun _ => ?_
  refine keeps_bind keeps_ready fun _ => ?_
  refine keeps_bind keeps_settled fun _ => ?_
  refine keeps_read fun _ _ => ?_
  split
  · exact keeps_atGo
  · split
    · exact keeps_block
    · refine keeps_bind keeps_unfenced fun _ => ?_
      refine keeps_bind keeps_atAccess fun _ => ?_
      refine keeps_bind keeps_sound fun _ => ?_
      refine keeps_read fun _ _ => ?_
      refine keeps_bind keeps_clearOfStrips fun _ => ?_
      refine keeps_bind keeps_atOrder fun _ => ?_
      exact keeps_bind keeps_atTry fun _ => keeps_bind (keeps_modCur _) fun _ => keeps_atGo

theorem keeps_vatElt {x d a b w e} : Keeps State.Inv (vatElt x d a b w e) := by
  unfold vatElt
  split
  · exact keeps_raiseAt _ _ _ _
  · refine keeps_bind keeps_atAccess fun _ => ?_
    refine keeps_bind keeps_addrSound fun _ => ?_
    split
    · exact keeps_vPoison
    · exact keeps_pure _

theorem keeps_vatChecks {f : Nat → M AtAcc} {es acc} (hf : ∀ e, Keeps State.Inv (f e)) :
    Keeps State.Inv (vatChecks f es acc) := by
  induction es generalizing acc with
  | nil => exact keeps_pure _
  | cons e es ih =>
    unfold vatChecks
    refine keeps_read fun s hs => ?_
    split
    next v t r => exact keeps_bind (keeps_set (keeps_run_ok (hf e) hs r)) fun _ => ih
    next => exact keeps_pure _

theorem inv_localAll {s : State} {rs acc j} (h : s.Inv) : (s.localAll rs acc j).1.Inv := by
  induction rs generalizing s acc j with
  | nil => exact h
  | cons r rs ih =>
    unfold State.localAll
    split
    next e => exact ih (inv_snd (inv_atLocal h) e)
    next => exact h

theorem keeps_vatSend {rs} : Keeps State.Inv (vatSend rs) := by
  unfold vatSend
  split
  · exact keeps_pure _
  · split
    · refine keeps_read fun _ hs => ?_
      exact keeps_bind (keeps_ite (keeps_set (inv_localAll hs)) (keeps_pure _)) fun _ => keeps_pure _
    · exact keeps_sendAt

theorem keeps_vatWrite {d w limit nr vals} : Keeps State.Inv (vatWrite d w limit nr vals) := by
  unfold vatWrite
  refine keeps_read fun _ _ => ?_
  extract_lets -underBinder
  split
  · exact keeps_pure _
  · refine keeps_forM (fun _ => ?_) _
    split
    · exact keeps_pure _
    · split
      · exact keeps_modCur _
      · exact keeps_ite (keeps_pure _) keeps_idleElt

theorem keeps_vatPart {d a b ac op w} : Keeps State.Inv (vatPart d a b ac op w) := by
  unfold vatPart
  refine keeps_bind keeps_behindAt fun _ => ?_
  refine keeps_read fun _ _ => ?_
  refine keeps_bind (keeps_vatChecks (fun _ => keeps_vatElt)) fun _ => ?_
  split
  · exact keeps_block
  · exact keeps_bind keeps_vatWrite fun _ => keeps_throw _
  · exact keeps_read fun _ _ => keeps_bind keeps_clearOfStrips fun _ => keeps_pure _

theorem keeps_vatStep {d a b nr o ac op w} : Keeps State.Inv (vatStep d a b nr o ac op w) := by
  unfold vatStep
  refine keeps_read fun _ _ => ?_
  refine keeps_bind ?_ fun _ => ?_
  · split
    · exact keeps_pure _
    · exact keeps_vatPart
  · refine keeps_bind (keeps_modCur _) fun _ => ?_
    refine keeps_bind keeps_ordRelease fun _ => ?_
    refine keeps_bind keeps_vatSend fun _ => ?_
    split
    · split
      · exact keeps_bind (keeps_modCur _) fun _ => keeps_pure _
      · exact keeps_pure _
    · refine keeps_bind (keeps_forM (fun _ => keeps_logAt) _) fun _ => ?_
      refine keeps_bind keeps_ordAcquire fun _ => ?_
      refine keeps_bind keeps_vatWrite fun _ => ?_
      refine keeps_bind (keeps_modCur _) fun _ => ?_
      split
      · exact keeps_throw _
      · exact keeps_pure _

theorem keeps_vatParts {d a b nr o ac op w fuel} : Keeps State.Inv (vatParts d a b nr o ac op w fuel) := by
  induction fuel with
  | zero => exact keeps_pure _
  | succ fuel ih =>
    unfold vatParts
    exact keeps_bind keeps_vatStep fun _ => keeps_ite (keeps_pure _) ih

theorem keeps_vatRun {d a b nr o ac op} : Keeps State.Inv (vatRun d a b nr o ac op) := by
  unfold vatRun
  refine keeps_bind keeps_vpWidth fun _ => ?_
  refine keeps_bind keeps_waitSources fun _ => ?_
  refine keeps_bind keeps_unfenced fun _ => ?_
  refine keeps_bind keeps_readGuard fun _ => ?_
  exact keeps_bind keeps_soundIdle fun _ => keeps_bind keeps_sc fun _ => keeps_vatParts

theorem keeps_vatCheck {i d a b nr op} : Keeps State.Inv (vatCheck i d a b nr op) := by
  unfold vatCheck
  refine keeps_bind keeps_needETA fun _ => ?_
  exact keeps_bind keeps_needSCP fun _ => keeps_bind keeps_vGroups fun _ => keeps_ready

theorem keeps_vatForm {i d a b nr o ac op} : Keeps State.Inv (vatForm i d a b nr o ac op) :=
  keeps_vecInstr keeps_vatCheck keeps_vatRun

end Sys2Proof.Machine
end

section
/-! Semaphores, shared files and barriers of crews. -/

namespace Sys2Proof.Machine

theorem keeps_cfReady : Keeps State.Inv cfReady :=
  keeps_bind keeps_drained fun _ => keeps_performed

theorem keeps_fileIndex {a top} : Keeps State.Inv (fileIndex a top) := by
  unfold fileIndex
  refine keeps_bind keeps_rv fun _ => ?_
  exact keeps_ite (keeps_raise _ _) (keeps_bind keeps_sound fun _ => keeps_bind keeps_cfReady fun _ => keeps_pure _)

theorem inv_setSem {s : State} {i b} (h : s.Inv) : (s.setSem i b).Inv :=
  inv_modQ _ h

theorem inv_setFileWord {s : State} {i v} (h : s.Inv) : (s.setFileWord i v).Inv :=
  inv_modQ _ h

theorem next_execCfTsb {d a} {s : State} (h : s.Inv) : NextInv (execCfTsb d a s) := by
  unfold execCfTsb
  refine next_finish ?_ h
  refine keeps_bind keeps_ready fun _ => ?_
  refine keeps_bind keeps_fileIndex fun _ => ?_
  exact keeps_read fun _ hs1 => keeps_bind (keeps_set (inv_setReg _ _ (inv_setSem hs1))) fun _ => keeps_pure _

theorem next_execCfTst {d a} {s : State} (h : s.Inv) : NextInv (execCfTst d a s) := by
  unfold execCfTst
  refine next_finish ?_ h
  refine keeps_bind keeps_ready fun _ => ?_
  refine keeps_bind keeps_fileIndex fun _ => ?_
  exact keeps_bind (keeps_modify (fun _ ht => inv_setReg _ _ ht)) fun _ => keeps_pure _

theorem next_execCfClr {a} {s : State} (h : s.Inv) : NextInv (execCfClr a s) := by
  unfold execCfClr
  refine next_finish ?_ h
  refine keeps_bind keeps_fileIndex fun _ => ?_
  exact keeps_bind (keeps_modify (fun _ ht => inv_setSem ht)) fun _ => keeps_pure _

theorem next_execCfRd {d a} {s : State} (h : s.Inv) : NextInv (execCfRd d a s) := by
  unfold execCfRd
  refine next_finish ?_ h
  refine keeps_bind keeps_ready fun _ => ?_
  refine keeps_bind keeps_fileIndex fun _ => ?_
  exact keeps_bind (keeps_modify (fun _ ht => inv_setReg _ _ ht)) fun _ => keeps_pure _

theorem next_execCfWr {a b} {s : State} (h : s.Inv) : NextInv (execCfWr a b s) := by
  unfold execCfWr
  refine next_finish ?_ h
  refine keeps_bind keeps_fileIndex fun _ => ?_
  refine keeps_bind (keeps_rd _) fun _ => ?_
  exact keeps_bind (keeps_modify (fun _ ht => inv_setFileWord ht)) fun _ => keeps_pure _

theorem keeps_barOperand {i a} : Keeps State.Inv (barOperand i a) := by
  unfold barOperand
  refine keeps_bind keeps_rv fun _ => ?_
  refine keeps_read fun _ _ => ?_
  extract_lets -underBinder
  split
  · exact keeps_wordIllegal
  · split
    · exact keeps_raise _ _
    · exact keeps_ite (keeps_raise _ _) (keeps_ite (keeps_raise _ _) (keeps_bind keeps_sound fun _ => keeps_pure _))

theorem keeps_arriveRelease {k} : Keeps State.Inv (arriveRelease k) :=
  keeps_bind keeps_cfReady fun _ => keeps_release

theorem keeps_sendArrival {k b} : Keeps State.Inv (sendArrival k b) := by
  unfold sendArrival
  refine keeps_bind (keeps_ite (keeps_pure _) keeps_platform) fun _ => ?_
  refine keeps_bind (keeps_modCur _) fun _ => ?_
  exact keeps_ite (keeps_modify (fun _ ht => inv_arriveAt ht)) (keeps_emitGo (fun _ ht => inv_arriveAt ht))

theorem keeps_awaitPhase {k b} : Keeps State.Inv (awaitPhase k b) := by
  unfold awaitPhase
  refine keeps_read fun _ hs => ?_
  split
  · exact keeps_pure _
  · exact keeps_ite (keeps_set (inv_acquire (inv_modCur _ hs))) keeps_block

theorem next_execCfArrive {a} {s : State} (h : s.Inv) : NextInv (execCfArrive a s) := by
  unfold execCfArrive
  refine next_finish ?_ h
  refine keeps_bind keeps_barOperand fun _ => ?_
  exact keeps_bind keeps_arriveRelease fun _ => keeps_bind keeps_sendArrival fun _ => keeps_pure _

theorem next_execCfWait {a} {s : State} (h : s.Inv) : NextInv (execCfWait a s) := by
  unfold execCfWait
  refine next_finish ?_ h
  refine keeps_bind keeps_barOperand fun _ => ?_
  exact keeps_bind keeps_cfReady fun _ => keeps_bind keeps_awaitPhase fun _ => keeps_pure _

theorem next_execCfSync {a} {s : State} (h : s.Inv) : NextInv (execCfSync a s) := by
  unfold execCfSync
  refine next_finish ?_ h
  refine keeps_bind keeps_barOperand fun _ => ?_
  refine keeps_read fun _ _ => ?_
  extract_lets +onlyGivenNames -underBinder rest
  have hrest : ∀ r, Keeps State.Inv (rest r) := by
    intro r
    exact keeps_bind keeps_awaitPhase fun _ => keeps_bind (keeps_modCur _) fun _ => keeps_pure _
  split
  · exact hrest ()
  · refine keeps_bind keeps_arriveRelease fun _ => ?_
    exact keeps_bind keeps_sendArrival fun _ => keeps_bind (keeps_modCur _) fun _ => hrest ()

theorem inv_twaitEnd {d v} {s : State} (h : s.Inv) : (twaitEnd d v s).Inv :=
  inv_modCur _ (inv_setReg _ _ h)

theorem keeps_twaitStep {t} : Keeps State.Inv (twaitStep t) := by
  unfold twaitStep
  refine keeps_bind keeps_cfReady fun _ => ?_
  refine keeps_read fun _ hs => ?_
  split
  · exact keeps_bind (keeps_modify (fun _ ht1 => inv_twaitEnd ht1)) fun _ => keeps_pure _
  · split
    · exact keeps_bind (keeps_set (inv_twaitEnd (inv_acquire (inv_modCur _ hs)))) fun _ => keeps_pure _
    · exact keeps_ite (keeps_bind (keeps_modify (fun _ ht1 => inv_twaitEnd ht1)) fun _ => keeps_pure _) keeps_block

theorem next_execCfTwait {d a b} {s : State} (h : s.Inv) : NextInv (execCfTwait d a b s) := by
  unfold execCfTwait
  refine next_finish ?_ h
  refine keeps_bind keeps_barOperand fun _ => ?_
  refine keeps_bind keeps_rv fun _ => ?_
  split
  · exact keeps_raise _ _
  · refine keeps_bind keeps_sound fun _ => ?_
    exact keeps_bind keeps_ready fun _ => keeps_read fun _ _ => keeps_bind (keeps_modCur _) fun _ => keeps_twaitStep

theorem next_execCfCfg {a b} {s : State} (h : s.Inv) : NextInv (execCfCfg a b s) := by
  unfold execCfCfg
  refine next_finish ?_ h
  refine keeps_bind keeps_barOperand fun _ => ?_
  refine keeps_bind keeps_rv fun _ => ?_
  extract_lets -underBinder
  split
  · exact keeps_raise _ _
  · refine keeps_bind keeps_sound fun _ => ?_
    refine keeps_bind keeps_cfReady fun _ => ?_
    exact keeps_bind (keeps_modify (fun _ ht => inv_settleBar ht)) fun _ => keeps_pure _

theorem next_execTwaitTimeout {uid} {s : State} (h : s.Inv) : NextInv (execTwaitTimeout uid s) := by
  unfold execTwaitTimeout
  refine next_event (fun _ ht => ?_) h
  refine inv_as (fun _ ht1 => ?_) ht
  split
  · split
    · split
      next u1 e =>
        have hu1 := keeps_run_ok keeps_twaitStep ht1 e
        exact inv_advance (inv_modCur _ hu1)
      · exact ht1
    · exact ht1
  · exact ht1

theorem next_execBarrierPhaseDelivery {uid} {s : State} (h : s.Inv) : NextInv (execBarrierPhaseDelivery uid s) :=
  next_event (fun _ ht => inv_modStrandAll ht) h

end Sys2Proof.Machine
end

section
/-! The copy engine's transfers, chunk by chunk. -/

namespace Sys2Proof.Machine

theorem inv_putXfer {s : State} {uid ch t} (h : s.Inv) : (s.putXfer uid ch t).Inv :=
  inv_modStrandAll h

theorem inv_engSeg {s : State} {x prv va n w} (h : s.Inv) : (s.engSeg x prv va n w).2.Inv := by
  unfold State.engSeg
  extract_lets -underBinder
  split
  · exact h
  · split
    · exact h
    · split
      · exact h
      · extract_lets -underBinder
        split
        · exact h
        · split
          · exact h
          · split
            · exact h
            · exact inv_orLeaf h

theorem inv_engRead {s : State} {x key kid cach g va n pol} (h : s.Inv) :
    (s.engRead x key kid cach g va n pol).2.Inv := by
  unfold State.engRead
  split
  · split
    · exact h
    · split
      · exact h
      · exact h
  · split
    · exact h
    · exact inv_keyRead (inv_engFetch h)

theorem inv_runPiece {s : State} {x t p} (h : s.Inv) : (s.runPiece x t p).2.Inv := by
  unfold State.runPiece
  extract_lets +onlyGivenNames -underBinder pol src
  have hs : src.2.Inv := by
    unfold src
    split
    · split
      next e => exact inv_snd (inv_engSeg h) e
      next e => exact inv_engRead (inv_snd (inv_engSeg h) e)
    · exact h
    · split
      · exact h
      · exact h
  clear_value src
  split
  · exact hs
  · have h1 := hs
    split
    · exact h1
    · split
      next e2 => exact inv_snd (inv_engSeg h1) e2
      next e2 => exact inv_snd (inv_engSeg h1) e2

theorem inv_runPieces {x t ps} {s : State} {acc} (h : s.Inv) : (State.runPieces x t ps s acc).2.Inv := by
  induction ps generalizing s acc with
  | nil => exact h
  | cons p ps ih =>
    unfold State.runPieces
    split
    next e => exact inv_snd (inv_runPiece h) e
    next e => exact ih (inv_snd (inv_runPiece h) e)

theorem inv_tloadRow {put : List Byte → State →
    (Option Nat × List Move) × State} {w : Win} {x : Strand} {t : Xfer} {s : State}
    (hput : ∀ row u, u.Inv → (put row u).2.Inv) (h : s.Inv) (o : Option (Nat × Nat × Word)) :
    (match o with
      | none => put w.fillRow s
      | some p =>
        match State.runPieces x { t with words := t.words.set 5 (w64 (w.t.pol * 2 ^ 11)) }
            (cutPiece 34 ⟨.mem p.2.2, none, p.2.1 * w.t.size⟩) s [] with
        | ((some c, _), s1) => ((some c, []), s1)
        | ((none, ms), s1) => put (overlay w.fillRow (p.1 * w.t.size) (ms.flatMap fun m : Move => m.data)) s1).2.Inv := by
  cases o with
  | none => exact hput _ _ h
  | some p =>
    dsimp only
    split
    next e => exact inv_snd (inv_runPieces h) e
    next e => exact hput _ _ (inv_snd (inv_runPieces h) e)

theorem inv_runTload {s : State} {x t k} (h : s.Inv) : (s.runTload x t k).2.Inv := by
  unfold State.runTload
  extract_lets +onlyGivenNames -underBinder w out put
  have hput : ∀ row u, u.Inv → (put row u).2.Inv := by
    intro row u hu
    generalize e : put row u = r
    unfold put at e
    split at e
    next e1 => exact e ▸ inv_snd (inv_engSeg hu) e1
    next e1 => exact e ▸ inv_snd (inv_engSeg hu) e1
  exact inv_tloadRow hput h (w.inside k)

theorem inv_runTstore {s : State} {x t k} (h : s.Inv) : (s.runTstore x t k).2.Inv := by
  unfold State.runTstore
  extract_lets -underBinder
  split
  · exact h
  · split
    · exact h
    · exact inv_runPieces h

theorem inv_runChunk {s : State} {x t k} (h : s.Inv) : (s.runChunk x t k).2.Inv := by
  unfold State.runChunk
  split
  · exact inv_runTload h
  · exact inv_runTstore h
  · exact inv_runPieces h

theorem inv_modCb {s : State} {q i} {f : Cb → Cb} (h : s.Inv) : (s.modCb q i f).Inv :=
  inv_modQuadAll h

theorem inv_endXfer {s : State} {x ch t} (h : s.Inv) : (s.endXfer x ch t).Inv := by
  unfold State.endXfer
  extract_lets s1 s2
  have h1 : s1.Inv := by
    unfold s1
    split
    · exact inv_modCb h
    · exact h
  exact inv_modStrandAll (inv_of_eq h1 rfl rfl)

theorem inv_settleXfer {s : State} {uid ch ident} (h : s.Inv) : (s.settleXfer uid ch ident).Inv := by
  unfold State.settleXfer
  split
  · exact h
  · exact inv_ite (inv_endXfer h) h

theorem inv_finishChunk {s : State} {x ch t k ms} (h : s.Inv) : (s.finishChunk x ch t k ms).Inv :=
  inv_ite (inv_putXfer h) (inv_modStrandAll (inv_putXfer h))

theorem inv_checkGo {uid ch ident top fuel} {s : State} (h : s.Inv) : (State.checkGo uid ch ident top fuel s).Inv := by
  induction fuel generalizing s with
  | zero => exact h
  | succ fuel ih =>
    unfold State.checkGo
    split
    · exact h
    · extract_lets k
      split
      · exact h
      · split
        · exact ih (inv_putXfer h)
        · split
          next e => exact ih (inv_putXfer (inv_snd (inv_runChunk h) e))
          next e =>
            refine inv_putXfer (inv_foldl (fun _ _ ht => ?_) (inv_snd (inv_runChunk h) e))
            exact inv_ite (inv_engLand (inv_of_eq ht rfl rfl)) (inv_of_eq ht rfl rfl)

theorem inv_landChunks {s : State} {uid ch ident} {p : Nat → Bool} (h : s.Inv) : (s.landChunks uid ch ident p).Inv := by
  unfold State.landChunks
  split
  · exact h
  · refine inv_foldl (fun _ _ ht1 => ?_) h
    split
    · exact ht1
    · exact inv_finishChunk (inv_foldl (fun _ _ ht2 => inv_engLand ht2) ht1)

theorem inv_doChunk {s : State} {uid ch ident k} (h : s.Inv) : (s.doChunk uid ch ident k).Inv := by
  unfold State.doChunk
  split
  · exact h
  · extract_lets -underBinder
    split
    · exact inv_checkGo h
    · exact inv_settleXfer (inv_landChunks (inv_checkGo h))

theorem inv_sendDg {s : State} {x ch t chunk paddr bs} (h : s.Inv) : (s.sendDg x ch t chunk paddr bs).Inv :=
  inv_of_eq h rfl rfl

theorem inv_netGo {uid ch ident fuel} {s : State} (h : s.Inv) : (State.netGo uid ch ident fuel s).Inv := by
  induction fuel generalizing s with
  | zero => exact h
  | succ fuel ih =>
    unfold State.netGo
    split
    · exact h
    · dsimp only
      split
      · exact inv_putXfer h
      · have hc {top} : (State.checkGo uid ch ident top 1 s).Inv := inv_checkGo h
        refine inv_ite h (inv_ite ?_ (inv_ite (inv_sendDg (inv_putXfer h)) h))
        split
        · exact hc
        · exact inv_ite (ih (inv_putXfer hc)) (ih (inv_sendDg (inv_putXfer hc)))

theorem inv_netPump {s : State} {uid ch ident} (h : s.Inv) : (s.netPump uid ch ident).Inv := by
  unfold State.netPump
  split
  · exact h
  · exact inv_settleXfer (inv_netGo h)

theorem inv_pumpNet {s : State} (h : s.Inv) : s.pumpNet.Inv :=
  inv_foldl (fun _ _ ht => inv_foldl (fun _ _ ht1 => inv_foldl (fun _ _ ht2 => inv_netPump ht2) ht1) ht) h

theorem inv_startXfer {s : State} {uid ch} (h : s.Inv) : (s.startXfer uid ch).Inv := by
  unfold State.startXfer
  split
  · exact h
  · split
    · exact h
    · extract_lets +onlyGivenNames -underBinder q cb go
      have hgo {t slot} (ht : t.Inv) : (go t slot).Inv := inv_ite (inv_netPump (inv_putXfer ht))
        (inv_settleXfer (inv_putXfer ht))
      clear_value cb go
      refine inv_ite ?_ (hgo h)
      split
      · exact inv_ite (inv_modCb h) (hgo (inv_modCb h))
      · exact h

theorem inv_runXfer {s : State} {uid ch ident} (h : s.Inv) : (s.runXfer uid ch ident).Inv := by
  unfold State.runXfer
  split
  · exact h
  · exact inv_ite (inv_netPump h) (inv_foldl (fun _ _ ht1 => inv_doChunk ht1) (inv_putXfer h))

theorem inv_pumpChan {s : State} {uid ch} (h : s.Inv) : (s.pumpChan uid ch).Inv := by
  unfold State.pumpChan
  refine inv_foldl (fun _ _ ht => ?_) h
  extract_lets -underBinder
  split
  · exact inv_startXfer ht
  · refine inv_foldl (fun _ _ ht1 => ?_) (inv_startXfer ht)
    split
    · exact inv_ite (inv_runXfer ht1) ht1
    · exact ht1

theorem inv_pumpQuad {s : State} {q} (h : s.Inv) : (s.pumpQuad q).Inv :=
  inv_foldl (fun _ _ ht => inv_foldl (fun _ _ ht1 => inv_pumpChan ht1) ht) h

theorem next_execTransferStart {uid ch} {s : State} (h : s.Inv) : NextInv (execTransferStart uid ch s) :=
  next_event (fun _ ht => inv_startXfer ht) h

theorem next_execChunkComplete {uid ch chunk} {s : State} (h : s.Inv) : NextInv (execChunkComplete uid ch chunk s) := by
  unfold execChunkComplete
  refine next_event (fun _ ht => ?_) h
  split
  · exact inv_ite (inv_doChunk ht) ht
  · exact ht

theorem next_execFlashBlockCheck {uid ch block} {s : State} (h : s.Inv) :
    NextInv (execFlashBlockCheck uid ch block s) := by
  unfold execFlashBlockCheck
  refine next_event (fun _ ht => ?_) h
  split
  · exact inv_ite ht (inv_settleXfer (inv_foldl (fun _ _ ht1 => inv_doChunk ht1) (inv_putXfer ht)))
  · exact ht

theorem next_execNvmeError {uid ch block} {s : State} (h : s.Inv) : NextInv (execNvmeError uid ch block s) := by
  unfold execNvmeError
  refine next_event (fun _ ht => ?_) h
  split
  · split
    · exact inv_settleXfer (inv_putXfer ht)
    · exact ht
  · exact ht

end Sys2Proof.Machine
end

section
/-! Instructions that program the copy engine. -/

namespace Sys2Proof.Machine

theorem next_execCpSet {k a x} {s : State} (h : s.Inv) : NextInv (execCpSet k a x s) :=
  next_finish (keeps_bind (keeps_rd _) fun _ => keeps_bind (keeps_modCur _) fun _ => keeps_pure _) h

theorem next_execCpMask {m k} {s : State} (h : s.Inv) : NextInv (execCpMask m k s) :=
  next_finish (keeps_bind (keeps_modCur _) fun _ => keeps_pure _) h

theorem inv_releaseXfer {s : State} {uid ch ident} (h : s.Inv) : (s.releaseXfer uid ch ident).Inv := by
  unfold State.releaseXfer
  split
  · exact h
  · exact inv_ite (inv_putXfer h) (inv_pumpChan (inv_putXfer h))

theorem next_execCpGo {d k} {s : State} (h : s.Inv) : NextInv (execCpGo d k s) := by
  unfold execCpGo
  refine next_finish ?_ h
  refine keeps_bind keeps_ready fun _ => ?_
  refine keeps_read fun _ _ => ?_
  refine keeps_bind keeps_drained fun _ => ?_
  refine keeps_bind keeps_unfencedEngine fun _ => ?_
  split
  · exact keeps_block
  · split
    · exact keeps_raiseAt _ _ _ _
    · refine keeps_bind keeps_platform fun _ => ?_
      refine keeps_bind (keeps_modCur _) fun _ => ?_
      refine keeps_bind (keeps_emitGo (fun _ ht => inv_releaseXfer ht)) fun _ => ?_
      exact keeps_bind (keeps_wr _ _) fun _ => keeps_pure _

theorem next_execCpWait {k b} {s : State} (h : s.Inv) : NextInv (execCpWait k b s) := by
  unfold execCpWait
  refine next_finish (keeps_bind (keeps_rd _) fun _ => keeps_read fun _ hs => ?_) h
  dsimp only
  refine keeps_ite keeps_block ?_
  split
  · exact keeps_ite (keeps_bind (keeps_set (inv_acquire hs)) fun _ => keeps_pure _) (keeps_pure _)
  · exact keeps_pure _

theorem next_execCpStat {d k} {s : State} (h : s.Inv) : NextInv (execCpStat d k s) := by
  unfold execCpStat
  refine next_finish ?_ h
  refine keeps_bind keeps_ready fun _ => ?_
  refine keeps_bind keeps_drained fun _ => ?_
  exact keeps_read fun _ _ => keeps_bind (keeps_wr _ _) fun _ => keeps_bind (keeps_modCur _) fun _ => keeps_pure _

theorem inv_setCb {s : State} {c} (h : s.Inv) : (s.setCb c).Inv :=
  inv_modQ _ h

theorem keeps_ownCb {n} : Keeps State.Inv (ownCb n) := by
  unfold ownCb
  refine keeps_read fun _ _ => ?_
  split
  · exact keeps_ite (keeps_pure _) (keeps_raise _ _)
  · exact keeps_raise _ _

theorem next_execCpCbacq {d k} {s : State} (h : s.Inv) : NextInv (execCpCbacq d k s) := by
  unfold execCpCbacq
  refine next_finish ?_ h
  refine keeps_bind keeps_ready fun _ => ?_
  refine keeps_bind keeps_ownCb fun _ => ?_
  refine keeps_bind keeps_drained fun _ => ?_
  refine keeps_read fun _ hs1 => ?_
  extract_lets -underBinder
  split
  · exact keeps_bind (keeps_set (inv_setCb hs1)) fun _ => keeps_block
  · exact keeps_bind (keeps_set (inv_setCb hs1)) fun _ => keeps_bind (keeps_wr _ _) fun _ => keeps_pure _

theorem inv_serveQuad {s : State} (h : s.Inv) : s.serveQuad.Inv :=
  inv_ite h (inv_pumpQuad h)

theorem next_execCpCbrel {k} {s : State} (h : s.Inv) : NextInv (execCpCbrel k s) := by
  unfold execCpCbrel
  refine next_finish ?_ h
  refine keeps_bind keeps_ownCb fun _ => ?_
  split
  · exact keeps_raise _ _
  · refine keeps_bind keeps_cfReady fun _ => ?_
    exact keeps_bind (keeps_modify (fun _ ht => inv_serveQuad (inv_setCb ht))) fun _ => keeps_pure _

theorem next_execCpCbcfg {k b} {s : State} (h : s.Inv) : NextInv (execCpCbcfg k b s) := by
  unfold execCpCbcfg
  refine next_finish (keeps_bind keeps_rv fun _ => keeps_read fun _ _ => ?_) h
  refine keeps_ite (keeps_raise _ _) (keeps_ite (keeps_raise _ _) ?_)
  refine keeps_bind keeps_sound fun _ => keeps_bind keeps_drained fun _ => keeps_ite keeps_block ?_
  exact keeps_bind (keeps_modify fun _ ht => inv_modQ _ ht) fun _ => keeps_pure _

end Sys2Proof.Machine
end

section
/-! Publications, reductions and messages between dies, and what the host reads and writes. -/

namespace Sys2Proof.Machine

theorem keeps_askUnit {k} {start : Nat → State → State} (hstart : ∀ k t, t.Inv → (start k t).Inv) :
    Keeps State.Inv (askUnit k start) := by
  unfold askUnit
  refine keeps_bind keeps_platform fun _ => ?_
  refine keeps_read fun _ hs => ?_
  split
  · split
    · exact keeps_bind (keeps_modCur _) fun _ => keeps_pure _
    · exact keeps_block
  · extract_lets -underBinder
    split
    · exact keeps_bind (keeps_set (inv_modCur _ (inv_hand hs))) fun _ => keeps_block
    · refine keeps_bind (keeps_set (hstart _ _ (inv_modCur _ (inv_of_eq hs rfl rfl)))) fun _ => ?_
      refine keeps_read fun _ _ => ?_
      split
      · exact keeps_bind (keeps_modCur _) fun _ => keeps_pure _
      · exact keeps_block

theorem keeps_readRecord {va n ops} : Keeps State.Inv (readRecord va n ops) := by
  unfold readRecord
  split
  · exact keeps_raise _ _
  · refine keeps_bind keeps_segsM fun _ => ?_
    refine keeps_bind keeps_turnCheck fun _ => ?_
    exact keeps_bind keeps_sound fun _ => keeps_bind (keeps_mapM (fun _ => keeps_readSeg)) fun _ => keeps_pure _

theorem keeps_accessesDone : Keeps State.Inv accessesDone :=
  keeps_bind keeps_drained fun _ => keeps_performed

theorem keeps_setNote {ws} : Keeps State.Inv (setNote ws) :=
  keeps_modCur _

theorem keeps_turnBytes {lo hi} : Keeps State.Inv (turnBytes lo hi) :=
  keeps_read fun _ _ => keeps_forM (fun _ => keeps_turnGrain) _

theorem keeps_storeIf {va bs} : Keeps State.Inv (storeIf va bs) := by
  unfold storeIf
  refine keeps_read fun _ hs => ?_
  split
  next t1 e =>
    have ht1 := inv_snd (inv_segs hs) e
    exact keeps_bind (keeps_set ht1) fun _ => keeps_storeSegs
  · exact keeps_pure _

theorem keeps_pubRest {va ws} : Keeps State.Inv (pubRest va ws) := by
  unfold pubRest
  extract_lets +onlyGivenNames -underBinder id base len rest
  have hrest : ∀ r, Keeps State.Inv (rest r) := by
    intro r
    exact keeps_bind keeps_turnBytes fun _ => keeps_bind (keeps_modCur _) fun _ => keeps_pure _
  split
  · refine keeps_bind keeps_accessesDone fun _ => ?_
    refine keeps_bind keeps_release fun _ => ?_
    refine keeps_read fun _ _ => ?_
    refine keeps_bind (keeps_askUnit (fun _ _ ht => inv_publish ht)) fun r => ?_
    extract_lets +onlyGivenNames -underBinder rest1
    have hrest1 : ∀ r, Keeps State.Inv (rest1 r) := by
      intro r
      exact keeps_bind keeps_setNote fun _ => hrest ()
    split
    · exact hrest1 ()
    · refine keeps_bind keeps_storeIf fun _ => ?_
      exact keeps_bind keeps_storeIf fun _ => keeps_bind keeps_storeIf fun _ => hrest1 ()
  · exact hrest ()

theorem next_execXrPub {a} {s : State} (h : s.Inv) : NextInv (execXrPub a s) := by
  unfold execXrPub
  refine next_finishK ?_ h
  refine keeps_bind keeps_rv fun _ => ?_
  refine keeps_read fun _ _ => ?_
  split
  · exact keeps_pubRest
  · refine keeps_bind keeps_drained fun _ => ?_
    refine keeps_bind keeps_readRecord fun r => ?_
    refine keeps_read fun _ _ => ?_
    split
    · exact keeps_raiseAt _ _ _ _
    · extract_lets +onlyGivenNames -underBinder base len rest
      have hrest : ∀ r, Keeps State.Inv (rest r) := by
        intro r
        exact keeps_bind keeps_setNote fun _ => keeps_pubRest
      exact keeps_ite (keeps_bind keeps_segsM fun _ => hrest ()) (hrest ())

theorem keeps_subRest {d ws} : Keeps State.Inv (subRest d ws) := by
  unfold subRest
  refine keeps_bind keeps_turnBytes fun _ => ?_
  refine keeps_read fun _ _ => ?_
  refine keeps_bind (keeps_askUnit (fun _ _ ht => inv_reply (inv_subscribe ht))) fun _ => ?_
  exact keeps_bind (keeps_modCur _) fun _ => keeps_bind (keeps_wr _ _) fun _ => keeps_pure _

theorem keeps_refuseSub {d off} : Keeps State.Inv (refuseSub d off) :=
  keeps_bind (keeps_wr _ _) fun _ => keeps_pure _

theorem next_execXrSub {d a b} {s : State} (h : s.Inv) : NextInv (execXrSub d a b s) := by
  unfold execXrSub
  refine next_finishK ?_ h
  refine keeps_bind keeps_ready fun _ => ?_
  refine keeps_bind keeps_rv fun _ => ?_
  refine keeps_bind keeps_rv fun _ => ?_
  refine keeps_read fun _ _ => ?_
  split
  · exact keeps_subRest
  · refine keeps_bind keeps_drained fun _ => ?_
    refine keeps_bind keeps_readRecord fun _ => ?_
    refine keeps_read fun _ _ => ?_
    extract_lets -underBinder vw dev id rest
    have hrest : ∀ r, Keeps State.Inv (rest r) := fun _ => keeps_bind (keeps_wr _ _) fun _ => keeps_pure _
    split
    · split
      · exact keeps_bind (keeps_emit (fun _ ht => inv_unsubscribe ht)) fun _ => hrest ()
      · exact hrest ()
    · split
      · exact keeps_refuseSub
      · split
        · exact keeps_refuseSub
        · refine keeps_bind keeps_alignedSegs fun _ => ?_
          extract_lets -underBinder far
          clear_value far
          split
          · exact keeps_raiseAt _ _ _ _
          · refine keeps_bind (keeps_modify (fun _ ht => inv_setDirty ht)) fun _ => ?_
            exact keeps_bind keeps_storeSegs fun _ => keeps_bind keeps_setNote fun _ => keeps_subRest

theorem next_execXrWaitv {a b} {s : State} (h : s.Inv) : NextInv (execXrWaitv a b s) := by
  unfold execXrWaitv
  refine next_finishK ?_ h
  refine keeps_bind keeps_rv fun _ => ?_
  refine keeps_bind keeps_rv fun _ => ?_
  split
  · exact keeps_raise _ _
  · refine keeps_bind keeps_drained fun _ => ?_
    refine keeps_bind keeps_segsM fun _ => ?_
    split
    · exact keeps_block
    · split
      · exact keeps_raise _ _
      · refine keeps_bind keeps_sound fun _ => ?_
        refine keeps_bind keeps_accessesDone fun _ => ?_
        refine keeps_read fun _ hs1 => ?_
        split
        · exact keeps_raiseAt _ _ _ _
        · refine keeps_bind (keeps_set (inv_keyRead (inv_homeLookup hs1))) fun _ => ?_
          exact keeps_ite (keeps_bind (keeps_modify (fun _ ht => inv_acquire ht)) fun _ => keeps_pure _) keeps_block

theorem next_execWaitvRecheck {uid} {s : State} (h : s.Inv) : NextInv (execWaitvRecheck uid s) :=
  next_event (fun _ ht => inv_modStrand ht) h

theorem keeps_redRest {d va ws r} : Keeps State.Inv (redRest d va ws r) := by
  unfold redRest
  refine keeps_read fun _ _ => ?_
  extract_lets +onlyGivenNames -underBinder c t w npos pos note stage rest
  have hrest : ∀ r, Keeps State.Inv (rest r) := by
    intro r
    refine keeps_read fun _ _ => ?_
    extract_lets +onlyGivenNames -underBinder ms rest
    have hrest : ∀ r, Keeps State.Inv (rest r) := by
      intro r
      refine keeps_read fun _ _ => ?_
      extract_lets +onlyGivenNames -underBinder n2 rest
      have hrest : ∀ r, Keeps State.Inv (rest r) := by
        intro r
        exact keeps_bind keeps_turnBytes fun _ => keeps_read fun _ _ => keeps_bind keeps_orFlags fun _ => keeps_modCur _
      split
      · split
        · exact keeps_bind keeps_block fun _ => hrest ()
        · refine keeps_bind ?_ fun _ => ?_
          · exact keeps_read fun _ _ => keeps_bind (keeps_modCur _) fun _ => keeps_bind keeps_storeIf fun _ =>
              keeps_setNote
          · exact hrest ()
      · exact hrest ()
    split
    · split
      · exact keeps_bind keeps_block fun _ => hrest ()
      · split
        · refine keeps_bind (keeps_modify (fun _ ht => inv_voidJoins ht)) fun _ => ?_
          exact keeps_bind (keeps_raiseAt _ _ _ _) fun _ => hrest ()
        · extract_lets -underBinder
          split
          · exact keeps_bind keeps_block fun _ => hrest ()
          · refine keeps_bind (keeps_emit (fun _ ht => inv_heed ht)) fun _ => ?_
            refine keeps_bind keeps_setNote fun _ => ?_
            split
            · refine keeps_bind ?_ fun _ => ?_
              · exact keeps_read fun _ _ => keeps_bind (keeps_modCur _) fun _ => keeps_bind keeps_storeIf fun _ =>
                  keeps_setNote
              · exact hrest ()
            · exact hrest ()
    · exact hrest ()
  split
  · exact keeps_bind (keeps_emit (fun _ ht => inv_heed ht)) fun _ => keeps_bind keeps_setNote fun _ => hrest ()
  · exact hrest ()

theorem keeps_xrRedCheck {d a} : Keeps State.Inv (xrRedCheck d a) := by
  unfold xrRedCheck
  refine keeps_bind keeps_needETA fun _ => ?_
  exact keeps_bind keeps_needRND fun _ => keeps_bind keeps_vGroups fun _ => keeps_needB

theorem next_execXrRed {d a} {s : State} (h : s.Inv) : NextInv (execXrRed d a s) := by
  unfold execXrRed
  refine next_finishK ?_ h
  refine keeps_vecInstr keeps_xrRedCheck ?_
  refine keeps_read fun _ _ => ?_
  extract_lets -underBinder
  split
  · exact keeps_redRest
  · refine keeps_bind keeps_readRecord fun _ => ?_
    refine keeps_read fun _ _ => ?_
    extract_lets -underBinder
    split
    · exact keeps_raiseAt _ _ _ _
    · refine keeps_bind keeps_segsM fun _ => ?_
      split
      · exact keeps_raiseAt _ _ _ _
      · exact keeps_bind keeps_setNote fun _ => keeps_redRest

theorem next_execCollectiveMessage {m} {s : State} (h : s.Inv) : NextInv (execCollectiveMessage m s) :=
  next_event (fun _ ht => inv_mapStrands (inv_heed ht)) h

theorem next_execSubscriptionRegistration {r} {s : State} (h : s.Inv) : NextInv (execSubscriptionRegistration r s) := by
  unfold execSubscriptionRegistration
  refine next_event (fun _ ht => ?_) h
  split
  · exact inv_ite ht (inv_enrol ht)
  · split
    · exact ht
    · split
      · exact inv_reply (inv_of_eq (inv_subscribe ht) rfl rfl)
      · exact ht

theorem next_execPublicationDelivery {pubid slot} {s : State} (h : s.Inv) :
    NextInv (execPublicationDelivery pubid slot s) :=
  next_event (fun _ ht => inv_serveSub ht) h

theorem next_execSubscriberDrop {pubid slot} {s : State} (h : s.Inv) : NextInv (execSubscriberDrop pubid slot s) := by
  unfold execSubscriberDrop
  refine next_event (fun _ ht => ?_) h
  split
  · exact inv_ite (inv_dropSub ht) ht
  · exact ht

theorem next_execHostRead {pa n} {s : State} (h : s.Inv) : NextInv (execHostRead pa n s) := by
  unfold execHostRead
  refine next_event (fun _ ht => ?_) h
  exact inv_foldl (fun _ _ ht1 => inv_of_eq (inv_keyRead (inv_touchLine ht1)) rfl rfl) (inv_of_eq ht rfl rfl)

theorem next_execHostWrite {pa bytes} {s : State} (h : s.Inv) : NextInv (execHostWrite pa bytes s) :=
  next_event (fun _ ht => inv_foldl_snd (fun _ _ h1 => inv_land h1) ht) h

theorem next_execMsixUnmask {vec} {s : State} (h : s.Inv) : NextInv (execMsixUnmask vec s) :=
  next_event (fun _ ht => inv_ite (inv_of_eq ht rfl rfl) (inv_of_eq ht rfl rfl)) h

theorem inv_tellPeer {s : State} {ws} (h : s.Inv) : (s.tellPeer ws).Inv :=
  inv_of_eq h rfl rfl

theorem inv_peerRead {s : State} {dev pa n} (h : s.Inv) : (s.peerRead dev pa n).Inv := by
  unfold State.peerRead
  split
  · exact inv_tellPeer h
  · extract_lets -underBinder
    split
    · exact inv_tellPeer (inv_foldl_fst (fun _ _ h1 => inv_keyRead (inv_touchLine h1)) h)
    · exact inv_tellPeer (inv_foldl_fst (fun _ _ h1 => inv_keyRead (inv_touchLine h1)) h)

theorem inv_peerWrite {s : State} {dev pa bs} (h : s.Inv) : (s.peerWrite dev pa bs).Inv := by
  unfold State.peerWrite
  split
  · exact inv_tellPeer h
  · exact inv_tellPeer (inv_foldl_snd (fun _ _ h1 => inv_land h1) h)

theorem inv_peerAtomic {s : State} {dev quad core pa grain op width v expect scope trap} (h : s.Inv) :
    (s.peerAtomic dev quad core pa grain op width v expect scope trap).Inv := by
  unfold State.peerAtomic
  split
  · exact inv_tellPeer h
  · extract_lets -underBinder
    split
    next t1 e =>
      have ht1 := inv_snd (inv_atHomeFrom h) e
      exact inv_tellPeer ht1
    next t1 e =>
      have ht1 := inv_snd (inv_atHomeFrom h) e
      exact inv_tellPeer ht1

theorem inv_seen {s : State} {g} (h : s.Inv) : (s.seen g).Inv :=
  inv_of_eq h rfl rfl

theorem inv_answerDg {s : State} {g ok} (h : s.Inv) : (s.answerDg g ok).Inv :=
  inv_of_eq h rfl rfl

theorem inv_modPort {s : State} {i} {f : Port → Port} (h : s.Inv) : (s.modPort i f).Inv :=
  inv_of_eq h rfl rfl

theorem inv_dropFrame {s : State} {port} (h : s.Inv) : (s.dropFrame port).Inv :=
  inv_modPort h

theorem inv_takeDg {s : State} {g kind n} {apply : Nat → InGrant → State → State} (h : s.Inv)
    (happly : ∀ k g t, t.Inv → (apply k g t).Inv) : (s.takeDg g kind n apply).Inv := by
  unfold State.takeDg
  split
  · exact inv_dropFrame h
  · split
    · exact inv_answerDg h
    · exact inv_ite (inv_answerDg h) (inv_answerDg (inv_seen (happly _ _ _ h)))

theorem next_execDatagramData {g} {s : State} (h : s.Inv) : NextInv (execDatagramData g s) :=
  next_event (fun _ ht => inv_takeDg ht (fun _ _ _ ht1 => inv_foldl_snd (fun _ _ h1 => inv_land h1) ht1)) h

theorem next_execDatagramSignal {g} {s : State} (h : s.Inv) : NextInv (execDatagramSignal g s) :=
  next_event (fun _ ht => inv_takeDg ht (fun _ _ _ ht1 => inv_setHomeRec (inv_land (inv_keyRead ht1)))) h

theorem inv_dropDg {s : State} {d} (h : s.Inv) : (s.dropDg d).Inv :=
  inv_of_eq h rfl rfl

theorem next_execDatagramAck {part sep seq} {s : State} (h : s.Inv) : NextInv (execDatagramAck part sep seq s) := by
  unfold execDatagramAck
  refine next_event (fun _ ht => ?_) h
  split
  · exact ht
  · extract_lets -underBinder
    split
    · exact inv_dropDg ht
    · split
      · exact inv_endXfer (inv_dropDg ht)
      · exact inv_ite (inv_dropDg ht) (inv_netPump (inv_finishChunk (inv_dropDg ht)))

theorem inv_dgFail {s : State} {d} (h : s.Inv) : (s.dgFail d).Inv := by
  unfold State.dgFail
  extract_lets -underBinder
  split
  · exact inv_dropDg h
  · exact inv_netPump (inv_putXfer (inv_dropDg h))

theorem next_execDatagramRefusal {part sep seq} {s : State} (h : s.Inv) :
    NextInv (execDatagramRefusal part sep seq s) := by
  unfold execDatagramRefusal
  refine next_event (fun _ ht => ?_) h
  split
  · exact inv_dgFail ht
  · exact ht

theorem next_execDatagramRetransmit {part sep seq} {s : State} (h : s.Inv) :
    NextInv (execDatagramRetransmit part sep seq s) := by
  unfold execDatagramRetransmit
  refine next_event (fun _ ht => ?_) h
  split
  · exact ht
  · exact inv_ite (inv_dgFail ht) (inv_ite ht (inv_of_eq ht rfl rfl))

theorem next_execFrameDrop {port} {s : State} (h : s.Inv) : NextInv (execFrameDrop port s) :=
  next_event (fun _ ht => inv_dropFrame ht) h

theorem next_execPauseFrame {port frame} {s : State} (h : s.Inv) : NextInv (execPauseFrame port frame s) :=
  next_event (fun _ ht => inv_ite (inv_pumpNet (inv_modPort ht)) (inv_modPort ht)) h

end Sys2Proof.Machine
end

section
/-! Launches, their completion words, and the scheduler's moves. -/

namespace Sys2Proof.Machine

theorem inv_homeWrite {s : State} {part va bs} (h : s.Inv) : (s.homeWrite part va bs).Inv := by
  unfold State.homeWrite
  split
  · exact inv_land (inv_orLeaf h)
  · exact h

theorem inv_poll {s : State} {h} (h1 : s.Inv) : (s.poll h).Inv :=
  inv_modLaunch h1

theorem inv_pollAll {s : State} (h : s.Inv) : s.pollAll.Inv :=
  inv_foldl (fun _ _ ht => inv_poll ht) h

theorem inv_acceptLaunch {s : State} {part b prv} (h : s.Inv) : (s.acceptLaunch part b prv).1.Inv := by
  unfold State.acceptLaunch
  split
  · exact h
  · extract_lets +onlyGivenNames -underBinder done refuse
    have hr {code off} : (refuse code off).1.Inv := inv_homeWrite h
    split
    · exact h
    · split
      · exact hr
      · exact hr
      · extract_lets slot hd s1
        have h1 : s1.Inv := inv_modPart (inv_homeWrite h)
        exact inv_poll (inv_of_eq h1 rfl rfl)

theorem keeps_readLpb {va a} : Keeps State.Inv (readLpb va a) := by
  unfold readLpb
  refine keeps_read fun _ hs => ?_
  extract_lets -underBinder
  split
  · exact keeps_throw _
  · refine keeps_bind (keeps_set (inv_segs hs)) fun _ => ?_
    exact keeps_bind keeps_sound fun _ => keeps_bind (keeps_mapM (fun _ => keeps_readSeg)) fun _ => keeps_pure _

theorem keeps_checkDone {va done} : Keeps State.Inv (checkDone va done) := by
  unfold checkDone
  split
  · exact keeps_raiseAt _ _ _ _
  · refine keeps_read fun _ hs => ?_
    split
    next t1 e =>
      have ht1 := inv_snd (inv_segOf hs) e
      exact keeps_set ht1
    · exact keeps_ite (keeps_throw _) (keeps_raiseAt _ _ _ _)

theorem keeps_checkEntry {va entry} : Keeps State.Inv (checkEntry va entry) := by
  unfold checkEntry
  refine keeps_read fun _ _ => ?_
  split
  · exact keeps_pure _
  · split
    · exact keeps_raiseAt _ _ _ _
    · split
      · exact keeps_ite (keeps_pure _) (keeps_raiseAt _ _ _ _)
      · split
        · exact keeps_throw _
        · exact keeps_raiseAt _ _ _ _

theorem inv_forgetDone {s : State} {done} (h : s.Inv) : (s.forgetDone done).Inv := by
  unfold State.forgetDone
  split
  · exact inv_dropGrain h
  · exact h

theorem keeps_lnRest {d ws} : Keeps State.Inv (lnRest d ws) := by
  unfold lnRest
  refine keeps_bind keeps_accessesDone fun _ => ?_
  refine keeps_bind keeps_release fun _ => ?_
  refine keeps_read fun _ _ => ?_
  refine keeps_bind (keeps_askUnit (fun _ _ ht => inv_reply (inv_acceptLaunch ht))) fun _ => ?_
  refine keeps_bind (keeps_modify (fun _ ht => inv_modCur _ (inv_forgetDone ht))) fun _ => ?_
  exact keeps_bind (keeps_wr _ _) fun _ => keeps_pure _

theorem next_execLnGo {d a} {s : State} (h : s.Inv) : NextInv (execLnGo d a s) := by
  unfold execLnGo
  refine next_finishK ?_ h
  refine keeps_bind keeps_ready fun _ => ?_
  refine keeps_bind keeps_rv fun _ => ?_
  refine keeps_read fun _ _ => ?_
  split
  · exact keeps_lnRest
  · refine keeps_bind keeps_drained fun _ => ?_
    refine keeps_bind keeps_readLpb fun _ => ?_
    split
    · exact keeps_raise _ _
    · refine keeps_bind keeps_checkDone fun _ => ?_
      exact keeps_bind keeps_checkEntry fun _ => keeps_bind keeps_setNote fun _ => keeps_lnRest

theorem next_execLnStat {d a} {s : State} (h : s.Inv) : NextInv (execLnStat d a s) := by
  unfold execLnStat
  refine next_finish ?_ h
  refine keeps_bind keeps_ready fun _ => ?_
  refine keeps_bind (keeps_rd _) fun _ => ?_
  refine keeps_read fun _ _ => ?_
  extract_lets +onlyGivenNames -underBinder rest
  have hrest : ∀ r, Keeps State.Inv (rest r) := by
    intro r
    exact keeps_pure _
  split
  · exact keeps_ite (keeps_bind (keeps_wr _ _) fun _ => hrest ()) (keeps_bind (keeps_wr _ _) fun _ => hrest ())
  · exact keeps_bind (keeps_wr _ _) fun _ => hrest ()

theorem inv_putNext {s : State} {l n q b} (h : s.Inv) : (s.putNext l n q b).Inv := by
  unfold State.putNext
  split
  · exact inv_restoreCrew h
  · exact inv_placeNew h

theorem inv_putAt {s : State} {l xs} (h : s.Inv) : (s.putAt l xs).Inv :=
  inv_foldl (fun _ _ ht => inv_putNext ht) h

theorem inv_keepGrants {s : State} {ns} (h : s.Inv) : (s.keepGrants ns).Inv :=
  inv_ite h (inv_mapStrands h)

theorem inv_putAll {s t : State} {l ns pref} (h : s.Inv) (e : s.putAll l ns pref = some t) : t.Inv := by
  unfold State.putAll at e
  extract_lets s0 at e
  have h0 : s0.Inv := inv_keepGrants h
  split at e
  · split at e
    · obtain ⟨sp, -, rfl⟩ := Option.map_eq_some_iff.1 e
      exact inv_putAt (inv_putNext h0)
    · cases e
  · obtain ⟨sp, -, rfl⟩ := Option.map_eq_some_iff.1 e
    exact inv_putAt h0

theorem inv_serve {s : State} {l pref} (h : s.Inv) : (s.serve l pref).Inv := by
  unfold State.serve
  split
  · exact h
  next t e => exact inv_modPart (inv_putAll h e)

theorem next_execCrewPlace {part quad base} {s : State} (h : s.Inv) : NextInv (execCrewPlace part quad base s) := by
  unfold execCrewPlace
  refine next_event (fun _ ht => ?_) h
  split
  · exact ht
  · split
    · exact inv_ite (inv_serve ht) ht
    · exact ht

theorem next_execCrewRestore {crew quad base} {s : State} (h : s.Inv) : NextInv (execCrewRestore crew quad base s) := by
  unfold execCrewRestore
  refine next_event (fun _ ht => ?_) h
  split
  · exact ht
  · split
    · exact ht
    · split
      · exact inv_ite (inv_serve ht) ht
      · exact ht

theorem inv_takeCrew {s : State} {c} (h : s.Inv) : (s.takeCrew c).Inv :=
  inv_foldl (fun _ _ ht => inv_ite ht (inv_stopCrew ht)) h

theorem inv_saveStopped {s : State} {p : Crew → Bool} (h : s.Inv) : (s.saveStopped p).Inv := by
  unfold State.saveStopped
  refine inv_foldl (fun _ _ ht => ?_) (inv_foldl (fun _ _ ht => inv_turnCrew ht) h)
  exact inv_ite (inv_foldl (fun _ _ ht1 => inv_saveCrew ht1) ht) ht

theorem next_execSchedulerPreempt {part} {s : State} (h : s.Inv) : NextInv (execSchedulerPreempt part s) := by
  unfold execSchedulerPreempt
  refine next_event (fun _ ht => ?_) h
  split
  · exact inv_saveStopped ht
  · split
    · exact inv_saveStopped (inv_takeCrew ht)
    · exact ht

theorem inv_yieldCrew {s : State} (h : s.Inv) : s.yieldCrew.Inv := by
  unfold State.yieldCrew
  split
  · exact h
  · exact inv_ite (inv_ite (inv_takeCrew (inv_of_eq h rfl rfl)) (inv_of_eq h rfl rfl)) h

theorem next_execSyYield {s : State} (h : s.Inv) : NextInv (execSyYield s) := by
  unfold execSyYield
  refine next_finish ?_ h
  refine keeps_bind keeps_drained fun _ => ?_
  refine keeps_bind keeps_noFilling fun _ => ?_
  refine keeps_read fun _ _ => ?_
  extract_lets +onlyGivenNames -underBinder rest
  have hrest : ∀ r, Keeps State.Inv (rest r) := by
    intro r
    exact keeps_pure _
  split
  · exact keeps_bind (keeps_modify (fun _ ht => inv_yieldCrew ht)) fun _ => hrest ()
  · split
    · exact keeps_bind (keeps_modify (fun _ ht => inv_yieldCrew (inv_modCur _ ht))) fun _ => hrest ()
    · split
      · exact keeps_bind keeps_wordIllegal fun _ => hrest ()
      · exact keeps_bind (keeps_modify (fun _ ht => inv_yieldCrew (inv_modCur _ ht))) fun _ => hrest ()

theorem next_execDependencePoll {h} {s : State} (h1 : s.Inv) : NextInv (execDependencePoll h s) :=
  next_event (fun _ ht => inv_poll ht) h1

theorem next_execCompletionWordWrite {h} {s : State} (h1 : s.Inv) : NextInv (execCompletionWordWrite h s) := by
  unfold execCompletionWordWrite
  refine next_event (fun _ ht => ?_) h1
  split
  · exact ht
  · exact inv_ite (inv_pollAll (inv_of_eq (inv_homeWrite ht) rfl rfl)) ht

theorem next_execStrandRestart {part} {s : State} (h : s.Inv) : NextInv (execStrandRestart part s) := by
  unfold execStrandRestart
  refine next_event (fun _ ht => ?_) h
  split
  · exact ht
  · split
    · exact ht
    · exact inv_modStrand (inv_acquireFor (inv_modPart ht))

theorem next_execFaultQueueWrite {part} {s : State} (h : s.Inv) : NextInv (execFaultQueueWrite part s) := by
  unfold execFaultQueueWrite
  refine next_event (fun _ ht => ?_) h
  split
  · exact ht
  · split
    · exact inv_ite ht (inv_fqPut (inv_modPart ht))
    · split
      · exact inv_fqWrite (inv_of_eq ht rfl rfl)
      · exact ht

theorem next_execMirrorDelivery {eff} {s : State} (h : s.Inv) : NextInv (execMirrorDelivery eff s) := by
  unfold execMirrorDelivery
  refine next_event (fun _ ht => ?_) h
  split
  · exact ht
  · split
    · exact inv_ite ht (inv_deliverMirror (inv_of_eq ht rfl rfl))
    · exact ht

end Sys2Proof.Machine
end

section
/-! Effects performed when their time comes, checkpoints, rollback. -/

namespace Sys2Proof.Machine

theorem inv_logTurn {s : State} {uid id ms} (h : s.Inv) : (s.logTurn uid id ms).Inv :=
  inv_ite h (inv_foldl (fun _ _ ht => inv_chargeLog ht) h)

theorem inv_serveEff {s : State} {e} (h : s.Inv) : (s.serveEff e).1.Inv := by
  unfold State.serveEff
  split
  · exact inv_logTurn (inv_landTurn h)
  · exact inv_atomics h
  · exact inv_lockLine (inv_heatUp h)
  · exact inv_unlockLine (inv_heatUp h)
  · exact h

theorem inv_perform {s : State} {e} (h : s.Inv) : (s.perform e).Inv := by
  unfold State.perform
  extract_lets -underBinder
  split
  iterate 4 · exact inv_answer (inv_serveEff h)
  · exact inv_deliverMirror h
  · exact inv_arriveAt h
  · exact inv_releaseXfer h
  · exact inv_reply (inv_acceptLaunch h)
  · exact inv_askToken h
  · exact inv_reply (inv_giveToken h)
  · exact inv_interrupt h
  · exact inv_fqWrite h
  · exact inv_retireStrand h
  · exact inv_publish h
  · exact inv_unsubscribe h
  · exact inv_reply (inv_subscribe h)
  · exact inv_modStrand (inv_heed h)

theorem inv_inject {s : State} {e} (h : s.Inv) : (s.inject e).Inv :=
  inv_of_eq h rfl rfl

theorem inv_releaseDue {s : State} {quad} (h : s.Inv) : (s.releaseDue quad).Inv :=
  inv_foldl (fun _ _ ht => inv_ite (inv_inject ht) (inv_perform ht)) (inv_modQuad h)

theorem next_execPlatformRelease {quad} {s : State} (h : s.Inv) : NextInv (execPlatformRelease quad s) :=
  next_event (fun _ ht => inv_releaseDue ht) h

theorem next_execSpanBoundary {quad} {s : State} (h : s.Inv) : NextInv (execSpanBoundary quad s) :=
  next_event (fun _ ht => inv_ite ht (inv_setQuad ht)) h

theorem inv_undo {c : Ckpt} {s : State} (h : s.Inv) : (c.undo s).Inv := by
  refine ⟨wf_undo c h.1, ?_⟩
  have hk : (c.undo s).flash = s.flash :=
    List.foldlRecOn (motive := fun t : State => t.flash = s.flash) _ _ rfl fun _ ht _ _ => ht
  rw [hk]
  exact h.2

theorem inv_reparkStrand {s : State} {x} (h : s.Inv) : (s.reparkStrand x).Inv :=
  inv_ite (inv_modPart h) (inv_modPart h)

theorem inv_ageMirRecs {s : State} (h : s.Inv) : s.ageMirRecs.Inv :=
  inv_of_eq h rfl rfl

theorem inv_rollTo {s : State} {quad c} (h : s.Inv) : (s.rollTo quad c).Inv := by
  unfold State.rollTo
  refine inv_foldl (fun _ _ ht => ?_)
    (inv_foldl (fun _ _ ht => inv_modStrand ht)
    (inv_foldl (fun _ _ ht => inv_reviveJoins (inv_reparkStrand (inv_modStrand ht)))
    (inv_of_eq (inv_foldl (fun _ _ ht => inv_relaxLines ht)
    (inv_foldl (fun _ _ ht => inv_modCrew ht)
    (inv_foldl (fun _ _ ht => inv_undo ht) (inv_modQuad (inv_ageMirRecs h))))) rfl rfl)))
  exact inv_rejoin ht

theorem inv_strike {s0 : State} {quad} (h : s0.Inv) : (s0.strike quad).Inv := by
  unfold State.strike
  extract_lets -underBinder
  split
  · exact inv_rollTo (inv_releaseDue h)
  · exact inv_foldl (fun _ _ ht => inv_loseCrew ht) (inv_modQuad (inv_of_eq (inv_releaseDue h) rfl rfl))

theorem next_execStrikeReport {quad} {s : State} (h : s.Inv) : NextInv (execStrikeReport quad s) :=
  next_event (fun _ ht => inv_strike ht) h

theorem next_execRollbackComplete {quad} {s : State} (h : s.Inv) : NextInv (execRollbackComplete quad s) :=
  next_event (fun _ ht => inv_modQuad ht) h

end Sys2Proof.Machine
end

section
/-! Slice requests and replies, flushes, bucket moves and retirement on the fabric. -/

namespace Sys2Proof.Machine

theorem inv_modReq {s : State} {id} {f : Req → Req} (h : s.Inv) : (s.modReq id f).Inv :=
  inv_of_eq h rfl rfl

theorem inv_serveReq {s : State} {r} (h : s.Inv) : (s.serveReq r).Inv :=
  inv_modReq (inv_of_eq (inv_serveEff h) rfl rfl)

theorem next_execSliceRequest {req} {s : State} (h : s.Inv) : NextInv (execSliceRequest req s) := by
  unfold execSliceRequest
  refine next_event (fun _ ht => ?_) h
  split
  · exact ht
  · extract_lets -underBinder
    split
    · exact ht
    · split
      · exact inv_modReq (inv_of_eq ht rfl rfl)
      · exact inv_ite (inv_serveReq ht) (inv_modReq (inv_of_eq ht rfl rfl))

theorem inv_serveWaiting {rs held} {s : State} (h : s.Inv) : (State.serveWaiting rs held s).Inv := by
  induction rs generalizing held s with
  | nil => exact h
  | cons r rs ih =>
    unfold State.serveWaiting
    exact inv_ite (ih h) (ih (inv_serveReq h))

theorem next_execSliceFillArrival {line} {s : State} (h : s.Inv) : NextInv (execSliceFillArrival line s) :=
  next_event (fun _ ht => inv_ite (inv_serveWaiting (inv_of_eq ht rfl rfl)) ht) h

theorem inv_flush {s : State} {line} (h : s.Inv) : (s.flush line).Inv :=
  inv_ite (inv_of_eq h rfl rfl) h

theorem inv_endFlush {s : State} {line} (h : s.Inv) : (s.endFlush line).Inv := by
  unfold State.endFlush
  split
  · extract_lets t
    have ht : t.Inv := inv_dropLine (inv_of_eq h rfl rfl)
    exact inv_ite (inv_of_eq ht rfl rfl) ht
  · exact h

theorem next_execRequestRetry {req} {s : State} (h : s.Inv) : NextInv (execRequestRetry req s) := by
  unfold execRequestRetry
  refine next_event (fun _ ht => ?_) h
  split
  · exact ht
  · exact inv_ite ht (inv_modReq ht)

theorem next_execReplyArrival {req} {s : State} (h : s.Inv) : NextInv (execReplyArrival req s) := by
  unfold execReplyArrival
  refine next_event (fun _ ht => ?_) h
  split
  · exact ht
  · split
    · exact inv_ite (inv_answer (inv_of_eq ht rfl rfl)) ht
    · exact ht

theorem next_execStationCombine {passing waiting} {s : State} (h : s.Inv) :
    NextInv (execStationCombine passing waiting s) := by
  unfold execStationCombine
  refine next_event (fun _ ht => ?_) h
  split
  · split
    · split
      · exact ht
      · exact inv_ite (inv_modReq (inv_of_eq ht rfl rfl)) ht
    · exact ht
  · exact ht

theorem next_execReplySplit {req} {s : State} (h : s.Inv) : NextInv (execReplySplit req s) := by
  unfold execReplySplit
  refine next_event (fun s hs => ?_) h
  split
  · exact hs
  · split
    · extract_lets mine t
      have ht : t.Inv := inv_modReq hs
      exact inv_of_eq ht rfl rfl
    · exact hs

theorem next_execFlitCrcFail {segment} {s : State} (h : s.Inv) : NextInv (execFlitCrcFail segment s) :=
  next_event (fun _ ht => inv_ite (inv_of_eq ht rfl rfl) (inv_of_eq ht rfl rfl)) h

theorem next_execSegmentRetire {segment} {s : State} (h : s.Inv) : NextInv (execSegmentRetire segment s) :=
  next_event (fun _ ht => inv_ite ht (inv_of_eq ht rfl rfl)) h

theorem inv_setBucket {s : State} {x} (h : s.Inv) : (s.setBucket x).Inv :=
  inv_of_eq h rfl rfl

theorem next_execBucketMoveStart {bucket slice} {s : State} (h : s.Inv) :
    NextInv (execBucketMoveStart bucket slice s) :=
  next_event (fun _ ht => inv_ite (inv_setBucket (inv_of_eq ht rfl rfl)) ht) h

theorem inv_refetch {s : State} {x} (h : s.Inv) : (s.refetch x).Inv := by
  unfold State.refetch
  extract_lets -underBinder ls s1 s2
  have h1 : s1.Inv := by
    refine inv_ite h ?_
    split
    · exact inv_of_eq h rfl rfl
    · exact h
  have h2 : s2.Inv := by
    refine inv_ite h1 ?_
    split
    · exact inv_dropLine h1
    · exact h1
  exact inv_of_eq h2 rfl rfl

theorem inv_rehome {s : State} {x slice} (h : s.Inv) : (s.rehome x slice).Inv := by
  unfold State.rehome
  refine inv_foldl (fun _ _ ht => ?_) (inv_setBucket (inv_of_eq (inv_foldl (fun _ _ ht => inv_dropLine ht) h) rfl rfl))
  exact inv_refetch ht

theorem next_execBucketMoveFinish {bucket} {s : State} (h : s.Inv) : NextInv (execBucketMoveFinish bucket s) := by
  unfold execBucketMoveFinish
  refine next_event (fun _ ht => ?_) h
  extract_lets -underBinder
  split
  · exact ht
  · exact inv_ite ht (inv_ite (inv_setBucket ht) (inv_rehome ht))

theorem next_execHeatHalving {s : State} (h : s.Inv) : NextInv (execHeatHalving s) :=
  next_event (fun _ ht => inv_ite ht (inv_ite (inv_of_eq ht rfl rfl) (inv_of_eq ht rfl rfl))) h

end Sys2Proof.Machine
end

section
/-! Requests to the lodge: partitions, drives, endpoints and keys; a drive is written as memory is, by `memSetN`. -/

namespace Sys2Proof.Machine

theorem inv_measureFree {s : State} {k} (h : s.Inv) : (s.measureFree k).Inv := inv_of_eq h rfl rfl

theorem inv_bootStep {s : State} {k} (h : s.Inv) : (s.bootStep k).Inv := by
  unfold State.bootStep
  extract_lets +onlyGivenNames -underBinder done
  have hd {t} (ht : t.Inv) : (done t).Inv := inv_of_eq ht rfl rfl
  split
  · exact hd (inv_measureFree h)
  · exact hd (inv_measureFree h)
  · exact hd (inv_foldl (fun _ _ ht => inv_measureFree ht) h)
  · exact hd (inv_measureFree h)
  · exact hd (inv_measureFree h)
  · exact hd h
  · exact hd (inv_measureFree (inv_of_eq h rfl rfl))
  · exact hd (inv_of_eq h rfl rfl)

theorem inv_boot {ks} {s : State} (h : s.Inv) : (State.boot ks s).Inv := by
  induction ks generalizing s with
  | nil => exact h
  | cons k ks ih =>
    unfold State.boot
    extract_lets s1
    have h1 : s1.Inv := inv_ite (inv_of_eq h rfl rfl) h
    split
    · exact inv_of_eq h1 rfl rfl
    · exact inv_ite (inv_of_eq h1 rfl rfl) (ih (inv_bootStep h1))

theorem inv_respond {s : State} {kind tag status detail result} (h : s.Inv) :
    (s.respond kind tag status detail result).Inv :=
  inv_interrupt (inv_of_eq h rfl rfl)

theorem inv_asked {i} {f : State → State × Bool} {s : State} (hf : ∀ t, t.Inv → (f t).1.Inv) (h : s.Inv) :
    (asked i f s).Inv :=
  inv_ite (inv_ite (hf _ h) (inv_of_eq (hf _ h) rfl rfl)) (inv_of_eq h rfl rfl)

theorem inv_served {i} {f : State → State} {s : State} (hf : ∀ t, t.Inv → (f t).Inv) (h : s.Inv) : (served i f s).Inv :=
  inv_asked hf h

theorem inv_whenReady {kind tag} {f : State → State} {s : State} (hf : ∀ t, t.Inv → (f t).Inv) (h : s.Inv) :
    (whenReady kind tag f s).Inv :=
  inv_ite (inv_respond h) (hf _ h)

theorem inv_whenReadyOr {kind tag} {f : State → State × Bool} {s : State} (hf : ∀ t, t.Inv → (f t).1.Inv) (h : s.Inv) :
    (whenReadyOr kind tag f s).1.Inv := by
  unfold whenReadyOr
  split
  · exact inv_respond h
  · exact hf _ h

theorem next_execAttest {tag nonce} {s : State} (h : s.Inv) : NextInv (execAttest tag nonce s) :=
  next_event (fun _ ht => inv_served (fun _ ht1 => inv_respond (inv_freeBytes ht1)) ht) h

theorem next_execStatus {tag} {s : State} (h : s.Inv) : NextInv (execStatus tag s) :=
  next_event (fun _ ht => inv_served (fun _ ht1 => inv_respond ht1) ht) h

theorem next_execExtend {tag slot digest} {s : State} (h : s.Inv) : NextInv (execExtend tag slot digest s) := by
  unfold execExtend
  refine next_event (fun _ ht => ?_) h
  refine inv_served (fun _ ht1 => ?_) ht
  exact inv_whenReady (fun _ ht2 => inv_ite (inv_respond ht2) (inv_respond (inv_of_eq ht2 rfl rfl))) ht1

theorem next_execMalformedRequest {tag kind detail} {s : State} (h : s.Inv) :
    NextInv (execMalformedRequest tag kind detail s) :=
  next_event (fun _ ht => inv_served (fun _ ht1 => inv_ite (inv_respond ht1) (inv_respond ht1)) ht) h

theorem inv_clearQuad {s : State} {q} (h : s.Inv) : (s.clearQuad q).Inv :=
  inv_modQuadAll h

theorem inv_freePart {s : State} {p} (h : s.Inv) : (s.freePart p).Inv :=
  inv_of_eq h rfl rfl

theorem inv_setPart {s : State} {b} (h : s.Inv) : (s.setPart b).Inv := by
  unfold State.setPart
  extract_lets -underBinder
  refine inv_relaxLines ?_
  refine inv_freePart ?_
  refine inv_foldl (fun _ _ ht => ?_)
    (inv_foldl (fun _ _ ht => inv_modQuad ht)
    (inv_of_eq (inv_endSubs (inv_foldl (fun _ _ ht => inv_unbind ht) h)) rfl rfl))
  exact inv_modQuad (inv_clearQuad ht)

theorem next_execPartitionSet {tag body} {s : State} (h : s.Inv) : NextInv (execPartitionSet tag body s) := by
  unfold execPartitionSet
  refine next_event (fun _ ht => ?_) h
  refine inv_served (fun _ ht1 => ?_) ht
  refine inv_whenReady (fun _ ht2 => ?_) ht1
  extract_lets -underBinder
  split
  · exact inv_respond ht2
  · split
    · exact inv_respond ht2
    · exact inv_respond (inv_setPart ht2)

theorem next_execPartitionLend {tag part borrower quads} {s : State} (h : s.Inv) :
    NextInv (execPartitionLend tag part borrower quads s) := by
  unfold execPartitionLend
  refine next_event (fun _ ht => ?_) h
  refine inv_served (fun _ ht1 => ?_) ht
  refine inv_whenReady (fun _ ht2 => ?_) ht1
  split
  · exact inv_respond ht2
  · split
    · exact inv_respond ht2
    · extract_lets -underBinder
      refine inv_respond ?_
      exact inv_modPart (inv_modPart (inv_foldl (fun _ _ ht3 => inv_modQuad (inv_clearQuad (inv_spillDepot ht3))) ht2))
  · exact inv_respond ht2

theorem next_execPartitionRecall {tag part borrower quads} {s : State} (h : s.Inv) :
    NextInv (execPartitionRecall tag part borrower quads s) := by
  unfold execPartitionRecall
  refine next_event (fun _ ht => ?_) h
  refine inv_asked (fun _ ht1 => ?_) ht
  refine inv_whenReadyOr (fun _ ht2 => ?_) ht1
  split
  · exact inv_respond ht2
  · split
    · exact inv_respond ht2
    · extract_lets -underBinder
      split
      · exact inv_saveStopped (inv_foldl (fun _ _ ht3 => inv_ite ht3 (inv_takeCrew ht3)) ht2)
      · refine inv_respond ?_
        refine inv_modPart ?_
        refine inv_modPart ?_
        refine inv_foldl (fun _ _ ht3 => ?_)
          (inv_saveStopped (inv_foldl (fun _ _ ht3 => inv_ite ht3 (inv_takeCrew ht3)) ht2))
        exact inv_modQuad (inv_clearQuad (inv_spillDepot ht3))

theorem next_execStart {tag part lpb} {s : State} (h : s.Inv) : NextInv (execStart tag part lpb s) := by
  unfold execStart
  refine next_event (fun _ ht => ?_) h
  refine inv_served (fun _ ht1 => ?_) ht
  refine inv_whenReady (fun _ ht2 => ?_) ht1
  split
  · exact inv_respond ht2
  · split
    · exact inv_respond ht2
    · split
      · exact inv_respond ht2
      · exact inv_ite (inv_respond ht2)
          (inv_ite (inv_respond (inv_acceptLaunch ht2)) (inv_respond (inv_acceptLaunch ht2)))

theorem inv_driveWrite {s : State} {ssd nsid slba off bytes} (h : s.Inv) :
    (s.driveWrite ssd nsid slba off bytes).Inv := by
  obtain ⟨hm, hf⟩ := h
  exact inv_ite ⟨hm, hf⟩ ⟨hm, wf_memSetN bytes _ hf⟩

theorem next_execRegister {tag part ssd raw nsid slba} {s : State} (h : s.Inv) :
    NextInv (execRegister tag part ssd raw nsid slba s) := by
  unfold execRegister
  refine next_event (fun _ ht => inv_served (fun _ hu => inv_whenReady (fun s hs => ?_) hu) ht) h
  dsimp only
  split
  · exact inv_respond hs
  · refine inv_ite (inv_respond hs) ?_
    split
    · exact inv_respond hs
    · exact inv_respond (inv_of_eq hs rfl rfl)

theorem next_execUnregister {tag handle} {s : State} (h : s.Inv) : NextInv (execUnregister tag handle s) := by
  unfold execUnregister
  refine next_event (fun _ ht => ?_) h
  refine inv_asked (fun _ ht1 => ?_) ht
  refine inv_whenReadyOr (fun _ ht2 => ?_) ht1
  split
  · exact inv_respond ht2
  · split
    · exact ht2
    · exact inv_respond (inv_of_eq ht2 rfl rfl)

theorem inv_withPart {kind tag part} {f : State → State} {s : State} (hf : ∀ t, t.Inv → (f t).Inv) (h : s.Inv) :
    (withPart kind tag part f s).Inv :=
  inv_ite (hf _ h) (inv_respond h)

theorem next_execEndpointSet {tag part idx ep} {s : State} (h : s.Inv) :
    NextInv (execEndpointSet tag part idx ep s) := by
  unfold execEndpointSet
  refine next_event (fun _ ht => ?_) h
  refine inv_served (fun _ ht1 => ?_) ht
  refine inv_whenReady (fun _ ht2 => ?_) ht1
  exact inv_withPart (fun _ ht3 => inv_ite (inv_respond ht3) (inv_respond (inv_modPart ht3))) ht2

theorem next_execEndpointClear {tag part idx} {s : State} (h : s.Inv) : NextInv (execEndpointClear tag part idx s) := by
  unfold execEndpointClear
  refine next_event (fun _ ht => ?_) h
  refine inv_asked (fun _ ht1 => ?_) ht
  refine inv_whenReadyOr (fun _ ht2 => ?_) ht1
  split
  · exact inv_respond ht2
  · split
    · exact inv_respond ht2
    · split
      · exact ht2
      · exact inv_respond (inv_modPart ht2)

theorem next_execGrant {tag part idx gr} {s : State} (h : s.Inv) : NextInv (execGrant tag part idx gr s) := by
  unfold execGrant
  refine next_event (fun _ ht => ?_) h
  refine inv_served (fun _ ht1 => ?_) ht
  refine inv_whenReady (fun _ ht2 => ?_) ht1
  exact inv_withPart (fun _ ht3 => inv_ite (inv_respond ht3) (inv_respond (inv_modPart ht3))) ht2

theorem next_execRevoke {tag part idx} {s : State} (h : s.Inv) : NextInv (execRevoke tag part idx s) := by
  unfold execRevoke
  refine next_event (fun _ ht => ?_) h
  refine inv_served (fun _ ht1 => ?_) ht
  refine inv_whenReady (fun _ ht2 => ?_) ht1
  exact inv_withPart (fun _ ht3 => inv_ite (inv_respond ht3) (inv_respond (inv_modPart ht3))) ht2

theorem next_execLocalAddress {tag port mac addr6} {s : State} (h : s.Inv) :
    NextInv (execLocalAddress tag port mac addr6 s) := by
  unfold execLocalAddress
  refine next_event (fun _ ht => ?_) h
  refine inv_served (fun _ ht1 => ?_) ht
  exact inv_whenReady (fun _ ht2 => inv_ite (inv_respond ht2) (inv_respond (inv_modPort ht2))) ht1

theorem inv_newKey {s : State} {kid} (h : s.Inv) : (s.newKey kid).Inv :=
  inv_of_eq (inv_foldl (fun _ _ ht => inv_memWrite (inv_freeBytes ht)) h) rfl rfl

theorem next_execKeyGenerate {tag keyid} {s : State} (h : s.Inv) : NextInv (execKeyGenerate tag keyid s) := by
  unfold execKeyGenerate
  refine next_event (fun _ ht => ?_) h
  refine inv_served (fun _ ht1 => ?_) ht
  exact inv_whenReady (fun _ ht2 => inv_ite (inv_respond ht2) (inv_respond (inv_newKey ht2))) ht1

theorem next_execKeyBind {tag keyid hslot base len} {s : State} (h : s.Inv) :
    NextInv (execKeyBind tag keyid hslot base len s) := by
  unfold execKeyBind
  refine next_event (fun _ ht => ?_) h
  refine inv_served (fun _ ht1 => ?_) ht
  refine inv_whenReady (fun _ ht2 => ?_) ht1
  exact inv_ite (inv_respond ht2) (inv_ite (inv_respond ht2) (inv_respond (inv_of_eq ht2 rfl rfl)))

theorem next_execKeyUnbind {tag hslot} {s : State} (h : s.Inv) : NextInv (execKeyUnbind tag hslot s) := by
  unfold execKeyUnbind
  refine next_event (fun _ ht => ?_) h
  refine inv_served (fun _ ht1 => ?_) ht
  exact inv_whenReady (fun _ ht2 => inv_ite (inv_respond ht2) (inv_respond (inv_of_eq ht2 rfl rfl))) ht1

theorem inv_barWrite {s : State} {off bytes} (h : s.Inv) : (s.barWrite off bytes).1.Inv := by
  unfold State.barWrite
  extract_lets -underBinder
  split
  · exact inv_of_eq h rfl rfl
  · split
    · split
      · exact inv_of_eq h rfl rfl
      · exact inv_whenReady (fun _ ht => inv_respond ht) (inv_of_eq h rfl rfl)
    · exact h

theorem inv_barRead {s : State} {off n} (h : s.Inv) : (s.barRead off n).Inv :=
  inv_of_eq h rfl rfl

theorem next_run {r : Request} {s : State} (h : s.Inv) : NextInv (r.run s) := by
  cases r with
  | attest => exact next_execAttest h
  | partitionSet => exact next_execPartitionSet h
  | partitionLend => exact next_execPartitionLend h
  | partitionRecall => exact next_execPartitionRecall h
  | register => exact next_execRegister h
  | unregister => exact next_execUnregister h
  | status => exact next_execStatus h
  | extend => exact next_execExtend h
  | start => exact next_execStart h
  | endpointSet => exact next_execEndpointSet h
  | endpointClear => exact next_execEndpointClear h
  | grant => exact next_execGrant h
  | revoke => exact next_execRevoke h
  | localAddress => exact next_execLocalAddress h
  | keyGenerate => exact next_execKeyGenerate h
  | keyBind => exact next_execKeyBind h
  | keyUnbind => exact next_execKeyUnbind h
  | malformed => exact next_execMalformedRequest h

theorem next_execDroopTrip {island} {s : State} (h : s.Inv) : NextInv (execDroopTrip island s) :=
  next_event (fun _ ht => inv_ite (inv_of_eq ht rfl rfl) ht) h

theorem next_execDroopClear {island} {s : State} (h : s.Inv) : NextInv (execDroopClear island s) :=
  next_event (fun _ ht => inv_of_eq ht rfl rfl) h

theorem inv_clearOut {s : State} {quad all} (h : s.Inv) : (s.clearOut quad all).Inv :=
  inv_foldl (fun _ _ ht => inv_takeCrew ht) h

theorem next_execQuadAgingFlag {quad} {s : State} (h : s.Inv) : NextInv (execQuadAgingFlag quad s) :=
  next_event (fun _ ht => inv_ite (inv_clearOut (inv_modQuad ht)) ht) h

theorem next_execNoprePreemptTimeout {quad} {s : State} (h : s.Inv) : NextInv (execNoprePreemptTimeout quad s) :=
  next_event (fun _ ht => inv_ite (inv_clearOut ht) ht) h

theorem next_execQuadSpareCopy {quad} {s : State} (h : s.Inv) : NextInv (execQuadSpareCopy quad s) :=
  next_event (fun _ ht => inv_ite (inv_of_eq (inv_setQuad ht) rfl rfl) ht) h

theorem next_execSliceRetire {slice spare} {s : State} (h : s.Inv) : NextInv (execSliceRetire slice spare s) := by
  unfold execSliceRetire
  refine next_event (fun s hs => ?_) h
  extract_lets +onlyGivenNames -underBinder bs
  split
  · exact hs
  · extract_lets s1 t
    have ht : t.Inv := inv_foldl (fun _ _ hu => inv_rehome hu) (inv_of_eq hs rfl rfl)
    clear_value t
    exact inv_of_eq ht rfl rfl

theorem next_execLaneReplace {link lane} {s : State} (h : s.Inv) : NextInv (execLaneReplace link lane s) := by
  unfold execLaneReplace
  refine next_event (fun _ ht => ?_) h
  split
  · exact ht
  · exact inv_ite ht (inv_of_eq ht rfl rfl)

theorem next_execHbmRowRepair {base len} {s : State} (h : s.Inv) : NextInv (execHbmRowRepair base len s) :=
  next_event (fun _ ht => inv_ite ht (inv_of_eq (inv_foldl (fun _ _ ht1 => inv_dropLine ht1) ht) rfl rfl)) h

theorem next_execModuleReset {s : State} (h : s.Inv) : NextInv (execModuleReset s) := by
  refine next_event (fun s hs => ?_) h
  obtain ⟨hm, hf⟩ := hs
  exact inv_boot ⟨wf_filter _ hm, hf⟩

end Sys2Proof.Machine
end

section
/-! Every instruction keeps the canonical form, by cases on the instruction. -/

namespace Sys2Proof.Machine

theorem next_exec {i : Instr} {s : State} (h : s.Inv) : NextInv (exec i s) := by
  cases i with
  | iaAdd => exact next_finish keeps_alu2 h
  | iaSub => exact next_finish keeps_alu2 h
  | iaMul => exact next_finish keeps_alu2 h
  | iaMulh => exact next_finish keeps_alu2 h
  | iaMulhu => exact next_finish keeps_alu2 h
  | iaDiv => exact next_finish keeps_alu2 h
  | iaDivu => exact next_finish keeps_alu2 h
  | iaRem => exact next_finish keeps_alu2 h
  | iaRemu => exact next_finish keeps_alu2 h
  | iaAnd => exact next_finish keeps_alu2 h
  | iaOr => exact next_finish keeps_alu2 h
  | iaXor => exact next_finish keeps_alu2 h
  | iaAndn => exact next_finish keeps_alu2 h
  | iaShl => exact next_finish keeps_alu2 h
  | iaShr => exact next_finish keeps_alu2 h
  | iaSra => exact next_finish keeps_alu2 h
  | iaRol => exact next_finish keeps_alu2 h
  | iaSlt => exact next_finish keeps_alu2 h
  | iaSltu => exact next_finish keeps_alu2 h
  | iaMin => exact next_finish keeps_alu2 h
  | iaMax => exact next_finish keeps_alu2 h
  | iaMinu => exact next_finish keeps_alu2 h
  | iaMaxu => exact next_finish keeps_alu2 h
  | iaClz => exact next_finish keeps_alu1 h
  | iaCtz => exact next_finish keeps_alu1 h
  | iaPopc => exact next_finish keeps_alu1 h
  | iaSext => exact next_finish keeps_alu1 h
  | iaZext => exact next_finish keeps_alu1 h
  | iiAdd => exact next_finish keeps_alu1 h
  | iiAnd => exact next_finish keeps_alu1 h
  | iiOr => exact next_finish keeps_alu1 h
  | iiXor => exact next_finish keeps_alu1 h
  | iiSlt => exact next_finish keeps_mIiSlt h
  | iiSltu => exact next_finish keeps_mIiSltu h
  | iiShl => exact next_execIiShl h
  | iiShr => exact next_execIiShr h
  | iiSra => exact next_execIiSra h
  | luHi => exact next_finish keeps_mLuHi h
  | laPc => exact next_execLaPc h
  | brEq => exact next_finish keeps_branch h
  | brNe => exact next_finish keeps_branch h
  | brLt => exact next_finish keeps_mBrLt h
  | brGe => exact next_finish keeps_mBrGe h
  | brLtu => exact next_finish keeps_mBrLtu h
  | brGeu => exact next_finish keeps_mBrGeu h
  | jl => exact next_execJl h
  | jr => exact next_execJr h
  | lpL0 => exact next_finish keeps_loopStart h
  | lpL1 => exact next_finish keeps_loopStart h
  | ldB => exact next_finishK keeps_loadOp h
  | ldBu => exact next_finishK keeps_loadOp h
  | ldH => exact next_finishK keeps_loadOp h
  | ldHu => exact next_finishK keeps_loadOp h
  | ldW => exact next_finishK keeps_loadOp h
  | ldWu => exact next_finishK keeps_loadOp h
  | ldD => exact next_finishK keeps_loadOp h
  | ldBP => exact next_finishK keeps_probeOp h
  | ldBuP => exact next_finishK keeps_probeOp h
  | ldHP => exact next_finishK keeps_probeOp h
  | ldHuP => exact next_finishK keeps_probeOp h
  | ldWP => exact next_finishK keeps_probeOp h
  | ldWuP => exact next_finishK keeps_probeOp h
  | ldDP => exact next_finishK keeps_probeOp h
  | stB => exact next_finishK keeps_storeOp h
  | stH => exact next_finishK keeps_storeOp h
  | stW => exact next_finishK keeps_storeOp h
  | stD => exact next_finishK keeps_storeOp h
  | fsAdd => exact next_finish keeps_fsTwo h
  | fsSub => exact next_finish keeps_fsTwo h
  | fsMul => exact next_finish keeps_fsTwo h
  | fsDiv => exact next_finish keeps_fsTwo h
  | fsSqrt => exact next_finish keeps_mFsSqrt h
  | fsFma => exact next_finish keeps_mFsFma h
  | fsMin => exact next_finish keeps_mFsMin h
  | fsMax => exact next_finish keeps_mFsMax h
  | fsEq => exact next_finish keeps_fsCmp h
  | fsLt => exact next_finish keeps_fsCmp h
  | fsLe => exact next_finish keeps_fsCmp h
  | fsCvti => exact next_finish keeps_mFsCvti h
  | fsCvtf => exact next_finish keeps_mFsCvtf h
  | fsCls => exact next_finish keeps_mFsCls h
  | fsCvt => exact next_finish keeps_mFsCvt h
  | qPush => exact next_execQPush h
  | qPop => exact next_execQPop h
  | qCnt => exact next_execQCnt h
  | mdSet => exact next_execMdSet h
  | mrPut => exact next_execMrPut h
  | mrGet => exact next_execMrGet h
  | syRd => exact next_execSyRd h
  | syWr => exact next_execSyWr h
  | syTrap => exact next_execSyTrap h
  | syTime => exact next_execSyTime h
  | syTlbinv => exact next_execSyTlbinv h
  | syPgreq => exact next_execSyPgreq h
  | syResume => exact next_execSyResume h
  | syCtxsave => exact next_execSyCtxsave h
  | syCtxrest => exact next_execSyCtxrest h
  | syHalt => exact next_execSyHalt h
  | syIntr => exact next_execSyIntr h
  | brk => exact next_execBrk h
  | vaAdd => exact next_finish keeps_vaForm h
  | vaSub => exact next_finish keeps_vaForm h
  | vaMul => exact next_finish keeps_vaForm h
  | vaMulh => exact next_finish keeps_vaForm h
  | vaFma => exact next_finish keeps_vaForm h
  | vaFms => exact next_finish keeps_vaForm h
  | vaFnma => exact next_finish keeps_vaForm h
  | vaDiv => exact next_finish keeps_vaForm h
  | vaSqrt => exact next_finish keeps_vaForm h
  | vaRsqrt => exact next_finish keeps_vaForm h
  | vaRecip => exact next_finish keeps_vaForm h
  | vaExp2 => exact next_finish keeps_vaForm h
  | vaLog2 => exact next_finish keeps_vaForm h
  | vaMin => exact next_finish keeps_vaForm h
  | vaMax => exact next_finish keeps_vaForm h
  | vaAbs => exact next_finish keeps_vaForm h
  | vaNeg => exact next_finish keeps_vaForm h
  | vaAnd => exact next_finish keeps_vaForm h
  | vaOr => exact next_finish keeps_vaForm h
  | vaXor => exact next_finish keeps_vaForm h
  | vaShl => exact next_finish keeps_vaForm h
  | vaShr => exact next_finish keeps_vaForm h
  | vaSra => exact next_finish keeps_vaForm h
  | vaCvt => exact next_execVaCvt h
  | vaMulw => exact next_execVaMulw h
  | vaDotw => exact next_execVaDotw h
  | vaClip => exact next_finish keeps_vaForm h
  | vmEq => exact next_finish keeps_vmCompare h
  | vmNe => exact next_finish keeps_vmCompare h
  | vmLt => exact next_finish keeps_vmCompare h
  | vmLe => exact next_finish keeps_vmCompare h
  | vmGt => exact next_finish keeps_vmCompare h
  | vmGe => exact next_finish keeps_vmCompare h
  | vmUnord => exact next_finish keeps_vmCompare h
  | vmAnd => exact next_finish keeps_vmLogic h
  | vmOr => exact next_finish keeps_vmLogic h
  | vmXor => exact next_finish keeps_vmLogic h
  | vmAndn => exact next_finish keeps_vmLogic h
  | vmNot => exact next_finish keeps_vmLogic h
  | vmPop => exact next_execVmPop h
  | vmFirst => exact next_execVmFirst h
  | vmFill => exact next_execVmFill h
  | vpMv => exact next_execVpMv h
  | vpBcast => exact next_execVpBcast h
  | vpIota => exact next_execVpIota h
  | vpSlup => exact next_execVpSlup h
  | vpSldn => exact next_execVpSldn h
  | vpPerm => exact next_execVpPerm h
  | vpCompress => exact next_execVpCompress h
  | vpSel => exact next_execVpSel h
  | vpRsum => exact next_execVpRsum h
  | vpRmax => exact next_finish keeps_reduceExt h
  | vpRmin => exact next_finish keeps_reduceExt h
  | vpExt => exact next_execVpExt h
  | vpIns => exact next_execVpIns h
  | vlSet => exact next_execVlSet h
  | vlGet => exact next_execVlGet h
  | vfGo => exact next_execVfGo h
  | vldU => exact next_finishK keeps_vldForm h
  | vldS => exact next_finishK keeps_vldForm h
  | vldX => exact next_finishK keeps_vldForm h
  | vstU => exact next_finishK keeps_vstForm h
  | vstS => exact next_finishK keeps_vstForm h
  | vstX => exact next_finishK keeps_vstForm h
  | vbDecl => exact next_execVbDecl h
  | vbLd => exact next_execVbLd h
  | vbTake => exact next_execVbTake h
  | vbFree => exact next_execVbFree h
  | mxShape => exact next_execMxShape h
  | mxZero => exact next_execMxZero h
  | mxOpa => exact next_finish keeps_opaForm h
  | mxOpaSa => exact next_finish keeps_opaForm h
  | mxOpaSb => exact next_finish keeps_opaForm h
  | mxOpaSs => exact next_finish keeps_opaForm h
  | mxRd => exact next_execMxRd h
  | mxWr => exact next_execMxWr h
  | mxLd => exact next_execMxLd h
  | mxSt => exact next_execMxSt h
  | mxWait => exact next_execMxWait h
  | mxCvt => exact next_execMxCvt h
  | tnDef => exact next_execTnDef h
  | tnInv => exact next_execTnInv h
  | tnRd => exact next_execTnRd h
  | tnTld => exact next_execTnTld h
  | tnTst => exact next_execTnTst h
  | tnPack => exact next_execTnPack h
  | tnUnpack => exact next_execTnUnpack h
  | trTurn => exact next_execTrTurn h
  | trInval => exact next_execTrInval h
  | trAcq => exact next_execTrAcq h
  | trRel => exact next_execTrRel h
  | trRetain => exact next_execTrRetain h
  | trUnpin => exact next_execTrUnpin h
  | trLock => exact next_execTrLock h
  | trUnlock => exact next_execTrUnlock h
  | atAdd => exact next_finishK keeps_atForm h
  | atAnd => exact next_finishK keeps_atForm h
  | atOr => exact next_finishK keeps_atForm h
  | atXor => exact next_finishK keeps_atForm h
  | atMin => exact next_finishK keeps_atForm h
  | atMax => exact next_finishK keeps_atForm h
  | atMinu => exact next_finishK keeps_atForm h
  | atMaxu => exact next_finishK keeps_atForm h
  | atSwap => exact next_finishK keeps_atForm h
  | atCas => exact next_finishK keeps_atForm h
  | atFadd => exact next_finishK keeps_atForm h
  | atFmin => exact next_finishK keeps_atForm h
  | atFmax => exact next_finishK keeps_atForm h
  | vatAdd => exact next_finishK keeps_vatForm h
  | vatAnd => exact next_finishK keeps_vatForm h
  | vatOr => exact next_finishK keeps_vatForm h
  | vatXor => exact next_finishK keeps_vatForm h
  | vatMin => exact next_finishK keeps_vatForm h
  | vatMax => exact next_finishK keeps_vatForm h
  | vatMinu => exact next_finishK keeps_vatForm h
  | vatMaxu => exact next_finishK keeps_vatForm h
  | vatSwap => exact next_finishK keeps_vatForm h
  | vatFadd => exact next_finishK keeps_vatForm h
  | vatFmin => exact next_finishK keeps_vatForm h
  | vatFmax => exact next_finishK keeps_vatForm h
  | cfTsb => exact next_execCfTsb h
  | cfTst => exact next_execCfTst h
  | cfClr => exact next_execCfClr h
  | cfRd => exact next_execCfRd h
  | cfWr => exact next_execCfWr h
  | cfArrive => exact next_execCfArrive h
  | cfWait => exact next_execCfWait h
  | cfSync => exact next_execCfSync h
  | cfTwait => exact next_execCfTwait h
  | cfCfg => exact next_execCfCfg h
  | cpSet => exact next_execCpSet h
  | cpGo => exact next_execCpGo h
  | cpWait => exact next_execCpWait h
  | cpMask => exact next_execCpMask h
  | cpCbacq => exact next_execCpCbacq h
  | cpCbrel => exact next_execCpCbrel h
  | cpCbcfg => exact next_execCpCbcfg h
  | cpStat => exact next_execCpStat h
  | xrRed => exact next_execXrRed h
  | xrPub => exact next_execXrPub h
  | xrSub => exact next_execXrSub h
  | xrWaitv => exact next_execXrWaitv h
  | lnGo => exact next_execLnGo h
  | lnStat => exact next_execLnStat h
  | illegalWord => exact next_execIllegalWord h
  | syEret => exact next_execSyEret h
  | syFenceAll => exact next_execSyFenceAll h
  | syFenceLd => exact next_execSyFenceLd h
  | syFenceSt => exact next_execSyFenceSt h
  | syFenceVec => exact next_execSyFenceVec h
  | syFenceEng => exact next_execSyFenceEng h
  | syFenceMat => exact next_execSyFenceMat h
  | syEnd => exact next_execSyEnd h
  | syYield => exact next_execSyYield h
  | vfEnd => exact next_execVfEnd h
  | qdeadlockDetect => exact next_execQdeadlockDetect h
  | modeWrite => exact next_execModeWrite h
  | stsWrite => exact next_execStsWrite h
  | flagsWrite => exact next_execFlagsWrite h
  | seedWrite => exact next_execSeedWrite h
  | lendWrite => exact next_execLendWrite h
  | ecauseWrite => exact next_execEcauseWrite h
  | tshapeWrite => exact next_execTshapeWrite h
  | fqtailWrite => exact next_execFqtailWrite h
  | stripFilled => exact next_execStripFilled h
  | tokenGrant => exact next_execTokenGrant h
  | twaitTimeout => exact next_execTwaitTimeout h
  | barrierPhaseDelivery => exact next_execBarrierPhaseDelivery h
  | transferStart => exact next_execTransferStart h
  | chunkComplete => exact next_execChunkComplete h
  | flashBlockCheck => exact next_execFlashBlockCheck h
  | collectiveMessage => exact next_execCollectiveMessage h
  | waitvRecheck => exact next_execWaitvRecheck h
  | crewPlace => exact next_execCrewPlace h
  | schedulerPreempt => exact next_execSchedulerPreempt h
  | crewRestore => exact next_execCrewRestore h
  | dependencePoll => exact next_execDependencePoll h
  | completionWordWrite => exact next_execCompletionWordWrite h
  | strandRestart => exact next_execStrandRestart h
  | faultQueueWrite => exact next_execFaultQueueWrite h
  | mirrorDelivery => exact next_execMirrorDelivery h
  | spanBoundary => exact next_execSpanBoundary h
  | platformRelease => exact next_execPlatformRelease h
  | strikeReport => exact next_execStrikeReport h
  | rollbackComplete => exact next_execRollbackComplete h
  | sliceRequest => exact next_execSliceRequest h
  | requestRetry => exact next_execRequestRetry h
  | sliceFillArrival => exact next_execSliceFillArrival h
  | stationCombine => exact next_execStationCombine h
  | replySplit => exact next_execReplySplit h
  | flitCrcFail => exact next_execFlitCrcFail h
  | segmentRetire => exact next_execSegmentRetire h
  | bucketMoveStart => exact next_execBucketMoveStart h
  | bucketMoveFinish => exact next_execBucketMoveFinish h
  | heatHalving => exact next_execHeatHalving h
  | hostRead => exact next_execHostRead h
  | hostWrite => exact next_execHostWrite h
  | msixUnmask => exact next_execMsixUnmask h
  | datagramData => exact next_execDatagramData h
  | datagramSignal => exact next_execDatagramSignal h
  | datagramAck => exact next_execDatagramAck h
  | datagramRefusal => exact next_execDatagramRefusal h
  | datagramRetransmit => exact next_execDatagramRetransmit h
  | frameDrop => exact next_execFrameDrop h
  | pauseFrame => exact next_execPauseFrame h
  | droopTrip => exact next_execDroopTrip h
  | droopClear => exact next_execDroopClear h
  | quadAgingFlag => exact next_execQuadAgingFlag h
  | noprePreemptTimeout => exact next_execNoprePreemptTimeout h
  | quadSpareCopy => exact next_execQuadSpareCopy h
  | moduleReset => exact next_execModuleReset h
  | attest => exact next_execAttest h
  | partitionSet => exact next_execPartitionSet h
  | partitionLend => exact next_execPartitionLend h
  | partitionRecall => exact next_execPartitionRecall h
  | register => exact next_execRegister h
  | unregister => exact next_execUnregister h
  | status => exact next_execStatus h
  | extend => exact next_execExtend h
  | start => exact next_execStart h
  | endpointSet => exact next_execEndpointSet h
  | endpointClear => exact next_execEndpointClear h
  | grant => exact next_execGrant h
  | revoke => exact next_execRevoke h
  | localAddress => exact next_execLocalAddress h
  | keyGenerate => exact next_execKeyGenerate h
  | keyBind => exact next_execKeyBind h
  | keyUnbind => exact next_execKeyUnbind h
  | malformedRequest => exact next_execMalformedRequest h
  | replyArrival => exact next_execReplyArrival h
  | subscriptionRegistration => exact next_execSubscriptionRegistration h
  | publicationDelivery => exact next_execPublicationDelivery h
  | subscriberDrop => exact next_execSubscriberDrop h
  | sliceRetire => exact next_execSliceRetire h
  | laneReplace => exact next_execLaneReplace h
  | hbmRowRepair => exact next_execHbmRowRepair h
  | nvmeError => exact next_execNvmeError h

end Sys2Proof.Machine
end

section
/-! The strands' steps, and the moves of the fabric, the quadrants and the scheduler: whichever is tried, it keeps the canonical form. -/

namespace Sys2Proof.Machine

theorem inv_drainByte {s : State} {core key} (h : s.Inv) : (s.drainByte core key).Inv := by
  unfold State.drainByte
  extract_lets -underBinder
  split
  · exact inv_drainCore h
  · exact inv_drainHome h

theorem inv_spoilQuad {s : State} {key} (h : s.Inv) : (s.spoilQuad key).Inv :=
  inv_modQ _ h

theorem next_runWordAt {w} {s : State} (h : s.Inv) : NextInv (runWordAt w s) := by
  unfold runWordAt
  split
  · exact next_exec h
  · exact next_execIllegalWord h

theorem next_frontStep {s : State} (h : s.Inv) : NextInv (frontStep s) := by
  unfold frontStep
  extract_lets -underBinder
  split
  next t1 e =>
    have ht1 := keeps_run_ok keeps_fetchWord (inv_modCur _ h) e
    exact next_runWordAt ht1
  next t1 e =>
    have ht1 := keeps_run_error keeps_fetchWord (inv_modCur _ h) e
    exact next_next (inv_stopFrom (inv_modCur _ h) ht1)

theorem next_streamStep {k} {s : State} (h : s.Inv) : NextInv (streamStep k s) := by
  unfold streamStep
  extract_lets +onlyGivenNames -underBinder s1
  have h1 : s1.Inv := inv_modCur _ (inv_enterStream h)
  split
  · exact next_next h
  · split
    next t e =>
      have ht := next_inv (next_exec h1) e
      exact next_ite (next_next (inv_modCur _ ht)) (next_next ht)
    next => exact next_fault _
    next => exact next_refused _

theorem next_strandStep {s : State} (h : s.Inv) : NextInv (strandStep s) := by
  unfold strandStep
  split
  · split
    · exact next_ite (next_streamStep h) (next_streamStep h)
    · exact next_frontStep h
  · exact next_streamStep h
  · exact next_streamStep h
  · exact next_frontStep h

theorem inv_mirrorTrap {s : State} {unit_ index} (h : s.Inv) : (s.mirrorTrap unit_ index).Inv := by
  unfold State.mirrorTrap
  extract_lets +onlyGivenNames -underBinder s1 elt trap
  have h1 : s1.Inv := by
    unfold s1
    split
    · exact inv_unwind h
    · exact h
  have htrap {t} (ht : t.Inv) : (trap t).Inv := inv_trapEntry ht
  split
  · exact htrap h1
  · split
    next t e =>
      have ht := next_inv (next_exec (inv_modCur _ h1)) e
      exact inv_ite h (inv_ite (inv_modSc _ ht) (htrap (inv_modSc _ ht)))
    next => exact h

theorem inv_halvesDiffer {s : State} {unit_ index} (h : s.Inv) : (s.halvesDiffer unit_ index).Inv :=
  inv_ite h (inv_ite (inv_mirrorTrap (inv_ageMirRecs h)) (inv_strike (inv_of_eq (inv_ageMirRecs h) rfl rfl)))

theorem inv_tryHead {k} {s t : State} (h : s.Inv) (e : tryHead k s = some t) : t.Inv := by
  unfold tryHead at e
  split at e
  next u r =>
    have hu := next_inv (next_streamStep h) r
    dsimp only at e
    split at e
    · cases e
    · cases e
      exact inv_modCur _ hu
  next => cases e

theorem inv_drainHeads {s t : State} (h : s.Inv) (e : drainHeads s = some t) : t.Inv := by
  have ho {k k'} (e : (tryHead k s).orElse (fun _ => tryHead k' s) = some t) : t.Inv := by
    cases ek : tryHead k s with
    | none => exact inv_tryHead h (by rwa [ek] at e)
    | some u =>
      rw [ek] at e
      cases e
      exact inv_tryHead h ek
  unfold drainHeads at e
  dsimp only at e
  split at e
  · split at e
    · exact ho e
    · exact ho e
  · exact inv_tryHead h e
  · exact inv_tryHead h e
  · cases e

theorem inv_endCur {s : State} (h : s.Inv) : s.endCur.Inv := by
  unfold State.endCur
  dsimp only
  refine inv_ite (inv_withdrawReqs h) ?_
  split
  next t e => exact inv_drainHeads h e
  · refine inv_ite h ?_
    split
    · exact inv_unwind h
    · exact inv_ite h (inv_ite (inv_turnAllHome h) (inv_ite h (inv_ite (inv_writeOut h) (inv_endFaulted h))))

theorem inv_completeCur {s : State} (h : s.Inv) : s.completeCur.Inv := by
  unfold State.completeCur
  split
  · split
    · exact h
    · split
      next t1 e =>
        have ht1 := next_inv (next_frontStep h) e
        exact inv_modCur _ ht1
      · exact h
  · exact h

theorem inv_stoppedMoves {s : State} : ∀ f ∈ stoppedMoves s, ∀ t, t.Inv → (f t).Inv := by
  intro f hf t ht
  obtain ⟨x, -, hx⟩ := List.mem_filterMap.1 hf
  split at hx
  · cases hx
  · split at hx
    · cases hx
      exact inv_as (fun _ h => inv_endCur h) ht
    · split at hx
      · cases hx
        exact inv_as (fun _ h => inv_completeCur h) ht
      · cases hx

theorem inv_happen {f : State → Host.Outcome State Fault Refusal} {s : State} (hf : ∀ t, t.Inv → NextInv (f t))
    (h : s.Inv) :
    (happen f s).Inv := by
  unfold happen
  split
  next e => exact next_inv (hf _ h) e
  next => exact h

theorem inv_changed {f : State → State} {s t : State} (hf : ∀ t, t.Inv → (f t).Inv)
    (h : s.Inv) (e : changed f s = some t) :
    t.Inv := by
  simp only [changed, Option.ite_none_left_eq_some, Option.some.injEq] at e
  exact e.2 ▸ hf s h

theorem inv_fabricMoves {s : State} : ∀ f ∈ fabricMoves s, ∀ t, t.Inv → (f t).Inv := by
  intro f hf t ht
  simp only [fabricMoves, List.mem_append, List.mem_flatMap, List.mem_map, List.mem_filterMap, List.mem_cons, List.not_mem_nil,
    or_false] at hf
  rcases hf with (((((((⟨_, _, rfl | rfl | rfl⟩ | ⟨_, _, rfl⟩) | ⟨_, _, rfl⟩) | ⟨_, _, rfl⟩) | ⟨_, _, rfl⟩) | ⟨_, _, rfl⟩) |
    ⟨r, _, hr⟩) | ⟨_, _, rfl⟩) | rfl
  · exact inv_happen (fun _ h => next_execReplySplit h) ht
  · exact inv_happen (fun _ h => next_execReplyArrival h) ht
  · exact inv_happen (fun _ h => next_execMirrorDelivery h) ht
  · exact inv_happen (fun _ h => next_execSliceFillArrival h) ht
  · exact inv_endFlush ht
  · exact inv_happen (fun _ h => next_execBucketMoveFinish h) ht
  · exact inv_happen (fun _ h => next_execSliceRequest h) ht
  · exact inv_happen (fun _ h => next_execRequestRetry h) ht
  · split at hr
    · cases hr
      exact inv_happen (fun _ h => next_execSubscriptionRegistration h) ht
    · cases hr
  · exact inv_happen (fun _ h => next_execFaultQueueWrite h) ht
  · exact inv_happen (fun _ h => next_execHeatHalving h) ht

theorem inv_quadMoves {s : State} : ∀ f ∈ quadMoves s, ∀ t, t.Inv → (f t).Inv := by
  intro f hf t ht
  simp only [quadMoves, List.mem_append, List.mem_flatMap, List.mem_map, List.mem_filterMap, List.mem_cons, List.not_mem_nil,
    or_false] at hf
  rcases hf with (((⟨_, _, rfl | rfl | rfl⟩ | ⟨x, _, hx⟩) | ⟨x, _, hx⟩) | ⟨_, _, rfl⟩) | ⟨_, _, rfl⟩
  · exact inv_happen (fun _ h => next_execPlatformRelease h) ht
  · exact inv_happen (fun _ h => next_execRollbackComplete h) ht
  · exact inv_pumpQuad ht
  · split at hx
    · obtain ⟨_, -, rfl⟩ := List.mem_map.1 hx
      exact inv_happen (fun _ h => next_execStripFilled h) ht
    · cases hx
  · split at hx
    · cases hx
    · cases hx
      exact inv_happen (fun _ h => next_execBarrierPhaseDelivery h) ht
  · exact inv_pumpPub ht
  · exact inv_happen (fun _ h => next_execTokenGrant h) ht

theorem inv_schedulerMoves {s : State} : ∀ f ∈ schedulerMoves s, ∀ t, t.Inv → (f t).Inv := by
  intro f hf t ht
  simp only [schedulerMoves, List.mem_append, List.mem_flatMap, List.mem_cons, List.not_mem_nil, or_false] at hf
  rcases hf with ⟨_, _, rfl | rfl⟩ | ⟨_, _, rfl | rfl | rfl | rfl⟩
  · exact inv_happen (fun _ h => next_execCompletionWordWrite h) ht
  · exact inv_happen (fun _ h => next_execDependencePoll h) ht
  · exact inv_happen (fun _ h => next_execStrandRestart h) ht
  · exact inv_saveStopped ht
  · exact inv_elim ht fun _ => inv_serve ht
  · exact inv_happen (fun _ h => next_execSchedulerPreempt h) ht

theorem inv_bootNext {s : State} (h : s.Inv) : s.bootNext.Inv :=
  inv_ite (inv_boot h) h

theorem inv_serveRequest {s : State} (h : s.Inv) : s.serveRequest.Inv := by
  unfold State.serveRequest
  split
  · exact h
  next r rs _ =>
    have ht : (happen r.run { s with lodge := { s.lodge with waiting := [] } }).Inv :=
      inv_happen (fun _ ht => next_run ht) (inv_of_eq h rfl rfl)
    exact inv_of_eq ht rfl rfl

theorem inv_untry {s : State} (h : s.Inv) : s.untry.Inv :=
  inv_mapStrands h

theorem inv_progress {s t : State} (h : s.Inv) (e : s.progress = some t) : t.Inv := by
  obtain ⟨u, hu, rfl⟩ := Option.map_eq_some_iff.1 e
  obtain ⟨f, hf, hc⟩ := List.exists_of_findSome?_eq_some hu
  refine inv_untry (inv_changed ?_ h hc)
  simp only [List.mem_append, List.mem_cons, List.not_mem_nil, or_false] at hf
  rcases hf with (((hf | hf) | hf) | hf) | rfl | rfl
  · exact inv_fabricMoves f hf
  · exact inv_stoppedMoves f hf
  · exact inv_quadMoves f hf
  · exact inv_schedulerMoves f hf
  · exact fun _ h => inv_serveRequest h
  · exact fun _ h => inv_bootNext h

theorem inv_cool {s : State} (h : s.Inv) : s.cool.Inv :=
  inv_ite h (inv_of_eq h rfl rfl)

theorem inv_atTick {s : State} {t} (h : s.Inv) : (s.atTick t).Inv := by
  unfold State.atTick
  refine inv_foldl (fun _ _ ht1 => ?_) (inv_foldl (fun _ _ ht1 => inv_releaseDue ht1) (inv_of_eq h rfl rfl))
  exact inv_happen (fun _ ht2 => next_execSpanBoundary ht2) ht1

theorem inv_passTo {s : State} {n} (h : s.Inv) : (s.passTo n).Inv := by
  unfold State.passTo
  extract_lets -underBinder
  split
  · exact inv_pumpNet (inv_cool (inv_of_eq (inv_foldl (fun _ _ ht => inv_atTick ht) h) rfl rfl))
  · exact inv_cool (inv_of_eq (inv_foldl (fun _ _ ht => inv_atTick ht) h) rfl rfl)

theorem inv_breathe {s : State} (h : s.Inv) : s.breathe.Inv := by
  unfold State.breathe
  extract_lets s1 s2 t
  have h1 : s1.Inv := inv_ite h (inv_modCur _ h)
  have h2 : s2.Inv := inv_passTo h1
  have ht : t.Inv := by
    cases e : s2.progress with
    | none =>
      have : t = s2 := by simp only [t, e, Option.getD_none]
      exact this ▸ h2
    | some u =>
      have : t = u := by simp only [t, e, Option.getD_some]
      exact this ▸ inv_progress h2 e
  clear_value t
  refine inv_ite ?_ h1
  split
  · exact inv_modCur _ (inv_select ht)
  · exact ht

theorem next_breatheOut {o} (ho : NextInv o) : NextInv (breatheOut o) := by
  cases o with
  | next t => exact next_next (inv_breathe (next_inv ho rfl))
  | fault => exact next_fault _
  | refused => exact next_refused _

theorem next_retry {s : State} (h : s.Inv) : NextInv s.retry :=
  next_breatheOut (next_strandStep (inv_modCur _ h))

theorem next_idle {s : State} (h : s.Inv) : NextInv (idle s) := by
  unfold idle
  split
  · exact next_next (inv_select h)
  · split
    next e => exact next_next (inv_progress h e)
    · refine next_ite (next_retry h) ?_
      split
      · exact next_retry (inv_select h)
      · split
        · exact next_next (inv_untry (inv_passTo h))
        · exact next_next (inv_untry h)

theorem next_advanceModule {s : State} (h : s.Inv) : NextInv (advanceModule s) :=
  next_ite (next_next (inv_modCur _ h)) (next_ite (next_breatheOut (next_strandStep h)) (next_idle h))

theorem next_runAct {a} {s : State} (h : s.Inv) : NextInv (runAct a s) := by
  unfold runAct
  split
  · exact next_fault _
  · split
    · exact next_exec h
    · exact next_next (inv_select h)
    · exact next_ite (next_frontStep h) (next_next h)
    · exact next_next (inv_modCur _ h)
    · exact next_next (inv_passTo h)
    · exact next_next (inv_modQ _ h)
    · exact next_next (inv_dropAtom h)
    · exact next_next (inv_dropLine h)
    · exact next_next (inv_flush h)
    · exact next_next (inv_spoilQuad h)
    · exact next_ite (next_next (inv_precheck h)) (next_next h)
    · exact next_next (inv_podArrive h)
    · exact next_next (inv_podConfig h)
    · exact next_next (inv_podWithdraw h)
    · exact next_next (inv_peerRead h)
    · exact next_next (inv_peerWrite h)
    · exact next_next (inv_peerAtomic h)
    · exact next_next (inv_of_eq h rfl rfl)
    · split
      next t1 _ e =>
        have ht1 := inv_fst (inv_barWrite h) e
        exact next_run ht1
      next t1 e =>
        have ht1 := inv_fst (inv_barWrite h) e
        exact next_next ht1
    · exact next_next (inv_barRead h)
    · exact next_next (inv_modQuad h)
    · exact next_next (inv_modQ _ h)
    · exact next_next (inv_drainByte h)
    · exact next_next (inv_modStrand h)
    · exact next_next (inv_halvesDiffer h)
    · exact next_next (inv_modStrand h)
    · exact next_next (inv_spoil h)
    · exact next_next (inv_of_eq h rfl rfl)
    · exact next_next (inv_of_eq h rfl rfl)
    · exact next_next (inv_modQuad h)
    · exact next_next (inv_modCrew h)
    · exact next_next (inv_farDelivery h)
    · exact next_next (inv_of_eq h rfl rfl)
    · exact next_next (inv_driveWrite h)
    · exact next_next (inv_modPort h)
    · exact next_next (inv_of_eq h rfl rfl)
    · exact next_next (inv_of_eq h rfl rfl)
    · exact next_next (inv_of_eq h rfl rfl)

end Sys2Proof.Machine
end

section
/-! One step of the module. -/

namespace Sys2Proof.Machine

theorem next_step {s : State} (h : s.Inv) : NextInv (step s) := by
  unfold step
  split
  · exact next_runAct (inv_of_eq h rfl rfl)
  · exact next_advanceModule h

/-- Settles O3: every operation of the model keeps memory and the drives canonical, so every instruction, event and move does. -/
theorem stepKeepsInv : Obligations.StepKeepsInv := by
  unfold Obligations.StepKeepsInv
  exact fun s t h e => next_inv (next_step h) e

end Sys2Proof.Machine
end

section
/-! Decoding and encoding agree: what the parts of a field read from a packed word, what `decodeRaw` makes of the word of an
instruction, and of which words the decoder's answer is the instruction (R13 to R42). -/

namespace Sys2Proof

/-! ### Parts of the low fields -/

@[simp] theorem fHi6_packK (m : BitVec 7) (d a : BitVec 5) (f : BitVec 3) (x y : BitVec 6) :
    fHi6 (packK m d a f (x ++ y)) = x := by
  apply BitVec.eq_of_toNat_eq
  simp only [fHi6, packK, field_toNat, append_toNat]
  omega
@[simp] theorem fLo6_packK (m : BitVec 7) (d a : BitVec 5) (f : BitVec 3) (x y : BitVec 6) :
    fLo6 (packK m d a f (x ++ y)) = y := by
  apply BitVec.eq_of_toNat_eq
  simp only [fLo6, packK, field_toNat, append_toNat]
  omega
@[simp] theorem fTop_packZ (m : BitVec 7) (i : BitVec 25) : fTop (packZ m i) = i.extractLsb' 24 1 := by
  apply BitVec.eq_of_toNat_eq
  simp only [fTop, packZ, field_toNat, append_toNat]
  omega
@[simp] theorem fImm24_packZ (m : BitVec 7) (i : BitVec 25) : fImm24 (packZ m i) = i.extractLsb' 0 24 := by
  apply BitVec.eq_of_toNat_eq
  simp only [fImm24, packZ, field_toNat, append_toNat]
  omega

@[simp] theorem fS_packA (m : BitVec 7) (d a b : BitVec 5) (f : BitVec 10) : fS (packA m d a b f) = f.extractLsb' 9 1 := by
  apply BitVec.eq_of_toNat_eq
  simp only [fS, packA, field_toNat, append_toNat]
  omega
@[simp] theorem fOp9_packA (m : BitVec 7) (d a b : BitVec 5) (f : BitVec 10) : fOp9 (packA m d a b f) = f.extractLsb' 0 9 := by
  apply BitVec.eq_of_toNat_eq
  simp only [fOp9, packA, field_toNat, append_toNat]
  omega

@[simp] theorem extract_top_append (t : BitVec 1) (i : BitVec 24) : (t ++ i : BitVec 25).extractLsb' 24 1 = t :=
  BitVec.extractLsb'_append_eq_left
@[simp] theorem extract_imm24_append (t : BitVec 1) (i : BitVec 24) : (t ++ i : BitVec 25).extractLsb' 0 24 = i :=
  BitVec.extractLsb'_append_eq_right
@[simp] theorem extract_S_append (t : BitVec 1) (o : BitVec 9) : (t ++ o : BitVec 10).extractLsb' 9 1 = t :=
  BitVec.extractLsb'_append_eq_left
@[simp] theorem extract_op9_append (t : BitVec 1) (o : BitVec 9) : (t ++ o : BitVec 10).extractLsb' 0 9 = o :=
  BitVec.extractLsb'_append_eq_right

/-- A second source is packed into S and B (R31). -/
@[simp] theorem vsrc_packA (m : BitVec 7) (d a : BitVec 5) (b : VSrc) (o : BitVec 9) :
    vsrc (packA m d a (srcReg b) (srcBit b ++ o)) = b := by
  unfold vsrc
  rw [fS_packA, fB_packA, extract_S_append]
  cases b <;> rfl

@[simp] theorem bit_beq_one (b : Bool) : (bit b == 1#1) = b := by cases b <;> rfl
@[simp] theorem bit_beq (w : BitVec 1) : bit (w == 1#1) = w := by
  rcases BitVec.eq_zero_or_eq_one w with rfl | rfl <;> rfl

/-- One of the low ten bits as a flag of a packed word. -/
theorem flag_packA {m : BitVec 7} {d a b : BitVec 5} {f : BitVec 10} {k : Nat} (hk : k < 10) :
    (packA m d a b f).extractLsb' k 1 = f.extractLsb' k 1 := by
  unfold packA
  rw [BitVec.extractLsb'_append_eq_of_add_le (by omega)]

section
variable (m : BitVec 7) (d a b : BitVec 5) (nr ac : BitVec 1) (r : BitVec 2) (op : BitVec 6)

@[simp] theorem fNR_packAt : fNR (packA m d a b (packAt nr r ac op)) = (nr == 1#1) := by
  unfold fNR
  rw [flag_packA (by omega)]
  congr 1
  apply BitVec.eq_of_toNat_eq
  simp only [packAt, field_toNat, append_toNat]
  omega
@[simp] theorem fAC_packAt : fAC (packA m d a b (packAt nr r ac op)) = (ac == 1#1) := by
  unfold fAC
  rw [flag_packA (by omega)]
  congr 1
  apply BitVec.eq_of_toNat_eq
  simp only [packAt, field_toNat, append_toNat]
  omega
@[simp] theorem fOp6_packAt : fOp6 (packA m d a b (packAt nr r ac op)) = op := by
  apply BitVec.eq_of_toNat_eq
  simp only [fOp6, packA, packAt, field_toNat, append_toNat]
  omega
/-- ORD is packed as its two bits (R40). -/
@[simp] theorem fOrd_packAt (o : AOrd) : fOrd (packA m d a b (packAt nr (ordBits o) ac op)) = o := by
  have h : (packA m d a b (packAt nr (ordBits o) ac op)).extractLsb' 7 2 = ordBits o := by
    apply BitVec.eq_of_toNat_eq
    simp only [packA, packAt, field_toNat, append_toNat]
    omega
  unfold fOrd
  rw [h]
  cases o <;> rfl
end

section
variable (m : BitVec 7) (d a b : BitVec 5) (eo ov p : BitVec 1) (am : BitVec 2)

@[simp] theorem fEO_packW : fEO (packA m d a b (packW eo ov p am)) = (eo == 1#1) := by
  unfold fEO
  rw [flag_packA (by omega)]
  congr 1
  apply BitVec.eq_of_toNat_eq
  simp only [packW, field_toNat, append_toNat]
  omega
@[simp] theorem fOV_packW : fOV (packA m d a b (packW eo ov p am)) = (ov == 1#1) := by
  unfold fOV
  rw [flag_packA (by omega)]
  congr 1
  apply BitVec.eq_of_toNat_eq
  simp only [packW, field_toNat, append_toNat]
  omega
@[simp] theorem fPB_packW : fPB (packA m d a b (packW eo ov p am)) = (p == 1#1) := by
  unfold fPB
  rw [flag_packA (by omega)]
  congr 1
  apply BitVec.eq_of_toNat_eq
  simp only [packW, field_toNat, append_toNat]
  omega
@[simp] theorem fAM_packW : fAM (packA m d a b (packW eo ov p am)) = am := by
  apply BitVec.eq_of_toNat_eq
  simp only [fAM, packA, packW, field_toNat, append_toNat]
  omega
@[simp] theorem fLow5_packW : fLow5 (packA m d a b (packW eo ov p am)) = 0#5 := by
  apply BitVec.eq_of_toNat_eq
  simp only [fLow5, packA, packW, field_toNat, append_toNat]
  omega
end

/-! ### From the instruction to its word -/

@[simp] theorem needZero_true (i : Instr) : needZero true i = .ok i := rfl

/-- The words of majors 0x01 to 0x0F: the scalar stream's own (R20 to R29). -/
theorem decodeRaw_encode_scalar {i : Instr} {w : IWord} (h : encode i = some w) (hm : (fMaj w).toNat < 16) :
    decodeRaw w = .ok i := by
  cases i <;> cases h
  all_goals simp [decodeRaw, decIa, decIi, decLu, decLa, decBr, decJl, decJr, decLp, decLd, decSt, decFs, decQ, decMd, decMr,
    decSy] at hm ⊢

/-- The words of majors 0x10 to 0x16: the vector unit's (R31 to R36). -/
theorem decodeRaw_encode_vector {i : Instr} {w : IWord} (h : encode i = some w) (hl : 16 ≤ (fMaj w).toNat)
    (hm : (fMaj w).toNat < 23) : decodeRaw w = .ok i := by
  cases i <;> cases h
  all_goals simp [decodeRaw, decVa, decVm, decVp, decVl, decVf, decVld, decVst] at hl hm ⊢

/-- The words of the other majors, `brk` among them (R30, R34, R37 to R42). -/
theorem decodeRaw_encode_other {i : Instr} {w : IWord} (h : encode i = some w) (hl : 23 ≤ (fMaj w).toNat) :
    decodeRaw w = .ok i := by
  cases i <;> cases h
  all_goals simp [decodeRaw, decVb, decMx, decTn, decTr, decAt, decVat, decCf, decCp, decXr, decLn, decBrk] at hl ⊢

/-- The decoder reads every field back from the word of an instruction. -/
theorem decodeRaw_encode {i : Instr} {w : IWord} (h : encode i = some w) : decodeRaw w = .ok i := by
  by_cases h1 : (fMaj w).toNat < 16
  · exact decodeRaw_encode_scalar h h1
  · by_cases h2 : (fMaj w).toNat < 23
    · exact decodeRaw_encode_vector h (by omega) h2
    · exact decodeRaw_encode_other h (by omega)

end Sys2Proof
end

section
/-! A word that decodes is the word of its instruction: every bit that the decoder does not keep in a field of the instruction it
has checked (R14, R15). -/

namespace Sys2Proof

/-! ### When a packed word is a given word -/

/-- A word is the packed one when its fields are. -/
theorem packA_eq_iff {m : BitVec 7} {d a b : BitVec 5} {f : BitVec 10} {w : IWord} :
    packA m d a b f = w ↔ (fMaj w).toNat = m.toNat ∧ fD w = d ∧ fA w = a ∧ (fB w).toNat = b.toNat ∧
      (fLow w).toNat = f.toNat := by
  constructor
  · rintro rfl
    simp
  · rintro ⟨hm, rfl, rfl, hb, hf⟩
    rw [← BitVec.eq_of_toNat_eq hm, ← BitVec.eq_of_toNat_eq hb, ← BitVec.eq_of_toNat_eq hf, packA_fields]

theorem packK_eq_iff {m : BitVec 7} {d a : BitVec 5} {f : BitVec 3} {i : BitVec 12} {w : IWord} :
    packK m d a f i = w ↔ (fMaj w).toNat = m.toNat ∧ fD w = d ∧ fA w = a ∧ (fFn3 w).toNat = f.toNat ∧ fImm12 w = i := by
  constructor
  · rintro rfl
    simp
  · rintro ⟨hm, rfl, rfl, hf, rfl⟩
    rw [← BitVec.eq_of_toNat_eq hm, ← BitVec.eq_of_toNat_eq hf, packK_fields]

theorem packU_eq {m : BitVec 7} {w : IWord} (hm : (fMaj w).toNat = m.toNat) : packU m (fD w) (fImm20 w) = w := by
  rw [← BitVec.eq_of_toNat_eq hm, packU_fields]

theorem packI_eq {m : BitVec 7} {w : IWord} (hm : (fMaj w).toNat = m.toNat) : packI m (fD w) (fA w) (fImm15 w) = w := by
  rw [← BitVec.eq_of_toNat_eq hm, packI_fields]

theorem packZ_eq_iff {m : BitVec 7} {i : BitVec 25} {w : IWord} :
    packZ m i = w ↔ (fMaj w).toNat = m.toNat ∧ fImm25 w = i := by
  constructor
  · rintro rfl
    simp
  · rintro ⟨hm, rfl⟩
    rw [← BitVec.eq_of_toNat_eq hm, packZ_fields]

/-! ### The low fields from their parts -/

theorem fImm12_parts (w : IWord) : fImm12 w = fHi6 w ++ fLo6 w := by
  apply BitVec.eq_of_toNat_eq
  simp only [fImm12, fHi6, fLo6, field_toNat, append_toNat]
  omega
theorem fImm25_parts (w : IWord) : fImm25 w = fTop w ++ fImm24 w := by
  apply BitVec.eq_of_toNat_eq
  simp only [fImm25, fTop, fImm24, field_toNat, append_toNat]
  omega
theorem fLow_parts (w : IWord) : (fLow w).toNat = 512 * (fS w).toNat + (fOp9 w).toNat := by
  simp only [fLow, fS, fOp9, field_toNat]
  omega
theorem opV_toNat (s : BitVec 1) (o : BitVec 9) : (s ++ o : BitVec 10).toNat = 512 * s.toNat + o.toNat := by
  rw [append_toNat]
  omega
@[simp] theorem srcReg_vsrc (w : IWord) : srcReg (vsrc w) = fB w := by
  unfold vsrc
  split <;> rfl
@[simp] theorem srcBit_vsrc (w : IWord) : srcBit (vsrc w) = fS w := by
  unfold vsrc
  rcases BitVec.eq_zero_or_eq_one (fS w) with h | h <;> rw [h] <;> rfl

theorem ordBits_fOrd (w : IWord) : ordBits (fOrd w) = w.extractLsb' 7 2 := by
  have h := (w.extractLsb' 7 2).isLt
  apply BitVec.eq_of_toNat_eq
  unfold fOrd
  generalize (w.extractLsb' 7 2).toNat = n at h
  interval_cases n <;> rfl

theorem packAt_toNat (nr ac : BitVec 1) (r : BitVec 2) (op : BitVec 6) :
    (packAt nr r ac op).toNat = 512 * nr.toNat + 128 * r.toNat + 64 * ac.toNat + op.toNat := by
  simp only [packAt, append_toNat]
  omega
theorem packW_toNat (eo ov p : BitVec 1) (am : BitVec 2) :
    (packW eo ov p am).toNat = 512 * eo.toNat + 256 * ov.toNat + 128 * p.toNat + 32 * am.toNat := by
  have h0 : (0#5).toNat = 0 := rfl
  simp only [packW, append_toNat, h0]
  omega

@[simp] theorem bit_false : bit false = 0#1 := rfl

/-- The low ten bits of `at` and `vat` (R40). -/
theorem fLow_at (w : IWord) : (fLow w).toNat =
    512 * (bit (fNR w)).toNat + 128 * (ordBits (fOrd w)).toNat + 64 * (bit (fAC w)).toNat + (fOp6 w).toNat := by
  simp only [fNR, fAC, bit_beq, ordBits_fOrd, fLow, fOp6, field_toNat]
  omega

/-- The low ten bits of format W (R13). -/
theorem fLow_w (w : IWord) : (fLow w).toNat =
    512 * (bit (fEO w)).toNat + 256 * (bit (fOV w)).toNat + 128 * (bit (fPB w)).toNat + 32 * (fAM w).toNat + (fLow5 w).toNat := by
  simp only [fEO, fOV, fPB, bit_beq, fLow, fAM, fLow5, field_toNat]
  omega

/-! ### From the word to the instruction -/

/-- What a decoder answers, when it answers an instruction, has the word w. -/
def Reencodes (w : IWord) (r : Except Reject Instr) : Prop := ∀ i, r = .ok i → encode i = some w

@[simp] theorem reencodes_error (w : IWord) (e : Reject) : Reencodes w (.error e) := fun _ h => nomatch h
@[simp] theorem reencodes_ok {w : IWord} {i : Instr} : Reencodes w (.ok i) ↔ encode i = some w :=
  ⟨fun h => h i rfl, fun h _ e => Except.ok.inj e ▸ h⟩
@[simp] theorem reencodes_needZero {w : IWord} {c : Bool} {i : Instr} :
    Reencodes w (needZero c i) ↔ (c = true → encode i = some w) := by
  cases c <;> simp [needZero]

section
variable {w : IWord}

theorem reencodes_decSy (hm : (fMaj w).toNat = 15) : Reencodes w (decSy w) := by
  unfold decSy
  split
  case h_5 => split <;> simp_all [encode, packA_eq_iff]
  all_goals simp_all [encode, packA_eq_iff]
theorem reencodes_decVa (hm : (fMaj w).toNat = 16) : Reencodes w (decVa w) := by
  unfold decVa
  split <;> simp_all [encode, packA_eq_iff, opV_toNat, fLow_parts]
theorem reencodes_decVm (hm : (fMaj w).toNat = 17) : Reencodes w (decVm w) := by
  unfold decVm
  split <;> simp_all [encode, packA_eq_iff, opV_toNat, fLow_parts]
theorem reencodes_decVp (hm : (fMaj w).toNat = 18) : Reencodes w (decVp w) := by
  unfold decVp
  split <;> simp_all [encode, packA_eq_iff, opV_toNat, fLow_parts]
theorem reencodes_decBr (hm : (fMaj w).toNat = 5) : Reencodes w (decBr w) := by
  unfold decBr
  split <;> simp_all [encode, packK_eq_iff]
theorem reencodes_decLp (hm : (fMaj w).toNat = 8) : Reencodes w (decLp w) := by
  unfold decLp
  split <;> simp_all [encode, packK_eq_iff]
theorem reencodes_decIi (hm : (fMaj w).toNat = 2) : Reencodes w (decIi w) := by
  unfold decIi
  split
  case h_8 =>
    have h7 : (fFn3 w).toNat = 7 := by
      have hlt := (fFn3 w).isLt
      simp only [imp_false] at *
      omega
    split
    next h =>
      have h0 : fHi6 w = 0#6 := BitVec.eq_of_toNat_eq h
      simp [encode, packK_eq_iff, fImm12_parts, hm, h7, h0]
    next h =>
      have h32 : fHi6 w = 32#6 := BitVec.eq_of_toNat_eq h
      simp [encode, packK_eq_iff, fImm12_parts, hm, h7, h32]
    next => exact reencodes_error _ _
  all_goals simp_all [encode, packK_eq_iff, fImm12_parts]
theorem reencodes_decVf (hm : (fMaj w).toNat = 20) : Reencodes w (decVf w) := by
  unfold decVf
  rcases BitVec.eq_zero_or_eq_one (fTop w) with h | h <;> simp_all [encode, packZ_eq_iff, fImm25_parts]
theorem reencodes_decMd (hm : (fMaj w).toNat = 13) : Reencodes w (decMd w) := by
  simp_all [decMd, encode, packZ_eq_iff, fImm25_parts]
theorem reencodes_decVld (hm : (fMaj w).toNat = 21) : Reencodes w (decVld w) := by
  unfold decVld
  split <;> simp_all [encode, packA_eq_iff, fLow_w, packW_toNat]
theorem reencodes_decVst (hm : (fMaj w).toNat = 22) : Reencodes w (decVst w) := by
  unfold decVst
  split <;> simp_all [encode, packA_eq_iff, fLow_w, packW_toNat]
theorem reencodes_decAt (hm : (fMaj w).toNat = 27) : Reencodes w (decAt w) := by
  unfold decAt
  split <;> simp_all [encode, packA_eq_iff, fLow_at, packAt_toNat]
theorem reencodes_decVat (hm : (fMaj w).toNat = 28) : Reencodes w (decVat w) := by
  unfold decVat
  split <;> simp_all [encode, packA_eq_iff, fLow_at, packAt_toNat]

/-- The decoder's answer has the word that it was decoded from. In a major of format A that names its instruction in one field, every
other field is an operand or zero. -/
theorem reencodes_decodeRaw (w : IWord) : Reencodes w (decodeRaw w) := by
  unfold decodeRaw
  split
  case h_2 hm => exact reencodes_decIi hm
  case h_3 hm => simp [decLu, encode, packU_eq (m := 3#7) hm]
  case h_4 hm => simp [decLa, encode, packU_eq (m := 4#7) hm]
  case h_5 hm => exact reencodes_decBr hm
  case h_6 hm => simp [decJl, encode, packZ_eq_iff, hm]
  case h_7 hm => simp [decJr, encode, packI_eq (m := 7#7) hm]
  case h_8 hm => exact reencodes_decLp hm
  case h_13 hm => exact reencodes_decMd hm
  case h_15 hm => exact reencodes_decSy hm
  case h_16 hm => exact reencodes_decVa hm
  case h_17 hm => exact reencodes_decVm hm
  case h_18 hm => exact reencodes_decVp hm
  case h_20 hm => exact reencodes_decVf hm
  case h_21 hm => exact reencodes_decVld hm
  case h_22 hm => exact reencodes_decVst hm
  case h_27 hm => exact reencodes_decAt hm
  case h_28 hm => exact reencodes_decVat hm
  case h_33 hm => simp [decBrk, encode, packZ_eq_iff, hm]
  case h_34 => exact reencodes_error _ _
  all_goals
    simp only [decIa, decLd, decSt, decFs, decQ, decMr, decVl, decVb, decMx, decTn, decTr, decCf, decCp, decXr, decLn]
    split <;> simp_all [encode, packA_eq_iff]
end
/-- An instruction is what its word decodes to, and has the word that it was decoded from: the range checks of the fields (R14) are
`Instr.wf` in both directions. -/
theorem decode_eq_ok_iff {i : Instr} {w : IWord} : decode w = .ok i ↔ i.wf = true ∧ encode i = some w := by
  constructor
  · intro h
    unfold decode at h
    split at h
    next j hj =>
      split at h
      next hw =>
        cases h
        exact ⟨hw, reencodes_decodeRaw w i hj⟩
      next => cases h
    next => cases h
  · rintro ⟨hw, h⟩
    unfold decode
    rw [decodeRaw_encode h]
    exact if_pos hw

/-- Settles O1: the decoder reads every field back from a packed word, and a word that it accepts is packed from the fields it read. -/
theorem decodeOfEncode : Obligations.DecodeOfEncode :=
  ⟨fun _ _ hw h => decode_eq_ok_iff.2 ⟨hw, h⟩, fun _ _ h => decode_eq_ok_iff.1 h⟩

/-- Settles O2: each word is a closed number, so the decoder runs on it. -/
theorem specWordsDecode : Obligations.SpecWordsDecode := by
  unfold Obligations.SpecWordsDecode
  decide

end Sys2Proof
end

section
/-! How a step of a strand that can run goes on from the word that its fetch gives (R18, R92). -/

namespace Sys2Proof.Machine

/-- A strand that can run takes the step at its front end: its word is fetched and run, and time passes (log 4). -/
theorem State.CanRun.step_eq {s t : State} {w : IWord} (h : s.CanRun)
    (hf : (fetchWord s.cur.sc.pc).run (s.modCur (fun x => { x with waiting := false })) = .ok w t) :
    step s = breatheOut (runWordAt w t) := by
  obtain ⟨hagenda, hmay, hstop, hwait, hv, hm⟩ := h
  have hfront : strandStep s = runWordAt w t := by
    simp only [strandStep, hv, hm, frontStep, hf]
  simp only [step, hagenda, advanceModule, hmay, hstop, hwait, Bool.and_false, Bool.not_false, Bool.and_true, hfront,
    Bool.false_eq_true, if_false, if_true]

/-- Settles O5: the fetched word is decoded, and a word that is no instruction raises ILLEGAL. -/
theorem stepRunsDecoded : Obligations.StepRunsDecoded := by
  unfold Obligations.StepRunsDecoded
  constructor
  · intro s t w i h hf hd
    rw [h.step_eq hf]
    simp only [runWordAt, hd]
  · intro s t w e h hf hd
    rw [h.step_eq hf]
    simp only [runWordAt, hd]
    rfl

end Sys2Proof.Machine
end

section
/-! What the integer forms compute, in the terms of the library's operations on words (R94 to R97). -/

namespace Sys2Proof.Machine

/-! ### Products -/

/-- The product of two words as signed 128-bit numbers does not wrap. -/
theorem toInt_wideMul (a b : Word) : (a.signExtend 128 * b.signExtend 128).toInt = a.toInt * b.toInt := by
  have ha : |a.toInt| ≤ 2 ^ 63 := abs_le.2 ⟨a.le_toInt, a.toInt_lt.le⟩
  have hb : |b.toInt| ≤ 2 ^ 63 := abs_le.2 ⟨b.le_toInt, b.toInt_lt.le⟩
  have hab : |a.toInt * b.toInt| ≤ 2 ^ 63 * 2 ^ 63 := by
    rw [abs_mul]
    exact mul_le_mul ha hb (abs_nonneg _) (by norm_num)
  obtain ⟨hlo, hhi⟩ := abs_le.1 hab
  rw [BitVec.toInt_mul, BitVec.toInt_signExtend_of_le (by omega), BitVec.toInt_signExtend_of_le (by omega)]
  exact Int.bmod_eq_of_le (by omega) (by omega)

theorem mulHigh_eq (a b : Word) : mulHigh a b = ((a.signExtend 128 * b.signExtend 128) >>> 64).truncate 64 := by
  unfold mulHigh
  rw [← toInt_wideMul]
  generalize a.signExtend 128 * b.signExtend 128 = p
  have hp := p.isLt
  have hi := BitVec.toInt_eq_toNat_cond p
  apply BitVec.eq_of_toNat_eq
  simp only [BitVec.toNat_ofInt, BitVec.truncate_eq_setWidth, BitVec.toNat_setWidth,
    BitVec.toNat_ushiftRight, Nat.shiftRight_eq_div_pow]
  split at hi <;> omega

theorem mulHighU_eq (a b : Word) : mulHighU a b = ((a.zeroExtend 128 * b.zeroExtend 128) >>> 64).truncate 64 := by
  have ha := a.isLt
  have hb := b.isLt
  have hp : a.toNat * b.toNat < 2 ^ 64 * 2 ^ 64 := Nat.mul_lt_mul'' ha hb
  apply BitVec.eq_of_toNat_eq
  simp only [mulHighU, w64, BitVec.toNat_ofNat, BitVec.truncate_eq_setWidth,
    BitVec.toNat_setWidth, BitVec.toNat_ushiftRight,
    BitVec.toNat_mul, Nat.shiftRight_eq_div_pow]
  rw [Nat.mod_eq_of_lt (show a.toNat < 2 ^ 128 by omega), Nat.mod_eq_of_lt (show b.toNat < 2 ^ 128 by omega)]
  omega

/-! ### Quotients and remainders -/

theorem divS_eq (a b : Word) : divS a b = if b = 0 then BitVec.allOnes 64 else a.sdiv b := by
  unfold divS
  congr 1
  apply BitVec.eq_of_toInt_eq
  rw [BitVec.toInt_sdiv, BitVec.toInt_ofInt]

theorem remS_eq (a b : Word) : remS a b = if b = 0 then a else a.srem b := by
  unfold remS
  congr 1
  rw [← BitVec.toInt_srem, BitVec.ofInt_toInt]

theorem divU_eq (a b : Word) : divU a b = if b = 0 then BitVec.allOnes 64 else a.udiv b := by
  unfold divU w64
  rw [← BitVec.toNat_udiv, BitVec.ofNat_toNat, BitVec.setWidth_eq]
  rfl

theorem remU_eq (a b : Word) : remU a b = if b = 0 then a else a.umod b := by
  unfold remU w64
  rw [← BitVec.toNat_umod, BitVec.ofNat_toNat, BitVec.setWidth_eq]
  rfl

/-! ### Shifts -/

/-- The six bits of a shift amount are the amount modulo 64. -/
theorem toNat_shAmt (y : Word) : (y &&& 63).toNat = shAmt y := by
  have h : y.toNat &&& 63 = y.toNat % 64 := Nat.and_two_pow_sub_one_eq_mod y.toNat 6
  rw [BitVec.toNat_and]
  exact h

theorem shl_shAmt (x y : Word) : x <<< shAmt y = x <<< (y &&& 63) := by
  rw [← toNat_shAmt]
  rfl

theorem shr_shAmt (x y : Word) : x >>> shAmt y = x >>> (y &&& 63) := by
  rw [← toNat_shAmt]
  rfl

theorem sra_shAmt (x y : Word) : x.sshiftRight (shAmt y) = x.sshiftRight' (y &&& 63) := by
  rw [← toNat_shAmt]
  rfl

theorem rolW_eq (x y : Word) : rolW x y = x <<< (y &&& 63) ||| x >>> (64 - (y &&& 63)) := by
  have hlt : (y &&& 63).toNat < 64 := by
    rw [toNat_shAmt]
    exact Nat.mod_lt _ (by omega)
  have h : (64 - (y &&& 63)).toNat = 64 - (y &&& 63).toNat := by
    rw [BitVec.toNat_sub]
    have h64 : (64 : Word).toNat = 64 := rfl
    omega
  unfold rolW
  rw [← toNat_shAmt, BitVec.rotateLeft_eq_rotateLeftAux_of_lt hlt]
  show _ = x <<< (y &&& 63).toNat ||| x >>> (64 - (y &&& 63)).toNat
  rw [h]
  rfl

/-! ### Comparisons -/

theorem wBool_slt (x y : Word) : wBool (decide (x.toInt < y.toInt)) = if x.slt y then 1 else 0 := rfl

theorem wBool_ult (x y : Word) : wBool (decide (x.toNat < y.toNat)) = if x < y then 1 else 0 := by
  simp only [wBool, decide_eq_true_eq, BitVec.lt_def]

theorem minS_eq (x y : Word) : minS x y = if x.sle y then x else y := by
  unfold minS
  rw [BitVec.sle_eq_decide]
  by_cases h : x.toInt = y.toInt
  · simp [BitVec.eq_of_toInt_eq h]
  · simp [Int.le_iff_lt_or_eq, h]

theorem maxS_eq (x y : Word) : maxS x y = if x.sle y then y else x := by
  unfold maxS
  rw [BitVec.sle_eq_decide]
  by_cases h : x.toInt = y.toInt
  · simp [BitVec.eq_of_toInt_eq h]
  · simp [Int.le_iff_lt_or_eq, h]

theorem minU_eq (x y : Word) : minU x y = if x ≤ y then x else y := by
  unfold minU
  by_cases h : x.toNat = y.toNat
  · simp [BitVec.eq_of_toNat_eq h]
  · simp [BitVec.le_def, Nat.le_iff_lt_or_eq, h]

theorem maxU_eq (x y : Word) : maxU x y = if x ≤ y then y else x := by
  unfold maxU
  by_cases h : x.toNat = y.toNat
  · simp [BitVec.eq_of_toNat_eq h]
  · simp [BitVec.le_def, Nat.le_iff_lt_or_eq, h]

/-! ### Counts of bits -/

theorem popcW_eq (x : Word) : popcW x = w64 ((List.range 64).filter (fun i => x.getLsbD i)).length := by
  rw [popcW, List.countP_eq_length_filter]

/-- Counting on from place k counts the places from k up that hold 0. -/
theorem ctzGo_eq (x : Word) : ∀ n k, ctzGo x n k = k + ((List.range' k n).takeWhile (fun i => !x.getLsbD i)).length
  | 0, k => rfl
  | n + 1, k => by
    rw [ctzGo, List.range'_succ, List.takeWhile_cons]
    cases x.getLsbD k
    · simp only [Bool.false_eq_true, if_false, Bool.not_false, if_true, List.length_cons, ctzGo_eq x n (k + 1)]
      omega
    · rfl

theorem ctzW_eq (x : Word) : ctzW x = w64 ((List.range 64).takeWhile (fun i => !x.getLsbD i)).length := by
  rw [ctzW, ctzGo_eq, List.range_eq_range', Nat.zero_add]

/-- The zero bits above the highest set bit, counted from the top of n bits. -/
theorem length_takeWhile_zeros {x : Nat} : ∀ {n : Nat}, x < 2 ^ n →
    ((List.range n).reverse.takeWhile (fun i => !x.testBit i)).length = n - bitLen x
  | 0, h => by simp
  | n + 1, h => by
    rw [List.range_succ, List.reverse_append, List.reverse_singleton, List.singleton_append, List.takeWhile_cons]
    by_cases hx : x < 2 ^ n
    · have hb : bitLen x ≤ n := by
        unfold bitLen
        split
        · omega
        · exact (Nat.log2_lt (by assumption)).2 hx
      rw [Nat.testBit_lt_two_pow hx]
      simp only [Bool.not_false, if_true, List.length_cons, length_takeWhile_zeros hx]
      omega
    · have hlog : Nat.log2 x = n := by
        have h0 : x ≠ 0 := by
          rintro rfl
          exact hx (Nat.two_pow_pos n)
        exact (Nat.log2_eq_iff h0).2 ⟨Nat.le_of_not_lt hx, h⟩
      have hbit : x.testBit n = true := by
        rw [Nat.testBit_eq_decide_div_mod_eq]
        have : x / 2 ^ n = 1 := by
          rw [Nat.pow_succ] at h
          exact Nat.div_eq_of_lt_le (by omega) (by omega)
        simp [this]
      have h0 : x ≠ 0 := by
        rintro rfl
        simp at hbit
      simp [hbit, bitLen, hlog, h0]

theorem clzW_eq (x : Word) : clzW x = w64 ((List.range 64).reverse.takeWhile (fun i => !x.getLsbD i)).length := by
  unfold clzW
  rw [← length_takeWhile_zeros x.isLt]
  rfl

/-! ### Extensions -/

theorem signExtend_truncate {n : Nat} (hn : 0 < n) (hn' : n ≤ 64) (x : Word) :
    (x.truncate n).signExtend 64 = (x <<< (64 - n)).sshiftRight (64 - n) := by
  have hm : (x.truncate n).msb = x.getLsbD (n - 1) := by simp [BitVec.msb_eq_getLsbD_last, hn]
  have hm' : (x <<< (64 - n)).msb = x.getLsbD (n - 1) := by
    rw [BitVec.msb_eq_getLsbD_last, BitVec.getLsbD_shiftLeft]
    simp only [show ¬ 64 - 1 < 64 - n by omega, show 64 - 1 - (64 - n) = n - 1 by omega]
    rfl
  apply BitVec.eq_of_getLsbD_eq
  intro i hi
  rw [BitVec.getLsbD_signExtend, BitVec.getLsbD_sshiftRight, hm, hm', BitVec.getLsbD_shiftLeft]
  by_cases h : i < n
  · simp [h, hi, show 64 - n + i < 64 by omega, show ¬ 64 ≤ i by omega]
  · simp [h, hi, show ¬ 64 - n + i < 64 by omega, show ¬ 64 ≤ i by omega]

theorem zeroExtend_truncate {n : Nat} (hn : n ≤ 64) (x : Word) :
    (x.truncate n).zeroExtend 64 = (x <<< (64 - n)) >>> (64 - n) := by
  apply BitVec.eq_of_getLsbD_eq
  intro i hi
  by_cases h : i < n
  · simp [h, hi, show 64 - n + i < 64 by omega]
  · simp [h, hi, show ¬ 64 - n + i < 64 by omega]

theorem sextW_eq {w : Reg} (hw : w.toNat ≤ 2) (x : Word) :
    sextW w x = (x <<< (64 - 8 * 2 ^ w.toNat)).sshiftRight (64 - 8 * 2 ^ w.toNat) := by
  unfold sextW
  split
  next h =>
    rw [h]
    exact signExtend_truncate (n := 8) (by omega) (by omega) x
  next h =>
    rw [h]
    exact signExtend_truncate (n := 16) (by omega) (by omega) x
  next h0 h1 =>
    have h : w.toNat = 2 := by
      simp only [imp_false] at h0 h1
      omega
    rw [h]
    exact signExtend_truncate (n := 32) (by omega) (by omega) x

theorem zextW_eq {w : Reg} (hw : w.toNat ≤ 2) (x : Word) :
    zextW w x = (x <<< (64 - 8 * 2 ^ w.toNat)) >>> (64 - 8 * 2 ^ w.toNat) := by
  unfold zextW
  split
  next h =>
    rw [h]
    exact zeroExtend_truncate (n := 8) (by omega) x
  next h =>
    rw [h]
    exact zeroExtend_truncate (n := 16) (by omega) x
  next h0 h1 =>
    have h : w.toNat = 2 := by
      simp only [imp_false] at h0 h1
      omega
    rw [h]
    exact zeroExtend_truncate (n := 32) (by omega) x

theorem upper_eq (i : BitVec 20) : upper i = i.signExtend 64 * 4096 := by
  unfold upper
  rw [BitVec.shiftLeft_eq_mul_twoPow]
  rfl

/-! ### The forms -/

@[simp] theorem sc_run (s : State) : sc s = .ok s.cur.sc s := rfl

/-- A two-operand form completes with the value f gives. -/
theorem finish_alu2 {s : State} {d a b : Reg} {f : Word → Word → Word} {v : Word} (ha : s.readable a) (hb : s.readable b)
    (hd : s.writable d) (hv : f (s.reg a) (s.reg b) = v) : finish (alu2 d a b f) s = .next (s.setReg d v).advance := by
  rw [finish_adv (alu2_run f ha hb hd), hv]

/-- A one-operand form completes with the value f gives. -/
theorem finish_alu1 {s : State} {d a : Reg} {f : Word → Word} {v : Word} (ha : s.readable a) (hd : s.writable d)
    (hv : f (s.reg a) = v) : finish (alu1 d a f) s = .next (s.setReg d v).advance := by
  rw [finish_adv (alu1_run f ha hd), hv]

theorem exec_luHi {s : State} {d : Reg} (i : BitVec 20) (hd : s.writable d) :
    exec (.luHi d i) s = .next (s.setReg d (i.signExtend 64 * 4096)).advance := by
  have h : mLuHi d i s = .ok .adv (s.setReg d (upper i)) := by
    unfold mLuHi
    rw [bind_ok (ready_of_writable hd), bind_ok (wr_run _ _ _)]
    rfl
  rw [← upper_eq]
  exact finish_adv h

theorem exec_laPc {s : State} {d : Reg} (i : BitVec 20) (hd : s.writable d) :
    exec (.laPc d i) s = .next (s.setReg d (s.cur.sc.pc + i.signExtend 64 * 4096)).advance := by
  rw [← upper_eq]
  refine finish_adv (t := s.setReg d (s.cur.sc.pc + upper i)) ?_
  rw [bind_ok (sc_run s), bind_ok (ready_of_writable hd), bind_ok (wr_run _ _ _)]
  rfl

/-- Settles O8: each form is one of the two shapes, and its value is the library's operation of the same name. -/
theorem integerResults : Obligations.IntegerResults := by
  refine ⟨fun d a b s ha hb hd => ?_, fun d a w s ha hd => ?_, fun d a i h s ha hd => ?_,
    fun d i s hd => ⟨exec_luHi i hd, exec_laPc i hd⟩⟩
  · exact ⟨finish_alu2 ha hb hd rfl, finish_alu2 ha hb hd rfl, finish_alu2 ha hb hd rfl, finish_alu2 ha hb hd (mulHigh_eq _ _),
      finish_alu2 ha hb hd (mulHighU_eq _ _), finish_alu2 ha hb hd (divS_eq _ _), finish_alu2 ha hb hd (divU_eq _ _),
      finish_alu2 ha hb hd (remS_eq _ _), finish_alu2 ha hb hd (remU_eq _ _), finish_alu2 ha hb hd rfl, finish_alu2 ha hb hd rfl,
      finish_alu2 ha hb hd rfl, finish_alu2 ha hb hd rfl, finish_alu2 ha hb hd (shl_shAmt _ _),
      finish_alu2 ha hb hd (shr_shAmt _ _), finish_alu2 ha hb hd (sra_shAmt _ _), finish_alu2 ha hb hd (rolW_eq _ _),
      finish_alu2 ha hb hd (wBool_slt _ _), finish_alu2 ha hb hd (wBool_ult _ _), finish_alu2 ha hb hd (minS_eq _ _),
      finish_alu2 ha hb hd (maxS_eq _ _), finish_alu2 ha hb hd (minU_eq _ _), finish_alu2 ha hb hd (maxU_eq _ _)⟩
  · exact ⟨finish_alu1 ha hd (clzW_eq _), finish_alu1 ha hd (ctzW_eq _), finish_alu1 ha hd (popcW_eq _),
      fun hw => ⟨finish_alu1 ha hd (sextW_eq hw _), finish_alu1 ha hd (zextW_eq hw _)⟩⟩
  · exact ⟨finish_alu1 ha hd rfl, finish_alu1 ha hd rfl, finish_alu1 ha hd rfl, finish_alu1 ha hd rfl,
      finish_alu1 ha hd (wBool_slt _ _), finish_alu1 ha hd (wBool_ult _ _), finish_alu1 ha hd rfl, finish_alu1 ha hd rfl,
      finish_alu1 ha hd rfl⟩

end Sys2Proof.Machine
end

section
/-! What the write of each special register leaves, as a step of its own (R43, R93, R103, R120, R137, R194, R392, R399). -/

namespace Sys2Proof.Machine

/-- An event whose change is one of the scalar registers of the current strand leaves the rest of the state. -/
theorem exec_modeWrite (v : Word) (s : State) :
    exec (.modeWrite v) s = .next { s with cur := { s.cur with sc := s.cur.sc.writeMode v } } := rfl

theorem exec_tshapeWrite (v : Word) (s : State) :
    exec (.tshapeWrite v) s = .next { s with cur := { s.cur with sc := s.cur.sc.writeTshape v } } := rfl

/-! ### Values that a register does not take -/

theorem Scalar.writeMode_of_ok {v : Word} (h : v >>> 24 = 0) (c : Scalar) : c.writeMode v = { c with mode := v.truncate 25 } := by
  have hok : modeOk v = true := beq_iff_eq.2 h
  simp only [Scalar.writeMode, hok, if_true, Scalar.setMode]

theorem Scalar.writeMode_of_not_ok {v : Word} (h : v >>> 24 ≠ 0) (c : Scalar) : c.writeMode v = c := by
  have hok : modeOk v = false := beq_eq_false_iff_ne.2 h
  simp only [Scalar.writeMode, hok, Bool.false_eq_true, if_false]

theorem Scalar.writeTshape_of_ok {c : Scalar} {v : Word} (h : tshapeOk c.prot v = true) : c.writeTshape v = { c with tshape := v } := by
  simp only [Scalar.writeTshape, h, if_true]

theorem Scalar.writeTshape_of_not_ok {c : Scalar} {v : Word} (h : tshapeOk c.prot v = false) : c.writeTshape v = c := by
  simp only [Scalar.writeTshape, h, Bool.false_eq_true, if_false]

/-! ### The partition's registers -/

/-- A partition that is changed in place, with its number and its set-up bit kept, is found where it was. -/
theorem State.part?_modPart {s : State} {n : Nat} {p : Part} {f : Part → Part} (hid : ∀ q, (f q).id = q.id)
    (hup : ∀ q, (f q).setUp = q.setUp) (h : s.part? n = some p) : (s.modPart n f).part? n = some (f p) := by
  have hkeep : ((fun x : Part => x.id == n && x.setUp) ∘ fun x => if x.id = n then f x else x) =
      fun x => x.id == n && x.setUp := by
    funext x
    simp only [Function.comp_apply]
    split
    · rw [hid, hup]
    · rfl
  have hn : p.id = n := by
    have hp := List.find?_some h
    simp only [Bool.and_eq_true, beq_iff_eq] at hp
    exact hp.1
  unfold State.part? State.modPart at *
  simp only [List.find?_map, hkeep, h, Option.map_some, hn, if_true]

/-- Settles O50: an event leaves its change of the state, and each change is the one of its register's rule. -/
theorem registerWriteEvents : Obligations.RegisterWriteEvents := by
  unfold Obligations.RegisterWriteEvents
  intro s v
  refine ⟨fun h => ?mode, fun h => ?noMode, rfl, rfl, rfl, rfl, rfl, rfl, fun h => ?tshape, fun h => ?noTshape, fun p hp => ?fqtail⟩
  case mode => exact (exec_modeWrite v s).trans (by rw [Scalar.writeMode_of_ok h])
  case noMode => exact (exec_modeWrite v s).trans (by rw [Scalar.writeMode_of_not_ok h])
  case tshape => exact (exec_tshapeWrite v s).trans (by rw [Scalar.writeTshape_of_ok h])
  case noTshape => exact (exec_tshapeWrite v s).trans (by rw [Scalar.writeTshape_of_not_ok h])
  case fqtail => exact ⟨_, rfl, rfl, rfl, State.part?_modPart (fun _ => rfl) (fun _ => rfl) hp⟩

end Sys2Proof.Machine
end

section
/-! The instructions whose effect is a trap, and the return from one (R18, R35, R121, R122, R126). -/

namespace Sys2Proof.Machine

/-- A jump to the address that a return gives. -/
theorem finish_goto {m : M Done} {s t : State} {a : Word} (h : m s = .ok (.goto a) t) :
    finish m s = .next (t.modSc (fun c => { c with pc := a, icount := c.icount + 1 })) := by
  simp only [finish, h]

/-- An instruction of a quiet strand that only raises a cause takes the trap, with the EVAL that it names. -/
theorem finish_raise {s : State} (h : s.Quiet) (c : Nat) (v : Word) :
    finish (raise c v) s = .next (s.trapEntry ⟨c, v, 0, 0, 15, false⟩) := finish_trap (raise_run c v s) h

/-- `sy.eret` in a handler restores MODE, leaves a level of nesting and goes to EPC (R122). -/
theorem exec_syEret_of_nested {s : State} (h : s.cur.sc.tnest ≠ 0) :
    exec .syEret s = .next ((s.modSc Scalar.leave).modSc (fun c => { c with pc := s.cur.sc.epc, icount := c.icount + 1 })) := by
  refine finish_goto (a := s.cur.sc.epc) ?_
  rw [bind_ok (show sc s = .ok s.cur.sc s from rfl), if_neg h]
  rfl

/-- Outside a handler `sy.eret` is an illegal word (R122). -/
theorem exec_syEret_of_not_nested {s : State} (hq : s.Quiet) (h : s.cur.sc.tnest = 0) :
    exec .syEret s = .next (s.trapEntry ⟨cILLEGAL, 0x1E000C00, 0, 0, 15, false⟩) := by
  refine finish_trap ?_ hq
  rw [bind_ok (show sc s = .ok s.cur.sc s from rfl), if_pos h]
  rfl

/-- Settles O20: each form raises its cause at once in a quiet strand; `sy.eret` by the two cases of TNEST. -/
theorem trappingInstructions : Obligations.TrappingInstructions := by
  unfold Obligations.TrappingInstructions
  constructor
  · intro c k w s hq
    exact ⟨finish_raise hq _ _, finish_raise hq _ _, finish_raise hq _ _, finish_raise hq _ _⟩
  · intro s
    exact ⟨fun h => ⟨_, exec_syEret_of_nested h, rfl⟩, exec_syEret_of_not_nested⟩

end Sys2Proof.Machine
end

section
/-! The queue registers and MODE, one fact for each form (R28, R114 to R117). -/

namespace Sys2Proof.Machine

/-! ### Shared operations -/

theorem rv_of_readable {s : State} {r : Reg} (h : s.readable r) : rv r s = .ok (s.reg r) s := by
  obtain ⟨howed, -⟩ := h
  unfold rv
  rw [bind_ok (get_run s)]
  simp [howed]

theorem sound_of_clean {s : State} {rs : List Reg} (h : ∀ r ∈ rs, s.clean r = true) : sound rs s = .ok ⟨⟩ s := by
  have hnone : rs.find? (fun r => !s.clean r) = none := by
    rw [List.find?_eq_none]
    intro r hr
    simp [h r hr]
  unfold sound
  rw [bind_ok (get_run s)]
  simp only [hnone, pure_run]

theorem wordIllegal_run {α : Type} {i : Instr} {w : IWord} (h : encode i = some w) (s : State) :
    (wordIllegal i : M α) s = .error (.trap ⟨cILLEGAL, w.zeroExtend 64, 0, 0, 15, false⟩) s := by
  unfold wordIllegal
  rw [h]
  rfl

/-- The record of queue operations is the only thing that `logQ` changes. -/
theorem logQ_run (q : Nat) (pop : Option Word) (s : State) :
    ∃ l, logQ q pop s = .ok ⟨⟩ (s.modCur (fun x => { x with qlog := l })) := by
  by_cases h : (s.cur.vq.isEmpty && s.cur.mq.isEmpty) = true
  · exact ⟨[], by simp only [logQ, modCur_run, State.modCur, if_pos h]⟩
  · exact ⟨⟨s.cur.seqNo, q, pop, s.cur.ring⟩ :: s.cur.qlog, by simp only [logQ, modCur_run, State.modCur, if_neg h]⟩

/-! ### Queue operations that complete (R114) -/

theorem exec_qPush_zero {s : State} {a : Reg} (ha : s.readable a) (hroom : s.cur.q0.length < 16) :
    ∃ l, exec (.qPush 0 a) s = .next (s.modCur (fun x => { x with q0 := x.q0 ++ [s.reg a], qlog := l })).advance := by
  obtain ⟨l, hl⟩ := logQ_run 0 none (s.modCur (fun x => { x with q0 := x.q0 ++ [s.reg a] }))
  refine ⟨l, finish_adv ?_⟩
  rw [bind_ok (rd_of_readable ha), bind_ok (get_run s), if_pos rfl, if_neg (by omega), bind_ok (modCur_run _ _), bind_ok hl]
  rfl

theorem exec_qPush_two {s : State} {a : Reg} (ha : s.readable a) (hroom : s.cur.q2.length < 8) :
    ∃ l, exec (.qPush 2 a) s = .next (s.modCur (fun x => { x with q2 := x.q2 ++ [s.reg a], qlog := l })).advance := by
  obtain ⟨l, hl⟩ := logQ_run 2 none (s.modCur (fun x => { x with q2 := x.q2 ++ [s.reg a] }))
  refine ⟨l, finish_adv ?_⟩
  rw [bind_ok (rd_of_readable ha), bind_ok (get_run s), if_neg (by decide), if_neg (by omega), bind_ok (modCur_run _ _),
    bind_ok hl]
  rfl

theorem exec_qPop_one {s : State} {d : Reg} {v : Word} {r : List Word} (hd : s.writable d) (hq : s.cur.q1 = v :: r)
    (hp : s.cur.headPoison 1 = false) :
    ∃ l, exec (.qPop d 1) s =
      .next ((s.modCur (fun x => { x with q1 := r, poison := popMarks x.poison 1, qlog := l })).setReg d v).advance := by
  obtain ⟨l, hl⟩ := logQ_run 1 (some v) (s.modCur (fun x => { x with q1 := r, poison := popMarks x.poison 1 }))
  refine ⟨l, finish_adv ?_⟩
  rw [bind_ok (ready_of_writable hd), bind_ok (get_run s), if_pos rfl]
  simp only [hq, hp, Bool.false_eq_true, if_false]
  rw [bind_ok (modCur_run _ _), bind_ok hl]
  rfl

theorem exec_qPop_three {s : State} {d : Reg} {v : Word} {r : List Word} (hd : s.writable d) (hq : s.cur.q3 = v :: r)
    (hp : s.cur.headPoison 3 = false) :
    ∃ l, exec (.qPop d 3) s =
      .next ((s.modCur (fun x => { x with q3 := r, poison := popMarks x.poison 3, qlog := l })).setReg d v).advance := by
  obtain ⟨l, hl⟩ := logQ_run 3 (some v) (s.modCur (fun x => { x with q3 := r, poison := popMarks x.poison 3 }))
  refine ⟨l, finish_adv ?_⟩
  rw [bind_ok (ready_of_writable hd), bind_ok (get_run s), if_neg (by decide)]
  simp only [hq, hp, Bool.false_eq_true, if_false]
  rw [bind_ok (modCur_run _ _), bind_ok hl]
  rfl

theorem exec_qCnt {s : State} {d : Reg} (hd : s.writable d) (q : Reg) :
    exec (.qCnt d q) s =
      .next (s.setReg d (w64 (if q = 1 then s.cur.q1.length else s.cur.q3.length))).advance := by
  refine finish_adv ?_
  rw [bind_ok (ready_of_writable hd), bind_ok (get_run s), bind_ok (wr_run _ _ _)]
  rfl

/-! ### Waits that close a cycle (R115) -/

/-- With empty streams a wait on a queue closes a cycle: the other stream is the one at the far end of the queue. -/
theorem waitStream_of_empty {α : Type} {s : State} (hv : s.cur.vq = []) (hm : s.cur.mq = []) (k : Nat) :
    (waitStream (some k) : M α) s =
      .error (.trap ⟨cQDEADLOCK, w64 (2 ^ k), w64 (if k = 0 ∨ k = 1 then 3 else 5), 0, 15, false⟩) s := by
  unfold waitStream
  rw [bind_ok (get_run s)]
  by_cases hk : k = 0 ∨ k = 1
  · simp [deadlock, vecWaits, hv, hk]
  · simp [deadlock, matWaits, hm, hk]

theorem State.Quiet.waitStream_run {α : Type} {s : State} (h : s.Quiet) (k : Nat) :
    (waitStream (some k) : M α) s =
      .error (.trap ⟨cQDEADLOCK, w64 (2 ^ k), w64 (if k = 0 ∨ k = 1 then 3 else 5), 0, 15, false⟩) s := by
  obtain ⟨-, hv, hm, -⟩ := h
  exact waitStream_of_empty hv hm k

/-! ### MODE (R28, R116, R117) -/

theorem exec_mrPut_of_ok {s : State} {a : Reg} (ha : s.readable a) (h : s.reg a >>> 24 = 0) :
    exec (.mrPut a) s = .next (s.modSc (fun c => { c with mode := (s.reg a).truncate 25 })).advance := by
  have hclean : ∀ r ∈ [a], s.clean r = true := by
    intro r hr
    rw [List.mem_singleton.1 hr]
    exact ha.2
  refine finish_adv ?_
  rw [bind_ok (rv_of_readable ha), if_neg (not_not.2 h), bind_ok (sound_of_clean hclean), bind_ok (modSc_run _ _)]
  rfl

theorem exec_mrPut_of_not_ok {s : State} {a : Reg} (ha : s.readable a) (h : s.reg a >>> 24 ≠ 0) {w : IWord}
    (hw : encode (.mrPut a) = some w) :
    exec (.mrPut a) s = .next (s.stopFrom s (.trap ⟨cILLEGAL, w.zeroExtend 64, 0, 0, 15, false⟩)) := by
  refine finish_error ?_
  rw [bind_ok (rv_of_readable ha), if_pos h]
  exact wordIllegal_run hw s

theorem exec_mrGet {s : State} {d : Reg} (hd : s.writable d) :
    exec (.mrGet d) s = .next (s.setReg d (s.cur.sc.mode.zeroExtend 64)).advance := by
  refine finish_adv ?_
  rw [bind_ok (sc_run s), bind_ok (ready_of_writable hd), bind_ok (wr_run _ _ _)]
  rfl

/-- Settles O17: the queue operations by the room and the entries of their queue, and the three forms that use MODE. -/
theorem queueResults : Obligations.QueueResults := by
  unfold Obligations.QueueResults
  refine ⟨?completes, ?cycle, ?mode⟩
  case completes =>
    intro d a v r s ha hd
    refine ⟨fun h => ?_, fun h => ?_, fun hq hp => ?_, fun hq hp => ?_, exec_qCnt hd 1, exec_qCnt hd 3⟩
    · obtain ⟨l, hl⟩ := exec_qPush_zero ha h
      exact ⟨_, hl, rfl⟩
    · obtain ⟨l, hl⟩ := exec_qPush_two ha h
      exact ⟨_, hl, rfl⟩
    · obtain ⟨l, hl⟩ := exec_qPop_one hd hq hp
      exact ⟨_, hl, rfl, rfl, rfl, rfl, rfl, rfl, rfl⟩
    · obtain ⟨l, hl⟩ := exec_qPop_three hd hq hp
      exact ⟨_, hl, rfl, rfl, rfl, rfl, rfl, rfl, rfl⟩
  case cycle =>
    intro d a s h
    refine ⟨fun hf => finish_trap ?_ h, fun hf => finish_trap ?_ h, fun he => finish_trap ?_ h, fun he => finish_trap ?_ h⟩
    · rw [bind_ok (rd_of_readable (h.readable a)), bind_ok (get_run s), if_pos rfl, if_pos hf]
      exact h.waitStream_run 0
    · rw [bind_ok (rd_of_readable (h.readable a)), bind_ok (get_run s), if_neg (by decide), if_pos hf]
      exact h.waitStream_run 2
    · rw [bind_ok (ready_of_writable (h.writable d)), bind_ok (get_run s), if_pos rfl, he]
      exact h.waitStream_run 1
    · rw [bind_ok (ready_of_writable (h.writable d)), bind_ok (get_run s), if_neg (by decide), he]
      exact h.waitStream_run 3
  case mode =>
    intro d a i s ha hd
    exact ⟨rfl, exec_mrGet hd, exec_mrPut_of_ok ha, fun h w hw => exec_mrPut_of_not_ok ha h hw⟩

end Sys2Proof.Machine
end

section
/-! What `sy.rd` reads of each special register (R47, R93, R103, R120, R251, R399). -/

namespace Sys2Proof.Machine

/-! ### The words of registers that are packed from fields -/

/-- A field above `k` lower bits is a shift and an or. -/
theorem w64_mul_two_pow_add {b k : Nat} (h : b < 2 ^ k) (a : Nat) : w64 (a * 2 ^ k + b) = w64 a <<< k ||| w64 b := by
  have hshift : BitVec.ofNat 64 (a <<< k) = w64 a <<< k := by
    apply BitVec.eq_of_toNat_eq
    simp [w64, Nat.shiftLeft_eq, Nat.mod_mul_mod]
  rw [← hshift, ← Nat.shiftLeft_eq, Nat.shiftLeft_add_eq_or_of_lt h]
  exact BitVec.ofNat_or

theorem w64_mul_two_pow (a k : Nat) : w64 (a * 2 ^ k) = w64 a <<< k := by
  simpa [w64] using w64_mul_two_pow_add (Nat.two_pow_pos k) a

theorem w64_toNat {n : Nat} (x : BitVec n) : w64 x.toNat = x.zeroExtend 64 := BitVec.ofNat_toNat 64 x

/-- The one-bit fields of STS, below TNEST (R93). -/
theorem w64_sts_bits : ∀ prv rolled vlcut nr prot : Bool,
    w64 (prv.toNat * 2 ^ 8 + rolled.toNat * 8 + vlcut.toNat * 4 + nr.toNat * 2 + prot.toNat) =
      (if prv then 0x100 else 0) ||| (if rolled then 8 else 0) ||| (if vlcut then 4 else 0) |||
      (if nr then 2 else 0) ||| (if prot then 1 else 0) := by
  rintro (_ | _) (_ | _) (_ | _) (_ | _) (_ | _) <;> rfl

theorem sts_bits_lt (prv rolled vlcut nr prot : Bool) :
    prv.toNat * 2 ^ 8 + rolled.toNat * 8 + vlcut.toNat * 4 + nr.toNat * 2 + prot.toNat < 2 ^ 10 := by
  have hp := prv.toNat_le
  have hr := rolled.toNat_le
  have hv := vlcut.toNat_le
  have hn := nr.toNat_le
  have ht := prot.toNat_le
  omega

/-- FPEN and TNEST stand above them. -/
theorem w64_sts_fields (f : BitVec 5) (t : BitVec 2) {b : Nat} (h : b < 2 ^ 10) :
    w64 (f.toNat * 2 ^ 16 + (t.toNat * 2 ^ 10 + b)) = f.zeroExtend 64 <<< 16 ||| (t.zeroExtend 64 <<< 10 ||| w64 b) := by
  have ht := t.isLt
  rw [w64_mul_two_pow_add (by omega), w64_mul_two_pow_add h, w64_toNat, w64_toNat]

theorem Scalar.sts_eq (c : Scalar) : c.sts =
    (c.fpen.zeroExtend 64 <<< 16) ||| (c.tnest.zeroExtend 64 <<< 10) ||| (if c.prv then 0x100 else 0) |||
      (if c.rolled then 8 else 0) ||| (if c.vlcut then 4 else 0) ||| (if c.nr then 2 else 0) |||
      (if c.prot then 1 else 0) := by
  have hfields := w64_sts_fields c.fpen c.tnest (sts_bits_lt c.prv c.rolled c.vlcut c.nr c.prot)
  rw [w64_sts_bits] at hfields
  simp only [← BitVec.or_assoc, ← Nat.add_assoc] at hfields
  exact hfields

theorem LoopEnd.word_eq (l : LoopEnd) : l.word = (l.len.zeroExtend 64 <<< 48) ||| (l.stop.zeroExtend 64 <<< 2) := by
  have hstop := l.stop.isLt
  rw [← w64_toNat, ← w64_toNat, ← w64_mul_two_pow l.stop.toNat 2, ← w64_mul_two_pow_add (by omega)]
  rfl

theorem w64_fqbase_word (b : BitVec 40) (z : BitVec 4) :
    w64 (b.toNat * 2 ^ 12 + z.toNat) = (b.zeroExtend 64 <<< 12) ||| z.zeroExtend 64 := by
  have hz := z.isLt
  rw [w64_mul_two_pow_add (by omega), w64_toNat, w64_toNat]

theorem w64_scopectl_word (b : BitVec 5) : w64 (b.toNat * 2) = b.zeroExtend 64 <<< 1 := by
  rw [← w64_toNat, ← w64_mul_two_pow b.toNat 1, Nat.pow_one]

theorem w64_ptroot_word (b : BitVec 40) : w64 (b.toNat * 2 ^ 12) = b.zeroExtend 64 <<< 12 := by
  rw [← w64_toNat, w64_mul_two_pow]

/-! ### The map of the special registers (R47) -/

/-- The indices of the registers that a user strand reads. -/
def userSpecIds : List Nat :=
  [0x000, 0x001, 0x002, 0x003, 0x004, 0x005, 0x008, 0x009, 0x00A, 0x00B, 0x00C, 0x00D, 0x00E, 0x00F, 0x010, 0x011, 0x012,
   0x013, 0x020, 0x021, 0x022, 0x023, 0x024, 0x025, 0x026, 0x027, 0x028, 0x029, 0x02A, 0x02B, 0x02C, 0x040, 0x041, 0x042,
   0x043, 0x048, 0x050, 0x051, 0x060, 0x061, 0x062, 0x063, 0x064, 0x070, 0x080]

/-- The indices of the registers of the partition. -/
def privSpecIds : List Nat := [0x100, 0x101, 0x102, 0x103, 0x104, 0x105, 0x106]

theorem State.userRegs_ids (s : State) : s.userRegs.map (·.1) = userSpecIds := rfl

theorem State.privRegs_ids (s : State) : s.privRegs.map (·.1) = privSpecIds := by
  unfold State.privRegs
  split <;> rfl

theorem nodup_specIds : (userSpecIds ++ privSpecIds).Nodup := by decide

/-- In a list of pairs with distinct first components, a search for one of them finds its pair. -/
theorem find?_of_mem_of_nodup {β : Type} {k : Nat} {v : β} : ∀ {l : List (Nat × β)}, (l.map (·.1)).Nodup → (k, v) ∈ l →
    l.find? (fun r => r.1 == k) = some (k, v)
  | r :: l, hnd, hmem => by
    obtain ⟨hr, hl⟩ := List.nodup_cons.1 hnd
    rcases List.mem_cons.1 hmem with rfl | hmem
    · simp
    · have hne : r.1 ≠ k := by
        rintro rfl
        exact hr (List.mem_map_of_mem (f := (·.1)) hmem)
      rw [List.find?_cons_of_neg (by simpa using hne)]
      exact find?_of_mem_of_nodup hl hmem

theorem State.specReg_of_mem {s : State} {k : Nat} {v : Word} (h : (k, v) ∈ s.userRegs ++ s.privRegs) :
    s.specReg k = some v := by
  have hnd : ((s.userRegs ++ s.privRegs).map (·.1)).Nodup := by
    rw [List.map_append, s.userRegs_ids, s.privRegs_ids]
    exact nodup_specIds
  unfold State.specReg
  rw [find?_of_mem_of_nodup hnd h, Option.map_some]

theorem State.lt_of_mem_userRegs {s : State} {k : Nat} {v : Word} (h : (k, v) ∈ s.userRegs) : k < 0x100 := by
  have hlt : ∀ i ∈ userSpecIds, i < 0x100 := by decide
  exact hlt k (s.userRegs_ids ▸ List.mem_map_of_mem (f := (·.1)) h)

theorem State.lt_of_mem_privRegs {s : State} {k : Nat} {v : Word} (h : (k, v) ∈ s.privRegs) : k < 0x200 := by
  have hlt : ∀ i ∈ privSpecIds, i < 0x200 := by decide
  exact hlt k (s.privRegs_ids ▸ List.mem_map_of_mem (f := (·.1)) h)

/-! ### The read -/

/-- An index of the map that the strand may reach passes the checks of R48 on a read. -/
theorem checkSpec_read {s : State} {i : Instr} {x : Nat} {v : Word} (h : s.specReg x = some v) (hx : x < 0x200)
    (hp : x < 0x100 ∨ s.cur.sc.prv = true) : checkSpec i x false s = .ok ⟨⟩ s := by
  have hpriv : (decide (0x100 ≤ x) && !s.cur.sc.prv) = false := by
    rcases hp with hp | hp
    · simp [show ¬ 0x100 ≤ x by omega]
    · simp [hp]
  unfold checkSpec
  rw [bind_ok (get_run s), if_neg (by omega), hpriv, h]
  rfl

/-- A quiet strand has nothing queued and has passed no `at`. -/
theorem State.Quiet.drained_run {s : State} (h : s.Quiet) : drained s = .ok ⟨⟩ s := by
  have hahead := h.notAhead
  obtain ⟨-, hv, hm, -⟩ := h
  unfold drained
  rw [bind_ok (get_run s)]
  simp [hv, hm, hahead]

theorem State.Quiet.mayCharge {s : State} (h : s.Quiet) : s.mayCharge = false := by
  have hahead := h.notAhead
  obtain ⟨-, hv, -⟩ := h
  simp [State.mayCharge, hv, hahead]

/-- A check that is made only under a condition, and passes then, makes no difference. -/
theorem ite_bind_run {α : Type} {c : Prop} [Decidable c] {m : M Unit} {k : Unit → M α} {s : State}
    (h : c → m s = .ok ⟨⟩ s) : (if c then m >>= k else k ⟨⟩) s = k ⟨⟩ s := by
  by_cases hc : c
  · rw [if_pos hc, bind_ok (h hc)]
  · rw [if_neg hc]

/-- In a quiet strand `sy.rd` of a register that it may reach completes with the register's value. -/
theorem exec_syRd {s : State} (hq : s.Quiet) (d : Reg) {x : BitVec 10} {v : Word} (h : s.specReg x.toNat = some v)
    (hx : x.toNat < 0x200) (hp : x.toNat < 0x100 ∨ s.cur.sc.prv = true) :
    exec (.syRd d x) s = .next (s.setReg d v).advance := by
  have hcharge : ¬ (decide (x.toNat = 0x050) && s.mayCharge) = true := by
    rw [hq.mayCharge, Bool.and_false]
    exact Bool.false_ne_true
  refine finish_adv ?_
  rw [bind_ok (checkSpec_read h hx hp)]
  refine (ite_bind_run fun _ => hq.drained_run).trans ?_
  beta_reduce
  rw [bind_ok (get_run s), if_neg hcharge]
  beta_reduce
  rw [bind_ok (ready_of_writable (hq.writable d)), bind_ok (get_run s), h,
    bind_ok (wr_run _ _ _)]
  rfl

theorem exec_syRd_user {s : State} (hq : s.Quiet) (d : Reg) {x : BitVec 10} {v : Word} (h : (x.toNat, v) ∈ s.userRegs) :
    exec (.syRd d x) s = .next (s.setReg d v).advance := by
  have hx := s.lt_of_mem_userRegs h
  exact exec_syRd hq d (s.specReg_of_mem (List.mem_append_left _ h)) (by omega) (.inl hx)

theorem exec_syRd_priv {s : State} (hq : s.Quiet) (hp : s.cur.sc.prv = true) (d : Reg) {x : BitVec 10} {v : Word}
    (h : (x.toNat, v) ∈ s.privRegs) : exec (.syRd d x) s = .next (s.setReg d v).advance :=
  exec_syRd hq d (s.specReg_of_mem (List.mem_append_right _ h)) (s.lt_of_mem_privRegs h) (.inr hp)

/-- Settles O18: the two lists of the statement are the model's maps of the user and of the privileged registers. -/
theorem specialRegisterReads : Obligations.SpecialRegisterReads := by
  unfold Obligations.SpecialRegisterReads
  intro d s p hq hp
  refine ⟨fun r hr => exec_syRd_user hq d ?user, fun hprv r hr => exec_syRd_priv hq hprv d ?priv⟩
  case user =>
    have hmem := List.mem_map_of_mem (f := fun r : BitVec 10 × Word => (r.1.toNat, r.2)) hr
    simp only [State.userRegs, Scalar.sts_eq, LoopEnd.word_eq, w64_scopectl_word]
    exact hmem
  case priv =>
    have hmem := List.mem_map_of_mem (f := fun r : BitVec 10 × Word => (r.1.toNat, r.2)) hr
    simp only [State.privRegs, hp, w64_ptroot_word, w64_fqbase_word]
    exact hmem

end Sys2Proof.Machine
end

section
/-! An access within the strand's scratchpad allotment: one piece, which no check refuses and whose bytes are those of memory
(R107, R221, R226, R291). -/

namespace Sys2Proof.Machine

/-- The piece of an access to n bytes at offset `off` of the strand's scratchpad allotment. -/
def State.padSeg (s : State) (off n : Nat) : Seg :=
  ⟨w64 (scratchBase + off), n, scratchKey s.cur.ident.quad (s.cur.ident.abase + off), none, false⟩

/-- The access lies within the allotment and within one page. -/
def State.padFits (s : State) (off n : Nat) : Prop :=
  0 < n ∧ off % 4096 + n ≤ 4096 ∧ off + n ≤ s.cur.ident.alen ∧ s.cur.ident.alen ≤ 2 ^ 21

theorem State.padPlain.fits {s : State} {off n : Nat} (h : s.padPlain off n) (hn : 0 < n) : s.padFits off n := by
  obtain ⟨hpage, hlen, halen, -⟩ := h
  exact ⟨hn, hpage, hlen, halen⟩

theorem toNat_scratch {off : Nat} (h : off < 2 ^ 21) : (w64 (scratchBase + off)).toNat = scratchBase + off :=
  Nat.mod_eq_of_lt (show scratchBase + off < 2 ^ 64 by unfold scratchBase; omega)

theorem inWindow_scratch {off : Nat} (h : off < 2 ^ 21) : inWindow (w64 (scratchBase + off)) = true := by
  unfold inWindow
  rw [toNat_scratch h, decide_eq_true_eq]
  unfold scratchBase
  omega

/-! ### Translation and checks (R107, R221) -/

/-- A piece of the scratchpad window that ends within the allotment. -/
theorem State.windowSeg_scratch (s : State) {v : Word} {n : Nat} {a : Acc} (ha : a.kind ≠ 0)
    (hin : scratchBase ≤ v.toNat ∧ v.toNat < scratchBase + 2 ^ 21) (hlen : v.toNat - scratchBase + n ≤ s.cur.ident.alen) :
    s.windowSeg v n a =
      .ok ⟨v, n, scratchKey s.cur.ident.quad (s.cur.ident.abase + (v.toNat - scratchBase)), none, false⟩ := by
  unfold State.windowSeg
  rw [if_neg ha, if_pos hin]
  split
  · next f hf =>
    have hlt : s.cur.ident.alen < v.toNat - scratchBase + n := by
      by_contra hc
      simp [hc] at hf
    exact absurd hlt (Nat.not_lt.2 hlen)
  · rfl

section
variable {s : State} {off n : Nat} (h : s.padFits off n)
include h

theorem State.padFits.off_lt : off < 2 ^ 21 := by
  obtain ⟨hn, -, hlen, halen⟩ := h
  omega

theorem State.padFits.segOf {a : Acc} (ha : a.kind ≠ 0) :
    s.segOf (w64 (scratchBase + off)) n a = (.ok (s.padSeg off n), s) := by
  have hva := toNat_scratch h.off_lt
  have hoff := h.off_lt
  obtain ⟨-, -, hlen, -⟩ := h
  have hsub : (w64 (scratchBase + off)).toNat - scratchBase = off := by rw [hva, Nat.add_sub_cancel_left]
  have hin : scratchBase ≤ (w64 (scratchBase + off)).toNat ∧ (w64 (scratchBase + off)).toNat < scratchBase + 2 ^ 21 := by
    rw [hva]
    exact ⟨Nat.le_add_right _ _, Nat.add_lt_add_left hoff _⟩
  unfold State.segOf
  rw [if_pos (inWindow_scratch hoff), s.windowSeg_scratch ha hin (by rwa [hsub]), hsub]
  rfl

theorem State.padFits.cuts (fuel : Nat) :
    cuts (w64 (scratchBase + off)) (fuel + 1) n = [(w64 (scratchBase + off), n)] := by
  have hva := toNat_scratch h.off_lt
  obtain ⟨hn, hpage, -⟩ := h
  have hroom : n ≤ 4096 - (scratchBase + off) % 4096 := by
    unfold scratchBase
    omega
  simp only [Machine.cuts, hva, if_neg (show n ≠ 0 by omega), if_pos hroom]

theorem State.padFits.segsGo {a : Acc} (ha : a.kind ≠ 0) :
    State.segsGo [(w64 (scratchBase + off), n)] a s none [] = (.ok [s.padSeg off n], s) := by
  simp only [State.segsGo, h.segOf ha, List.reverse_singleton]

theorem State.padFits.segs {a : Acc} (ha : a.kind ≠ 0) :
    s.segs (w64 (scratchBase + off)) n a = (.ok [s.padSeg off n], s) := by
  simp only [State.segs, h.cuts, h.segsGo ha]

theorem State.padFits.segsM {a : Acc} (ha : a.kind ≠ 0) (rst : Nat) :
    segsM (w64 (scratchBase + off)) n a rst s = .ok [s.padSeg off n] s := by
  unfold Machine.segsM
  rw [bind_ok (get_run s)]
  simp only [h.segs ha]
  rfl

/-- An aligned access has its piece. -/
theorem State.padFits.alignedSegs {a : Acc} (ha : a.kind ≠ 0) (eval : Word) (rst : Nat) :
    alignedSegs false eval [(w64 (scratchBase + off), n)] a rst s = .ok [s.padSeg off n] s := by
  unfold Machine.alignedSegs
  rw [bind_ok (get_run s)]
  simp only [h.segsGo ha]
  rfl

/-- An access that is not aligned raises MISALIGN. -/
theorem State.padFits.misaligned {a : Acc} (ha : a.kind ≠ 0) (eval : Word) (rst : Nat) :
    Machine.alignedSegs true eval [(w64 (scratchBase + off), n)] a rst s =
      .error (.trap ⟨cMISALIGN, eval, 0, rst, 15, false⟩) s := by
  unfold Machine.alignedSegs
  rw [bind_ok (get_run s)]
  simp only [h.segsGo ha]
  rfl

end

/-! ### Marks and bytes (R226, R291, R398) -/

theorem memGetN_eq_map (m : Memory) : ∀ n k : Nat, memGetN m k n = (List.range n).map (fun i => memGet m (k + i))
  | 0, _ => rfl
  | n + 1, k => by
    rw [List.range_succ_eq_map, List.map_cons, List.map_map, memGetN, memGetN_eq_map m n (k + 1)]
    simp only [Nat.add_zero, List.cons.injEq, true_and]
    exact List.map_congr_left fun i _ => by rw [Function.comp_apply, Nat.succ_eq_add_one, Nat.add_right_comm, Nat.add_assoc]

section
variable {s : State} {off n : Nat} (h : s.padPlain off n)
include h

/-- No byte of the piece carries a faulting mark. -/
theorem State.padPlain.segFail : s.segFail (s.padSeg off n) = none := by
  obtain ⟨-, -, -, hbytes⟩ := h
  have hmark : s.markedByte (s.padSeg off n) = none := by
    rw [State.markedByte, List.find?_eq_none]
    intro i hi
    obtain ⟨hf, -, -⟩ := hbytes i (List.mem_range.1 hi)
    simp [State.padSeg, hf]
  unfold State.segFail
  rw [hmark]
  rfl

theorem State.padPlain.turnCheck (rst : Nat) : turnCheck [s.padSeg off n] rst s = .ok ⟨⟩ s := by
  have hfail : s.turnFail [s.padSeg off n] = none := by
    simp [State.turnFail, h.segFail]
  unfold Machine.turnCheck
  rw [bind_ok (get_run s), hfail]
  rfl

/-- The bytes of the piece are those of memory, and none is poisoned. -/
theorem State.padPlain.readSegB (pol : Nat) : readSegB pol (s.padSeg off n) s =
    .ok ((memGetN s.mem (scratchKey s.cur.ident.quad (s.cur.ident.abase + off)) n).map (fun b => (b, false))) s := by
  obtain ⟨-, -, -, hbytes⟩ := h
  have hread : (List.range n).map (fun i =>
      match stage1 s.quad.d s.cur.ident.core ((s.padSeg off n).key + i) false with
      | some b => (b.val, b.bad)
      | none => (memGet s.mem ((s.padSeg off n).key + i), s.poisonedAt ((s.padSeg off n).key + i))) =
      (memGetN s.mem (s.padSeg off n).key n).map (fun b => (b, false)) := by
    rw [memGetN_eq_map, List.map_map]
    refine List.map_congr_left fun i hi => ?_
    obtain ⟨-, hp, h1⟩ := hbytes i (List.mem_range.1 hi)
    simp only [State.padSeg, h1, hp, Function.comp_apply]
  exact congrArg (EStateM.Result.ok · s) hread

theorem State.padPlain.readSeg (pol : Nat) : readSeg pol (s.padSeg off n) s =
    .ok (memGetN s.mem (scratchKey s.cur.ident.quad (s.cur.ident.abase + off)) n) s := by
  have hnone : ∀ bs : List Byte, (bs.map (fun b => (b, false))).findIdx? (·.2) = none := by
    intro bs
    simp [List.findIdx?_eq_none_iff]
  unfold Machine.readSeg
  rw [bind_ok (get_run s), bind_ok (h.readSegB pol), hnone]
  simp [Function.comp_def]

end

end Sys2Proof.Machine
end

section
/-! The forms that give, take away and read a tensor identifier (R38, R212, R213). -/

namespace Sys2Proof.Machine

theorem finishK_adv {k : Nat} {wr : Bool} {m : M Done} {s t : State} (h : m s = .ok .adv t) :
    finishK k wr m s = .next t.advance := (finishK_ok h).trans (finish_adv h)

/-- A quiet strand's instruction that raises a cause takes the trap, with the kind of its accesses (R387, R395). -/
theorem finishK_trap {k rst : Nat} {wr : Bool} {m : M Done} {s u : State} {c : Nat} {v i : Word}
    (h : m s = .error (.trap ⟨c, v, i, rst, 15, false⟩) u) (hq : u.Quiet) :
    finishK k wr m s = .next (u.trapEntry ⟨c, v, i, rst, k, wr⟩) := by
  refine finish_trap ?_ hq
  simp only [h, if_true]

/-! ### Identifiers -/

theorem tensorId_of_readable {s : State} {a : Reg} (h : s.readable a) : tensorId a s = .ok ((s.reg a).toNat % 256) s := by
  have hid : bitsOf (s.reg a) 7 0 = (s.reg a).toNat % 256 := by simp [bitsOf]
  unfold tensorId
  rw [bind_ok (rv_of_readable h), hid]
  rfl

theorem tensor_of_held {s : State} {id : Nat} {t : Nat × List Byte} (h : s.cur.tids.find? (fun t => t.1 == id) = some t) :
    tensor id s = .ok t.2 s := by
  unfold tensor
  rw [bind_ok (get_run s), h]
  rfl

theorem tensor_of_not_held {s : State} {id : Nat} (h : s.cur.tids.find? (fun t => t.1 == id) = none) :
    tensor id s = .error (.trap ⟨cBOUNDS, w64 id, 0, 0, 15, false⟩) s := by
  unfold tensor
  rw [bind_ok (get_run s), h]
  rfl

/-- The operands of a quiet strand are not poisoned. -/
theorem State.Quiet.sound {s : State} (h : s.Quiet) (rs : List Reg) : sound rs s = .ok ⟨⟩ s :=
  sound_of_clean fun r _ => h.clean r

/-! ### A structure in the scratchpad -/

/-- A structure that lies aligned in the strand's allotment is read whole. -/
theorem readStruct_pad {s : State} {off n : Nat} (hq : s.Quiet) (h : s.padPlain off n) (hn : 0 < n) {a : Acc}
    (ha : a.kind ≠ 0) (ops : List Reg) : readStruct false (w64 (scratchBase + off)) n a ops s =
      .ok (memGetN s.mem (scratchKey s.cur.ident.quad (s.cur.ident.abase + off)) n) s := by
  have hf := h.fits hn
  have hread : [s.padSeg off n].mapM (readSeg 0) s =
      .ok [memGetN s.mem (scratchKey s.cur.ident.quad (s.cur.ident.abase + off)) n] s := by
    simp only [List.mapM_cons, List.mapM_nil]
    rw [bind_ok (h.readSeg 0)]
    rfl
  unfold readStruct
  rw [hf.cuts, bind_ok (hf.alignedSegs ha _ _), bind_ok (h.turnCheck 0), bind_ok (hq.sound ops), bind_ok hread]
  simp

/-! ### The forms (R213) -/

/-- `tn.def` of an aligned descriptor in the allotment, by the first of its rules that fails. -/
theorem exec_tnDef {s : State} (hq : s.Quiet) (a : Reg) {b : Reg} {off : Nat} (hb : s.reg b = w64 (scratchBase + off))
    (hoff : off % 128 = 0) (h : s.padPlain off 128) {bs : List Byte}
    (hbs : memGetN s.mem (scratchKey s.cur.ident.quad (s.cur.ident.abase + off)) 128 = bs) :
    exec (.tnDef a b) s = (firstBad (descRules bs)).elim
      (.next (s.modCur (fun x => { x with
        tids := ((s.reg a).toNat % 256, bs) :: x.tids.filter (fun t => t.1 != (s.reg a).toNat % 256) })).advance)
      (fun o => .next (s.trapEntry ⟨cBOUNDS, s.reg b, w64 o, 0, 11, false⟩)) := by
  have hva := toNat_scratch (h.fits (by omega)).off_lt
  have haligned : ((s.reg b).toNat % 128 != 0) = false := by
    have hmod : (scratchBase + off) % 128 = 0 := by
      unfold scratchBase
      omega
    rw [hb, hva, hmod]
    rfl
  have hread : readStruct ((s.reg b).toNat % 128 != 0) (s.reg b) 128 accStruct [a, b] s = .ok bs s := by
    rw [haligned, hb, readStruct_pad hq h (by omega) (by decide), hbs]
  have hloads : ¬ s.cur.loadWaits = true := by simp [hq.loadWaits]
  cases hbad : firstBad (descRules bs) with
  | none =>
    refine finishK_adv ?_
    rw [bind_ok (tensorId_of_readable (hq.readable a)), bind_ok (rv_of_readable (hq.readable b)), bind_ok (get_run s),
      if_neg hloads, bind_ok hread, hbad]
    rfl
  | some o =>
    refine finishK_trap ?_ hq
    rw [bind_ok (tensorId_of_readable (hq.readable a)), bind_ok (rv_of_readable (hq.readable b)), bind_ok (get_run s),
      if_neg hloads, bind_ok hread, hbad]
    rfl

section
variable {s : State} (hq : s.Quiet) (d a b : Reg)
include hq

theorem exec_tnInv_of_not_held (h : s.cur.tids.find? (fun t => t.1 == (s.reg a).toNat % 256) = none) :
    exec (.tnInv a) s = s.traps cBOUNDS (w64 ((s.reg a).toNat % 256)) 0 := by
  refine finish_trap ?_ hq
  rw [bind_ok (tensorId_of_readable (hq.readable a)), bind_error (tensor_of_not_held h)]

theorem exec_tnRd_of_not_held (h : s.cur.tids.find? (fun t => t.1 == (s.reg a).toNat % 256) = none) :
    exec (.tnRd d a b) s = s.traps cBOUNDS (w64 ((s.reg a).toNat % 256)) 0 := by
  refine finish_trap ?_ hq
  rw [bind_ok (ready_of_writable (hq.writable d)), bind_ok (tensorId_of_readable (hq.readable a)),
    bind_ok (rv_of_readable (hq.readable b)), bind_error (tensor_of_not_held h)]

variable {t : Nat × List Byte} (h : s.cur.tids.find? (fun t => t.1 == (s.reg a).toNat % 256) = some t)
include h

theorem exec_tnInv_of_held : exec (.tnInv a) s =
    .next (s.modCur (fun x => { x with tids := x.tids.filter (fun t => t.1 != (s.reg a).toNat % 256) })).advance := by
  refine finish_adv ?_
  rw [bind_ok (tensorId_of_readable (hq.readable a)), bind_ok (tensor_of_held h), bind_ok (hq.sound [a]),
    bind_ok (modCur_run _ _)]
  rfl

theorem exec_tnRd_of_held (hk : (s.reg b).toNat ≤ 15) : exec (.tnRd d a b) s =
    .next (s.setReg d (w64 (leNat ((t.2.drop (8 * (s.reg b).toNat)).take 8)))).advance := by
  refine finish_adv ?_
  rw [bind_ok (ready_of_writable (hq.writable d)), bind_ok (tensorId_of_readable (hq.readable a)),
    bind_ok (rv_of_readable (hq.readable b)), bind_ok (tensor_of_held h), if_neg (by omega), bind_ok (hq.sound [a, b]),
    bind_ok (wr_run _ _ _)]
  rfl

theorem exec_tnRd_of_big_index (hk : 15 < (s.reg b).toNat) : exec (.tnRd d a b) s = s.traps cBOUNDS (s.reg b) 0 := by
  refine finish_trap ?_ hq
  rw [bind_ok (ready_of_writable (hq.writable d)), bind_ok (tensorId_of_readable (hq.readable a)),
    bind_ok (rv_of_readable (hq.readable b)), bind_ok (tensor_of_held h), if_pos hk]
  rfl

end

/-- Settles O38: `tn.def` by the first failing rule; `tn.inv` and `tn.rd` by whether the identifier has a descriptor. -/
theorem tensorDescriptors : Obligations.TensorDescriptors := by
  unfold Obligations.TensorDescriptors
  intro d a b s off hq
  refine ⟨fun hb hoff h => ⟨fun hbad => ?good, fun o hbad => ?bad⟩,
    fun h => ⟨exec_tnInv_of_not_held hq a h, exec_tnRd_of_not_held hq d a b h⟩,
    fun t h => ⟨exec_tnInv_of_held hq a h, exec_tnRd_of_held hq d a b h, exec_tnRd_of_big_index hq d a b h⟩⟩
  case good => rw [exec_tnDef hq a hb hoff h rfl, hbad, Option.elim_none]
  case bad => rw [exec_tnDef hq a hb hoff h rfl, hbad, Option.elim_some]

end Sys2Proof.Machine
end

section
/-! An `at` form that releases at DIE scope or wider waits while a byte of its strand is on its way home, wherever that byte lies
(R230, R302, R414): `release` asks the quad outbound cache. The conditions of the statement speak of the core's own bytes of the word
and of the effects of the strand, not of that byte. -/

namespace Sys2Proof.Machine

/-- A byte of strand 1 that the quad outbound cache has sent home. -/
def sentByte : OutB :=
  ⟨none, 0, 0, true, [1], ⟨0, 128, true, 0, 0⟩, some 0, false⟩

/-- A strand under ETA = I32 and SCP = 4, with one page of scratchpad and the address of its first word in s4; the outbound cache of
its quad holds `sentByte`. -/
def atBehindSent : State :=
  { State.reset with
    cur := { Strand.absent with
      uid := 1, status := .running, ident := { Ident.blank with alen := 4096 }
      sc := { Scalar.blank with mode := 2 * 16 + 15 * 256 + 4 * 262144, regs := Scalar.blank.regs.set 4 (w64 scratchBase) } }
    quad := { Quad.empty 0 with d := { QuadData.empty with out := [sentByte] } } }

theorem atBehindSent_settled : atBehindSent.Settled := by
  dsimp only [State.Settled, State.Quiet]
  and_intros <;> decide

theorem atBehindSent_padPlain : atBehindSent.padPlain 0 4 := by
  dsimp only [State.padPlain]
  and_intros <;> decide

/-- Its releasing `at.add` is not completed: the PC stays where it was. -/
theorem exec_atAdd_atBehindSent :
    ∃ t, exec (.atAdd 3 4 5 false .rel false) atBehindSent = .next t ∧ t.cur.sc.pc = 0 := ⟨_, rfl, rfl⟩

/-- Refutes O44: with a byte of the strand on its way home, which the clause's conditions allow, a releasing `at.add` at
SCP = 4 waits and completes nothing. -/
theorem not_atomicResults : ¬ Obligations.AtomicResults := by
  unfold Obligations.AtomicResults
  rintro ⟨hresults, -⟩
  obtain ⟨hint, -⟩ := hresults 3 4 5 false false .rel atBehindSent .i32 0 atBehindSent_settled (by decide) (by decide)
    (by decide) (by decide) atBehindSent_padPlain (by decide) (by decide) (by decide) (by decide)
  obtain ⟨⟨u, hnext, -, hsc, -⟩, -⟩ := hint (.inl rfl)
  obtain ⟨t, hwait, hpc⟩ := exec_atAdd_atBehindSent
  have hu : u = t := Host.Outcome.next.inj (hnext.symm.trans hwait)
  have hmoved : u.cur.sc.pc = 4 := congrArg Scalar.pc hsc
  rw [hu, hpc] at hmoved
  exact absurd hmoved (by decide)

end Sys2Proof.Machine
end

section
/-! Reset, and the frame of a write of one scalar register (R91, R92, R104, R124, R466). -/

namespace Sys2Proof.Machine

/-- Settles O4: every clause but the last two is a field of `State.reset`; both lists of bytes are empty. -/
theorem resetState : Obligations.ResetState :=
  ⟨⟨rfl, rfl, rfl, rfl, rfl, rfl, fun _ => rfl⟩, wf_reset, rfl⟩

/-! ### The write of a register -/

/-- A write of a scalar register changes the registers and nothing else of the scalar state. -/
theorem Scalar.setReg_eq (c : Scalar) (r : Reg) (v : Word) : c.setReg r v = { c with regs := (c.setReg r v).regs } := by
  unfold Scalar.setReg
  split <;> rfl

theorem State.reg_setReg_same {r : Reg} (h : r ≠ 0) (s : State) (v : Word) : (s.setReg r v).reg r = v :=
  Scalar.reg_setReg_same h s.cur.sc v

/-- A written register holds no poisoned word (R397). -/
theorem State.clean_setReg_same (s : State) (r : Reg) (v : Word) : (s.setReg r v).clean r = true := by
  rw [State.clean, Bool.not_eq_true', List.any_eq_false]
  intro p hp
  simpa [imp_iff_not_or] using (List.mem_filter.1 hp).2

/-- Writing a register and going on changes what `OnlyReg` lists. -/
theorem State.onlyReg_setReg_advance (s : State) (r : Reg) (v : Word) : OnlyReg r s (s.setReg r v).advance := by
  refine ⟨?_, fun q hq => State.reg_setReg_ne hq s v⟩
  have hset : s.setReg r v = { s with cur := { s.cur with sc := { s.cur.sc with regs := (s.cur.sc.setReg r v).regs },
                                                            poison := (s.setReg r v).cur.poison } } := by
    conv => lhs; unfold State.setReg; rw [s.cur.sc.setReg_eq r v]
    rfl
  generalize (s.setReg r v).cur.poison = k at hset
  rw [hset]
  rfl

/-- Settles O7: `OnlyReg` is the frame of the shape; the fields that the statement names once more stand outside it. -/
theorem registerWrites : Obligations.RegisterWrites := by
  unfold Obligations.RegisterWrites
  intro s v
  refine ⟨rfl, rfl, rfl, fun r => ⟨fun hr => ⟨s.reg_setReg_same hr v, s.clean_setReg_same r v⟩, ?_⟩⟩
  have hsc : (s.setReg r v).advance.cur.sc = { s.cur.sc with regs := (s.cur.sc.setReg r v).regs }.advance :=
    congrArg Scalar.advance (s.cur.sc.setReg_eq r v)
  refine ⟨s.onlyReg_setReg_advance r v, ?_, ?_, ?_, ?_, ?_, ?_, ?_, rfl, rfl, rfl, rfl, fun _ => rfl⟩ <;> rw [hsc] <;> rfl

end Sys2Proof.Machine
end

section
/-! Division by zero and the most negative number by −1 (R95). -/

namespace Sys2Proof.Machine

theorem Scalar.flags_setReg (c : Scalar) (r : Reg) (v : Word) : (c.setReg r v).flags = c.flags := by
  rw [c.setReg_eq r v]

/-- Settles O9: the special values of the library's division, in the shape of the two-operand forms. -/
theorem divisionCorners : Obligations.DivisionCorners := by
  unfold Obligations.DivisionCorners
  intro d a b s ha hb hd
  refine ⟨fun h0 => ?zero, fun hx hy => ?overflow, fun v => s.cur.sc.flags_setReg d v⟩
  case zero =>
    exact ⟨finish_alu2 ha hb hd (by rw [divS_eq, if_pos h0]; rfl), finish_alu2 ha hb hd (by rw [divU_eq, if_pos h0]; rfl),
      finish_alu2 ha hb hd (by rw [remS_eq, if_pos h0]), finish_alu2 ha hb hd (by rw [remU_eq, if_pos h0])⟩
  case overflow =>
    exact ⟨finish_alu2 ha hb hd (by rw [hx, hy]; decide), finish_alu2 ha hb hd (by rw [hx, hy]; decide)⟩

end Sys2Proof.Machine
end

section
/-! Branches, jumps and hardware loops (R98 to R105). -/

namespace Sys2Proof.Machine

/-- An offset in words is four times as many bytes. -/
theorem shiftLeft_two_eq (x : Word) : x <<< 2 = 4 * x := by
  rw [BitVec.shiftLeft_eq_mul_twoPow, BitVec.mul_comm]
  rfl

/-- A branch whose operands can be read goes to its target exactly when its condition holds (R98). -/
theorem finish_branch {s : State} {a b : Reg} {p : Word → Word → Bool} {c : Bool} (o : BitVec 12) (ha : s.readable a)
    (hb : s.readable b) (hc : p (s.reg a) (s.reg b) = c) :
    finish (branch a b o p) s = .next (if c then s.transfer (s.cur.sc.pc + 4 * o.signExtend 64) else s.advance) := by
  have h := branch_run o p ha hb
  rw [hc, shiftLeft_two_eq] at h
  cases c
  · exact finish_adv h
  · exact finish_jump h

theorem decide_toInt_le (x y : Word) : decide (y.toInt ≤ x.toInt) = !x.slt y := by
  simp [BitVec.slt_eq_decide, ← decide_not]

theorem decide_toNat_le (x y : Word) : decide (y.toNat ≤ x.toNat) = !x.ult y := by
  simp [BitVec.ult_eq_decide, ← decide_not]

theorem exec_jl {s : State} (o : BitVec 25) (h : s.writable 1) :
    exec (.jl o) s = .next ((s.setReg 1 (s.cur.sc.pc + 4)).transfer (s.cur.sc.pc + 4 * o.signExtend 64)) := by
  rw [← shiftLeft_two_eq]
  refine finish_jump ?_
  rw [bind_ok (sc_run s), bind_ok (ready_of_writable h), bind_ok (wr_run _ _ _)]
  rfl

section
variable {s : State} {d a : Reg} {i : BitVec 15} (ha : s.readable a)
include ha

theorem exec_jr_of_aligned (hd : s.writable d) (h : s.reg a + i.signExtend 64 &&& 3 = 0) :
    exec (.jr d a i) s = .next ((s.setReg d (s.cur.sc.pc + 4)).transfer (s.reg a + i.signExtend 64)) := by
  have hclean : ∀ r ∈ [a], s.clean r = true := fun r hr => List.mem_singleton.1 hr ▸ ha.2
  refine finish_jump ?_
  rw [bind_ok (rv_of_readable ha), bind_ok (sc_run s)]
  refine (congrFun (if_neg (not_not.2 h)) s).trans ?_
  rw [ bind_ok (sound_of_clean hclean), bind_ok (ready_of_writable hd), bind_ok (wr_run _ _ _)]
  rfl

theorem exec_jr_of_misaligned (h : s.reg a + i.signExtend 64 &&& 3 ≠ 0) :
    exec (.jr d a i) s = .next (s.stopFrom s (.trap ⟨cMISALIGN, s.reg a + i.signExtend 64, 0, 0, 15, false⟩)) := by
  refine finish_error ?_
  rw [bind_ok (rv_of_readable ha), bind_ok (sc_run s)]
  exact congrFun (if_pos h) s

end

/-! ### Loops (R102, R105) -/

section
variable {s : State} {a : Reg} {l : BitVec 12} {i : Instr} {k : Bool}

/-- `lp` with a count of 0 clears the count of its loop and goes past the body. -/
theorem loopStart_zero (ha : s.readable a) (ht : s.cur.sc.tnest = 0) (hn : s.reg a = 0) :
    loopStart i k a l s = .ok (.jump (s.cur.sc.pc + 4 * l.zeroExtend 64 + 4))
      (s.modSc (fun c => if k then { c with lcnt1 := 0 } else { c with lcnt0 := 0 })) := by
  have hpc : s.cur.sc.pc + 4 * (l.zeroExtend 64 + 1) = s.cur.sc.pc + 4 * l.zeroExtend 64 + 4 := by
    rw [BitVec.mul_add, ← BitVec.add_assoc]
    rfl
  unfold loopStart
  rw [bind_ok (sc_run s), if_neg (not_not.2 ht), bind_ok (rd_of_readable ha), if_pos hn, bind_ok (modSc_run _ _), hpc]
  rfl

/-- `lp` with another count sets the count and the end of its loop. -/
theorem loopStart_count (ha : s.readable a) (ht : s.cur.sc.tnest = 0) (hn : s.reg a ≠ 0) :
    loopStart i k a l s = .ok .adv (s.modSc (fun c =>
      if k then { c with lcnt1 := s.reg a, lend1 := loopEndOf c.pc l }
      else { c with lcnt0 := s.reg a, lend0 := loopEndOf c.pc l })) := by
  unfold loopStart
  rw [bind_ok (sc_run s), if_neg (not_not.2 ht), bind_ok (rd_of_readable ha), if_neg hn, bind_ok (modSc_run _ _)]
  rfl

/-- `lp` in a handler is an illegal word. -/
theorem loopStart_nested {w : IWord} (ht : s.cur.sc.tnest ≠ 0) (hw : encode i = some w) :
    loopStart i k a l s = .error (.trap ⟨cILLEGAL, w.zeroExtend 64, 0, 0, 15, false⟩) s := by
  unfold loopStart
  rw [bind_ok (sc_run s), if_pos ht]
  exact wordIllegal_run hw s

end

/-- The word of `lp` with function code f: its fields side by side. -/
theorem zeroExtend_loop_word (a : Reg) (f : BitVec 3) (l : BitVec 12) :
    (packK 8#7 0#5 a f l).zeroExtend 64 =
      ((0x10000000 : Word) ||| w64 (f.toNat * 2 ^ 12)) ||| (a.zeroExtend 64 <<< 15) ||| l.zeroExtend 64 := by
  have hf := f.isLt
  have hl := l.isLt
  have ha := a.isLt
  have hfields : (packK 8#7 0#5 a f l).toNat = (8 * 2 ^ 10 + a.toNat) * 2 ^ 15 + (f.toNat * 2 ^ 12 + l.toNat) := by
    simp only [packK, append_toNat]
    simp only [BitVec.toNat_ofNat]
    omega
  rw [← w64_toNat, hfields, w64_mul_two_pow_add (by omega), w64_mul_two_pow_add (by omega), w64_mul_two_pow_add hl,
    BitVec.shiftLeft_or_distrib, w64_mul_two_pow, ← w64_toNat a, ← w64_toNat l]
  simp only [BitVec.or_assoc]
  congr 1
  simp only [← BitVec.or_assoc, BitVec.or_comm (w64 f.toNat <<< 12)]

section
variable (a : Reg) (l : BitVec 12) {s : State}

theorem exec_lpL0_nested (hq : s.Quiet) (ht : s.cur.sc.tnest ≠ 0) : exec (.lpL0 a l) s = .next (s.trapEntry
    ⟨cILLEGAL, (0x10000000 : Word) ||| (a.zeroExtend 64 <<< 15) ||| l.zeroExtend 64, 0, 0, 15, false⟩) :=
  (finish_trap (loopStart_nested ht rfl) hq).trans (by rw [zeroExtend_loop_word]; rfl)

theorem exec_lpL1_nested (hq : s.Quiet) (ht : s.cur.sc.tnest ≠ 0) : exec (.lpL1 a l) s = .next (s.trapEntry
    ⟨cILLEGAL, (0x10001000 : Word) ||| (a.zeroExtend 64 <<< 15) ||| l.zeroExtend 64, 0, 0, 15, false⟩) :=
  (finish_trap (loopStart_nested ht rfl) hq).trans (by rw [zeroExtend_loop_word]; rfl)

end

/-- Settles O10: each form by the cases of its rule. -/
theorem branchResults : Obligations.BranchResults := by
  unfold Obligations.BranchResults
  refine ⟨fun a b o s ha hb => ?branch, fun d a i o s => ⟨exec_jl o, fun ha hd => ?jr⟩, fun a l s ha ht _ => ?loop,
    fun a l s hq ht _ => ⟨exec_lpL0_nested a l hq ht, exec_lpL1_nested a l hq ht⟩⟩
  case branch =>
    exact ⟨finish_branch o ha hb rfl, finish_branch o ha hb (decide_not), finish_branch o ha hb rfl,
      finish_branch o ha hb (decide_toInt_le _ _), finish_branch o ha hb rfl, finish_branch o ha hb (decide_toNat_le _ _)⟩
  case jr => exact ⟨exec_jr_of_aligned ha hd, exec_jr_of_misaligned ha⟩
  case loop =>
    exact ⟨fun hn => ⟨finish_jump (loopStart_zero ha ht hn), finish_jump (loopStart_zero ha ht hn)⟩,
      fun hn => ⟨finish_adv (loopStart_count ha ht hn), finish_adv (loopStart_count ha ht hn)⟩⟩

end Sys2Proof.Machine
end

section
/-! The two loop-end tests in their order (R104). -/

namespace Sys2Proof.Machine

/-- Loop 0 ends on the current instruction. -/
def Scalar.ends0 (c : Scalar) : Bool := c.tnest == 0 && c.lcnt0 != 0 && c.pc == c.lend0.addr

/-- Loop 1 ends on the current instruction. -/
def Scalar.ends1 (c : Scalar) : Bool := c.tnest == 0 && c.lcnt1 != 0 && c.pc == c.lend1.addr

/-- The address after the l0 test. -/
def Scalar.next0 (c : Scalar) : Word := if c.ends0 && c.advance.lcnt0 != 0 then c.lend0.start else c.pc + 4

/-- The l1 test is made: loop 1 ends here, and the l0 test has not gone back. -/
def Scalar.tests1 (c : Scalar) : Bool := c.ends1 && c.next0 == c.pc + 4

theorem Scalar.ends0_iff (c : Scalar) : c.ends0 = true ↔ c.tnest = 0 ∧ c.lcnt0 ≠ 0 ∧ c.pc = c.lend0.addr := by
  simp [Scalar.ends0, and_assoc]

theorem Scalar.ends1_iff (c : Scalar) : c.ends1 = true ↔ c.tnest = 0 ∧ c.lcnt1 ≠ 0 ∧ c.pc = c.lend1.addr := by
  simp [Scalar.ends1, and_assoc]

theorem Scalar.advance_lcnt0 (c : Scalar) : c.advance.lcnt0 = if c.ends0 then c.lcnt0 - 1 else c.lcnt0 := rfl

/-- The condition of the l1 test as the step writes it. -/
theorem Scalar.tests1_eq (c : Scalar) :
    c.tests1 = (c.tnest == 0 && c.next0 == c.pc + 4 && c.lcnt1 != 0 && c.pc == c.lend1.addr) := by
  unfold Scalar.tests1 Scalar.ends1
  cases c.tnest == 0 <;> cases c.next0 == c.pc + 4 <;> simp

theorem Scalar.advance_lcnt1 (c : Scalar) : c.advance.lcnt1 = if c.tests1 then c.lcnt1 - 1 else c.lcnt1 := by
  rw [c.tests1_eq]
  rfl

theorem Scalar.advance_pc (c : Scalar) :
    c.advance.pc = if c.tests1 && c.advance.lcnt1 != 0 then c.lend1.start else c.next0 := by
  rw [c.tests1_eq]
  rfl

/-- A count that falls is exhausted at 1. -/
theorem sub_one_eq_zero_iff (n : Word) : n - 1#64 = 0#64 ↔ n = 1#64 := sub_eq_zero

/-- A loop whose body does not hold the target of a transfer is abandoned. -/
theorem Scalar.transfer_lcnt0 (c : Scalar) (a : Word) :
    (c.transfer a).lcnt0 = if c.lcnt0 ≠ 0 ∧ c.lend0.holds a = false then 0 else c.lcnt0 := by
  simp [Scalar.transfer]

theorem Scalar.transfer_lcnt1 (c : Scalar) (a : Word) :
    (c.transfer a).lcnt1 = if c.lcnt1 ≠ 0 ∧ c.lend1.holds a = false then 0 else c.lcnt1 := by
  simp [Scalar.transfer]

section
variable {c : Scalar}

/-- With no loop ending at l0 the next address is PC + 4 after the l0 test, and the l1 test is made. -/
theorem Scalar.next0_of_not_ends0 (h : c.ends0 = false) : c.next0 = c.pc + 4 := by
  rw [Scalar.next0, h]
  rfl

theorem Scalar.next0_of_exhausted (h : c.lcnt0 = 1) : c.next0 = c.pc + 4 := by
  simp [Scalar.next0, c.advance_lcnt0, h]

theorem Scalar.next0_of_again (h : c.ends0 = true) (hn : c.lcnt0 ≠ 1) : c.next0 = c.lend0.start := by
  have hn' : c.lcnt0 ≠ 1#64 := hn
  simp [Scalar.next0, c.advance_lcnt0, h, sub_one_eq_zero_iff, hn']

/-- Where the l0 test does not go back, loop 1 alone decides what follows. -/
theorem Scalar.advance_of_next0 (h : c.next0 = c.pc + 4) :
    (c.ends1 = false → c.advance.pc = c.pc + 4 ∧ c.advance.lcnt1 = c.lcnt1) ∧
    (c.ends1 = true → c.advance.lcnt1 = c.lcnt1 - 1 ∧
      c.advance.pc = if c.lcnt1 = 1 then c.pc + 4 else c.lend1.start) := by
  have ht : c.tests1 = c.ends1 := by simp [Scalar.tests1, h]
  refine ⟨fun h1 => ?_, fun h1 => ?_⟩
  · simp [c.advance_pc, c.advance_lcnt1, ht, h1, h]
  · simp [c.advance_pc, c.advance_lcnt1, ht, h1, h, sub_one_eq_zero_iff]

/-- Where it goes back to another address, the l1 test is not made. -/
theorem Scalar.advance_of_next0_ne (h : c.next0 ≠ c.pc + 4) : c.advance.pc = c.next0 ∧ c.advance.lcnt1 = c.lcnt1 := by
  have ht : c.tests1 = false := by rw [Scalar.tests1, beq_eq_false_iff_ne.2 h, Bool.and_false]
  simp [c.advance_pc, c.advance_lcnt1, ht]

end

/-- Settles O11: the l0 test gives the next address, and the l1 test is made where that is PC + 4. -/
theorem loopEndTests : Obligations.LoopEndTests := by
  unfold Obligations.LoopEndTests
  rintro s c rfl
  simp only [← Scalar.ends0_iff, ← Scalar.ends1_iff, Bool.not_eq_true, State.advance_sc, State.transfer_sc]
  generalize s.cur.sc = c
  refine ⟨fun h0 h1 => ?neither, fun h0 hn hs => ?again, fun h0 hn hs => ?againHere, fun h0 hn h1 => ?exhausted,
    fun h0 hn h1 hm => ?exhaustedAgain, fun h0 hn h1 hm => ?bothExhausted, fun h0 h1 hm => ?onlyAgain,
    fun h0 h1 hm => ?onlyExhausted, fun a => ⟨rfl, c.transfer_lcnt0 a, c.transfer_lcnt1 a⟩⟩
  case neither =>
    obtain ⟨hpc, hl⟩ := (Scalar.advance_of_next0 (Scalar.next0_of_not_ends0 h0)).1 h1
    exact ⟨hpc, by simp [c.advance_lcnt0, h0], hl⟩
  case again =>
    have hnext := Scalar.next0_of_again h0 hn
    obtain ⟨hpc, hl⟩ := Scalar.advance_of_next0_ne (hnext ▸ hs)
    exact ⟨hpc.trans hnext, by simp [c.advance_lcnt0, h0], hl⟩
  case againHere =>
    have hnext := Scalar.advance_of_next0 ((Scalar.next0_of_again h0 hn).trans hs)
    exact ⟨by simp [c.advance_lcnt0, h0], hnext⟩
  case exhausted =>
    obtain ⟨hpc, hl⟩ := (Scalar.advance_of_next0 (Scalar.next0_of_exhausted hn)).1 h1
    exact ⟨hpc, by simp [c.advance_lcnt0, h0, hn], hl⟩
  case exhaustedAgain =>
    obtain ⟨hl, hpc⟩ := (Scalar.advance_of_next0 (Scalar.next0_of_exhausted hn)).2 h1
    exact ⟨by rw [hpc, if_neg hm], by simp [c.advance_lcnt0, h0, hn], hl⟩
  case bothExhausted =>
    obtain ⟨hl, hpc⟩ := (Scalar.advance_of_next0 (Scalar.next0_of_exhausted hn)).2 h1
    exact ⟨by rw [hpc, if_pos hm], by simp [c.advance_lcnt0, h0, hn], by simp [hl, hm]⟩
  case onlyAgain =>
    obtain ⟨hl, hpc⟩ := (Scalar.advance_of_next0 (Scalar.next0_of_not_ends0 h0)).2 h1
    exact ⟨by rw [hpc, if_neg hm], by simp [c.advance_lcnt0, h0], hl⟩
  case onlyExhausted =>
    obtain ⟨hl, hpc⟩ := (Scalar.advance_of_next0 (Scalar.next0_of_not_ends0 h0)).2 h1
    exact ⟨by rw [hpc, if_pos hm], by simp [c.advance_lcnt0, h0], by simp [hl, hm]⟩

end Sys2Proof.Machine
end

section
/-! Scalar floating point: each form is a prefix that checks its types and reads its operands, and one of two ends that raise
conditions and write a result (R45, R111 to R113, R138). -/

namespace Sys2Proof.Machine

/-! ### The two ends -/

/-- How a rounding form ends: conditions, the draw, the result. -/
def roundEnd (d : Reg) (r : FRes) : M Done := do
  scalarFlags r.fl
  modSc Scalar.drawn
  wr d (w64 r.bits)
  pure .adv

/-- How a form that makes no draw ends: conditions and the result. -/
def flagEnd (d : Reg) (fl : Flags) (v : Word) : M Done := do
  scalarFlags fl
  wr d v
  pure .adv

section
variable {s : State} {fl : Flags}

theorem scalarFlags_of_disabled (h : fl &&& s.cur.sc.fpen.zeroExtend 6 = 0) :
    scalarFlags fl s = .ok ⟨⟩ (s.modSc (fun c => { c with flags := c.flags ||| fl })) := by
  unfold scalarFlags
  rw [bind_ok (sc_run s), if_neg (not_not.2 h)]
  rfl

theorem scalarFlags_of_enabled (h : fl &&& s.cur.sc.fpen.zeroExtend 6 ≠ 0) :
    scalarFlags fl s = .error (.trap ⟨cFP_TRAP, fl.zeroExtend 64, 0, 0, 15, false⟩) s := by
  unfold scalarFlags
  rw [bind_ok (sc_run s), if_pos h]
  rfl

variable {m : M Done} {d : Reg}

theorem finish_roundEnd {r : FRes} (hm : m s = roundEnd d r s) (h : r.fl &&& s.cur.sc.fpen.zeroExtend 6 = 0) :
    finish m s =
      .next (((s.modSc (fun c => { c with flags := c.flags ||| r.fl })).modSc Scalar.drawn).setReg d (w64 r.bits)).advance := by
  refine finish_adv (hm.trans ?_)
  unfold roundEnd
  rw [bind_ok (scalarFlags_of_disabled h), bind_ok (modSc_run _ _), bind_ok (wr_run _ _ _)]
  rfl

theorem finish_roundEnd_trap {r : FRes} (hq : s.Quiet) (hm : m s = roundEnd d r s)
    (h : r.fl &&& s.cur.sc.fpen.zeroExtend 6 ≠ 0) :
    finish m s = .next (s.trapEntry ⟨cFP_TRAP, r.fl.zeroExtend 64, 0, 0, 15, false⟩) :=
  finish_trap (hm.trans (bind_error (scalarFlags_of_enabled h))) hq

theorem finish_flagEnd {v : Word} (hm : m s = flagEnd d fl v s) (h : fl &&& s.cur.sc.fpen.zeroExtend 6 = 0) :
    finish m s = .next ((s.modSc (fun c => { c with flags := c.flags ||| fl })).setReg d v).advance := by
  refine finish_adv (hm.trans ?_)
  unfold flagEnd
  rw [bind_ok (scalarFlags_of_disabled h), bind_ok (wr_run _ _ _)]
  rfl

theorem finish_flagEnd_trap {v : Word} (hq : s.Quiet) (hm : m s = flagEnd d fl v s)
    (h : fl &&& s.cur.sc.fpen.zeroExtend 6 ≠ 0) :
    finish m s = .next (s.trapEntry ⟨cFP_TRAP, fl.zeroExtend 64, 0, 0, 15, false⟩) :=
  finish_trap (hm.trans (bind_error (scalarFlags_of_enabled h))) hq

end

/-! ### The checks of MODE (R45) -/

section
variable {s : State} {i : Instr} {t u : ETy} {ok : ETy → Bool}

theorem needETA_of_ok (h : etyOfCode (modeETA s.cur.sc.md) = some t) (hok : ok t = true) : needETA i ok s = .ok t s := by
  unfold needETA
  rw [bind_ok (sc_run s), h]
  dsimp only
  rw [if_pos hok]
  rfl

theorem needETA_of_not_ok {w : IWord} (h : ∀ t, etyOfCode (modeETA s.cur.sc.md) = some t → ok t = false)
    (hw : encode i = some w) :
    needETA i ok s = .error (.trap ⟨cILLEGAL, w.zeroExtend 64, 4, 0, 15, false⟩) s := by
  unfold needETA
  rw [bind_ok (sc_run s)]
  cases ht : etyOfCode (modeETA s.cur.sc.md) with
  | none => simp only [modeIllegal, hw]; rfl
  | some t => simp only [modeIllegal, hw, h t ht]; rfl

theorem needETB_of_ok (h : etyOfCode (modeETB s.cur.sc.md) = some u) (hok : ok u = true) : needETB i t ok s = .ok u s := by
  have h15 : modeETB s.cur.sc.md ≠ 15 := by
    intro h15
    rw [h15] at h
    cases h
  unfold needETB
  rw [bind_ok (sc_run s), if_neg h15, h]
  dsimp only
  rw [if_pos hok]
  rfl

/-- ETB 15 stands for the type ETA (R44). -/
theorem needETB_of_eq_ETA (h : modeETB s.cur.sc.md = 15) (hok : ok t = true) : needETB i t ok s = .ok t s := by
  unfold needETB
  rw [bind_ok (sc_run s), if_pos h]
  dsimp only
  rw [if_pos hok]
  rfl

/-- The rounding mode in force for a scalar form, with its draw under RS. -/
def State.scalarMode (s : State) : RMode := rmodeOf (modeRND s.cur.sc.md) (drawBits (drawStep s.cur.sc.seed))

theorem rmodeScalar_of_ok (h : modeRND s.cur.sc.md ≤ 5) : rmodeScalar i s = .ok s.scalarMode s := by
  have hk : needRND i s = .ok (modeRND s.cur.sc.md) s := by
    unfold needRND
    rw [bind_ok (sc_run s), if_pos h]
    rfl
  unfold rmodeScalar
  rw [bind_ok hk, bind_ok (sc_run s)]
  rfl

theorem etyIsFp_of_arith (h : etyIsArith t = true) : etyIsFp t = true := by
  revert h
  cases t <;> decide

end

/-! ### The forms as a prefix and an end -/

section
variable {s : State} {t : ETy} {d a b : Reg} (hta : etyOfCode (modeETA s.cur.sc.md) = some t) (hok : etyIsArith t = true)
include hta hok

theorem fsRound_run {i : Instr} {f : ETy → RMode → Bool → M FRes} {r : FRes} (hrnd : modeRND s.cur.sc.md ≤ 5)
    (hd : s.writable d) (hf : f t s.scalarMode (modeSAT s.cur.sc.md) s = .ok r s) : fsRound i d f s = roundEnd d r s := by
  unfold fsRound
  rw [bind_ok (needETA_of_ok hta hok), bind_ok (rmodeScalar_of_ok hrnd), bind_ok (sc_run s), bind_ok (ready_of_writable hd),
    bind_ok hf]
  rfl

theorem fsTwo_run {i : Instr} (hrnd : modeRND s.cur.sc.md ≤ 5) (hd : s.writable d) (ha : s.readable a) (hb : s.readable b)
    (f : ETy → RMode → Bool → Nat → Nat → FRes) :
    fsTwo i d a b f s = roundEnd d (f t s.scalarMode (modeSAT s.cur.sc.md) (fpIn t (s.reg a)) (fpIn t (s.reg b))) s := by
  refine fsRound_run hta hok hrnd hd ?_
  rw [bind_ok (rd_of_readable ha), bind_ok (rd_of_readable hb)]
  rfl

theorem mFsSqrt_run (hrnd : modeRND s.cur.sc.md ≤ 5) (hd : s.writable d) (ha : s.readable a) :
    mFsSqrt d a s = roundEnd d (fSqrt t s.scalarMode (modeSAT s.cur.sc.md) (fpIn t (s.reg a))) s := by
  refine fsRound_run hta hok hrnd hd ?_
  rw [bind_ok (rd_of_readable ha)]
  rfl

theorem mFsFma_run (hrnd : modeRND s.cur.sc.md ≤ 5) (hd : s.readable d) (ha : s.readable a) (hb : s.readable b) :
    mFsFma d a b s = roundEnd d (fFmaT t s.scalarMode (modeSAT s.cur.sc.md) false false (fpIn t (s.reg a))
      (fpIn t (s.reg b)) (fpIn t (s.reg d))) s := by
  refine fsRound_run hta hok hrnd hd.1 ?_
  rw [bind_ok (rd_of_readable hd), bind_ok (rd_of_readable ha), bind_ok (rd_of_readable hb)]
  rfl

theorem mFsCvtf_run {u : ETy} (htb : etyOfCode (modeETB s.cur.sc.md) = some u) (hu : etyIsInt u = true)
    (hrnd : modeRND s.cur.sc.md ≤ 5) (hd : s.writable d) (ha : s.readable a) :
    mFsCvtf d a s = roundEnd d (cvtIntFp t s.scalarMode false (intVal u (s.reg a).toNat)) s := by
  unfold mFsCvtf
  rw [bind_ok (needETA_of_ok hta hok), bind_ok (needETB_of_ok htb hu), bind_ok (rmodeScalar_of_ok hrnd),
    bind_ok (ready_of_writable hd), bind_ok (rd_of_readable ha)]
  rfl

theorem mFsCvt_run {u : ETy} (htb : etyOfCode (modeETB s.cur.sc.md) = some u) (hu : etyIsFp u = true)
    (hrnd : modeRND s.cur.sc.md ≤ 5) (hd : s.writable d) (ha : s.readable a) :
    mFsCvt d a s = roundEnd d (cvtFpFp u s.scalarMode (modeSAT s.cur.sc.md) (unpack t (fpIn t (s.reg a)))) s := by
  have h15 : modeETB s.cur.sc.md ≠ 15 := by
    intro h15
    rw [h15] at htb
    cases htb
  unfold mFsCvt
  rw [bind_ok (needETA_of_ok hta hok), bind_ok (sc_run s), bind_ok (needETB_of_ok htb hu), bind_ok (rmodeScalar_of_ok hrnd),
    bind_ok (ready_of_writable hd), bind_ok (rd_of_readable ha), if_neg h15]
  rfl

theorem mFsCvt_copy_run (htb : modeETB s.cur.sc.md = 15) (hrnd : modeRND s.cur.sc.md ≤ 5) (hd : s.writable d)
    (ha : s.readable a) : mFsCvt d a s = roundEnd d (quietCopy t (fpIn t (s.reg a))) s := by
  unfold mFsCvt
  rw [bind_ok (needETA_of_ok hta hok), bind_ok (sc_run s), bind_ok (needETB_of_eq_ETA htb (etyIsFp_of_arith hok)),
    bind_ok (rmodeScalar_of_ok hrnd), bind_ok (ready_of_writable hd), bind_ok (rd_of_readable ha), if_pos htb]
  rfl

theorem fsCmp_run {i : Instr} (hd : s.writable d) (ha : s.readable a) (hb : s.readable b) (f : ETy → Nat → Nat → Bool × Flags) :
    fsCmp i d a b f s = flagEnd d (f t (fpIn t (s.reg a)) (fpIn t (s.reg b))).2
      (wBool (f t (fpIn t (s.reg a)) (fpIn t (s.reg b))).1) s := by
  unfold fsCmp
  rw [bind_ok (needETA_of_ok hta hok), bind_ok (ready_of_writable hd), bind_ok (rd_of_readable ha),
    bind_ok (rd_of_readable hb)]
  rfl

theorem mFsCvti_run (hd : s.writable d) (ha : s.readable a) :
    mFsCvti d a s = flagEnd d (cvtFpInt .i64 .rtz (modeSAT s.cur.sc.md) (unpack t (fpIn t (s.reg a)))).2
      (w64 (cvtFpInt .i64 .rtz (modeSAT s.cur.sc.md) (unpack t (fpIn t (s.reg a)))).1) s := by
  unfold mFsCvti
  rw [bind_ok (needETA_of_ok hta hok), bind_ok (sc_run s), bind_ok (ready_of_writable hd), bind_ok (rd_of_readable ha)]
  rfl

theorem exec_fsCls (hd : s.writable d) (ha : s.readable a) :
    exec (.fsCls d a) s = .next (s.setReg d (w64 (fClass t (fpIn t (s.reg a))))).advance := by
  refine finish_adv ?_
  unfold mFsCls
  rw [bind_ok (needETA_of_ok hta hok), bind_ok (ready_of_writable hd), bind_ok (rd_of_readable ha), bind_ok (wr_run _ _ _)]
  rfl

end

/-- Under another ETA a form that begins with its type check is illegal, whatever follows the check. -/
theorem finish_needETA_trap {s : State} {i : Instr} {w : IWord} {k : ETy → M Done} (hq : s.Quiet)
    (h : ∀ t, etyOfCode (modeETA s.cur.sc.md) = some t → etyIsArith t = false) (hw : encode i = some w) :
    finish (needETA i etyIsArith >>= k) s = .next (s.trapEntry ⟨cILLEGAL, w.zeroExtend 64, 4, 0, 15, false⟩) :=
  finish_trap (bind_error (needETA_of_not_ok h hw)) hq

/-- Settles O14: each form by its end; the type check stands first in every form. -/
theorem floatResults : Obligations.FloatResults := by
  unfold Obligations.FloatResults
  refine ⟨fun d a b s t hd ha hb ht hok hrnd => ?rounds, fun d a b s t ha hb hd ht hok => ?flags, fun d a b s hq h => ?illegal⟩
  case rounds =>
    exact ⟨finish_roundEnd (fsTwo_run ht hok hrnd hd.1 ha hb _), finish_roundEnd (fsTwo_run ht hok hrnd hd.1 ha hb _),
      finish_roundEnd (fsTwo_run ht hok hrnd hd.1 ha hb _), finish_roundEnd (fsTwo_run ht hok hrnd hd.1 ha hb _),
      finish_roundEnd (mFsSqrt_run ht hok hrnd hd.1 ha), finish_roundEnd (mFsFma_run ht hok hrnd hd ha hb),
      finish_roundEnd (fsTwo_run ht hok hrnd hd.1 ha hb _), finish_roundEnd (fsTwo_run ht hok hrnd hd.1 ha hb _),
      fun u hu hint => finish_roundEnd (mFsCvtf_run ht hok hu hint hrnd hd.1 ha),
      fun u hu hfp => finish_roundEnd (mFsCvt_run ht hok hu hfp hrnd hd.1 ha),
      fun h15 => finish_roundEnd (mFsCvt_copy_run ht hok h15 hrnd hd.1 ha)⟩
  case flags =>
    exact ⟨finish_flagEnd (fsCmp_run ht hok hd ha hb _), finish_flagEnd (fsCmp_run ht hok hd ha hb _),
      finish_flagEnd (fsCmp_run ht hok hd ha hb _), finish_flagEnd (mFsCvti_run ht hok hd ha), exec_fsCls ht hok hd ha⟩
  case illegal =>
    intro i hi w hw
    simp only [List.mem_cons, List.not_mem_nil, or_false] at hi
    rcases hi with rfl | rfl | rfl | rfl | rfl | rfl | rfl | rfl | rfl | rfl | rfl | rfl | rfl | rfl | rfl <;>
      exact finish_needETA_trap hq h hw

/-- Settles O15: the conditions are tested in each form's end, before anything is written. -/
theorem floatTraps : Obligations.FloatTraps := by
  unfold Obligations.FloatTraps
  intro d a b s t hq ht hok
  have ha := hq.readable a
  have hb := hq.readable b
  have hd := hq.readable d
  refine ⟨fun hrnd => ?rounds, ?flags⟩
  case rounds =>
    refine ⟨finish_roundEnd_trap hq (fsTwo_run ht hok hrnd hd.1 ha hb _), finish_roundEnd_trap hq (fsTwo_run ht hok hrnd hd.1 ha hb _),
      finish_roundEnd_trap hq (fsTwo_run ht hok hrnd hd.1 ha hb _), finish_roundEnd_trap hq (fsTwo_run ht hok hrnd hd.1 ha hb _),
      finish_roundEnd_trap hq (mFsSqrt_run ht hok hrnd hd.1 ha), finish_roundEnd_trap hq (mFsFma_run ht hok hrnd hd ha hb),
      finish_roundEnd_trap hq (fsTwo_run ht hok hrnd hd.1 ha hb _), finish_roundEnd_trap hq (fsTwo_run ht hok hrnd hd.1 ha hb _),
      fun u hu hint => finish_roundEnd_trap hq (mFsCvtf_run ht hok hu hint hrnd hd.1 ha),
      fun u hu hfp => finish_roundEnd_trap hq (mFsCvt_run ht hok hu hfp hrnd hd.1 ha), fun h15 hnan => ?_⟩
    have hcopy := mFsCvt_copy_run ht hok h15 hrnd hd.1 ha
    rw [quietCopy, if_pos (show unpack t (fpIn t (s.reg a)) = .nan true from hnan)] at hcopy
    exact finish_roundEnd_trap hq hcopy
  case flags =>
    exact ⟨finish_flagEnd_trap hq (fsCmp_run ht hok hd.1 ha hb _), finish_flagEnd_trap hq (fsCmp_run ht hok hd.1 ha hb _),
      finish_flagEnd_trap hq (fsCmp_run ht hok hd.1 ha hb _), finish_flagEnd_trap hq (mFsCvti_run ht hok hd.1 ha)⟩

end Sys2Proof.Machine
end

section
/-! What translating an access leaves alone: it writes table leaves and the TLB (R385), and nothing of the strand. -/

namespace Sys2Proof.Machine

theorem State.setQuad_cur (s : State) (x : Quad) : (s.setQuad x).cur = s.cur := by
  unfold State.setQuad
  split_ifs <;> rfl

theorem State.setQuad_ahead (s : State) (x : Quad) : (s.setQuad x).ahead = s.ahead := by
  unfold State.setQuad
  split_ifs <;> rfl

theorem State.memWrite_cur (s : State) (k : Nat) (bs : List Byte) : (s.memWrite k bs).cur = s.cur := by
  unfold State.memWrite State.journal
  split_ifs
  · rfl
  · exact s.setQuad_cur _

theorem State.memWrite_ahead (s : State) (k : Nat) (bs : List Byte) : (s.memWrite k bs).ahead = s.ahead := by
  unfold State.memWrite State.journal
  split_ifs
  · rfl
  · exact s.setQuad_ahead _

section
variable {β : Type} (f : State → β) (hmem : ∀ s k bs, f (s.memWrite k bs) = f s) (hq : ∀ s g, f (s.modQ g) = f s)
include hmem

theorem State.orLeaf_keeps (s : State) (p : Nat) (va : Word) (bits : Nat) : f (s.orLeaf p va bits) = f s := by
  unfold State.orLeaf
  split
  · rfl
  · split
    · exact hmem _ _ _
    · rfl

include hq

theorem State.xlate_keeps (s : State) (va : Word) (a : Acc) : f (s.xlate va a).2 = f s := by
  unfold State.xlate
  extract_lets
  split
  · rfl
  · split
    · rfl
    · rw [hq]
      split_ifs
      · rfl
      · exact State.orLeaf_keeps f hmem _ _ _ _

theorem State.segOf_keeps (s : State) (va : Word) (n : Nat) (a : Acc) : f (s.segOf va n a).2 = f s := by
  have hx := State.xlate_keeps f hmem hq s va a
  unfold State.segOf
  split_ifs
  · rfl
  · rfl
  · split <;> rename_i h <;> rw [h] at hx
    · exact hx
    · split
      · exact hx
      · split <;> exact hx

theorem State.segsGo_keeps (ps : List (Word × Nat)) (a : Acc) (s : State) (e : Option Fail) (acc : List Seg) :
    f (State.segsGo ps a s e acc).2 = f s := by
  induction ps generalizing s e acc with
  | nil => cases e <;> rfl
  | cons p ps ih =>
    have hx := State.segOf_keeps f hmem hq s p.1 p.2 a
    unfold State.segsGo
    split <;> rename_i h <;> rw [h] at hx <;> exact (ih _ _ _).trans hx

/-- What the writes of memory and of the current quad's data keep, an access's translation keeps. -/
theorem State.segs_keeps (s : State) (va : Word) (n : Nat) (a : Acc) : f (s.segs va n a).2 = f s := by
  unfold State.segs
  extract_lets r
  have hr : f r.2 = f s := State.segsGo_keeps f hmem hq _ _ _ _ _
  split <;> exact hr

end

theorem State.segs_cur (s : State) (va : Word) (n : Nat) (a : Acc) : (s.segs va n a).2.cur = s.cur :=
  State.segs_keeps State.cur State.memWrite_cur (fun _ _ => rfl) s va n a

theorem State.segs_ahead (s : State) (va : Word) (n : Nat) (a : Acc) : (s.segs va n a).2.ahead = s.ahead :=
  State.segs_keeps State.ahead State.memWrite_ahead (fun _ _ => rfl) s va n a

/-- The pieces of an access that passes every check, and the state that their translation leaves. -/
theorem segsM_eq_ok {va : Word} {n : Nat} {a : Acc} {rst : Nat} {s t : State} {gs : List Seg}
    (h : segsM va n a rst s = .ok gs t) : s.segs va n a = (.ok gs, t) := by
  unfold segsM at h
  rw [bind_ok (get_run s)] at h
  rcases hr : s.segs va n a with ⟨f | gs', u⟩ <;> simp only [hr] at h <;> cases h
  rfl

theorem segsM_of_ok {va : Word} {n : Nat} {a : Acc} {rst : Nat} {s t : State} {gs : List Seg}
    (h : s.segs va n a = (.ok gs, t)) : segsM va n a rst s = .ok gs t := by
  unfold segsM
  rw [bind_ok (get_run s), h]
  rfl

theorem segsM_of_error {va : Word} {n : Nat} {a : Acc} {rst : Nat} {s t : State} {f : Fail}
    (h : s.segs va n a = (.error f, t)) : segsM va n a rst s = .error (t.failStop f a rst) s := by
  unfold segsM
  rw [bind_ok (get_run s), h]
  rfl

theorem segs_ok_frame {va : Word} {n : Nat} {a : Acc} {s t : State} {r : Except Fail (List Seg)} (h : s.segs va n a = (r, t)) :
    t.cur = s.cur ∧ t.ahead = s.ahead := by
  have hcur := s.segs_cur va n a
  have hahead := s.segs_ahead va n a
  rw [h] at hcur hahead
  exact ⟨hcur, hahead⟩

end Sys2Proof.Machine
end

section
/-! Scalar loads and probes (R106 to R110, R226, R387). -/

namespace Sys2Proof.Machine

/-! ### Extension (R106) -/

theorem leNat_lt (bs : List Byte) : leNat bs < 2 ^ (8 * bs.length) := by
  induction bs with
  | nil => exact Nat.one_pos
  | cons b bs ih =>
    have hb := b.isLt
    rw [leNat, List.length_cons, Nat.mul_add, Nat.pow_add]
    omega

theorem signExtend_ofNat {w v : Nat} (hw' : w ≤ 64) (hv : v < 2 ^ w) :
    (BitVec.ofNat w v).signExtend 64 = if 2 ^ (w - 1) ≤ v then w64 (v + (2 ^ 64 - 2 ^ w)) else w64 v := by
  have hpow : 2 ^ w ≤ 2 ^ 64 := Nat.pow_le_pow_right (by omega) hw'
  have hmsb : (BitVec.ofNat w v).msb = decide (2 ^ (w - 1) ≤ v) := by
    rw [BitVec.msb_eq_decide, BitVec.toNat_ofNat, Nat.mod_eq_of_lt hv]
  apply BitVec.eq_of_toNat_eq
  rw [BitVec.toNat_signExtend, hmsb, BitVec.toNat_setWidth, BitVec.toNat_ofNat, Nat.mod_eq_of_lt hv,
    Nat.mod_eq_of_lt (show v < 2 ^ 64 by omega)]
  by_cases h : 2 ^ (w - 1) ≤ v
  · simp only [h, decide_true, if_true, w64, BitVec.toNat_ofNat]
    omega
  · simp only [h, decide_false, if_false, w64, BitVec.toNat_ofNat, Bool.false_eq_true]
    omega

theorem extBytes_signed {bs : List Byte} {n : Nat} (h : bs.length = n) (hn : 0 < n) (hn' : n ≤ 8) :
    extBytes bs n true = (BitVec.ofNat (8 * n) (leNat bs)).signExtend 64 := by
  rw [signExtend_ofNat (by omega) (h ▸ leNat_lt bs)]
  simp [extBytes]

/-! ### The parts of a load -/

/-- No older store and no passed `at` of the strand holds a read back. -/
theorem behindStores_run {p : Instr → Bool} {s : State} (hvq : s.cur.vq.any (fun e => p e.instr) = false)
    (ha : s.isAhead s.cur.uid = false) (gs : List Seg) : behindStores p gs s = .ok ⟨⟩ s := by
  have hvq' : ∀ e ∈ s.cur.vq, p e.instr = false := by simpa using hvq
  have ha' : ∀ a ∈ s.ahead, (a.strand.uid == s.cur.uid) = false := by simpa [State.isAhead] using ha
  unfold behindStores
  rw [bind_ok (get_run s)]
  refine congrFun (if_neg ?_) s
  rw [Bool.not_eq_true, Bool.or_eq_false_iff, List.any_eq_false, List.any_eq_false]
  refine ⟨fun a h => ?_, fun e h => ?_⟩
  · simp only [ha' a h, Bool.false_and, Bool.false_eq_true, not_false_eq_true]
  · simp only [hvq' e h, Bool.and_false, Bool.false_and, Bool.false_eq_true, not_false_eq_true]

theorem accIn_run {s : State} (h : s.cur.inStream = 0) (a : Acc) : accIn a s = .ok a s := by
  unfold accIn
  rw [bind_ok (get_run s), if_neg (by rw [h]; exact fun hc => absurd hc.1 (by decide))]
  rfl

theorem turnCheck_of_none {gs : List Seg} {s : State} (h : s.turnFail gs = none) (rst : Nat) : turnCheck gs rst s = .ok ⟨⟩ s := by
  unfold turnCheck
  rw [bind_ok (get_run s), h]
  rfl

theorem turnCheck_of_some {gs : List Seg} {s : State} {f : Word × Word} (h : s.turnFail gs = some f) (rst : Nat) :
    turnCheck gs rst s = .error (.trap ⟨cTURN_NEEDED, f.1, f.2, rst, 15, false⟩) s := by
  unfold turnCheck
  rw [bind_ok (get_run s), h]
  rfl

/-- A checked read that succeeds: its pieces, none of them marked, and their bytes. -/
theorem loadBytes_eq_ok {va : Word} {n : Nat} {a : Acc} {pol rst : Nat} {s t : State} {bs : List Byte}
    (h : loadBytes va n a pol rst s = .ok bs t) : ∃ gs u bss, s.segs va n a = (.ok gs, u) ∧ u.turnFail gs = none ∧
      gs.mapM (readSeg pol) u = .ok bss t ∧ bss.flatten = bs := by
  obtain ⟨gs, u, hsegs, hrest⟩ := bind_eq_ok h
  obtain ⟨x, u', hturn, hbytes⟩ := bind_eq_ok hrest
  obtain ⟨bss, v, hread, hflat⟩ := bind_eq_ok hbytes
  cases hf : u.turnFail gs with
  | some f => rw [turnCheck_of_some hf] at hturn; cases hturn
  | none =>
    rw [turnCheck_of_none hf] at hturn
    cases hturn
    cases hflat
    exact ⟨gs, u, bss, segsM_eq_ok hsegs, hf, hread, rfl⟩

section
variable {s : State} {d a : Reg} {o : BitVec 10} {n : Nat} {signed : Bool}

section
variable (ha : s.readable a) (hvq : s.cur.vq.any (fun e => isSt e.instr) = false) (hahead : s.isAhead s.cur.uid = false)
  {t : State} {bs : List Byte} (h : loadBytes (eaOf (s.reg a) o n) n accLd (modePOL s.cur.sc.md) 0 s = .ok bs t)
include ha hvq hahead h

/-- What a load and a probe do once their pieces have passed the checks of R107. -/
theorem loadTail_run {gs : List Seg} {u : State} (hsegs : s.segs (eaOf (s.reg a) o n) n accLd = (.ok gs, u)) :
    (do behindStores isSt gs; turnCheck gs 0; sound [a]
        let bs ← gs.mapM (readSeg (modePOL s.cur.sc.md))
        wr d (extBytes bs.flatten n signed)
        pure Done.adv : M Done) u = .ok .adv (t.setReg d (extBytes bs n signed)) := by
  obtain ⟨gs', u', bss, hsegs', hturn, hread, hflat⟩ := loadBytes_eq_ok h
  rw [hsegs] at hsegs'
  cases hsegs'
  obtain ⟨hcur, hah⟩ := segs_ok_frame hsegs
  have hclean : ∀ r ∈ [a], u.clean r = true := by
    intro r hr
    rw [List.mem_singleton.1 hr, State.clean, hcur]
    exact ha.2
  rw [bind_ok (behindStores_run (by rwa [hcur]) (by rwa [State.isAhead, hah, hcur]) gs), bind_ok (turnCheck_of_none hturn 0),
    bind_ok (sound_of_clean hclean), bind_ok hread, hflat, bind_ok (wr_run _ _ _)]
  rfl

variable (hin : s.cur.inStream = 0) (hwait : s.cur.loadWaits = false) (hd : s.writable d)
include hwait hd

theorem probeOp_run : probeOp d a o n signed s = .ok .adv (t.setReg d (extBytes bs n signed)) := by
  obtain ⟨gs, u, -, hsegs, -⟩ := loadBytes_eq_ok h
  unfold probeOp
  rw [bind_ok (ready_of_writable hd), bind_ok (rv_of_readable ha), bind_ok (get_run s), if_neg (by simp [hwait]), hsegs]
  dsimp only
  rw [bind_ok (set_run s u)]
  exact loadTail_run ha hvq hahead h hsegs

include hin

theorem loadOp_run : loadOp d a o n signed s = .ok .adv (t.setReg d (extBytes bs n signed)) := by
  obtain ⟨gs, u, -, hsegs, -⟩ := loadBytes_eq_ok h
  unfold loadOp
  rw [bind_ok (ready_of_writable hd), bind_ok (rv_of_readable ha), bind_ok (get_run s), if_neg (by simp [hwait]),
    bind_ok (accIn_run hin accLd), bind_ok (segsM_of_ok hsegs)]
  exact loadTail_run ha hvq hahead h hsegs

end

variable (hin : s.cur.inStream = 0) (hwait : s.cur.loadWaits = false) (ha : s.readable a) (hd : s.writable d)
include hwait ha hd

/-- A probe of a page that is not resident gives 0 (R109). -/
theorem probeOp_absent {f : Fail} {t : State} (hsegs : s.segs (eaOf (s.reg a) o n) n accLd = (.error f, t))
    (hf : f.nonres = true) :
    probeOp d a o n signed s = .ok .adv ((s.setReg d 0).modSc (fun c => { c with nr := true })) := by
  have hclean : ∀ r ∈ [a], s.clean r = true := fun r hr => List.mem_singleton.1 hr ▸ ha.2
  unfold probeOp
  rw [bind_ok (ready_of_writable hd), bind_ok (rv_of_readable ha), bind_ok (get_run s), if_neg (by simp [hwait]), hsegs]
  dsimp only
  rw [if_pos hf, bind_ok (sound_of_clean hclean), bind_ok (wr_run _ _ _), bind_ok (modSc_run _ _)]
  rfl

include hin

theorem loadOp_segs_error {f : Fail} {t : State} (hsegs : s.segs (eaOf (s.reg a) o n) n accLd = (.error f, t)) :
    loadOp d a o n signed s = .error (t.failStop f accLd 0) s := by
  unfold loadOp
  rw [bind_ok (ready_of_writable hd), bind_ok (rv_of_readable ha), bind_ok (get_run s), if_neg (by simp [hwait]),
    bind_ok (accIn_run hin accLd), bind_error (segsM_of_error hsegs)]

theorem loadOp_turn_error {gs : List Seg} {t : State} {e : Word × Word} (hvq : s.cur.vq.any (fun e => isSt e.instr) = false)
    (hahead : s.isAhead s.cur.uid = false) (hsegs : s.segs (eaOf (s.reg a) o n) n accLd = (.ok gs, t))
    (hturn : t.turnFail gs = some e) :
    loadOp d a o n signed s = .error (.trap ⟨cTURN_NEEDED, e.1, e.2, 0, 15, false⟩) t := by
  obtain ⟨hcur, hah⟩ := segs_ok_frame hsegs
  unfold loadOp
  rw [bind_ok (ready_of_writable hd), bind_ok (rv_of_readable ha), bind_ok (get_run s), if_neg (by simp [hwait]),
    bind_ok (accIn_run hin accLd), bind_ok (segsM_of_ok hsegs),
    bind_ok (behindStores_run (by rwa [hcur]) (by rwa [State.isAhead, hah, hcur]) gs), bind_error (turnCheck_of_some hturn 0)]

end

/-! ### Stops of a load -/

/-- A stop that is a park, or names its own kind, ends the instruction as it is. -/
theorem finishK_error {k : Nat} {w : Bool} {m : M Done} {s u : State} {e : Stop} (h : m s = .error e u)
    (he : ∀ t, e = .trap t → t.kind ≠ 15) : finishK k w m s = .next (s.stopFrom u e) := by
  refine finish_error ?_
  simp only [h]
  cases e with
  | trap t => simp only [if_neg (he t rfl)]
  | park => rfl
  | wait => rfl

/-- The stop of a failed access of a quiet strand takes effect at once. -/
theorem finishK_failStop {s t : State} {m : M Done} {f : Fail} (hq : s.Quiet)
    (h : m s = .error (t.failStop f accLd 0) s) : finishK 1 false m s = .next (s.stopped (t.failStop f accLd 0)) := by
  rw [finishK_error h, State.stopFrom, hq.holdsBack]
  · rfl
  · intro t' ht
    unfold State.failStop at ht
    extract_lets at ht
    split_ifs at ht
    cases ht
    exact of_decide_eq_false rfl

theorem State.Quiet.of_frame {s t : State} (h : s.Quiet) (hcur : t.cur = s.cur) (hahead : t.ahead = s.ahead) : t.Quiet := by
  unfold State.Quiet State.isAhead at *
  rwa [hcur, hahead]

/-- The stop of a read that meets a mark that faults. -/
theorem finishK_turn {s t : State} {m : M Done} {e : Word × Word} (hq : t.Quiet)
    (h : m s = .error (.trap ⟨cTURN_NEEDED, e.1, e.2, 0, 15, false⟩) t) :
    finishK 1 false m s = .next (t.stopped (.trap ⟨cTURN_NEEDED, e.1, e.2, 0, 1, false⟩)) := by
  rw [finishK_trap h hq, hq.stopped_trap]

/-! ### Bytes of the scratchpad (R221, R297) -/

/-- Bytes that stand in the strand's allotment alone are read whole. -/
theorem State.padPlain.loadBytes {s : State} {off n : Nat} (h : s.padPlain off n) (hn : 0 < n) {va : Word}
    (hva : va = w64 (scratchBase + off)) (pol : Nat) : loadBytes va n accLd pol 0 s =
      .ok (memGetN s.mem (scratchKey s.cur.ident.quad (s.cur.ident.abase + off)) n) s := by
  have hread : [s.padSeg off n].mapM (Machine.readSeg pol) s =
      .ok [memGetN s.mem (scratchKey s.cur.ident.quad (s.cur.ident.abase + off)) n] s := by
    simp only [List.mapM_cons, List.mapM_nil]
    rw [bind_ok (h.readSeg pol)]
    rfl
  unfold Machine.loadBytes
  rw [hva, bind_ok ((h.fits hn).segsM (by decide) 0), bind_ok (h.turnCheck 0), bind_ok hread]
  simp

/-! ### The forms -/

section
variable {s : State} {d a : Reg} {o : BitVec 10} {n : Nat} (hwait : s.cur.loadWaits = false) (ha : s.readable a)
  (hd : s.writable d) (hvq : s.cur.vq.any (fun e => isSt e.instr) = false) (hahead : s.isAhead s.cur.uid = false) {t : State} {bs : List Byte}
  (hlen : bs.length = n) (h : Machine.loadBytes (eaOf (s.reg a) o n) n accLd (modePOL s.cur.sc.md) 0 s = .ok bs t)
include hwait ha hd hvq hahead h

theorem finish_probe : finishK 1 false (probeOp d a o n false) s = .next (t.setReg d (w64 (leNat bs))).advance :=
  finishK_adv (probeOp_run ha hvq hahead h hwait hd)

theorem finish_load (hin : s.cur.inStream = 0) :
    finishK 1 false (loadOp d a o n false) s = .next (t.setReg d (w64 (leNat bs))).advance :=
  finishK_adv (loadOp_run ha hvq hahead h hin hwait hd)

include hlen

theorem finish_probe_signed (hn : 0 < n) (hn' : n ≤ 8) : finishK 1 false (probeOp d a o n true) s =
    .next (t.setReg d ((BitVec.ofNat (8 * n) (leNat bs)).signExtend 64)).advance := by
  rw [← extBytes_signed hlen hn hn']
  exact finishK_adv (probeOp_run ha hvq hahead h hwait hd)

theorem finish_load_signed (hin : s.cur.inStream = 0) (hn : 0 < n) (hn' : n ≤ 8) : finishK 1 false (loadOp d a o n true) s =
    .next (t.setReg d ((BitVec.ofNat (8 * n) (leNat bs)).signExtend 64)).advance := by
  rw [← extBytes_signed hlen hn hn']
  exact finishK_adv (loadOp_run ha hvq hahead h hin hwait hd)

end

theorem State.Quiet.noStores {s : State} (h : s.Quiet) : s.cur.vq.any (fun e => isSt e.instr) = false := by
  obtain ⟨-, hvq, -⟩ := h
  rw [hvq]
  rfl

/-- The plain loads, with their sizes. -/
def plainLoads (d a : Reg) (o : BitVec 10) : List (Nat × Instr) :=
  [(1, .ldB d a o), (1, .ldBu d a o), (2, .ldH d a o), (2, .ldHu d a o), (4, .ldW d a o), (4, .ldWu d a o), (8, .ldD d a o)]

/-- Each plain load is `loadOp` of its size. -/
theorem exec_of_mem_plainLoads {d a : Reg} {o : BitVec 10} {n : Nat} {i : Instr} (h : (n, i) ∈ plainLoads d a o) :
    ∃ signed, exec i = finishK 1 false (loadOp d a o n signed) := by
  simp only [plainLoads, List.mem_cons, List.not_mem_nil, or_false, Prod.mk.injEq] at h
  rcases h with ⟨rfl, rfl⟩ | ⟨rfl, rfl⟩ | ⟨rfl, rfl⟩ | ⟨rfl, rfl⟩ | ⟨rfl, rfl⟩ | ⟨rfl, rfl⟩ | ⟨rfl, rfl⟩
  exacts [⟨true, rfl⟩, ⟨false, rfl⟩, ⟨true, rfl⟩, ⟨false, rfl⟩, ⟨true, rfl⟩, ⟨false, rfl⟩, ⟨false, rfl⟩]

/-- Settles O12: the loads are `loadOp`, the probes `probeOp`, and the bytes of the scratchpad are one checked read. -/
theorem loadResults : Obligations.LoadResults := by
  unfold Obligations.LoadResults
  refine ⟨fun d a o s hin hwait hvq hahead ha hd => ?gives,
    fun d a o s hin hwait ha hd => ?absent, fun d a o s hq f t => ⟨fun n i hi hsegs => ?fails, fun n i gs e hi hsegs hturn => ?marked⟩,
    fun d a o s off n hq hva hpad => ?pad⟩
  case gives =>
    refine ⟨?_, ?_, ?_, ?_, ?_, ?_, ?_, ?_, ?_, ?_, ?_, ?_, ?_, ?_⟩ <;> intro bs t hlen h
    · exact finish_load_signed hwait ha hd hvq hahead hlen h hin (by omega) (by omega)
    · exact finish_load hwait ha hd hvq hahead h hin
    · exact finish_load_signed hwait ha hd hvq hahead hlen h hin (by omega) (by omega)
    · exact finish_load hwait ha hd hvq hahead h hin
    · exact finish_load_signed hwait ha hd hvq hahead hlen h hin (by omega) (by omega)
    · exact finish_load hwait ha hd hvq hahead h hin
    · exact finish_load hwait ha hd hvq hahead h hin
    · exact finish_probe_signed hwait ha hd hvq hahead hlen h (by omega) (by omega)
    · exact finish_probe hwait ha hd hvq hahead h
    · exact finish_probe_signed hwait ha hd hvq hahead hlen h (by omega) (by omega)
    · exact finish_probe hwait ha hd hvq hahead h
    · exact finish_probe_signed hwait ha hd hvq hahead hlen h (by omega) (by omega)
    · exact finish_probe hwait ha hd hvq hahead h
    · exact finish_probe hwait ha hd hvq hahead h
  case absent =>
    refine ⟨?_, ?_, ?_, ?_, ?_, ?_, ?_⟩ <;> intro f t hsegs hf <;>
      exact finishK_adv (probeOp_absent hwait ha hd hsegs hf)
  case fails =>
    obtain ⟨signed, hi⟩ := exec_of_mem_plainLoads hi
    rw [hi]
    exact finishK_failStop hq (loadOp_segs_error hq.1 hq.loadWaits (hq.readable a) (hq.writable d) hsegs)
  case marked =>
    obtain ⟨signed, hi⟩ := exec_of_mem_plainLoads hi
    obtain ⟨hcur, hahead⟩ := segs_ok_frame hsegs
    rw [hi]
    exact finishK_turn (hq.of_frame hcur hahead)
      (loadOp_turn_error hq.1 hq.loadWaits (hq.readable a) (hq.writable d) hq.noStores hq.notAhead hsegs hturn)
  case pad =>
    have hread (hn : 0 < n) := hpad.loadBytes hn hva (modePOL s.cur.sc.md)
    have hlen : (memGetN s.mem (scratchKey s.cur.ident.quad (s.cur.ident.abase + off)) n).length = n := by
      rw [memGetN_eq_map, List.length_map, List.length_range]
    have ha := hq.readable a
    have hd := hq.writable d
    have load (hn : 0 < n) := finish_load hq.loadWaits ha hd hq.noStores hq.notAhead (hread hn) hq.1
    have probe (hn : 0 < n) := finish_probe hq.loadWaits ha hd hq.noStores hq.notAhead (hread hn)
    have loadS (hn : 0 < n) := finish_load_signed hq.loadWaits ha hd hq.noStores hq.notAhead hlen (hread hn) hq.1 hn
    have probeS (hn : 0 < n) := finish_probe_signed hq.loadWaits ha hd hq.noStores hq.notAhead hlen (hread hn) hn
    refine ⟨?_, ?_, ?_, ?_, ?_, ?_, ?_, ?_, ?_, ?_, ?_, ?_, ?_, ?_⟩ <;> rintro rfl
    exacts [loadS (by omega) (by omega), load (by omega), loadS (by omega) (by omega), load (by omega),
      loadS (by omega) (by omega), load (by omega), load (by omega), probeS (by omega) (by omega), probe (by omega),
      probeS (by omega) (by omega), probe (by omega), probeS (by omega) (by omega), probe (by omega), probe (by omega)]

end Sys2Proof.Machine
end

section
/-! A scalar store within the quad still asks the platform for room (`storeSegs` asks for the 0 bytes of its mirror pieces, R222, R413).
A platform that is over full, as one effect larger than 256 KiB on an empty platform makes it, has no room for 0 bytes either, and
the store waits. The conditions of the statement do not speak of the platform. -/

namespace Sys2Proof.Machine

/-! ### A store up to its platform check -/

theorem unfenced_run {s : State} {l t : Bool} (h : s.cur.fenced l t false = false) : unfenced l t s = .ok ⟨⟩ s := by
  unfold unfenced
  rw [bind_ok (get_run s), h]
  rfl

theorem State.Quiet.soundAt_run {s : State} (h : s.Quiet) (rs : List Reg) (rst : Nat) : soundAt rs rst s = .ok ⟨⟩ s := by
  have hhead := h.headEntry
  obtain ⟨-, -, -, -, -, -, hpoison, -⟩ := h
  have hnone : rs.find? (fun r => s.cur.poison.any (fun k => k.kind == 0 && k.reg == r.toNat)) = none := by
    rw [hpoison, List.find?_eq_none]
    exact fun _ _ => Bool.false_ne_true
  unfold soundAt
  rw [bind_ok (get_run s), hhead, Option.map_none, Option.getD_none, hnone]
  rfl

theorem behindAt_run {s : State} (h : s.isAhead s.cur.uid = false) : behindAt s = .ok ⟨⟩ s := by
  unfold behindAt
  rw [bind_ok (get_run s), h]
  rfl

theorem clearOfStrips_run {s : State} (h : s.cur.ring = none) (gs : List Seg) : clearOfStrips gs s = .ok ⟨⟩ s := by
  unfold clearOfStrips
  rw [bind_ok (get_run s), h]
  rfl

theorem platform_of_no_room {s : State} {n : Nat} (hh : s.cur.handed = none) (hheld : s.held = true) (hroom : s.platRoom n = false) :
    platform n s = .error .wait s := by
  unfold platform
  rw [bind_ok (get_run s), hh, hheld, hroom]
  rfl

/-- A checked store that finds no room for its mirror pieces waits. -/
theorem storeSegs_of_no_room {s : State} (hahead : s.isAhead s.cur.uid = false) (hring : s.cur.ring = none) (hh : s.cur.handed = none)
    (hheld : s.held = true) {gs : List Seg} (hroom : s.platRoom (mirrorSize gs) = false) (bs : List Byte) (pol : Nat) :
    storeSegs gs bs pol s = .error .wait s := by
  unfold storeSegs
  rw [bind_ok (behindAt_run hahead), bind_ok (clearOfStrips_run hring gs), bind_error (platform_of_no_room hh hheld hroom)]

/-- A store of a quiet strand waits where its checked store does. -/
theorem finish_storeOp_of_wait {s : State} (hq : s.Quiet) {i : Instr} {d a : Reg} {o : BitVec 10} {n : Nat} {gs : List Seg}
    (hsegs : segsM (eaOf (s.reg a) o n) n accSt 0 s = .ok gs s)
    (hwait : storeSegs gs (leBytes n (s.reg d).toNat) (modePOL s.cur.sc.md) s = .error .wait s) :
    finishK 2 true (storeOp i d a o n) s = .next s.setWaiting := by
  have hstore : ¬ s.cur.storeWaits = true := by
    have hfence := hq.fenced false true false
    obtain ⟨-, hvq, hmq, -⟩ := hq
    simp [Strand.storeWaits, Strand.mayTrap, hvq, hmq, hfence]
  have hvf : s.cur.vf = none := by
    obtain ⟨-, -, -, hvf, -⟩ := hq
    exact hvf
  refine finishK_error (e := .wait) ?_ (fun _ h => Stop.noConfusion h)
  unfold storeOp
  rw [bind_ok (ready_of_writable (hq.writable d)), bind_ok (rv_of_readable (hq.readable a)), bind_ok (get_run s), if_neg hstore,
    bind_ok (unfenced_run (hq.fenced false true false)), bind_ok (accIn_run hq.1 accSt), bind_ok hsegs,
    bind_ok (rv_of_readable (hq.readable d)), hvf]
  refine (bind_ok (hq.soundAt_run [a, d] 0)).trans ?_
  rw [bind_error hwait]

theorem exec_stB (d a : Reg) (o : BitVec 10) (s : State) :
    exec (.stB d a o) s = finishK 2 true (storeOp (.stB d a o) d a o 1) s := rfl

/-- A quiet strand that waits keeps its scalar state. -/
theorem State.Quiet.setWaiting_sc {s : State} (h : s.Quiet) (hs : s.cur.saved = none) : s.setWaiting.cur.sc = s.cur.sc := by
  unfold State.setWaiting
  rw [h.headEntry]
  simp [hs]

/-! ### The counterexample -/

/-- An effect of 2^18 bytes of data. -/
def largeEff : Eff := ⟨0, 1, 0, 0, .mirror 0 (List.replicate (2 ^ 18) 0)⟩

/-- Strand 1 with one page of scratchpad and the address of its first byte in s4; its quad's platform holds `largeEff`. -/
def platformOverfull : State :=
  { State.reset with
    cur := { Strand.absent with
      uid := 1, status := .running, ident := { Ident.blank with alen := 4096 }
      sc := { Scalar.blank with regs := Scalar.blank.regs.set 4 (w64 scratchBase) } }
    quad := { Quad.empty 0 with plat := [largeEff] } }

theorem platformOverfull_quiet : platformOverfull.Quiet := by
  dsimp only [State.Quiet]
  and_intros <;> decide

theorem platformOverfull_padFits : platformOverfull.padFits 0 1 := by
  dsimp only [State.padFits]
  and_intros <;> decide

theorem platformOverfull_address : eaOf (platformOverfull.reg 4) 0 1 = w64 (scratchBase + 0) := by decide

theorem EffKind.size_mirror (off : Nat) (bs : List Byte) : (EffKind.mirror off bs).size = 64 + bs.length := rfl

theorem largeEff_size : largeEff.kind.size = 64 + 2 ^ 18 := by
  rw [largeEff, EffKind.size_mirror, List.length_replicate]

theorem platformOverfull_no_room : platformOverfull.platRoom 0 = false := by
  have hsum : (platformOverfull.quad.plat.map (fun e => e.kind.size)).sum = 64 + 2 ^ 18 := by
    rw [← largeEff_size]
    exact List.sum_singleton
  rw [State.platRoom, hsum]
  rfl

/-- The store that the statement lets complete waits there. -/
theorem exec_stB_platformOverfull : exec (.stB 5 4 0) platformOverfull = .next platformOverfull.setWaiting := by
  have hq := platformOverfull_quiet
  have hsegs := platformOverfull_padFits.segsM (a := accSt) (by decide) 0
  rw [← platformOverfull_address] at hsegs
  have hwait := storeSegs_of_no_room hq.notAhead rfl rfl rfl (gs := [platformOverfull.padSeg 0 1]) platformOverfull_no_room
    (leBytes 1 (platformOverfull.reg 5).toNat) (modePOL platformOverfull.cur.sc.md)
  rw [exec_stB]
  exact finish_storeOp_of_wait hq hsegs hwait

/-- Refutes O13: with the platform of its quad over full, which the conditions allow, a store to the scratchpad waits and
completes nothing. -/
theorem not_storeResults : ¬ Obligations.StoreResults := by
  unfold Obligations.StoreResults
  intro h
  have hq := platformOverfull_quiet
  obtain ⟨hput, -⟩ := h 5 4 0 platformOverfull hq.1 (by decide) rfl (hq.readable 4) (hq.readable 5)
  obtain ⟨-, hone⟩ := hput _ _ (platformOverfull_padFits.segsM (by decide) 0)
  obtain ⟨u, hnext, -, hsc, -⟩ := hone _ rfl rfl rfl (fun _ hp => nomatch hp) (by decide) (by decide) (by decide) rfl (by decide)
  rw [exec_stB_platformOverfull] at hnext
  cases hnext
  rw [hq.setWaiting_sc rfl] at hsc
  exact absurd (congrArg Scalar.icount hsc) (by decide)

end Sys2Proof.Machine
end

section
/-! Vector instructions of a strand that runs each whole as it passes it: writes of elements, the checks of an instruction, and the
loops over its elements (R158 to R166, R397). -/

namespace Sys2Proof.Machine

/-! ### Writes of elements -/

theorem Strand.covered_of_clean {x : Strand} (h : x.poison = []) (k r lo hi : Nat) : x.covered k r lo hi = x := by
  unfold Strand.covered
  rw [h]
  rfl

theorem Strand.setElt_of_clean {x : Strand} (h : x.poison = []) (n w e v : Nat) :
    x.setElt n w e v = x.setVreg (x.place n w e).1 (putBits (x.vreg (x.place n w e).1) (x.place n w e).2 w v) := by
  refine Strand.covered_of_clean ?_ _ _ _ _
  unfold Strand.setVreg
  split
  · exact h
  · exact h

/-- Writing an element changes the vector registers and nothing else. -/
theorem Strand.setElt_eq {x : Strand} (h : x.poison = []) (n w e v : Nat) :
    x.setElt n w e v = { x with v := (x.setElt n w e v).v } := by
  rw [Strand.setElt_of_clean h]
  unfold Strand.setVreg
  split <;> rfl

/-- What an instruction leaves beside its elements: the scalar state, RSTIX, and no bits noted as written. -/
def Strand.tidy (c : Scalar) (r : BitVec 16) (x : Strand) : Strand := { x with sc := c, rstix := r, wrote := [] }

theorem Strand.setVreg_tidy (x : Strand) (c : Scalar) (r : BitVec 16) (n : Nat) (b : BitVec 16384) :
    (x.tidy c r).setVreg n b = (x.setVreg n b).tidy c r := by
  by_cases h : n < 32
  · simp only [Strand.setVreg, dif_pos h, Strand.tidy]
  · simp only [Strand.setVreg, dif_neg h]

/-- Writing an element and tidying up do not meet. -/
theorem Strand.setElt_tidy {x : Strand} (h : x.poison = []) (c : Scalar) (r : BitVec 16) (n w e v : Nat) :
    (x.tidy c r).setElt n w e v = (x.setElt n w e v).tidy c r := by
  rw [Strand.setElt_of_clean h, Strand.setElt_of_clean (x := x.tidy c r) h]
  exact Strand.setVreg_tidy x c r _ _

/-- Writes an element, or leaves it. -/
def Strand.putElt (d w : Nat) (f : Nat → Option Nat) (x : Strand) (e : Nat) : Strand :=
  match f e with
  | some v => x.setElt d w e v
  | none => x

theorem Strand.putElt_some {d w e v : Nat} {f : Nat → Option Nat} (h : f e = some v) (x : Strand) :
    x.putElt d w f e = x.setElt d w e v := by
  simp only [Strand.putElt, h]

theorem Strand.putElt_none {d w e : Nat} {f : Nat → Option Nat} (h : f e = none) (x : Strand) : x.putElt d w f e = x := by
  simp only [Strand.putElt, h]

theorem Strand.putElt_eq {x : Strand} (h : x.poison = []) (d w : Nat) (f : Nat → Option Nat) (e : Nat) :
    x.putElt d w f e = { x with v := (x.putElt d w f e).v } := by
  cases hf : f e with
  | some v => rw [Strand.putElt_some hf]; exact Strand.setElt_eq h _ _ _ _
  | none => rw [Strand.putElt_none hf]

theorem Strand.putElt_clean {x : Strand} (h : x.poison = []) (d w : Nat) (f : Nat → Option Nat) (e : Nat) :
    (x.putElt d w f e).poison = [] := by
  rw [Strand.putElt_eq h]
  exact h

theorem Strand.putElt_tidy {x : Strand} (h : x.poison = []) (c : Scalar) (r : BitVec 16) (d w : Nat) (f : Nat → Option Nat)
    (e : Nat) : (x.tidy c r).putElt d w f e = (x.putElt d w f e).tidy c r := by
  cases hf : f e with
  | some v => rw [Strand.putElt_some hf, Strand.putElt_some hf, Strand.setElt_tidy h]
  | none => rw [Strand.putElt_none hf, Strand.putElt_none hf]

theorem Strand.foldl_putElt_tidy (c : Scalar) (r : BitVec 16) (d w : Nat) (f : Nat → Option Nat) (l : List Nat) :
    ∀ {x : Strand}, x.poison = [] → l.foldl (Strand.putElt d w f) (x.tidy c r) = (l.foldl (Strand.putElt d w f) x).tidy c r := by
  induction l with
  | nil => exact fun _ => rfl
  | cons e l ih =>
    intro x h
    rw [List.foldl_cons, List.foldl_cons, Strand.putElt_tidy h, ih (Strand.putElt_clean h d w f e)]

/-- Writing elements changes the vector registers and nothing else. -/
theorem Strand.foldl_putElt_eq (d w : Nat) (f : Nat → Option Nat) (l : List Nat) : ∀ {x : Strand}, x.poison = [] →
    l.foldl (Strand.putElt d w f) x = { x with v := (l.foldl (Strand.putElt d w f) x).v } := by
  induction l with
  | nil => exact fun _ => rfl
  | cons e l ih =>
    intro x h
    rw [List.foldl_cons, ih (Strand.putElt_clean h d w f e), Strand.putElt_eq h]

theorem State.putElts_eq (s : State) (d : Reg) (w : Nat) (f : Nat → Option Nat) :
    s.putElts d w f = s.modCur (fun x => (List.range s.cur.sc.vlc).foldl (Strand.putElt d.toNat w f) x) := rfl

/-! ### Loops -/

/-- A loop whose every step changes the current strand by g. -/
theorem forM_run {f : Nat → M PUnit} {g : Strand → Nat → Strand} {P : Strand → Prop} (hP : ∀ x e, P x → P (g x e)) (l : List Nat)
    (hf : ∀ e ∈ l, ∀ t : State, P t.cur → f e t = .ok ⟨⟩ (t.modCur (fun x => g x e))) :
    ∀ {s : State}, P s.cur → l.forM f s = .ok ⟨⟩ (s.modCur (fun x => l.foldl g x)) := by
  induction l with
  | nil => exact fun _ => rfl
  | cons e l ih =>
    intro s hs
    have hrest := fun e he => hf e (List.mem_cons_of_mem _ he)
    exact (bind_ok (hf e List.mem_cons_self s hs)).trans (ih hrest (hP _ _ hs))

/-- A loop that only collects values. -/
theorem mapM_run {α β : Type} {f : α → M β} {g : α → β} {s : State} (l : List α) (hf : ∀ e ∈ l, f e s = .ok (g e) s) :
    l.mapM f s = .ok (l.map g) s := by
  induction l with
  | nil => rfl
  | cons e l ih =>
    rw [List.mapM_cons, bind_ok (hf e List.mem_cons_self), bind_ok (ih fun e he => hf e (List.mem_cons_of_mem _ he))]
    rfl

/-- A stop of a vector instruction names no element below the one at which it began (R396). -/
theorem aboveStart_error {α : Type} {i : Instr} {m : M α} {s t : State} {k : Stop} (h : m s = .error k t) :
    aboveStart i m s = .error (if runsWhole i then k else k.notBelow s.cur.rstix.toNat) t := by
  unfold aboveStart
  rw [h]

/-! ### A strand that is ready -/

/-- The state in which the run of a vector instruction begins: it has written nothing yet (R397). -/
def State.unwritten (s : State) : State := s.modCur (fun x => { x with wrote := [] })

section
variable {s : State} (h : s.VecReady)
include h

theorem State.VecReady.clean : s.cur.poison = [] := by
  obtain ⟨⟨-, -, -, -, -, -, hp, -⟩, -⟩ := h
  exact hp

theorem State.VecReady.eltPoison (n w e : Nat) : s.cur.eltPoison n w e = none := by
  have hp := h.clean
  obtain ⟨⟨-, -, -, -, -, -, -, hcl, -⟩, -, hr, -⟩ := h
  have hword : ∀ r k, s.cur.wordPoison r k = false := by
    intro r k
    simp [Strand.wordPoison, Strand.ringSeen, Strand.ringOf, hr, hcl, hp]
  simp [Strand.eltPoison, hword]

theorem State.VecReady.rdE (n w e : Nat) : rdE s.cur n w e = .ok (s.cur.elt n w e) := by
  unfold Machine.rdE
  rw [h.eltPoison]

theorem State.VecReady.guardPoison (e : Nat) : s.cur.guardPoison e = false := by
  simp [Strand.guardPoison, h.clean]

theorem State.VecReady.readGuard_run : readGuard s = .ok ⟨⟩ s := by
  obtain ⟨-, -, -, hml⟩ := h
  unfold readGuard
  rw [bind_ok (sc_run s)]
  by_cases hg : modeG s.cur.sc.md = 0
  · rw [if_pos hg]
    rfl
  · rw [if_neg hg]
    unfold acquireMask
    rw [bind_ok (get_run s), hml]
    rfl

theorem State.VecReady.waitSources_run (ns : List (Nat × Nat)) : waitSources ns s = .ok ⟨⟩ s := by
  obtain ⟨-, -, hr, -⟩ := h
  unfold waitSources
  rw [bind_ok (get_run s), hr]
  rfl

/-- With no bit noted as written the strand is as ready as before. -/
theorem State.VecReady.unwritten : s.unwritten.VecReady := h

/-! ### The ends of an instruction -/

/-- A vector instruction that passes its checks and runs is complete. -/
theorem State.VecReady.finish_vecInstr {i : Instr} {check run : M Unit} {n : State → Nat} {u : State}
    (hb : vBlock s.cur i = .no) (hc : check s = .ok ⟨⟩ s)
    (hr : run s.unwritten = .ok ⟨⟩ u) (hu : u.cur.inStream = 0) :
    finish (vecInstr i check n run) s =
      .next ((u.modSc (fun c => { c with seed := (draws (n s) c.seed).2 })).modCur (fun x => { x with rstix := 0 })).advance := by
  obtain ⟨⟨hin, hvq, hmq, -, hvh, -, -, hcl, -⟩, -⟩ := h
  exact finish_adv (vecInstr_run hin hvq hmq hvh hb hcl hc hr hu)

/-- A vector instruction whose checks raise a cause takes the trap, whether or not its stream could run it. -/
theorem State.VecReady.vecInstr_trap {i : Instr} {check run : M Unit} {n : State → Nat} {c : Nat} {v e : Word}
    (hc : check s = .error (.trap ⟨c, v, e, 0, 15, false⟩) s) :
    finish (vecInstr i check n run) s = .next (s.trapEntry ⟨c, v, e, 0, 15, false⟩) := by
  obtain ⟨hq, hrst, -⟩ := h
  refine finish_trap ?_ hq
  have hopen : s.modCur (fun x => x.openRings x.seqNo) = s := by
    rw [State.modCur, Strand.openRings_nil hq.closed]
  have hkeep : (if runsWhole i then Stop.trap ⟨c, v, e, 0, 15, false⟩
      else (Stop.trap ⟨c, v, e, 0, 15, false⟩).notBelow s.cur.rstix.toNat) = .trap ⟨c, v, e, 0, 15, false⟩ := by
    rw [hrst]
    exact ite_self _
  unfold vecInstr
  refine (aboveStart_error ?_).trans (by rw [hkeep])
  rw [bind_ok (get_run s)]
  split
  · rw [bind_error hc]
  · refine bind_error ?_
    rw [if_pos hq.1, bind_ok (modCur_run _ _), hopen, hc]

end

end Sys2Proof.Machine
end

section
/-! The `vl` and `vp` forms (R114, R151, R156, R176 to R179). -/

namespace Sys2Proof.Machine

/-! ### Vector length (R156) -/

theorem exec_vlSet {s : State} {r q : Reg} (hq : s.readable q) (hr : s.writable r) : exec (.vlSet r q) s =
    .next ((s.modSc (fun c => { c with vlc := min (s.reg q).toNat s.cur.vlg })).setReg r
      (w64 (min (s.reg q).toNat s.cur.vlg))).advance := by
  refine finish_adv ?_
  rw [bind_ok (rd_of_readable hq), bind_ok (ready_of_writable hr), bind_ok (get_run s)]
  rfl

theorem exec_vlGet {s : State} {r : Reg} (hr : s.writable r) :
    exec (.vlGet r) s = .next (s.setReg r (w64 s.cur.sc.vlc)).advance := by
  refine finish_adv ?_
  rw [bind_ok (ready_of_writable hr), bind_ok (sc_run s)]
  rfl

/-! ### Checks (R45, R159, R176) -/

/-- A group that may hold an operand passes the group rules. -/
theorem VOp.bad_of_spans {s : State} {r : Reg} {w : Nat} (h : s.spans r w w) (dst : Bool) :
    (VOp.mk r.toNat w dst false).bad (modeGRP s.cur.sc.md) w = false := by
  obtain ⟨h1, h2, h3⟩ := h
  simp only [VOp.bad, VOp.span, h2, Nat.not_lt.2 h1, Nat.not_lt.2 h3]
  rfl

/-- The group checks pass where every operand's group does and the groups hold VLC elements. -/
theorem vGroups_run {s : State} (hring : s.cur.ring = none) {w : Nat} (hvlc : s.holdsVlc w) {ops : List VOp}
    (hops : ∀ o ∈ ops, o.bad (modeGRP s.cur.sc.md) w = false) (i : Instr) : vGroups i w ops s = .ok ⟨⟩ s := by
  have hbad : ops.any (fun o => o.bad (modeGRP s.cur.sc.md) w) = false := by
    rw [List.any_eq_false]
    intro o ho
    rw [hops o ho]
    exact Bool.false_ne_true
  have hcap : ¬ modeGRP s.cur.sc.md * s.cur.vlg * 32 < s.cur.sc.vlc * w := Nat.not_lt.2 hvlc
  unfold vGroups
  rw [bind_ok (get_run s)]
  simp only [hbad, hcap, hring, decide_false, Bool.or_false, Bool.false_eq_true, if_false]
  rfl

section
variable {s : State} (hring : s.cur.ring = none) {t : ETy} (ht : etyOfCode (modeETA s.cur.sc.md) = some t)
  (hvlc : s.holdsVlc (etyBits t)) {ok : ETy → Bool} (hok : ok t = true) {i : Instr} {src : List Reg}
  (hsrc : ∀ r ∈ src, s.spans r (etyBits t) (etyBits t))
include hring ht hvlc hok hsrc

/-- The checks of a form without a vector destination come down to those that it adds. -/
theorem vpCheck_source {more : M Unit} : vpCheck i ok none src more s = more s := by
  unfold vpCheck
  rw [bind_ok (needETA_of_ok ht hok), bind_ok (vGroups_run hring hvlc ?_ i)]
  intro o ho
  obtain ⟨r, hr, rfl⟩ := List.mem_map.1 ho
  exact VOp.bad_of_spans (hsrc r hr) _

/-- The checks of a form come down to those that it adds. -/
theorem vpCheck_dest {d : Reg} (hd : s.spans d (etyBits t) (etyBits t)) {more : M Unit} :
    vpCheck i ok (some d) src more s = more s := by
  unfold vpCheck
  rw [bind_ok (needETA_of_ok ht hok), bind_ok (vGroups_run hring hvlc ?_ i)]
  intro o ho
  rcases List.mem_append.1 ho with ho | ho
  · rw [List.mem_singleton.1 ho]
    exact VOp.bad_of_spans hd _
  · obtain ⟨r, hr, rfl⟩ := List.mem_map.1 ho
    exact VOp.bad_of_spans (hsrc r hr) _

end

theorem etyMove_of_ne {t : ETy} (h : t ≠ .n4) : etyMove t = true := decide_eq_true h

theorem vpWidth_run {s : State} {t : ETy} (ht : etyOfCode (modeETA s.cur.sc.md) = some t) :
    vpWidth s = .ok (etyBits t, modeGRP s.cur.sc.md) s := by
  unfold vpWidth
  rw [bind_ok (sc_run s), ht]
  rfl

theorem needB_run {s : State} (h : s.Quiet) (c : VSrc) : needB c s = .ok ⟨⟩ s := by
  cases c with
  | v p => rfl
  | s p =>
    show (rd p >>= fun _ => pure ()) s = _
    rw [bind_ok (rd_of_readable (h.readable p))]
    rfl

/-- An index below VLC is taken (R178). -/
theorem vpIndex_run {s : State} (h : s.Quiet) {r : Reg} (hr : (s.reg r).toNat < s.cur.sc.vlc) :
    vpIndex r s = .ok (s.reg r).toNat s := by
  unfold vpIndex
  rw [bind_ok (rv_of_readable (h.readable r)), bind_ok (sc_run s), if_neg (Nat.not_le.2 hr), bind_ok (h.sound [r])]
  rfl

/-- An index at or beyond VLC raises BOUNDS (R178). -/
theorem vpIndex_bounds {s : State} (h : s.Quiet) {r : Reg} (hr : s.cur.sc.vlc ≤ (s.reg r).toNat) :
    vpIndex r s = .error (.trap ⟨cBOUNDS, s.reg r, 0, 0, 15, false⟩) s := by
  unfold vpIndex
  rw [bind_ok (rv_of_readable (h.readable r)), bind_ok (sc_run s), if_pos hr]
  rfl

/-! ### Element loops -/

/-- The values of the first n numbers, with their places. -/
theorem zipIdx_map_range {α : Type} (g : Nat → α) (n : Nat) :
    ((List.range n).map g).zipIdx = (List.range n).map (fun e => (g e, e)) := by
  refine List.ext_getElem (by simp) fun i hi hi' => ?_
  simp

/-- Conditions that were not raised leave FLAGS. -/
theorem State.modSc_flags_zero (s : State) : s.modSc (fun c => { c with flags := c.flags ||| 0 }) = s := by
  have hor : s.cur.sc.flags ||| 0 = s.cur.sc.flags := BitVec.or_zero
  simp only [State.modSc, hor]

theorem elementFlags_of_disabled {fl : Flags} {s : State} (h : fl &&& s.cur.sc.fpen.zeroExtend 6 = 0) (e : Nat) :
    elementFlags fl e s = .ok ⟨⟩ (s.modSc (fun c => { c with flags := c.flags ||| fl })) := by
  unfold elementFlags
  rw [bind_ok (sc_run s)]
  refine (congrFun (if_neg (not_not.2 h)) s).trans rfl

theorem elementFlags_zero (s : State) (e : Nat) : elementFlags 0 e s = .ok ⟨⟩ s := by
  have hand : (0 : Flags) &&& s.cur.sc.fpen.zeroExtend 6 = 0 := BitVec.zero_and
  rw [elementFlags_of_disabled hand, s.modSc_flags_zero]

/-- What an inactive element of a destination takes (R162). -/
def State.idleValue (s : State) : Option Nat := if modeZM s.cur.sc.md then some 0 else none

/-- What element e takes: what f gives where it is active (R162). -/
def State.liveValue (s : State) (f : Nat → Option Nat) (e : Nat) : Option Nat := if s.cur.active e then f e else s.idleValue

theorem idleElt_run {s t : State} (h : t.cur.sc = s.cur.sc) (d w e : Nat) {f : Nat → Option Nat} (hf : f e = s.idleValue) :
    idleElt d w e t = .ok ⟨⟩ (t.modCur (fun x => x.putElt d w f e)) := by
  unfold idleElt
  rw [bind_ok (sc_run t), h]
  by_cases hz : modeZM s.cur.sc.md = true
  · rw [if_pos hz]
    have hf' : f e = some 0 := by rw [hf, State.idleValue, if_pos hz]
    simp only [Strand.putElt_some hf']
    rfl
  · rw [if_neg hz]
    have hf' : f e = none := by rw [hf, State.idleValue, if_neg hz]
    simp only [Strand.putElt_none hf']
    rfl

section
variable {s : State} (h : s.VecReady)
include h

/-- An element-wise form that raises no condition writes what f gives. -/
theorem State.VecReady.elementwise_run {d w : Nat} {f : Strand → Nat → Except Nat (Nat × Flags)} {g : Nat → Nat}
    (hf : ∀ e, f s.cur e = .ok (g e, 0)) : elementwise d w f s =
      .ok ⟨⟩ (s.modCur (fun x => (List.range s.cur.sc.vlc).foldl (Strand.putElt d w (s.liveValue (fun e => some (g e)))) x)) := by
  have hrst : s.cur.rstix = 0 := h.2.1
  unfold elementwise forElements
  rw [bind_ok h.readGuard_run, bind_ok (get_run s)]
  refine forM_run (P := fun x => x.poison = [] ∧ x.sc = s.cur.sc) ?_ _ ?_ ⟨h.clean, rfl⟩
  · rintro x e ⟨hp, hsc⟩
    rw [Strand.putElt_eq hp]
    exact ⟨hp, hsc⟩
  · rintro e - t ⟨-, hsc⟩
    have hlow : ¬ e < s.cur.rstix.toNat := by simp [hrst]
    rw [if_neg hlow, h.guardPoison, if_neg Bool.false_ne_true]
    by_cases ha : s.cur.active e = true
    · rw [if_pos ha]
      simp only [hf]
      have hv : s.liveValue (fun e => some (g e)) e = some (g e) := by rw [State.liveValue, if_pos ha]
      simp only [Strand.putElt_some hv]
      exact bind_ok (elementFlags_zero t e)
    · rw [if_neg ha]
      exact idleElt_run hsc d w e (by rw [State.liveValue, if_neg ha])

/-- The guarded elements of a form that runs whole. -/
theorem State.VecReady.wholeElements_run {d w : Nat} {f : Strand → Nat → Except Nat (Option Nat)} {g : Nat → Option Nat}
    (hf : ∀ e, f s.cur e = .ok (g e)) : wholeElements d w f s =
      .ok ⟨⟩ (s.modCur (fun x => (List.range s.cur.sc.vlc).foldl (Strand.putElt d w (s.liveValue g)) x)) := by
  unfold wholeElements
  rw [bind_ok h.readGuard_run, bind_ok (get_run s)]
  refine (bind_ok (mapM_run (g := s.liveValue g) _ ?_)).trans ?_
  · intro e _
    rw [h.guardPoison, if_neg Bool.false_ne_true]
    by_cases ha : s.cur.active e = true
    · rw [if_pos ha, hf, State.liveValue, if_pos ha]
      rfl
    · rw [if_neg ha, State.liveValue, if_neg ha]
      rfl
  · exact (modCur_run _ _).trans (by simp only [zipIdx_map_range, List.foldl_map]; rfl)

/-- A form that runs whole goes on as it is where RSTIX is 0 (R396). -/
theorem State.VecReady.whole_run (run : M Unit) : whole run s = run s := by
  obtain ⟨-, hrst, -⟩ := h
  have hs : s.modCur (fun x => { x with rstix := 0 }) = s := by
    rw [State.modCur, ← hrst]
  unfold whole
  rw [bind_ok (modCur_run _ _), hs]

/-- What a completed instruction leaves, from the strand that its run leaves. -/
theorem State.VecReady.finish_of_run {i : Instr} {check run : M Unit} {n : State → Nat} {fl : Flags} {x : Strand}
    (hx : x.inStream = 0) (hb : vBlock s.cur i = .no) (hc : check s = .ok ⟨⟩ s)
    (hr : run s.unwritten =
      .ok ⟨⟩ (s.modCur (fun y => x.tidy { x.sc with flags := x.sc.flags ||| fl } y.rstix))) :
    finish (vecInstr i check n run) s = .next ((s.modCur (fun _ => x)).vecDone fl (n s)) :=
  (h.finish_vecInstr hb hc hr hx).trans rfl

/-- An instruction whose run writes elements by f, and raises nothing. -/
theorem State.VecReady.finish_putElts {i : Instr} {check run : M Unit} {d : Reg} {w : Nat} {f : Nat → Option Nat}
    (hb : vBlock s.cur i = .no) (hc : check s = .ok ⟨⟩ s) 
    (hr : run s.unwritten = .ok ⟨⟩ (s.unwritten.modCur (fun x => (List.range s.cur.sc.vlc).foldl (Strand.putElt d.toNat w f) x))) :
    finish (vecInstr i check noDraws run) s = .next ((s.putElts d w f).vecDone 0 0) := by
  have hp := h.clean
  refine h.finish_of_run (x := (List.range s.cur.sc.vlc).foldl (Strand.putElt d.toNat w f) s.cur) ?_ hb hc
    (hr.trans ?_)
  · rw [Strand.foldl_putElt_eq _ _ _ _ hp]
    exact h.1.1
  · have htidy := Strand.foldl_putElt_tidy s.cur.sc s.cur.rstix d.toNat w f (List.range s.cur.sc.vlc) hp
    have hsc : ((List.range s.cur.sc.vlc).foldl (Strand.putElt d.toNat w f) s.cur).sc = s.cur.sc := by
      rw [Strand.foldl_putElt_eq _ _ _ _ hp]
    have hor : s.cur.sc.flags ||| 0 = s.cur.sc.flags := BitVec.or_zero
    rw [hsc, hor]
    exact congrArg (fun y => EStateM.Result.ok PUnit.unit (s.modCur (fun _ => y))) htidy

/-- An instruction whose run raises fl and writes element 0. -/
theorem State.VecReady.finish_first {i : Instr} {check run : M Unit} {n : State → Nat} {d : Reg} {w : Nat} {v : Nat × Flags}
    (hb : vBlock s.cur i = .no) (hc : check s = .ok ⟨⟩ s)
    (hr : run s.unwritten =
      .ok ⟨⟩ ((s.unwritten.modSc (fun c => { c with flags := c.flags ||| v.2 })).modCur (fun y => y.setElt d.toNat w 0 v.1))) :
    finish (vecInstr i check n run) s =
      .next ((s.modCur (fun y => y.setElt d.toNat w 0 v.1)).vecDone v.2 (n s)) := by
  have hp := h.clean
  have hset := Strand.setElt_eq hp d.toNat w 0 v.1
  refine h.finish_of_run (x := s.cur.setElt d.toNat w 0 v.1) ?_ hb hc (hr.trans ?_)
  · rw [hset]
    exact h.1.1
  · have htidy := Strand.setElt_tidy hp { s.cur.sc with flags := s.cur.sc.flags ||| v.2 } s.cur.rstix d.toNat w 0 v.1
    have hsc : (s.cur.setElt d.toNat w 0 v.1).sc = s.cur.sc := by rw [hset]
    rw [hsc]
    exact congrArg (fun y => EStateM.Result.ok PUnit.unit (s.modCur (fun _ => y))) htidy

/-- A form that writes every element, guarded or not. -/
theorem State.VecReady.fillElements_run (d w : Nat) (f : Nat → Nat) : fillElements d w f s =
    .ok ⟨⟩ (s.modCur (fun x => (List.range s.cur.sc.vlc).foldl (Strand.putElt d w (fun e => some (f e))) x)) := by
  have hlow (e : Nat) : ¬ e < s.cur.rstix.toNat := by simp [h.2.1]
  unfold fillElements
  rw [bind_ok (get_run s)]
  simp only [hlow, if_false]
  rfl

theorem State.VecReady.srcB (c : VSrc) (w e : Nat) : srcB s.cur c w e = .ok (s.eltB c w e) := by
  cases c with
  | v p => exact h.rdE p.toNat w e
  | s p => rfl

/-- The values of the active elements, with their places. -/
theorem State.VecReady.activeValues_run (a : Reg) (w : Nat) : activeValues a w s =
    .ok (((List.range s.cur.sc.vlc).filter s.cur.active).map (fun e => (e, s.cur.elt a.toNat w e))) s := by
  have hguard : (List.range s.cur.sc.vlc).any (fun e => s.cur.guardPoison e) = false := by
    simp [h.guardPoison]
  unfold activeValues
  rw [bind_ok h.readGuard_run, bind_ok (get_run s), hguard, if_neg Bool.false_ne_true]
  refine mapM_run _ fun e _ => ?_
  rw [h.rdE]
  rfl

end

/-! ### Moves and permutes (R177) -/

section
variable {s : State} (h : s.VecReady) {t : ETy} (ht : etyOfCode (modeETA s.cur.sc.md) = some t) (hne : t ≠ .n4)
  (hvlc : s.holdsVlc (etyBits t)) {d : Reg} (hd : s.spans d (etyBits t) (etyBits t))
include h ht hvlc hd

theorem exec_vpIota (hint : etyIsInt t = true) :
    exec (.vpIota d) s = .next ((s.putElts d (etyBits t) some).vecDone 0 0) := by
  refine h.finish_putElts rfl ((vpCheck_dest h.2.2.1 ht hvlc hint (by simp) hd).trans rfl) ?_
  have hr := h.unwritten
  rw [bind_ok (vpWidth_run (s := s.unwritten) ht)]
  exact hr.fillElements_run _ _ _

include hne

theorem exec_vpBcast (r : Reg) :
    exec (.vpBcast d r) s = .next ((s.putElts d (etyBits t) (fun _ => some (s.reg r).toNat)).vecDone 0 0) := by
  refine h.finish_putElts rfl
    ((vpCheck_dest h.2.2.1 ht hvlc (etyMove_of_ne hne) (by simp) hd).trans (needB_run h.1 (.s r))) ?_
  have hr := h.unwritten
  rw [bind_ok (vpWidth_run (s := s.unwritten) ht), bind_ok (sc_run _)]
  exact hr.fillElements_run _ _ _

variable {a : Reg} (ha : s.spans a (etyBits t) (etyBits t))
include ha

theorem exec_vpMv : exec (.vpMv d a) s =
    .next ((s.putElts d (etyBits t) (s.liveValue (fun e => some (s.cur.elt a.toNat (etyBits t) e)))).vecDone 0 0) := by
  refine h.finish_putElts rfl ((vpCheck_dest h.2.2.1 ht hvlc (etyMove_of_ne hne) (by simpa using ha) hd).trans rfl) ?_
  have hr := h.unwritten
  rw [bind_ok (vpWidth_run (s := s.unwritten) ht), bind_ok (hr.waitSources_run _)]
  exact hr.elementwise_run fun e => by rw [hr.rdE]; rfl

theorem exec_vpSlup (r : Reg) : exec (.vpSlup d a r) s =
    .next ((s.putElts d (etyBits t) (s.liveValue (fun e => if e < (s.reg r).toNat then none
      else some (s.cur.elt a.toNat (etyBits t) (e - (s.reg r).toNat))))).vecDone 0 0) := by
  refine h.finish_putElts rfl
    ((vpCheck_dest h.2.2.1 ht hvlc (etyMove_of_ne hne) (by simpa using ha) hd).trans (needB_run h.1 (.s r))) ?_
  have hr := h.unwritten
  rw [hr.whole_run, bind_ok (vpWidth_run (s := s.unwritten) ht), bind_ok (sc_run _), bind_ok (hr.waitSources_run _)]
  refine hr.wholeElements_run fun e => ?_
  by_cases hk : e < (s.reg r).toNat
  · rw [if_pos hk]
    exact if_pos hk
  · rw [if_neg hk]
    exact (if_neg hk).trans (by rw [hr.rdE]; rfl)

theorem exec_vpSldn (r : Reg) : exec (.vpSldn d a r) s =
    .next ((s.putElts d (etyBits t) (s.liveValue (fun e => some (if e + (s.reg r).toNat < s.cur.sc.vlc
      then s.cur.elt a.toNat (etyBits t) (e + (s.reg r).toNat) else 0)))).vecDone 0 0) := by
  refine h.finish_putElts rfl
    ((vpCheck_dest h.2.2.1 ht hvlc (etyMove_of_ne hne) (by simpa using ha) hd).trans (needB_run h.1 (.s r))) ?_
  have hr := h.unwritten
  rw [hr.whole_run, bind_ok (vpWidth_run (s := s.unwritten) ht), bind_ok (sc_run _), bind_ok (hr.waitSources_run _)]
  refine hr.wholeElements_run fun e => ?_
  by_cases hk : e + (s.reg r).toNat < s.cur.sc.vlc
  · rw [if_pos hk]
    exact (if_pos hk).trans (by rw [hr.rdE]; rfl)
  · rw [if_neg hk]
    exact if_neg hk

theorem exec_vpPerm {b : Reg} (hb : s.spans b (etyBits t) (etyBits t)) : exec (.vpPerm d a b) s =
    .next ((s.putElts d (etyBits t) (s.liveValue (fun e => some (if s.cur.elt b.toNat (etyBits t) e < s.cur.sc.vlc
      then s.cur.elt a.toNat (etyBits t) (s.cur.elt b.toNat (etyBits t) e) else 0)))).vecDone 0 0) := by
  refine h.finish_putElts rfl
    ((vpCheck_dest h.2.2.1 ht hvlc (etyMove_of_ne hne) (by simpa using ⟨ha, hb⟩) hd).trans rfl) ?_
  have hr := h.unwritten
  rw [hr.whole_run, bind_ok (vpWidth_run (s := s.unwritten) ht), bind_ok (sc_run _), bind_ok (hr.waitSources_run _)]
  refine hr.wholeElements_run fun e => ?_
  rw [hr.rdE]
  by_cases hk : s.cur.elt b.toNat (etyBits t) e < s.cur.sc.vlc
  · rw [if_pos hk]
    exact (if_pos hk).trans (by rw [hr.rdE]; rfl)
  · rw [if_neg hk]
    exact if_neg hk

theorem exec_vpSel {c : VSrc} (hc : ∀ p, c = .v p → s.spans p (etyBits t) (etyBits t)) : exec (.vpSel d a c) s =
    .next ((s.putElts d (etyBits t) (fun e => some (if s.cur.active e then s.cur.elt a.toNat (etyBits t) e
      else s.eltB c (etyBits t) e))).vecDone 0 0) := by
  have hsrc : ∀ r ∈ a :: (match c with | .v r => [r] | .s _ => []), s.spans r (etyBits t) (etyBits t) := by
    cases c with
    | v p => simpa using ⟨ha, hc p rfl⟩
    | s p => simpa using ha
  refine h.finish_putElts rfl
    ((vpCheck_dest h.2.2.1 ht hvlc (etyMove_of_ne hne) hsrc hd).trans (needB_run h.1 c)) ?_
  have hr := h.unwritten
  rw [bind_ok (vpWidth_run (s := s.unwritten) ht), bind_ok (hr.waitSources_run _), bind_ok hr.readGuard_run, bind_ok (get_run _)]
  refine forM_run (P := fun _ => True) (fun _ _ _ => trivial) _ (fun e _ t' _ => ?_) trivial
  have hlow : ¬ e < s.unwritten.cur.rstix.toNat := by simp [hr.2.1]
  rw [if_neg hlow, hr.guardPoison, if_neg Bool.false_ne_true, hr.rdE, hr.srcB]
  have hput {b : Bool} {v v' : Nat} : (if b = true then Except.ok v else Except.ok v' : Except Nat Nat) = .ok (if b = true then v else v') := by
    cases b <;> rfl
  rw [hput]
  rfl

end

end Sys2Proof.Machine
end

section
/-! `vp.compress`, the forms that use the queues, and the reductions (R114, R151, R177 to R179). -/

namespace Sys2Proof.Machine

/-! ### Elements written in two parts -/

theorem Strand.foldl_putElt_congr {d w : Nat} {f g : Nat → Option Nat} {l : List Nat} (h : ∀ e ∈ l, f e = g e) (x : Strand) :
    l.foldl (Strand.putElt d w f) x = l.foldl (Strand.putElt d w g) x := by
  refine List.foldl_ext _ _ x fun y e he => ?_
  simp only [Strand.putElt, h e he]

theorem Strand.foldl_putElt_none {d w : Nat} {f : Nat → Option Nat} {l : List Nat} (h : ∀ e ∈ l, f e = none) (x : Strand) :
    l.foldl (Strand.putElt d w f) x = x := by
  induction l with
  | nil => rfl
  | cons e l ih =>
    rw [List.foldl_cons, Strand.putElt_none (h e List.mem_cons_self)]
    exact ih fun k hk => h k (List.mem_cons_of_mem _ hk)

/-- The first k elements take the values of a list, and the others, up to n, what g gives. -/
theorem Strand.foldl_putElt_list {d w n : Nat} {f g : Nat → Option Nat} {vs : List Nat} (hn : vs.length ≤ n)
    (hf : ∀ e (h : e < vs.length), f e = some vs[e]) (hg : ∀ e, vs.length ≤ e → f e = g e) (x : Strand) :
    (List.range n).foldl (Strand.putElt d w (fun e => if e < vs.length then none else g e))
      (vs.zipIdx.foldl (fun (y : Strand) p => y.setElt d w p.2 p.1) x) = (List.range n).foldl (Strand.putElt d w f) x := by
  obtain ⟨m, rfl⟩ := Nat.exists_eq_add_of_le hn
  have hzip : vs.zipIdx = (List.range vs.length).map (fun e => (vs.getD e 0, e)) := by
    refine List.ext_getElem (by simp) fun i hi hi' => ?_
    have hlt : i < vs.length := by simpa using hi
    simp [hlt]
  have hfirst : vs.zipIdx.foldl (fun (y : Strand) p => y.setElt d w p.2 p.1) x =
      (List.range vs.length).foldl (Strand.putElt d w f) x := by
    rw [hzip, List.foldl_map]
    refine List.foldl_ext _ _ x fun y e he => ?_
    have hlt := List.mem_range.1 he
    rw [Strand.putElt_some (hf e hlt), List.getD_eq_getElem _ _ hlt]
  rw [hfirst, List.range_add, List.foldl_append, List.foldl_append, Strand.foldl_putElt_none (l := List.range vs.length)]
  · refine Strand.foldl_putElt_congr (fun e he => ?_) _
    obtain ⟨k, -, rfl⟩ := List.mem_map.1 he
    rw [if_neg (by omega), hg _ (by omega)]
  · intro e he
    exact if_pos (List.mem_range.1 he)

theorem elementFlags_run {t : State} {fl : Flags} (hfl : fl &&& t.cur.sc.fpen.zeroExtend 6 = 0) (d w v : Nat) :
    (do elementFlags fl 0; writeFirst d w v : M Unit) t =
      .ok ⟨⟩ ((t.modSc (fun c => { c with flags := c.flags ||| fl })).modCur (fun y => y.setElt d w 0 v)) := by
  rw [bind_ok (elementFlags_of_disabled hfl 0)]
  rfl

section
variable {s : State} (h : s.VecReady) {t : ETy} (ht : etyOfCode (modeETA s.cur.sc.md) = some t)
  (hvlc : s.holdsVlc (etyBits t)) {d a : Reg}
include h ht hvlc

/-- `vp.compress`: the active elements in their order, and then what an inactive element takes. -/
theorem exec_vpCompress (hne : t ≠ .n4) (hd : s.spans d (etyBits t) (etyBits t)) (ha : s.spans a (etyBits t) (etyBits t))
    {f : Nat → Option Nat}
    (hsome : ∀ e j, ((List.range s.cur.sc.vlc).filter s.cur.active)[e]? = some j → f e = some (s.cur.elt a.toNat (etyBits t) j))
    (hnone : ∀ e, ((List.range s.cur.sc.vlc).filter s.cur.active)[e]? = none → f e = s.idleValue) :
    exec (.vpCompress d a) s = .next ((s.putElts d (etyBits t) f).vecDone 0 0) := by
  refine h.finish_putElts rfl ((vpCheck_dest h.2.2.1 ht hvlc (etyMove_of_ne hne) (by simpa using ha) hd).trans rfl) ?_
  have hr := h.unwritten
  have hguard : (List.range s.unwritten.cur.sc.vlc).any (fun e => s.unwritten.cur.guardPoison e) = false := by
    simp [hr.guardPoison]
  have hread (es : List Nat) : es.mapM (fun e =>
      match rdE s.unwritten.cur a.toNat (etyBits t) e with
      | .error r => vPoison r 0
      | .ok v => pure v : Nat → M Nat) s.unwritten = .ok (es.map (fun e => s.cur.elt a.toNat (etyBits t) e)) s.unwritten := by
    refine mapM_run _ fun e _ => ?_
    rw [hr.rdE]
    rfl
  rw [hr.whole_run, bind_ok (vpWidth_run (s := s.unwritten) ht), bind_ok (hr.waitSources_run _), bind_ok hr.readGuard_run,
    bind_ok (get_run _), hguard, if_neg Bool.false_ne_true]
  refine (bind_ok (hread _)).trans ((modCur_run _ _).trans ?_)
  have hlen : (((List.range s.cur.sc.vlc).filter s.cur.active).map (fun e => s.cur.elt a.toNat (etyBits t) e)).length ≤ s.cur.sc.vlc := by
    rw [List.length_map]
    exact (List.length_filter_le _ _).trans_eq List.length_range
  have hparts := fun x => Strand.foldl_putElt_list (d := d.toNat) (w := etyBits t) (f := f) (g := fun _ => s.idleValue) hlen
    (fun e he => by
      rw [List.getElem_map]
      exact hsome e _ (List.getElem?_eq_getElem (by simpa using he)))
    (fun e he => hnone e (List.getElem?_eq_none (by simpa using he))) x
  refine congrArg (fun g => EStateM.Result.ok PUnit.unit (s.unwritten.modCur g)) (funext fun y => Eq.trans ?_ (hparts y))
  by_cases hz : modeZM s.cur.sc.md = true
  · refine (if_pos hz).trans (List.foldl_ext _ _ _ fun y e _ => ?_)
    rw [State.idleValue, if_pos hz]
    by_cases he : e < (((List.range s.cur.sc.vlc).filter s.cur.active).map (fun e => s.cur.elt a.toNat (etyBits t) e)).length
    · rw [Strand.putElt_none (if_pos he)]
      exact if_pos he
    · rw [Strand.putElt_some (if_neg he)]
      exact if_neg he
  · refine (if_neg hz).trans (Strand.foldl_putElt_none (fun e _ => ?_) _).symm
    rw [State.idleValue, if_neg hz, ite_self]

/-! ### The queues (R114, R178) -/

/-- `vp.ins` writes the oldest value of q0 into the element that its register names. -/
theorem exec_vpIns (hne : t ≠ .n4) (hd : s.spans d (etyBits t) (etyBits t)) {r : Reg} {v : Word} {l : List Word}
    (hq : s.cur.q0 = v :: l) (hk : (s.reg r).toNat < s.cur.sc.vlc) : exec (.vpIns d r) s =
      .next (((s.modCur (fun y => { y with q0 := l })).modCur (fun y =>
        y.setElt d.toNat (etyBits t) (s.reg r).toNat v.toNat)).vecDone 0 0) := by
  have hp := h.clean
  have hblock : vBlock s.cur (.vpIns d r) = .no := by simp [vBlock, hq]
  have hhead : s.unwritten.cur.headPoison 0 = false := by simp [Strand.headPoison, h.unwritten.clean]
  have hcheck : vpCheck (.vpIns d r) etyMove (some d) [] (do let _ ← vpIndex r; pure ()) s = .ok ⟨⟩ s :=
    (vpCheck_dest h.2.2.1 ht hvlc (etyMove_of_ne hne) (by simp) hd).trans (bind_ok (vpIndex_run h.1 hk))
  have hset := Strand.setElt_eq (x := { s.cur with q0 := l }) hp d.toNat (etyBits t) (s.reg r).toNat v.toNat
  refine h.finish_of_run (n := noDraws) (x := ({ s.cur with q0 := l } : Strand).setElt d.toNat (etyBits t) (s.reg r).toNat v.toNat) ?_ hblock
    hcheck ?_
  · rw [hset]
    exact h.1.1
  · have htidy := Strand.setElt_tidy (x := { s.cur with q0 := l }) hp s.cur.sc s.cur.rstix d.toNat (etyBits t) (s.reg r).toNat v.toNat
    have hpop : ({ s.unwritten.cur with q0 := l, poison := popMarks s.unwritten.cur.poison 0 } : Strand) =
        Strand.tidy s.cur.sc s.cur.rstix { s.cur with q0 := l } := by
      rw [h.unwritten.clean]
      exact congrArg (fun p => ({ s.unwritten.cur with q0 := l, poison := p } : Strand)) hp.symm
    have hor : s.cur.sc.flags ||| 0 = s.cur.sc.flags := BitVec.or_zero
    have hsc : (({ s.cur with q0 := l } : Strand).setElt d.toNat (etyBits t) (s.reg r).toNat v.toNat).sc = s.cur.sc := by rw [hset]
    rw [bind_ok (vpWidth_run (s := s.unwritten) ht), bind_ok (sc_run _), bind_ok (get_run _),
      show s.unwritten.cur.q0 = v :: l from hq]
    dsimp only
    rw [hhead, if_neg Bool.false_ne_true, modCur_run, hsc, hor]
    exact congrArg (fun y => EStateM.Result.ok PUnit.unit (s.modCur (fun _ => y)))
      ((congrArg (fun z => z.setElt d.toNat (etyBits t) (s.reg r).toNat v.toNat) hpop).trans htidy)

/-- `vp.ext` appends the element that its register names to q1. -/
theorem exec_vpExt (hne : t ≠ .n4) (ha : s.spans a (etyBits t) (etyBits t)) {r : Reg} (hroom : s.cur.q1.length < 16)
    (hk : (s.reg r).toNat < s.cur.sc.vlc) : exec (.vpExt a r) s =
      .next ((s.modCur (fun y => { y with q1 := y.q1 ++ [extWord t (s.cur.elt a.toNat (etyBits t) (s.reg r).toNat)] })).vecDone 0 0) := by
  have hr := h.unwritten
  have hor : s.cur.sc.flags ||| 0 = s.cur.sc.flags := BitVec.or_zero
  have hblock : vBlock s.cur (.vpExt a r) = .no := by simp [vBlock, hroom]
  have hcheck : vpCheck (.vpExt a r) etyMove none [a] (do let _ ← vpIndex r; pure ()) s = .ok ⟨⟩ s :=
    (vpCheck_source h.2.2.1 ht hvlc (etyMove_of_ne hne) (by simpa using ha)).trans (bind_ok (vpIndex_run h.1 hk))
  refine h.finish_of_run (n := noDraws) (x := { s.cur with
    q1 := s.cur.q1 ++ [extWord t (s.cur.elt a.toNat (etyBits t) (s.reg r).toNat)] }) h.1.1 hblock hcheck ?_
  rw [bind_ok (sc_run _), show etyOfCode (modeETA s.unwritten.cur.sc.md) = some t from ht, Option.getD_some]
  dsimp only
  rw [bind_ok (hr.waitSources_run _), bind_ok (get_run _), hr.rdE]
  dsimp only
  rw [modCur_run, hor]
  rfl

/-- An index of `vp.ins` or `vp.ext` at or beyond VLC raises BOUNDS. -/
theorem exec_vpIns_bounds (hne : t ≠ .n4) (hd : s.spans d (etyBits t) (etyBits t)) {r : Reg}
    (hk : s.cur.sc.vlc ≤ (s.reg r).toNat) : exec (.vpIns d r) s = s.traps cBOUNDS (s.reg r) 0 :=
  h.vecInstr_trap ((vpCheck_dest h.2.2.1 ht hvlc (etyMove_of_ne hne) (by simp) hd).trans (bind_error (vpIndex_bounds h.1 hk)))

theorem exec_vpExt_bounds (hne : t ≠ .n4) (ha : s.spans a (etyBits t) (etyBits t)) {r : Reg}
    (hk : s.cur.sc.vlc ≤ (s.reg r).toNat) : exec (.vpExt a r) s = s.traps cBOUNDS (s.reg r) 0 :=
  h.vecInstr_trap
    ((vpCheck_source h.2.2.1 ht hvlc (etyMove_of_ne hne) (by simpa using ha)).trans (bind_error (vpIndex_bounds h.1 hk)))

/-! ### Reductions (R151, R179) -/

/-- The checks of a reduction to an extreme, and those of a sum that rounds by no reserved mode. -/
theorem redCheck_run (i : Instr) (hok : etyArith t = true) (hd : s.spans d (etyBits t) (etyBits t))
    (ha : s.spans a (etyBits t) (etyBits t)) {rnd : Bool} (hrnd : rnd = true → etyIsFp t = true → modeRND s.cur.sc.md ≤ 5) :
    redCheck i d a rnd s = .ok ⟨⟩ s := by
  refine (vpCheck_dest h.2.2.1 ht hvlc hok (by simpa using ha) hd).trans ?_
  rw [bind_ok (sc_run s), ht]
  dsimp only
  by_cases hc : (rnd && etyIsFp t) = true
  · obtain ⟨h1, h2⟩ := Bool.and_eq_true_iff.1 hc
    have hk : needRND i s = .ok (modeRND s.cur.sc.md) s := by
      unfold needRND
      rw [bind_ok (sc_run s), if_pos (hrnd h1 h2)]
      rfl
    rw [if_pos hc, bind_ok hk]
    rfl
  · rw [if_neg hc]
    rfl

theorem exec_reduceExt (i : Instr) (mx : Bool) (hb : vBlock s.cur i = .no) (hok : etyArith t = true)
    (hd : s.spans d (etyBits t) (etyBits t)) (ha : s.spans a (etyBits t) (etyBits t)) {v : Nat × Flags}
    (hv : extreme t mx (((List.range s.cur.sc.vlc).filter s.cur.active).map (fun e => s.cur.elt a.toNat (etyBits t) e)) = v)
    (hfl : v.2 &&& s.cur.sc.fpen.zeroExtend 6 = 0) : finish (reduceExt i mx d a) s =
      .next ((s.modCur (fun y => y.setElt d.toNat (etyBits t) 0 v.1)).vecDone v.2 0) := by
  have hr := h.unwritten
  have hvals (l : List Nat) : ((l.map (fun e => (e, s.unwritten.cur.elt a.toNat (etyBits t) e))).map (·.2)) =
      l.map (fun e => s.cur.elt a.toNat (etyBits t) e) := by
    rw [List.map_map]
    rfl
  refine h.finish_first hb (redCheck_run h ht hvlc i hok hd ha (fun hc => Bool.noConfusion hc)) ?_
  rw [hr.whole_run, bind_ok (sc_run _), show etyOfCode (modeETA s.unwritten.cur.sc.md) = some t from ht, Option.getD_some]
  dsimp only
  rw [bind_ok (hr.waitSources_run _), bind_ok (hr.activeValues_run a (etyBits t)), hvals]
  subst hv
  exact elementFlags_run (t := s.unwritten) hfl _ _ _

end

end Sys2Proof.Machine
end

section
/-! `vp.rmax`, `vp.rmin` and `vp.rsum` (R139, R151, R179), and the statement that gathers the `vl` and `vp` forms. -/

namespace Sys2Proof.Machine

theorem isFp_eq_false_of_isInt {t : ETy} (h : etyIsInt t = true) : etyIsFp t = false := by
  cases t <;> trivial

theorem isInt_eq_false_of_isArith {t : ETy} (h : etyIsArith t = true) : etyIsInt t = false := by
  cases t <;> trivial

theorem isFp_of_isArith {t : ETy} (h : etyIsArith t = true) : etyIsFp t = true := by
  cases t <;> trivial

/-- The tree's leaf e among the active elements: element e when it is active. -/
theorem find?_activeElement (n e : Nat) (act : Nat → Bool) (x : Nat → Nat) :
    (((List.range n).filter act).map (fun e => (e, x e))).find? (fun p => p.1 == e) =
      if e < n ∧ act e = true then some (e, x e) else none := by
  rw [List.find?_map]
  by_cases h : e < n ∧ act e = true
  · have hfind : ((List.range n).filter act).find? ((fun p : Nat × Nat => p.1 == e) ∘ fun e => (e, x e)) = some e := by
      rw [List.find?_filter]
      refine List.find?_range_eq_some.2 ⟨by simp [h.2], List.mem_range.2 h.1, fun j hj => ?_⟩
      have hne : j ≠ e := by omega
      simp [hne]
    rw [hfind, if_pos h]
    rfl
  · rw [if_neg h, Option.map_eq_none_iff, List.find?_eq_none]
    intro j hj he
    obtain ⟨hr, ha⟩ := List.mem_filter.1 hj
    have hje : j = e := by simpa using he
    exact h ⟨hje ▸ List.mem_range.1 hr, hje ▸ ha⟩

theorem treeLeaf_eq (n : Nat) (act : Nat → Bool) (x : Nat → Nat) (z e : Nat) :
    (match (((List.range n).filter act).map (fun e => (e, x e))).find? (fun p => p.1 == e) with
      | some p => p.2
      | none => z) = if e < n ∧ act e = true then x e else z := by
  rw [find?_activeElement]
  by_cases h : e < n ∧ act e = true
  · rw [if_pos h, if_pos h]
  · rw [if_neg h, if_neg h]

/-- A tree of one leaf takes the leaf, and a larger one its sum. -/
theorem treeSum_eq {t : ETy} {n : Nat} {leaf leaf' : Nat → Nat} (sum : List Nat → Nat × Flags) (h : ∀ e, leaf e = leaf' e) :
    (match (List.range n).map leaf with
      | [y] => soleSum t y
      | _ => sum ((List.range n).map leaf)) =
      if n = 1 then soleSum t (leaf' 0) else sum ((List.range n).map leaf') := by
  obtain rfl : leaf = leaf' := funext h
  match n with
  | 0 => rfl
  | 1 => rfl
  | n + 2 =>
    rw [if_neg (by omega), List.range_succ_eq_map, List.range_succ_eq_map]
    rfl

theorem elementFlags_run_of_eq {u : State} {r v : Nat × Flags} (hr : r = v) (hfl : v.2 &&& u.cur.sc.fpen.zeroExtend 6 = 0)
    (d w : Nat) : (do elementFlags r.2 0; writeFirst d w r.1 : M Unit) u =
      .ok ⟨⟩ ((u.modSc (fun c => { c with flags := c.flags ||| v.2 })).modCur (fun y => y.setElt d w 0 v.1)) := by
  rw [hr]
  exact elementFlags_run hfl d w v.1

section
variable {s : State} (h : s.VecReady) {t : ETy} (ht : etyOfCode (modeETA s.cur.sc.md) = some t)
  (hvlc : s.holdsVlc (etyBits t)) {d a : Reg} (hd : s.spans d (etyBits t) (etyBits t)) (ha : s.spans a (etyBits t) (etyBits t))
include h ht hvlc hd ha

/-- The checks of `vp.rsum`: those of a reduction, after RND's on a floating type. -/
theorem rsumCheck_run (hok : etyArith t = true) (hrnd : etyIsFp t = true → modeRND s.cur.sc.md ≤ 5) :
    (do let c ← sc
        match etyOfCode (modeETA c.md) with
        | some t => if etyIsArith t then (do let _ ← needRND (.vpRsum d a); pure ()) else pure ()
        | none => pure ()
        redCheck (.vpRsum d a) d a true : M Unit) s = .ok ⟨⟩ s := by
  have hred := redCheck_run h ht hvlc (.vpRsum d a) hok hd ha (rnd := true) (fun _ => hrnd)
  rw [bind_ok (sc_run s), ht]
  dsimp only
  by_cases hc : etyIsArith t = true
  · have hk : needRND (.vpRsum d a) s = .ok (modeRND s.cur.sc.md) s := by
      unfold needRND
      rw [bind_ok (sc_run s), if_pos (hrnd (isFp_of_isArith hc))]
      rfl
    rw [if_pos hc]
    have hrnd' : (do let _ ← needRND (.vpRsum d a); pure () : M Unit) s = .ok ⟨⟩ s := bind_ok hk
    exact (bind_ok hrnd').trans hred
  · rw [if_neg hc]
    exact hred

/-- `vp.rsum` writes the sum of its active elements: of integers, the exact sum taken into the type. -/
theorem exec_vpRsum_int (hint : etyIsInt t = true) {v : Nat × Flags}
    (hv : intResult t (modeSAT s.cur.sc.md) (((List.range s.cur.sc.vlc).filter s.cur.active).foldl
      (fun (m : Int) e => m + intVal t (s.cur.elt a.toNat (etyBits t) e)) 0) = v)
    (hfl : v.2 &&& s.cur.sc.fpen.zeroExtend 6 = 0) :
    exec (.vpRsum d a) s = .next ((s.modCur (fun y => y.setElt d.toNat (etyBits t) 0 v.1)).vecDone v.2 0) := by
  have hr := h.unwritten
  have hn : rsumDraws s = 0 := by simp [rsumDraws, ht, isFp_eq_false_of_isInt hint]
  have hok : etyArith t = true := by simp [etyArith, hint]
  have hrnd (hf : etyIsFp t = true) : modeRND s.cur.sc.md ≤ 5 := Bool.noConfusion ((isFp_eq_false_of_isInt hint).symm.trans hf)
  have hrun : exec (.vpRsum d a) s =
      .next ((s.modCur (fun y => y.setElt d.toNat (etyBits t) 0 v.1)).vecDone v.2 (rsumDraws s)) := by
    refine h.finish_first rfl (rsumCheck_run h ht hvlc hd ha hok hrnd) ?_
    rw [hr.whole_run, bind_ok (get_run _), show etyOfCode (modeETA s.unwritten.cur.sc.md) = some t from ht, Option.getD_some]
    dsimp only
    rw [bind_ok (hr.waitSources_run _), bind_ok (hr.activeValues_run a (etyBits t)), if_pos hint, List.foldl_map]
    exact elementFlags_run_of_eq (u := s.unwritten) hv hfl _ _
  rwa [hn] at hrun

/-- Of floating values, the tree of R151 over the active elements, with a draw for each node under RS. -/
theorem exec_vpRsum_arith (har : etyIsArith t = true) (hrnd : modeRND s.cur.sc.md ≤ 5) {m : Nat}
    (hm : (if modeRND s.cur.sc.md = 5 then treeSize s.cur.sc.vlc - 1 else 0) = m) {v : Nat × Flags}
    (hv : (if treeSize s.cur.sc.vlc = 1 then
        soleSum t (if 0 < s.cur.sc.vlc ∧ s.cur.active 0 then s.cur.elt a.toNat (etyBits t) 0 else zeroOf t true)
      else sumTree t (modeRND s.cur.sc.md) (modeSAT s.cur.sc.md) 10 ((List.range (treeSize s.cur.sc.vlc)).map (fun e =>
        if e < s.cur.sc.vlc ∧ s.cur.active e then s.cur.elt a.toNat (etyBits t) e else zeroOf t true))
        (draws m s.cur.sc.seed).1) = v)
    (hfl : v.2 &&& s.cur.sc.fpen.zeroExtend 6 = 0) :
    exec (.vpRsum d a) s = .next ((s.modCur (fun y => y.setElt d.toNat (etyBits t) 0 v.1)).vecDone v.2 m) := by
  have hr := h.unwritten
  have hn : rsumDraws s = m := by simp [rsumDraws, ht, isFp_of_isArith har, hm]
  have hok : etyArith t = true := by simp [etyArith, har]
  have hrun : exec (.vpRsum d a) s =
      .next ((s.modCur (fun y => y.setElt d.toNat (etyBits t) 0 v.1)).vecDone v.2 (rsumDraws s)) := by
    refine h.finish_first rfl (rsumCheck_run h ht hvlc hd ha hok (fun _ => hrnd)) ?_
    have hint : ¬ etyIsInt t = true := by simp [isInt_eq_false_of_isArith har]
    have hleaf := treeLeaf_eq s.cur.sc.vlc s.cur.active (s.cur.elt a.toNat (etyBits t)) (zeroOf t true)
    have hdr : drawList (rsumDraws s.unwritten) s.unwritten = (draws m s.cur.sc.seed).1 := congrArg (fun k => (draws k _).1) hn
    rw [hr.whole_run, bind_ok (get_run _), show etyOfCode (modeETA s.unwritten.cur.sc.md) = some t from ht, Option.getD_some]
    dsimp only
    rw [bind_ok (hr.waitSources_run _), bind_ok (hr.activeValues_run a (etyBits t)), if_neg hint]
    refine elementFlags_run_of_eq (u := s.unwritten) (Eq.trans (treeSum_eq
      (fun l => sumTree t (modeRND s.cur.sc.md) (modeSAT s.cur.sc.md) 10 l (drawList (rsumDraws s.unwritten) s.unwritten)) hleaf) ?_) hfl _ _
    rw [hdr]
    exact hv
  rwa [hn] at hrun

theorem exec_vpRmax (hok : etyArith t = true) {v : Nat × Flags}
    (hv : extreme t true (((List.range s.cur.sc.vlc).filter s.cur.active).map (s.cur.elt a.toNat (etyBits t))) = v)
    (hfl : v.2 &&& s.cur.sc.fpen.zeroExtend 6 = 0) :
    exec (.vpRmax d a) s = .next ((s.modCur (fun y => y.setElt d.toNat (etyBits t) 0 v.1)).vecDone v.2 0) :=
  exec_reduceExt h ht hvlc (.vpRmax d a) true rfl hok hd ha hv hfl

theorem exec_vpRmin (hok : etyArith t = true) {v : Nat × Flags}
    (hv : extreme t false (((List.range s.cur.sc.vlc).filter s.cur.active).map (s.cur.elt a.toNat (etyBits t))) = v)
    (hfl : v.2 &&& s.cur.sc.fpen.zeroExtend 6 = 0) :
    exec (.vpRmin d a) s = .next ((s.modCur (fun y => y.setElt d.toNat (etyBits t) 0 v.1)).vecDone v.2 0) :=
  exec_reduceExt h ht hvlc (.vpRmin d a) false rfl hok hd ha hv hfl

end

/-- Settles O26: each form by its own lemma. -/
theorem permuteResults : Obligations.PermuteResults := by
  unfold Obligations.PermuteResults
  intro d a b r q c s h
  refine ⟨exec_vlSet (h.1.readable q) (h.1.writable r), exec_vlGet (h.1.writable r), ?_⟩
  intro t ht hne hvlc w n zm sat x act k es put live first
  refine ⟨fun hd => ⟨?bcast, ?iota, ?ins, ?insBounds⟩, fun ha => ⟨?ext, ?extBounds⟩, fun hd ha =>
    ⟨?mv, ?slup, ?sldn, ?perm, ?compress, ?sel, ?sumInt, ?sumArith, ?extremes⟩⟩
  case bcast => exact exec_vpBcast h ht hne hvlc hd r
  case iota => exact exec_vpIota h ht hvlc hd
  case ins => exact fun v l => exec_vpIns h ht hvlc hne hd
  case insBounds => exact exec_vpIns_bounds h ht hvlc hne hd
  case ext => exact exec_vpExt h ht hvlc hne ha
  case extBounds => exact exec_vpExt_bounds h ht hvlc hne ha
  case mv => exact exec_vpMv h ht hne hvlc hd ha
  case slup => exact exec_vpSlup h ht hne hvlc hd ha r
  case sldn => exact exec_vpSldn h ht hne hvlc hd ha r
  case perm => exact exec_vpPerm h ht hne hvlc hd ha
  case compress =>
    refine exec_vpCompress h ht hvlc hne hd ha (fun e j hj => ?_) (fun e he => ?_)
    · exact (congrArg (fun o => match o with | some j => some (x j) | none => if zm then some 0 else none) hj).trans rfl
    · exact (congrArg (fun o => match o with | some j => some (x j) | none => if zm then some 0 else none) he).trans rfl
  case sel => exact exec_vpSel h ht hne hvlc hd ha
  case sumInt => exact fun hint => exec_vpRsum_int h ht hvlc hd ha hint rfl
  case sumArith => exact fun har hrnd => exec_vpRsum_arith h ht hvlc hd ha har hrnd rfl rfl
  case extremes => exact fun hok => ⟨exec_vpRmax h ht hvlc hd ha hok rfl, exec_vpRmin h ht hvlc hd ha hok rfl⟩

end Sys2Proof.Machine
end

section
/-! Strands, quads and launches by name: what a change leaves unchanged, and the ends of waits (R282 to R286, R311, R313). -/

namespace Sys2Proof.Machine

/-! ### Quads -/

/-- What does not read the quads is the same after a change of one. -/
theorem State.setQuad_keeps {α : Type} {g : State → α} (hg : ∀ (s : State) a b, g { s with quad := a, quads := b } = g s)
    (s : State) (x : Quad) : g (s.setQuad x) = g s := by
  unfold State.setQuad
  split_ifs
  · exact hg s x s.quads
  · exact hg s s.quad _
  · exact hg s s.quad _

theorem State.modQuad_keeps {α : Type} {g : State → α} (hg : ∀ (s : State) a b, g { s with quad := a, quads := b } = g s)
    (s : State) (q : Nat) (f : Quad → Quad) : g (s.modQuad q f) = g s :=
  State.setQuad_keeps hg s _

/-! ### Strands -/

/-- In a list of strands, a change of those named `uid` is seen at that name, and at no other. -/
theorem find?_map_named {f : Strand → Strand} (hu : ∀ x, (f x).uid = x.uid) (uid u : Nat) (l : List Strand) :
    (l.map (fun x => if x.uid = uid then f x else x)).find? (fun x => x.uid == u) =
      if u = uid then (l.find? (fun x => x.uid == uid)).map f else l.find? (fun x => x.uid == u) := by
  have hkeep (x : Strand) : (if x.uid = uid then f x else x).uid = x.uid := by
    split_ifs
    · exact hu x
    · rfl
  rw [List.find?_map]
  have hpred : (fun x : Strand => x.uid == u) ∘ (fun x => if x.uid = uid then f x else x) = fun x => x.uid == u :=
    funext fun x => congrArg (· == u) (hkeep x)
  rw [hpred]
  cases h : l.find? (fun x => x.uid == u) with
  | none =>
    by_cases hne : u = uid
    · subst hne
      rw [if_pos rfl, h]
      rfl
    · rw [if_neg hne]
      rfl
  | some x =>
    have hx : x.uid = u := by simpa using List.find?_some h
    by_cases hne : u = uid
    · subst hne
      rw [if_pos rfl, h]
      exact congrArg some (if_pos hx)
    · rw [if_neg hne]
      exact congrArg some (if_neg (fun h => hne (hx.symm.trans h)))

/-- A change of the strand `uid` is seen at its name, and at no other. -/
theorem State.strand?_modStrand {f : Strand → Strand} (hu : ∀ x, (f x).uid = x.uid)
    (hs : ∀ x, x.status ≠ .absent → (f x).status ≠ .absent) (s : State) (uid u : Nat) :
    (s.modStrand uid f).strand? u = if u = uid then (s.strand? uid).map f else s.strand? u := by
  unfold State.modStrand
  by_cases hc : s.cur.uid = uid ∧ s.cur.status ≠ .absent
  · obtain ⟨rfl, hlive⟩ := hc
    rw [if_pos ⟨rfl, hlive⟩]
    unfold State.strand?
    by_cases h : u = s.cur.uid
    · subst h
      simp [hu, hs _ hlive, hlive]
    · simp [hu, h, Ne.symm h]
  · rw [if_neg hc]
    have hmap := find?_map_named hu uid u
    unfold State.strand?
    by_cases h : u = uid
    · subst h
      rw [if_neg hc, if_pos rfl, if_neg hc, hmap, if_pos rfl]
    · dsimp only
      rw [if_neg h, hmap, if_neg h]

theorem State.modStrand_of_none {s : State} {uid : Nat} (h : s.strand? uid = none) (f : Strand → Strand) : s.modStrand uid f = s := by
  unfold State.strand? at h
  by_cases hc : s.cur.uid = uid ∧ s.cur.status ≠ .absent
  · rw [if_pos hc] at h
    cases h
  · rw [if_neg hc] at h
    unfold State.modStrand
    rw [if_neg hc]
    have hmap : s.strands.map (fun x => if x.uid = uid then f x else x) = s.strands := by
      refine (List.map_congr_left fun x hx => ?_).trans s.strands.map_id'
      have hne := List.find?_eq_none.1 h x hx
      exact if_neg (by simpa using hne)
    rw [hmap]

theorem State.modStrand_keeps {α : Type} {g : State → α} (hg : ∀ (s : State) a b, g { s with cur := a, strands := b } = g s)
    (s : State) (uid : Nat) (f : Strand → Strand) : g (s.modStrand uid f) = g s := by
  unfold State.modStrand
  split_ifs
  · exact hg s (f s.cur) s.strands
  · exact hg s s.cur _

/-- A change of a strand and of its copies in checkpoints is seen at its name, and at no other. -/
theorem State.strand?_modStrandAll {f : Strand → Strand} (hu : ∀ x, (f x).uid = x.uid)
    (hs : ∀ x, x.status ≠ .absent → (f x).status ≠ .absent) (s : State) (uid u : Nat) :
    (s.modStrandAll uid f).strand? u = if u = uid then (s.strand? uid).map f else s.strand? u := by
  unfold State.modStrandAll
  cases h : s.strand? uid with
  | none =>
    by_cases hne : u = uid
    · subst hne
      rw [if_pos rfl]
      exact h
    · rw [if_neg hne]
  | some x =>
    refine (State.modQuad_keeps (g := fun t => t.strand? u) (fun _ _ _ => rfl) _ _ _).trans ?_
    refine (State.strand?_modStrand hu hs s uid u).trans ?_
    rw [h]

theorem State.modStrandAll_of_none {s : State} {uid : Nat} (h : s.strand? uid = none) (f : Strand → Strand) :
    s.modStrandAll uid f = s := by
  unfold State.modStrandAll
  rw [h]

/-- What reads neither strands, nor passed `at`s, nor quads is the same after a change of a strand and its copies. -/
theorem State.modStrandAll_keeps {α : Type} {g : State → α} (hs : ∀ (s : State) a b, g { s with cur := a, strands := b } = g s)
    (ha : ∀ (s : State) a, g { s with ahead := a } = g s) (hq : ∀ (s : State) a b, g { s with quad := a, quads := b } = g s)
    (s : State) (uid : Nat) (f : Strand → Strand) : g (s.modStrandAll uid f) = g s := by
  unfold State.modStrandAll
  cases s.strand? uid with
  | none => rfl
  | some x => exact (State.modQuad_keeps hq _ _ _).trans ((ha _ _).trans (State.modStrand_keeps hs s uid f))

/-! ### The end of a wait that is tried again (R115, R442) -/

/-- A strand that waits is made to try its instruction again, and nothing else changes. -/
theorem retry_spec (s : State) (uid : Nat) : ∃ t, event (fun s => s.modStrand uid (fun x => { x with waiting := false })) s = .next t ∧
    (s.strand? uid = none → t = s) ∧ (∀ x, s.strand? uid = some x → t.strand? uid = some { x with waiting := false }) ∧
    (∀ u, u ≠ uid → t.strand? u = s.strand? u) ∧ t.mem = s.mem ∧ t.quad = s.quad := by
  have hfind := State.strand?_modStrand (f := fun x => { x with waiting := false }) (fun _ => rfl) (fun _ h => h) s uid
  refine ⟨_, rfl, fun h => State.modStrand_of_none h _, fun x h => ?_, fun u hu => ?_, ?_, ?_⟩
  · rw [hfind, if_pos rfl, h]
    rfl
  · rw [hfind, if_neg hu]
  · exact State.modStrand_keeps (g := State.mem) (fun _ _ _ => rfl) _ _ _
  · exact State.modStrand_keeps (g := State.quad) (fun _ _ _ => rfl) _ _ _

/-! ### A strand with nothing under way waits for nothing (R123, R302) -/

/-- With no effect of the strand on its way, none of any kind is. -/
theorem State.pendingEff_of_idle {s : State} {uid : Nat} (h : s.busyOut uid = false) (p : EffKind → Bool) :
    s.pendingEff uid p = false := by
  have hany (l : List Eff) : l.any (fun e => e.uid == uid && p e.kind) = true → l.any (fun e => e.uid == uid && true) = true := by
    simp only [List.any_eq_true]
    rintro ⟨e, he, hp⟩
    exact ⟨e, he, Bool.and_eq_true_iff.2 ⟨(Bool.and_eq_true_iff.1 hp).1, rfl⟩⟩
  have hreq (r : Req) : (r.eff.uid == uid && p r.eff.kind || r.combined.any (fun k => k.eff.uid == uid && p k.eff.kind)) = true →
      (r.eff.uid == uid && true || r.combined.any (fun k => k.eff.uid == uid && true)) = true := by
    simp only [Bool.or_eq_true, Bool.and_eq_true, List.any_eq_true]
    rintro (hp | ⟨k, hk, hp⟩)
    · exact .inl ⟨hp.1, trivial⟩
    · exact .inr ⟨k, hk, hp.1, trivial⟩
  have hidle := Bool.eq_false_iff.1 h
  refine Bool.eq_false_iff.2 (mt ?_ hidle)
  simp only [State.busyOut, State.pendingEff, Bool.or_eq_true, List.any_eq_true (l := s.quads), List.any_eq_true (l := s.reqs)]
  rintro ((hp | ⟨q, hq, hp⟩) | ⟨r, hr, hp⟩)
  · exact .inl (.inl (hany _ hp))
  · exact .inl (.inr ⟨q, hq, hany _ hp⟩)
  · exact .inr ⟨r, hr, by simpa using hreq r (by simpa using hp)⟩

section
variable {s : State} (h : s.Quiet)
include h

theorem State.Quiet.awaitOlder_run (v m : Instr → Bool) {out : EffKind → Bool} (hout : s.pendingEff s.cur.uid out = false) :
    awaitOlder v m out s = .ok ⟨⟩ s := by
  obtain ⟨-, hvq, hmq, -⟩ := h
  unfold awaitOlder
  rw [bind_ok (get_run s), hvq, hmq, hout]
  rfl

variable (hring : ∀ r, s.cur.ring = some r → r.due = [])
include hring

omit h in
theorem noFilling_run : noFilling s = .ok ⟨⟩ s := by
  unfold noFilling
  rw [bind_ok (get_run s)]
  cases hr : s.cur.ring with
  | none => rfl
  | some r =>
    dsimp only
    rw [hring r hr]
    rfl

theorem State.Quiet.performed_run : performed s = .ok ⟨⟩ s := by
  have hout : s.pendingEff s.cur.uid (fun _ => false) = false := by
    simp [State.pendingEff]
  unfold performed
  rw [bind_ok (behindAt_run h.notAhead), bind_ok (h.awaitOlder_run _ _ hout), noFilling_run hring]

theorem State.Quiet.cfReady_run : cfReady s = .ok ⟨⟩ s := by
  unfold cfReady
  rw [bind_ok h.drained_run, h.performed_run hring]

end

/-! ### Phases reach a strand (R285, R286) -/

/-- What a completed phase does to a strand that is not saved. -/
theorem BarRec.see_bar (s : State) (r : BarRec) : BarRec.see s.timer (s.bar r.bar) r =
    if r.done = false ∧ r.phase.isSome ∧ r.phase ≠ some (s.bar r.bar).phase ∧ (s.bar r.bar).id = r.bar then
      { r with done := true, time := s.timer }
    else r := by
  unfold BarRec.see
  refine if_congr ?_ rfl rfl
  rw [Bool.not_eq_true']
  constructor
  · rintro ⟨h1, h2, h3, h4⟩
    exact ⟨h4, h2, h3, h1.symm⟩
  · rintro ⟨h1, h2, h3, h4⟩
    exact ⟨h4.symm, h2, h3, h1⟩

theorem barrierPhaseDelivery_spec (s : State) (uid : Nat) :
    (s.strand? uid = none → exec (.barrierPhaseDelivery uid) s = .next s) ∧
    (∀ x, s.strand? uid = some x → x.status = .depot → ∃ t, exec (.barrierPhaseDelivery uid) s = .next t ∧
      t.strand? uid = some x ∧ t.mem = s.mem) ∧
    ∀ x, s.strand? uid = some x → x.status ≠ .depot → ∃ t, exec (.barrierPhaseDelivery uid) s = .next t ∧
    t.strand? uid = some { x with waiting := false, barRecs := x.barRecs.map (fun r =>
      if r.done = false ∧ r.phase.isSome ∧ r.phase ≠ some (s.bar r.bar).phase ∧ (s.bar r.bar).id = r.bar then
        { r with done := true, time := s.timer }
      else r) } ∧
    (∀ u, u ≠ uid → t.strand? u = s.strand? u) ∧ t.mem = s.mem := by
  have hfind := State.strand?_modStrandAll (f := fun x => if x.status = .depot then x
    else { x with barRecs := x.barRecs.map (fun r => BarRec.see s.timer (s.bar r.bar) r), waiting := false })
    (fun x => by split_ifs <;> rfl) (fun x h => by split_ifs <;> exact h) s uid
  have hmem : ∀ f, (s.modStrandAll uid f).mem = s.mem :=
    State.modStrandAll_keeps (g := State.mem) (fun _ _ _ => rfl) (fun _ _ => rfl) (fun _ _ _ => rfl) s uid
  refine ⟨fun h => congrArg Host.Outcome.next (State.modStrandAll_of_none h _), fun x h hd => ⟨_, rfl, ?_, hmem _⟩,
    fun x h hd => ⟨_, rfl, ?_, fun u hu => ?_, hmem _⟩⟩
  · rw [hfind, if_pos rfl, h]
    exact congrArg some (if_pos hd)
  · rw [hfind, if_pos rfl, h]
    refine congrArg some ((if_neg hd).trans ?_)
    rw [List.map_congr_left fun r _ => BarRec.see_bar s r]
  · rw [hfind, if_neg hu]

/-! ### Tokens (R311, R313) -/

theorem State.token_setToken (s : State) (idx : Nat) (x : TokSt) (j : Nat) :
    (s.setToken idx (some x)).token j = if j = idx then some x else s.token j := by
  unfold State.token State.setToken
  by_cases h : j = idx
  · subst h
    simp
  · have hf : (s.tokens.filter (fun t => t.idx != idx)).find? (fun t => t.idx == j) = s.tokens.find? (fun t => t.idx == j) := by
      rw [List.find?_filter]
      congr 1
      funext t
      by_cases ht : t.idx = j
      · subst ht
        simp [h]
      · simp [ht]
    simp [h, Ne.symm h, hf]

theorem State.reply_keeps {α : Type} {g : State → α} (hs : ∀ (s : State) a b, g { s with cur := a, strands := b } = g s)
    (ha : ∀ (s : State) a, g { s with ahead := a } = g s) (hq : ∀ (s : State) a b, g { s with quad := a, quads := b } = g s)
    (s : State) (uid id : Nat) (ws : List Word) : g (s.reply uid id ws) = g s :=
  State.modStrandAll_keeps hs ha hq s uid _

/-- The reply to a strand's own effect reaches it. -/
theorem State.strand?_reply {s : State} {uid : Nat} {x : Strand} {h : Handed} (hx : s.strand? uid = some x) (hh : x.handed = some h)
    (ws : List Word) : (s.reply uid h.id ws).strand? uid = some { x with handed := some ⟨h.id, some ws⟩, waiting := false } := by
  refine (State.strand?_modStrandAll (fun y => ?_) (fun y hy => ?_) s uid uid).trans ?_
  · split
    · split_ifs <;> rfl
    · rfl
  · split
    · split_ifs <;> exact hy
    · exact hy
  · rw [if_pos rfl, hx, Option.map_some, hh]
    exact congrArg some (if_pos rfl)

theorem tokenGrant_spec (s : State) (idx : Nat) :
    (s.tokReqs.find? (fun r => r.idx == idx && mayTake (s.token idx) r.owner) = none → exec (.tokenGrant idx) s = .next s) ∧
    ∀ r, s.tokReqs.find? (fun r => r.idx == idx && mayTake (s.token idx) r.owner) = some r →
      ∃ t, exec (.tokenGrant idx) s = .next t ∧ t.token idx = some (.held r.owner r.uid) ∧
        (∀ j, j ≠ idx → t.token j = s.token j) ∧ (∀ k ∈ t.tokReqs, k ∈ s.tokReqs ∧ ¬ (k.idx = idx ∧ k.uid = r.uid)) ∧
        ∀ x h, s.strand? r.uid = some x → x.handed = some h → h.id = r.eff →
          t.strand? r.uid = some { x with handed := some ⟨r.eff, some []⟩, waiting := false } := by
  have hexec : exec (.tokenGrant idx) s = .next (s.grantToken idx) := rfl
  rw [hexec]
  unfold State.grantToken
  cases hf : s.tokReqs.find? (fun r => r.idx == idx && mayTake (s.token idx) r.owner) with
  | none => exact ⟨fun _ => rfl, fun _ h => (nomatch h)⟩
  | some q =>
    refine ⟨fun h => (nomatch h), fun r hr => ?_⟩
    cases hr
    refine ⟨_, rfl, ?_, fun j hj => ?_, fun k hk => ?_, fun x h hx hh hid => ?_⟩
    · rw [State.reply_keeps (g := fun t => t.token idx) (fun _ _ _ => rfl) (fun _ _ => rfl) (fun _ _ _ => rfl), State.token_setToken,
        if_pos rfl]
    · rw [State.reply_keeps (g := fun t => t.token j) (fun _ _ _ => rfl) (fun _ _ => rfl) (fun _ _ _ => rfl), State.token_setToken,
        if_neg hj]
      rfl
    · rw [State.reply_keeps (g := State.tokReqs) (fun _ _ _ => rfl) (fun _ _ => rfl) (fun _ _ _ => rfl)] at hk
      obtain ⟨hmem, hne⟩ := List.mem_filter.1 hk
      exact ⟨hmem, by simpa [imp_iff_not_or] using hne⟩
    · have hrep (t : State) (ht : t.strand? q.uid = some x) := State.strand?_reply ht hh []
      simp only [hid] at hrep
      exact hrep _ hx

/-! ### The end of `cf.twait` (R283) -/

theorem State.as_cur {s : State} (h : s.cur.status ≠ .absent) (f : State → State) : s.as s.cur.uid f = f s := by
  unfold State.as
  rw [if_pos ⟨rfl, h⟩]

section
variable {s : State} (hs : s.cur.status = .running)
include hs

theorem twaitTimeout_of_none (hd : s.cur.deadline = none) : exec (.twaitTimeout s.cur.uid) s = .next s := by
  refine congrArg Host.Outcome.next ((State.as_cur (by simp [hs]) _).trans ?_)
  rw [hd]

variable {w : TWait} (hd : s.cur.deadline = some w)
include hd

theorem twaitTimeout_before (hw : s.timer ≤ w.deadline) : exec (.twaitTimeout s.cur.uid) s = .next s := by
  refine congrArg Host.Outcome.next ((State.as_cur (by simp [hs]) _).trans ?_)
  rw [hd]
  exact if_neg fun h => Nat.lt_irrefl _ (Nat.lt_of_le_of_lt hw h.1)

/-- Past its deadline, `cf.twait` completes as its last step says. -/
theorem twaitTimeout_after (hw : w.deadline < s.timer) {t : State} {r : Done} (h : twaitStep w s = .ok r t) :
    exec (.twaitTimeout s.cur.uid) s = .next (t.modCur (fun x => { x with waiting := false })).advance := by
  refine congrArg Host.Outcome.next ((State.as_cur (by simp [hs]) _).trans ?_)
  rw [hd]
  refine (if_pos ⟨hw, hs⟩).trans ?_
  rw [show (twaitStep w).run s = .ok r t from h]

end

section
variable {s : State} (hq : s.Quiet) (hring : ∀ r, s.cur.ring = some r → r.due = []) {w : TWait}
include hq hring

theorem twaitStep_none (hr : s.cur.barRec w.bar = none) : twaitStep w s = .ok .adv (twaitEnd w.d 2 s) := by
  unfold twaitStep
  rw [bind_ok (hq.cfReady_run hring), bind_ok (get_run s), hr]
  rfl

variable {r : BarRec} (hr : s.cur.barRec w.bar = some r)
include hr

theorem twaitStep_done (hd : r.done = true) (ht : r.time ≤ w.deadline) (ha : s.arriving w.bar = false) : twaitStep w s =
    .ok .adv (twaitEnd w.d 0 ((s.modCur (fun x => x.dropRec w.bar)).acquire (barScope w.bar))) := by
  unfold twaitStep
  rw [bind_ok (hq.cfReady_run hring), bind_ok (get_run s), hr]
  dsimp only
  rw [if_pos (by simp [hd, ht, ha])]
  rfl

theorem twaitStep_late (hd : r.done = false ∨ w.deadline < r.time) (ht : w.deadline < s.timer) :
    twaitStep w s = .ok .adv (twaitEnd w.d 1 s) := by
  have hnot : ¬ (r.done && decide (r.time ≤ w.deadline) && !s.arriving w.bar) = true := by
    rcases hd with h | h
    · simp [h]
    · simp [Nat.not_le.2 h]
  unfold twaitStep
  rw [bind_ok (hq.cfReady_run hring), bind_ok (get_run s), hr]
  dsimp only
  rw [if_neg hnot, if_pos ht]
  rfl

end

/-- Settles O51: each event by its own lemma. -/
theorem waitEvents : Obligations.WaitEvents := by
  unfold Obligations.WaitEvents
  refine ⟨retry_spec, retry_spec, ?_, barrierPhaseDelivery_spec, tokenGrant_spec⟩
  intro s w b hset hrun u done
  obtain ⟨hquiet, -, -, -, -, -, hdead, -, hring, hidle, -⟩ := hset
  have hq : u.Quiet := hquiet
  have hdue : ∀ r, u.cur.ring = some r → r.due = [] := fun r hr => (hring r hr).2
  have harr : u.arriving w.bar = false := State.pendingEff_of_idle (s := u) hidle _
  refine ⟨twaitTimeout_of_none hrun hdead, fun hw => twaitTimeout_before (s := u) hrun rfl hw, fun hw => ⟨fun hr => ?_, fun r hr =>
    ⟨fun hd ht => ?_, fun hlate => ?_⟩⟩⟩
  · exact (twaitTimeout_after (s := u) hrun rfl hw (twaitStep_none hq hdue hr)).trans rfl
  · exact (twaitTimeout_after (s := u) hrun rfl hw (twaitStep_done hq hdue hr hd ht harr)).trans rfl
  · exact (twaitTimeout_after (s := u) hrun rfl hw (twaitStep_late hq hdue hr hlate hw)).trans rfl

end Sys2Proof.Machine
end

section
/-! A page request of a strand whose partition's fault queue is full (R399, R403). -/

namespace Sys2Proof.Machine

/-- With the fault queue full, `sy.pgreq` of a page that is not resident waits until the pager makes room. -/
theorem exec_syPgreq_of_full {s : State} (hq : s.Quiet) {a : Reg} {p : Part} (hp : s.part? s.cur.ident.part = some p)
    (hbase : p.fqbase ≠ 0) (hcan : canonical (s.reg a) = true) (hwin : inWindow (s.reg a) = false) {k : Nat}
    (hwalk : s.walk p.id (s.reg a) = .none k false true) (hfull : p.fqFull = true) :
    exec (.syPgreq a) s = .next s.setWaiting := by
  have hreq : ¬ (decide (p.fqbase = 0) || !canonical (s.reg a) || inWindow (s.reg a)) = true := by
    rw [hcan, hwin, decide_eq_false hbase]
    decide
  refine finish_error (e := .wait) ?_
  rw [bind_ok (rd_of_readable (hq.readable a)), bind_ok hq.drained_run, bind_ok (get_run s), hp]
  dsimp only
  rw [if_neg hreq, hwalk]
  exact congrFun (if_pos hfull) s

/-- A partition of which the fault queue's 16 entries are all written. -/
def fullPart : Part := { Part.blank 0 with setUp := true, fqbase := 1, fqhead := 16 }

/-- Strand 1 of `fullPart`, with nothing under way. The first entry of its root table names a page that is not resident. -/
def queueFull : State :=
  { State.reset with
    cur := { Strand.absent with uid := 1, status := .running }
    mem := [(0, 2)]
    parts := [fullPart] }

theorem queueFull_settled : queueFull.Settled := by
  dsimp only [State.Settled, State.Quiet]
  and_intros <;> decide

theorem queueFull_walk : queueFull.walk 0 0 = .none 1 false true := by decide

/-- The page request that the statement lets complete waits there. -/
theorem exec_syPgreq_queueFull : exec (.syPgreq 0) queueFull = .next queueFull.setWaiting :=
  exec_syPgreq_of_full queueFull_settled.1 (p := fullPart) rfl (by decide) (by decide) (by decide) queueFull_walk (by decide)

/-- Refutes O34: where the quad's effects wait on its platform and the fault queue is full, `sy.pgreq` hands nothing and waits. -/
theorem not_systemResults : ¬ Obligations.SystemResults := by
  unfold Obligations.SystemResults
  intro h
  have hs := queueFull_settled
  obtain ⟨-, -, -, -, -, -, -, -, hreq⟩ := h 0 0 queueFull fullPart hs rfl rfl
  obtain ⟨-, hheld⟩ := hreq 1 (by decide) (by decide) (by decide) queueFull_walk
  have hnext := hheld (by decide)
  rw [exec_syPgreq_queueFull] at hnext
  have hsc := congrArg (fun o => match o with | .next t => t.cur.sc.icount | _ => 0) hnext
  have hwait : queueFull.setWaiting.cur.sc = queueFull.cur.sc := hs.1.setWaiting_sc rfl
  dsimp only at hsc
  rw [hwait] at hsc
  exact absurd hsc (by decide)

end Sys2Proof.Machine
end

section
/-! A completion word whose last bytes lie behind those of another home (R262, R344, R432). -/

namespace Sys2Proof.Machine

/-- A launch without crews, of which the completion word is to stand at the last four bytes of a page of 2^30 bytes and the four after
them. -/
def tailLaunch : Launch :=
  { handle := 0, part := 0, entry := 0, param := 0, doneVa := 0x3FFFFFFC, ncx := 0, ncy := 0, ncz := 0, nstr := 1, prio := 0,
    tiles := 0, prot := false, cores := false, nopre := false, sysrel := false, mirror := false, vlmin := 0, vldes := 0,
    spad := 0, mgrp := 0, deps := [], prv := false, placed := 0, retired := 0, normal := 0, flags := 0, faulted := false,
    ctxlost := false, rolled := false }

/-- A pointer to the second page, and there a leaf of the last 2^30 bytes of local memory. -/
def tailTables : Memory := memSetN (memSetN [] 0 (leBytes 8 0x1001)) 4096 (leBytes 8 (2 ^ 52 - 2 ^ 30 + 3))

/-- The first host line, which follows local memory, fills its set; its slice owes the host the byte 1 at its start. The bucket table
puts the last line of local memory into the same set. -/
def tailEvicts : State :=
  { State.reset with
    parts := [{ Part.blank 0 with setUp := true }]
    launches := [tailLaunch]
    mem := tailTables
    buckets := [⟨0, 384, none, 0, none⟩]
    hostB := [⟨2 ^ 52, 1, some []⟩]
    lines := List.replicate 16 ⟨2 ^ 43, 1, none, false, 0, false, 0⟩ }

/-- The page of `tailLaunch`'s word. -/
def tailPage : Page := pageOf (w64 (2 ^ 52 - 2 ^ 30 + 3)) 2 0 (2 ^ 30) false

theorem tailEvicts_homeOf : tailEvicts.homeOf tailLaunch.part tailLaunch.doneVa = some tailPage := by decide

theorem tailPage_key : tailPage.key + (tailLaunch.doneVa.toNat - tailPage.va) = 2 ^ 52 - 4 := by decide

/-- The line that the word takes in its set pushes the host line out, and the byte owed overwrites the word's fifth. -/
theorem tailEvicts_word : ∃ t, exec (.completionWordWrite 0) tailEvicts = .next t ∧
    memGetN t.mem (2 ^ 52 - 4) 8 = [1, 0, 0, 0, 1, 0, 0, 0] :=
  ⟨_, rfl, by decide⟩

/-- Refutes O54: `tailEvicts` meets the conditions of COMPLETION_WORD_WRITE, which admit a DONEVA that is no multiple of 8 and that
R252 would refuse, and its word does not stand as written. -/
theorem not_schedulerEvents : ¬ Obligations.SchedulerEvents := by
  unfold Obligations.SchedulerEvents
  intro h
  obtain ⟨-, -, -, -, -, -, -, hword, -⟩ := h
  obtain ⟨-, hwrite⟩ := hword tailEvicts 0 tailLaunch rfl
  obtain ⟨t, hnext, -, hmem⟩ := hwrite tailPage rfl (fun _ hd => nomatch hd) tailEvicts_homeOf (by decide) rfl (by decide)
  obtain ⟨u, hrun, hval⟩ := tailEvicts_word
  obtain rfl : u = t := Host.Outcome.next.inj (hrun.symm.trans hnext)
  rw [tailPage_key] at hmem
  exact absurd (hval.symm.trans hmem) (by decide)

end Sys2Proof.Machine
end

section
/-! Element-wise vector forms that raise conditions: the conditions of the active elements join FLAGS beside the elements written
(R140, R142, R166). -/

namespace Sys2Proof.Machine

/-! ### Writes and raised conditions -/

/-- Conditions join FLAGS. The instruction has noted no bits as written. -/
def Strand.raised (fl : Flags) (x : Strand) : Strand := x.tidy { x.sc with flags := x.sc.flags ||| fl } x.rstix

/-- The step of a loop over elements: the conditions of an element, and then its value. -/
def Strand.stepElt (d w : Nat) (p : Nat → Option Nat) (fl : Nat → Flags) (x : Strand) (e : Nat) : Strand :=
  (x.raised (fl e)).putElt d w p e

/-- A strand in the run of an instruction that covers no poison: none is there, and no bits are noted as written. -/
def Strand.Spotless (x : Strand) : Prop := x.poison = [] ∧ x.wrote = []

theorem Strand.Spotless.raised {x : Strand} (h : x.Spotless) (fl : Flags) : (x.raised fl).Spotless := ⟨h.1, rfl⟩

theorem Strand.Spotless.putElt {x : Strand} (h : x.Spotless) (d w : Nat) (p : Nat → Option Nat) (e : Nat) :
    (x.putElt d w p e).Spotless := by
  rw [Strand.putElt_eq h.1]
  exact h

/-- Conditions do not meet what changes vector registers alone. -/
theorem Strand.raised_comm {G : Strand → Strand} {x : Strand} (hframe : G x = { x with v := (G x).v })
    (htidy : ∀ c r, G (x.tidy c r) = (G x).tidy c r) (fl : Flags) : G (x.raised fl) = (G x).raised fl := by
  have hsc : (G x).sc = x.sc := by rw [hframe]
  have hrst : (G x).rstix = x.rstix := by rw [hframe]
  rw [Strand.raised, htidy, Strand.raised, hsc, hrst]

theorem Strand.raised_raised (x : Strand) (f g : Flags) : (x.raised f).raised g = x.raised (f ||| g) :=
  congrArg (fun k => x.tidy { x.sc with flags := k } x.rstix) (BitVec.or_assoc x.sc.flags f g)

theorem Strand.raised_zero {x : Strand} (h : x.Spotless) : x.raised 0 = x := by
  obtain ⟨-, hw⟩ := h
  have hor : x.sc.flags ||| 0 = x.sc.flags := BitVec.or_zero
  rw [Strand.raised, hor, Strand.tidy, ← hw]

/-- A loop over elements writes them all, and all their conditions join FLAGS. -/
theorem Strand.foldl_stepElt (d w : Nat) (p : Nat → Option Nat) (fl : Nat → Flags) (l : List Nat) :
    ∀ {x : Strand} (g : Flags), x.Spotless → l.foldl (Strand.stepElt d w p fl) (x.raised g) =
      (l.foldl (Strand.putElt d w p) x).raised (l.foldl (fun a e => a ||| fl e) g) := by
  induction l with
  | nil => exact fun _ _ => rfl
  | cons e l ih =>
    intro x g h
    have hstep : (x.raised g).stepElt d w p fl e = (x.putElt d w p e).raised (g ||| fl e) := by
      rw [Strand.stepElt, Strand.raised_raised]
      exact Strand.raised_comm (G := fun y => y.putElt d w p e) (Strand.putElt_eq h.1 d w p e)
        (fun c r => Strand.putElt_tidy h.1 c r d w p e) _
    rw [List.foldl_cons, hstep, ih _ (h.putElt d w p e)]
    rfl

theorem Strand.stepElt_frame {x : Strand} {c : Scalar} (h : x.Spotless ∧ ∃ f, x.sc = { c with flags := f }) (d w : Nat)
    (p : Nat → Option Nat) (fl : Nat → Flags) (e : Nat) :
    (x.stepElt d w p fl e).Spotless ∧ ∃ f, (x.stepElt d w p fl e).sc = { c with flags := f } := by
  obtain ⟨hx, f, hsc⟩ := h
  refine ⟨(hx.raised _).putElt d w p e, f ||| fl e, ?_⟩
  have hputsc : (x.stepElt d w p fl e).sc = (x.raised (fl e)).sc := by
    rw [Strand.stepElt, Strand.putElt_eq (hx.raised _).1]
  rw [hputsc, Strand.raised, Strand.tidy, hsc]

/-- One element of such a loop: conditions that FPEN leaves disabled, and its value. -/
theorem stepElt_run {t : State} (ht : t.cur.wrote = []) {v : Nat × Flags} (hfl : v.2 &&& t.cur.sc.fpen.zeroExtend 6 = 0) (e : Nat)
    {d w j : Nat} {p : Nat → Option Nat} (hp : p j = some v.1) {fl : Nat → Flags} (hv : fl j = v.2) :
    (do elementFlags v.2 e; modCur (fun y => y.setElt d w j v.1) : M Unit) t =
      .ok ⟨⟩ (t.modCur (fun x => x.stepElt d w p fl j)) := by
  have hput (x : Strand) : x.stepElt d w p fl j = (x.raised v.2).setElt d w j v.1 := by
    rw [Strand.stepElt, Strand.putElt_some hp, hv]
  have hraise : { t.cur with sc := { t.cur.sc with flags := t.cur.sc.flags ||| v.2 } } = t.cur.raised v.2 := by
    rw [Strand.raised, Strand.tidy, ← ht]
  rw [bind_ok (elementFlags_of_disabled hfl e), modCur_run]
  simp only [State.modCur, State.modSc, hput, hraise]

/-- A loop over elements whose every step raises an element's conditions and writes its value. -/
theorem stepLoop_run {s : State} (hs : s.cur.Spotless) {f : Nat → M PUnit} {d w : Nat} {p : Nat → Option Nat} {fl : Nat → Flags}
    (l : List Nat) (hf : ∀ e ∈ l, ∀ t : State, t.cur.Spotless → (∃ f, t.cur.sc = { s.cur.sc with flags := f }) →
      f e t = .ok ⟨⟩ (t.modCur (fun x => x.stepElt d w p fl e))) :
    l.forM f s = .ok ⟨⟩ (s.modCur (fun x => (l.foldl (Strand.putElt d w p) x).raised (l.foldl (fun a e => a ||| fl e) 0))) := by
  have hfold := Strand.foldl_stepElt d w p fl l 0 hs
  rw [Strand.raised_zero hs] at hfold
  have hrun := forM_run (P := fun x => x.Spotless ∧ ∃ f, x.sc = { s.cur.sc with flags := f })
    (fun x e hx => Strand.stepElt_frame hx d w p fl e) l (fun e he t ht => hf e he t ht.1 ht.2) ⟨hs, s.cur.sc.flags, rfl⟩
  rw [hrun, State.modCur, State.modCur, hfold]

/-! ### The loop over guarded elements -/

/-- What an inactive element takes hangs on ZM alone (R162). -/
theorem idleElt_of_md {s t : State} (h : t.cur.sc.md = s.cur.sc.md) (d w e : Nat) {p : Nat → Option Nat} (hp : p e = s.idleValue) :
    idleElt d w e t = .ok ⟨⟩ (t.modCur (fun x => x.putElt d w p e)) := by
  unfold idleElt
  rw [bind_ok (sc_run t), h]
  by_cases hz : modeZM s.cur.sc.md = true
  · have hv : p e = some 0 := by rw [hp, State.idleValue, if_pos hz]
    rw [if_pos hz, modCur_run]
    simp only [Strand.putElt_some hv]
  · have hv : p e = none := by rw [hp, State.idleValue, if_neg hz]
    rw [if_neg hz]
    simp only [Strand.putElt_none hv]
    rfl

/-- The conditions of element e where it is active. -/
def State.liveFlags (s : State) (f : Nat → Flags) (e : Nat) : Flags := if s.cur.active e then f e else 0

theorem State.flagsOver_eq (s : State) (f : Nat → Flags) :
    s.flagsOver f = (List.range s.cur.sc.vlc).foldl (fun a e => a ||| s.liveFlags f e) 0 := by
  refine List.foldl_ext _ _ _ fun a e _ => ?_
  by_cases h : s.cur.active e = true
  · rw [if_pos h, State.liveFlags, if_pos h]
  · rw [if_neg h, State.liveFlags, if_neg h]
    exact BitVec.or_zero.symm

section
variable {s : State} (h : s.VecReady)
include h

/-- An element-wise form of which FPEN leaves every condition disabled writes what g gives, and its conditions join FLAGS. -/
theorem State.VecReady.elementwise_flags_run (hw : s.cur.wrote = []) {d w : Nat} {f : Strand → Nat → Except Nat (Nat × Flags)}
    {g : Nat → Nat × Flags} (hf : ∀ e, f s.cur e = .ok (g e)) (hfl : s.noTrap (fun e => (g e).2)) : elementwise d w f s =
      .ok ⟨⟩ (s.modCur (fun x => ((List.range s.cur.sc.vlc).foldl (Strand.putElt d w (s.guarded (fun e => (g e).1))) x).raised
        (s.flagsOver (fun e => (g e).2)))) := by
  have hrst : s.cur.rstix = 0 := h.2.1
  have hspot : s.cur.Spotless := ⟨h.clean, hw⟩
  unfold elementwise forElements
  rw [bind_ok h.readGuard_run, bind_ok (get_run s), State.flagsOver_eq]
  refine stepLoop_run hspot _ fun e he t ht hsc => ?_
  obtain ⟨f', hsc⟩ := hsc
  have hlow : ¬ e < s.cur.rstix.toNat := by simp [hrst]
  rw [if_neg hlow, h.guardPoison, if_neg Bool.false_ne_true]
  by_cases ha : s.cur.active e = true
  · have hdis : (g e).2 &&& t.cur.sc.fpen.zeroExtend 6 = 0 := by
      rw [hsc]
      exact hfl e (List.mem_range.1 he) ha
    rw [if_pos ha]
    simp only [hf]
    exact stepElt_run ht.2 hdis e (by rw [State.guarded, if_pos ha]) (by rw [State.liveFlags, if_pos ha])
  · have hguard : s.guarded (fun e => (g e).1) e = s.idleValue := by rw [State.guarded, if_neg ha]; rfl
    have hstep : t.cur.stepElt d w (s.guarded (fun e => (g e).1)) (s.liveFlags (fun e => (g e).2)) e =
        t.cur.putElt d w (s.guarded (fun e => (g e).1)) e := by
      rw [Strand.stepElt, State.liveFlags, if_neg ha, Strand.raised_zero ht]
    have hmd : t.cur.sc.md = s.cur.sc.md := by
      rw [hsc]
      rfl
    rw [if_neg ha, idleElt_of_md hmd d w e hguard, State.modCur, State.modCur, hstep]

/-- What an instruction leaves whose run changes vector registers by G and raises fl. -/
theorem State.VecReady.finish_raised {i : Instr} {check run : M Unit} {n : State → Nat} {fl : Flags} {G : Strand → Strand}
    (hb : vBlock s.cur i = .no) (hc : check s = .ok ⟨⟩ s) (hframe : G s.cur = { s.cur with v := (G s.cur).v })
    (htidy : G (s.cur.tidy s.cur.sc s.cur.rstix) = (G s.cur).tidy s.cur.sc s.cur.rstix)
    (hr : run s.unwritten = .ok ⟨⟩ (s.unwritten.modCur (fun x => (G x).raised fl))) :
    finish (vecInstr i check n run) s = .next ((s.modCur G).vecDone fl (n s)) := by
  have hsc : (G s.cur).sc = s.cur.sc := by rw [hframe]
  refine h.finish_of_run (x := G s.cur) ?_ hb hc (hr.trans ?_)
  · rw [hframe]
    exact h.1.1
  · rw [hsc]
    exact congrArg (fun y => EStateM.Result.ok PUnit.unit (s.modCur (fun _ => y))) (congrArg (Strand.raised fl) htidy)

/-- The case of elements written from a list. -/
theorem State.VecReady.finish_elements {i : Instr} {check run : M Unit} {n : State → Nat} {fl : Flags} {d w : Nat}
    {p : Nat → Option Nat} {l : List Nat} (hb : vBlock s.cur i = .no) (hc : check s = .ok ⟨⟩ s)
    (hr : run s.unwritten = .ok ⟨⟩ (s.unwritten.modCur (fun x => (l.foldl (Strand.putElt d w p) x).raised fl))) :
    finish (vecInstr i check n run) s = .next ((s.modCur (fun x => l.foldl (Strand.putElt d w p) x)).vecDone fl (n s)) :=
  h.finish_raised hb hc (Strand.foldl_putElt_eq d w p l h.clean) (Strand.foldl_putElt_tidy _ _ d w p l h.clean) hr

end

end Sys2Proof.Machine
end

section
/-! The `va` forms of arithmetic, logic and rounding: their checks, and their loop over elements (R159, R166 to R170). -/

namespace Sys2Proof.Machine

/-! ### Checks -/

/-- A group that may hold an operand beside a type ETA of another width passes the group rules, with the scale register that follows a
group of N4 (R160). -/
theorem VOp.bad_of_spans_beside {s : State} {r : Reg} {w we : Nat} (h : s.spans r w we) (dst : Bool) {n4 : Bool}
    (hn4 : n4 = true → r.toNat + max (modeGRP s.cur.sc.md * w / we) 1 < 32) :
    (VOp.mk r.toNat w dst n4).bad (modeGRP s.cur.sc.md) we = false := by
  obtain ⟨hsize, halign, hend⟩ := h
  simp only [VOp.bad, VOp.span, halign, Nat.not_lt.2 hsize, Nat.not_lt.2 hend]
  cases n4 with
  | false => rfl
  | true => simp [Nat.not_le.2 (hn4 rfl)]

theorem opB_bad {s : State} {b : VSrc} {w we : Nat} (h : ∀ r, b = .v r → s.spans r w we) :
    ∀ o ∈ opB b w, o.bad (modeGRP s.cur.sc.md) we = false := by
  cases b with
  | s r => exact fun _ ho => absurd ho List.not_mem_nil
  | v r =>
    intro o ho
    rw [List.mem_singleton.1 ho]
    exact VOp.bad_of_spans_beside (h r rfl) _ (fun hc => Bool.noConfusion hc)

theorem destSource_bad {s : State} {d a : Reg} {w : Nat} (hd : s.spans d w w) (ha : s.spans a w w) {ops : List VOp}
    (hops : ∀ o ∈ ops, o.bad (modeGRP s.cur.sc.md) w = false) :
    ∀ o ∈ [⟨d.toNat, w, true, false⟩, ⟨a.toNat, w, false, false⟩] ++ ops, VOp.bad o (modeGRP s.cur.sc.md) w = false := by
  intro o ho
  simp only [List.cons_append, List.nil_append, List.mem_cons] at ho
  rcases ho with rfl | rfl | ho
  · exact VOp.bad_of_spans hd true
  · exact VOp.bad_of_spans ha false
  · exact hops o ho

theorem needRND_run {i : Instr} {s : State} (h : modeRND s.cur.sc.md ≤ 5) : needRND i s = .ok (modeRND s.cur.sc.md) s := by
  unfold needRND
  rw [bind_ok (sc_run s), if_pos h]
  rfl

/-- RND's check, which a floating type asks for, passes on to what follows. -/
theorem needRND_of_fp {i : Instr} {t : ETy} {s : State} (h : etyIsFp t = true → modeRND s.cur.sc.md ≤ 5) (k : M Unit) :
    (if etyIsFp t = true then (do let _ ← needRND i; k) else k) s = k s := by
  split
  · next hfp => exact bind_ok (needRND_run (h hfp))
  · rfl

/-- The second source of a form that may have none. -/
def State.eltO (s : State) (b : Option VSrc) (w e : Nat) : Nat :=
  match b with
  | some b => s.eltB b w e
  | none => 0

section
variable {s : State} (h : s.VecReady) {t : ETy} (ht : etyOfCode (modeETA s.cur.sc.md) = some t)
  (hvlc : s.holdsVlc (etyBits t)) {d a : Reg} (hd : s.spans d (etyBits t) (etyBits t)) (ha : s.spans a (etyBits t) (etyBits t))
  {b : Option VSrc} (hb : ∀ r, b = some (.v r) → s.spans r (etyBits t) (etyBits t))
include h ht hvlc hd ha hb

theorem vaCheck_run {i : Instr} {ok : ETy → Bool} (hok : ok t = true) (hrnd : etyIsFp t = true → modeRND s.cur.sc.md ≤ 5) :
    vaCheck i d a b ok s = .ok ⟨⟩ s := by
  have hring : s.cur.ring = none := h.2.2.1
  unfold vaCheck
  rw [bind_ok (needETA_of_ok ht hok)]
  refine (needRND_of_fp hrnd _).trans ?_
  cases b with
  | none => exact bind_ok (vGroups_run hring hvlc (destSource_bad hd ha (fun _ ho => absurd ho List.not_mem_nil)) i)
  | some b =>
    exact (bind_ok (vGroups_run hring hvlc (destSource_bad hd ha (opB_bad fun r hr => hb r (congrArg some hr))) i)).trans
      (needB_run h.1 b)

/-- What a `va` form of one type leaves, from the value that it gives for each element. -/
theorem finish_vaForm {i : Instr} {acc : Bool} {ok : ETy → Bool} {fi : IntFn} {ff : FpFn} {n : Nat} {g : Nat → Nat × Flags}
    (hblock : vBlock s.cur i = .no) (hok : ok t = true) (hrnd : etyIsFp t = true → modeRND s.cur.sc.md ≤ 5)
    (hn : (if etyIsFp t then vDraws s else 0) = n)
    (hg : ∀ e, g e =
      let z := if acc then s.cur.elt d.toNat (etyBits t) e else 0
      let x := s.cur.elt a.toNat (etyBits t) e
      let y := s.eltO b (etyBits t) e
      if etyIsInt t then fi t (modeSAT s.cur.sc.md) z x y
      else
        let md := rmodeOf (modeRND s.cur.sc.md) ((if etyIsFp t then drawList (vDraws s) s else []).getD e 0)
        ((ff t md (modeSAT s.cur.sc.md) z x y).bits, (ff t md (modeSAT s.cur.sc.md) z x y).fl))
    (hfl : s.noTrap (fun e => (g e).2)) : finish (vaForm i d a b acc ok fi ff) s =
      .next ((s.putElts d (etyBits t) (s.guarded (fun e => (g e).1))).vecDone (s.flagsOver (fun e => (g e).2)) n) := by
  have hr := h.unwritten
  have hdraws : (match etyOfCode (modeETA s.cur.sc.md) with | some t => if etyIsFp t then vDraws s else 0 | none => 0) = n := by
    rw [ht]
    exact hn
  unfold vaForm
  subst hn
  refine (h.finish_elements hblock (vaCheck_run h ht hvlc hd ha hb hok hrnd) (d := d.toNat) (w := etyBits t) (l := List.range s.cur.sc.vlc) ?_).trans
    (congrArg (fun k => Host.Outcome.next (State.vecDone _ _ k)) hdraws)
  have hty : (etyOfCode (modeETA s.unwritten.cur.sc.md)).getD .i32 = t := by
    rw [show etyOfCode (modeETA s.unwritten.cur.sc.md) = some t from ht]
    rfl
  rw [bind_ok (get_run _)]
  simp only [hty]
  rw [bind_ok (hr.waitSources_run _)]
  refine hr.elementwise_flags_run rfl (fun e => ?_) hfl
  rw [hg]
  have hacc : (if acc = true then rdE s.unwritten.cur d.toNat (etyBits t) e else .ok 0) =
      .ok (if acc = true then s.cur.elt d.toNat (etyBits t) e else 0) := by
    cases acc with
    | false => rfl
    | true => exact hr.rdE d.toNat (etyBits t) e
  rw [hr.rdE, hacc]
  cases b with
  | none => cases etyIsInt t <;> rfl
  | some b =>
    simp only [hr.srcB]
    cases etyIsInt t <;> rfl

/-- Of an integer type. -/
theorem finish_vaForm_int {i : Instr} {acc : Bool} {ok : ETy → Bool} {fi : IntFn} {ff : FpFn} {g : Nat → Nat × Flags}
    (hblock : vBlock s.cur i = .no) (hok : ok t = true) (hint : etyIsInt t = true)
    (hg : ∀ e, g e = fi t (modeSAT s.cur.sc.md) (if acc then s.cur.elt d.toNat (etyBits t) e else 0)
      (s.cur.elt a.toNat (etyBits t) e) (s.eltO b (etyBits t) e)) (hfl : s.noTrap (fun e => (g e).2)) :
    finish (vaForm i d a b acc ok fi ff) s =
      .next ((s.putElts d (etyBits t) (s.guarded (fun e => (g e).1))).vecDone (s.flagsOver (fun e => (g e).2)) 0) := by
  have hfp := isFp_eq_false_of_isInt hint
  refine finish_vaForm h ht hvlc hd ha hb hblock hok (fun hc => Bool.noConfusion (hfp.symm.trans hc)) (by rw [hfp]; rfl) (fun e => ?_) hfl
  rw [hg e, hint]
  rfl

/-- Of a floating type: with a draw for each element under RS (R139). -/
theorem finish_vaForm_arith {i : Instr} {acc : Bool} {ok : ETy → Bool} {fi : IntFn} {ff : FpFn} {g : Nat → Nat × Flags}
    (hblock : vBlock s.cur i = .no) (hok : ok t = true) (har : etyIsArith t = true) (hrnd : modeRND s.cur.sc.md ≤ 5)
    (hg : ∀ e, g e =
      let r := ff t (s.roundAt (vDraws s) e) (modeSAT s.cur.sc.md) (if acc then s.cur.elt d.toNat (etyBits t) e else 0)
        (s.cur.elt a.toNat (etyBits t) e) (s.eltO b (etyBits t) e)
      (r.bits, r.fl)) (hfl : s.noTrap (fun e => (g e).2)) : finish (vaForm i d a b acc ok fi ff) s =
      .next ((s.putElts d (etyBits t) (s.guarded (fun e => (g e).1))).vecDone (s.flagsOver (fun e => (g e).2)) (vDraws s)) := by
  have hfp := isFp_of_isArith har
  have hint := isInt_eq_false_of_isArith har
  refine finish_vaForm h ht hvlc hd ha hb hblock hok (fun _ => hrnd) (by rw [hfp]; rfl) (fun e => ?_) hfl
  simp only [hg, hint, hfp, if_true, Bool.false_eq_true, if_false]
  rfl

end

end Sys2Proof.Machine
end

section
/-! What the `va` forms of arithmetic, logic and rounding write (R169, R170). -/

namespace Sys2Proof.Machine

/-! ### Bounds -/

theorem Strand.elt_lt (x : Strand) (n w e : Nat) : x.elt n w e < 2 ^ w := Nat.mod_lt _ (Nat.two_pow_pos w)

theorem State.eltB_lt (s : State) (b : VSrc) (w e : Nat) : s.eltB b w e < 2 ^ w := by
  cases b with
  | v r => exact s.cur.elt_lt r.toNat w e
  | s r => exact Nat.mod_lt _ (Nat.two_pow_pos w)

theorem wrapN_lt (n : Nat) (x : Int) : wrapN n x < 2 ^ n := by
  have hpos : (0 : Int) < (2 ^ n : Nat) := by exact_mod_cast Nat.two_pow_pos n
  have hlo := Int.emod_nonneg x (ne_of_gt hpos)
  have hhi := Int.emod_lt_of_pos x hpos
  unfold wrapN
  omega

/-! ### Integer operations (R169) -/

theorem intBits_eq {f : ETy → Nat → Nat → Nat} {t : ETy} {x y v : Nat} (hv : f t x y = v) (h : v < 2 ^ etyBits t) (sat : Bool)
    (z : Nat) : intBits f t sat z x y = (v, 0) := by
  rw [intBits, hv, Nat.mod_eq_of_lt h]

theorem intDiv_eq {t : ETy} {y : Nat} (hy : y < 2 ^ etyBits t) (x : Nat) :
    intDiv t x y = if y = 0 then 2 ^ etyBits t - 1 else wrapN (etyBits t) ((intVal t x).tdiv (intVal t y)) := by
  rw [intDiv, Nat.mod_eq_of_lt hy]

theorem intDiv_lt {t : ETy} {y : Nat} (hy : y < 2 ^ etyBits t) (x : Nat) : intDiv t x y < 2 ^ etyBits t := by
  rw [intDiv_eq hy]
  split
  · exact Nat.sub_lt (Nat.two_pow_pos _) Nat.one_pos
  · exact wrapN_lt _ _

section
variable {t : ETy} {x y : Nat} (hx : x < 2 ^ etyBits t) (hy : y < 2 ^ etyBits t) (sat : Bool) (z : Nat)
include hx hy

theorem intPick_eq (mx : Bool) : intPick mx t sat z x y =
    (if (decide (intVal t x < intVal t y)) == mx then y else x, 0) := by
  have hlt : (if (decide (intVal t x < intVal t y)) == mx then y else x) < 2 ^ etyBits t := by
    split
    · exact hy
    · exact hx
  rw [intPick, Nat.mod_eq_of_lt hlt]

theorem intPick_min : intPick false t sat z x y = (if intVal t x < intVal t y then x else y, 0) := by
  rw [intPick_eq hx hy]
  by_cases h : intVal t x < intVal t y
  · simp [h]
  · simp [h]

theorem intPick_max : intPick true t sat z x y = (if intVal t x < intVal t y then y else x, 0) := by
  rw [intPick_eq hx hy]
  by_cases h : intVal t x < intVal t y
  · simp [h]
  · simp [h]

/-- Clipping between −|y| and |y|, and not above the type's greatest value. -/
theorem intClip_eq : intClip t sat z x y =
    (if etySigned t then
      wrapN (etyBits t) (min (max (-((intVal t y).natAbs : Int)) (min (intVal t y).natAbs (intVal t x))) (intMax t))
    else if intVal t y < intVal t x then y else x, 0) := by
  have hclamp (v k m : Int) (hk : 0 ≤ k) : (if m < (if v < -k then -k else if k < v then k else v) then m
      else (if v < -k then -k else if k < v then k else v)) = min (max (-k) (min k v)) m := by
    split_ifs <;> omega
  cases hs : etySigned t with
  | true =>
    simp only [intClip, hs, if_true, hclamp _ _ _ (Int.natCast_nonneg _)]
  | false =>
    have hlt : (if intVal t y < intVal t x then y else x) < 2 ^ etyBits t := by
      split
      · exact hy
      · exact hx
    simp only [intClip, hs, Bool.false_eq_true, if_false, Nat.mod_eq_of_lt hlt]

end

/-- Settles O23: each form is `vaForm` of an integer or of a floating operation, and its value is that operation's. -/
theorem vectorArithmetic : Obligations.VectorArithmetic := by
  unfold Obligations.VectorArithmetic
  intro d a b s t h ht hd ha hb hvlc w sat x y z out
  have hbo : ∀ r, some b = some (.v r) → s.spans r (etyBits t) (etyBits t) := fun r hr => hb r (Option.some.inj hr)
  have hno : ∀ r, (none : Option VSrc) = some (.v r) → s.spans r (etyBits t) (etyBits t) := fun _ hr => nomatch hr
  have hx (e : Nat) : x e < 2 ^ etyBits t := s.cur.elt_lt _ _ _
  have hy (e : Nat) : y e < 2 ^ etyBits t := s.eltB_lt _ _ _
  constructor
  · intro hint X Y Z
    have hok : etyArith t = true := by simp [etyArith, hint]
    have int2 := @finish_vaForm_int s h t ht hvlc d a hd ha (some b) hbo
    have int1 := @finish_vaForm_int s h t ht hvlc d a hd ha none hno
    refine ⟨?add, ?sub, ?mul, ?mulh, ?fma, ?fms, ?fnma, ?div, ?min, ?max, ?abs, ?neg, ?and, ?or, ?xor, ?shl, ?shr, ?sra, ?clip⟩
    case add => exact int2 rfl hok hint (fun _ => rfl)
    case sub => exact int2 rfl hok hint (fun _ => rfl)
    case mul => exact int2 rfl hok hint (fun _ => rfl)
    case mulh => exact int2 rfl hint hint (fun _ => rfl)
    case fma => exact int2 rfl hok hint (fun _ => rfl)
    case fms => exact int2 rfl hok hint (fun _ => rfl)
    case fnma => exact int2 rfl hok hint (fun _ => rfl)
    case div =>
      exact int2 rfl hok hint (fun e => (intBits_eq (intDiv_eq (hy e) (x e)) (intDiv_eq (hy e) (x e) ▸ intDiv_lt (hy e) (x e)) _ _).symm)
    case min => exact int2 rfl hok hint (fun e => (intPick_min (hx e) (hy e) _ _).symm)
    case max => exact int2 rfl hok hint (fun e => (intPick_max (hx e) (hy e) _ _).symm)
    case abs => exact int1 rfl hok hint (fun _ => rfl)
    case neg => exact int1 rfl hok hint (fun _ => rfl)
    case and =>
      exact int2 rfl hint hint (fun e => (intBits_eq (f := fun _ x y => x &&& y) (t := t) rfl (Nat.and_lt_two_pow _ (hy e)) _ _).symm)
    case or =>
      exact int2 rfl hint hint (fun e => (intBits_eq (f := fun _ x y => x ||| y) (t := t) rfl (Nat.or_lt_two_pow (hx e) (hy e)) _ _).symm)
    case xor =>
      exact int2 rfl hint hint (fun e => (intBits_eq (f := fun _ x y => x ^^^ y) (t := t) rfl (Nat.xor_lt_two_pow (hx e) (hy e)) _ _).symm)
    case shl => exact int2 rfl hint hint (fun _ => rfl)
    case shr =>
      exact int2 rfl hint hint (fun e => (intBits_eq (f := fun t x y => x / 2 ^ shiftOf t y) (t := t) rfl (Nat.lt_of_le_of_lt (Nat.div_le_self _ _) (hx e)) _ _).symm)
    case sra =>
      exact int2 rfl hint hint (fun e => (intBits_eq (f := sraBits) (t := t) rfl (wrapN_lt _ _) _ _).symm)
    case clip => exact int2 rfl hok hint (fun e => (intClip_eq (hx e) (hy e) _ _).symm)
  · intro har hrnd n fp
    have hok : etyArith t = true := by simp [etyArith, har]
    have fp2 := @finish_vaForm_arith s h t ht hvlc d a hd ha (some b) hbo
    have fp1 := @finish_vaForm_arith s h t ht hvlc d a hd ha none hno
    refine ⟨?add, ?sub, ?mul, ?fma, ?fms, ?fnma, ?div, ?sqrt, ?rsqrt, ?recip, ?exp2, ?log2, ?min, ?max, ?abs, ?neg, ?clip⟩
    case add => exact fp2 rfl hok har hrnd (fun _ => rfl)
    case sub => exact fp2 rfl hok har hrnd (fun _ => rfl)
    case mul => exact fp2 rfl hok har hrnd (fun _ => rfl)
    case fma => exact fp2 rfl hok har hrnd (fun _ => rfl)
    case fms => exact fp2 rfl hok har hrnd (fun _ => rfl)
    case fnma => exact fp2 rfl hok har hrnd (fun _ => rfl)
    case div => exact fp2 rfl hok har hrnd (fun _ => rfl)
    case sqrt => exact fp1 rfl har har hrnd (fun _ => rfl)
    case rsqrt => exact fp1 rfl har har hrnd (fun _ => rfl)
    case recip => exact fp1 rfl har har hrnd (fun _ => rfl)
    case exp2 => exact fp1 rfl har har hrnd (fun _ => rfl)
    case log2 => exact fp1 rfl har har hrnd (fun _ => rfl)
    case min => exact fp2 rfl hok har hrnd (fun _ => rfl)
    case max => exact fp2 rfl hok har hrnd (fun _ => rfl)
    case abs => exact fp1 rfl hok har hrnd (fun _ => rfl)
    case neg => exact fp1 rfl hok har hrnd (fun _ => rfl)
    case clip => exact fp2 rfl hok har hrnd (fun _ => rfl)

end Sys2Proof.Machine
end

section
/-! The converting and widening `va` forms (R143, R146, R150, R171 to R173). -/

namespace Sys2Proof.Machine

/-! ### The type ETB (R44) -/

/-- The type that ETB names beside ETA = t: 15 stands for t. -/
def State.etbIs (s : State) (t u : ETy) : Prop :=
  if modeETB s.cur.sc.md = 15 then u = t else etyOfCode (modeETB s.cur.sc.md) = some u

section
variable {s : State} {t u : ETy} (hu : s.etbIs t u)
include hu

theorem needETB_run {i : Instr} {ok : ETy → Bool} (hok : ok u = true) : needETB i t ok s = .ok u s := by
  unfold State.etbIs at hu
  split at hu
  · next h15 =>
    subst hu
    exact needETB_of_eq_ETA h15 hok
  · exact needETB_of_ok hu hok

theorem etb_getD : (if modeETB s.cur.sc.md = 15 then t else (etyOfCode (modeETB s.cur.sc.md)).getD .i32) = u := by
  unfold State.etbIs at hu
  by_cases h15 : modeETB s.cur.sc.md = 15
  · rw [if_pos h15] at hu ⊢
    exact hu.symm
  · rw [if_neg h15] at hu ⊢
    rw [hu]
    rfl

theorem mixTypes_eq (ht : etyOfCode (modeETA s.cur.sc.md) = some t) : mixTypes s.cur.sc.md = (t, u) := by
  unfold mixTypes
  rw [ht]
  exact congrArg (Prod.mk t) (etb_getD hu)

end

/-- A list of computations none of which fails. -/
theorem mapM_except_ok {α β ε : Type} {f : α → Except ε β} {g : α → β} (l : List α) (h : ∀ e ∈ l, f e = .ok (g e)) :
    l.mapM f = .ok (l.map g) := by
  induction l with
  | nil => rfl
  | cons e l ih =>
    rw [List.mapM_cons, h e List.mem_cons_self, ih fun k hk => h k (List.mem_cons_of_mem _ hk)]
    rfl

/-! ### Scale bytes (R160) -/

section
variable (x : Strand) (d a g n : Nat)

/-- Copying scale bytes changes the vector registers and nothing else. -/
theorem Strand.copyScales_eq (y : Strand) : x.copyScales y d a g n = { y with v := (x.copyScales y d a g n).v } := by
  unfold Strand.copyScales
  generalize List.range ((n + 31) / 32) = l
  induction l generalizing y with
  | nil => rfl
  | cons k l ih =>
    rw [List.foldl_cons, ih]
    unfold Strand.setVreg
    split
    · rfl
    · rfl

theorem Strand.copyScales_tidy (y : Strand) (c : Scalar) (r : BitVec 16) :
    x.copyScales (y.tidy c r) d a g n = (x.copyScales y d a g n).tidy c r := by
  unfold Strand.copyScales
  generalize List.range ((n + 31) / 32) = l
  induction l generalizing y with
  | nil => rfl
  | cons k l ih =>
    have hreg : (y.tidy c r).vreg (d + g) = y.vreg (d + g) := rfl
    rw [List.foldl_cons, List.foldl_cons, hreg, Strand.setVreg_tidy, ih]

end

/-! ### cvt (R171) -/

/-- What a run of `va.cvt` writes: elements, and the scale bytes behind them where it copies N4. -/
def State.cvtWrites (s : State) (d a : Reg) (w : Nat) (p : Nat → Option Nat) (copy : Bool) (y : Strand) : Strand :=
  let z := (List.range s.cur.sc.vlc).foldl (Strand.putElt d.toNat w p) y
  if copy then s.cur.copyScales z d.toNat a.toNat (modeGRP s.cur.sc.md) s.cur.sc.vlc else z

section
variable (s : State) (d a : Reg) (w : Nat) (p : Nat → Option Nat) (copy : Bool) {y : Strand} (hy : y.poison = [])
include hy

theorem State.cvtWrites_eq : s.cvtWrites d a w p copy y = { y with v := (s.cvtWrites d a w p copy y).v } := by
  have hframe := Strand.foldl_putElt_eq d.toNat w p (List.range s.cur.sc.vlc) hy
  unfold State.cvtWrites
  cases copy with
  | false => exact hframe
  | true =>
    dsimp only
    rw [if_pos rfl, Strand.copyScales_eq]
    rw [hframe]

theorem State.cvtWrites_tidy (c : Scalar) (r : BitVec 16) :
    s.cvtWrites d a w p copy (y.tidy c r) = (s.cvtWrites d a w p copy y).tidy c r := by
  unfold State.cvtWrites
  rw [Strand.foldl_putElt_tidy c r d.toNat w p _ hy]
  cases copy with
  | false => rfl
  | true => exact Strand.copyScales_tidy _ _ _ _ _ _ c r

end

section
variable {s : State} (h : s.VecReady) {t u : ETy} (ht : etyOfCode (modeETA s.cur.sc.md) = some t) (hu : s.etbIs t u)
  (hvlc : s.holdsVlc (etyBits t)) {d a : Reg} (ha : s.spans a (etyBits t) (etyBits t))
include h ht hu hvlc ha

section
variable (hn4 : modeETB s.cur.sc.md ≠ 15 → u ≠ .n4) (hrnd : modeRND s.cur.sc.md ≤ 5) (hd : s.spans d (etyBits u) (etyBits t))
  (hscale : t = .n4 → a.toNat + max (modeGRP s.cur.sc.md) 1 < 32 ∧ (u = .n4 → d.toNat + max (modeGRP s.cur.sc.md) 1 < 32))
include hn4 hrnd hd hscale

theorem cvtCheck_run : cvtCheck d a s = .ok ⟨⟩ s := by
  have hpair : u = .n4 → t = .n4 := by
    intro hun
    by_contra htn
    unfold State.etbIs at hu
    split at hu
    · exact htn (hu.symm.trans hun)
    · next h15 => exact hn4 h15 hun
  have h14 : modeETB s.cur.sc.md ≠ 14 := by
    intro h14
    have h15 : modeETB s.cur.sc.md ≠ 15 := by omega
    rw [State.etbIs, if_neg h15, h14] at hu
    exact hn4 h15 (Option.some.inj hu.symm)
  have hspan : modeGRP s.cur.sc.md * etyBits .n4 / etyBits .n4 = modeGRP s.cur.sc.md :=
    Nat.mul_div_cancel _ (by decide)
  have hops : ∀ o ∈ [⟨d.toNat, etyBits u, true, decide (u = .n4)⟩, ⟨a.toNat, etyBits t, false, decide (t = .n4)⟩],
      VOp.bad o (modeGRP s.cur.sc.md) (etyBits t) = false := by
    intro o ho
    rcases List.mem_pair.1 ho with rfl | rfl
    · refine VOp.bad_of_spans_beside hd _ fun hun => ?_
      have hun := of_decide_eq_true hun
      obtain ⟨-, hdn⟩ := hscale (hpair hun)
      rw [hpair hun, hun, hspan]
      exact hdn hun
    · refine VOp.bad_of_spans_beside ha _ fun htn => ?_
      have htn := of_decide_eq_true htn
      obtain ⟨han, -⟩ := hscale htn
      rw [htn, hspan]
      exact han
  have hok : (decide (u ≠ .n4) || decide (t = .n4)) = true := by
    by_cases hun : u = .n4
    · simp [hpair hun]
    · simp [hun]
  unfold cvtCheck
  rw [bind_ok (needETA_of_ok ht rfl), bind_ok (needETB_run hu hok), bind_ok (sc_run s), if_neg h14, bind_ok (needRND_run hrnd)]
  exact vGroups_run h.2.2.1 hvlc hops _

theorem exec_vaCvt {copy : Bool} (hcopy : (decide (modeETB s.cur.sc.md = 15) && decide (t = .n4)) = copy) {g : Nat → Nat × Flags}
    (hg : ∀ e, g e = cvtElt t u (decide (modeETB s.cur.sc.md = 15)) (s.roundAt (vDraws s) e) (modeSAT s.cur.sc.md)
      (s.cur.scaleOf a.toNat (modeGRP s.cur.sc.md) (e / 32)) (s.cur.elt a.toNat (etyBits t) e))
    (hfl : s.noTrap (fun e => (g e).2)) : exec (.vaCvt d a) s =
      .next ((s.modCur (s.cvtWrites d a (etyBits u) (s.guarded (fun e => (g e).1)) copy)).vecDone
        (s.flagsOver (fun e => (g e).2)) (vDraws s)) := by
  have hr := h.unwritten
  have hsame : decide (modeETB s.unwritten.cur.sc.md = 15) = decide (modeETB s.cur.sc.md = 15) := rfl
  have hta : (etyOfCode (modeETA s.unwritten.cur.sc.md)).getD .i32 = t := by
    rw [show etyOfCode (modeETA s.unwritten.cur.sc.md) = some t from ht]
    rfl
  have htb : (if decide (modeETB s.cur.sc.md = 15) = true then t
      else (etyOfCode (modeETB s.unwritten.cur.sc.md)).getD .i32) = u := by
    simp only [decide_eq_true_eq]
    exact etb_getD hu
  refine h.finish_raised (n := vDraws) rfl (cvtCheck_run h ht hu hvlc ha hn4 hrnd hd hscale) (s.cvtWrites_eq d a _ _ copy h.clean)
    (s.cvtWrites_tidy d a _ _ copy h.clean _ _) ?_
  rw [bind_ok (get_run _)]
  simp only [hsame, hta, htb, hcopy]
  rw [bind_ok (hr.waitSources_run _)]
  refine (bind_ok (hr.elementwise_flags_run (g := g) rfl (fun e => ?_) hfl)).trans ?_
  · rw [hr.rdE, hr.rdE, hg]
    by_cases htn : t = .n4
    · rw [if_pos htn]
      rfl
    · rw [if_neg htn]
      rfl
  · cases copy with
    | false => rfl
    | true =>
      rw [if_pos rfl, modCur_run]
      exact congrArg (fun y => EStateM.Result.ok PUnit.unit (s.modCur (fun _ => y)))
        (Strand.raised_comm (G := fun y => s.cur.copyScales y d.toNat a.toNat (modeGRP s.cur.sc.md) s.cur.sc.vlc)
          (Strand.copyScales_eq _ _ _ _ _ _) (Strand.copyScales_tidy _ _ _ _ _ _) _)

end

end

end Sys2Proof.Machine
end

section
/-! `va.mulw` and `va.dotw` (R150, R172, R173), and the statement that gathers the converting and widening forms. -/

namespace Sys2Proof.Machine

/-- The value and the conditions of position j of `va.dotw` (R173). -/
def State.dotwVal (s : State) (d a : Reg) (b : VSrc) (t u : ETy) (md : RMode) (j : Nat) : Nat × Flags :=
  let seg := segment s.cur j
  let x (e : Nat) := s.cur.elt a.toNat (etyBits t) e
  let y (e : Nat) := s.eltB b (etyBits u) e
  let z := s.cur.elt d.toNat (etyBits t) j
  if etyIsInt t then
    intResult t (modeSAT s.cur.sc.md) (seg.foldl (fun (k : Int) e => k + intVal t (x e) * intVal u (y e)) (intVal t z))
  else
    let ps := seg.map (fun e => (unpack t (x e), unpack u (y e)))
    let sig := decide (unpack t z = .nan true) || ps.any (fun p => decide (p.1 = .nan true) || decide (p.2 = .nan true))
    let r := dotRound t md (modeSAT s.cur.sc.md) sig (unpack t z) (ps.map (fun p => prodOf p.1 p.2))
    (r.bits, r.fl)

theorem State.VecReady.dotwAt_eq {s : State} (h : s.VecReady) (d a : Reg) (b : VSrc) (t u : ETy) (md : RMode) (j : Nat) :
    dotwAt s.cur d a b t u md (modeSAT s.cur.sc.md) j = .ok (s.dotwVal d a b t u md j) := by
  have hread : (segment s.cur j).mapM (fun e => (do
      let va ← Machine.rdE s.cur a.toNat (etyBits t) e
      let vb ← Machine.srcB s.cur b (etyBits u) e
      pure (va, vb) : Except Nat (Nat × Nat))) =
      .ok ((segment s.cur j).map (fun e => (s.cur.elt a.toNat (etyBits t) e, s.eltB b (etyBits u) e))) := by
    refine mapM_except_ok _ fun e _ => ?_
    rw [h.rdE, h.srcB]
    rfl
  unfold dotwAt State.dotwVal
  dsimp only
  rw [hread, h.rdE]
  cases etyIsInt t with
  | true => exact congrArg (fun k => Except.ok (intResult t (modeSAT s.cur.sc.md) k)) List.foldl_map
  | false =>
    refine congrArg Except.ok ?_
    simp only [Bool.false_eq_true, if_false, List.map_map]
    rfl

section
variable {s : State} (h : s.VecReady) {t u : ETy} (ht : etyOfCode (modeETA s.cur.sc.md) = some t) (hu : s.etbIs t u)
  (hvlc : s.holdsVlc (etyBits t)) {d a : Reg} (hd : s.spans d (etyBits t) (etyBits t)) (ha : s.spans a (etyBits t) (etyBits t))
  {b : VSrc} (hb : ∀ r, b = .v r → s.spans r (etyBits u) (etyBits t))
include ht hu

/-- The draws of a mixed form: one for each element of a floating type under RS (R139). -/
theorem mixDraws_eq : mixDraws s = if etyIsFp t then vDraws s else 0 := by
  unfold mixDraws
  rw [mixTypes_eq hu ht]

include h hvlc hd ha hb

theorem mixCheck_run {i : Instr} (hok : etyArith t = true) (hmix : mixOk t u = true)
    (hrnd : etyIsFp t = true → modeRND s.cur.sc.md ≤ 5) : mixCheck i d a b s = .ok ⟨⟩ s := by
  unfold mixCheck
  rw [bind_ok (needETA_of_ok ht hok), bind_ok (needETB_run hu hmix)]
  refine (needRND_of_fp hrnd _).trans ?_
  exact (bind_ok (vGroups_run h.2.2.1 hvlc (destSource_bad hd ha (opB_bad hb)) i)).trans (needB_run h.1 b)

section
variable (hok : etyArith t = true) (hmix : mixOk t u = true) (hrnd : etyIsFp t = true → modeRND s.cur.sc.md ≤ 5)
include hok hmix hrnd

theorem exec_vaMulw {g : Nat → Nat × Flags}
    (hg : ∀ e, g e =
      let x := s.cur.elt a.toNat (etyBits t) e
      let y := s.eltB b (etyBits u) e
      if etyIsInt t then intResult t (modeSAT s.cur.sc.md) (intVal t x * intVal u y)
      else
        let r := mulV t (s.roundAt (mixDraws s) e) (modeSAT s.cur.sc.md) (unpack t x) (unpack u y)
        (r.bits, r.fl))
    (hfl : s.noTrap (fun e => (g e).2)) : exec (.vaMulw d a b) s =
      .next ((s.putElts d (etyBits t) (s.guarded (fun e => (g e).1))).vecDone (s.flagsOver (fun e => (g e).2)) (mixDraws s)) := by
  have hr := h.unwritten
  have htypes : mixTypes s.unwritten.cur.sc.md = (t, u) := mixTypes_eq hu ht
  refine h.finish_elements (n := mixDraws) rfl (mixCheck_run h ht hu hvlc hd ha hb hok hmix hrnd) (d := d.toNat) ?_
  rw [bind_ok (get_run _)]
  simp only [htypes]
  rw [bind_ok (hr.waitSources_run _)]
  refine hr.elementwise_flags_run rfl (fun e => ?_) hfl
  rw [hr.rdE, hr.srcB, hg]
  cases etyIsInt t with
  | true => rfl
  | false => rfl

theorem exec_vaDotw {g : Nat → Nat × Flags} (hg : ∀ j, g j = s.dotwVal d a b t u (s.roundAt (mixDraws s) j) j)
    (hfl : ∀ j ∈ List.range ((s.cur.sc.vlc + 3) / 4), (g j).2 &&& s.cur.sc.fpen.zeroExtend 6 = 0) : exec (.vaDotw d a b) s =
      .next ((s.modCur (fun y => (List.range ((s.cur.sc.vlc + 3) / 4)).foldl
        (Strand.putElt d.toNat (etyBits t) (fun j => some (g j).1)) y)).vecDone
          ((List.range ((s.cur.sc.vlc + 3) / 4)).foldl (fun f j => f ||| (g j).2) 0) (mixDraws s)) := by
  have hr := h.unwritten
  have htypes : mixTypes s.unwritten.cur.sc.md = (t, u) := mixTypes_eq hu ht
  refine h.finish_elements (n := mixDraws) rfl (mixCheck_run h ht hu hvlc hd ha hb hok hmix hrnd) ?_
  rw [bind_ok (get_run _)]
  simp only [htypes]
  rw [bind_ok (hr.waitSources_run _), bind_ok hr.readGuard_run]
  refine stepLoop_run ⟨hr.clean, rfl⟩ _ fun j hj t' ht' hsc => ?_
  obtain ⟨f', hsc⟩ := hsc
  have hlow : ¬ 4 * j < s.unwritten.cur.rstix.toNat := by simp [hr.2.1]
  have hguard : (List.range 4).any (fun k => decide (4 * j + k < s.unwritten.cur.sc.vlc) && s.unwritten.cur.guardPoison (4 * j + k)) =
      false := by
    simp [hr.guardPoison]
  have hdis : (g j).2 &&& t'.cur.sc.fpen.zeroExtend 6 = 0 := by
    rw [hsc]
    exact hfl j hj
  rw [if_neg hlow, hguard, if_neg Bool.false_ne_true, hr.dotwAt_eq]
  have hval : s.unwritten.dotwVal d a b t u (rmodeOf (modeRND s.unwritten.cur.sc.md)
      ((drawList (mixDraws s.unwritten) s.unwritten).getD j 0)) j = g j := (hg j).symm
  rw [hval]
  have hstep := stepElt_run (p := fun j => some (g j).1) (fl := fun j => (g j).2) (d := d.toNat) (w := etyBits t) ht'.2 hdis (4 * j)
    rfl rfl
  exact hstep

end

end

/-- Settles O24: `va.cvt` by whether it copies N4, and `va.mulw` and `va.dotw` by their own lemmas. -/
theorem vectorConversions : Obligations.VectorConversions := by
  unfold Obligations.VectorConversions
  intro d a b s t u h ht hu hvlc ha c sat g n act
  have hetb : s.etbIs t u := by
    unfold State.etbIs
    split at hu
    · next h15 => rwa [if_pos h15]
    · next h15 => rw [if_neg h15]; exact hu.1
  have hn4 : modeETB s.cur.sc.md ≠ 15 → u ≠ .n4 := by
    intro h15
    rw [if_neg h15] at hu
    exact hu.2
  refine ⟨?cvt, ?mixed⟩
  case cvt =>
    intro hrnd hd hscale same f hfl r q
    have hrun := fun copy hcopy => exec_vaCvt h ht hetb hvlc ha hn4 hrnd hd hscale (copy := copy) hcopy (g := f) (fun _ => rfl) hfl
    by_cases hc : same = true ∧ t = .n4
    · have hq : q = r.modCur (fun y => s.cur.copyScales y d.toNat a.toNat g c.vlc) := if_pos hc
      rw [hq]
      exact hrun true (by rw [show decide (modeETB s.cur.sc.md = 15) = true from hc.1, hc.2]; rfl)
    · have hq : q = r := if_neg hc
      rw [hq]
      refine hrun false ?_
      rw [Bool.and_eq_false_iff, decide_eq_false_iff_not (p := t = .n4)]
      by_cases htn : t = .n4
      · exact .inl (Bool.eq_false_iff.2 fun hs => hc ⟨hs, htn⟩)
      · exact .inr htn
  case mixed =>
    intro hok hun hbits hint hd hb hrnd m x y
    have hmix : mixOk t u = true := by simp [mixOk, hun, hbits, hint]
    have hdraws : mixDraws s = m := mixDraws_eq ht hetb
    rw [← hdraws]
    refine ⟨?mulw, ?dotw⟩
    case mulw => exact fun hfl => exec_vaMulw h ht hetb hvlc hd ha hb hok hmix hrnd (fun _ => rfl) hfl
    case dotw => exact fun hfl => exec_vaDotw h ht hetb hvlc hd ha hb hok hmix hrnd (fun _ => rfl) hfl

end Sys2Proof.Machine
end

section
/-! Tiles, and matrix instructions of a strand that runs each whole as it passes it (R192, R193, R196, R198, R203). -/

namespace Sys2Proof.Machine

/-! ### Accumulators (R192, R193) -/

theorem natOfWords_lt : ∀ ws : List Nat, natOfWords ws < 2 ^ (32 * ws.length)
  | [] => Nat.one_pos
  | w :: r => by
    have hr := natOfWords_lt r
    have hw : w % 2 ^ 32 < 2 ^ 32 := Nat.mod_lt _ (Nat.two_pow_pos 32)
    rw [List.length_cons, Nat.mul_succ, Nat.pow_add, Nat.mul_comm, natOfWords]
    calc w % 2 ^ 32 + 2 ^ 32 * natOfWords r < 2 ^ 32 * (natOfWords r + 1) := by rw [Nat.mul_succ]; omega
      _ ≤ 2 ^ 32 * 2 ^ (32 * r.length) := Nat.mul_le_mul_left _ hr

/-- Each word of a number made of words. -/
theorem bitsAt_natOfWords : ∀ (ws : List Nat) (c : Nat), bitsAt (natOfWords ws) (32 * c) 32 = ws.getD c 0 % 2 ^ 32
  | [], c => by simp [natOfWords, bitsAt]
  | w :: r, 0 => by
    rw [bitsAt, natOfWords, Nat.mul_zero, Nat.pow_zero, Nat.div_one, Nat.add_mul_mod_self_left, Nat.mod_mod]
    rfl
  | w :: r, c + 1 => by
    have hw : w % 2 ^ 32 < 2 ^ 32 := Nat.mod_lt _ (Nat.two_pow_pos 32)
    have hdiv : natOfWords (w :: r) / 2 ^ 32 = natOfWords r := by
      rw [natOfWords, Nat.add_mul_div_left _ _ (Nat.two_pow_pos 32), Nat.div_eq_of_lt hw, Nat.zero_add]
    rw [bitsAt, Nat.mul_succ, Nat.add_comm, Nat.pow_add, ← Nat.div_div_eq_div_mul, hdiv]
    exact bitsAt_natOfWords r c

/-- Each word of the bits made of words. -/
theorem bitsAt_ofNat_natOfWords {n : Nat} {ws : List Nat} (h : 32 * ws.length = n) (c : Nat) :
    bitsAt (BitVec.ofNat n (natOfWords ws)).toNat (32 * c) 32 = ws.getD c 0 % 2 ^ 32 := by
  rw [BitVec.toNat_ofNat, Nat.mod_eq_of_lt (h ▸ natOfWords_lt ws), bitsAt_natOfWords]

theorem Strand.acc_lt (x : Strand) (k i j : Nat) : x.acc k i j < 2 ^ 32 := Nat.mod_lt _ (Nat.two_pow_pos 32)

/-- The row of which row i is a mirror: in protected mode there are 32 (R193). -/
def Scalar.rowOf (c : Scalar) (i : Nat) : Nat := if c.prot then i % 32 else i

/-- What a write of a tile leaves in each accumulator. -/
theorem Strand.acc_putTile (x : Strand) {k k' i j : Nat} (hit : Nat → Nat → Bool) (f : Nat → Nat → Nat) (hk : k < 8) (hk' : k' < 8)
    (hi : i < 64) (hj : j < 64) : (x.putTile k hit f).acc k' i j =
      if k' ≠ k then x.acc k' i j
      else if hit (x.sc.rowOf i) j then f (x.sc.rowOf i) j % 2 ^ 32 else x.acc k (x.sc.rowOf i) j := by
  by_cases hkk : k' = k
  · subst hkk
    have hplace : 64 * i + j < 4096 := by omega
    have hrow : (64 * i + j) / 64 = i := by omega
    have hcol : (64 * i + j) % 64 = j := by omega
    have hmod : x.acc k' (x.sc.rowOf i) j % 2 ^ 32 = x.acc k' (x.sc.rowOf i) j := Nat.mod_eq_of_lt (x.acc_lt _ _ _)
    rw [if_neg (not_not.2 rfl)]
    unfold Strand.putTile
    rw [dif_pos hk']
    rw [Strand.acc, Strand.tile, dif_pos hk', Vector.get_eq_getElem, Vector.getElem_set_self, bitsAt_ofNat_natOfWords (by simp)]
    rw [List.getD_eq_getElem _ _ (by simpa using hplace), List.getElem_map, List.getElem_range, hrow, hcol]
    by_cases hh : hit (x.sc.rowOf i) j = true
    · rw [if_pos hh]
      exact congrArg (· % 2 ^ 32) (if_pos hh)
    · rw [if_neg hh]
      exact (congrArg (· % 2 ^ 32) (if_neg hh)).trans hmod
  · unfold Strand.putTile
    rw [if_pos hkk, dif_pos hk]
    simp only [Strand.acc, Strand.tile, dif_pos hk', Vector.get_eq_getElem]
    rw [Vector.getElem_set_ne _ _ (fun hc => hkk hc.symm)]

/-! ### Instructions of the matrix stream (R196, R198) -/

section
variable {s : State} (h : s.Quiet) {i : Instr} {check run : M Unit} {busy : Scalar → Scalar} {n : State → Nat}
  (hc : check s = .ok ⟨⟩ s)
include h hc

theorem matInstr_enter :
    ¬ (decide (s.cur.inStream = 0) && (!s.cur.vq.isEmpty || !s.cur.mq.isEmpty || s.cur.mHold)) = true ∧
    (do modCur (fun x => x.openRings x.seqNo); check : M Unit) s = .ok ⟨⟩ s := by
  have hclosed := h.closed
  obtain ⟨-, hvq, hmq, -, -, hmh, -⟩ := h
  refine ⟨by simp [hvq, hmq, hmh], ?_⟩
  rw [bind_ok (modCur_run _ _), State.modCur, Strand.openRings_nil hclosed, hc]

theorem matInstr_run {u : State} (hr : run s = .ok ⟨⟩ u) (hu : u.cur.inStream = 0) : matInstr i check busy n run s =
    .ok .adv ((u.modSc (fun c => { c with seed := (draws (n s) c.seed).2 })).modSc busy) := by
  obtain ⟨hqueue, hpass⟩ := matInstr_enter h hc
  have hend : endDraws (n s) u = .ok ⟨⟩ (u.modSc (fun c => { c with seed := (draws (n s) c.seed).2 })) := by
    unfold endDraws
    rw [bind_ok (get_run u), if_pos hu]
    rfl
  unfold matInstr
  rw [bind_ok (get_run s), if_neg hqueue]
  simp only [h.1, if_true]
  rw [bind_ok hpass, bind_ok hr, bind_ok hend]
  refine (bind_ok (modSc_run _ _)).trans ?_
  unfold streamDone
  rw [bind_ok (get_run _)]
  exact congrFun (if_pos hu) _

theorem matInstr_error {e : Stop} {u : State} (hr : run s = .error e u) : matInstr i check busy n run s = .error e u := by
  obtain ⟨hqueue, hpass⟩ := matInstr_enter h hc
  unfold matInstr
  rw [bind_ok (get_run s), if_neg hqueue]
  simp only [h.1, if_true]
  rw [bind_ok hpass, bind_error hr]

end

end Sys2Proof.Machine
end

section
/-! The operands of an outer product: groups of registers, and rows of the scratchpad (R201, R202, R205, R206). -/

namespace Sys2Proof.Machine

/-! ### Rows of the scratchpad (R205, R206) -/

/-- The scratchpad operand that a register pair names (R205). -/
def State.padPair (s : State) (r : Reg) : PadOp :=
  ⟨bitsOf (s.reg r) 20 0, bitsOf (s.reg r) 23 21, bitsOf (s.reg (r + 1)) 31 16, bitsOf (s.reg (r + 1)) 15 0⟩

theorem padOf_run {s : State} {r : Reg} (hlo : bitsOf (s.reg r) 63 24 = 0) (hhi : bitsOf (s.reg (r + 1)) 63 32 = 0) :
    padOf r s = .ok (s.padPair r) s := by
  unfold padOf
  rw [bind_ok (sc_run s)]
  exact (congrFun (if_neg (not_not.2 hlo)) s).trans (congrFun (if_neg (not_not.2 hhi)) s)

/-- Rows that the strand may read and that stand aligned. -/
def State.RowsPlain (s : State) (rows : List (Nat × Nat)) : Prop := ∀ q ∈ rows, s.padPlain q.1 q.2 ∧ q.1 % q.2 = 0 ∧ 0 < q.2

theorem PadOp.rows_getElem_lt (p : PadOp) {n kk r : Nat} (v : ETy) (h : r < n) :
    (p.rows n kk v)[r]? = some (p.addr r, kk * etyBits v / 8) := by
  unfold PadOp.rows
  rw [List.getElem?_append_left (by simpa using h)]
  simp [h]

theorem PadOp.rows_getElem_scale (p : PadOp) (n kk : Nat) : (p.rows n kk .n4)[n]? = some (p.addr 64, 16) := by
  unfold PadOp.rows
  rw [List.getElem?_append_right (by simp)]
  simp

section
variable {s : State} {rows : List (Nat × Nat)} (h : s.RowsPlain rows)
include h

theorem checkRows_run : checkRows rows s = .ok ⟨⟩ s := by
  have hends : rows.find? (fun r => decide (s.cur.ident.alen < r.1 + r.2)) = none := by
    rw [List.find?_eq_none]
    intro q hq
    obtain ⟨⟨-, hlen, -⟩, -⟩ := h q hq
    simpa using hlen
  have haligned : rows.find? (fun r => r.2 != 0 && r.1 % r.2 != 0) = none := by
    rw [List.find?_eq_none]
    intro q hq
    obtain ⟨-, hal, -⟩ := h q hq
    simp [hal]
  unfold checkRows
  rw [bind_ok (get_run s), hends, haligned]
  rfl

/-- The pieces of a row: one where it is read, and none otherwise. -/
def State.rowPieces (s : State) (kk scale : Nat) (r : (Nat × Nat) × Nat) : List Seg :=
  if s.cur.rowActive kk scale r.2 then [s.padSeg r.1.1 r.1.2] else []

theorem rowSegs_run (kk scale : Nat) : rowSegs s.cur kk scale rows s = .ok (rows.zipIdx.map (s.rowPieces kk scale)) s := by
  refine mapM_run _ fun r hr => ?_
  obtain ⟨hp, -, hpos⟩ := h r.1 (List.fst_mem_of_mem_zipIdx hr)
  unfold State.rowPieces
  by_cases ha : s.cur.rowActive kk scale r.2 = true
  · rw [if_pos ha, if_pos ha]
    exact (hp.fits hpos).segsM (by decide) 0
  · rw [if_neg ha, if_neg ha]
    rfl

/-- No piece of the rows has a faulting mark. -/
theorem rowPieces_segFail (kk scale : Nat) : ∀ g ∈ (rows.zipIdx.map (s.rowPieces kk scale)).flatten, s.segFail g = none := by
  intro g hg
  obtain ⟨gs, hgs, hg⟩ := List.mem_flatten.1 hg
  obtain ⟨r, hr, rfl⟩ := List.mem_map.1 hgs
  obtain ⟨hp, -, -⟩ := h r.1 (List.fst_mem_of_mem_zipIdx hr)
  unfold State.rowPieces at hg
  split at hg
  · rw [List.mem_singleton.1 hg]
    exact hp.segFail
  · exact absurd hg List.not_mem_nil

/-- The bytes of a row that is read. -/
def State.rowBytes (s : State) (kk scale : Nat) (r : (Nat × Nat) × Nat) : List Byte :=
  if s.cur.rowActive kk scale r.2 then memGetN s.mem (scratchKey s.cur.ident.quad (s.cur.ident.abase + r.1.1)) r.1.2 else []

theorem readRows_run (kk scale : Nat) : readRows (rows.zipIdx.map (s.rowPieces kk scale)) s =
    .ok (rows.zipIdx.map (s.rowBytes kk scale)) s := by
  have hclean (bs : List Byte) : (bs.map (fun b => (b, false))).findIdx? (·.2) = none := by
    simp [List.findIdx?_eq_none_iff]
  unfold readRows
  rw [List.mapM_map]
  refine mapM_run _ fun r hr => ?_
  obtain ⟨hp, -, -⟩ := h r.1 (List.fst_mem_of_mem_zipIdx hr)
  unfold State.rowPieces State.rowBytes
  dsimp only [Function.comp_apply]
  by_cases ha : s.cur.rowActive kk scale r.2 = true
  · rw [if_pos ha, if_pos ha]
    have hread : [s.padSeg r.1.1 r.1.2].mapM (readSegB 0) s = .ok [_] s := bind_ok (hp.readSegB 0)
    rw [bind_ok hread]
    simp only [List.flatten_cons, List.flatten_nil, List.append_nil, hclean, List.map_map]
    simp [Function.comp_def]
  · rw [if_neg ha, if_neg ha]
    rfl

end

theorem turnCheck_run {s : State} {gs : List Seg} (h : ∀ g ∈ gs, s.segFail g = none) (rst : Nat) : turnCheck gs rst s = .ok ⟨⟩ s := by
  refine turnCheck_of_none ?_ rst
  have hnone : gs.filterMap s.segFail = [] := List.filterMap_eq_nil_iff.2 h
  rw [State.turnFail, hnone]
  rfl

/-! ### Elements (R162, R202) -/

/-- Element e of an operand: 0 where it is not active, and otherwise of the registers or of the scratchpad. -/
def State.opaVal (s : State) (kk : Nat) (inPad : Bool) (r : Reg) (v : ETy) (e : Nat) : FVal :=
  if !s.cur.active e then .fin false 0 0
  else if inPad then
    valOf v (if v = .n4 then s.padNat ((s.padPair r).addr 64 + e / kk / 4) 1 else 0)
      (bitsAt (s.padNat ((s.padPair r).addr (e / kk)) (kk * etyBits v / 8)) (e % kk * etyBits v) (etyBits v))
  else valOf v (if v = .n4 then s.cur.elt (r.toNat + modeGRP s.cur.sc.md) 8 (e / 32) else 0) (s.cur.elt r.toNat (etyBits v) e)

section
variable {s : State} {e : Nat} (kk : Nat) (r : Reg) (v : ETy)

theorem State.opaVal_idle (h : ¬ s.cur.active e = true) (inPad : Bool) : s.opaVal kk inPad r v e = .fin false 0 0 := by
  simp [State.opaVal, h]

variable (h : s.cur.active e = true)
include h

theorem State.opaVal_regs : s.opaVal kk false r v e =
    valOf v (if v = .n4 then s.cur.elt (r.toNat + modeGRP s.cur.sc.md) 8 (e / 32) else 0) (s.cur.elt r.toNat (etyBits v) e) := by
  simp [State.opaVal, h]

theorem State.opaVal_pad : s.opaVal kk true r v e =
    valOf v (if v = .n4 then s.padNat ((s.padPair r).addr 64 + e / kk / 4) 1 else 0)
      (bitsAt (s.padNat ((s.padPair r).addr (e / kk)) (kk * etyBits v / 8)) (e % kk * etyBits v) (etyBits v)) := by
  simp [State.opaVal, h]

end

/-- Row i of an operand. -/
def State.opaLine (s : State) (kk : Nat) (inPad : Bool) (r : Reg) (v : ETy) (i : Nat) : List FVal :=
  (List.range kk).map (fun k => s.opaVal kk inPad r v (i * kk + k))

theorem valOf_of_ne {v : ETy} (h : v ≠ .n4) (k k' x : Nat) : valOf v k x = valOf v k' x := by
  unfold valOf
  rw [if_neg h, if_neg h]

theorem State.padNat_one (s : State) (off j : Nat) {n : Nat} (h : j < n) : s.padNat (off + j) 1 =
    ((memGetN s.mem (scratchKey s.cur.ident.quad (s.cur.ident.abase + off)) n).getD j 0).toNat := by
  have hkey : scratchKey s.cur.ident.quad (s.cur.ident.abase + (off + j)) =
      scratchKey s.cur.ident.quad (s.cur.ident.abase + off) + j := by
    unfold scratchKey
    omega
  rw [State.padNat, hkey, memGetN_eq_map, memGetN_eq_map, List.getD_eq_getElem _ _ (by simpa using h)]
  simp [leNat]

theorem Strand.rowActive_of_active {x : Strand} {kk n r k : Nat} (hr : r < n) (hk : k < kk) (ha : x.active (r * kk + k) = true) :
    x.rowActive kk n r = true := by
  have hne : r ≠ n := Nat.ne_of_lt hr
  unfold Strand.rowActive
  rw [List.any_eq_true]
  exact ⟨k, by simpa [hne] using hk, by simpa [hne] using ha⟩

theorem Strand.scaleActive_of_active {x : Strand} {kk n r k : Nat} (hr : r < n) (hk : k < kk) (ha : x.active (r * kk + k) = true) :
    x.rowActive kk n n = true := by
  have hlt : r * kk + k < n * kk := calc
    r * kk + k < (r + 1) * kk := by rw [Nat.succ_mul]; omega
    _ ≤ n * kk := Nat.mul_le_mul_right kk hr
  unfold Strand.rowActive
  rw [List.any_eq_true]
  exact ⟨r * kk + k, by simpa using hlt, by simpa using ha⟩

/-- Row i of a group of registers. -/
theorem opaRow_regs {s : State} (h : s.VecReady) (kk : Nat) (r : Reg) (v : ETy) (i : Nat) :
    OpaSrc.row s.cur (modeGRP s.cur.sc.md) kk v (.regs r.toNat) i = .ok (s.opaLine kk false r v i) := by
  refine mapM_except_ok _ fun k _ => ?_
  by_cases ha : s.cur.active (i * kk + k) = true
  · rw [if_pos ha, State.opaVal_regs kk r v ha, OpaSrc.val, h.rdE, h.rdE]
    by_cases hv : v = .n4
    · rw [if_pos hv, if_pos hv]
      rfl
    · rw [if_neg hv, if_neg hv]
      rfl
  · rw [if_neg ha, State.opaVal_idle kk r v ha]

/-- Row i of an operand in the scratchpad. -/
theorem opaRow_pad (s : State) {kk n i : Nat} (r : Reg) (v : ETy) (hi : i < n) (hn : n ≤ 64) :
    OpaSrc.row s.cur (modeGRP s.cur.sc.md) kk v
      (.rows ((((s.padPair r).rows n kk v).zipIdx.map (s.rowBytes kk n)).take n)
        ((((s.padPair r).rows n kk v).zipIdx.map (s.rowBytes kk n)).getD n [])) i = .ok (s.opaLine kk true r v i) := by
  refine mapM_except_ok _ fun k hk => ?_
  have hk := List.mem_range.1 hk
  by_cases ha : s.cur.active (i * kk + k) = true
  · have hdiv : (i * kk + k) / kk = i := by
      rw [Nat.mul_comm, Nat.mul_add_div (by omega), Nat.div_eq_of_lt hk, Nat.add_zero]
    have hdata : ((((s.padPair r).rows n kk v).zipIdx.map (s.rowBytes kk n)).take n).getD i [] =
        memGetN s.mem (scratchKey s.cur.ident.quad (s.cur.ident.abase + (s.padPair r).addr i)) (kk * etyBits v / 8) := by
      rw [List.getD_eq_getElem?_getD, List.getElem?_take_of_lt hi, List.getElem?_map, List.getElem?_zipIdx,
        PadOp.rows_getElem_lt _ v hi]
      simp [State.rowBytes, Strand.rowActive_of_active hi hk ha]
    have hscale : v = .n4 → ((((s.padPair r).rows n kk v).zipIdx.map (s.rowBytes kk n)).getD n []) =
        memGetN s.mem (scratchKey s.cur.ident.quad (s.cur.ident.abase + (s.padPair r).addr 64)) 16 := by
      rintro rfl
      rw [List.getD_eq_getElem?_getD, List.getElem?_map, List.getElem?_zipIdx, PadOp.rows_getElem_scale]
      simp [State.rowBytes, Strand.scaleActive_of_active hi hk ha]
    rw [if_pos ha, State.opaVal_pad kk r v ha, OpaSrc.val, hdiv, hdata]
    refine congrArg Except.ok ?_
    by_cases hv : v = .n4
    · rw [hscale hv, ← State.padNat_one s _ _ (show i / 4 < 16 by omega), if_pos hv]
      rfl
    · exact valOf_of_ne hv _ _ _
  · rw [if_neg ha, State.opaVal_idle kk r v ha]

end Sys2Proof.Machine
end

section
/-! Outer products: their checks, the exact sums over the shape's rectangle, and what they leave (R150, R199 to R206). -/

namespace Sys2Proof.Machine

/-! ### Results over the rectangle (R203) -/

/-- The conditions that the accumulators of a rectangle raise. -/
def rectFlags (m n : Nat) (f : Nat → Nat → Nat × Flags) : Flags :=
  (List.range m).foldl (fun g i => (List.range n).foldl (fun g j => g ||| (f i j).2) g) 0

/-- The results of a rectangle, row by row. -/
def rectRows (m n : Nat) (f : Nat → Nat → Nat × Flags) : List (List (Nat × Flags)) :=
  (List.range m).map (fun i => (List.range n).map (fun j => f i j))

theorem rectRows_flags (m n : Nat) (f : Nat → Nat → Nat × Flags) :
    (rectRows m n f).foldl (fun g r => r.foldl (fun g v => g ||| v.2) g) (0 : Flags) = rectFlags m n f := by
  unfold rectRows rectFlags
  simp only [List.foldl_map]

theorem rectRows_value {m n i j : Nat} (f : Nat → Nat → Nat × Flags) (hi : i < m) (hj : j < n) :
    ((((rectRows m n f).map (fun r => r.map (·.1))).getD i []).getD j 0) = (f i j).1 := by
  simp [rectRows, hi, hj]

theorem writeRect_run {s : State} {d : Reg} {rs : List (List (Nat × Flags))} {fl : Flags}
    (hfl : rs.foldl (fun g r => r.foldl (fun g v => g ||| v.2) g) (0 : Flags) = fl) (h : fl &&& s.cur.sc.fpen.zeroExtend 6 = 0) :
    writeRect d rs s = .ok ⟨⟩ ((s.modSc (fun c => { c with flags := c.flags ||| fl })).modCur (fun x =>
      x.putTile d.toNat s.cur.sc.inShape (fun i j => ((rs.map (fun r => r.map (·.1))).getD i []).getD j 0))) := by
  unfold writeRect
  rw [bind_ok (sc_run s), hfl]
  refine (congrFun (if_neg (not_not.2 h)) s).trans ?_
  rfl

theorem writeRect_trap {s : State} {d : Reg} {rs : List (List (Nat × Flags))} {fl : Flags}
    (hfl : rs.foldl (fun g r => r.foldl (fun g v => g ||| v.2) g) (0 : Flags) = fl) (h : fl &&& s.cur.sc.fpen.zeroExtend 6 ≠ 0) :
    writeRect d rs s = .error (.trap ⟨cFP_TRAP, (fl &&& s.cur.sc.fpen.zeroExtend 6).zeroExtend 64, 0, 0, 15, false⟩) s := by
  unfold writeRect
  rw [bind_ok (sc_run s), hfl]
  exact congrFun (if_pos h) s

/-- Writing a tile changes the tiles and nothing else. -/
theorem Strand.putTile_eq {x : Strand} (h : x.poison = []) (k : Nat) (hit : Nat → Nat → Bool) (f : Nat → Nat → Nat) :
    x.putTile k hit f = { x with tiles := (x.putTile k hit f).tiles } := by
  unfold Strand.putTile
  by_cases hk : k < 8
  · simp only [dif_pos hk, h, List.filter_nil]
  · simp only [dif_neg hk]

theorem Scalar.setBusy_flags_seed (c : Scalar) (k : Nat) (f : Flags) (z : Word) :
    ({ c with flags := f, seed := z } : Scalar).setBusy k = { c.setBusy k with flags := f, seed := z } := by
  unfold Scalar.setBusy
  split
  · rfl
  · split
    · rfl
    · rfl

/-! ### Checks (R192, R194, R199 to R201, R206) -/

theorem needTile_run {s : State} {i : Instr} {k : Reg} (h : k.toNat < s.cur.ntiles) : needTile i k s = .ok ⟨⟩ s := by
  unfold needTile
  rw [bind_ok (get_run s)]
  exact congrFun (if_neg (Nat.not_le.2 h)) s

theorem opaTypes_eq {s : State} {t u : ETy} (ht : etyOfCode (modeETA s.cur.sc.md) = some t) (hu : s.etbIs t u) :
    opaTypes s.cur.sc.md = (t, u) := mixTypes_eq hu ht

/-- N4 goes with N4 alone (R201). -/
theorem opaPair_n4 {t u : ETy} (h : opaPair t u = true) (hu : u = .n4) : t = .n4 := by
  subst hu
  unfold opaPair at h
  split at h
  · exact Bool.noConfusion h
  · exact of_decide_eq_true h

/-- An operand that an outer product admits: plain aligned rows of the scratchpad that a well-formed pair names, or a group of registers. -/
def State.opaGood (s : State) (t : ETy) (inPad : Bool) (r : Reg) (v : ETy) (n kk : Nat) : Prop :=
  if inPad then
    bitsOf (s.reg r) 63 24 = 0 ∧ bitsOf (s.reg (r + 1)) 63 32 = 0 ∧ s.RowsPlain ((s.padPair r).rows n kk v)
  else s.spans r (etyBits v) (etyBits t) ∧ (v = .n4 → r.toNat + max (modeGRP s.cur.sc.md) 1 < 32)

/-- The rows of the scratchpad that an operand names. -/
def State.opaPad (s : State) (inPad : Bool) (r : Reg) (v : ETy) (n kk : Nat) : List (Nat × Nat) :=
  if inPad then (s.padPair r).rows n kk v else []

section
variable {s : State} {t : ETy} {inPad : Bool} {r : Reg} {v : ETy} {n kk : Nat} (h : s.opaGood t inPad r v n kk)
include h

theorem State.opaGood.rowsPlain : s.RowsPlain (s.opaPad inPad r v n kk) := by
  cases inPad with
  | false => exact fun q hq => absurd hq List.not_mem_nil
  | true =>
    obtain ⟨-, -, hrows⟩ := h
    exact hrows

theorem State.opaGood.padOf_run : (if inPad then (do
    let p ← padOf r
    pure (p.rows n kk v)) else pure [] : M (List (Nat × Nat))) s = .ok (s.opaPad inPad r v n kk) s := by
  cases inPad with
  | false => rfl
  | true =>
    obtain ⟨hlo, hhi, -⟩ := h
    exact bind_ok (Machine.padOf_run hlo hhi)

theorem State.opaGood.ops (hn4 : v = .n4 → t = .n4) :
    ∀ o ∈ (if inPad then [] else [⟨r.toNat, etyBits v, false, decide (v = .n4)⟩] : List VOp),
      o.bad (modeGRP s.cur.sc.md) (etyBits t) = false := by
  cases inPad with
  | true => exact fun o ho => absurd ho List.not_mem_nil
  | false =>
    obtain ⟨hspan, hscale⟩ := h
    intro o ho
    rw [List.mem_singleton.1 ho]
    refine VOp.bad_of_spans_beside hspan _ fun hv => ?_
    have hv := of_decide_eq_true hv
    rw [hv, hn4 hv, Nat.mul_div_cancel _ (by decide)]
    exact hscale hv

end

theorem State.VecReady.opaGuard_run {s : State} (h : s.VecReady) (n : Nat) : Machine.opaGuard n s = .ok ⟨⟩ s := by
  have hguard : (List.range (min n s.cur.sc.vlc)).any (fun e => s.cur.guardPoison e) = false := by
    simp [h.guardPoison]
  unfold Machine.opaGuard
  rw [bind_ok (get_run s), hguard, if_neg Bool.false_ne_true]
  exact h.readGuard_run

theorem State.VecReady.tileClean_run {s : State} (h : s.VecReady) (k : Reg) (hit : Nat → Nat → Bool) : Machine.tileClean k hit s = .ok ⟨⟩ s := by
  have hnone : s.cur.tilePoison k.toNat hit = none := by
    rw [Strand.tilePoison, h.clean]
    rfl
  unfold Machine.tileClean
  rw [bind_ok (get_run s), hnone]
  rfl

/-- The pieces of the rows that an operand reads pass the checks of a load (R206, R226). -/
theorem State.VecReady.padChecks_run {s : State} (h : s.VecReady) {gs : List Seg} (hgs : ∀ g ∈ gs, s.segFail g = none) :
    (if gs.isEmpty then pure ()
      else do
        unfenced true false
        behindStores (fun _ => true) gs
        turnCheck gs 0 : M Unit) s = .ok ⟨⟩ s := by
  have hvq : s.cur.vq.any (fun _ => true) = false := by
    obtain ⟨⟨-, hvq, -⟩, -⟩ := h
    rw [hvq]
    rfl
  by_cases he : gs.isEmpty = true
  · rw [if_pos he]
    rfl
  · rw [if_neg he, bind_ok (unfenced_run (h.1.fenced true false false)), bind_ok (behindStores_run hvq h.1.notAhead gs)]
    exact turnCheck_run hgs 0

/-- The rows of an operand once it has been fetched. -/
theorem State.VecReady.opaRows_lines {s : State} (h : s.VecReady) (p : Bool) (r : Reg) (v : ETy) {n : Nat} (kk : Nat) (hn : n ≤ 64) :
    (List.range n).mapM (OpaSrc.row s.cur (modeGRP s.cur.sc.md) kk v
      (if p then .rows (((s.opaPad p r v n kk).zipIdx.map (s.rowBytes kk n)).take n)
        (((s.opaPad p r v n kk).zipIdx.map (s.rowBytes kk n)).getD n []) else .regs r.toNat)) =
      .ok ((List.range n).map (s.opaLine kk p r v)) := by
  refine mapM_except_ok _ fun i hi => ?_
  cases p with
  | false => exact opaRow_regs h kk r v i
  | true => exact opaRow_pad s r v (List.mem_range.1 hi) hn

section
variable {s : State} (h : s.VecReady) {t u : ETy} (ht : etyOfCode (modeETA s.cur.sc.md) = some t) (hu : s.etbIs t u)
  {a b : Reg} {pa pb : Bool} (hga : s.opaGood t pa a t s.cur.sc.shape.1 (32 / etyBits t))
  (hgb : s.opaGood t pb b u s.cur.sc.shape.2.1 (32 / etyBits t))
include ht hu hga hgb

theorem opaRows_run : opaRows a b pa pb s =
    .ok (s.opaPad pa a t s.cur.sc.shape.1 (32 / etyBits t), s.opaPad pb b u s.cur.sc.shape.2.1 (32 / etyBits t)) s := by
  have hrows : s.RowsPlain (s.opaPad pa a t s.cur.sc.shape.1 (32 / etyBits t) ++ s.opaPad pb b u s.cur.sc.shape.2.1 (32 / etyBits t)) := by
    intro q hq
    rcases List.mem_append.1 hq with hq | hq
    · exact hga.rowsPlain q hq
    · exact hgb.rowsPlain q hq
  unfold opaRows
  rw [bind_ok (sc_run s), opaTypes_eq ht hu, bind_ok hga.padOf_run, bind_ok hgb.padOf_run, bind_ok (checkRows_run hrows)]
  rfl

include h

theorem opaCheck_run (i : Instr) {d : Reg} (hok : (opaFp t || opaInt t) = true) (hpair : opaPair t u = true)
    (hacc : s.cur.sc.shape.2.2 = opaInt t) (hrnd : modeRND s.cur.sc.md ≤ 5) (hd : d.toNat < s.cur.ntiles)
    (hvlc : s.holdsVlc (etyBits t)) : opaCheck i d a b pa pb s = .ok ⟨⟩ s := by
  have hn4 : u = .n4 → t = .n4 := opaPair_n4 hpair
  have hops : ∀ o ∈ (if pa then [] else [⟨a.toNat, etyBits t, false, decide (t = .n4)⟩] : List VOp) ++
      (if pb then [] else [⟨b.toNat, etyBits u, false, decide (u = .n4)⟩]), VOp.bad o (modeGRP s.cur.sc.md) (etyBits t) = false := by
    intro o ho
    rcases List.mem_append.1 ho with ho | ho
    · exact hga.ops id o ho
    · exact hgb.ops hn4 o ho
  have hready (p : Bool) (r : Reg) : (if p then (do
      ready r
      ready (r + 1)) else pure () : M Unit) s = .ok ⟨⟩ s := by
    cases p with
    | false => rfl
    | true => exact (bind_ok (ready_of_writable (h.1.writable r))).trans (ready_of_writable (h.1.writable (r + 1)))
  unfold opaCheck
  rw [bind_ok (needTile_run hd), bind_ok (needETA_of_ok ht hok), bind_ok (needETB_run hu hpair), bind_ok (sc_run s),
    if_neg (not_not.2 hacc), bind_ok (needRND_run hrnd)]
  simp only [opaTypes_eq ht hu]
  rw [bind_ok (vGroups_run h.2.2.1 hvlc hops i), bind_ok (hready pa a), bind_ok (hready pb b), bind_ok (opaRows_run ht hu hga hgb)]
  rfl

/-! ### The run (R202, R203) -/

/-- What an outer product leaves in an accumulator, and its conditions. -/
def State.opaResult (s : State) (d a b : Reg) (pa pb : Bool) (t u : ETy) (i j : Nat) : Nat × Flags :=
  opaAt (opaInt t) (s.roundAt (shapeDraws s) (i * s.cur.sc.shape.2.1 + j)) (modeSAT s.cur.sc.md) (s.cur.acc d.toNat i j)
    (s.opaLine (32 / etyBits t) pa a t i) (s.opaLine (32 / etyBits t) pb b u j)

/-- The operands are read, and the results of the rectangle are written. -/
theorem opaRun_eq (d : Reg) (hm : s.cur.sc.shape.1 ≤ 64) (hn : s.cur.sc.shape.2.1 ≤ 64) : opaRun d a b pa pb s =
    writeRect d (rectRows s.cur.sc.shape.1 s.cur.sc.shape.2.1 (s.opaResult d a b pa pb t u)) s := by
  unfold opaRun
  rw [bind_ok (get_run s)]
  simp only [opaTypes_eq ht hu]
  rw [bind_ok (h.waitSources_run _), bind_ok (opaRows_run ht hu hga hgb)]
  rw [bind_ok (rowSegs_run hga.rowsPlain _ _), bind_ok (rowSegs_run hgb.rowsPlain _ _)]
  have hpads : ∀ g ∈ ((s.opaPad pa a t s.cur.sc.shape.1 (32 / etyBits t)).zipIdx.map (s.rowPieces (32 / etyBits t) s.cur.sc.shape.1)).flatten ++
      ((s.opaPad pb b u s.cur.sc.shape.2.1 (32 / etyBits t)).zipIdx.map (s.rowPieces (32 / etyBits t) s.cur.sc.shape.2.1)).flatten,
      s.segFail g = none := by
    intro g hg
    rcases List.mem_append.1 hg with hg | hg
    · exact rowPieces_segFail hga.rowsPlain _ _ g hg
    · exact rowPieces_segFail hgb.rowsPlain _ _ g hg
  rw [bind_ok (h.padChecks_run hpads), bind_ok (h.1.soundAt_run _ _), bind_ok (h.opaGuard_run _),
    bind_ok (readRows_run hga.rowsPlain _ _), bind_ok (readRows_run hgb.rowsPlain _ _)]
  refine (bind_ok (show (do
      let s ← get
      pure s.cur : M Strand) s = .ok s.cur s from rfl)).trans ?_
  rw [h.opaRows_lines pa a t _ hm, h.opaRows_lines pb b u _ hn]
  dsimp only
  rw [bind_ok (h.tileClean_run _ _)]
  refine congrArg (fun rs => writeRect d rs s) ?_
  simp only [zipIdx_map_range, List.map_map]
  rfl

end

end Sys2Proof.Machine
end

section
/-! What an outer product leaves, and the statement about its four forms (R150, R199 to R206). -/

namespace Sys2Proof.Machine

/-- A strand whose FLAGS and tiles alone have changed, once its draws are made and its tile is marked busy. -/
theorem State.modSc_busy_of_tiles {s : State} {y : Strand} {f : Flags}
    (hy : y = { s.cur with sc := { s.cur.sc with flags := f }, tiles := y.tiles }) (n k : Nat) :
    (({ s with cur := y }).modSc (fun c => { c with seed := (draws n c.seed).2 })).modSc (fun c => c.setBusy k) =
      { s with cur := { s.cur with
        tiles := y.tiles
        sc := { (s.cur.sc.setBusy k) with flags := f, seed := (draws n s.cur.sc.seed).2 } } } := by
  generalize y.tiles = T at hy ⊢
  subst hy
  exact congrArg (fun c => ({ s with cur := { s.cur with tiles := T, sc := c } } : State))
    (Scalar.setBusy_flags_seed s.cur.sc k f (draws n s.cur.sc.seed).2)

theorem Strand.acc_congr {x y : Strand} (h : x.tiles = y.tiles) (k i j : Nat) : x.acc k i j = y.acc k i j := by
  simp only [Strand.acc, Strand.tile, h]

/-- The strand once an outer product has raised its conditions and written its tile. -/
def State.opaStrand (s : State) (d a b : Reg) (pa pb : Bool) (t u : ETy) (fl : Flags) : Strand :=
  ({ s.cur with sc := { s.cur.sc with flags := s.cur.sc.flags ||| fl } } : Strand).putTile d.toNat s.cur.sc.inShape (fun i j =>
    (((rectRows s.cur.sc.shape.1 s.cur.sc.shape.2.1 (s.opaResult d a b pa pb t u)).map (fun r => r.map (·.1))).getD i []).getD j 0)

theorem State.opaStrand_eq {s : State} (h : s.cur.poison = []) (d a b : Reg) (pa pb : Bool) (t u : ETy) (fl : Flags) :
    s.opaStrand d a b pa pb t u fl =
      { s.cur with sc := { s.cur.sc with flags := s.cur.sc.flags ||| fl }, tiles := (s.opaStrand d a b pa pb t u fl).tiles } :=
  Strand.putTile_eq (x := { s.cur with sc := { s.cur.sc with flags := s.cur.sc.flags ||| fl } }) h _ _ _

theorem State.opaStrand_acc (s : State) {d : Reg} (hd : d.toNat < 8) (a b : Reg) (pa pb : Bool) (t u : ETy) (fl : Flags) {k i j : Nat}
    (hk : k < 8) (hi : i < 64) (hj : j < 64) : (s.opaStrand d a b pa pb t u fl).acc k i j =
      if k ≠ d.toNat then s.cur.acc k i j
      else if s.cur.sc.rowOf i < s.cur.sc.shape.1 ∧ j < s.cur.sc.shape.2.1 then
        (s.opaResult d a b pa pb t u (s.cur.sc.rowOf i) j).1 % 2 ^ 32
      else s.cur.acc k (s.cur.sc.rowOf i) j := by
  have hrow : ({ s.cur.sc with flags := s.cur.sc.flags ||| fl } : Scalar).rowOf i = s.cur.sc.rowOf i := rfl
  have hsame (k i j : Nat) : ({ s.cur with sc := { s.cur.sc with flags := s.cur.sc.flags ||| fl } } : Strand).acc k i j =
      s.cur.acc k i j := Strand.acc_congr rfl k i j
  unfold State.opaStrand
  rw [Strand.acc_putTile _ _ _ hd hk hi hj]
  simp only [hrow, hsame, Scalar.inShape, Bool.and_eq_true, decide_eq_true_eq]
  by_cases hkd : k ≠ d.toNat
  · rw [if_pos hkd, if_pos hkd]
  · rw [if_neg hkd, if_neg hkd, not_not.1 hkd]
    by_cases hin : s.cur.sc.rowOf i < s.cur.sc.shape.1 ∧ j < s.cur.sc.shape.2.1
    · rw [if_pos hin, if_pos hin, rectRows_value _ hin.1 hin.2]
    · rw [if_neg hin, if_neg hin]

section
variable {s : State} (h : s.VecReady) {t u : ETy} (ht : etyOfCode (modeETA s.cur.sc.md) = some t) (hu : s.etbIs t u)
  (hok : (opaFp t || opaInt t) = true) (hpair : opaPair t u = true) (hacc : s.cur.sc.shape.2.2 = opaInt t)
  (hrnd : modeRND s.cur.sc.md ≤ 5) {d a b : Reg} (hd : d.toNat < s.cur.ntiles) (hvlc : s.holdsVlc (etyBits t)) {pa pb : Bool}
  (hm : s.cur.sc.shape.1 ≤ 64) (hn : s.cur.sc.shape.2.1 ≤ 64)
  (hga : s.opaGood t pa a t s.cur.sc.shape.1 (32 / etyBits t)) (hgb : s.opaGood t pb b u s.cur.sc.shape.2.1 (32 / etyBits t))
  {fl : Flags} (hfl : rectFlags s.cur.sc.shape.1 s.cur.sc.shape.2.1 (s.opaResult d a b pa pb t u) = fl)
include h ht hu hok hpair hacc hrnd hd hvlc hm hn hga hgb hfl

/-- An enabled condition traps, and nothing is written (R203). -/
theorem finish_opaForm_trap (i : Instr) (htrap : fl &&& s.cur.sc.fpen.zeroExtend 6 ≠ 0) :
    finish (opaForm i d a b pa pb) s = s.traps cFP_TRAP ((fl &&& s.cur.sc.fpen.zeroExtend 6).zeroExtend 64) 0 := by
  refine finish_trap (matInstr_error h.1 (opaCheck_run h ht hu hga hgb i hok hpair hacc hrnd hd hvlc) ?_) h.1
  rw [opaRun_eq h ht hu hga hgb d hm hn]
  exact writeRect_trap ((rectRows_flags _ _ _).trans hfl) htrap

/-- Where no condition is enabled, every accumulator of the shape takes its result. -/
theorem finish_opaForm (i : Instr) (hdis : fl &&& s.cur.sc.fpen.zeroExtend 6 = 0) (hd8 : d.toNat < 8) :
    ∃ q, finish (opaForm i d a b pa pb) s = .next q ∧
      q = ({ s with cur := { s.cur with
        tiles := q.cur.tiles
        sc := { (s.cur.sc.setBusy d.toNat) with flags := s.cur.sc.flags ||| fl
                                                seed := (draws (shapeDraws s) s.cur.sc.seed).2 } } }).advance ∧
      ∀ k < 8, ∀ i < 64, ∀ j < 64, q.cur.acc k i j =
        if k ≠ d.toNat then s.cur.acc k i j
        else if s.cur.sc.rowOf i < s.cur.sc.shape.1 ∧ j < s.cur.sc.shape.2.1 then
          (s.opaResult d a b pa pb t u (s.cur.sc.rowOf i) j).1 % 2 ^ 32
        else s.cur.acc k (s.cur.sc.rowOf i) j := by
  have hrun : opaRun d a b pa pb s = .ok ⟨⟩ { s with cur := s.opaStrand d a b pa pb t u fl } :=
    (opaRun_eq h ht hu hga hgb d hm hn).trans (writeRect_run ((rectRows_flags _ _ _).trans hfl) hdis)
  have hframe := State.opaStrand_eq h.clean d a b pa pb t u fl
  have hin : (s.opaStrand d a b pa pb t u fl).inStream = 0 := (congrArg Strand.inStream hframe).trans h.1.1
  exact ⟨_, finish_adv (matInstr_run h.1 (opaCheck_run h ht hu hga hgb i hok hpair hacc hrnd hd hvlc) hrun hin),
    congrArg State.advance (State.modSc_busy_of_tiles hframe (shapeDraws s) d.toNat),
    fun k hk i hi j hj => s.opaStrand_acc hd8 a b pa pb t u fl hk hi hj⟩

end

/-! ### The statement -/

theorem etyBits_ge_of_ne {t : ETy} (h : t ≠ .n4) : 8 ≤ etyBits t := by
  cases t with
  | n4 => exact absurd rfl h
  | _ => decide

theorem etyBits_le_of_opa {t : ETy} (h : (opaFp t || opaInt t) = true) : etyBits t ≤ 32 := by
  revert h
  cases t <;> decide

/-- A row of one product holds at least a byte. -/
theorem rowBytes_pos {t v : ETy} (ht : etyBits t ≤ 32) (hv : v = .n4 → t = .n4) : 0 < 32 / etyBits t * etyBits v / 8 := by
  by_cases hn4 : v = .n4
  · rw [hn4, hv hn4]
    decide
  · have hpos : 0 < etyBits t := by cases t <;> decide
    have hk : 1 ≤ 32 / etyBits t := (Nat.one_le_div_iff hpos).2 ht
    exact Nat.div_pos (Nat.le_trans (etyBits_ge_of_ne hn4) (Nat.le_mul_of_pos_left _ hk)) (by decide)

theorem State.rowsPlain_of {s : State} {p : PadOp} {n kk : Nat} {v : ETy} (hpos : 0 < kk * etyBits v / 8)
    (hrows : ∀ i < n, s.padPlain (p.addr i) (kk * etyBits v / 8) ∧ p.addr i % (kk * etyBits v / 8) = 0)
    (hscale : v = .n4 → s.padPlain (p.addr 64) 16 ∧ p.addr 64 % 16 = 0) : s.RowsPlain (p.rows n kk v) := by
  intro q hq
  rcases List.mem_append.1 hq with hq | hq
  · obtain ⟨i, hi, rfl⟩ := List.mem_map.1 hq
    obtain ⟨hp, hal⟩ := hrows i (List.mem_range.1 hi)
    exact ⟨hp, hal, hpos⟩
  · by_cases hv : v = .n4
    · rw [if_pos hv] at hq
      obtain ⟨hp, hal⟩ := hscale hv
      rw [List.mem_singleton.1 hq]
      exact ⟨hp, hal, Nat.succ_pos 15⟩
    · rw [if_neg hv] at hq
      exact absurd hq List.not_mem_nil

/-- Settles O33: the four forms are one program, which reads the rows and writes the rectangle or traps. -/
theorem outerProducts : Obligations.OuterProducts := by
  unfold Obligations.OuterProducts
  intro d a b pa pb s t u h ht hu hclass hpair hacc hrnd hd hd8 hvlc c g M N kk pad good val line n f fl i hM hN hga hgb
  have hok : (opaFp t || opaInt t) = true := by simpa using hclass
  have hm : M ≤ 64 := by
    split at hM
    · exact Nat.le_trans hM (by decide)
    · exact hM
  have hgood (p : Bool) (r : Reg) (v : ETy) (k : Nat) (hv : v = .n4 → t = .n4) (hg : good p r v k) : s.opaGood t p r v k kk := by
    cases p with
    | false => exact hg
    | true =>
      obtain ⟨hlo, hhi, hrows, hscale⟩ := hg
      exact ⟨hlo, hhi, State.rowsPlain_of (rowBytes_pos (etyBits_le_of_opa hok) hv) hrows hscale⟩
  have hoa := hgood pa a t M id hga
  have hob := hgood pb b u N (opaPair_n4 hpair) hgb
  have hexec : exec i s = finish (opaForm i d a b pa pb) s := by
    cases pa with
    | false => cases pb with
      | false => rfl
      | true => rfl
    | true => cases pb with
      | false => rfl
      | true => rfl
  rw [hexec]
  exact ⟨fun hdis => finish_opaForm h ht hu hok hpair hacc hrnd hd hvlc hm hN hoa hob (fl := fl) rfl i hdis hd8,
    fun htrap => finish_opaForm_trap h ht hu hok hpair hacc hrnd hd hvlc hm hN hoa hob (fl := fl) rfl i htrap⟩

end Sys2Proof.Machine
end

section

/-! ## The values that a type holds (R127, R128, R129, R133, R142)

An integer result: the wrapped one is congruent to its exact value, and the one in range reads back as itself. A floating
value: an encoding is a sign, an exponent field E and a fraction fr; its magnitude m lies below 2^(f+1) and its exponent is
the spacing R133 names, so rounding drops no bit and the encoding of the value is the encoding it came from. -/

namespace Sys2Proof.Machine

/-! ### Integers -/

theorem wrapN_cast (n : Nat) (x : Int) : (wrapN n x : Int) = x % (2 ^ n : Nat) := by
  have hpos : (0 : Int) < (2 ^ n : Nat) := by exact_mod_cast Nat.two_pow_pos n
  exact Int.toNat_of_nonneg (Int.emod_nonneg x (ne_of_gt hpos))

theorem dvd_wrapN_sub (n : Nat) (x : Int) : (2 ^ n : Int) ∣ (wrapN n x : Int) - x := by
  rw [wrapN_cast, ← Int.dvd_neg, Int.neg_sub, Nat.cast_pow]
  exact Int.dvd_self_sub_emod

theorem wrapN_of_nonneg {n : Nat} {x : Int} (h0 : 0 ≤ x) (h1 : x < (2 ^ n : Nat)) : (wrapN n x : Int) = x := by
  rw [wrapN_cast, Int.emod_eq_of_lt h0 h1]

theorem wrapN_of_neg {n : Nat} {x : Int} (h0 : x < 0) (h1 : -(2 ^ n : Nat) ≤ x) : (wrapN n x : Int) = x + (2 ^ n : Nat) := by
  rw [wrapN_cast, ← Int.add_emod_right, Int.emod_eq_of_lt (by omega) (by omega)]

theorem two_mul_two_pow_etyBits_pred {t : ETy} (ht : etyIsInt t = true) : 2 * 2 ^ (etyBits t - 1) = 2 ^ etyBits t := by
  cases t
  case i8 | i16 | i32 | i64 | c8 | c16 | c32 | c64 => decide
  all_goals cases ht

/-- A value of the type's range reads back from its wrapped encoding. -/
theorem intVal_wrapN {t : ETy} (ht : etyIsInt t = true) {x : Int} (hlo : intMin t ≤ x) (hhi : x ≤ intMax t) :
    intVal t (wrapN (etyBits t) x) = x := by
  have hlt := wrapN_lt (etyBits t) x
  have htwo := two_mul_two_pow_etyBits_pred ht
  simp only [intVal, Nat.mod_eq_of_lt hlt]
  simp only [intMin] at hlo
  simp only [intMax] at hhi
  cases hs : etySigned t
  case false =>
    simp only [hs, Bool.false_eq_true, if_false, Bool.false_and] at hlo hhi ⊢
    exact wrapN_of_nonneg hlo (by omega)
  case true =>
    simp only [hs, if_true, Bool.true_and, decide_eq_true_eq] at hlo hhi ⊢
    rcases Int.lt_or_le x 0 with hneg | hnonneg
    · have hw := wrapN_of_neg (n := etyBits t) hneg (by omega)
      rw [if_pos (by omega), hw, Nat.cast_pow]
      exact Int.add_sub_cancel _ _
    · have hw := wrapN_of_nonneg (n := etyBits t) hnonneg (by omega)
      rw [if_neg (by omega), hw]

theorem intMin_le_intMax (t : ETy) : intMin t ≤ intMax t := by
  unfold intMin intMax
  have hp := Nat.two_pow_pos (etyBits t - 1)
  have hq := Nat.two_pow_pos (etyBits t)
  split <;> omega

theorem intResult_false (t : ETy) (x : Int) : intResult t false x = (wrapN (etyBits t) x, 0) := by
  simp only [intResult, Bool.false_eq_true, if_false]
  split <;> rfl

theorem intResult_of_in_range {t : ETy} {x : Int} (hlo : intMin t ≤ x) (hhi : x ≤ intMax t) (sat : Bool) :
    intResult t sat x = (wrapN (etyBits t) x, 0) := if_pos ⟨hlo, hhi⟩

theorem intResult_true_of_lt {t : ETy} {x : Int} (h : x < intMin t) :
    intResult t true x = (wrapN (etyBits t) (intMin t), fSAT) := by
  rw [intResult, if_neg (by omega), if_pos rfl, if_pos h]

theorem intResult_true_of_gt {t : ETy} {x : Int} (h : intMax t < x) :
    intResult t true x = (wrapN (etyBits t) (intMax t), fSAT) := by
  have hle := intMin_le_intMax t
  rw [intResult, if_neg (by omega), if_pos rfl, if_neg (by omega)]

/-! ### Floating formats -/

/-- The layouts of R129: as wide as the type, with room for a sign and an exponent field above the fraction. -/
theorem fmtOf_layout {t : ETy} (ht : etyIsFp t = true) : (fmtOf t).bits = etyBits t ∧ (fmtOf t).f + 1 < (fmtOf t).bits := by
  cases t
  case e4m3 | e5m2 | f16 | bf16 | f32 | f64 => decide
  all_goals cases ht

/-- ±m·2^e is a value of the type whose spacing there is 2^e: m is a normal significand, or e is the least exponent. -/
def OnGrid (t : ETy) (m : Nat) (e : Int) : Prop :=
  let q := fmtOf t
  m < 2 ^ (q.f + 1) ∧ (2 ^ q.f ≤ m ∧ 1 - (q.bias : Int) - q.f ≤ e ∨ m < 2 ^ q.f ∧ e = 1 - (q.bias : Int) - q.f) ∧
    ¬ ((maxMag t).2 < e ∨ (e = (maxMag t).2 ∧ (maxMag t).1 < m))

/-! ### Rounding a value of the grid -/

/-- A magnitude already at the spacing asked for stays in every mode. -/
theorem roundMag_same (md : RMode) (neg : Bool) (m : Nat) (e : Int) : roundMag md neg ⟨m, e, false⟩ e = (m, false) := by
  cases md <;> simp [roundMag, Nat.mod_one]

theorem bitLen_of_normal {f m : Nat} (h0 : 2 ^ f ≤ m) (h1 : m < 2 ^ (f + 1)) : bitLen m = f + 1 := by
  have hm : m ≠ 0 := by have := Nat.two_pow_pos f; omega
  rw [bitLen, if_neg hm, (Nat.log2_eq_iff hm).2 ⟨h0, h1⟩]

theorem bitLen_le_of_lt {f m : Nat} (h : m < 2 ^ f) : bitLen m ≤ f := by
  unfold bitLen
  split
  · exact Nat.zero_le f
  · next hm => exact (Nat.log2_lt hm).2 h

/-- The spacing that R133 names for a value of the grid is its own. -/
theorem OnGrid.spacing {t : ETy} {m : Nat} {e : Int} (h : OnGrid t m e) :
    (if (bitLen m : Int) - 1 + e < 1 - ((fmtOf t).bias : Int) then 1 - ((fmtOf t).bias : Int) else (bitLen m : Int) - 1 + e)
      - (fmtOf t).f = e := by
  obtain ⟨hlt, ⟨hnorm, he⟩ | ⟨hsub, he⟩, -⟩ := h
  · have hb := bitLen_of_normal hnorm hlt
    rw [if_neg (by omega), hb]
    omega
  · have hb := bitLen_le_of_lt hsub
    rw [if_pos (by omega), he]

theorem OnGrid.roundFp_eq {t : ETy} {m : Nat} {e : Int} (h : OnGrid t m e) (hm : m ≠ 0) (md : RMode) (sat neg : Bool) :
    roundFp t md sat neg ⟨m, e, false⟩ = ⟨encodeFin (fmtOf t) neg m e, 0⟩ := by
  have hsp := h.spacing
  obtain ⟨hlt, -, htop⟩ := h
  have hne : ¬ m = 2 ^ ((fmtOf t).f + 1) := Nat.ne_of_lt hlt
  have hz : ¬ (m = 0 ∧ false = false) := fun hc => hm hc.1
  rw [roundFp, if_neg hz]
  simp only [hsp, roundMag_same, decide_eq_false hne, Bool.false_eq_true, if_false, true_and, if_neg htop, Bool.and_false]
  rfl

theorem roundFp_zero (t : ETy) (md : RMode) (sat neg : Bool) (e : Int) :
    roundFp t md sat neg ⟨0, e, false⟩ = ⟨zeroOf t neg, 0⟩ := by
  rw [roundFp, if_pos ⟨rfl, rfl⟩]
  rfl

/-! ### Encodings -/

/-- The encoding that has a sign, an exponent field and a fraction (R129). -/
def encodingOf (q : Fmt) (neg : Bool) (E fr : Nat) : Nat := (if neg then 2 ^ (q.bits - 1) else 0) + E * 2 ^ q.f + fr

theorem encodeFin_subnormal {q : Fmt} {fr : Nat} (h : fr < 2 ^ q.f) (neg : Bool) (e : Int) :
    encodeFin q neg fr e = encodingOf q neg 0 fr := by
  have hne : ¬ fr = 2 ^ (q.f + 1) := by rw [Nat.pow_succ]; omega
  simp only [encodeFin, encodingOf, if_neg hne, if_pos h, Nat.zero_mul, Nat.add_zero]

theorem encodeFin_normal {q : Fmt} {fr : Nat} (h : fr < 2 ^ q.f) (neg : Bool) (E : Nat) :
    encodeFin q neg (2 ^ q.f + fr) ((E : Int) - q.bias - q.f) = encodingOf q neg E fr := by
  have hne : ¬ 2 ^ q.f + fr = 2 ^ (q.f + 1) := by rw [Nat.pow_succ]; omega
  have hE : ((E : Int) - q.bias - q.f + q.f + q.bias).toNat = E := by omega
  have hge : ¬ 2 ^ q.f + fr < 2 ^ q.f := by omega
  simp only [encodeFin, encodingOf, if_neg hne, if_neg hge, hE, Nat.add_sub_cancel_left]

/-- An encoding is the one of its three fields. -/
theorem encodingOf_fields {q : Fmt} (hq : q.f < q.bits) {x : Nat} (hx : x < 2 ^ q.bits) :
    encodingOf q (decide ((x / 2 ^ (q.bits - 1)) % 2 = 1)) ((x / 2 ^ q.f) % 2 ^ (q.bits - 1 - q.f)) (x % 2 ^ q.f) = x := by
  have htop : 2 ^ q.bits = 2 ^ (q.bits - 1) * 2 := by rw [← Nat.pow_succ, Nat.succ_eq_add_one, Nat.sub_add_cancel (by omega)]
  have hcut : 2 ^ (q.bits - 1) = 2 ^ q.f * 2 ^ (q.bits - 1 - q.f) := by rw [← Nat.pow_add, Nat.add_sub_cancel' (by omega)]
  have hs : x / 2 ^ (q.bits - 1) < 2 := Nat.div_lt_of_lt_mul (htop ▸ hx)
  have hlow : (x / 2 ^ q.f) % 2 ^ (q.bits - 1 - q.f) * 2 ^ q.f + x % 2 ^ q.f = x % 2 ^ (q.bits - 1) := by
    rw [hcut, Nat.mod_mul, Nat.mul_comm, Nat.add_comm]
  have hall := Nat.div_add_mod x (2 ^ (q.bits - 1))
  rw [encodingOf, Nat.add_assoc, hlow]
  rcases Nat.lt_or_ge (x / 2 ^ (q.bits - 1)) 1 with h0 | h1
  · rw [Nat.lt_one_iff] at h0
    rw [h0, Nat.mul_zero] at hall
    rw [h0]
    exact hall
  · have hone : x / 2 ^ (q.bits - 1) = 1 := by omega
    rw [hone, Nat.mul_one] at hall
    rw [hone]
    exact hall

/-! ### The finite values of a type -/

/-- A finite value that a type holds, by the fields of its encoding. -/
def Held (t : ETy) (x : Nat) (neg : Bool) (m : Nat) (e : Int) : Prop :=
  let q := fmtOf t
  ∃ E fr, fr < 2 ^ q.f ∧ x = encodingOf q neg E fr ∧ OnGrid t m e ∧
    (E = 0 ∧ m = fr ∨ m = 2 ^ q.f + fr ∧ e = (E : Int) - q.bias - q.f)

/-- A normal value lies on the grid: its exponent field is at most the largest that a number has (R129). -/
theorem onGrid_normal {t : ETy} (ht : etyIsFp t = true) {E fr : Nat} (hE : E ≠ 0) (hfr : fr < 2 ^ (fmtOf t).f)
    (hmax : if (fmtOf t).noInf = true then E < 2 ^ ((fmtOf t).bits - 1 - (fmtOf t).f) ∧
        (E = 2 ^ ((fmtOf t).bits - 1 - (fmtOf t).f) - 1 → fr ≠ 2 ^ (fmtOf t).f - 1)
      else E + 1 < 2 ^ ((fmtOf t).bits - 1 - (fmtOf t).f)) :
    OnGrid t (2 ^ (fmtOf t).f + fr) ((E : Int) - (fmtOf t).bias - (fmtOf t).f) := by
  refine ⟨by rw [Nat.pow_succ]; omega, .inl ⟨by omega, by omega⟩, ?_⟩
  cases t
  case e4m3 | e5m2 | f16 | bf16 | f32 | f64 =>
    simp only [fmtOf, maxMag, Bool.false_eq_true, if_false, if_true] at hmax hfr ⊢
    omega
  all_goals cases ht

theorem onGrid_subnormal {t : ETy} (ht : etyIsFp t = true) {fr : Nat} (hfr : fr < 2 ^ (fmtOf t).f) :
    OnGrid t fr (1 - ((fmtOf t).bias : Int) - (fmtOf t).f) := by
  refine ⟨by rw [Nat.pow_succ]; omega, .inr ⟨hfr, rfl⟩, ?_⟩
  cases t
  case e4m3 | e5m2 | f16 | bf16 | f32 | f64 =>
    simp only [fmtOf, maxMag]
    omega
  all_goals cases ht

theorem held_of_unpack {t : ETy} (ht : etyIsFp t = true) {x : Nat} (hx : x < 2 ^ etyBits t) {neg : Bool} {m : Nat} {e : Int}
    (h : unpack t x = .fin neg m e) : Held t x neg m e := by
  have hfr : x % 2 ^ (fmtOf t).f < 2 ^ (fmtOf t).f := Nat.mod_lt _ (Nat.two_pow_pos _)
  have hE : (x / 2 ^ (fmtOf t).f) % 2 ^ ((fmtOf t).bits - 1 - (fmtOf t).f) < 2 ^ ((fmtOf t).bits - 1 - (fmtOf t).f) :=
    Nat.mod_lt _ (Nat.two_pow_pos _)
  obtain ⟨hbits, hf⟩ := fmtOf_layout ht
  have hfields := (encodingOf_fields (Nat.lt_of_succ_lt hf) (hbits ▸ hx)).symm
  have hew : 1 < 2 ^ ((fmtOf t).bits - 1 - (fmtOf t).f) := Nat.one_lt_two_pow (by omega)
  unfold unpack at h
  dsimp only at h hfields
  split at h
  case isTrue htop =>
    split at h
    case isTrue hno =>
      split at h
      · cases h
      · next hnan =>
        cases h
        refine ⟨_, _, hfr, hfields, onGrid_normal ht (by omega) hfr ?_, .inr ⟨rfl, rfl⟩⟩
        rw [if_pos hno]
        exact ⟨hE, fun _ => hnan⟩
    case isFalse => split at h <;> cases h
  case isFalse htop =>
    split at h
    case isTrue hzero =>
      cases h
      exact ⟨_, _, hfr, hfields, onGrid_subnormal ht hfr, .inl ⟨hzero, rfl⟩⟩
    case isFalse hpos =>
      cases h
      refine ⟨_, _, hfr, hfields, onGrid_normal ht hpos hfr ?_, .inr ⟨rfl, rfl⟩⟩
      split
      · exact ⟨hE, fun hc => absurd hc htop⟩
      · omega

theorem Held.roundFp_eq {t : ETy} {x : Nat} {neg : Bool} {m : Nat} {e : Int} (h : Held t x neg m e) (md : RMode) (sat : Bool) :
    roundFp t md sat neg ⟨m, e, false⟩ = ⟨x, 0⟩ := by
  obtain ⟨E, fr, hfr, rfl, hgrid, ⟨rfl, rfl⟩ | ⟨rfl, rfl⟩⟩ := h
  · rcases Nat.eq_zero_or_pos m with rfl | hpos
    · rw [roundFp_zero, zeroOf, encodingOf, Nat.zero_mul, Nat.add_zero]
    · rw [hgrid.roundFp_eq (by omega), encodeFin_subnormal hfr]
  · have hpos := Nat.two_pow_pos (fmtOf t).f
    rw [hgrid.roundFp_eq (by omega), encodeFin_normal hfr]

/-- Rounding a finite value to the type that holds it gives its own encoding, in every mode, and raises nothing. -/
theorem cvtFpFp_unpack {t : ETy} (ht : etyIsFp t = true) (md : RMode) (sat : Bool) {x : Nat} (hx : x < 2 ^ etyBits t)
    (hnan : ∀ n, unpack t x ≠ .nan n) (hinf : ∀ n, unpack t x ≠ .inf n) : cvtFpFp t md sat (unpack t x) = ⟨x, 0⟩ := by
  cases hv : unpack t x with
  | nan n => exact absurd hv (hnan n)
  | inf n => exact absurd hv (hinf n)
  | fin neg m e => exact (held_of_unpack ht hx hv).roundFp_eq md sat

/-- Settles O16: a finite value lies on its type's grid, so no mode of rounding moves it; an integer result is the wrapped
one, and a clamped one reads back as the end of the range that it passed. -/
theorem exactValues : Obligations.ExactValues := by
  unfold Obligations.ExactValues
  refine ⟨fun t md sat x ht _ hx hnan hinf => cvtFpFp_unpack ht md sat hx hnan hinf, fun t x ht => ?_⟩
  have hle := intMin_le_intMax t
  dsimp only
  rw [intResult_false]
  refine ⟨wrapN_lt _ _, rfl, dvd_wrapN_sub _ _, fun hlo hhi => ?_, fun hlo => ?_, fun hhi => ?_⟩
  · rw [intResult_of_in_range hlo hhi]
    exact ⟨rfl, intVal_wrapN ht hlo hhi⟩
  · rw [intResult_true_of_lt hlo]
    exact ⟨rfl, intVal_wrapN ht (Int.le_refl _) hle⟩
  · rw [intResult_true_of_gt hhi]
    exact ⟨rfl, intVal_wrapN ht hle (Int.le_refl _)⟩

end Sys2Proof.Machine

end

section

/-! ## Packing with a full platform (R217, R218, R413)

The blocks of a packing form are read and packed, and then the instruction waits while its quad's platform has no room for
what it hands over. The conditions under which `Obligations.TensorPacking` lets `tn.pack` complete say nothing of the
platform. -/

namespace Sys2Proof.Machine

/-! ### The descriptors and the pieces -/

theorem State.Quiet.tnReady_run {s : State} (h : s.Quiet) : tnReady s = .ok ⟨⟩ s := by
  have hengine : unfencedEngine s = .ok ⟨⟩ s := by
    unfold unfencedEngine
    rw [bind_ok (get_run s), h.fenced]
    rfl
  unfold tnReady
  rw [bind_ok h.drained_run, bind_ok hengine, bind_ok (get_run s), h.loadWaits]
  rfl

theorem packPair_run {s : State} (hq : s.Quiet) {a b : Reg} {ta tb : Nat × List Byte} {okX okY : ETy → Bool}
    (ha : s.cur.tids.find? (fun t => t.1 == (s.reg a).toNat % 256) = some ta)
    (hb : s.cur.tids.find? (fun t => t.1 == (s.reg b).toNat % 256) = some tb)
    (hok : packOk (descOf ta.2) (descOf tb.2) okX okY = true) :
    packPair a b okX okY s = .ok (descOf ta.2, descOf tb.2) s := by
  unfold packPair
  rw [bind_ok hq.tnReady_run, bind_ok (tensorId_of_readable (hq.readable a)), bind_ok (tensorId_of_readable (hq.readable b)),
    bind_ok (tensor_of_held ha), bind_ok (tensor_of_held hb), if_pos hok]
  rfl

theorem State.padFits.piecesOf_cons {s : State} {off n : Nat} (h : s.padFits off n) (ps : List (Word × Nat)) :
    piecesOf ((w64 (scratchBase + off), n) :: ps) = (w64 (scratchBase + off), n) :: piecesOf ps := by
  rw [piecesOf, List.flatMap_cons, h.cuts, piecesOf]
  rfl

/-- The pieces of one block in the strand's scratchpad pass the checks; the piece that is read is kept. -/
theorem checkPieces_run {s : State} {part n code scale : Nat} (hp : s.padFits part n) (hc : s.padFits code 16)
    (hs : s.padFits scale 1) :
    checkPieces [(w64 (scratchBase + part), n)] [(w64 (scratchBase + code), 16), (w64 (scratchBase + scale), 1)] s =
      .ok [s.padSeg part n] s := by
  have hmixed : State.segsMixed [((w64 (scratchBase + part), n), accTnRd), ((w64 (scratchBase + code), 16), accTnWr),
      ((w64 (scratchBase + scale), 1), accTnWr)] s none [] = (.ok [s.padSeg part n], s) := by
    simp only [State.segsMixed, hp.segOf (a := accTnRd) (by decide), hc.segOf (a := accTnWr) (by decide),
      hs.segOf (a := accTnWr) (by decide)]
    rfl
  unfold checkPieces
  rw [bind_ok (get_run s), hp.piecesOf_cons, hc.piecesOf_cons, hs.piecesOf_cons]
  simp only [piecesOf, List.flatMap_nil, List.map_cons, List.map_nil, List.cons_append, List.nil_append, hmixed]
  rfl

theorem packChecks_run {s : State} (hq : s.Quiet) {part n code scale : Nat} (hp : s.padPlain part n) (hn : 0 < n)
    (hc : s.padFits code 16) (hs : s.padFits scale 1) (a b : Reg) :
    packChecks a b [(w64 (scratchBase + part), n)] [(w64 (scratchBase + code), 16), (w64 (scratchBase + scale), 1)] s =
      .ok ⟨⟩ s := by
  unfold packChecks
  rw [bind_ok (checkPieces_run (hp.fits hn) hc hs), bind_ok (hp.turnCheck 0), hq.sound]

/-! ### The block -/

/-- A plain piece of the scratchpad is read whole. -/
theorem State.padPlain.readWhole_run {s : State} {off n : Nat} (h : s.padPlain off n) (hn : 0 < n) (t : Desc) :
    readWhole t (w64 (scratchBase + off)) n s =
      .ok (.ok (memGetN s.mem (scratchKey s.cur.ident.quad (s.cur.ident.abase + off)) n)) s := by
  have hbytes : [s.padSeg off n].mapM (Machine.readSegB t.pol) s =
      .ok [(memGetN s.mem (scratchKey s.cur.ident.quad (s.cur.ident.abase + off)) n).map (fun b => (b, false))] s := by
    simp only [List.mapM_cons, List.mapM_nil]
    rw [bind_ok (h.readSegB t.pol)]
    rfl
  have hgrain : s.fillGrain [s.padSeg off n] (grainCode t.grain) t.pol = s := rfl
  have hread : readTensor t (w64 (scratchBase + off)) n s =
      .ok ((memGetN s.mem (scratchKey s.cur.ident.quad (s.cur.ident.abase + off)) n).map (fun b => (b, false))) s := by
    unfold readTensor
    rw [bind_ok ((h.fits hn).segsM (by decide) 0), bind_ok (modify_run _ s), hgrain, bind_ok hbytes]
    simp
  have hclean : ∀ bs : List Byte, (bs.map (fun b => (b, false))).zipIdx.find? (fun b => b.1.2) = none := by
    intro bs
    rw [List.find?_eq_none]
    rintro ⟨⟨b, p⟩, i⟩ hmem
    obtain ⟨c, -, hc⟩ := List.mem_map.1 (List.fst_mem_of_mem_zipIdx hmem)
    cases hc
    exact Bool.false_ne_true
  unfold readWhole
  rw [bind_ok hread, hclean]
  simp [Function.comp_def]

/-- What `tn.pack` writes for a block whose elements are the bytes bs: its codes, its scale, and its flags (R218). -/
def packOut (x y : Desc) (k : Blk) (bs : List Byte) : BlkOut :=
  let p := packBlock y.stype ((List.range 32).map (fun i => unpack x.ty (leNat ((bs.drop (i * x.size)).take x.size))))
  ([(wordZ k.code, codeBytes p.2.1), (y.scaleAddr k, [BitVec.ofNat 8 p.1])], p.2.2)

theorem runBlocks_one {f : Blk → M (Except Word BlkOut)} {k : Blk} {o : BlkOut} {s : State} (h : f k s = .ok (.ok o) s) :
    runBlocks f [k] [] s = .ok ([o], none) s := by
  rw [runBlocks, bind_ok h]
  rfl

theorem finishBlocks_of_no_room {s : State} (hh : s.cur.handed = none) (hheld : s.held = true)
    (hroom : ∀ n, s.platRoom n = false) (t : Desc) (r : List BlkOut × Option Word) : finishBlocks t r s = .error .wait s := by
  unfold finishBlocks
  rw [bind_error (platform_of_no_room hh hheld (hroom _))]

/-- `tn.pack` of tensors of one block in the scratchpad waits while the platform has no room. -/
theorem exec_tnPack_of_no_room {s : State} (hq : s.Quiet) (hh : s.cur.handed = none) (hnote : s.cur.note = none)
    (hheld : s.held = true) (hroom : ∀ n, s.platRoom n = false) {a b : Reg} {ta tb : Nat × List Byte} {part code scale : Nat}
    {k : Blk} (ha : s.cur.tids.find? (fun t => t.1 == (s.reg a).toNat % 256) = some ta)
    (hb : s.cur.tids.find? (fun t => t.1 == (s.reg b).toNat % 256) = some tb)
    (hok : packOk (descOf ta.2) (descOf tb.2) etyIsArith etyN4 = true)
    (hsize : 0 < 32 * (descOf ta.2).size) (hblocks : (descOf tb.2).blocks = [k])
    (hx : (descOf ta.2).pieces = [(w64 (scratchBase + part), 32 * (descOf ta.2).size)])
    (hy : (descOf tb.2).pieces = [(w64 (scratchBase + code), 16), (w64 (scratchBase + scale), 1)])
    (hpart : (descOf ta.2).partAddr k = w64 (scratchBase + part)) (hp : s.padPlain part (32 * (descOf ta.2).size))
    (hc : s.padFits code 16) (hs : s.padFits scale 1) : exec (.tnPack a b) s = .next s.setWaiting := by
  refine (finishK_error (e := .wait) (u := s) ?_ (fun _ h => Stop.noConfusion h) : execTnPack a b s = _)
  unfold tnStore
  rw [bind_ok (get_run s), hnote]
  refine (bind_ok (packPair_run hq ha hb hok)).trans ?_
  dsimp only
  rw [hx, hy, hblocks, bind_ok (packChecks_run hq hp hsize hc hs a b)]
  refine (bind_ok (runBlocks_one (o := packOut (descOf ta.2) (descOf tb.2) k
    (memGetN s.mem (scratchKey s.cur.ident.quad (s.cur.ident.abase + part)) (32 * (descOf ta.2).size))) ?_)).trans
    (finishBlocks_of_no_room hh hheld hroom _ _)
  rw [hpart, bind_ok (hp.readWhole_run hsize _)]
  rfl

/-! ### The counterexample -/

/-- 32 elements of F32 from the scratchpad's first byte on. -/
def elementsDesc : List Byte :=
  [12, 1, 0, 0, 0, 0, 0, 0] ++ leBytes 8 scratchBase ++ List.replicate 16 0 ++ leBytes 4 32 ++ List.replicate 20 0 ++
  leBytes 8 4 ++ List.replicate 64 0

/-- A block of N4 with its codes at offset 256 of the scratchpad and its scale at offset 512, of uniform type 0. -/
def blockDesc : List Byte :=
  [14, 1, 5, 0, 0, 0, 0, 0] ++ leBytes 8 (scratchBase + 256) ++ leBytes 8 (scratchBase + 512) ++ List.replicate 8 0 ++
  leBytes 4 32 ++ List.replicate 92 0

/-- The strand of `platformOverfull` with the two tensors under the identifiers 3 and 4, which s3 and s4 hold; the effect that
fills the platform is another strand's. -/
def packOverfull : State :=
  { platformOverfull with
    quad := { Quad.empty 0 with plat := [{ largeEff with uid := 2 }] }
    cur := { platformOverfull.cur with
      tids := [(3, elementsDesc), (4, blockDesc)]
      sc := { Scalar.blank with regs := (Scalar.blank.regs.set 3 (w64 3)).set 4 (w64 4) } } }

/-- The block of the N4 tensor. -/
def theBlock : Blk := ⟨[0, 0, 0, 0], 0, (scratchBase + 256 : Nat)⟩

theorem packOverfull_settled : packOverfull.Settled := by
  dsimp only [State.Settled, State.Quiet]
  and_intros <;> decide

theorem packOverfull_quiet : packOverfull.Quiet := by
  obtain ⟨hq, -⟩ := packOverfull_settled
  exact hq

theorem packOverfull_elements : packOverfull.cur.tids.find? (fun t => t.1 == (packOverfull.reg 3).toNat % 256) =
    some (3, elementsDesc) := by decide

theorem packOverfull_block : packOverfull.cur.tids.find? (fun t => t.1 == (packOverfull.reg 4).toNat % 256) =
    some (4, blockDesc) := by decide

theorem packOverfull_packOk : packOk (descOf elementsDesc) (descOf blockDesc) etyIsArith etyN4 = true := by decide

theorem blockDesc_blocks : (descOf blockDesc).blocks = [theBlock] := by decide

theorem blockDesc_pieces : (descOf blockDesc).pieces = [(w64 (scratchBase + 256), 16), (w64 (scratchBase + 512), 1)] := by
  decide

theorem elementsDesc_pieces : (descOf elementsDesc).pieces = [(w64 (scratchBase + 0), 128)] := by decide

theorem packOverfull_padPlain : packOverfull.padPlain 0 128 := by
  dsimp only [State.padPlain]
  and_intros
  · decide
  · decide
  · decide
  · exact fun j _ => ⟨rfl, rfl, rfl⟩

theorem packOverfull_codeFits : packOverfull.padFits 256 16 := by
  dsimp only [State.padFits]
  and_intros <;> decide

theorem packOverfull_scaleFits : packOverfull.padFits 512 1 := by
  dsimp only [State.padFits]
  and_intros <;> decide

theorem packOverfull_no_room (n : Nat) : packOverfull.platRoom n = false := by
  have hsum : (packOverfull.quad.plat.map (fun e => e.kind.size)).sum = 64 + 2 ^ 18 := by
    rw [← largeEff_size]
    exact List.sum_singleton
  have hfull : ¬ 64 + 2 ^ 18 + n ≤ 2 ^ 18 := by omega
  rw [State.platRoom, hsum, decide_eq_false hfull]
  rfl

theorem exec_tnPack_packOverfull : exec (.tnPack 3 4) packOverfull = .next packOverfull.setWaiting :=
  exec_tnPack_of_no_room packOverfull_quiet rfl rfl rfl packOverfull_no_room packOverfull_elements packOverfull_block
    packOverfull_packOk (by decide) blockDesc_blocks elementsDesc_pieces blockDesc_pieces (by decide) packOverfull_padPlain
    packOverfull_codeFits packOverfull_scaleFits

/-- Refutes O40: another strand's effect fills the platform, which the conditions allow, and `tn.pack` of a block in the
scratchpad waits for room and completes nothing. -/
theorem not_tensorPacking : ¬ Obligations.TensorPacking := by
  unfold Obligations.TensorPacking
  intro h
  obtain ⟨-, -, hpack, -⟩ := h 3 4 packOverfull _ _ 0 256 512 theBlock (by decide) packOverfull_settled rfl
    packOverfull_elements packOverfull_block
  obtain ⟨-, hcode, hlen, halen⟩ := packOverfull_codeFits
  obtain ⟨u, hnext, hsc, -⟩ := hpack packOverfull_packOk
    ⟨blockDesc_blocks, by decide, elementsDesc_pieces, by decide, by decide, by decide⟩ packOverfull_padPlain
    ⟨hcode, hlen, halen⟩ ⟨by decide, by decide, by decide⟩ (by decide)
  rw [exec_tnPack_packOverfull] at hnext
  cases hnext
  rw [packOverfull_quiet.setWaiting_sc rfl] at hsc
  exact absurd (congrArg Scalar.icount hsc) (by decide)

end Sys2Proof.Machine

end

section
/-! Bits of a register, and the elements of a register group: where an element stands, what a write of it leaves, and what reads back
(R158, R397). -/

namespace Sys2Proof.Machine

/-! ### Bits -/

theorem testBit_bitsAt (x off w i : Nat) : (bitsAt x off w).testBit i = (decide (i < w) && x.testBit (off + i)) := by
  rw [bitsAt, Nat.testBit_mod_two_pow, Nat.testBit_div_two_pow, Nat.add_comm]

/-- What each bit of a register is after some of its bits have been replaced. -/
theorem getLsbD_putBits {n : Nat} (r : BitVec n) (off w v i : Nat) : (putBits r off w v).getLsbD i =
    if off ≤ i ∧ i < off + w then decide (i < n) && v.testBit (i - off) else r.getLsbD i := by
  have hlt : r.getLsbD i = true → i < n := BitVec.lt_of_getLsbD
  unfold putBits
  simp only [BitVec.getLsbD_or, BitVec.getLsbD_and, BitVec.getLsbD_not, BitVec.getLsbD_ofNat, Nat.testBit_mul_two_pow,
    Nat.testBit_two_pow_sub_one, Nat.testBit_mod_two_pow]
  by_cases hn : i < n
  · by_cases hlo : off ≤ i
    · by_cases hhi : i < off + w
      · have hw : i - off < w := by omega
        simp [hn, hlo, hhi, hw]
      · have hw : ¬ i - off < w := by omega
        simp [hn, hhi, hw]
    · simp [hn, hlo]
  · have hr : r.getLsbD i = false := by simpa [hn] using hlt
    simp [hn, hr]

/-- The bits that were replaced read as what replaced them. -/
theorem bitsAt_putBits_same {n off w : Nat} (h : off + w ≤ n) (r : BitVec n) (v : Nat) :
    bitsAt (putBits r off w v).toNat off w = v % 2 ^ w := by
  refine Nat.eq_of_testBit_eq fun i => ?_
  rw [testBit_bitsAt, BitVec.testBit_toNat, getLsbD_putBits, Nat.testBit_mod_two_pow]
  by_cases hi : i < w
  · rw [if_pos (by omega), decide_eq_true (show off + i < n by omega), Nat.add_sub_cancel_left, Bool.true_and]
  · rw [decide_eq_false hi, Bool.false_and, Bool.false_and]

/-- The others read as before. -/
theorem bitsAt_putBits_apart {n off w off' w' : Nat} (h : off' + w' ≤ off ∨ off + w ≤ off') (r : BitVec n) (v : Nat) :
    bitsAt (putBits r off w v).toNat off' w' = bitsAt r.toNat off' w' := by
  refine Nat.eq_of_testBit_eq fun i => ?_
  rw [testBit_bitsAt, testBit_bitsAt, BitVec.testBit_toNat, BitVec.testBit_toNat, getLsbD_putBits]
  by_cases hi : i < w'
  · rw [if_neg (by omega)]
  · rw [decide_eq_false hi, Bool.false_and, Bool.false_and]

/-! ### Places of elements (R158) -/

/-- In registers that hold m elements each, element e is number e % m of register e / m of the group. -/
theorem placeIn_mul {w m : Nat} (hw : 0 < w) (hm : 0 < m) (n e : Nat) : placeIn (w * m) n w e = (n + e / m, w * (e % m)) := by
  have hne : w * m ≠ 0 := (Nat.mul_pos hw hm).ne'
  rw [placeIn, if_neg hne, Nat.mul_comm e w, Nat.mul_div_mul_left _ _ hw, Nat.mul_mod_mul_left]

/-- Elements of one register that are not the same stand apart. -/
theorem apart_of_ne {w i j : Nat} (h : i ≠ j) : w * i + w ≤ w * j ∨ w * j + w ≤ w * i := by
  rcases Nat.lt_or_gt_of_ne h with h | h
  · exact .inl (Nat.mul_le_mul_left w h)
  · exact .inr (Nat.mul_le_mul_left w h)

/-! ### Registers of the file -/

/-- Where no ring covers the registers, they are those of the file. -/
theorem Strand.vreg_of_no_ring (x : Strand) (hr : x.ring = none) (hc : x.closed = []) (n : Nat) :
    x.vreg n = if h : n < 32 then x.v.get ⟨n, h⟩ else 0 := by
  simp only [Strand.vreg, Strand.ringSeen, Strand.ringOf, hr, hc, Option.toList_none, List.nil_append, List.find?_nil, Option.map_none]

/-- A write clears poison marks and notes what it has covered, and no more (R397). -/
theorem Strand.covered_eq (x : Strand) (kind reg lo hi : Nat) :
    ∃ ps ws, x.covered kind reg lo hi = { x with poison := ps, wrote := ws } := by
  unfold Strand.covered
  refine List.foldlRecOn (motive := fun y : Strand => ∃ ps ws, y = { x with poison := ps, wrote := ws }) _ _ ⟨x.poison, x.wrote, rfl⟩ ?_
  rintro _ ⟨ps, ws, rfl⟩ m -
  dsimp only
  split
  · exact ⟨_, _, rfl⟩
  · exact ⟨_, _, rfl⟩

theorem Strand.setVreg_eq (x : Strand) (n : Nat) (b : BitVec 16384) : x.setVreg n b = { x with v := (x.setVreg n b).v } := by
  unfold Strand.setVreg
  split <;> rfl

/-- Writing an element changes vector registers and the poison of what it covers, and no more. -/
theorem Strand.setElt_frame (x : Strand) (n w e v : Nat) : ∃ vs ps ws, x.setElt n w e v = { x with v := vs, poison := ps, wrote := ws } ∧
    vs = (x.setVreg (x.place n w e).1 (putBits (x.vreg (x.place n w e).1) (x.place n w e).2 w v)).v := by
  obtain ⟨ps, ws, h⟩ := (x.setVreg (x.place n w e).1 (putBits (x.vreg (x.place n w e).1) (x.place n w e).2 w v)).covered_eq 1
    (x.place n w e).1 (x.place n w e).2 ((x.place n w e).2 + w)
  refine ⟨_, ps, ws, h.trans ?_, rfl⟩
  rw [Strand.setVreg_eq]

section
variable {x : Strand} (hr : x.ring = none) (hc : x.closed = [])
include hr hc

/-- The registers after the write of an element. -/
theorem Strand.vreg_setElt {n w e : Nat} (hreg : (x.place n w e).1 < 32) (v k : Nat) : (x.setElt n w e v).vreg k =
    if k = (x.place n w e).1 then putBits (x.vreg k) (x.place n w e).2 w v else x.vreg k := by
  obtain ⟨vs, ps, ws, heq, hvs⟩ := x.setElt_frame n w e v
  have hset : vs = x.v.set (x.place n w e).1 (putBits (x.vreg (x.place n w e).1) (x.place n w e).2 w v) hreg := by
    rw [hvs, Strand.setVreg, dif_pos hreg]
  rw [heq, Strand.vreg_of_no_ring { x with v := vs, poison := ps, wrote := ws } hr hc, hset]
  by_cases hk : k = (x.place n w e).1
  · subst hk
    rw [if_pos rfl, dif_pos hreg]
    exact Vector.getElem_set_self hreg
  · rw [if_neg hk, x.vreg_of_no_ring hr hc k]
    by_cases hk32 : k < 32
    · rw [dif_pos hk32, dif_pos hk32]
      exact Vector.getElem_set_ne hreg hk32 (Ne.symm hk)
    · rw [dif_neg hk32, dif_neg hk32]

variable {w m : Nat} (hw : 0 < w) (hm : 0 < m) (hsize : 32 * x.vlg = w * m) (hmax : x.vlg ≤ 512)
include hw hm hsize hmax

omit hr hc hmax in
theorem Strand.place_mul (n e : Nat) : x.place n w e = (n + e / m, w * (e % m)) := by
  rw [Strand.place, hsize, placeIn_mul hw hm]

/-- An element reads as the low bits of what was written there. -/
theorem Strand.elt_setElt_same {n e : Nat} (hreg : n + e / m < 32) (v : Nat) : (x.setElt n w e v).elt n w e = v % 2 ^ w := by
  have hplace := x.place_mul hw hm hsize n e
  have hfit : w * (e % m) + w ≤ 16384 := by
    have hle : w * (e % m + 1) ≤ w * m := Nat.mul_le_mul_left w (Nat.mod_lt e hm)
    rw [Nat.mul_succ] at hle
    omega
  obtain ⟨vs, ps, ws, heq, -⟩ := x.setElt_frame n w e v
  have hsame : (x.setElt n w e v).place n w e = x.place n w e := by rw [heq]; rfl
  rw [Strand.elt, hsame, Strand.vreg_setElt hr hc (by rw [hplace]; exact hreg), if_pos rfl, hplace]
  exact bitsAt_putBits_same hfit _ _

omit hmax in
/-- Every other element of the group reads as before, and so does an element of another group that shares no register with the one
written. -/
theorem Strand.elt_setElt_ne {n e n' j : Nat} (hreg : n + e / m < 32) (h : n' + j / m = n + e / m → e % m ≠ j % m) (v : Nat) :
    (x.setElt n w e v).elt n' w j = x.elt n' w j := by
  have hplace := x.place_mul hw hm hsize n e
  have hplace' := x.place_mul hw hm hsize n' j
  obtain ⟨vs, ps, ws, heq, -⟩ := x.setElt_frame n w e v
  have hsame : (x.setElt n w e v).place n' w j = x.place n' w j := by rw [heq]; rfl
  rw [Strand.elt, hsame, Strand.vreg_setElt hr hc (by rw [hplace]; exact hreg), Strand.elt, hplace', hplace]
  by_cases hk : n' + j / m = n + e / m
  · rw [if_pos hk]
    exact bitsAt_putBits_apart (apart_of_ne (h hk)).symm _ _
  · rw [if_neg hk]

end

theorem div_ne_of_mod_eq {m e j : Nat} (hne : j ≠ e) (h : e % m = j % m) : j / m ≠ e / m := by
  intro hd
  exact hne (by rw [← Nat.div_add_mod j m, ← Nat.div_add_mod e m, hd, h])

end Sys2Proof.Machine
end

section
/-! What the `vm` forms leave: a mask, or a scalar register (R161, R162, R174, R175). -/

namespace Sys2Proof.Machine

/-! ### Writes of masks -/

theorem Strand.setMask_eq (x : Strand) (m : Nat) (b : BitVec 512) : x.setMask m b = { x with masks := (x.setMask m b).masks } := by
  unfold Strand.setMask
  split <;> rfl

theorem Strand.setMask_sc (x : Strand) (c : Scalar) (m : Nat) (b : BitVec 512) :
    ({ x with sc := c } : Strand).setMask m b = { x.setMask m b with sc := c } := by
  unfold Strand.setMask
  split <;> rfl

theorem Strand.writeMask_of_clean {x : Strand} (h : x.poison = []) (m : Nat) (b : BitVec 512) (lo hi : Nat) :
    x.writeMask m b lo hi = x.setMask m b := by
  unfold Strand.writeMask
  split
  · refine Strand.covered_of_clean ?_ _ _ _ _
    rw [Strand.setMask_eq]
    exact h
  · next hm => rw [Strand.setMask, dif_neg (fun hc => hm hc.1)]

/-- A mask after a write of one; m0 stays (R161). -/
theorem Strand.mask_setMask (x : Strand) {m : Nat} (hm : m < 8) (b : BitVec 512) (k : Nat) :
    (x.setMask m b).mask k = if k = m ∧ m ≠ 0 then b else x.mask k := by
  by_cases h0 : 0 < m
  · rw [Strand.setMask, dif_pos ⟨h0, hm⟩]
    by_cases hk : k = m
    · subst hk
      rw [if_pos ⟨rfl, h0.ne'⟩, Strand.mask, if_neg h0.ne', dif_pos hm]
      exact Vector.getElem_set_self hm
    · rw [if_neg (fun hc => hk hc.1), Strand.mask, Strand.mask]
      by_cases hk0 : k = 0
      · rw [if_pos hk0, if_pos hk0]
      · by_cases hk8 : k < 8
        · rw [if_neg hk0, if_neg hk0, dif_pos hk8, dif_pos hk8]
          exact Vector.getElem_set_ne hm hk8 (Ne.symm hk)
        · rw [if_neg hk0, if_neg hk0, dif_neg hk8, dif_neg hk8]
  · have hm0 : m = 0 := by omega
    rw [if_neg (fun hc => hc.2 hm0), Strand.setMask, dif_neg (fun hc => h0 hc.1)]

/-- Masks hang on the mask registers alone. -/
theorem Strand.maskBit_congr {x y : Strand} (h : x.masks = y.masks) (m e : Nat) : x.maskBit m e = y.maskBit m e := by
  rw [Strand.maskBit, Strand.maskBit, Strand.mask, Strand.mask, h]

theorem getLsbD_setBit (k : BitVec 512) {e i : Nat} (hi : i < 512) (b : Bool) :
    (setBit k e b).getLsbD i = if i = e then b else k.getLsbD i := by
  rw [setBit, getLsbD_putBits]
  by_cases h : i = e
  · subst h
    rw [if_pos (by omega), if_pos rfl, decide_eq_true hi, Nat.sub_self]
    cases b <;> rfl
  · rw [if_neg (by omega), if_neg h]

theorem getLsbD_mergeMask (old new_ : BitVec 512) (n : Nat) {e : Nat} (he : e < 512) :
    (mergeMask old new_ 0 n).getLsbD e = if e < n then new_.getLsbD e else old.getLsbD e := by
  have hk : (BitVec.ofNat 512 (2 ^ n - 2 ^ min 0 n)).getLsbD e = decide (e < n) := by
    rw [Nat.zero_min, Nat.pow_zero, BitVec.getLsbD_ofNat, Nat.testBit_two_pow_sub_one, decide_eq_true he, Bool.true_and]
  rw [mergeMask, BitVec.getLsbD_or, BitVec.getLsbD_and, BitVec.getLsbD_and, BitVec.getLsbD_not, hk, decide_eq_true he]
  by_cases h : e < n
  · simp [h]
  · simp [h]

/-- New mask registers, and conditions that join FLAGS. -/
def Strand.masked (ms : Vector (BitVec 512) 8) (fl : Flags) (x : Strand) : Strand :=
  { x with masks := ms, sc := { x.sc with flags := x.sc.flags ||| fl } }

theorem Strand.masked_zero (x : Strand) (ms : Vector (BitVec 512) 8) : x.masked ms 0 = { x with masks := ms } := by
  have hor : x.sc.flags ||| 0 = x.sc.flags := BitVec.or_zero
  rw [Strand.masked, hor]

/-- A mask bit written where no poison mark stands, with the conditions that were raised before it. -/
theorem Strand.setMaskBit_raised {x : Strand} (h : x.poison = []) (fl : Flags) (d e : Nat) (b : Bool) :
    ({ x with sc := { x.sc with flags := x.sc.flags ||| fl } } : Strand).setMaskBit d e b =
      x.masked (x.setMask d (setBit (x.mask d) e b)).masks fl := by
  rw [Strand.setMaskBit, Strand.writeMask_of_clean (by exact h), Strand.setMask_sc, Strand.setMask_eq]
  rfl

/-! ### Results -/

/-- An outcome at which only mask d, FLAGS, RSTIX, the note of what was written and the PC differ: below VLC the mask takes the bits
given, m0 excepted, and every other mask bit stays. -/
def State.MaskResult (s : State) (o : Host.Outcome State Fault Refusal) (d : Nat) (fl : Flags) (bit : Nat → Bool) : Prop :=
  ∃ t, o = .next t ∧
    t = ({ s with cur := { s.cur with
      masks := t.cur.masks, rstix := 0, wrote := [], sc := { s.cur.sc with flags := s.cur.sc.flags ||| fl } } }).advance ∧
    ∀ m < 8, ∀ e < 512, t.cur.maskBit m e = if m = d ∧ m ≠ 0 ∧ e < s.cur.sc.vlc then bit e else s.cur.maskBit m e

theorem freeMask_run {s : State} {m : Nat} (h : s.cur.bound m = false) (i : Instr) : freeMask i m s = .ok ⟨⟩ s := by
  unfold freeMask
  rw [bind_ok (get_run s), h]
  rfl

section
variable {s : State} (h : s.VecReady)
include h

theorem State.VecReady.acquireMask_run (m : Nat) : acquireMask m s = .ok ⟨⟩ s := by
  obtain ⟨-, -, -, hml⟩ := h
  unfold acquireMask
  rw [bind_ok (get_run s), hml]
  rfl

/-- An instruction whose run changes mask registers to `ms` and raises fl. -/
theorem State.VecReady.maskResult {i : Instr} {check run : M Unit} {d : Nat} {fl : Flags} {bit : Nat → Bool}
    {ms : Vector (BitVec 512) 8} (hb : vBlock s.cur i = .no) (hc : check s = .ok ⟨⟩ s)
    (hr : run s.unwritten = .ok ⟨⟩ (s.unwritten.modCur (Strand.masked ms fl)))
    (hbit : ∀ m < 8, ∀ e < 512, ({ s.cur with masks := ms } : Strand).maskBit m e =
      if m = d ∧ m ≠ 0 ∧ e < s.cur.sc.vlc then bit e else s.cur.maskBit m e) :
    s.MaskResult (finish (vecInstr i check noDraws run) s) d fl bit :=
  ⟨_, h.finish_of_run (x := { s.cur with masks := ms }) (fl := fl) h.1.1 hb hc hr, rfl, hbit⟩

/-- The case of a run that merges new bits below VLC into mask d. -/
theorem State.VecReady.mergeResult {i : Instr} {check run : M Unit} {d : Nat} (hd : d < 8) {bit : Nat → Bool} (new_ : BitVec 512)
    (hb : vBlock s.cur i = .no) (hc : check s = .ok ⟨⟩ s)
    (hr : run s.unwritten = .ok ⟨⟩ (s.unwritten.modCur (fun z => z.writeMask d (mergeMask (z.mask d) new_ z.rstix.toNat s.cur.sc.vlc)
      z.rstix.toNat s.cur.sc.vlc)))
    (hbit : ∀ e < 512, new_.getLsbD e = bit e) : s.MaskResult (finish (vecInstr i check noDraws run) s) d 0 bit := by
  have hrst : s.unwritten.cur.rstix.toNat = 0 := by rw [h.unwritten.2.1]; rfl
  refine h.maskResult (ms := (s.unwritten.cur.setMask d (mergeMask (s.unwritten.cur.mask d) new_ 0 s.cur.sc.vlc)).masks) hb hc
    (hr.trans ?_) ?_
  · rw [State.modCur, State.modCur, Strand.masked_zero, Strand.writeMask_of_clean h.unwritten.clean, Strand.setMask_eq, hrst]
  · intro m hm e he
    refine (Strand.maskBit_congr (y := s.unwritten.cur.setMask d (mergeMask (s.unwritten.cur.mask d) new_ 0 s.cur.sc.vlc)) rfl m e).trans ?_
    rw [Strand.maskBit, Strand.mask_setMask _ hd, show s.cur.maskBit m e = (s.unwritten.cur.mask m).getLsbD e from rfl]
    by_cases hmd : m = d ∧ m ≠ 0
    · obtain ⟨rfl, hm0⟩ := hmd
      rw [if_pos ⟨rfl, hm0⟩, getLsbD_mergeMask _ _ _ he, hbit e he]
      by_cases hv : e < s.cur.sc.vlc
      · rw [if_pos hv, if_pos ⟨rfl, hm0, hv⟩]
      · rw [if_neg hv, if_neg (fun hmv : _ ∧ _ ∧ _ => hv hmv.2.2)]
    · rw [if_neg (fun hmv : m = d ∧ d ≠ 0 => hmd ⟨hmv.1, hmv.1 ▸ hmv.2⟩),
        if_neg (fun hmv : _ ∧ _ ∧ _ => hmd ⟨hmv.1, hmv.2.1⟩)]

theorem State.VecReady.maskPoison (m n : Nat) : s.cur.maskPoison m n = false := by
  simp [Strand.maskPoison, h.clean]

theorem State.VecReady.readMask_run (m n : Nat) : readMask m n s = .ok (s.cur.mask m) s := by
  unfold readMask
  rw [bind_ok (get_run s), h.maskPoison, if_neg Bool.false_ne_true, bind_ok (h.acquireMask_run m)]
  rfl

/-! ### Mask logic (R175) -/

/-- A mask-logic form, from the bits of its operation. -/
theorem State.VecReady.vmLogic_result {i : Instr} {d a b : Reg} {f : BitVec 512 → BitVec 512 → BitVec 512} {bit : Nat → Bool}
    (hblock : vBlock s.cur i = .no) (hd : d.toNat < 8) (hfree : s.cur.bound d.toNat = false)
    (hbit : ∀ e < 512, (f (s.cur.mask a.toNat) (s.cur.mask b.toNat)).getLsbD e = bit e) :
    s.MaskResult (finish (vmLogic i d a b f) s) d.toNat 0 bit := by
  have hr := h.unwritten
  have hclean : (List.range s.unwritten.cur.sc.vlc).find? (fun e => decide (s.unwritten.cur.rstix.toNat ≤ e) &&
      (s.unwritten.cur.bitPoison a.toNat e || s.unwritten.cur.bitPoison b.toNat e)) = none := by
    simp [Strand.bitPoison, hr.clean]
  refine h.mergeResult hd (f (s.cur.mask a.toNat) (s.cur.mask b.toNat)) hblock (freeMask_run hfree i) ?_ hbit
  rw [bind_ok (hr.acquireMask_run _), bind_ok (hr.acquireMask_run _), bind_ok (get_run _)]
  dsimp only
  rw [hclean]
  rfl

theorem State.VecReady.vmFill_result {d r : Reg} (hd : d.toNat < 8) (hfree : s.cur.bound d.toNat = false) :
    s.MaskResult (exec (.vmFill d r) s) d.toNat 0 (fun e => decide (e < (s.reg r).toNat)) := by
  have hcheck : (do freeMask (.vmFill d r) d.toNat; let _ ← rd r; pure () : M Unit) s = .ok ⟨⟩ s := by
    rw [bind_ok (freeMask_run hfree _), bind_ok (rd_of_readable (h.1.readable r))]
    rfl
  refine h.mergeResult hd (BitVec.ofNat 512 (2 ^ min (s.reg r).toNat 512 - 1)) rfl hcheck ?_ ?_
  · rw [bind_ok (sc_run _)]
    rfl
  · intro e he
    rw [BitVec.getLsbD_ofNat, Nat.testBit_two_pow_sub_one, decide_eq_true he, Bool.true_and, decide_eq_decide]
    omega

/-! ### Forms that write a scalar register (R175) -/

/-- An instruction whose run writes one scalar register. -/
theorem State.VecReady.finish_wr {i : Instr} {run : M Unit} {r : Reg} {v : Word} (hb : vBlock s.cur i = .no)
    (hr : run s.unwritten = .ok ⟨⟩ (s.unwritten.setReg r v)) :
    finish (vecInstr i (ready r) noDraws run) s = .next ((s.setReg r v).vecDone 0 0) := by
  have hor : (s.setReg r v).cur.sc.flags ||| 0 = (s.setReg r v).cur.sc.flags := BitVec.or_zero
  refine (h.finish_of_run (x := (s.setReg r v).cur) (fl := 0) h.1.1 hb (ready_of_writable (h.1.writable r)) (hr.trans ?_)).trans rfl
  rw [hor]
  have hrst : s.cur.rstix = (s.setReg r v).cur.rstix := rfl
  rfl

theorem State.VecReady.exec_vmPop (r a : Reg) : exec (.vmPop r a) s =
    .next ((s.setReg r (w64 ((List.range s.cur.sc.vlc).countP (fun e => s.cur.maskBit a.toNat e)))).vecDone 0 0) := by
  refine h.finish_wr rfl ?_
  rw [bind_ok (sc_run _), bind_ok (h.unwritten.readMask_run _ _)]
  rfl

theorem State.VecReady.exec_vmFirst (r a : Reg) : exec (.vmFirst r a) s =
    .next ((s.setReg r (match (List.range s.cur.sc.vlc).find? (fun e => s.cur.maskBit a.toNat e) with
      | some e => w64 e
      | none => 0xFFFFFFFFFFFFFFFF)).vecDone 0 0) := by
  refine h.finish_wr rfl ?_
  rw [bind_ok (sc_run _), bind_ok (h.unwritten.readMask_run _ _)]
  rfl

end

/-! ### Compares (R162, R174) -/

theorem foldl_or (fl : Nat → Flags) (l : List Nat) : ∀ f : Flags,
    l.foldl (fun a e => a ||| fl e) f = f ||| l.foldl (fun a e => a ||| fl e) 0 := by
  induction l with
  | nil => exact fun f => BitVec.or_zero.symm
  | cons e l ih =>
    intro f
    have hzero : 0 ||| fl e = fl e := BitVec.zero_or
    rw [List.foldl_cons, List.foldl_cons, ih, hzero, ih (fl e), BitVec.or_assoc]

/-- A mask bit takes a value, or stays. -/
def Strand.putMask (d : Nat) (p : Nat → Option Bool) (x : Strand) (e : Nat) : Strand :=
  match p e with
  | some b => x.setMask d (setBit (x.mask d) e b)
  | none => x

/-- The step of a loop over elements that writes mask bits: the conditions of an element, and then its bit. -/
def Strand.stepMask (d : Nat) (p : Nat → Option Bool) (fl : Nat → Flags) (x : Strand) (e : Nat) : Strand :=
  x.masked (x.putMask d p e).masks (fl e)

/-- Such a loop changes masks and FLAGS, and no more. -/
theorem Strand.foldl_stepMask (d : Nat) (p : Nat → Option Bool) (fl : Nat → Flags) (l : List Nat) : ∀ x : Strand,
    l.foldl (Strand.stepMask d p fl) x =
      x.masked (l.foldl (Strand.stepMask d p fl) x).masks (l.foldl (fun a e => a ||| fl e) 0) := by
  induction l with
  | nil => exact fun x => (x.masked_zero x.masks).symm
  | cons e l ih =>
    intro x
    have hzero : 0 ||| fl e = fl e := BitVec.zero_or
    rw [List.foldl_cons, ih, List.foldl_cons, hzero, foldl_or fl l (fl e), Strand.stepMask, Strand.masked, Strand.masked, Strand.masked,
      BitVec.or_assoc]

theorem Strand.maskBit_stepMask {d : Nat} (hd : d < 8) (p : Nat → Option Bool) (fl : Nat → Flags) (x : Strand) {m i : Nat}
    (hi : i < 512) (e : Nat) : (x.stepMask d p fl e).maskBit m i =
      if m = d ∧ m ≠ 0 ∧ i = e then (p e).getD (x.maskBit m i) else x.maskBit m i := by
  rw [Strand.maskBit_congr (show (x.stepMask d p fl e).masks = (x.putMask d p e).masks from rfl), Strand.putMask]
  cases hp : p e with
  | none => exact (ite_self _).symm
  | some b =>
    dsimp only
    rw [Strand.maskBit, Strand.mask_setMask x hd, Strand.maskBit, Option.getD_some]
    by_cases hm : m = d ∧ m ≠ 0
    · obtain ⟨rfl, hm0⟩ := hm
      rw [if_pos ⟨rfl, hm0⟩, getLsbD_setBit _ hi]
      by_cases hie : i = e
      · rw [if_pos hie, if_pos ⟨rfl, hm0, hie⟩]
      · rw [if_neg hie, if_neg (fun hc : _ ∧ _ ∧ _ => hie hc.2.2)]
    · rw [if_neg (fun hc : m = d ∧ d ≠ 0 => hm ⟨hc.1, hc.1 ▸ hc.2⟩), if_neg (fun hc : _ ∧ _ ∧ _ => hm ⟨hc.1, hc.2.1⟩)]

/-- A mask bit after the loop over the first n elements. -/
theorem Strand.maskBit_foldl_stepMask {d : Nat} (hd : d < 8) (p : Nat → Option Bool) (fl : Nat → Flags) (x : Strand) {m i : Nat}
    (hi : i < 512) : ∀ n, ((List.range n).foldl (Strand.stepMask d p fl) x).maskBit m i =
      if m = d ∧ m ≠ 0 ∧ i < n then (p i).getD (x.maskBit m i) else x.maskBit m i
  | 0 => (if_neg (fun hc => Nat.not_lt_zero _ hc.2.2)).symm
  | n + 1 => by
    rw [List.range_succ, List.foldl_append, List.foldl_cons, List.foldl_nil, Strand.maskBit_stepMask hd p fl _ hi,
      Strand.maskBit_foldl_stepMask hd p fl x hi n]
    by_cases hmd : m = d ∧ m ≠ 0
    · obtain ⟨hmd, hm0⟩ := hmd
      rcases Nat.lt_trichotomy i n with hlt | rfl | hgt
      · simp [hmd ▸ hm0, hmd, hlt, hlt.ne, Nat.lt_succ_of_lt hlt]
      · simp [hmd ▸ hm0, hmd]
      · simp [hgt.ne', hgt.not_gt, show ¬ i < n + 1 by omega]
    · rw [if_neg (fun hc => hmd ⟨hc.1, hc.2.1⟩), if_neg (fun hc => hmd ⟨hc.1, hc.2.1⟩), if_neg (fun hc => hmd ⟨hc.1, hc.2.1⟩)]

section
variable {s : State} (h : s.VecReady)
include h

/-- The checks of a compare. -/
theorem State.VecReady.compareCheck_run {t : ETy} (ht : etyOfCode (modeETA s.cur.sc.md) = some t) (hok : etyArith t = true)
    (hvlc : s.holdsVlc (etyBits t)) {a : Reg} (ha : s.spans a (etyBits t) (etyBits t)) {c : VSrc}
    (hcs : ∀ q, c = .v q → s.spans q (etyBits t) (etyBits t)) {d : Nat} (hfree : s.cur.bound d = false) (i : Instr) :
    (do let t ← needETA i etyArith
        vGroups i (etyBits t) (⟨a.toNat, etyBits t, false, false⟩ :: opB c (etyBits t))
        freeMask i d
        needB c : M Unit) s = .ok ⟨⟩ s := by
  have hbad : ∀ o ∈ (⟨a.toNat, etyBits t, false, false⟩ :: opB c (etyBits t) : List VOp),
      o.bad (modeGRP s.cur.sc.md) (etyBits t) = false := by
    intro o ho
    rcases List.mem_cons.1 ho with rfl | ho
    · exact VOp.bad_of_spans ha false
    · exact opB_bad hcs o ho
  rw [bind_ok (needETA_of_ok ht hok), bind_ok (vGroups_run h.2.2.1 hvlc hbad i), bind_ok (freeMask_run hfree i)]
  exact needB_run h.1 c

/-- The loop of a compare: an active element raises the conditions of its result and takes its bit, and an inactive one is cleared
under ZM. -/
theorem State.VecReady.compareLoop_run {d : Nat} {r : Strand → Nat → Except Nat (Bool × Flags)} {g : Nat → Bool × Flags}
    (hg : ∀ e, r s.cur e = .ok (g e)) (hfl : s.noTrap (fun e => (g e).2)) :
    forElements
      (fun x e =>
        match r x e with
        | .error k => vPoison k e
        | .ok v => do
          elementFlags v.2 e
          Machine.modCur (fun y => y.setMaskBit d e v.1))
      (fun e => do
        let c ← sc
        if modeZM c.md then Machine.modCur (fun y => y.setMaskBit d e false) else pure ()) s =
    .ok ⟨⟩ (s.modCur (fun x => (List.range s.cur.sc.vlc).foldl (Strand.stepMask d
      (fun e => if s.cur.active e then some (g e).1 else if modeZM s.cur.sc.md then some false else none)
      (s.liveFlags (fun e => (g e).2))) x)) := by
  have hrst : s.cur.rstix = 0 := h.2.1
  unfold forElements
  rw [bind_ok h.readGuard_run, bind_ok (get_run s)]
  refine forM_run (P := fun x => x.poison = [] ∧ ∃ f, x.sc = { s.cur.sc with flags := f }) ?_ _ ?_ ⟨h.clean, s.cur.sc.flags, rfl⟩
  · rintro x e ⟨hp, f, hsc⟩
    refine ⟨hp, f ||| s.liveFlags (fun e => (g e).2) e, ?_⟩
    rw [Strand.stepMask, Strand.masked, hsc]
  · rintro e he t ⟨hp, f, hsc⟩
    have hlow : ¬ e < s.cur.rstix.toNat := by simp [hrst]
    have hput (b : Bool) : t.cur.setMaskBit d e b = t.cur.setMask d (setBit (t.cur.mask d) e b) := Strand.writeMask_of_clean hp _ _ _ _
    have hmd : t.cur.sc.md = s.cur.sc.md := by
      rw [hsc]
      rfl
    rw [if_neg hlow, h.guardPoison, if_neg Bool.false_ne_true]
    by_cases ha : s.cur.active e = true
    · have hdis : (g e).2 &&& t.cur.sc.fpen.zeroExtend 6 = 0 := by
        rw [hsc]
        exact hfl e (List.mem_range.1 he) ha
      rw [if_pos ha]
      simp only [hg]
      rw [bind_ok (elementFlags_of_disabled hdis e), modCur_run, State.modCur, State.modCur, Strand.stepMask, Strand.putMask, if_pos ha,
        State.liveFlags, if_pos ha]
      exact congrArg (fun y => EStateM.Result.ok PUnit.unit { t with cur := y }) (Strand.setMaskBit_raised hp (g e).2 d e (g e).1)
    · beta_reduce
      rw [if_neg ha, bind_ok (sc_run t), hmd, State.modCur, Strand.stepMask, Strand.putMask, if_neg ha, State.liveFlags, if_neg ha,
        Strand.masked_zero]
      by_cases hz : modeZM s.cur.sc.md = true
      · rw [if_pos hz, if_pos hz, modCur_run, State.modCur, hput, Strand.setMask_eq]
      · rw [if_neg hz, if_neg hz]
        rfl

end

end Sys2Proof.Machine
end

section
/-! O25: what the `vm` compares leave, and the statement itself. -/

namespace Sys2Proof.Machine

section
variable {s : State} (h : s.VecReady)
include h

/-- A compare of which FPEN leaves every condition disabled, from the outcome f of each element. -/
theorem State.VecReady.vmCompare_result {t : ETy} (ht : etyOfCode (modeETA s.cur.sc.md) = some t) (hok : etyArith t = true)
    (hvlc : s.holdsVlc (etyBits t)) {a : Reg} (ha : s.spans a (etyBits t) (etyBits t)) {c : VSrc}
    (hcs : ∀ q, c = .v q → s.spans q (etyBits t) (etyBits t)) {d : Reg} (hd : d.toNat < 8) (hfree : s.cur.bound d.toNat = false)
    {i : Instr} (hb : vBlock s.cur i = .no) (fi : Int → Int → Bool) (ff : ETy → Nat → Nat → Bool × Flags)
    (f : Nat → Bool × Flags)
    (hf : ∀ e, (if etyIsInt t then (fi (intVal t (s.cur.elt a.toNat (etyBits t) e)) (intVal t (s.eltB c (etyBits t) e)), 0)
      else ff t (s.cur.elt a.toNat (etyBits t) e) (s.eltB c (etyBits t) e)) = f e)
    (hfl : s.noTrap (fun e => (f e).2)) :
    s.MaskResult (finish (vmCompare i d a c fi ff) s) d.toNat (s.flagsOver (fun e => (f e).2)) (fun e =>
      if s.cur.active e then (f e).1 else if modeZM s.cur.sc.md then false else s.cur.maskBit d.toNat e) := by
  have hr := h.unwritten
  refine h.maskResult (ms := ((List.range s.cur.sc.vlc).foldl (Strand.stepMask d.toNat
      (fun e => if s.cur.active e then some (f e).1 else if modeZM s.cur.sc.md then some false else none)
      (s.liveFlags (fun e => (f e).2))) s.unwritten.cur).masks)
    hb (h.compareCheck_run ht hok hvlc ha hcs hfree i) ?_ ?_
  · rw [bind_ok (get_run _)]
    dsimp only
    rw [show s.unwritten.cur.sc = s.cur.sc from rfl, ht, Option.getD_some, bind_ok (hr.waitSources_run _)]
    refine (hr.compareLoop_run (g := f) ?_ hfl).trans ?_
    · intro e
      rw [hr.rdE, hr.srcB]
      exact congrArg Except.ok (hf e)
    · rw [State.modCur, State.modCur, Strand.foldl_stepMask, State.flagsOver_eq]
      rfl
  · intro m hm e he
    refine (Strand.maskBit_congr rfl m e).trans ((Strand.maskBit_foldl_stepMask hd _ _ _ he _).trans ?_)
    by_cases hmd : m = d.toNat ∧ m ≠ 0 ∧ e < s.cur.sc.vlc
    · rw [if_pos hmd, if_pos hmd, hmd.1]
      by_cases ha : s.cur.active e = true
      · rw [if_pos ha, if_pos ha, Option.getD_some]
      · rw [if_neg ha, if_neg ha]
        by_cases hz : modeZM s.cur.sc.md = true
        · rw [if_pos hz, if_pos hz, Option.getD_some]
        · rw [if_neg hz, if_neg hz, Option.getD_none]
          rfl
    · rw [if_neg hmd, if_neg hmd]
      rfl

end

/-- The compare of integers in `vm.ne`, written as `!=`. -/
theorem execVmNe_eq (d a : Reg) (c : VSrc) : exec (.vmNe d a c) =
    finish (vmCompare (.vmNe d a c) d a c (fun p q => p != q) (fun t p q => (!(fEq t p q).1, (fEq t p q).2))) := by
  have hne : (fun p q : Int => p != q) = fun p q => decide (p ≠ q) := funext fun p => funext fun q => decide_not.symm
  rw [hne]
  rfl

/-- In a grant of 32 lanes or more each register holds a whole number of elements. -/
theorem exists_elements_per_register {w g : Nat} (hw : w ∈ [8, 16, 32, 64]) (hg : 32 ∣ g) (hpos : 0 < g) :
    ∃ m, 0 < m ∧ 0 < w ∧ 32 * g = w * m := by
  have hw0 : 0 < w := by
    fin_cases hw <;> decide
  have hdvd : w ∣ 32 * g := by
    fin_cases hw <;> omega
  obtain ⟨m, hm⟩ := hdvd
  exact ⟨m, Nat.pos_of_ne_zero (fun h0 => by simp [h0, hpos.ne'] at hm), hw0, hm⟩

/-- Settles O25: elements stand apart in their registers (R153, R158), and a `vm` form merges its result into one mask below VLC
(R161, R162, R174, R175). -/
theorem elementLaws : Obligations.ElementLaws := by
  unfold Obligations.ElementLaws
  refine ⟨?_, ?_⟩
  · intro x r w e v hr hc hw hdvd hpos hmax hreg
    obtain ⟨m, hm, hw0, hsize⟩ := exists_elements_per_register hw hdvd hpos
    have hplace (j : Nat) : r + j * w / (32 * x.vlg) = r + j / m := by
      rw [hsize, Nat.mul_comm j w, Nat.mul_div_mul_left _ _ hw0]
    have hfst : (x.place r w e).1 = r + e / m := congrArg Prod.fst (x.place_mul hw0 hm hsize r e)
    rw [hplace] at hreg
    obtain ⟨vs, ps, ws, hframe, -⟩ := x.setElt_frame r w e v
    refine ⟨Strand.elt_setElt_same hr hc hw0 hm hsize hmax hreg v, fun j hj _ => ?_, fun k hk => ?_, ?_, ?_, ?_⟩
    · exact Strand.elt_setElt_ne hr hc hw0 hm hsize hreg (fun hd hmod => div_ne_of_mod_eq hj hmod (Nat.add_left_cancel hd)) v
    · rw [Strand.vreg_setElt hr hc (hfst ▸ hreg), if_neg (hfst ▸ hplace e ▸ hk)]
    · rw [hframe]
    · rw [hframe]
    · rw [hframe]
  · intro d a b r c s h hd hfree
    refine ⟨?_, ?_, ?_, ?_, ?_, h.vmFill_result hd hfree, h.exec_vmPop r a, h.exec_vmFirst r a, ?_⟩
    · exact h.vmLogic_result rfl hd hfree fun e _ => BitVec.getLsbD_and
    · exact h.vmLogic_result rfl hd hfree fun e _ => BitVec.getLsbD_or
    · exact h.vmLogic_result rfl hd hfree fun e _ => BitVec.getLsbD_xor
    · refine h.vmLogic_result rfl hd hfree fun e he => ?_
      rw [BitVec.getLsbD_and, BitVec.getLsbD_not, decide_eq_true he, Bool.true_and]
      rfl
    · refine h.vmLogic_result rfl hd hfree fun e he => ?_
      rw [BitVec.getLsbD_not, decide_eq_true he, Bool.true_and]
      rfl
    · intro t ht hok ha hcs hvlc
      have hcmp (i : Instr) (hb : vBlock s.cur i = .no) (fi : Int → Int → Bool) (ff : ETy → Nat → Nat → Bool × Flags)
          := h.vmCompare_result ht hok hvlc ha hcs hd hfree hb fi ff _ (fun e => rfl)
      refine ⟨?_, ?_, ?_, ?_, ?_, ?_, ?_⟩
      · exact hcmp (.vmEq d a c) rfl (fun p q => p == q) fEq
      · intro hn
        rw [execVmNe_eq]
        exact hcmp (.vmNe d a c) rfl (fun p q => p != q) (fun t p q => (!(fEq t p q).1, (fEq t p q).2)) hn
      · exact hcmp (.vmLt d a c) rfl (fun p q => decide (p < q)) (fun t => fLess t false)
      · exact hcmp (.vmLe d a c) rfl (fun p q => decide (p ≤ q)) (fun t => fLess t true)
      · exact hcmp (.vmGt d a c) rfl (fun p q => decide (q < p)) (fun t p q => fLess t false q p)
      · exact hcmp (.vmGe d a c) rfl (fun p q => decide (q ≤ p)) (fun t p q => fLess t true q p)
      · exact hcmp (.vmUnord d a c) rfl (fun _ _ => false)
          (fun t p q => (isNaN (unpack t p) || isNaN (unpack t q), sigFlag (unpack t p) (unpack t q)))

end Sys2Proof.Machine
end

section
/-! O28: the head of the vector stream in its statement need not be the `vf.go`. -/

namespace Sys2Proof.Machine

/-- The registers of a front end, whose s5 holds 1. -/
def frontFive : Scalar := { Scalar.blank with regs := Scalar.blank.regs.set 5 1 }

/-- The head of a vector stream that is a `vm.pop` into s5, and holds no block. -/
def popEntry : Entry := ⟨.vmPop 5 0, Scalar.blank, 0, [], none, [], [], []⟩

/-- The machine in a stream, at a vector length of 0, whose vector stream holds that entry alone. -/
def popHead : State := State.reset.modCur (fun x => { x with
  sc := Scalar.blank
  inStream := 1
  vq := [popEntry]
  saved := some frontFive
  rstix := 0
  vf := none })

/-- With no active element `vf.go` takes that entry from its queue, and s5 of the front end takes the value that the
stream's scalar state holds. -/
theorem exec_vfGo_popHead : exec (.vfGo 0) popHead = .next (popHead.modCur (fun x => { x with
    sc := Scalar.blank
    inStream := 0
    vq := []
    saved := none })) := by
  rfl

/-- Refutes O28: its first part says that no scalar register of the front end changes, whatever entry stands at the head of the vector
stream, where R187 speaks of the entry of the `vf.go` itself. With a `vm.pop` there, and no active element, s5 changes from 1 to 0. -/
theorem not_blockRuns : ¬ Obligations.BlockRuns := by
  unfold Obligations.BlockRuns
  rintro ⟨hblock, -⟩
  obtain ⟨hdone, -⟩ := hblock 0 popHead popEntry [] frontFive 0 (popHead.cur.mask (modeG popHead.cur.sc.md)) rfl rfl rfl rfl rfl rfl rfl
    (by decide) (by decide) (by decide) (.inl ⟨rfl, rfl, rfl⟩)
  have hidle (n : Nat) : ¬ n < popHead.cur.sc.vlc := Nat.not_lt_zero n
  obtain ⟨t, hexec, -, -, -, -, -, hregs, -⟩ := hdone (fun n _ hact => hidle n hact.1)
    (fun q ⟨w, hw, _⟩ => absurd hw List.not_mem_nil)
  rw [exec_vfGo_popHead] at hexec
  cases hexec
  exact absurd hregs (by decide)

end Sys2Proof.Machine
end

section
/-! O30: the trap of a refused `vb.free` clears the note of what was written, which its statement keeps. -/

namespace Sys2Proof.Machine

/-- A ring of one buffer, bound to v0, whose strips take two registers. -/
def boundRing : Ring :=
  { f := 8, c := 1, g := 2, bufs := [.bound 0], fp := 0, tp := 0, order := [0], strips := [], data := [0, 0], bad := [], seq := 0, stop := 0 }

/-- A running strand with that ring under GRP = 1, whose last vector instruction has covered a poison mark. -/
def wroteBefore : State :=
  { State.reset with
    cur := { Strand.absent with
      uid := 1, status := .running, ring := some boundRing, wrote := [(⟨1, 0, 0⟩, 1)], sc := { Scalar.blank with trbase := 0x8000 } } }

/-- The trap of a `vb.free` of v0 that the ring refuses. -/
def refusedFree : Trap := ⟨cILLEGAL, 0x2e000003, 0, 0, 15, false⟩

theorem wroteBefore_quiet : wroteBefore.Quiet := by
  dsimp only [State.Quiet]
  and_intros <;> decide

/-- The ring's strips are of another group size, and `vb.free` is refused; the note of what was written is empty by then. -/
theorem exec_vbFree_wroteBefore : exec (.vbFree 0) wroteBefore =
    .next (wroteBefore.unwritten.trapEntry refusedFree) := by
  rfl

/-- Refutes O30: its last part says that the refused `vb.free` leaves all but the trap's fields as they were, whatever bits the strand notes
as written. The note holds for one vector instruction and is cleared as the `vb.free` begins (R397), so a note that an earlier
instruction left is gone when the trap is taken. -/
theorem not_stripRing : ¬ Obligations.StripRing := by
  unfold Obligations.StripRing
  intro hring
  obtain ⟨-, hbound⟩ := hring 0 0 0 wroteBefore wroteBefore_quiet
  obtain ⟨-, -, -, hfree⟩ := hbound boundRing rfl
  obtain ⟨-, hother⟩ := hfree 0 [] (by decide) rfl rfl
  have htrap := hother (by decide) 0x2e000003 (by decide)
  rw [exec_vbFree_wroteBefore, State.traps] at htrap
  have hnote : (wroteBefore.unwritten.trapEntry refusedFree).cur.wrote = (wroteBefore.trapEntry refusedFree).cur.wrote :=
    congrArg (fun t : State => t.cur.wrote) (Host.Outcome.next.inj htrap)
  exact absurd hnote (by decide)

end Sys2Proof.Machine
end

section
/-! What a strip's bytes leave in the registers of a ring: a word of 32 bits after the other makes an element, and an element after the
other makes a buffer (R182). -/

namespace Sys2Proof.Machine

/-! ### Words of an element -/

/-- Two runs of bits that follow each other, written one after the other, are one run. -/
theorem putBits_putBits_append {n : Nat} (r : BitVec n) (off w w' v v' : Nat) :
    putBits (putBits r off w v) (off + w) w' v' = putBits r off (w + w') (v % 2 ^ w + 2 ^ w * v') := by
  refine BitVec.eq_of_getLsbD_eq fun i _ => ?_
  have hlow : v % 2 ^ w < 2 ^ w := Nat.mod_lt _ (Nat.two_pow_pos w)
  rw [getLsbD_putBits, getLsbD_putBits, getLsbD_putBits, Nat.add_comm (v % 2 ^ w), Nat.testBit_two_pow_mul_add _ hlow,
    Nat.testBit_mod_two_pow]
  rcases Nat.lt_or_ge i off with hi | hi
  · rw [if_neg (by omega), if_neg (by omega), if_neg (by omega)]
  · obtain ⟨k, rfl⟩ := Nat.exists_eq_add_of_le hi
    rw [show off + k - (off + w) = k - w by omega, Nat.add_sub_cancel_left]
    by_cases hk : k < w
    · rw [if_neg (by omega), if_pos (by omega), if_pos (by omega), if_pos hk, decide_eq_true hk, Bool.true_and]
    · by_cases hk' : k < w + w'
      · rw [if_pos (by omega), if_pos (by omega), if_neg hk]
      · rw [if_neg (by omega), if_neg (by omega), if_neg (by omega)]

theorem putBits_zero {n : Nat} (r : BitVec n) (off v : Nat) : putBits r off 0 v = r :=
  BitVec.eq_of_getLsbD_eq fun i _ => by rw [getLsbD_putBits, if_neg (by omega)]

/-- The words of bytes that are not poisoned: as many as there are, none poisoned, and of the same value. -/
theorem stripWords_clean : ∀ bs : List Byte, 4 ∣ bs.length →
    32 * (stripWords (bs.map (fun b => (b, false)))).length = 8 * bs.length ∧
    (∀ x ∈ stripWords (bs.map (fun b => (b, false))), x.2 = false) ∧
    natOfWords ((stripWords (bs.map (fun b => (b, false)))).map (·.1)) = leNat bs
  | [], _ => ⟨rfl, fun _ hx => absurd hx List.not_mem_nil, rfl⟩
  | [_], h | [_, _], h | [_, _, _], h => absurd (Nat.le_of_dvd (by simp) h) (by simp)
  | a :: b :: c :: d :: bs, h => by
    obtain ⟨hlen, hbad, hval⟩ := stripWords_clean bs ((Nat.dvd_add_left (Nat.dvd_refl 4)).1 h)
    have hword : leNat [a, b, c, d] < 2 ^ 32 := leNat_lt [a, b, c, d]
    simp only [List.map_cons, stripWords, List.length_cons, List.mem_cons, forall_eq_or_imp, natOfWords, hval, leNat]
    refine ⟨by omega, ⟨rfl, hbad⟩, ?_⟩
    simp only [leNat] at hword
    rw [Nat.mod_eq_of_lt hword]
    omega

/-- An element of a ring's registers written, at a register and its first bit. -/
def Ring.putElt (w : Nat) (r : Ring) (p : Nat × Nat) (v : Nat) : Ring :=
  { r with data := r.data.set (p.1 - r.f) (putBits (r.data.getD (p.1 - r.f) 0) p.2 w v) }

/-- The words of an element, written from word j of register n up, write the element. -/
theorem foldl_putWord (n j : Nat) (ws : List (Nat × Bool)) (hclean : ∀ x ∈ ws, x.2 = false) (k : Nat) (q : Ring)
    (hn : n - q.f < q.data.length) :
    (ws.zipIdx k).foldl (fun (q : Ring) x => q.putWord n (j + x.2) x.1.1 x.1.2) q =
      q.putElt (32 * ws.length) (n, 32 * (j + k)) (natOfWords (ws.map (·.1))) := by
  induction ws generalizing k q with
  | nil =>
    rw [List.zipIdx_nil, List.foldl_nil, Ring.putElt, List.length_nil, Nat.mul_zero, putBits_zero, List.getD_eq_getElem _ _ hn,
      List.set_getElem_self]
  | cons x ws ih =>
    have hx : x.2 = false := hclean x List.mem_cons_self
    have hput : q.putWord n (j + k) x.1 x.2 = q.putElt 32 (n, 32 * (j + k)) x.1 := by
      rw [Ring.putWord, hx, if_neg Bool.false_ne_true]
      rfl
    have hn' : n - (q.putElt 32 (n, 32 * (j + k)) x.1).f < (q.putElt 32 (n, 32 * (j + k)) x.1).data.length := by
      simpa only [Ring.putElt, List.length_set] using hn
    rw [List.zipIdx_cons, List.foldl_cons, hput, ih (fun y hy => hclean y (List.mem_cons_of_mem _ hy)) _ _ hn']
    simp only [Ring.putElt, List.set_set, List.getD_eq_getElem?_getD, List.getElem?_set_self hn, Option.getD_some, List.map_cons,
      List.length_cons, natOfWords]
    rw [show 32 * (j + (k + 1)) = 32 * (j + k) + 32 by omega, putBits_putBits_append,
      show 32 + 32 * ws.length = 32 * (ws.length + 1) by omega]

/-! ### The registers of a buffer -/

theorem getD_concat {α : Type} (l : List α) (a d : α) (i : Nat) : (l ++ [a]).getD i d = if i = l.length then a else l.getD i d := by
  rw [List.getD_eq_getElem?_getD, List.getElem?_append, List.getD_eq_getElem?_getD]
  rcases Nat.lt_trichotomy i l.length with h | h | h
  · rw [if_pos h, if_neg h.ne]
  · simp [h]
  · simp [h.ne', h.not_gt, Nat.sub_ne_zero_of_lt h]

/-- A ring whose registers differ in those of one buffer alone. -/
structure Ring.SameOutside (r : Ring) (buf : Nat) (q : Ring) : Prop where
  frame : q = { r with strips := q.strips, data := q.data, bad := q.bad }
  length : q.data.length = r.data.length
  data : ∀ i, r.inBuf buf (r.f + i) = false → q.data.getD i 0 = r.data.getD i 0
  bad : q.bad.filter (fun k => !r.inBuf buf k.1) = r.bad.filter (fun k => !r.inBuf buf k.1)

/-- A ring as a strip leaves it whose elements are vs: the registers of its buffer hold the elements, m in each, and no poison. -/
structure Ring.FilledWith (r : Ring) (buf m : Nat) (vs : List Nat) (q : Ring) : Prop where
  same : r.SameOutside buf q
  elements : ∀ e < r.g * m, bitsAt (q.data.getD (buf * r.g + e / m) 0).toNat (32 * r.g * (e % m)) (32 * r.g) = vs.getD e 0
  clean : ∀ k ∈ q.bad, r.inBuf buf k.1 = false

theorem Ring.SameOutside.refl (r : Ring) (buf : Nat) : r.SameOutside buf r := ⟨rfl, rfl, fun _ _ => rfl, rfl⟩

theorem Ring.SameOutside.inBuf {r q : Ring} {buf : Nat} (h : r.SameOutside buf q) (b n : Nat) : q.inBuf b n = r.inBuf b n := by
  rw [h.frame]
  rfl

theorem Ring.SameOutside.trans {r q p : Ring} {buf : Nat} (h : r.SameOutside buf q) (h' : q.SameOutside buf p) : r.SameOutside buf p where
  frame := by rw [h'.frame, h.frame]
  length := h'.length.trans h.length
  data i hi := by
    have hf : q.f = r.f := by rw [h.frame]
    rw [h'.data i (by rw [h.inBuf, hf, hi]), h.data i hi]
  bad := by
    have hbad := h'.bad
    simp only [h.inBuf] at hbad
    rw [hbad, h.bad]

/-- What fills a buffer of a ring fills that of a ring that differs in the buffer alone. -/
theorem Ring.SameOutside.filledWith {r q p : Ring} {buf m : Nat} {vs : List Nat} (h : r.SameOutside buf q)
    (h' : q.FilledWith buf m vs p) : r.FilledWith buf m vs p where
  same := h.trans h'.same
  elements := by
    have hg : q.g = r.g := by rw [h.frame]
    have helts := h'.elements
    rwa [hg] at helts
  clean k hk := (h.inBuf buf k.1).symm.trans (h'.clean k hk)

theorem bitsAt_zero (n off w : Nat) : bitsAt (0 : BitVec n).toNat off w = 0 := by
  simp [bitsAt]

theorem Ring.inBuf_iff (r : Ring) (b i : Nat) : r.inBuf b (r.f + i) = true ↔ b * r.g ≤ i ∧ i < (b + 1) * r.g := by
  rw [Ring.inBuf, Bool.and_eq_true, decide_eq_true_eq, decide_eq_true_eq, Nat.add_le_add_iff_left, Nat.add_lt_add_iff_left]

theorem Ring.inBuf_add (r : Ring) (b : Nat) {k : Nat} (hk : k < r.g) : r.inBuf b (r.f + (b * r.g + k)) = true := by
  rw [Ring.inBuf_iff, Nat.succ_mul]
  omega

theorem Ring.getD_clearBuf (r : Ring) (b i : Nat) :
    (r.clearBuf b).data.getD i 0 = if r.inBuf b (r.f + i) then 0 else r.data.getD i 0 := by
  rw [Ring.clearBuf, List.getD_eq_getElem?_getD, List.getElem?_map, List.getElem?_zipIdx, List.getD_eq_getElem?_getD]
  cases r.data[i]? with
  | none => rw [Option.map_none, Option.map_none, Option.getD_none, ite_self]
  | some d => rw [Option.map_some, Option.map_some, Option.getD_some, Option.getD_some, Nat.zero_add]

/-- A buffer with nothing in it. -/
theorem Ring.filledWith_clearBuf (r : Ring) (buf m : Nat) : r.FilledWith buf m [] (r.clearBuf buf) where
  same := {
    frame := rfl
    length := by rw [Ring.clearBuf, List.length_map, List.length_zipIdx]
    data := fun i hi => by rw [Ring.getD_clearBuf, if_neg (ne_true_of_eq_false hi)]
    bad := by rw [Ring.clearBuf, List.filter_filter]; simp only [Bool.and_self] }
  elements e he := by
    have hk : e / m < r.g := Nat.div_lt_of_lt_mul (Nat.mul_comm _ _ ▸ he)
    rw [Ring.getD_clearBuf, if_pos (r.inBuf_add buf hk)]
    exact bitsAt_zero _ _ _
  clean k hk := by simpa using (List.mem_filter.1 hk).2

section
variable {r : Ring} {buf m : Nat} (hbuf : buf < r.c) (hlen : r.data.length = r.c * r.g) (hg : r.g * m ≤ 512)
include hbuf hlen

/-- The registers of a buffer are registers of the ring. -/
theorem Ring.buffer_lt_length {k : Nat} (hk : k < r.g) : buf * r.g + k < r.data.length := by
  have hle : (buf + 1) * r.g ≤ r.c * r.g := Nat.mul_le_mul_right r.g hbuf
  rw [Nat.succ_mul] at hle
  omega

include hg

/-- The next element of a strip. -/
theorem Ring.FilledWith.putElt {vs : List Nat} {q : Ring} (h : r.FilledWith buf m vs q) (hvs : vs.length < r.g * m) {v : Nat}
    (hv : v < 2 ^ (32 * r.g)) : r.FilledWith buf m (vs ++ [v])
      (q.putElt (32 * r.g) (r.f + buf * r.g + vs.length / m, 32 * r.g * (vs.length % m)) v) := by
  have hm : 0 < m := Nat.pos_of_ne_zero fun h0 => by simp [h0] at hvs
  have hk : vs.length / m < r.g := Nat.div_lt_of_lt_mul (Nat.mul_comm _ _ ▸ hvs)
  have hf : q.f = r.f := by rw [h.same.frame]
  have hidx : r.f + buf * r.g + vs.length / m - q.f = buf * r.g + vs.length / m := by
    rw [hf, Nat.add_assoc, Nat.add_sub_cancel_left]
  have hlt : buf * r.g + vs.length / m < q.data.length := h.same.length ▸ Ring.buffer_lt_length hbuf hlen hk
  have hdata (i : Nat) : (q.putElt (32 * r.g) (r.f + buf * r.g + vs.length / m, 32 * r.g * (vs.length % m)) v).data.getD i 0 =
      if i = buf * r.g + vs.length / m then putBits (q.data.getD i 0) (32 * r.g * (vs.length % m)) (32 * r.g) v else q.data.getD i 0 := by
    rw [Ring.putElt, hidx, List.getD_eq_getElem?_getD, List.getElem?_set]
    by_cases hi : i = buf * r.g + vs.length / m
    · rw [if_pos hi.symm, if_pos hi, if_pos (hi ▸ hlt), hi]
      rfl
    · rw [if_neg (Ne.symm hi), if_neg hi, List.getD_eq_getElem?_getD]
  refine ⟨⟨?_, ?_, fun i hi => ?_, h.same.bad⟩, fun e he => ?_, h.clean⟩
  · rw [Ring.putElt, h.same.frame]
  · rw [Ring.putElt, List.length_set, h.same.length]
  · have hne : i ≠ buf * r.g + vs.length / m := fun hc => by
      rw [hc, r.inBuf_add buf hk] at hi
      exact Bool.noConfusion hi
    rw [hdata, if_neg hne, h.same.data i hi]
  · have hcat : (vs ++ [v]).getD e 0 = if e = vs.length then v else vs.getD e 0 := getD_concat vs v 0 e
    rw [hdata, hcat]
    by_cases hen : e = vs.length
    · have hfit : 32 * r.g * (e % m) + 32 * r.g ≤ 16384 := by
        have hle : 32 * r.g * (e % m + 1) ≤ 32 * r.g * m := Nat.mul_le_mul_left _ (Nat.mod_lt e hm)
        rw [Nat.mul_succ, Nat.mul_assoc 32 r.g m] at hle
        omega
      rw [← hen, if_pos rfl, if_pos rfl, bitsAt_putBits_same hfit, Nat.mod_eq_of_lt hv]
    · rw [if_neg hen, ← h.elements e he]
      by_cases hreg : buf * r.g + e / m = buf * r.g + vs.length / m
      · have hne : vs.length % m ≠ e % m := fun hmod => div_ne_of_mod_eq hen hmod (Nat.add_left_cancel hreg)
        rw [if_pos hreg, bitsAt_putBits_apart (apart_of_ne hne).symm]
      · rw [if_neg hreg]

omit hg in
/-- One more element position of a strip enters its buffer. -/
theorem Ring.install_concat (ts : List (List Byte)) (bs : List Byte) (hbs : bs.length = 4 * r.g) (hcount : ts.length < r.g * m)
    (h : r.FilledWith buf m (ts.map leNat) (r.install (32 * r.g * m) buf (ts.map (·.map (fun b => (b, false)))))) :
    r.install (32 * r.g * m) buf ((ts ++ [bs]).map (·.map (fun b => (b, false)))) =
      (r.install (32 * r.g * m) buf (ts.map (·.map (fun b => (b, false))))).putElt (32 * r.g)
        (r.f + buf * r.g + ts.length / m, 32 * r.g * (ts.length % m)) (leNat bs) := by
  have hm : 0 < m := Nat.pos_of_ne_zero fun h0 => by simp [h0] at hcount
  have hg : 0 < r.g := Nat.pos_of_ne_zero fun h0 => by simp [h0] at hcount
  have hk : ts.length / m < r.g := Nat.div_lt_of_lt_mul (Nat.mul_comm _ _ ▸ hcount)
  obtain ⟨hwords, hclean, hval⟩ := stripWords_clean bs (hbs ▸ Nat.dvd_mul_right 4 r.g)
  have hn : r.f + buf * r.g + ts.length / m - (r.install (32 * r.g * m) buf (ts.map (·.map (fun b => (b, false))))).f <
      (r.install (32 * r.g * m) buf (ts.map (·.map (fun b => (b, false))))).data.length := by
    rw [h.same.length, h.same.frame, Nat.add_assoc, Nat.add_sub_cancel_left]
    exact Ring.buffer_lt_length hbuf hlen hk
  have hfirst : 32 * r.g * (ts.length % m) / 32 = r.g * (ts.length % m) := by
    rw [Nat.mul_assoc, Nat.mul_div_cancel_left _ (by decide)]
  rw [Ring.install, List.map_append, List.zipIdx_append, List.foldl_append, List.map_singleton, List.zipIdx_singleton, List.foldl_cons,
    List.foldl_nil, Nat.zero_add, List.length_map, placeIn_mul (Nat.mul_pos (by decide) hg) hm]
  dsimp only
  rw [hfirst]
  refine (foldl_putWord _ _ _ hclean 0 _ hn).trans ?_
  rw [hval, hwords, hbs, Nat.add_zero, ← Nat.mul_assoc, ← Nat.mul_assoc]

/-- A strip of bytes that are not poisoned stands in its buffer. -/
theorem Ring.filledWith_install (ts : List (List Byte)) (hts : ∀ bs ∈ ts, bs.length = 4 * r.g) (hcount : ts.length ≤ r.g * m) :
    r.FilledWith buf m (ts.map leNat) (r.install (32 * r.g * m) buf (ts.map (·.map (fun b => (b, false))))) := by
  induction ts using List.reverseRecOn with
  | nil => exact r.filledWith_clearBuf buf m
  | append_singleton ts bs ih =>
    have hlast : bs.length = 4 * r.g := hts bs (by simp)
    have hnext : ts.length < r.g * m := by simpa using hcount
    have hprev := ih (fun b hb => hts b (by simp [hb])) hnext.le
    have hval : leNat bs < 2 ^ (32 * r.g) := by
      have hlt := leNat_lt bs
      rwa [hlast, ← Nat.mul_assoc] at hlt
    have hput := hprev.putElt hbuf hlen hg (by rwa [List.length_map]) hval
    rw [List.length_map] at hput
    rw [Ring.install_concat hbuf hlen ts bs hlast hnext hprev, List.map_append, List.map_singleton]
    exact hput

end

end Sys2Proof.Machine
end

section
/-! O31: a strip that arrives (R182, R184). -/

namespace Sys2Proof.Machine

/-! ### Registers that a ring covers -/

theorem Ring.seen_of_none {r : Ring} (h : ∀ t ∈ r.strips, t.got = none) (size p : Nat) : r.seen size p = r := by
  refine List.foldlRecOn (motive := fun q => q = r) _ _ rfl fun q hq t ht => ?_
  rw [hq, h t ht]

section
variable {x : Strand} {r : Ring} (hring : x.ring = some r) (hclosed : x.closed = []) (hseq : r.seq ≤ x.at_)
  (hgot : ∀ t ∈ r.strips, t.got = none)
include hring hclosed hseq hgot

/-- A ring none of whose strips has arrived is seen as it is, in its registers. -/
theorem Strand.ringSeen_of_ring (n : Nat) : x.ringSeen n = if r.holds n then some r else none := by
  rw [Strand.ringSeen, Strand.ringOf, hring, hclosed, Option.toList_some, List.append_nil, List.find?_singleton,
    decide_eq_true hseq, Bool.and_true]
  by_cases h : r.holds n = true
  · rw [if_pos h, Option.map_some]
    rw [Ring.seen_of_none hgot]
  · rw [if_neg h, Option.map_none]

theorem Strand.vreg_of_ring (n : Nat) :
    x.vreg n = if r.holds n then r.data.getD (n - r.f) 0 else if h : n < 32 then x.v.get ⟨n, h⟩ else 0 := by
  rw [Strand.vreg, Strand.ringSeen_of_ring hring hclosed hseq hgot]
  by_cases h : r.holds n = true
  · rw [if_pos h, if_pos h]
  · rw [if_neg h, if_neg h]

theorem Strand.wordPoison_of_ring (n k : Nat) :
    x.wordPoison n k = if r.holds n then r.bad.contains (n, k) else x.poison.any (fun m => m.kind == 1 && m.reg == n && m.word == k) := by
  rw [Strand.wordPoison, Strand.ringSeen_of_ring hring hclosed hseq hgot]
  by_cases h : r.holds n = true
  · rw [if_pos h, if_pos h]
  · rw [if_neg h, if_neg h]

end

/-! ### Strips that enter their buffers -/

theorem Ring.FilledWith.withStrips {r q : Ring} {buf m : Nat} {vs : List Nat} (h : r.FilledWith buf m vs q) (ss : List Strip) :
    r.FilledWith buf m vs { q with strips := ss } := by
  obtain ⟨⟨hframe, hlength, hdata, hbad⟩, helts, hclean⟩ := h
  refine ⟨⟨?_, hlength, hdata, hbad⟩, helts, hclean⟩
  rw [hframe]

/-- A loop that only element a changes, and that brings what is Weak to what is Strong there. -/
theorem foldl_reaches {α β : Type} [DecidableEq α] {step : β → α → β} {a : α} {Weak Strong : β → Prop}
    (hstrong : ∀ q, Strong q → Weak q) (hstep : ∀ q, Weak q → Strong (step q a)) (l : List α) (hother : ∀ t ∈ l, t ≠ a → ∀ q, step q t = q) (q : β)
    (hq : Weak q) (h : a ∈ l ∨ Strong q) : Strong (l.foldl step q) := by
  induction l generalizing q with
  | nil => exact h.resolve_left List.not_mem_nil
  | cons t l ih =>
    have hrest := fun u hu => hother u (List.mem_cons_of_mem _ hu)
    rw [List.foldl_cons]
    by_cases ht : t = a
    · subst ht
      exact ih hrest _ (hstrong _ (hstep q hq)) (.inr (hstep q hq))
    · rw [hother t List.mem_cons_self ht]
      refine ih hrest q hq (h.imp_left fun ha => ?_)
      exact (List.mem_cons.1 ha).resolve_left (Ne.symm ht)

/-- A strip whose bytes have arrived. -/
def Strip.arrived (w : Strip) (els : List (List (Byte × Bool))) : Strip := { w with got := some els }

/-- The strips of a ring after one of them has arrived. -/
def Ring.arrive (r : Ring) (w : Strip) (els : List (List (Byte × Bool))) : Ring :=
  { r with bufs := r.bufs.set w.buf .filled, strips := r.strips.map (fun y => if y = w then y.arrived els else y) }

section
variable {r : Ring} {w : Strip} (hgot : ∀ t ∈ r.strips, t.got = none ∧ (t.buf = w.buf → t = w))
  (els : List (List (Byte × Bool)))
include hgot

/-- A strip of the ring is the arrived one, or another, still on its way, to another buffer. -/
theorem Ring.mem_arrive {t : Strip} (ht : t ∈ (r.arrive w els).strips) :
    t = w.arrived els ∨ t ∈ r.strips ∧ t.got = none ∧ t.buf ≠ w.buf := by
  obtain ⟨y, hy, rfl⟩ := List.mem_map.1 ht
  obtain ⟨hnone, honly⟩ := hgot y hy
  by_cases hyw : y = w
  · exact .inl ((if_pos hyw).trans (congrArg (·.arrived els) hyw))
  · rw [if_neg hyw]
    exact .inr ⟨hy, hnone, fun hb => hyw (honly hb)⟩

/-- The strips that stay on their way. -/
theorem Ring.arrive_filter : (r.arrive w els).strips.filter (fun u => u != w.arrived els) = r.strips.filter (fun y => y.buf != w.buf) := by
  have hkeep : ∀ l : List Strip, (∀ t ∈ l, t.got = none ∧ (t.buf = w.buf → t = w)) →
      (l.map (fun y => if y = w then y.arrived els else y)).filter (fun u => u != w.arrived els) = l.filter (fun y => y.buf != w.buf) := by
    intro l hl
    induction l with
    | nil => rfl
    | cons y l ih =>
      obtain ⟨hnone, honly⟩ := hl y List.mem_cons_self
      have ih := ih fun t ht => hl t (List.mem_cons_of_mem _ ht)
      rw [List.map_cons]
      by_cases hyw : y = w
      · rw [if_pos hyw, List.filter_cons_of_neg (by simp [hyw]), List.filter_cons_of_neg (by simp [hyw]), ih]
      · have hne : y ≠ w.arrived els := fun hc => by
          rw [hc] at hnone
          exact absurd hnone (Option.some_ne_none _)
        have hb : y.buf ≠ w.buf := fun hb => hyw (honly hb)
        rw [if_neg hyw, List.filter_cons_of_pos (by simp [hne]), List.filter_cons_of_pos (by simp [hb]), ih]
  exact hkeep r.strips hgot

/-- In a ring that one arrived strip has perhaps filled already, no older strip is to come to its buffer. -/
def Ring.Arriving (r : Ring) (w : Strip) (q : Ring) : Prop :=
  r.SameOutside w.buf q ∧ q.strips.filter (fun u => u != w) = r.strips.filter (fun u => u != w) ∧
    ∀ u ∈ q.strips, u.buf = w.buf → u.seq = w.seq

theorem Ring.arriving_arrive : (r.arrive w els).Arriving (w.arrived els) (r.arrive w els) := by
  refine ⟨.refl _ _, rfl, fun u hu hb => ?_⟩
  rcases Ring.mem_arrive hgot els hu with rfl | ⟨-, -, hne⟩
  · rfl
  · exact absurd hb hne

/-- The arrived strip enters its buffer, and the others stay on their way. -/
theorem Strand.foldStrips_arrive {x : Strand} {m : Nat} {ts : List (List Byte)} (hels : els = ts.map (·.map (fun b => (b, false))))
    (hring : x.ring = some (r.arrive w els)) (hvq : x.vq = []) (hmq : x.mq = []) (hw : w ∈ r.strips) (hbuf : w.buf < r.c)
    (hlen : r.data.length = r.c * r.g) (hg : r.g * m ≤ 512) (hvlg : x.vlg = r.g * m) (hts : ∀ bs ∈ ts, bs.length = 4 * r.g)
    (hcount : ts.length ≤ r.g * m) : ∃ q, x.foldStrips = { x with ring := some q } ∧
      (r.arrive w els).FilledWith w.buf m (ts.map leNat) q ∧ q.strips = r.strips.filter (fun y => y.buf != w.buf) := by
  have hold (p : Ring) (n : Nat) : x.readsOlder p n = false := by
    rw [Strand.readsOlder, hvq, hmq]
    rfl
  rw [Strand.foldStrips, hring]
  refine ⟨_, rfl, ?_⟩
  refine foldl_reaches (a := w.arrived els) (Weak := (r.arrive w els).Arriving (w.arrived els))
    (Strong := fun q => (r.arrive w els).FilledWith w.buf m (ts.map leNat) q ∧ q.strips = r.strips.filter (fun y => y.buf != w.buf))
    ?_ ?_ _ ?_ _ (Ring.arriving_arrive hgot els) (.inl ?_)
  · rintro q ⟨hfill, hstrips⟩
    refine ⟨hfill.same, ?_, fun u hu hb => ?_⟩
    · rw [hstrips, ← Ring.arrive_filter hgot els, List.filter_filter]
      simp only [Bool.and_self]
    · rw [hstrips] at hu
      exact absurd (show u.buf = w.buf from hb) (by simpa using (List.mem_filter.1 hu).2)
  · rintro q ⟨hsame, hstrips, hseq⟩
    have hnone : q.strips.any (fun u => u.buf == (w.arrived els).buf && decide (u.seq < (w.arrived els).seq)) = false := by
      rw [List.any_eq_false]
      intro u hu hc
      rw [Bool.and_eq_true, beq_iff_eq, decide_eq_true_eq] at hc
      exact absurd (hseq u hu hc.1) hc.2.ne
    have hf : q.f = r.f ∧ q.c = r.c ∧ q.g = r.g := by
      rw [hsame.frame]
      exact ⟨rfl, rfl, rfl⟩
    obtain ⟨hf, hc, hgrp⟩ := hf
    have hfill : q.FilledWith w.buf m (ts.map leNat) (q.install (32 * x.vlg) w.buf els) := by
      rw [hvlg, hels, ← Nat.mul_assoc, ← hgrp]
      exact Ring.filledWith_install (hc ▸ hbuf) (by rw [hsame.length, hc, hgrp]; exact hlen) (hgrp ▸ hg) ts (hgrp ▸ hts)
        (hgrp ▸ hcount)
    rw [show (w.arrived els).got = some els from rfl]
    dsimp only
    rw [hnone, hold, Bool.or_self, if_neg Bool.false_ne_true]
    exact ⟨hsame.filledWith (hfill.withStrips _), hstrips.trans (Ring.arrive_filter hgot els)⟩
  · intro t ht hne q
    rcases Ring.mem_arrive hgot els ht with rfl | ⟨-, hnone, -⟩
    · exact absurd rfl hne
    · rw [hnone]
  · exact List.mem_map.2 ⟨w, hw, if_pos rfl⟩

end

/-! ### The event -/

section
variable {s : State} {buf : Nat}

theorem exec_stripFilled (hstatus : s.cur.status ≠ .absent) : exec (.stripFilled s.cur.uid buf) s = .next (s.stripHere buf) :=
  congrArg Host.Outcome.next (if_pos ⟨rfl, hstatus⟩)

/-- No strip on its way to the buffer. -/
theorem State.stripHere_none (hnone : ∀ r, s.cur.ring = some r → ∀ w ∈ r.due, w.buf ≠ buf) : s.stripHere buf = s := by
  have hfind : s.cur.strips.find? (fun t => t.buf == buf) = none := by
    rw [List.find?_eq_none, Strand.strips]
    cases hring : s.cur.ring with
    | none => exact fun _ hw => absurd hw List.not_mem_nil
    | some r => simpa using hnone r hring
  rw [State.stripHere, hfind]

/-- The bytes of an element position in memory. -/
def elementBytes (m : Memory) (gs : List Seg) : List Byte := gs.flatMap (fun g => memGetN m g.key g.n)

theorem elementBytes_padSeg (s : State) (off n : Nat) : elementBytes s.mem [s.padSeg off n] =
    memGetN s.mem (scratchKey s.cur.ident.quad (s.cur.ident.abase + off)) n := List.flatMap_singleton _ _

/-- The bytes of a strip each of whose element positions stands in the scratchpad alone. -/
theorem stripBytes_run {w : Strip} {n : Nat} (hels : ∀ gs ∈ w.els, ∃ off, gs = [s.padSeg off n] ∧ s.padPlain off n) :
    stripBytes w s = .ok ((w.els.map (elementBytes s.mem)).map (·.map (fun b => (b, false)))) s := by
  rw [List.map_map]
  refine mapM_run _ fun gs hgs => ?_
  obtain ⟨off, rfl, hplain⟩ := hels gs hgs
  have hread : [s.padSeg off n].mapM (readSegB w.pol) s = .ok [(elementBytes s.mem [s.padSeg off n]).map (fun b => (b, false))] s := by
    refine mapM_run (g := fun _ => (elementBytes s.mem [s.padSeg off n]).map (fun b => (b, false))) _ fun g hg => ?_
    rw [List.mem_singleton.1 hg, elementBytes_padSeg]
    exact hplain.readSegB w.pol
  rw [bind_ok hread]
  exact congrArg (EStateM.Result.ok · s) (List.append_nil _)

variable (hquiet : s.Quiet) {r : Ring} {w : Strip} (hring : s.cur.ring = some r)
  (hgot : ∀ t ∈ r.strips, t.got = none ∧ (t.buf = w.buf → t = w)) (hw : w ∈ r.strips)
include hquiet hring

include hgot hw in
/-- The strip on its way to the buffer is the one that arrives; no fence holds it back. -/
theorem State.Quiet.stripHere_some : s.stripHere w.buf = s.fillStrip w := by
  obtain ⟨-, hvq, hmq, -⟩ := hquiet
  have hfind : s.cur.strips.find? (fun t => t.buf == w.buf) = some w := by
    have hdue : w ∈ r.due := List.mem_filter.2 ⟨hw, by rw [(hgot w hw).1]; rfl⟩
    rw [Strand.strips, hring, Option.elim_some]
    cases hfound : r.due.find? (fun t => t.buf == w.buf) with
    | none => exact absurd (beq_self_eq_true w.buf) (List.find?_eq_none.1 hfound w hdue)
    | some t =>
      have hbuf : t.buf = w.buf := by simpa using List.find?_some hfound
      rw [(hgot t (List.mem_filter.1 (List.mem_of_find?_eq_some hfound)).1).2 hbuf]
  have hfence : s.cur.fences.any (fun f => f.1 == 1 && decide (f.2 ≤ w.seq) &&
      (s.cur.vq.any (fun e => decide (e.seq < f.2) && loadsMem e.instr) ||
        s.cur.mq.any (fun e => decide (e.seq < f.2) && loadsMem e.instr))) = false := by
    rw [hvq, hmq]
    simp
  rw [State.stripHere, hfind]
  dsimp only
  rw [hfence, if_neg Bool.false_ne_true]

theorem State.Quiet.fillStrip_eq {els : List (List (Byte × Bool))} (hread : stripBytes w s = .ok els s) :
    s.fillStrip w = s.modCur (fun x => ({ x with ring := some (r.arrive w els) } : Strand).foldStrips) := by
  obtain ⟨-, hvq, hmq, -⟩ := hquiet
  have hvq' (f : Entry → Entry) : s.cur.vq.map f = s.cur.vq := by rw [hvq]; rfl
  have hmq' (f : Entry → Entry) : s.cur.mq.map f = s.cur.mq := by rw [hmq]; rfl
  rw [State.fillStrip, EStateM.run, hread]
  dsimp only
  rw [State.modCur, State.modCur, hvq', hmq', hring]
  rfl

end

/-! ### What the registers read -/

section
variable {x : Strand} {r q : Ring} {w : Strip} {els : List (List (Byte × Bool))} (hring : x.ring = some r) (hclosed : x.closed = [])
  (hseq : r.seq ≤ x.at_) (hgot : ∀ t ∈ r.strips, t.got = none) (hsame : (r.arrive w els).SameOutside w.buf q)
  (hstay : ∀ t ∈ q.strips, t.got = none)
include hclosed hseq hsame hstay

/-- A register of the ring that the strip has entered. -/
theorem Strand.vreg_filled (k : Nat) : ({ x with ring := some q } : Strand).vreg k =
    if r.holds k then q.data.getD (k - r.f) 0 else if h : k < 32 then x.v.get ⟨k, h⟩ else 0 := by
  have hq : q.seq = r.seq ∧ q.f = r.f ∧ q.holds k = r.holds k := by
    rw [hsame.frame]
    exact ⟨rfl, rfl, rfl⟩
  obtain ⟨hqseq, hf, hholds⟩ := hq
  rw [Strand.vreg_of_ring (x := { x with ring := some q }) rfl hclosed (hqseq ▸ hseq) hstay, hholds, hf]

theorem Strand.wordPoison_filled (k j : Nat) : ({ x with ring := some q } : Strand).wordPoison k j =
    if r.holds k then q.bad.contains (k, j) else x.poison.any (fun m => m.kind == 1 && m.reg == k && m.word == j) := by
  have hq : q.seq = r.seq ∧ q.holds k = r.holds k := by
    rw [hsame.frame]
    exact ⟨rfl, rfl⟩
  obtain ⟨hqseq, hholds⟩ := hq
  rw [Strand.wordPoison_of_ring (x := { x with ring := some q }) rfl hclosed (hqseq ▸ hseq) hstay, hholds]

include hring hgot

/-- The registers outside the buffer read as before. -/
theorem Strand.vreg_filled_outside {k : Nat} (hk : r.inBuf w.buf k = false) : ({ x with ring := some q } : Strand).vreg k = x.vreg k := by
  rw [Strand.vreg_filled hclosed hseq hsame hstay, Strand.vreg_of_ring hring hclosed hseq hgot]
  by_cases h : r.holds k = true
  · have hle : r.f ≤ k := by
      rw [Ring.holds, Bool.and_eq_true, decide_eq_true_eq] at h
      exact h.1
    have hi : (r.arrive w els).inBuf w.buf ((r.arrive w els).f + (k - r.f)) = false := by
      rw [show (r.arrive w els).f + (k - r.f) = k from Nat.add_sub_cancel' hle]
      exact hk
    rw [if_pos h, if_pos h, hsame.data _ hi]
    rfl
  · rw [if_neg h, if_neg h]

theorem Strand.wordPoison_filled_outside {k : Nat} (hk : r.inBuf w.buf k = false) (j : Nat) :
    ({ x with ring := some q } : Strand).wordPoison k j = x.wordPoison k j := by
  have hbad : q.bad.contains (k, j) = r.bad.contains (k, j) := by
    have hmem : (k, j) ∈ q.bad.filter (fun p => !(r.arrive w els).inBuf w.buf p.1) ↔
        (k, j) ∈ r.bad.filter (fun p => !(r.arrive w els).inBuf w.buf p.1) := by rw [hsame.bad]; rfl
    have hout : (!(r.arrive w els).inBuf w.buf k) = true := by
      rw [Bool.not_eq_true']
      exact hk
    rw [List.mem_filter, List.mem_filter, and_iff_left hout, and_iff_left hout] at hmem
    rw [Bool.eq_iff_iff, List.contains_iff_mem, List.contains_iff_mem, hmem]
  rw [Strand.wordPoison_filled hclosed hseq hsame hstay, Strand.wordPoison_of_ring hring hclosed hseq hgot, hbad]

omit hring hgot hsame in
/-- A buffer's registers: the elements of the strip. -/
theorem Strand.elt_filled {m : Nat} {vs : List Nat} (hfill : (r.arrive w els).FilledWith w.buf m vs q) (hbuf : w.buf < r.c)
    (hm : x.vlg = r.g * m) {e : Nat} (he : e < x.vlg) :
    ({ x with ring := some q } : Strand).elt (r.f + w.buf * r.g) (32 * r.g) e = vs.getD e 0 := by
  rw [hm] at he
  have hg : 0 < r.g := Nat.pos_of_ne_zero fun h0 => by simp [h0] at he
  have hm0 : 0 < m := Nat.pos_of_ne_zero fun h0 => by simp [h0] at he
  have hk : e / m < r.g := Nat.div_lt_of_lt_mul (Nat.mul_comm _ _ ▸ he)
  have hheld : r.holds (r.f + w.buf * r.g + e / m) = true := by
    have hle : (w.buf + 1) * r.g ≤ r.c * r.g := Nat.mul_le_mul_right r.g hbuf
    rw [Nat.succ_mul] at hle
    rw [Ring.holds, Bool.and_eq_true, decide_eq_true_eq, decide_eq_true_eq]
    exact ⟨(Nat.le_add_right _ _).trans (Nat.le_add_right _ _), by omega⟩
  have hplace := Strand.place_mul (x := { x with ring := some q }) (Nat.mul_pos (by decide) hg) hm0
    (show 32 * x.vlg = 32 * r.g * m by rw [hm, Nat.mul_assoc]) (r.f + w.buf * r.g) e
  rw [Strand.elt, hplace, Strand.vreg_filled hclosed hseq hfill.same hstay, if_pos hheld, Nat.add_assoc, Nat.add_sub_cancel_left]
  exact hfill.elements e he

omit hring hgot hsame in
theorem Strand.wordPoison_filled_buffer {m : Nat} {vs : List Nat} (hfill : (r.arrive w els).FilledWith w.buf m vs q) (hbuf : w.buf < r.c)
    {k : Nat} (hlo : r.f + w.buf * r.g ≤ k) (hhi : k < r.f + w.buf * r.g + r.g) (j : Nat) :
    ({ x with ring := some q } : Strand).wordPoison k j = false := by
  have hle : (w.buf + 1) * r.g ≤ r.c * r.g := Nat.mul_le_mul_right r.g hbuf
  rw [Nat.succ_mul] at hle
  have hheld : r.holds k = true := by
    rw [Ring.holds, Bool.and_eq_true, decide_eq_true_eq, decide_eq_true_eq]
    omega
  have hin : r.inBuf w.buf k = true := by
    rw [Ring.inBuf, Bool.and_eq_true, decide_eq_true_eq, decide_eq_true_eq, Nat.succ_mul]
    omega
  rw [Strand.wordPoison_filled hclosed hseq hfill.same hstay, if_pos hheld, ← Bool.not_eq_true, List.contains_iff_mem]
  exact fun hmem => Bool.false_ne_true ((hfill.clean _ hmem).symm.trans hin)

end

/-- In a grant of whole sets of 32 lanes the registers of a group hold a whole number of elements each. -/
theorem exists_elements_per_group_register {g n : Nat} (hg : g ∈ [1, 2, 4, 8]) (hn : n % 32 = 0) : ∃ m, n = g * m := by
  have hdvd : g ∣ 32 := by
    fin_cases hg <;> decide
  exact hdvd.trans (Nat.dvd_of_mod_eq_zero hn)

theorem State.Quiet.at_eq {s : State} (h : s.Quiet) : s.cur.at_ = s.cur.seqNo := by
  obtain ⟨hin, -⟩ := h
  rw [Strand.at_, hin]
  rfl

/-- Settles O31: the strip that arrives is the first on its way to the buffer, and it alone enters the ring (R182, R184). -/
theorem stripArrival : Obligations.StripArrival := by
  unfold Obligations.StripArrival
  intro s buf hstatus hquiet
  have hclosed := hquiet.closed
  have ⟨_, hvq, hmq, _⟩ := hquiet
  rw [exec_stripFilled hstatus]
  refine ⟨fun hnone => congrArg Host.Outcome.next (State.stripHere_none hnone), ?_⟩
  rintro r w off hring hw rfl hgot hseq hg hbuf hend hlen hvlg hmax hcount hels
  obtain ⟨m, hm⟩ := exists_elements_per_group_register hg hvlg
  have hseq' : r.seq ≤ s.cur.at_ := hquiet.at_eq ▸ hseq
  have hplain : ∀ gs ∈ w.els, ∃ off, gs = [s.padSeg off (4 * r.g)] ∧ s.padPlain off (4 * r.g) := by
    intro gs hgs
    obtain ⟨e, he, rfl⟩ := List.mem_iff_getElem.1 hgs
    obtain ⟨hgs, hpad⟩ := hels e he
    exact ⟨off e, (List.getD_eq_getElem _ _ he).symm.trans hgs, hpad⟩
  have hlens : ∀ bs ∈ w.els.map (elementBytes s.mem), bs.length = 4 * r.g := by
    intro bs hbs
    obtain ⟨gs, hgs, rfl⟩ := List.mem_map.1 hbs
    obtain ⟨p, rfl, -⟩ := hplain gs hgs
    rw [elementBytes_padSeg, memGetN_eq_map, List.length_map, List.length_range]
  have hcount' : (w.els.map (elementBytes s.mem)).length ≤ r.g * m := by rw [List.length_map, ← hm]; exact hcount
  obtain ⟨q, hfold, hfill, hstrips⟩ := Strand.foldStrips_arrive hgot _
    (x := { s.cur with ring := some (r.arrive w ((w.els.map (elementBytes s.mem)).map (·.map (fun b => (b, false))))) }) rfl rfl
    hvq hmq hw hbuf hlen (hm ▸ hmax) hm hlens hcount'
  have hstay : ∀ t ∈ q.strips, t.got = none := by
    rw [hstrips]
    exact fun t ht => (hgot t (List.mem_filter.1 ht).1).1
  have hnone : ∀ t ∈ r.strips, t.got = none := fun t ht => (hgot t ht).1
  have hstep : s.stripHere w.buf = s.modCur (fun x => { x with ring := some q }) := by
    rw [hquiet.stripHere_some hring hgot hw, hquiet.fillStrip_eq hring (stripBytes_run hplain), State.modCur, hfold]
    rfl
  have hout {k : Nat} (hk : k < r.f + w.buf * r.g ∨ r.f + w.buf * r.g + r.g ≤ k) : r.inBuf w.buf k = false := by
    rw [← Bool.not_eq_true, Ring.inBuf, Bool.and_eq_true, decide_eq_true_eq, decide_eq_true_eq, Nat.succ_mul]
    omega
  rw [hstep]
  refine ⟨_, rfl, rfl, rfl, rfl, rfl, rfl, ⟨q.data, q.bad, ?_⟩, fun e he => ?_, fun k hlo hhi j => ?_,
    fun k hk => ⟨?_, fun j => ?_⟩⟩
  · refine congrArg some (hfill.same.frame.trans ?_)
    rw [hstrips]
    rfl
  · refine (Strand.elt_filled hclosed hseq' hstay hfill hbuf hm he).trans ?_
    rw [List.map_map, List.getD_eq_getElem?_getD, List.getElem?_map]
    by_cases hlt : e < w.els.length
    · obtain ⟨hgs, -⟩ := hels e hlt
      rw [List.getD_eq_getElem _ _ hlt] at hgs
      rw [if_pos hlt, List.getElem?_eq_getElem hlt, hgs, Option.map_some, Option.getD_some]
      exact congrArg leNat (elementBytes_padSeg s (off e) (4 * r.g))
    · rw [if_neg hlt, List.getElem?_eq_none (Nat.not_lt.1 hlt), Option.map_none, Option.getD_none]
  · exact Strand.wordPoison_filled_buffer hclosed hseq' hstay hfill hbuf hlo hhi j
  · exact Strand.vreg_filled_outside hring hclosed hseq' hnone hfill.same hstay (hout hk)
  · exact Strand.wordPoison_filled_outside hring hclosed hseq' hnone hfill.same hstay (hout hk) j

end Sys2Proof.Machine
end

section
/-! `mx.st` asks its quad's platform for room even where no piece of it is a mirror piece (R209, R222, R299, R413). A platform
that is over full has no room for 0 bytes either, and the store waits. The conditions under which `Obligations.TileResults` lets
`mx.st` complete speak of the room in the core's outbound buffer, not of the platform. -/

namespace Sys2Proof.Machine

/-! ### A store of elements up to its platform check -/

theorem checkBusy_run {s : State} {k : Reg} (h : s.cur.sc.busy.getLsbD k.toNat = false) : checkBusy k s = .ok ⟨⟩ s := by
  unfold checkBusy
  rw [bind_ok (sc_run s)]
  simp only [h]
  rfl

/-- Where every check passes, the elements are collected in their order. -/
theorem checkElts_run {f : Nat → M VElem} {g : Nat → VElem} {s : State} : ∀ (es : List Nat) (acc : List VElem),
    (∀ e ∈ es, f e s = .ok (g e) s) → checkElts f es acc s = .ok (acc.reverse ++ es.map g, none) s
  | [], acc, _ => by
    rw [List.map_nil, List.append_nil]
    rfl
  | e :: es, acc, hf => by
    have he : (f e).run s = .ok (g e) s := hf e List.mem_cons_self
    have hrest := checkElts_run es (g e :: acc) fun k hk => hf k (List.mem_cons_of_mem _ hk)
    unfold checkElts
    rw [bind_ok (get_run s), he]
    refine (bind_ok (set_run s s)).trans (hrest.trans ?_)
    rw [List.reverse_cons, List.append_assoc, List.map_cons]
    rfl

section
variable {s : State} (hahead : s.isAhead s.cur.uid = false) (hring : s.cur.ring = none) (hh : s.cur.handed = none)
  (hheld : s.held = true) (hroom : ∀ n, s.platRoom n = false)
include hahead hring hh hheld hroom

theorem performElts_of_no_room (eo : Bool) (pol : Nat) (vs : List VElem) : performElts eo pol vs s = .error .wait s := by
  unfold performElts
  rw [bind_ok (behindAt_run hahead), bind_ok (clearOfStrips_run hring _), bind_error (platform_of_no_room hh hheld (hroom _))]

/-- A store whose elements pass their checks waits while the platform has no room. -/
theorem storeAll_of_no_room (eo : Bool) (pol : Nat) {es : List Nat} {f : Nat → M VElem} {g : Nat → VElem}
    (hf : ∀ e ∈ es, f e s = .ok (g e) s) : storeAll eo pol es f s = .error .wait s := by
  unfold storeAll
  rw [bind_ok (checkElts_run es [] hf)]
  exact performElts_of_no_room hahead hring hh hheld hroom eo pol _

end

/-- A vector instruction that passes its checks and then waits has noted nothing as written. -/
theorem State.VecReady.vecInstr_wait {s : State} (h : s.VecReady) {i : Instr} {check run : M Unit} {n : State → Nat}
    (hb : vBlock s.cur i = .no) (hc : check s = .ok ⟨⟩ s) (hr : run s.unwritten = .error .wait s.unwritten) :
    vecInstr i check n run s = .error .wait s.unwritten := by
  obtain ⟨hq, -⟩ := h
  have hopen : s.modCur (fun x => x.openRings x.seqNo) = s := by
    rw [State.modCur, Strand.openRings_nil hq.closed]
  have hpass : (do
      Machine.modCur (fun x => x.openRings x.seqNo)
      check : M Unit) s = .ok ⟨⟩ s := by
    rw [bind_ok (modCur_run _ _), hopen, hc]
  obtain ⟨hin, hvq, hmq, -, hvh, -⟩ := hq
  have hgo : ¬ (decide (s.cur.inStream = 0) &&
      (!s.cur.vq.isEmpty || s.cur.vHold || vBlock s.cur i != .no || !s.cur.mq.isEmpty)) = true := by
    simp [hvq, hmq, hvh, hb]
  unfold vecInstr
  refine (aboveStart_error (k := .wait) ?_).trans (congrArg (EStateM.Result.error · s.unwritten) (ite_self _))
  rw [bind_ok (get_run s), if_neg hgo]
  simp only [hin, if_true]
  rw [bind_ok hpass, bind_ok (modCur_run _ _)]
  exact bind_error hr

/-! ### `mx.st` (R209) -/

/-- A tile store of a ready strand: aligned, and its rows, which `off` gives, lie in the strand's scratchpad allotment. -/
structure State.TileStore (s : State) (d a b : Reg) (off : Nat → Nat) : Prop where
  ready   : s.VecReady
  owned   : d.toNat < s.cur.ntiles
  idle    : s.cur.sc.busy.getLsbD d.toNat = false
  base    : (s.reg a).toNat % 4 = 0
  pitch   : (s.reg b).toNat % 4 = 0
  rows    : ∀ i < s.cur.sc.shape.1, s.reg a + w64 i * s.reg b = w64 (scratchBase + off i)
  fits    : ∀ i < s.cur.sc.shape.1, off i % 4096 + 4 * s.cur.sc.shape.2.1 ≤ 4096 ∧ off i + 4 * s.cur.sc.shape.2.1 ≤ s.cur.ident.alen
  window  : s.cur.ident.alen ≤ 2 ^ 21

/-- Element e of a tile store, in the order of rows. -/
def State.tileElem (s : State) (d : Reg) (off : Nat → Nat) (e : Nat) : VElem :=
  ⟨e, [s.padSeg (off (e / s.cur.sc.shape.2.1) + 4 * (e % s.cur.sc.shape.2.1)) 4],
    leBytes 4 (s.cur.acc d.toNat (e / s.cur.sc.shape.2.1) (e % s.cur.sc.shape.2.1))⟩

section
variable {s : State} {d a b : Reg} {off : Nat → Nat} (h : s.TileStore d a b off)
include h

/-- With no bit noted as written the store is the same. -/
theorem State.TileStore.unwritten : s.unwritten.TileStore d a b off :=
  ⟨h.ready, h.owned, h.idle, h.base, h.pitch, h.rows, h.fits, h.window⟩

theorem State.TileStore.tileBad : tileBad s.cur.sc a b = false := by
  have ha : (s.cur.sc.reg a).toNat % 4 = 0 := h.base
  have hb : (s.cur.sc.reg b).toNat % 4 = 0 := h.pitch
  simp [Machine.tileBad, ha, hb]

theorem State.TileStore.tileAddr {i : Nat} (hi : i < s.cur.sc.shape.1) (j : Nat) :
    tileAddr s.cur.sc a b i j = w64 (scratchBase + (off i + 4 * j)) := by
  have hrow : s.cur.sc.reg a + w64 i * s.cur.sc.reg b = w64 (scratchBase + off i) := h.rows i hi
  rw [Machine.tileAddr, hrow, ← Nat.add_assoc]
  exact (BitVec.ofNat_add _ _).symm

theorem State.TileStore.padFits {i j : Nat} (hi : i < s.cur.sc.shape.1) (hj : j < s.cur.sc.shape.2.1) :
    s.padFits (off i + 4 * j) 4 := by
  obtain ⟨hpage, hlen⟩ := h.fits i hi
  exact ⟨by decide, by omega, by omega, h.window⟩

/-- The checks of an element pass. -/
theorem State.TileStore.element_run {e : Nat} (he : e < s.cur.sc.shape.1 * s.cur.sc.shape.2.1) :
    (do
      let gs ← alignedSegs (Machine.tileBad s.cur.sc a b) (s.cur.sc.reg a)
        [(Machine.tileAddr s.cur.sc a b (e / s.cur.sc.shape.2.1) (e % s.cur.sc.shape.2.1), 4)] accMxSt e
      soundAt [a, b] e
      if s.cur.accPoison d.toNat (e / s.cur.sc.shape.2.1) (e % s.cur.sc.shape.2.1) then
        raiseAt cPOISON (w64 (0x1000 + 64 * (e / s.cur.sc.shape.2.1) + e % s.cur.sc.shape.2.1)) 1 e
      else pure ⟨e, gs, leBytes 4 (s.cur.acc d.toNat (e / s.cur.sc.shape.2.1) (e % s.cur.sc.shape.2.1))⟩ : M VElem) s =
      .ok (s.tileElem d off e) s := by
  have hpos : 0 < s.cur.sc.shape.2.1 := Nat.pos_of_ne_zero fun h0 => by simp [h0] at he
  have hi : e / s.cur.sc.shape.2.1 < s.cur.sc.shape.1 := Nat.div_lt_of_lt_mul (Nat.mul_comm _ _ ▸ he)
  have hclean : ¬ s.cur.accPoison d.toNat (e / s.cur.sc.shape.2.1) (e % s.cur.sc.shape.2.1) = true := by
    rw [Strand.accPoison, h.ready.clean]
    exact Bool.false_ne_true
  rw [h.tileBad, h.tileAddr hi, bind_ok ((h.padFits hi (Nat.mod_lt e hpos)).alignedSegs (by decide) _ e),
    bind_ok (h.ready.1.soundAt_run [a, b] e), if_neg hclean]
  rfl

theorem State.TileStore.check_run : (do
    needTile (.mxSt d a b) d
    Machine.ready a
    Machine.ready b
    checkBusy d : M Unit) s = .ok ⟨⟩ s := by
  obtain ⟨hq, -⟩ := h.ready
  rw [bind_ok (needTile_run h.owned), bind_ok (ready_of_writable (hq.writable a)), bind_ok (ready_of_writable (hq.writable b)),
    checkBusy_run h.idle]

/-- `mx.st` waits while the platform has no room, wherever its rows lie. -/
theorem State.TileStore.exec_of_no_room (hh : s.cur.handed = none) (hheld : s.held = true) (hroom : ∀ n, s.platRoom n = false) :
    exec (.mxSt d a b) s = .next s.unwritten.setWaiting := by
  have hu := h.unwritten
  obtain ⟨hq, -, hring, -⟩ := hu.ready
  have hseen : s.unwritten.cur.tilesSeen = s.unwritten.cur := by
    unfold Strand.tilesSeen
    split
    · rw [if_neg (by rw [hq.1]; decide)]
    · rfl
  refine (finishK_error (e := .wait) (h.ready.vecInstr_wait rfl h.check_run ?_) (fun _ h => Stop.noConfusion h) :
    execMxSt d a b s = _)
  rw [bind_ok (unfenced_run (hq.fenced false true false)), bind_ok (get_run _)]
  dsimp only
  rw [hseen]
  exact storeAll_of_no_room hq.notAhead hring hh hheld hroom false _ fun e he =>
    hu.element_run (List.mem_range.1 (List.mem_filter.1 he).1)

end

/-! ### The counterexample -/

/-- The strand of `platformOverfull` with a tile, and with a shape of one accumulator; s5 holds a pitch of 0. Another strand's effect
fills the platform. -/
def tileOverfull : State :=
  { platformOverfull with
    quad := packOverfull.quad
    cur := { platformOverfull.cur with ntiles := 1, sc := { platformOverfull.cur.sc with tshape := w64 (1 + 256 * 1) } } }

theorem tileOverfull_store : tileOverfull.TileStore 0 4 5 (fun _ => 0) where
  ready := by
    dsimp only [State.VecReady, State.Quiet]
    and_intros <;> decide
  owned := by decide
  idle := by decide
  base := by decide
  pitch := by decide
  rows := by decide
  fits := by decide
  window := by decide

theorem tileOverfull_no_room (n : Nat) : tileOverfull.platRoom n = false := packOverfull_no_room n

/-- Refutes O32: with the platform of its quad over full, which the conditions allow, `mx.st` of one accumulator to the scratchpad
waits and completes nothing. -/
theorem not_tileResults : ¬ Obligations.TileResults := by
  unfold Obligations.TileResults
  rintro ⟨-, hmemory⟩
  have h := tileOverfull_store
  obtain ⟨-, hstore⟩ := hmemory 0 4 5 tileOverfull (fun _ => 0) h.ready h.owned (by decide) (by decide) (by decide) h.base h.pitch
    h.rows
  obtain ⟨u, hnext, -, hsc, -⟩ := hstore h.fits h.window h.idle (by decide) (by decide)
    [lineOf (scratchKey tileOverfull.cur.ident.quad tileOverfull.cur.ident.abase)] (by decide) (by decide) (by decide)
  rw [h.exec_of_no_room rfl rfl tileOverfull_no_room] at hnext
  cases hnext
  obtain ⟨hq, -⟩ := h.unwritten.ready
  rw [hq.setWaiting_sc rfl] at hsc
  exact absurd (congrArg Scalar.icount hsc) (by decide)

end Sys2Proof.Machine
end

section
/-! A tensor store with a full platform (R216, R217, R222, R413). `tn.tst` checks its window and reads the rows, and then waits while its
quad's platform has no room for what it hands over. The conditions under which `Obligations.TensorTransfers` lets it complete say
nothing of the platform. -/

namespace Sys2Proof.Machine

/-! ### A window of the strand's allotment (R214) -/

/-- A piece, by its address and length, that lies in the strand's scratchpad allotment and in one page. -/
def State.inPad (s : State) (p : Word × Nat) : Prop := ∃ off, p.1 = w64 (scratchBase + off) ∧ s.padFits off p.2

/-- A tensor store of a quiet strand whose origin record, window w and target rows lie in the strand's scratchpad allotment, as R214 has
them. -/
structure State.WindowStore (s : State) (d a b : Reg) (t : Nat × List Byte) (ro : Nat) (w : Win) : Prop where
  quiet   : s.Quiet
  held    : s.cur.tids.find? (fun t => t.1 == (s.reg a).toNat % 256) = some t
  notN4   : (descOf t.2).ty ≠ .n4
  address : s.reg b = w64 (scratchBase + ro)
  aligned : ro % 64 = 0
  plain   : s.padPlain ro 64
  offset  : (s.reg d).toNat < 2 ^ 21
  sector  : (s.reg d).toNat % 32 = 0
  rules   : firstBad (originRules (descOf t.2) (memGetN s.mem (scratchKey s.cur.ident.quad (s.cur.ident.abase + ro)) 64)) = none
  window  : winOf (descOf t.2) (memGetN s.mem (scratchKey s.cur.ident.quad (s.cur.ident.abase + ro)) 64) (s.reg d).toNat = w
  small   : 32 * w.s * w.rows ≤ 65536
  within  : w.stop ≤ s.cur.ident.alen
  rows    : ∀ r < w.rows, s.padPlain (w.rowOff r) (32 * w.s)
  wide    : 0 < w.s
  sources : ∀ q ∈ w.pieces, s.padPlain (w.rowOff q.1 + q.2.1 * w.t.size) q.2.2.2
  targets : ∀ q ∈ w.pieces, s.inPad (q.2.2.1, q.2.2.2)

/-- Pieces of the strand's allotment that are only written pass the checks, and none of them is read. -/
theorem State.segsMixed_writes {s : State} : ∀ ps : List (Word × Nat),
    (∀ p ∈ ps, s.inPad p) →
    State.segsMixed (ps.map (fun p => (p, accTnWr))) s none [] = (.ok [], s)
  | [], _ => rfl
  | p :: ps, h => by
    obtain ⟨off, hva, hfits⟩ := h p List.mem_cons_self
    have hseg := hfits.segOf (a := accTnWr) (by decide)
    rw [← hva] at hseg
    simp only [List.map_cons, State.segsMixed, hseg]
    exact State.segsMixed_writes ps fun q hq => h q (List.mem_cons_of_mem _ hq)

/-- A piece within a page is not cut. -/
theorem State.piecesOf_fits {s : State} : ∀ ps : List (Word × Nat),
    (∀ p ∈ ps, s.inPad p) → piecesOf ps = ps
  | [], _ => rfl
  | (va, n) :: ps, h => by
    obtain ⟨off, rfl, hfits⟩ := h (va, n) List.mem_cons_self
    rw [hfits.piecesOf_cons, State.piecesOf_fits ps fun q hq => h q (List.mem_cons_of_mem _ hq)]

theorem checkPieces_writes {s : State} {ps : List (Word × Nat)}
    (h : ∀ p ∈ ps, s.inPad p) : checkPieces [] ps s = .ok [] s := by
  have hmixed := State.segsMixed_writes ps h
  unfold checkPieces
  rw [bind_ok (get_run s), State.piecesOf_fits ps h]
  simp only [piecesOf, List.flatMap_nil, List.map_nil, List.nil_append, hmixed]
  rfl

section
variable {s : State} {d a b : Reg} {t : Nat × List Byte} {ro : Nat} {w : Win} (h : s.WindowStore d a b t ro w)
include h

theorem State.WindowStore.windowFor_run : windowFor d a b s = .ok (w, s.reg b) s := by
  have hva := toNat_scratch (h.plain.fits (by decide)).off_lt
  have hoff : ¬ (bitsOf (s.reg d) 63 21 ≠ 0 ∨ (s.reg d).toNat % 32 ≠ 0) := by
    rw [bitsOf, Nat.div_eq_of_lt h.offset]
    exact not_or.2 ⟨not_not.2 (Nat.zero_mod _), not_not.2 h.sector⟩
  have haligned : ¬ (s.reg b).toNat % 64 ≠ 0 := by
    have := h.aligned
    rw [h.address, hva]
    unfold scratchBase
    omega
  have hread := readStruct_pad h.quiet h.plain (by decide) (a := accTnRd) (by decide) [a, b, d]
  rw [← h.address] at hread
  have hfits : ¬ w.tooBig s.cur.ident.alen = true := by
    simp [Win.tooBig, h.small, h.within]
  unfold windowFor
  rw [bind_ok h.quiet.tnReady_run, bind_ok (tensorId_of_readable (h.quiet.readable a)), bind_ok (rv_of_readable (h.quiet.readable b)),
    bind_ok (rv_of_readable (h.quiet.readable d)), bind_ok (tensor_of_held h.held)]
  dsimp only
  rw [if_neg h.notN4, if_neg hoff, if_neg haligned, bind_ok hread, h.rules]
  dsimp only
  rw [bind_ok (get_run s), h.window, if_neg hfits]
  rfl

/-- The rows that are written and COUNT pass the checks. -/
theorem State.WindowStore.targets_run :
    checkPieces [] (w.pieces.map (fun p => (p.2.2.1, p.2.2.2)) ++ [(s.reg b + 0x28, 8)]) s = .ok [] s := by
  refine checkPieces_writes fun p hp => ?_
  rcases List.mem_append.1 hp with hp | hp
  · obtain ⟨q, hq, rfl⟩ := List.mem_map.1 hp
    exact h.targets q hq
  · obtain ⟨hpage, hlen, halen, -⟩ := h.plain
    have hro := h.aligned
    rw [List.mem_singleton.1 hp]
    refine ⟨ro + 0x28, ?_, Nat.succ_pos 7, by omega, by omega, halen⟩
    rw [h.address, ← Nat.add_assoc]
    exact (BitVec.ofNat_add _ _).symm

/-- The rows of the window in the scratchpad are translated. -/
theorem State.WindowStore.rows_run : (List.range w.rows).mapM (fun r => segsM (w64 (scratchBase + w.rowOff r)) (32 * w.s) accTnRd 0) s =
    .ok ((List.range w.rows).map (fun r => [s.padSeg (w.rowOff r) (32 * w.s)])) s := by
  have hwide := h.wide
  exact mapM_run _ fun r hr => ((h.rows r (List.mem_range.1 hr)).fits (by omega)).segsM (by decide) 0

theorem State.WindowStore.rows_unmarked (rst : Nat) :
    turnCheck ((List.range w.rows).map (fun r => [s.padSeg (w.rowOff r) (32 * w.s)])).flatten rst s = .ok ⟨⟩ s := by
  refine turnCheck_run (fun g hg => ?_) rst
  obtain ⟨gs, hgs, hg⟩ := List.mem_flatten.1 hg
  obtain ⟨r, hr, rfl⟩ := List.mem_map.1 hgs
  rw [List.mem_singleton.1 hg]
  exact (h.rows r (List.mem_range.1 hr)).segFail

/-- The inside bytes of the rows, as the scratchpad holds them. -/
theorem State.WindowStore.bytes_run : w.pieces.mapM (storeRow w) s = .ok (w.pieces.map (fun q => (q.2.2.1,
    (memGetN s.mem (scratchKey s.cur.ident.quad (s.cur.ident.abase + (w.rowOff q.1 + q.2.1 * w.t.size))) q.2.2.2).map
      (fun b => (b, false))))) s := by
  refine mapM_run _ fun q hq => ?_
  have hp := h.sources q hq
  obtain ⟨-, -, hpos, -⟩ := h.targets q hq
  have hread : [s.padSeg (w.rowOff q.1 + q.2.1 * w.t.size) q.2.2.2].mapM (readSegB 0) s = .ok [_] s := bind_ok (hp.readSegB 0)
  unfold storeRow
  rw [Nat.add_assoc scratchBase, bind_ok ((hp.fits hpos).segsM (by decide) 0), bind_ok hread]
  simp

/-- `tn.tst` of such a window waits while the platform has no room. -/
theorem State.WindowStore.exec_of_no_room (hh : s.cur.handed = none) (hnote : s.cur.note = none) (hheld : s.held = true)
    (hroom : ∀ n, s.platRoom n = false) : exec (.tnTst d a b) s = .next s.setWaiting := by
  refine (finishK_error (e := .wait) (u := s) ?_ (fun _ h => Stop.noConfusion h) : execTnTst d a b s = _)
  unfold tnStore
  rw [bind_ok (get_run s), hnote]
  refine (bind_ok h.windowFor_run).trans ?_
  dsimp only
  rw [bind_ok h.targets_run, bind_ok h.rows_run, bind_ok (h.rows_unmarked 0), bind_ok h.bytes_run,
    bind_error (platform_of_no_room hh hheld (hroom _))]

end

/-! ### The counterexample -/

/-- An origin record: the 32 elements of a row from the first one on. -/
def rowOrigin : List Byte :=
  List.replicate 24 0 ++ leBytes 2 32 ++ leBytes 2 1 ++ leBytes 2 1 ++ leBytes 2 1 ++ leBytes 2 1 ++ List.replicate 30 0

theorem rowOrigin_length : rowOrigin.length = 64 := by decide

/-- The record at offset 256 of the scratchpad of quad 0. -/
def rowMemory : Memory := memSetN [] (scratchKey 0 256) rowOrigin

theorem rowMemory_wf : rowMemory.wf = true := wf_memSetN rowOrigin (m := []) (scratchKey 0 256) rfl

theorem rowMemory_origin : memGetN rowMemory (scratchKey 0 256) 64 = rowOrigin := by
  have h := memGetN_memSetN rowOrigin (m := []) (scratchKey 0 256) rfl
  rwa [rowOrigin_length] at h

/-- The strand of `packOverfull`, with `rowOrigin` at offset 256 of the scratchpad: s3 names the tensor of 32 elements, s4 the record, and
s5 a window at offset 512. -/
def windowOverfull : State :=
  { packOverfull with
    mem := rowMemory
    cur := { packOverfull.cur with
      sc := { Scalar.blank with
        regs := ((Scalar.blank.regs.set 3 (w64 3)).set 4 (w64 (scratchBase + 256))).set 5 (w64 512) } } }

theorem windowOverfull_mem : windowOverfull.mem = rowMemory := rfl

/-- The record as the statement reads it. -/
theorem windowOverfull_origin : memGetN windowOverfull.mem
    (scratchKey windowOverfull.cur.ident.quad windowOverfull.cur.ident.abase + 256) 64 = rowOrigin := rowMemory_origin

theorem windowOverfull_offset : (windowOverfull.reg 5).toNat = 512 := by decide

/-- The window of the record: one row of four sectors. -/
def rowWindow : Win := winOf (descOf elementsDesc) rowOrigin 512

theorem rowWindow_eq : winOf (descOf elementsDesc) rowOrigin 512 = rowWindow := rfl

theorem rowOrigin_rules : firstBad (originRules (descOf elementsDesc) rowOrigin) = none := by decide

theorem rowWindow_rows : rowWindow.rows = 1 := by decide

theorem rowWindow_inside : rowWindow.inside 0 = some (0, 32, w64 (scratchBase + 0)) := by decide

theorem rowWindow_pieces : rowWindow.pieces = [(0, 0, w64 (scratchBase + 0), 128)] := by decide

theorem windowOverfull_padPlain {off n : Nat} (hpage : off % 4096 + n ≤ 4096) (hlen : off + n ≤ 4096) :
    windowOverfull.padPlain off n :=
  ⟨hpage, hlen, by decide, fun _ _ => ⟨rfl, rfl, rfl⟩⟩

theorem windowOverfull_settled : windowOverfull.Settled := packOverfull_settled

theorem windowOverfull_quiet : windowOverfull.Quiet := packOverfull_quiet

theorem windowOverfull_store : windowOverfull.WindowStore 5 3 4 (3, elementsDesc) 256 rowWindow where
  quiet := windowOverfull_quiet
  held := by decide
  notN4 := by decide
  address := rfl
  aligned := by decide
  plain := windowOverfull_padPlain (by decide) (by decide)
  offset := by decide
  sector := by decide
  rules := (congrArg (fun r => firstBad (originRules (descOf elementsDesc) r)) windowOverfull_origin).trans rowOrigin_rules
  window := congrArg (fun r => winOf (descOf elementsDesc) r 512) windowOverfull_origin
  small := by decide
  within := by decide
  rows := by
    intro r hr
    rw [rowWindow_rows] at hr
    rw [Nat.lt_one_iff.1 hr]
    exact windowOverfull_padPlain (by decide) (by decide)
  wide := by decide
  sources := by
    intro q hq
    rw [rowWindow_pieces] at hq
    rw [List.mem_singleton.1 hq]
    exact windowOverfull_padPlain (by decide) (by decide)
  targets := by
    intro q hq
    rw [rowWindow_pieces] at hq
    rw [List.mem_singleton.1 hq]
    exact ⟨0, rfl, (windowOverfull_padPlain (by decide) (by decide)).fits (by decide)⟩

theorem windowOverfull_inside {r : Nat} (hr : r < rowWindow.rows) {p : Nat × Nat × Word} (hp : rowWindow.inside r = some p) :
    p = (0, 32, w64 (scratchBase + 0)) := by
  rw [rowWindow_rows] at hr
  rw [Nat.lt_one_iff.1 hr, rowWindow_inside] at hp
  exact (Option.some.inj hp).symm

/-- Refutes O39: another strand's effect fills the platform, which the conditions allow, and `tn.tst` of a row in the scratchpad waits
for room and completes nothing. -/
theorem not_tensorTransfers : ¬ Obligations.TensorTransfers := by
  unfold Obligations.TensorTransfers
  intro h
  have hw := windowOverfull_store
  have hstate := h 5 3 4 windowOverfull (3, elementsDesc) 256 (fun _ => 0) rowMemory_wf windowOverfull_settled
    (by decide) (by decide) hw.held hw.notN4 hw.address hw.aligned hw.plain
  dsimp only at hstate
  rw [windowOverfull_origin, windowOverfull_offset, rowWindow_eq] at hstate
  obtain ⟨-, hstore⟩ := hstate (by decide) (by decide) rowOrigin_rules hw.small hw.within fun r hr p hp => by
    rw [windowOverfull_inside hr hp]
    exact ⟨rfl, windowOverfull_padPlain (by decide) (by decide)⟩
  obtain ⟨u, hnext, ⟨hsc, -⟩, -⟩ := hstore hw.rows fun r hr q hq _ _ hne => by
    rw [rowWindow_rows] at hr hq
    omega
  rw [hw.exec_of_no_room rfl rfl rfl packOverfull_no_room] at hnext
  cases hnext
  rw [windowOverfull_quiet.setWaiting_sc rfl] at hsc
  exact absurd (congrArg Scalar.icount hsc) (by decide)

end Sys2Proof.Machine
end

section
/-! `vst` asks its quad's platform for room even where no piece of it is a mirror piece (R222, R223, R299, R413), as the other stores do.
The conditions under which `Obligations.VectorLoads` lets `vst` complete speak of the room in the core's outbound buffer, not of the
platform. -/

namespace Sys2Proof.Machine

/-! ### A vector store up to its platform check -/

/-- The register of an index vector may hold elements as wide as the data (R159, R239). -/
def State.spansIndex (s : State) (m : VMode) (w : Nat) : Prop := ∀ b, m = .x b → s.spans b w w

/-- Element e of a vector store, of w bits, at offset `off` of the strand's scratchpad allotment. -/
def State.padElem (s : State) (d : Reg) (w off e : Nat) : VElem :=
  ⟨e, [s.padSeg off (w / 8)], leBytes (w / 8) (s.cur.elt d.toNat w e)⟩

section
variable {s : State} (h : s.VecReady)
include h

/-- With no poisoned word an element's address is sound. -/
theorem State.VecReady.addrSound_run (a : Reg) (m : VMode) (w e : Nat) : addrSound s.cur a m w e s = .ok ⟨⟩ s := by
  unfold addrSound
  rw [bind_ok (h.1.soundAt_run (addrRegs a m) e)]
  cases m with
  | u => rfl
  | s b => rfl
  | x b =>
    simp only [h.rdE]
    rfl

theorem State.VecReady.soundIdle_run (rs : List Reg) : soundIdle rs s = .ok ⟨⟩ s := by
  unfold soundIdle
  rw [bind_ok (get_run s)]
  split
  · exact h.1.soundAt_run rs 0
  · rfl

theorem State.VecReady.readyAll_run : ∀ rs : List Reg, rs.forM Machine.ready s = .ok ⟨⟩ s
  | [] => rfl
  | r :: rs => (bind_ok (ready_of_writable (h.1.writable r))).trans (State.VecReady.readyAll_run rs)

/-- The checks of a vector memory form pass where its groups hold its elements (R45, R159). -/
theorem State.VecReady.vmemCheck_run {t : ETy} (ht : etyOfCode (modeETA s.cur.sc.md) = some t) (hmove : etyMove t = true) {d : Reg}
    (hd : s.spans d (etyBits t) (etyBits t)) (hvlc : s.holdsVlc (etyBits t)) {m : VMode} (hm : s.spansIndex m (etyBits t))
    (i : Instr) (a : Reg) (st : Bool) : vmemCheck i d a m st s = .ok ⟨⟩ s := by
  have ⟨_, _, hring, _⟩ := h
  unfold vmemCheck
  rw [bind_ok (needETA_of_ok ht hmove), bind_ok (vGroups_run hring hvlc ?groups i), h.readyAll_run]
  case groups =>
    intro o ho
    rcases List.mem_append.1 ho with ho | ho
    · rw [List.mem_singleton.1 ho]
      exact VOp.bad_of_spans hd _
    · cases m with
      | u => exact absurd ho List.not_mem_nil
      | s b => exact absurd ho List.not_mem_nil
      | x b =>
        rw [List.mem_singleton.1 ho]
        exact VOp.bad_of_spans (hm b rfl) _

/-- An element of a store that lies in the scratchpad passes its checks. -/
theorem State.VecReady.storeElt_run {d a : Reg} {m : VMode} {w e off : Nat} (haddr : elemAddr s.cur a m w e = w64 (scratchBase + off))
    (hfits : s.padFits off (w / 8)) :
    storeElt s.cur d a m w e s = .ok (s.padElem d w off e) s := by
  unfold storeElt
  rw [haddr, bind_ok (hfits.segsM (by decide) e), bind_ok (h.addrSound_run a m w e)]
  simp only [h.rdE]
  rfl

end

/-- A vector store of a ready strand whose active elements, which `off` places, lie in the strand's scratchpad allotment. -/
structure State.PadStore (s : State) (t : ETy) (d a : Reg) (m : VMode) (off : Nat → Nat) : Prop where
  ready : s.VecReady
  type  : etyOfCode (modeETA s.cur.sc.md) = some t
  move  : etyMove t = true
  data  : s.spans d (etyBits t) (etyBits t)
  index : s.spansIndex m (etyBits t)
  vlc   : s.holdsVlc (etyBits t)
  addr  : ∀ e ∈ s.cur.working, elemAddr s.cur a m (etyBits t) e = w64 (scratchBase + off e)
  fits  : ∀ e ∈ s.cur.working, s.padFits (off e) (etyBits t / 8)

section
variable {s : State} {t : ETy} {d a : Reg} {m : VMode} {off : Nat → Nat} (h : s.PadStore t d a m off)
include h

/-- With no bit noted as written the store is the same. -/
theorem State.PadStore.unwritten : s.unwritten.PadStore t d a m off :=
  ⟨h.ready, h.type, h.move, h.data, h.index, h.vlc, h.addr, h.fits⟩

/-- A vector store waits while the platform has no room, whatever its address mode. -/
theorem State.PadStore.vstForm_of_no_room {i : Instr} (hb : vBlock s.cur i = .no) (hh : s.cur.handed = none) (hheld : s.held = true)
    (hroom : ∀ n, s.platRoom n = false) (eo : Bool) : vstForm i d a m eo s = .error .wait s.unwritten := by
  have hu := h.unwritten
  have hr := hu.ready
  obtain ⟨hq, -, hring, -⟩ := hu.ready
  refine h.ready.vecInstr_wait hb (h.ready.vmemCheck_run h.type h.move h.data h.vlc h.index i a true) ?_
  rw [bind_ok (vpWidth_run hu.type), bind_ok (hr.waitSources_run _), bind_ok (unfenced_run (hq.fenced false true false)),
    bind_ok hr.readGuard_run, bind_ok (get_run _), hq.headEntry]
  dsimp only [Option.bind_none]
  rw [bind_ok (hr.soundIdle_run _)]
  refine storeAll_of_no_room hq.notAhead hring hh hheld hroom eo _ (g := fun e => s.unwritten.padElem d (etyBits t) (off e) e)
    fun e he => ?_
  rw [hr.guardPoison, if_neg Bool.false_ne_true]
  exact hr.storeElt_run (hu.addr e he) (hu.fits e he)

theorem State.PadStore.exec_vstU_of_no_room (hm : m = .u) (hh : s.cur.handed = none) (hheld : s.held = true)
    (hroom : ∀ n, s.platRoom n = false) (eo ov : Bool) : exec (.vstU d a eo ov) s = .next s.unwritten.setWaiting := by
  subst hm
  exact finishK_error (e := .wait) (h.vstForm_of_no_room rfl hh hheld hroom eo) (fun _ h => Stop.noConfusion h)

end

/-! ### The counterexample -/

/-- The strand of `platformOverfull` under ETA = I32 and VLC = 1, whose s4 holds the address of the scratchpad's first byte. Another
strand's effect fills the platform. -/
def vectorOverfull : State :=
  { platformOverfull with
    quad := packOverfull.quad
    cur := { platformOverfull.cur with sc := { platformOverfull.cur.sc with mode := 32, vlc := 1 } } }

theorem vectorOverfull_no_room (n : Nat) : vectorOverfull.platRoom n = false := packOverfull_no_room n

theorem vectorOverfull_store : vectorOverfull.PadStore .i32 5 4 .u (fun _ => 0) where
  ready := by
    dsimp only [State.VecReady, State.Quiet]
    and_intros <;> decide
  type := by decide
  move := by decide
  data := by
    dsimp only [State.spans]
    and_intros <;> decide
  index := nofun
  vlc := by
    dsimp only [State.holdsVlc]
    decide
  addr := by decide
  fits := by
    intro e _
    dsimp only [State.padFits]
    and_intros <;> decide

/-- Refutes O29: with the platform of its quad over full, which the conditions allow, `vst` of one element to the scratchpad waits
and completes nothing. -/
theorem not_vectorLoads : ¬ Obligations.VectorLoads := by
  unfold Obligations.VectorLoads
  rintro ⟨-, hstores⟩
  have h := vectorOverfull_store
  obtain ⟨hunit, -⟩ := hstores 5 4 4 false false vectorOverfull .i32 h.ready h.type (by decide) h.data h.vlc (by decide) (by decide)
    (by decide)
  obtain ⟨u, hnext, -, hsc, -⟩ := hunit (fun _ => 0) [lineOf (scratchKey vectorOverfull.cur.ident.quad vectorOverfull.cur.ident.abase)]
    (fun e he _ => by
      obtain rfl : e = 0 := Nat.lt_one_iff.1 he
      decide)
    (by decide) (by decide)
  rw [h.exec_vstU_of_no_room rfl rfl rfl vectorOverfull_no_room] at hnext
  cases hnext
  obtain ⟨hq, -⟩ := h.unwritten.ready
  rw [hq.setWaiting_sc rfl] at hsc
  exact absurd (congrArg Scalar.icount hsc) (by decide)

end Sys2Proof.Machine
end

section
/-! A pending grain that leaves the scratchpads (R225, R233, R234). `tr.turn` takes a grain of a scratchpad to QUAD only and carries
nothing home, for a scratchpad byte stands in its bank from then on. What `Obligations.TurnResults` asks of a pending grain is that it
has a size. A grain that begins in the scratchpad may then reach a byte beyond the scratchpads, which stays in the quad outbound
cache. -/

namespace Sys2Proof.Machine

/-! ### The counterexample -/

/-- An un-turned byte of strand 1 in the buffer of core 0: the first byte beyond the scratchpads. -/
def farByte : OutB := ⟨some 0, 2 ^ 54, 1, false, [1], ⟨scratchBase, 32, false, 0, 0⟩, none, false⟩

/-- A grain from the first byte of quad 0's scratchpad to `farByte`. -/
def farGrain : Pend := ⟨scratchKey 0 0, scratchBase, 2 ^ 52 + 1, false⟩

/-- Strand 1 with that byte and that grain, one page of scratchpad, and the region of the scratchpad's first byte in s3 and s4. Its effects
take place as they are handed over. -/
def farStored : State :=
  { State.reset with
    split := false
    cur := { Strand.absent with
      uid := 1, status := .running, ident := { Ident.blank with alen := 4096 }, pend := [farGrain]
      sc := { Scalar.blank with regs := (Scalar.blank.regs.set 3 (w64 scratchBase)).set 4 1 } }
    quad := { Quad.empty 0 with d := { QuadData.empty with out := [farByte] } } }

theorem farStored_quiet : farStored.Quiet := by
  dsimp only [State.Quiet]
  and_intros <;> decide

/-- The byte belongs to the grain. -/
theorem farByte_within : farGrain.key ≤ farByte.key ∧ farByte.key < farGrain.key + farGrain.size := by decide

/-- The region is the sector of 32 bytes at which the grain begins. -/
theorem farStored_areas : farStored.areas scratchBase (scratchBase + 31) = [⟨scratchBase, farGrain.key, 32, false⟩] := by decide

/-- The HOME turn completes; the byte's home reads 0, and the byte is still on the outbound path. -/
theorem exec_trTurn_farStored : ∃ t, exec (.trTurn 2 3 4) farStored = .next t ∧ t.homeBytes farByte.key 1 = [0] ∧
    (stage3 t.quad.d farByte.key).map (·.val) = some farByte.val :=
  ⟨_, rfl, by decide, by decide⟩

/-- Refutes O41: a turn at HOME of the scratchpad's first sector takes the grain out of the pending set and leaves its last byte, which the
statement lets stand beyond the scratchpads, in the quad outbound cache. -/
theorem not_turnResults : ¬ Obligations.TurnResults := by
  unfold Obligations.TurnResults
  intro h
  have hone : ∀ x ∈ farStored.quad.d.out, x = farByte := fun x hx => List.mem_singleton.1 hx
  obtain ⟨-, -, -, hregion⟩ := h 2 3 4 farStored rfl farStored_quiet ⟨rfl, rfl⟩ rfl rfl nofun (by decide) rfl rfl (by decide) nofun
    (by decide)
  obtain ⟨⟨t, hturn, -, -, -, -, -, hbytes⟩, -⟩ := hregion (by decide) (by decide) (by decide) (by decide) (by decide)
  obtain ⟨-, -, hhome, -⟩ := hbytes farGrain List.mem_cons_self
    ⟨⟨scratchBase, farGrain.key, 32, false⟩, by decide, by decide⟩ farByte List.mem_cons_self rfl List.mem_cons_self
    farByte_within.1 farByte_within.2 (fun y hy _ => hone y hy) (fun y hy _ => by rw [hone y hy])
  obtain ⟨u, hrun, hzero, -⟩ := exec_trTurn_farStored
  obtain rfl : u = t := Host.Outcome.next.inj (hrun.symm.trans hturn)
  exact absurd (hzero.symm.trans (hhome (.inl (by decide)))) (by decide)

end Sys2Proof.Machine
end

section
/-! Where a strand that can take no trap ends (R264, R395): the fault-queue entry changes no strand, and the end of a strand keeps its
scalar state. -/

namespace Sys2Proof.Machine

/-! ### The fault-queue entry -/

theorem State.interrupt_cur (s : State) (vec : Nat) : (s.interrupt vec).cur = s.cur := by
  unfold State.interrupt
  split_ifs <;> rfl

theorem State.fqPut_cur (s : State) (p : Part) (bs : List Byte) : (s.fqPut p bs).cur = s.cur := by
  unfold State.fqPut
  extract_lets t k s1
  split_ifs
  · exact (State.interrupt_cur _ _).trans (s.memWrite_cur _ _)
  · exact s.memWrite_cur _ _

theorem State.fqWrite_cur (s : State) (pid : Nat) (bs : List Byte) : (s.fqWrite pid bs).cur = s.cur := by
  unfold State.fqWrite
  split
  · rfl
  · split_ifs
    · rfl
    · rfl
    · exact s.fqPut_cur _ _

theorem State.fqFor_cur (s : State) (pid : Nat) (bs : List Byte) : (s.fqFor pid bs).cur = s.cur := by
  unfold State.fqFor
  split_ifs
  · rfl
  · exact s.fqWrite_cur pid bs

/-! ### The end of the current strand -/

/-- A strand that exists answers to its name. -/
theorem State.strand?_cur {s : State} (h : s.cur.status ≠ .absent) : s.strand? s.cur.uid = some s.cur := if_pos ⟨rfl, h⟩

/-- The current strand keeps its name and its scalar state when a strand begins to end, and ends when it is that strand. -/
theorem State.beginEnd_cur {s : State} (h : s.cur.status ≠ .absent) (u : Nat) :
    (s.beginEnd u).cur.uid = s.cur.uid ∧ (s.beginEnd u).cur.sc = s.cur.sc ∧
      (s.beginEnd u).cur.status = if s.cur.uid = u then .ending else s.cur.status := by
  unfold State.beginEnd
  by_cases hu : s.cur.uid = u
  · subst hu
    rw [State.strand?_cur h, if_pos rfl]
    simp [State.modStrand, State.modPart, h]
  · rw [if_neg hu]
    split
    · exact ⟨rfl, rfl, rfl⟩
    · simp [State.modStrand, State.modPart, hu]

/-- Of some strands that begin to end one after another, the current one ends when it is among them. -/
theorem State.foldl_beginEnd_cur (us : List Nat) {s : State} (h : s.cur.status ≠ .absent) :
    (us.foldl (fun s u => s.beginEnd u) s).cur.sc = s.cur.sc ∧
      (us.foldl (fun s u => s.beginEnd u) s).cur.status = if s.cur.uid ∈ us then .ending else s.cur.status := by
  induction us generalizing s with
  | nil => exact ⟨rfl, rfl⟩
  | cons u us ih =>
    obtain ⟨huid, hsc, hst⟩ := State.beginEnd_cur h u
    have hlive : (s.beginEnd u).cur.status ≠ .absent := by
      rw [hst]
      split_ifs
      · decide
      · exact h
    obtain ⟨hsc', hst'⟩ := ih hlive
    refine ⟨hsc'.trans hsc, hst'.trans ?_⟩
    rw [huid, hst]
    by_cases hu : s.cur.uid = u <;> simp [hu]

/-- A running strand is among those of its crew that have not retired. -/
theorem State.uid_mem_liveOf {s : State} (h : s.cur.status = .running) :
    s.cur.uid ∈ (s.liveOf s.cur.ident.crew).map (·.uid) :=
  List.mem_map.2 ⟨s.cur, by simp [State.liveOf, State.all, h], rfl⟩

/-- A running strand that is terminated has only to finish, and its scalar state stays as it was (R264, R395). -/
theorem State.terminate_cur {s : State} (h : s.cur.status = .running) (t : Trap) :
    (s.terminate t).cur.sc = s.cur.sc ∧ (s.terminate t).cur.status = .ending := by
  unfold State.terminate
  extract_lets launch s1 sibs
  have hcur : s1.cur = s.cur := s.fqFor_cur _ _
  have hrun : s1.cur.status = .running := hcur ▸ h
  have hmem : s1.cur.uid ∈ sibs := by
    have hlive := State.uid_mem_liveOf hrun
    rwa [congrArg (·.ident.crew) hcur] at hlive
  obtain ⟨hsc, hst⟩ := State.foldl_beginEnd_cur sibs (s := s1) (by simp [hrun])
  exact ⟨hsc.trans (congrArg Strand.sc hcur), hst.trans (if_pos hmem)⟩

/-! ### Trap entry -/

theorem State.trapEntry_of_ends {s : State} (h : s.cur.sc.tnest = 3 ∨ s.cur.sc.trbase = 0) (t : Trap) : s.trapEntry t = s.terminate t :=
  if_pos h

/-- Trap entry names the restart element, and leaves vector registers, accumulators, masks and queues alone (R393). -/
theorem State.trapEntry_cur {s : State} (t : Trap) (hnest : s.cur.sc.tnest ≠ 3) (hbase : s.cur.sc.trbase ≠ 0) :
    (s.trapEntry t).cur = { s.cur with
      sc := s.cur.sc.enter t, rstix := BitVec.ofNat 16 t.rst, handed := none, vat := none, owedMis := [], note := none, syncWait := false,
      deadline := none } :=
  congrArg State.cur (if_neg (not_or.2 ⟨hnest, hbase⟩))

/-- Settles O21: a trap that is taken is `Scalar.enter` of the scalar state, and one that cannot be taken terminates the strand. -/
theorem trapEntryWrites : Obligations.TrapEntryWrites := by
  unfold Obligations.TrapEntryWrites
  constructor
  case left =>
    intro s t hnest hbase
    obtain ⟨-, hmem, hquad⟩ := trapEntry_eq t hnest hbase
    unfold TrapTaken
    rw [State.trapEntry_cur t hnest hbase, hmem, hquad]
    and_intros <;> rfl
  case right =>
    intro s t hrun hends
    obtain ⟨hsc, hst⟩ := State.terminate_cur hrun t
    rw [State.trapEntry_of_ends hends, hsc, hst]
    exact ⟨rfl, rfl, rfl, rfl⟩

end Sys2Proof.Machine
end

section
/-! A poisoned byte on the outbound path (R255, R291, R398). `ln.go` reads its block before it tests the block's alignment, and a byte
that stands in the buffer of the strand's core is read there. What `Obligations.LaunchResults` asks of a misaligned block is that the
scratchpad holds no poison under it. -/

namespace Sys2Proof.Machine

/-! ### The counterexample -/

/-- A poisoned byte that strand 2 has stored and turned, in the buffer of core 0: the second byte of quad 0's scratchpad. -/
def poisonedByte : OutB := ⟨some 0, scratchKey 0 1, 0, true, [2], ⟨scratchBase, 32, false, 0, 0⟩, none, true⟩

/-- Partition 1, which has quad 0. -/
def launcherPart : Part := { Part.blank 1 with setUp := true, quads := [0] }

/-- Strand 1 on core 0 with one page of scratchpad, and a block in s3 that begins at the poisoned byte. -/
def poisonedLaunch : State :=
  { State.reset with
    cur := { Strand.absent with
      uid := 1, status := .running, ident := { Ident.blank with part := 1, alen := 4096 }
      sc := { Scalar.blank with trbase := 0x8000, regs := Scalar.blank.regs.set 3 (w64 (scratchBase + 1)) } }
    quad := { Quad.empty 0 with d := { QuadData.empty with out := [poisonedByte] } }
    parts := [launcherPart] }

theorem poisonedLaunch_settled : poisonedLaunch.Settled := by
  dsimp only [State.Settled, State.Quiet]
  and_intros <;> decide

/-- The read of the block meets the poisoned byte and raises POISON. -/
theorem exec_lnGo_poisonedLaunch : ∃ t, exec (.lnGo 2 3) poisonedLaunch = .next t ∧ t.cur.sc.ecause = BitVec.ofNat 8 cPOISON :=
  ⟨_, rfl, by decide⟩

/-- Refutes O49: its clause on a misaligned block lets the buffer of the strand's core hold a poisoned byte of the block. `ln.go` reads
the block with the checks of a load before it tests the alignment (R255), so it raises POISON (R398) and not LAUNCH. -/
theorem not_launchResults : ¬ Obligations.LaunchResults := by
  unfold Obligations.LaunchResults
  intro h
  obtain ⟨-, hmisaligned, -⟩ := h 2 3 poisonedLaunch launcherPart poisonedLaunch_settled rfl rfl
  have hlaunch := hmisaligned 1 rfl (by decide) (by decide) (by decide) (fun _ _ => rfl)
  obtain ⟨t, hpoison, hcause⟩ := exec_lnGo_poisonedLaunch
  obtain rfl : t = _ := Host.Outcome.next.inj (hpoison.symm.trans hlaunch)
  exact absurd hcause (by decide)

end Sys2Proof.Machine
end

section
/-! An arrival at a barrier of DIE scope or wider (R280, R285). It may complete the barrier's phase, but where effects wait on their
platform the strand's record learns of it only by BARRIER_PHASE_DELIVERY. `Obligations.BarrierResults` says for every scope and every
state that the record is complete at once. -/

namespace Sys2Proof.Machine

/-! ### The record that an arrival leaves -/

theorem Strand.noteArrival_of_none {x : Strand} {b : Nat} (h : x.barRec b = none) :
    x.noteArrival b = { x with barRecs := ⟨b, none, false, 0⟩ :: x.barRecs } := by
  unfold Strand.noteArrival
  rw [h]

/-- A strand without a record gets an open one, of the phase in which its arrival is counted (R282). -/
theorem Strand.barRec_takePhase_noteArrival {x : Strand} {b : Nat} (h : x.barRec b = none) (phase : BitVec 32) :
    ((x.noteArrival b).takePhase b phase).barRec b = some ⟨b, some phase, false, 0⟩ := by
  rw [Strand.noteArrival_of_none h]
  simp [Strand.takePhase, Strand.barRec]

/-- What a change of the current strand and its copies does to the current strand. -/
theorem State.modStrandAll_cur {s : State} {uid : Nat} (huid : s.cur.uid = uid) (hlive : s.cur.status ≠ .absent)
    (f : Strand → Strand) : (s.modStrandAll uid f).cur = f s.cur := by
  have hfind : s.strand? uid = some s.cur := if_pos ⟨huid, hlive⟩
  have hmod : s.modStrand uid f = { s with cur := f s.cur } := if_pos ⟨huid, hlive⟩
  unfold State.modStrandAll
  rw [hfind]
  refine (State.modQuad_keeps (g := State.cur) (fun _ _ _ => rfl) _ _ _).trans ?_
  rw [hmod]

/-- The barrier that a number names has that number. -/
theorem State.bar_id (s : State) (b : Nat) : (s.bar b).id = b := by
  have hfound (l : List Barrier) : ((l.find? (fun x => x.id == b)).getD (Barrier.zero b)).id = b := by
    cases h : l.find? (fun x => x.id == b) with
    | none => rfl
    | some x => simpa using List.find?_some h
  unfold State.bar
  split
  · exact hfound _
  · exact hfound _

theorem State.setBar_cur (s : State) (x : Barrier) : (s.setBar x).cur = s.cur := by
  unfold State.setBar
  split
  · exact State.modQuad_keeps (g := State.cur) (fun _ _ _ => rfl) _ _ _
  · rfl

/-- Where effects travel step by step, the phases that a wide barrier completes reach no strand at once (R285, log 6). -/
theorem State.settleBar_of_split {s : State} (hsplit : s.split = true) {x : Barrier} (hwide : 2 < barScope x.id) :
    s.settleBar x = s.setBar x.settle := by
  have hheld : s.held = true := by simp [State.held, hsplit]
  unfold State.settleBar
  rw [hheld, decide_eq_false (Nat.not_le.2 hwide)]
  rfl

/-- There an arrival at a wide barrier gives the strand the current PHASE, and does no more to it. -/
theorem State.arriveAt_cur_of_split {s : State} (hsplit : s.split = true) {b : Nat} (hwide : 2 < barScope b) (uid : Nat) :
    (s.arriveAt uid b).cur = (s.modStrandAll uid (Strand.takePhase b (s.bar b).phase)).cur := by
  have hsplit' : (s.modStrandAll uid (Strand.takePhase b (s.bar b).phase)).split = true :=
    (State.modStrandAll_keeps (g := State.split) (fun _ _ _ => rfl) (fun _ _ => rfl) (fun _ _ _ => rfl) _ _ _).trans hsplit
  have hwide' : 2 < barScope (s.bar b).id := by rwa [s.bar_id b]
  unfold State.arriveAt
  dsimp only
  rw [if_neg (Nat.not_le.2 hwide), State.settleBar_of_split hsplit', State.setBar_cur]
  exact hwide'

/-- An arrival of the current strand at a wide barrier leaves its new record open, whether or not it completes the phase. -/
theorem State.barRec_arriveAt_of_split {s : State} (hsplit : s.split = true) (hlive : s.cur.status ≠ .absent) {b : Nat}
    (hwide : 2 < barScope b) (hnone : s.cur.barRec b = none) :
    ((s.modCur (fun y => y.noteArrival b)).arriveAt s.cur.uid b).cur.barRec b = some ⟨b, some (s.bar b).phase, false, 0⟩ := by
  have hnote : (s.modCur (fun y => y.noteArrival b)).cur = _ := Strand.noteArrival_of_none hnone
  have huid : (s.modCur (fun y => y.noteArrival b)).cur.uid = s.cur.uid := by rw [hnote]
  have hlive' : (s.modCur (fun y => y.noteArrival b)).cur.status ≠ .absent := by rwa [hnote]
  rw [State.arriveAt_cur_of_split (s := s.modCur _) hsplit hwide, State.modStrandAll_cur huid hlive']
  exact Strand.barRec_takePhase_noteArrival hnone _

/-! ### The counterexample -/

/-- The barrier of DIE scope with id 0, on die 0. -/
def dieBar : Nat := 3 * 2 ^ 20

/-- Strand 1 of a partition that has one barrier of DIE scope. The barrier's COUNT is 1, and s3 names it. As from reset on, effects wait
on their platform. -/
def dieArrival : State :=
  { State.reset with
    cur := { Strand.absent with
      uid := 1, status := .running, ident := { Ident.blank with part := 1 }
      sc := { Scalar.blank with regs := Scalar.blank.regs.set 3 (w64 0x300) } }
    parts := [{ Part.blank 1 with setUp := true, quads := [0], dieCnt := 1 }]
    wideBars := [⟨dieBar, 1, [], 0⟩] }

theorem dieArrival_settled : dieArrival.Settled := by
  dsimp only [State.Settled, State.Quiet]
  and_intros <;> decide

/-- The record of the strand that has completed the phase is still open. -/
theorem dieArrival_barRec : ((dieArrival.modCur (fun y => y.noteArrival dieBar)).arriveAt dieArrival.cur.uid dieBar).cur.barRec dieBar =
    some ⟨dieBar, some 0, false, 0⟩ :=
  State.barRec_arriveAt_of_split (s := dieArrival) rfl (by decide) (by decide) rfl

/-- Refutes O37: its clause on the record that an arrival makes holds at CORE and QUAD scope, and at a wider one only where nothing holds
effects. In `dieArrival` the arrival completes the phase of a DIE barrier, and the strand's record waits for BARRIER_PHASE_DELIVERY. -/
theorem not_barrierResults : ¬ Obligations.BarrierResults := by
  unfold Obligations.BarrierResults
  intro h
  obtain ⟨-, hbarrier⟩ := h
  obtain ⟨-, -, hvalid⟩ := hbarrier 0 3 0 dieArrival dieArrival_settled rfl
  obtain ⟨-, -, -, -, hrecord, -⟩ := hvalid (by decide) (by decide) (by decide) (by decide)
  obtain ⟨r, hr, -, hdone, -⟩ := hrecord rfl (by decide)
  obtain rfl : ⟨dieBar, some 0, false, 0⟩ = r := Option.some.inj (dieArrival_barRec.symm.trans hr)
  exact absurd hdone (by decide)

end Sys2Proof.Machine
end

section
/-! A `vat` form that releases at DIE scope or wider waits as an `at` form does, while a byte of its strand is on its way home (R302, R337,
R414). The conditions of `Obligations.VectorAtomicResults` speak of the bytes that the core has of the word, and not of that byte. -/

namespace Sys2Proof.Machine

/-- The strand of `atBehindSent` with a grant of 32 bits, VLC = 1 and the address in s5 too. -/
def vatBehindSent : State := atBehindSent.modCur (fun x =>
  { x with vlg := 1, sc := { x.sc with vlc := 1, regs := x.sc.regs.set 5 (w64 scratchBase) } })

theorem vatBehindSent_settled : vatBehindSent.Settled := by
  dsimp only [State.Settled, State.Quiet]
  and_intros <;> decide

theorem vatBehindSent_vecReady : vatBehindSent.VecReady := by
  obtain ⟨hq, -⟩ := vatBehindSent_settled
  exact ⟨hq, rfl, rfl, rfl⟩

theorem vatBehindSent_padPlain : vatBehindSent.padPlain 0 4 := by
  dsimp only [State.padPlain]
  and_intros <;> decide

/-- The first element of its addresses is 0. -/
theorem vatBehindSent_elt : vatBehindSent.cur.elt 4 32 0 = 0 := by decide +kernel

/-- Its releasing `vat.add` is not completed: the PC stays where it was. -/
theorem exec_vatAdd_vatBehindSent {t : State} (h : exec (.vatAdd 3 4 5 false .rel false) vatBehindSent = .next t) :
    t.cur.sc.pc = 0 := by
  have hpc : (match exec (.vatAdd 3 4 5 false .rel false) vatBehindSent with
    | .next t => t.cur.sc.pc == 0
    | _ => false) = true := by decide +kernel
  rw [h] at hpc
  exact eq_of_beq hpc

/-- Refutes O45: with a byte of the strand on its way home, which the conditions allow, a releasing `vat.add` at SCP = 4 waits
and completes nothing. -/
theorem not_vectorAtomicResults : ¬ Obligations.VectorAtomicResults := by
  unfold Obligations.VectorAtomicResults
  intro h
  have hresults := h 3 4 5 false false .rel vatBehindSent .i32 0 vatBehindSent_settled vatBehindSent_vecReady rfl (by decide)
    (by decide) ⟨by decide, by decide, by decide⟩ ⟨by decide, by decide, by decide⟩ (Nat.le_refl 32) rfl rfl
  dsimp only [etyBits] at hresults
  rw [show (4 : Reg).toNat = 4 from rfl, vatBehindSent_elt] at hresults
  obtain ⟨hint, -⟩ := hresults rfl vatBehindSent_padPlain rfl rfl (by decide) (by decide)
  obtain ⟨⟨u, hnext, -, hsc, -⟩, -⟩ := hint (.inl rfl)
  have hmoved : u.cur.sc.pc = 4 := congrArg Scalar.pc hsc
  rw [exec_vatAdd_vatBehindSent hnext] at hmoved
  exact absurd hmoved (by decide)

end Sys2Proof.Machine
end

section
/-! Effects that leave a quad for a reply (R413, R414). -/

namespace Sys2Proof.Machine

/-- Where nothing holds effects, no instruction waits for room on the platform. -/
theorem platform_of_not_held {s : State} (hheld : s.held = false) (n : Nat) : platform n s = .ok ⟨⟩ s := by
  unfold platform
  rw [bind_ok (get_run s), hheld, Bool.and_false]
  rfl

/-- A platform with room takes the effect. -/
theorem platform_of_room {s : State} {n : Nat} (hroom : s.platRoom n = true) : platform n s = .ok ⟨⟩ s := by
  unfold platform
  rw [bind_ok (get_run s), hroom, Bool.not_true, Bool.and_false]
  rfl

section
variable {s : State} (hh : s.cur.handed = none)
include hh

/-- Where nothing holds it, an effect is performed at once. -/
theorem outward_of_not_held (hheld : s.held = false) (k : EffKind) (direct : State → State × List Word) :
    outward k direct s = .ok (direct s).2 (direct s).1 := by
  unfold outward outwardGo
  rw [bind_ok (platform_of_not_held hheld _), bind_ok (get_run s), hh, hheld]
  rfl

/-- An effect that the platform takes is handed, and its instruction waits for the reply. -/
theorem outward_of_hands {k : EffKind} (h : s.hands k) (direct : State → State × List Word) :
    outward k direct s = .error .wait ((s.hand k).modCur (fun x => { x with handed := some ⟨s.effSeq, none⟩ })) := by
  obtain ⟨hheld, hroom⟩ := h
  unfold outward outwardGo
  rw [bind_ok (platform_of_room hroom), bind_ok (get_run s), hh, hheld]
  rfl

end

/-- An instruction that waits leaves its strand waiting. -/
theorem finish_wait {m : M Done} {s u : State} (h : m s = .error .wait u) : finish m s = .next u.setWaiting :=
  finish_error h

end Sys2Proof.Machine
end

section
/-! Retention windows and line locks (R233, R316 to R319). -/

namespace Sys2Proof.Machine

/-! ### Regions (R233) -/

section
variable {a n : Word}

theorem rangeOf_of_long (h : 2 ^ 32 < n.toNat) (s : State) : rangeOf a n s = .error (.trap ⟨cBOUNDS, n, 0, 0, 15, false⟩) s := by
  unfold rangeOf
  rw [if_pos h]
  rfl

theorem rangeOf_of_empty (h : n.toNat = 0) (s : State) : rangeOf a n s = .ok none s := by
  unfold rangeOf
  rw [if_neg (by omega), if_pos (BitVec.eq_of_toNat_eq h)]
  rfl

variable (hlow : 1 ≤ n.toNat) (hhigh : n.toNat ≤ 2 ^ 32)
include hlow hhigh

theorem rangeOf_of_outside (h : canonical a = false ∨ 2 ^ 64 ≤ a.toNat + n.toNat - 1 ∨ canonical (w64 (a.toNat + n.toNat - 1)) = false)
    (s : State) : rangeOf a n s = .error (.trap ⟨cBOUNDS, a, 0, 0, 15, false⟩) s := by
  have hn : n ≠ 0 := by
    rintro rfl
    exact absurd hlow (by decide)
  unfold rangeOf
  rw [if_neg (by omega), if_neg hn, if_pos (by simpa [or_assoc] using h)]
  rfl

theorem rangeOf_of_inside (ha : canonical a = true) (hhi : a.toNat + n.toNat - 1 < 2 ^ 64)
    (hc : canonical (w64 (a.toNat + n.toNat - 1)) = true) (s : State) :
    rangeOf a n s = .ok (some (a.toNat, a.toNat + n.toNat - 1)) s := by
  have hn : n ≠ 0 := by
    rintro rfl
    exact absurd hlow (by decide)
  unfold rangeOf
  rw [if_neg (by omega), if_neg hn, if_neg (by simpa [ha, hc] using hhi)]
  rfl

end

/-! ### Opening a window (R317) -/

/-- The lowest window that a crew has not open. -/
def Crew.freeWindow (c : Crew) : Option Nat := (List.range 4).find? (fun k => !c.windows.any (fun w => w.1 == k))

theorem Crew.freeWindow_of_all_open {c : Crew} (h : ∀ k < 4, ∃ w ∈ c.windows, w.1 = k) : c.freeWindow = none := by
  refine List.find?_eq_none.2 fun k hk => ?_
  simpa using h k (List.mem_range.1 hk)

theorem Crew.freeWindow_of_lowest {c : Crew} {k : Nat} (hk : k < 4) (hfree : ∀ w ∈ c.windows, w.1 ≠ k)
    (hopen : ∀ j < k, ∃ w ∈ c.windows, w.1 = j) : c.freeWindow = some k := by
  refine List.find?_range_eq_some.2 ⟨by simpa using hfree, List.mem_range.2 hk, fun j hj => ?_⟩
  simpa using hopen j hj

/-- What `tr.retain` of a range leaves of a strand whose crew is `c`. -/
def State.retain (s : State) (d : Reg) (c : Crew) (p : Nat × Nat) : State :=
  if s.qways = 0 then s.setReg d 0x8000000000000002
  else match c.freeWindow with
    | none => s.setReg d 0x8000000000000001
    | some k => (s.modCrew c.id (fun x => { x with
        windows := x.windows ++ [(k, p.1 / 512 * 512, p.2 / 512 * 512 + 511)] })).setReg d (w64 k)

section
variable {s : State} (hq : s.Quiet) (d a b : Reg)
include hq

theorem exec_trRetain_of_empty (hn : (s.reg b).toNat = 0) :
    exec (.trRetain d a b) s = .next (s.setReg d 0x8000000000000003).advance := by
  refine finish_adv ?_
  rw [bind_ok (ready_of_writable (hq.writable d)), bind_ok (rv_of_readable (hq.readable a)), bind_ok (rv_of_readable (hq.readable b)),
    if_pos (BitVec.eq_of_toNat_eq hn), bind_ok (hq.sound _), bind_ok hq.drained_run, bind_ok (wr_run _ _ _)]
  rfl

variable {d a b} (hn : s.reg b ≠ 0)
include hn

theorem exec_trRetain_of_bounds {v : Word}
    (hr : rangeOf (s.reg a) (s.reg b) s = .error (.trap ⟨cBOUNDS, v, 0, 0, 15, false⟩) s) :
    exec (.trRetain d a b) s = s.traps cBOUNDS v 0 := by
  refine finish_trap ?_ hq
  rw [bind_ok (ready_of_writable (hq.writable d)), bind_ok (rv_of_readable (hq.readable a)), bind_ok (rv_of_readable (hq.readable b)),
    if_neg hn, bind_ok hq.drained_run, bind_error hr]

theorem exec_trRetain_of_range {c : Crew} (hc : s.crewOf s.cur.ident.crew = some c) {p : Nat × Nat}
    (hr : rangeOf (s.reg a) (s.reg b) s = .ok (some p) s) : exec (.trRetain d a b) s = .next (s.retain d c p).advance := by
  refine finish_adv ?_
  rw [bind_ok (ready_of_writable (hq.writable d)), bind_ok (rv_of_readable (hq.readable a)), bind_ok (rv_of_readable (hq.readable b)),
    if_neg hn, bind_ok hq.drained_run, bind_ok hr, bind_ok (hq.sound _), bind_ok (get_run s), hc]
  unfold State.retain Crew.freeWindow
  dsimp only
  split_ifs
  · rfl
  · cases (List.range 4).find? (fun k => !c.windows.any (fun w => w.1 == k)) <;> rfl

end

/-! ### Closing a window (R318) -/

section
variable {s : State} (hq : s.Quiet) {a : Reg}
include hq

theorem exec_trUnpin_of_bounds (h : 3 < (s.reg a).toNat) : exec (.trUnpin a) s = s.traps cBOUNDS (s.reg a) 0 := by
  refine finish_trap ?_ hq
  rw [bind_ok (rv_of_readable (hq.readable a)), if_pos h]
  rfl

theorem exec_trUnpin (h : (s.reg a).toNat ≤ 3) : exec (.trUnpin a) s =
    .next ((s.modCrew s.cur.ident.crew (fun x => { x with
      windows := x.windows.filter (fun w => w.1 != (s.reg a).toNat) })).relaxLines s.cur.ident.part).advance := by
  refine finish_adv ?_
  rw [bind_ok (rv_of_readable (hq.readable a)), if_neg (Nat.not_lt.2 h), bind_ok (hq.sound _), bind_ok hq.drained_run,
    bind_ok (modify_run _ _)]
  rfl

end

/-! ### A line's home (R319) -/

/-- The lockable line of a piece. -/
def Seg.lockable (g : Seg) : Option Nat :=
  match g.page with
  | some p => if p.cach && keyHome g.key == 0 then some (keyPa g.key / 512) else none
  | none => none

theorem lockable_run {va : Word} {s t : State} {gs : List Seg} (h : segsM va 1 accLock 0 s = .ok gs t) :
    lockable va s = .ok (gs.findSome? Seg.lockable) t := by
  unfold Machine.lockable
  rw [bind_ok h]
  rfl

theorem State.touchLine_mem (s : State) (p line : Nat) (mask : BitVec 16) (win : Bool) (pol va : Nat) :
    ∃ x ∈ (s.touchLine p line mask win pol va).1.lines, x.line = line := by
  unfold State.touchLine
  extract_lets
  cases h : s.lines.find? (fun x => x.line == line) with
  | none => exact ⟨_, List.mem_cons_self, rfl⟩
  | some x =>
    have hx : x.line = line := by simpa using List.find?_some h
    refine ⟨_, List.mem_map_of_mem (List.mem_of_find?_eq_some h), ?_⟩
    rw [if_pos hx]
    exact hx

/-- How a lock of a line ends: refused by a status, with nothing changed, or granted, with the line locked. -/
def State.LockEnds (s : State) (p line : Nat) (r : State × Nat) : Prop :=
  (r.2 ∈ [1, 2, 4] ∧ r.1 = s) ∨ (r.2 = 0 ∧ ∃ x ∈ r.1.lines, x.line = line ∧ x.resv = some p ∧ x.locked = true)

theorem State.lockLine_ends (s : State) (p line va : Nat) : s.LockEnds p line (s.lockLine p line va) := by
  unfold State.lockLine
  refine iteInduction (fun _ => ?locked) fun _ => iteInduction (fun _ => ?noWay) fun _ => iteInduction (fun _ => ?full) fun _ => ?granted
  case locked => exact .inl ⟨by simp, rfl⟩
  case noWay => exact .inl ⟨by simp, rfl⟩
  case full => exact .inl ⟨by simp, rfl⟩
  case granted =>
    obtain ⟨x, hmem, hx⟩ := s.touchLine_mem p line 0xFFFF false 0 va
    refine .inr ⟨rfl, _, List.mem_map_of_mem hmem, ?_⟩
    rw [if_pos hx]
    exact ⟨hx, rfl, rfl⟩

/-- A line that is reserved after the reserved lines of a partition were relaxed was not changed. -/
theorem State.mem_of_mem_relaxLines {s : State} {p q : Nat} {x : HLine} (hx : x ∈ (s.relaxLines p).lines) (hr : x.resv = some q) :
    x ∈ s.lines := by
  obtain ⟨y, hy, rfl⟩ := List.mem_map.1 hx
  split at hr
  · exact nomatch hr
  · next hkept => rwa [if_neg hkept]

/-- An unlocked line that stays reserved for the partition is not locked. -/
theorem State.unlockLine_unlocked {s : State} {p line : Nat} {x : HLine} (hx : x ∈ (s.unlockLine p line).lines) (hl : x.line = line)
    (hr : x.resv = some p) : x.locked = false := by
  obtain ⟨y, -, rfl⟩ := List.mem_map.1 (State.mem_of_mem_relaxLines hx hr)
  split
  · rfl
  · next hother =>
    rw [if_neg hother] at hl hr
    exact absurd ⟨hl, hr⟩ hother

/-! ### Locking and unlocking (R319) -/

section
variable {s t : State} (hq : s.Quiet) (htq : t.Quiet) (d : Reg) {a : Reg} {l : Nat}
include hq htq

theorem exec_trLock_of_none (hl : lockable (s.reg a) s = .ok none t) : exec (.trLock d a) s = .next (t.setReg d 3).advance := by
  refine finishK_adv ?_
  rw [bind_ok (ready_of_writable (hq.writable d)), bind_ok (rv_of_readable (hq.readable a)), bind_ok hq.drained_run,
    bind_ok (get_run s), if_neg (by simp [hq.loadWaits]), bind_ok hl, bind_ok (htq.sound _)]
  rfl

theorem exec_trUnlock_of_none (hl : lockable (s.reg a) s = .ok none t) : exec (.trUnlock a) s = .next t.advance := by
  refine finishK_adv ?_
  rw [bind_ok (rv_of_readable (hq.readable a)), bind_ok hq.drained_run,
    bind_ok (get_run s), if_neg (by simp [hq.loadWaits]), bind_ok hl, bind_ok (htq.sound _)]
  rfl

variable (hh : t.cur.handed = none) (hheld : t.held = false) (hl : lockable (s.reg a) s = .ok (some l) t)
include hh hheld hl

theorem exec_trLock_of_some {r : State × Nat}
    (hr : (t.heatUp t.cur.uid (512 * l)).lockLine t.cur.ident.part l ((s.reg a).toNat / 512 * 512) = r) :
    exec (.trLock d a) s = .next (r.1.setReg d (w64 r.2)).advance := by
  subst hr
  refine finishK_adv ?_
  rw [bind_ok (ready_of_writable (hq.writable d)), bind_ok (rv_of_readable (hq.readable a)), bind_ok hq.drained_run,
    bind_ok (get_run s), if_neg (by simp [hq.loadWaits]), bind_ok hl, bind_ok (htq.sound _)]
  dsimp only
  rw [bind_ok (outward_of_not_held hh hheld _ _)]
  rfl

theorem exec_trUnlock_of_some :
    exec (.trUnlock a) s = .next ((t.heatUp t.cur.uid (512 * l)).unlockLine t.cur.ident.part l).advance := by
  refine finishK_adv ?_
  rw [bind_ok (rv_of_readable (hq.readable a)), bind_ok hq.drained_run,
    bind_ok (get_run s), if_neg (by simp [hq.loadWaits]), bind_ok hl, bind_ok (htq.sound _)]
  dsimp only
  rw [bind_ok (outward_of_not_held hh hheld _ _)]
  rfl

end

/-- An address of the scratchpad names no line that may be locked. -/
theorem lockable_scratch {s : State} {va : Word} (hlo : scratchBase ≤ va.toNat) (hhi : va.toNat < scratchBase + s.cur.ident.alen)
    (halen : s.cur.ident.alen ≤ 2 ^ 21) : lockable va s = .ok none s := by
  have hfits : s.padFits (va.toNat - scratchBase) 1 := ⟨by omega, by omega, by omega, halen⟩
  have hva : w64 (scratchBase + (va.toNat - scratchBase)) = va := by
    rw [Nat.add_sub_cancel' hlo, w64, BitVec.ofNat_toNat, BitVec.setWidth_eq]
  have hsegs := hfits.segsM (a := accLock) (by decide) 0
  rw [hva] at hsegs
  exact lockable_run hsegs

/-- Settles O43: `tr.retain` by its range, QWAYS and the lowest free window; `tr.lock` and `tr.unlock` by the line that the address names. -/
theorem windowsAndLocks : Obligations.WindowsAndLocks := by
  unfold Obligations.WindowsAndLocks
  intro d a b s p c hset hp hc lo n hi out
  obtain ⟨hq, -, hh, -⟩ := hset
  have hways : s.qways = p.qways := by rw [State.qways, hp]
  have hnonzero (h : 1 ≤ n) : s.reg b ≠ 0 := fun h0 => absurd (congrArg BitVec.toNat h0) (Nat.pos_iff_ne_zero.1 h)
  refine ⟨exec_trRetain_of_empty hq d a b, fun hlong => ?_, fun h1 h2 hout => ?_, fun h1 h2 ha hlast hcan => ?_, exec_trUnpin_of_bounds hq,
    exec_trUnpin hq, fun hlow hhigh halen => ?_, fun gs t hsegs hheld => ?_⟩
  · exact exec_trRetain_of_bounds hq (hnonzero (by omega)) (rangeOf_of_long hlong s)
  · exact exec_trRetain_of_bounds hq (hnonzero h1) (rangeOf_of_outside h1 h2 hout s)
  · have hretain : exec (.trRetain d a b) s = .next (s.retain d c (lo, hi)).advance :=
      exec_trRetain_of_range hq (hnonzero h1) hc (rangeOf_of_inside h1 h2 ha hlast hcan s)
    rw [hretain, State.retain, hways]
    refine ⟨fun hnone => ?_, fun hsome hall => ?_, fun k hk hsome hfree hbelow => ?_⟩
    · rw [if_pos hnone]
    · rw [if_neg hsome, Crew.freeWindow_of_all_open hall]
    · rw [if_neg hsome, Crew.freeWindow_of_lowest hk hfree hbelow]
  · have hl := lockable_scratch hlow hhigh halen
    exact ⟨exec_trLock_of_none hq hq d hl, exec_trUnlock_of_none hq hq hl⟩
  · intro home
    obtain ⟨hcur, hahead⟩ := segs_ok_frame (segsM_eq_ok hsegs)
    have htq := hq.of_frame hcur hahead
    have hhome : lockable (s.reg a) s = .ok home t := lockable_run hsegs
    refine ⟨fun hnone => ?_, fun l hsome => ?_⟩
    · rw [hnone] at hhome
      exact ⟨exec_trLock_of_none hq htq d hhome, exec_trUnlock_of_none hq htq hhome⟩
    · intro u r
      rw [hsome] at hhome
      have hht : t.cur.handed = none := by rw [hcur, hh]
      have hlock := exec_trLock_of_some hq htq d hht hheld hhome rfl
      have hunlock := exec_trUnlock_of_some hq htq hht hheld hhome
      rw [hcur] at hlock hunlock
      refine ⟨hlock, hunlock, ?_⟩
      rcases u.lockLine_ends s.cur.ident.part l (lo / 512 * 512) with ⟨hstatus, hsame⟩ | ⟨hstatus, hlocked⟩
      · have hrefused : r.2 ∈ [1, 2, 4] := hstatus
        refine ⟨fun h0 => ?_, fun _ => hsame, List.mem_cons_of_mem _ hrefused, fun x => State.unlockLine_unlocked⟩
        rw [h0] at hrefused
        exact absurd hrefused (by decide)
      · exact ⟨fun _ => hlocked, fun h => absurd hstatus h, List.mem_cons.2 (.inl hstatus), fun x => State.unlockLine_unlocked⟩

end Sys2Proof.Machine
end

section
/-! Tokens and their regions: what the instrument does with a request and a release, and what an acquirer drops (R233, R235, R308,
R311 to R314). -/

namespace Sys2Proof.Machine

/-! ### Lists that are worked through -/

theorem foldl_keeps {α β γ : Type} {g : β → γ} {step : β → α → β} (h : ∀ q a, g (step q a) = g q) (l : List α) (q : β) :
    g (l.foldl step q) = g q :=
  List.foldlRecOn (motive := fun t => g t = g q) l step rfl fun t ht a _ => (h t a).trans ht

/-- What an element brings about, and no element undoes, holds at the end. -/
theorem foldl_holds_of_mem {α β : Type} {step : β → α → β} {I P : β → Prop} {a : α} (hI : ∀ q b, I q → I (step q b))
    (hkeep : ∀ q b, P q → P (step q b)) (hmake : ∀ q, I q → P (step q a)) {l : List α} (ha : a ∈ l) {q : β} (hq : I q) :
    P (l.foldl step q) := by
  induction l generalizing q with
  | nil => exact absurd ha List.not_mem_nil
  | cons b l ih =>
    rw [List.foldl_cons]
    rcases List.mem_cons.1 ha with rfl | hmem
    · exact List.foldlRecOn l step (hmake q hq) fun t ht c _ => hkeep t c ht
    · exact ih hmem (hI q b hq)

/-! ### The quad of a reply -/

theorem State.getQuad_id (s : State) (q : Nat) : (s.getQuad q).id = q := by
  unfold State.getQuad
  split_ifs with h
  · exact h
  · cases hf : s.quads.find? (fun x => x.id == q) with
    | none => rfl
    | some x => simpa using List.find?_some hf

theorem State.modQuad_quad_d {f : Quad → Quad} (hid : ∀ x, (f x).id = x.id) (hd : ∀ x, (f x).d = x.d) (s : State) (q : Nat) :
    (s.modQuad q f).quad.d = s.quad.d := by
  have hq : (f (s.getQuad q)).id = q := (hid _).trans (s.getQuad_id q)
  unfold State.modQuad State.setQuad
  rw [hq]
  by_cases h : s.quad.id = q
  · rw [if_pos h, State.getQuad, if_pos h]
    exact hd _
  · rw [if_neg h]
    split_ifs <;> rfl

theorem State.reply_quad_d (s : State) (uid id : Nat) (ws : List Word) : (s.reply uid id ws).quad.d = s.quad.d := by
  unfold State.reply State.modStrandAll
  split
  · rfl
  · refine (State.modQuad_quad_d ?_ ?_ _ _).trans (State.modStrand_keeps (g := fun t => t.quad.d) (fun _ _ _ => rfl) _ _ _)
    · exact fun _ => rfl
    · exact fun _ => rfl

/-! ### The instrument (R311, R313, R314) -/

theorem State.token_setToken_ite (s : State) (idx : Nat) (st : Option TokSt) (j : Nat) :
    (s.setToken idx st).token j = if j = idx then st else s.token j := by
  cases st with
  | some x => exact s.token_setToken idx x j
  | none =>
    unfold State.token State.setToken
    by_cases h : j = idx
    · have hnone : (s.tokens.filter (fun t => t.idx != idx)).find? (fun t => t.idx == j) = none := by
        refine List.find?_eq_none.2 fun t ht => ?_
        obtain ⟨-, hne⟩ := List.mem_filter.1 ht
        simpa [h] using hne
      rw [if_pos h, hnone]
      rfl
    · rw [if_neg h, List.find?_filter]
      congr 2
      funext t
      by_cases ht : t.idx = j
      · simp [ht, h]
      · simp [ht]

/-- A token that no strand asks for is granted to none. -/
theorem State.grantToken_of_no_request {s : State} {idx : Nat} (h : ∀ q ∈ s.tokReqs, q.idx ≠ idx) : s.grantToken idx = s := by
  have hnone : s.tokReqs.find? (fun r => r.idx == idx && mayTake (s.token idx) r.owner) = none := by
    rw [List.find?_eq_none]
    intro q hq
    simp [h q hq]
  unfold State.grantToken
  rw [hnone]

theorem State.grantToken_of_request {s : State} {idx : Nat} {q : TokReq}
    (h : s.tokReqs.find? (fun r => r.idx == idx && mayTake (s.token idx) r.owner) = some q) : s.grantToken idx =
      (State.setToken { s with tokReqs := s.tokReqs.filter (fun k => !(k.idx == idx && k.uid == q.uid)) } idx
        (some (.held q.owner q.uid))).reply q.uid q.eff [] := by
  unfold State.grantToken
  rw [h]

theorem State.giveToken_of_no_request {s : State} {idx : Nat} (h : ∀ q ∈ s.tokReqs, q.idx ≠ idx) (next : Nat) :
    s.giveToken idx next = s.setToken idx (if next = 0 then none else some (.handed next)) := by
  unfold State.giveToken State.serveToken
  rw [State.grantToken_of_no_request (s := s.setToken _ _) h, ite_self]

theorem State.split_of_not_held {s : State} (h : s.held = false) : s.split = false := by
  simp only [State.held, Bool.or_eq_false_iff] at h
  obtain ⟨⟨⟨hsplit, -⟩, -⟩, -⟩ := h
  exact hsplit

/-- Where effects do not travel step by step, the only request for a token that may be taken is granted at once. -/
theorem State.askToken_of_free {s : State} {idx owner : Nat} (hsplit : s.split = false) (hreqs : ∀ q ∈ s.tokReqs, q.idx ≠ idx)
    (hmay : mayTake (s.token idx) owner = true) (uid eff : Nat) :
    s.askToken idx owner uid eff = (s.setToken idx (some (.held owner uid))).reply uid eff [] := by
  have hfind : (s.tokReqs ++ [TokReq.mk idx owner uid eff]).find? (fun r => r.idx == idx && mayTake (s.token idx) r.owner) =
      some ⟨idx, owner, uid, eff⟩ := by
    rw [List.find?_append, List.find?_eq_none.2 fun q hq => by simp [hreqs q hq]]
    simp [hmay]
  have hrest : (s.tokReqs ++ [TokReq.mk idx owner uid eff]).filter (fun k => !(k.idx == idx && k.uid == uid)) = s.tokReqs := by
    rw [List.filter_append, List.filter_eq_self.2 fun q hq => by simp [hreqs q hq]]
    simp
  unfold State.askToken State.serveToken
  rw [if_neg (by simp [hsplit])]
  refine (State.grantToken_of_request (s := { s with tokReqs := s.tokReqs ++ [TokReq.mk idx owner uid eff] }) hfind).trans ?_
  exact congrArg (fun l => (State.setToken { s with tokReqs := l } idx (some (.held owner uid))).reply uid eff []) hrest

/-! ### The acquirer's copies and records (R235, R308) -/

/-- The pieces of a region depend on the strand, its partition, the page tables and the TLB. -/
theorem State.areas_congr {s t : State} (hident : t.cur.ident = s.cur.ident) (hparts : t.parts = s.parts) (hmem : t.mem = s.mem)
    (htlb : t.quad.d.tlb = s.quad.d.tlb) (lo hi : Nat) : t.areas lo hi = s.areas lo hi := by
  simp only [State.areas, State.areaOf, State.peek, State.tlbHit, State.walk, State.part?, hident, hparts, hmem, htlb]

/-- A key lies in a piece. -/
def Area.holds (a : Area) (k : Nat) : Bool := decide (a.key ≤ k) && decide (k < a.key + a.n)

/-- The core and the quad drop their clean copies of one piece. -/
def State.dropArea (s : State) (a : Area) : State := s.dropGrain a.key a.n true

/-- The records of one piece become NONE. -/
def State.clearArea (s : State) (a : Area) : State :=
  (s.noneRecs (fun r => a.holds r.key)).modQ (fun q => { q with
    recs := q.recs.filter (fun r => !a.holds r.key)
    atoms := q.atoms.map (fun t => if a.holds t.key then { t with rcd := { t.rcd with scope := 0 } } else t) })

theorem State.clearRecords_eq (s : State) (lo hi : Nat) : s.clearRecords lo hi = (s.areas lo hi).foldl State.clearArea s := rfl

theorem State.dropRegion_eq (s : State) (lo hi : Nat) :
    s.dropRegion lo hi true = (s.areas lo hi).foldl State.dropArea s := rfl

section
variable {γ : Type} {g : State → γ} (hrecs : ∀ (s : State) a, g { s with hrecs := a } = g s)
  (hdata : ∀ (s : State) (d : QuadData), d.tlb = s.quad.d.tlb → g (s.modQ fun _ => d) = g s)

include hdata in
theorem State.dropRegion_keeps (s : State) (lo hi : Nat) : g (s.dropRegion lo hi true) = g s := by
  rw [State.dropRegion_eq]
  refine foldl_keeps (fun _ _ => hdata _ _ ?_) _ s
  rfl

include hrecs hdata

theorem State.clearArea_keeps (s : State) (a : Area) : g (s.clearArea a) = g s := by
  unfold State.clearArea
  refine (hdata _ _ ?_).trans (hrecs s _)
  rfl

theorem State.clearRecords_keeps (s : State) (lo hi : Nat) : g (s.clearRecords lo hi) = g s := by
  rw [State.clearRecords_eq]
  exact foldl_keeps (State.clearArea_keeps hrecs hdata) _ s

/-- An acquired region changes records, and clean copies and records of the quad, alone. -/
theorem State.acquireRegion_keeps (s : State) (r : Option (Nat × Nat)) : g (s.acquireRegion r) = g s := by
  cases r with
  | none => rfl
  | some p => exact (State.dropRegion_keeps hdata _ _ _).trans (State.clearRecords_keeps hrecs hdata _ _ _)

end

theorem State.acquireRegion_cur (s : State) (r : Option (Nat × Nat)) : (s.acquireRegion r).cur = s.cur :=
  State.acquireRegion_keeps (g := State.cur) (fun _ _ => rfl) (fun _ _ _ => rfl) s r

/-- Clearing the records of a region leaves its pieces what they were. -/
theorem State.clearRecords_areas (s : State) (lo hi lo' hi' : Nat) : (s.clearRecords lo hi).areas lo' hi' = s.areas lo' hi' :=
  State.areas_congr (State.clearRecords_keeps (g := fun t => t.cur.ident) (fun _ _ => rfl) (fun _ _ _ => rfl) s lo hi)
    (State.clearRecords_keeps (g := State.parts) (fun _ _ => rfl) (fun _ _ _ => rfl) s lo hi)
    (State.clearRecords_keeps (g := State.mem) (fun _ _ => rfl) (fun _ _ _ => rfl) s lo hi)
    (State.clearRecords_keeps (g := fun t => t.quad.d.tlb) (fun _ _ => rfl) (fun _ _ h => h) s lo hi) lo' hi'

/-- The home's records of a piece are NONE. -/
def State.NoRecs (s : State) (a : Area) : Prop := ∀ h ∈ s.hrecs, a.key ≤ h.key → h.key < a.key + a.n → h.scope = 0

theorem State.clearArea_keeps_noRecs {s : State} {a : Area} (h : s.NoRecs a) (b : Area) : (s.clearArea b).NoRecs a := by
  intro x hx
  obtain ⟨y, hy, rfl⟩ := List.mem_map.1 hx
  split
  · exact fun _ _ => rfl
  · exact h y hy

theorem State.clearArea_noRecs (s : State) (a : Area) : (s.clearArea a).NoRecs a := by
  intro x hx hlo hhi
  obtain ⟨y, hy, rfl⟩ := List.mem_map.1 hx
  split
  · rfl
  · next hout =>
    rw [if_neg hout] at hlo hhi
    exact absurd (by simp [Area.holds, hlo, hhi]) hout

theorem State.clearRecords_noRecs {s : State} {lo hi : Nat} {a : Area} (ha : a ∈ s.areas lo hi) : (s.clearRecords lo hi).NoRecs a := by
  rw [State.clearRecords_eq]
  exact foldl_holds_of_mem (step := State.clearArea) (I := fun _ => True) (P := fun q => q.NoRecs a) (fun _ _ h => h)
    (fun _ b h => State.clearArea_keeps_noRecs h b) (fun q _ => q.clearArea_noRecs a) ha trivial

/-- Neither the quad inbound cache nor the L1 of core `k` holds a clean copy of a piece. -/
def State.NoCopies (s : State) (k : Nat) (a : Area) : Prop :=
  ∀ c ∈ s.quad.d.copies, c.hits a.key a.n = true → c.core ≠ none ∧ c.core ≠ some k

theorem State.dropArea_keeps_noCopies {s : State} {k : Nat} {a : Area} (h : s.NoCopies k a) (b : Area) : (s.dropArea b).NoCopies k a :=
  fun c hc => h c (List.mem_of_mem_filter hc)

theorem State.dropArea_noCopies (s : State) (a : Area) : (s.dropArea a).NoCopies s.cur.ident.core a := by
  intro c hc hhit
  obtain ⟨-, hleft⟩ := List.mem_filter.1 hc
  rw [hhit] at hleft
  simpa [and_comm, Option.isSome_iff_ne_none] using hleft

theorem State.dropRegion_noCopies {s : State} {lo hi : Nat} {a : Area} (ha : a ∈ s.areas lo hi) :
    (s.dropRegion lo hi true).NoCopies s.cur.ident.core a := by
  rw [State.dropRegion_eq]
  refine foldl_holds_of_mem (step := State.dropArea) (I := fun q => q.cur = s.cur) (P := fun q => q.NoCopies s.cur.ident.core a)
    (fun _ _ h => h) (fun _ b h => State.dropArea_keeps_noCopies h b) (fun q hq => ?_) ha rfl
  rw [← hq]
  exact q.dropArea_noCopies a

/-- What an acquired region leaves of its pieces: no record at their homes, and no clean copy that the acquirer reads. -/
theorem State.acquireRegion_clears (s : State) (p : Nat × Nat) {a : Area} (ha : a ∈ s.areas p.1 p.2) :
    (s.acquireRegion (some p)).NoRecs a ∧ (s.acquireRegion (some p)).NoCopies s.cur.ident.core a := by
  have hcleared := State.clearRecords_noRecs ha
  have hhrecs := State.dropRegion_keeps (g := State.hrecs) (fun _ _ _ => rfl) (s.clearRecords p.1 p.2) p.1 p.2
  have hcur := State.clearRecords_keeps (g := State.cur) (fun _ _ => rfl) (fun _ _ _ => rfl) s p.1 p.2
  rw [← s.clearRecords_areas p.1 p.2] at ha
  have hdropped := State.dropRegion_noCopies ha
  rw [hcur] at hdropped
  refine ⟨?_, hdropped⟩
  unfold State.NoRecs State.acquireRegion
  dsimp only
  rwa [hhrecs]

end Sys2Proof.Machine
end

section
/-! `tr.acq` and `tr.rel` (R308, R312 to R314). -/

namespace Sys2Proof.Machine

/-! ### Operands (R312) -/

theorem regionOf_of_empty {a n : Word} (h : n.toNat = 0) (s : State) : regionOf a n s = .ok none s := by
  unfold regionOf
  rw [bind_ok (rangeOf_of_empty h s)]
  rfl

/-- Only a region of length 0 has no bytes. -/
theorem length_of_regionOf_none {a n : Word} {s : State} (h : regionOf a n s = .ok none s) : n.toNat = 0 := by
  obtain ⟨r, t, hr, hrest⟩ := bind_eq_ok h
  cases r with
  | some p => cases hrest
  | none =>
    unfold rangeOf at hr
    split_ifs at hr with hlong hzero
    · cases hr
    · rw [hzero]
      rfl
    · cases hr
    · cases hr

section
variable {s : State} (hq : s.Quiet) {p : Part} (hp : s.part? s.cur.ident.part = some p) {d a b : Reg} {r : Option (Nat × Nat)}
  (hr : regionOf (s.reg a) (s.reg b) s = .ok r s) (hlow : (s.reg d).toNat / 4096 % 2 ^ 20 = 0) (hhigh : (s.reg d).toNat < 2 ^ 48)
include hq hp hr hlow hhigh

/-- Operands with no stray bit name a token of the partition, or raise REGION. -/
theorem tokenOps_run : tokenOps d a b s =
    if p.tcount ≤ (s.reg d).toNat % 4096 then .error (.trap ⟨cREGION, w64 ((s.reg d).toNat % 4096), 0, 0, 15, false⟩) s
    else .ok (p.tbase + (s.reg d).toNat % 4096, (s.reg d).toNat / 2 ^ 32 % 65536, r) s := by
  have hgap : ¬ (bitsOf (s.reg d) 31 12 ≠ 0 ∨ bitsOf (s.reg d) 63 48 ≠ 0) := by
    simp only [bitsOf]
    omega
  have htok : bitsOf (s.reg d) 11 0 = (s.reg d).toNat % 4096 := by simp [bitsOf]
  have howner : bitsOf (s.reg d) 47 32 = (s.reg d).toNat / 2 ^ 32 % 65536 := rfl
  unfold tokenOps
  rw [bind_ok (rv_of_readable (hq.readable d)), bind_ok (rv_of_readable (hq.readable a)), bind_ok (rv_of_readable (hq.readable b)),
    if_neg hgap, bind_ok hr, bind_ok (hq.sound _), bind_ok (get_run s), hp, htok, howner]
  by_cases h : p.tcount ≤ (s.reg d).toNat % 4096
  · rw [if_pos h, if_pos h]
    rfl
  · rw [if_neg h, if_neg h]
    rfl

theorem tokenOps_of_beyond (h : p.tcount ≤ (s.reg d).toNat % 4096) :
    tokenOps d a b s = .error (.trap ⟨cREGION, w64 ((s.reg d).toNat % 4096), 0, 0, 15, false⟩) s :=
  (tokenOps_run hq hp hr hlow hhigh).trans (if_pos h)

theorem tokenOps_of_within (h : (s.reg d).toNat % 4096 < p.tcount) :
    tokenOps d a b s = .ok (p.tbase + (s.reg d).toNat % 4096, (s.reg d).toNat / 2 ^ 32 % 65536, r) s :=
  (tokenOps_run hq hp hr hlow hhigh).trans (if_neg (Nat.not_le.2 h))

end

/-! ### The request of an acquire (R313) -/

/-- The current strand waits for the reply to its next effect. -/
def State.awaitReply (s : State) : State :=
  ({ s with effSeq := s.effSeq + 1 } : State).modCur (fun x => { x with handed := some ⟨s.effSeq, none⟩ })

/-- The current strand's request has taken the token at once. -/
def State.takeToken (s : State) (idx owner : Nat) : State :=
  (s.awaitReply.setToken idx (some (.held owner s.cur.uid))).reply s.cur.uid s.effSeq []

/-- The current strand has taken the reply to its effect. -/
def State.forgetReply (s : State) : State := s.modCur (fun x => { x with handed := none })

/-- The reply to the current strand's own effect reaches it. -/
theorem State.reply_cur {s : State} {h : Handed} (hlive : s.cur.status ≠ .absent) (hh : s.cur.handed = some h) (ws : List Word) :
    (s.reply s.cur.uid h.id ws).cur = { s.cur with handed := some ⟨h.id, some ws⟩, waiting := false } := by
  unfold State.reply
  rw [State.modStrandAll_cur rfl hlive, hh]
  exact if_pos rfl

section
variable (s : State) (idx owner : Nat)

theorem State.takeToken_cur (hlive : s.cur.status ≠ .absent) :
    (s.takeToken idx owner).cur = { s.cur with handed := some ⟨s.effSeq, some []⟩, waiting := false } :=
  State.reply_cur (s := s.awaitReply.setToken idx _) (h := ⟨s.effSeq, none⟩) hlive rfl []

/-- Taking a token changes the token, the strand and its copies, and the count of effects. -/
theorem State.takeToken_keeps {γ : Type} {g : State → γ} (hs : ∀ (s : State) a b, g { s with cur := a, strands := b } = g s)
    (ha : ∀ (s : State) a, g { s with ahead := a } = g s) (hquads : ∀ (s : State) a b, g { s with quad := a, quads := b } = g s)
    (hn : ∀ (s : State) a, g { s with effSeq := a } = g s) (ht : ∀ (s : State) a, g { s with tokens := a } = g s) :
    g (s.takeToken idx owner) = g s :=
  (State.reply_keeps hs ha hquads _ _ _ _).trans ((ht _ _).trans ((hs { s with effSeq := s.effSeq + 1 } _ s.strands).trans (hn _ _)))

theorem State.takeToken_token (j : Nat) :
    (s.takeToken idx owner).token j = if j = idx then some (.held owner s.cur.uid) else s.token j := by
  unfold State.takeToken
  rw [State.reply_keeps (g := fun t => t.token j) (fun _ _ _ => rfl) (fun _ _ => rfl) (fun _ _ _ => rfl), State.token_setToken]
  rfl

theorem State.takeToken_quad_d : (s.takeToken idx owner).quad.d = s.quad.d := State.reply_quad_d _ _ _ _

/-- Taking a token leaves the pieces of a region what they were. -/
theorem State.takeToken_areas (hlive : s.cur.status ≠ .absent) (lo hi : Nat) :
    (s.takeToken idx owner).areas lo hi = s.areas lo hi :=
  State.areas_congr (by rw [s.takeToken_cur idx owner hlive])
    (s.takeToken_keeps idx owner (g := State.parts) (fun _ _ _ => rfl) (fun _ _ => rfl) (fun _ _ _ => rfl) (fun _ _ => rfl) (fun _ _ => rfl))
    (s.takeToken_keeps idx owner (g := State.mem) (fun _ _ _ => rfl) (fun _ _ => rfl) (fun _ _ _ => rfl) (fun _ _ => rfl) (fun _ _ => rfl))
    (congrArg QuadData.tlb (s.takeToken_quad_d idx owner)) lo hi

end

section
variable {s : State} {idx owner : Nat} (hh : s.cur.handed = none)
include hh

theorem acquireToken_of_free (hlive : s.cur.status ≠ .absent) (hheld : s.held = false) (hreqs : ∀ q ∈ s.tokReqs, q.idx ≠ idx)
    (hmay : mayTake (s.token idx) owner = true) :
    acquireToken idx owner s = .ok true (s.takeToken idx owner).forgetReply := by
  have hask : s.awaitReply.askToken idx owner s.cur.uid s.effSeq = s.takeToken idx owner :=
    State.askToken_of_free (s := s.awaitReply) (State.split_of_not_held hheld) hreqs hmay s.cur.uid s.effSeq
  unfold acquireToken
  rw [bind_ok (get_run s), hh]
  dsimp only
  rw [if_neg (by simp [hheld])]
  refine (bind_ok (set_run s (s.awaitReply.askToken idx owner s.cur.uid s.effSeq))).trans ?_
  rw [hask, bind_ok (get_run _), s.takeToken_cur idx owner hlive]
  rfl

theorem acquireToken_of_held (hheld : s.held = true) : acquireToken idx owner s =
    .ok false ((s.hand (.acq idx owner)).modCur (fun x => { x with handed := some ⟨s.effSeq, none⟩ })) := by
  unfold acquireToken
  rw [bind_ok (get_run s), hh]
  dsimp only
  rw [if_pos hheld]
  rfl

end

theorem acquireToken_of_reply {s : State} {id : Nat} {ws : List Word} (hh : s.cur.handed = some ⟨id, some ws⟩) (idx owner : Nat) :
    acquireToken idx owner s = .ok true s.forgetReply := by
  unfold acquireToken
  rw [bind_ok (get_run s), hh]
  rfl

/-- The reply to the current strand's effect `id` has come. -/
def State.answered (s : State) (id : Nat) : State := s.modCur (fun x => { x with handed := some ⟨id, some []⟩ })

theorem State.Quiet.answered {s : State} (h : s.Quiet) (id : Nat) : (s.answered id).Quiet := h

theorem Strand.forget_handed {x : Strand} (h : x.handed = none) : { x with handed := none } = x := by
  cases x
  cases h
  rfl

/-- A strand that takes the reply has no effect on its way, as before it asked. -/
theorem State.forget_answered {s : State} (h : s.cur.handed = none) (id : Nat) :
    (s.answered id).forgetReply = s :=
  congrArg (fun x => ({ s with cur := x } : State)) (Strand.forget_handed h)

/-! ### `tr.acq` -/

section
variable {s : State} {d a b : Reg}

/-- An operand that raises a cause ends both forms. -/
theorem exec_tr_of_tokenOps_error (hq : s.Quiet) {c : Nat} {v : Word}
    (h : tokenOps d a b s = .error (.trap ⟨c, v, 0, 0, 15, false⟩) s) :
    exec (.trAcq d a b) s = s.traps c v 0 ∧ exec (.trRel d a b) s = s.traps c v 0 :=
  ⟨finish_trap (bind_error h) hq, finish_trap (bind_error h) hq⟩

section
variable (hq : s.Quiet) (hh : s.cur.handed = none) {p : Part} (hp : s.part? s.cur.ident.part = some p) {tok owner : Nat}
  {r : Option (Nat × Nat)} (hops : tokenOps d a b s = .ok (p.tbase + tok, owner, r) s)
include hq hh hp hops

/-- A strand that holds the token does not acquire it again. -/
theorem exec_trAcq_of_holder (h : s.holdsToken (p.tbase + tok) = true) : exec (.trAcq d a b) s = s.traps cREGION (w64 tok) 0 := by
  refine finish_trap ?_ hq
  rw [bind_ok hops, bind_ok (get_run s), hh, h, hp]
  dsimp only
  rw [Nat.add_sub_cancel_left]
  rfl

/-- A strand that does not hold the token does not release it. -/
theorem exec_trRel_of_not_holder (h : s.holdsToken (p.tbase + tok) = false) :
    exec (.trRel d a b) s = s.traps cREGION (w64 tok) 0 := by
  refine finish_trap ?_ hq
  rw [bind_ok hops, bind_ok (get_run s), hh, h, hp]
  dsimp only
  rw [Nat.add_sub_cancel_left]
  rfl

end

variable (hq : s.Quiet) (hring : ∀ r, s.cur.ring = some r → r.due = []) {idx owner : Nat} {r : Option (Nat × Nat)}
  (hops : tokenOps d a b s = .ok (idx, owner, r) s)
include hq hring hops

section
variable (hfree : (s.cur.handed.isNone && s.holdsToken idx) = false) (hplat : platform 64 s = .ok ⟨⟩ s) {t : State}
include hfree hplat

/-- With its checks passed, `tr.acq` ends as its request is answered. -/
theorem trAcq_run {granted : Bool} (h : acquireToken idx owner s = .ok granted t) : ∃ m, exec (.trAcq d a b) s = finish m s ∧
    m s = if granted then .ok .adv (t.acquireRegion r) else .error .wait t := by
  refine ⟨_, rfl, ?_⟩
  rw [bind_ok hops, bind_ok (get_run s), hfree]
  refine (congrFun (if_neg Bool.false_ne_true) s).trans ?_
  rw [bind_ok hq.drained_run, bind_ok (hq.performed_run hring), bind_ok hplat, bind_ok h]
  cases granted
  · rfl
  · rfl

theorem exec_trAcq_of_granted (h : acquireToken idx owner s = .ok true t) :
    exec (.trAcq d a b) s = .next (t.acquireRegion r).advance := by
  obtain ⟨m, hexec, hm⟩ := trAcq_run hq hring hops hfree hplat h
  exact hexec.trans (finish_adv hm)

theorem exec_trAcq_of_waiting (h : acquireToken idx owner s = .ok false t) : exec (.trAcq d a b) s = .next t.setWaiting := by
  obtain ⟨m, hexec, hm⟩ := trAcq_run hq hring hops hfree hplat h
  exact hexec.trans (finish_wait hm)

end

/-! ### `tr.rel` -/

/-- The turn at HOME that a release makes of its region. -/
def turnOf (r : Option (Nat × Nat)) : M Unit :=
  match r with
  | some q => turnRegion q.1 q.2 2
  | none => pure ()

variable (hholds : (s.cur.handed.isNone && !s.holdsToken idx) = false) {u : State} (hturn : turnOf r s = .ok ⟨⟩ u)
include hholds hturn

/-- With its checks passed and its region turned, `tr.rel` ends as its effect does. -/
theorem trRel_run : ∃ m, exec (.trRel d a b) s = finish m s ∧
    m s = (outward (.rel idx owner) (fun st => (st.giveToken idx owner, [])) >>= fun _ => pure Done.adv) u := by
  refine ⟨_, rfl, ?_⟩
  rw [bind_ok hops, bind_ok (get_run s), hholds]
  refine (congrFun (if_neg Bool.false_ne_true) s).trans ?_
  rw [bind_ok hq.drained_run, bind_ok (hq.performed_run hring)]
  cases r with
  | none =>
    cases hturn
    rfl
  | some q => exact bind_ok hturn

variable (hh : u.cur.handed = none)
include hh

theorem exec_trRel_of_not_held (hheld : u.held = false) : exec (.trRel d a b) s = .next (u.giveToken idx owner).advance := by
  obtain ⟨m, hexec, hm⟩ := trRel_run hq hring hops hholds hturn
  rw [bind_ok (outward_of_not_held hh hheld _ _)] at hm
  exact hexec.trans (finish_adv hm)

theorem exec_trRel_of_hands (h : u.hands (.rel idx owner)) : exec (.trRel d a b) s = .next (u.handWait (.rel idx owner)) := by
  obtain ⟨m, hexec, hm⟩ := trRel_run hq hring hops hholds hturn
  rw [bind_error (outward_of_hands hh h _)] at hm
  exact hexec.trans (finish_wait hm)

end

/-! ### The claim -/

theorem mayTake_of_free {st : Option TokSt} {owner : Nat} (h : st = none ∨ (owner ≠ 0 ∧ st = some (.handed owner))) :
    mayTake st owner = true := by
  rcases h with rfl | ⟨hne, rfl⟩
  · rfl
  · simp [mayTake, hne]

theorem holdsToken_of_free {s : State} {idx owner : Nat} (h : s.token idx = none ∨ (owner ≠ 0 ∧ s.token idx = some (.handed owner))) :
    s.holdsToken idx = false := by
  rcases h with h | ⟨-, h⟩ <;> rw [State.holdsToken, h]

/-- What an acquire leaves of the state in which it finds its token free. -/
def State.acquired (s : State) (idx owner : Nat) (r : Option (Nat × Nat)) : State :=
  ((s.takeToken idx owner).forgetReply.acquireRegion r).advance

section
variable (s : State) (idx owner : Nat) (r : Option (Nat × Nat))

theorem State.acquired_keeps {γ : Type} {g : State → γ} (hrecs : ∀ (s : State) a, g { s with hrecs := a } = g s)
    (hdata : ∀ (s : State) (d : QuadData), d.tlb = s.quad.d.tlb → g (s.modQ fun _ => d) = g s)
    (hcur : ∀ (s : State) a, g { s with cur := a } = g s) : g (s.acquired idx owner r) = g (s.takeToken idx owner) :=
  (hcur _ _).trans ((State.acquireRegion_keeps hrecs hdata _ _).trans (hcur _ _))

theorem State.acquired_token (j : Nat) :
    (s.acquired idx owner r).token j = if j = idx then some (.held owner s.cur.uid) else s.token j :=
  (s.acquired_keeps idx owner r (g := fun t => t.token j) (fun _ _ => rfl) (fun _ _ _ => rfl) (fun _ _ => rfl)).trans
    (s.takeToken_token idx owner j)

theorem State.acquired_mem : (s.acquired idx owner r).mem = s.mem :=
  (s.acquired_keeps idx owner r (g := State.mem) (fun _ _ => rfl) (fun _ _ _ => rfl) (fun _ _ => rfl)).trans
    (s.takeToken_keeps idx owner (fun _ _ _ => rfl) (fun _ _ => rfl) (fun _ _ _ => rfl) (fun _ _ => rfl) (fun _ _ => rfl))

theorem State.acquired_tokReqs : (s.acquired idx owner r).tokReqs = s.tokReqs :=
  (s.acquired_keeps idx owner r (g := State.tokReqs) (fun _ _ => rfl) (fun _ _ _ => rfl) (fun _ _ => rfl)).trans
    (s.takeToken_keeps idx owner (fun _ _ _ => rfl) (fun _ _ => rfl) (fun _ _ _ => rfl) (fun _ _ => rfl) (fun _ _ => rfl))

theorem State.acquired_handed : (s.acquired idx owner r).cur.handed = none := congrArg Strand.handed (State.acquireRegion_cur _ r)

variable (hlive : s.cur.status ≠ .absent)
include hlive

theorem State.acquired_sc : (s.acquired idx owner r).cur.sc = s.cur.sc.advance := by
  rw [State.acquired, State.advance_sc, State.acquireRegion_cur, State.forgetReply, State.modCur_cur, s.takeToken_cur idx owner hlive]

/-- The records and the copies of the region are gone. -/
theorem State.acquired_clears {q : Nat × Nat} {a : Area} (ha : a ∈ s.areas q.1 q.2) :
    (s.acquired idx owner (some q)).NoRecs a ∧ (s.acquired idx owner (some q)).NoCopies s.cur.ident.core a := by
  rw [← s.takeToken_areas idx owner hlive] at ha
  have hclear := State.acquireRegion_clears (s.takeToken idx owner).forgetReply q ha
  rw [State.forgetReply, State.modCur_cur, s.takeToken_cur idx owner hlive] at hclear
  exact hclear

end

/-- Settles O42: the operands decide REGION; a request for a free token is granted in the step that makes it; a release hands the token on
from where its turn ends. -/
theorem tokenResults : Obligations.TokenResults := by
  unfold Obligations.TokenResults
  intro d a b s p r hset hrun hp hr v tok owner idx as_ turned hlow hhigh
  obtain ⟨hq, -, hh, -, -, -, -, -, hfill, -, -⟩ := hset
  have hring (q : Ring) (hq : s.cur.ring = some q) : q.due = [] := (hfill q hq).2
  have hlive : s.cur.status ≠ .absent := by rw [hrun]; exact nofun
  refine ⟨fun hbeyond => ?_, fun hwithin => ?_, fun q u hfind => ?_⟩
  · exact exec_tr_of_tokenOps_error hq (tokenOps_of_beyond hq hp hr hlow hhigh hbeyond)
  · have hops : tokenOps d a b s = .ok (idx, owner, r) s := tokenOps_of_within hq hp hr hlow hhigh hwithin
    have hplat (h : s.held = false) : platform 64 s = .ok ⟨⟩ s := platform_of_not_held h 64
    refine ⟨exec_trAcq_of_holder hq hh hp hops, fun hfree hreqs hheld => ?_, fun hnot hhands => ?_, fun id hnone => ?_,
      exec_trRel_of_not_holder hq hh hp hops, fun hholds => ?_, fun hreqs => ?_⟩
    · have hexec := exec_trAcq_of_granted hq hring hops (by rw [holdsToken_of_free hfree, Bool.and_false]) (hplat hheld)
        (acquireToken_of_free hh hlive hheld hreqs (mayTake_of_free hfree))
      have htoken := s.acquired_token idx owner r
      refine ⟨s.acquired idx owner r, hexec, s.acquired_sc idx owner r hlive, (htoken idx).trans (if_pos rfl),
        fun j hj => (htoken j).trans (if_neg hj), s.acquired_mem idx owner r, s.acquired_tokReqs idx owner r,
        s.acquired_handed idx owner r, ?_⟩
      cases r with
      | none => exact fun _ ha => absurd ha List.not_mem_nil
      | some q => exact fun _ ha => s.acquired_clears idx owner hlive ha
    · obtain ⟨hheld, hroom⟩ := hhands
      exact exec_trAcq_of_waiting hq hring hops (by rw [hnot, Bool.and_false]) (platform_of_room hroom) (acquireToken_of_held hh hheld)
    · subst hnone
      have hempty := length_of_regionOf_none hr
      have hops' : tokenOps d a b (s.answered id) = .ok (idx, owner, none) (s.answered id) :=
        tokenOps_of_within (hq.answered id) hp (regionOf_of_empty hempty _) hlow hhigh hwithin
      have hgo := exec_trAcq_of_granted (hq.answered id) hring hops' rfl rfl (acquireToken_of_reply rfl idx owner)
      rw [State.forget_answered hh] at hgo
      exact hgo
    · have hholds' : (s.cur.handed.isNone && !s.holdsToken idx) = false := by rw [hholds, Bool.not_true, Bool.and_false]
      refine ⟨fun hnone hheld => ?_, fun hnone hhands => ?_, fun u hturn hhu hheld => ?_⟩
      · subst hnone
        exact exec_trRel_of_not_held hq hring hops hholds' rfl hh hheld
      · subst hnone
        exact exec_trRel_of_hands hq hring hops hholds' rfl hh hhands
      · exact exec_trRel_of_not_held hq hring hops hholds' hturn hhu hheld
    · rw [State.giveToken_of_no_request hreqs]
      exact ⟨(State.token_setToken_ite _ _ _ _).trans (if_pos rfl), fun j hj => (State.token_setToken_ite _ _ _ _).trans (if_neg hj)⟩
  · obtain ⟨t, hgrant, htoken, -⟩ := (tokenGrant_spec u idx).2 q hfind
    obtain rfl : u.grantToken idx = t := Host.Outcome.next.inj hgrant
    exact htoken

end Sys2Proof.Machine
end

section
/-! What serving an effect at its home leaves alone: the requests on the fabric with their order, and the lines that are being filled or
written back (R327, R328). -/

namespace Sys2Proof.Machine

/-- The requests on the fabric, the order of their service, and the lines under way between a slice and its memory. -/
def State.fabric (s : State) : List Req × Nat × List Nat × List Nat := (s.reqs, s.effSeq, s.fills, s.flushes)

theorem fabric_ite {c : Prop} [Decidable c] {s t : State} {x : List Req × Nat × List Nat × List Nat} (hs : s.fabric = x)
    (ht : t.fabric = x) : (if c then s else t).fabric = x := by
  split
  · exact hs
  · exact ht

/-! ### Strands, quads and memory -/

theorem State.modQuad_fabric (s : State) (q : Nat) (f : Quad → Quad) : (s.modQuad q f).fabric = s.fabric :=
  State.modQuad_keeps (fun _ _ _ => rfl) s q f

theorem State.modStrand_fabric (s : State) (uid : Nat) (f : Strand → Strand) : (s.modStrand uid f).fabric = s.fabric :=
  State.modStrand_keeps (fun _ _ _ => rfl) s uid f

theorem State.select_fabric (s : State) (uid : Nat) : (s.select uid).fabric = s.fabric := by
  unfold State.select
  split
  · rfl
  · exact fabric_ite rfl rfl

theorem State.as_fabric {f : State → State} (hf : ∀ t, (f t).fabric = t.fabric) (s : State) (uid : Nat) :
    (s.as uid f).fabric = s.fabric := by
  have hgone : (f (s.select uid)).fabric = s.fabric := (hf _).trans (s.select_fabric uid)
  unfold State.as
  exact fabric_ite (hf s) (fabric_ite (fabric_ite hgone ((State.select_fabric _ _).trans hgone)) rfl)

theorem State.memWrite_fabric (s : State) (k : Nat) (bs : List Byte) : (s.memWrite k bs).fabric = s.fabric := by
  have hjournal : (s.journal k bs.length).fabric = s.fabric := fabric_ite rfl (s.modQuad_fabric _ _)
  exact hjournal

theorem State.putBytes_fabric (s : State) (bs : List (Nat × Byte)) : (s.putBytes bs).fabric = s.fabric :=
  foldl_keeps (fun t _ => t.memWrite_fabric _ _) bs s

theorem State.hostFill_fabric (s : State) (k n : Nat) : (s.hostFill k n).fabric = s.fabric := fabric_ite rfl rfl

theorem State.keyRead_fabric (s : State) (kid key n : Nat) : (s.keyRead kid key n).2.fabric = s.fabric := by
  unfold State.keyRead
  split <;> rfl

theorem State.keyWrite_fabric (s : State) (kid key : Nat) : (s.keyWrite kid key).fabric = s.fabric := by
  unfold State.keyWrite
  extract_lets line f s1
  have h1 : s1.fabric = s.fabric := fabric_ite (f.2.memWrite_fabric _ _) rfl
  exact fabric_ite rfl (fabric_ite h1 h1)

theorem State.setDirtyAt_fabric (s : State) (va : Word) : (s.setDirtyAt va).fabric = s.fabric :=
  State.orLeaf_keeps State.fabric State.memWrite_fabric s _ va _

/-! ### Lines in their slices -/

theorem State.dropLine_fabric (s : State) (line : Nat) : (s.dropLine line).fabric = s.fabric := fabric_ite rfl rfl

theorem State.touchLine_fabric (s : State) (p line : Nat) (mask : BitVec 16) (win : Bool) (pol va : Nat) :
    (s.touchLine p line mask win pol va).1.fabric = s.fabric := by
  unfold State.touchLine
  extract_lets
  split
  · rfl
  · refine fabric_ite (c := (s.setLines line).length < 16) rfl ?_
    split
    · exact s.dropLine_fabric _
    · rfl

theorem State.heatUp_fabric (s : State) (uid pa : Nat) : (s.heatUp uid pa).fabric = s.fabric := by
  unfold State.heatUp
  split
  · rfl
  · exact fabric_ite rfl rfl

theorem State.homeLookup_fabric (s : State) (uid p crew key va n pol : Nat) (cach : Bool) :
    (s.homeLookup uid p crew key va n pol cach).fabric = s.fabric :=
  fabric_ite rfl ((State.modStrand_fabric _ _ _).trans ((State.touchLine_fabric _ _ _ _ _ _ _).trans
    ((State.heatUp_fabric _ _ _).trans (s.hostFill_fabric _ _))))

theorem State.countOvf_fabric (s : State) (uid refused : Nat) : (s.countOvf uid refused).fabric = s.fabric :=
  fabric_ite rfl (s.modStrand_fabric _ _)

theorem State.landLine_fabric (s : State) (uid part line : Nat) (bs : List HomeB) : (s.landLine uid part line bs).fabric = s.fabric := by
  unfold State.landLine
  split
  · rfl
  · extract_lets kv s1 s1' s2 win t
    have hfill : s1.fabric = s.fabric := foldl_keeps (fun t _ => t.hostFill_fabric _ _) _ _
    have hput : s1'.fabric = s.fabric := (State.putBytes_fabric _ _).trans (s.keyWrite_fabric _ _)
    have hspoil : s2.fabric = s.fabric := (foldl_keeps (fun t h => (rfl : (t.spoil h.key).fabric = t.fabric)) _ _).trans hput
    refine fabric_ite ((State.touchLine_fabric _ _ _ _ _ _ _).trans ((State.heatUp_fabric _ _ _).trans hfill)) (fabric_ite ?_ hspoil)
    exact (State.countOvf_fabric _ _ _).trans ((State.touchLine_fabric _ _ _ _ _ _ _).trans ((State.heatUp_fabric _ _ _).trans hspoil))

theorem State.lockLine_fabric (s : State) (p line va : Nat) : (s.lockLine p line va).1.fabric = s.fabric := by
  unfold State.lockLine
  extract_lets
  simp only [apply_ite Prod.fst]
  exact fabric_ite rfl (fabric_ite rfl (fabric_ite rfl (s.touchLine_fabric _ _ _ _ _ _)))

/-! ### Turns and atomics at their homes -/

theorem State.landTurn_fabric (s : State) (quad uid id : Nat) (bytes : List HomeB) (rcds : List ScopeRec) (how : Carry) :
    (s.landTurn quad uid id bytes rcds how).1.fabric = s.fabric := by
  unfold State.landTurn
  extract_lets +onlyGivenNames i s1 s2 s3
  have h1 : s1.fabric = s.fabric := foldl_keeps (fun t _ => t.landLine_fabric _ _ _ _) _ _
  have h2 : s2.fabric = s.fabric := by
    unfold s2
    split
    · exact h1
    · exact h1
  refine (foldl_keeps (g := fun p : State × List Mismatch => p.1.fabric) (fun p r => ?_) rcds (s3, [])).trans
    ((State.modQuad_fabric _ _ _).trans h2)
  split
  · refine foldl_keeps (fun t m => ?_) _ _
    split
    · exact t.modStrand_fabric _ _
    · rfl
  · rfl

theorem State.logTurn_fabric (s : State) (uid id : Nat) (ms : List Mismatch) : (s.logTurn uid id ms).fabric = s.fabric :=
  fabric_ite rfl (foldl_keeps (fun t _ => t.modStrand_fabric _ _) ms s)

theorem State.hostTries_fabric (r : AtReq) (fuel old : Nat) (s : State) : (State.hostTries r fuel old s).2.fabric = s.fabric := by
  induction fuel generalizing old s with
  | zero => rfl
  | succ fuel ih =>
    unfold State.hostTries
    extract_lets n new_ s1 now
    have h1 : s1.fabric = s.fabric := fabric_ite (State.memWrite_fabric _ _ _) rfl
    simp only [apply_ite Prod.snd]
    exact fabric_ite rfl (fabric_ite ((State.memWrite_fabric _ _ _).trans h1) ((ih _ _).trans h1))

theorem State.atHost_fabric (s : State) (r : AtReq) : (s.atHost r).2.fabric = s.fabric := by
  unfold State.atHost
  extract_lets n line s1 old
  simp only [apply_ite Prod.snd]
  exact fabric_ite rfl (fabric_ite (State.hostTries_fabric _ _ _ _) (fabric_ite (State.memWrite_fabric _ _ _) rfl))

theorem State.atHomeFrom_fabric (s : State) (i : Ident) (uid : Nat) (r : AtReq) : (s.atHomeFrom i uid r).2.fabric = s.fabric := by
  unfold State.atHomeFrom
  extract_lets n s1 rec_ ok s2 f old s3
  have hread : f.2.fabric = s.fabric := (State.keyRead_fabric _ _ _ _).trans (s.homeLookup_fabric _ _ _ _ _ _ _ _)
  have hwritten : s3.fabric = s.fabric :=
    fabric_ite ((State.memWrite_fabric _ _ _).trans ((State.keyWrite_fabric _ _ _).trans hread)) hread
  simp only [apply_ite Prod.snd]
  exact fabric_ite rfl (fabric_ite rfl hwritten)

theorem State.atHome_fabric (s : State) (quad uid : Nat) (r : AtReq) : (s.atHome quad uid r).2.fabric = s.fabric := by
  unfold State.atHome
  split
  · exact s.atHost_fabric r
  · exact s.atHomeFrom_fabric _ _ r

theorem State.atHomes_fabric (s : State) (quad uid : Nat) (rs : List AtReq) (acc : List Word) (j : Nat) :
    (s.atHomes quad uid rs acc j).1.fabric = s.fabric := by
  induction rs generalizing s acc j with
  | nil => rfl
  | cons r rs ih =>
    have hone := s.atHome_fabric quad uid r
    unfold State.atHomes
    split <;> rename_i hres <;> rw [hres] at hone
    · exact (ih _ _ _).trans hone
    · exact hone

theorem State.atomics_fabric (s : State) (quad uid : Nat) (rs : List AtReq) : (s.atomics quad uid rs).1.fabric = s.fabric := by
  unfold State.atomics
  extract_lets
  split
  · split
    · rw [apply_ite Prod.fst]
      exact fabric_ite (State.memWrite_fabric _ _ _) rfl
    · rfl
  · exact (State.atHomes_fabric _ _ _ _ _ _).trans
      (foldl_keeps (fun t r => t.as_fabric (fun u => u.setDirtyAt_fabric r.va) uid) rs s)

theorem State.serveEff_fabric (s : State) (e : Eff) : (s.serveEff e).1.fabric = s.fabric := by
  unfold State.serveEff
  split
  case h_1 => exact (State.logTurn_fabric _ _ _ _).trans (s.landTurn_fabric _ _ _ _ _ _)
  case h_2 => exact s.atomics_fabric _ _ _
  case h_3 => exact (State.lockLine_fabric _ _ _ _).trans (s.heatUp_fabric _ _)
  case h_4 => exact s.heatUp_fabric _ _
  case h_5 => rfl

end Sys2Proof.Machine
end

section
/-! Requests at their slices: refusal, acceptance, service, retry and reply (R322 to R329). -/

namespace Sys2Proof.Machine

/-! ### Requests by the number of their effect -/

theorem State.req?_id {s : State} {n : Nat} {r : Req} (h : s.req? n = some r) : r.eff.id = n := by simpa using List.find?_some h

/-- A change that leaves every request its effect's number is seen at the request that it names. -/
theorem State.req?_modReq {f : Req → Req} (hf : ∀ r, (f r).eff.id = r.eff.id) {s : State} {n : Nat} {r : Req} (h : s.req? n = some r) :
    (s.modReq n f).req? n = some (f r) := by
  have hid (k : Req) : (if k.eff.id = n then f k else k).eff.id = k.eff.id := by
    split_ifs
    · exact hf k
    · rfl
  have hpred : (fun k : Req => k.eff.id == n) ∘ (fun k => if k.eff.id = n then f k else k) = fun k => k.eff.id == n :=
    funext fun k => congrArg (· == n) (hid k)
  unfold State.req? State.modReq at *
  rw [List.find?_map, hpred, h]
  exact congrArg some (if_pos (State.req?_id h))

theorem Req.meets_iff (k r : Req) : k.meets r = true ↔ ∃ l ∈ r.lines, l ∈ k.lines := by
  simp only [Req.meets, List.any_eq_true, List.contains_iff_mem]
  exact exists_congr fun _ => and_comm

theorem Req.isRefused_iff (r : Req) : r.isRefused = true ↔ ∃ h, r.st = .refused h := by
  unfold Req.isRefused
  cases r.st <;> simp

theorem Req.isReplied_iff (r : Req) : r.isReplied = true ↔ ∃ ws, r.st = .replied ws := by
  unfold Req.isReplied
  cases r.st <;> simp

/-! ### Why a slice refuses (R328, R329) -/

/-- The bucket's move has begun and not ended. -/
def State.Moving (s : State) (b : Nat) : Prop := ∃ k, s.buckets.find? (fun k => k.idx == b) = some k ∧ k.moving ≠ none

theorem State.moving_iff (s : State) (b : Nat) :
    (s.buckets.find? (fun k => k.idx == b)).elim false (fun k => k.moving.isSome) = true ↔ s.Moving b := by
  unfold State.Moving
  cases s.buckets.find? (fun k => k.idx == b) with
  | none => simp
  | some k => simp [Option.isSome_iff_ne_none]

/-- An earlier request of the quad for the line is refused and not yet resent. -/
def State.RefusedBefore (s : State) (r : Req) (l : Nat) : Prop :=
  ∃ k ∈ s.before r.eff.id, k.eff.quad = r.eff.quad ∧ l ∈ k.lines ∧ ∃ g, k.st = .refused g

section
variable {s : State} {r : Req} {l slice : Nat}

theorem State.refusalAt_of_peer (h : peerLine l = true) : s.refusalAt r l slice = none := if_pos h

variable (hl : peerLine l = false)
include hl

theorem State.refusalAt_of_moved (h : s.sliceOf (lineBucket l) ≠ slice) : s.refusalAt r l slice = some 0 := by
  simp [State.refusalAt, hl, h]

variable (hs : s.sliceOf (lineBucket l) = slice)
include hs

theorem State.refusalAt_of_moving (h : s.Moving (lineBucket l)) : ∃ e < 1024, s.refusalAt r l slice = some e := by
  refine ⟨_, Nat.mod_lt (Config.freeWord s.freeCtr).toNat (by decide), ?_⟩
  simp [State.refusalAt, hl, hs, (s.moving_iff _).2 h]

variable (hm : ¬ s.Moving (lineBucket l))
include hm

theorem State.refusalAt_of_senior (h : 4 ≤ r.refusals) :
    s.refusalAt r l slice = if 64 ≤ s.entries slice true then some 256 else none := by
  simp [State.refusalAt, hl, hs, mt (s.moving_iff _).1 hm, Req.senior, h]

variable (hr : r.refusals < 4)
include hr

theorem State.refusalAt_of_underway (h : l ∈ s.flushes ∨ l ∈ s.fills) : ∃ e < 1024, s.refusalAt r l slice = some e := by
  refine ⟨_, Nat.mod_lt (Config.freeWord s.freeCtr).toNat (by decide), ?_⟩
  rcases h with h | h <;> simp [State.refusalAt, hl, hs, mt (s.moving_iff _).1 hm, Req.senior, Nat.not_le.2 hr, h]

variable (hflush : l ∉ s.flushes) (hfill : l ∉ s.fills)
include hflush hfill

theorem State.refusalAt_of_full (h : 48 ≤ s.entries slice false) : s.refusalAt r l slice = some 64 := by
  simp [State.refusalAt, hl, hs, mt (s.moving_iff _).1 hm, Req.senior, Nat.not_le.2 hr, hflush, hfill, h]

/-- With room in the slice only an earlier refused request of the quad keeps a request out. -/
theorem State.refusalAt_of_room (h : s.entries slice false < 48) : s.RefusedBefore r l ↔ s.refusalAt r l slice ≠ none := by
  unfold State.RefusedBefore
  cases hfind : (s.before r.eff.id).find? (fun k => k.eff.quad == r.eff.quad && decide (l ∈ k.lines) && k.isRefused) with
  | none =>
    have hnone : s.refusalAt r l slice = none := by
      simp [State.refusalAt, hl, hs, mt (s.moving_iff _).1 hm, Req.senior, Nat.not_le.2 hr, hflush, hfill, Nat.not_le.2 h, hfind]
    refine iff_of_false ?_ (not_not.2 hnone)
    rintro ⟨k, hk, hquad, hline, hrefused⟩
    have hno := List.find?_eq_none.1 hfind k hk
    simp [hquad, hline, (Req.isRefused_iff k).2 hrefused] at hno
  | some k =>
    have hk := List.find?_some hfind
    simp only [Bool.and_eq_true, beq_iff_eq, decide_eq_true_eq, Req.isRefused_iff] at hk
    obtain ⟨⟨hquad, hline⟩, g, hg⟩ := hk
    have hsome : s.refusalAt r l slice = some g := by
      simp [State.refusalAt, hl, hs, mt (s.moving_iff _).1 hm, Req.senior, Nat.not_le.2 hr, hflush, hfill, Nat.not_le.2 h, hfind, hg]
    exact iff_of_true ⟨k, List.mem_of_find?_eq_some hfind, hquad, hline, g, hg⟩ (hsome ▸ Option.some_ne_none g)

end

theorem State.refusalOf_eq_none (s : State) (r : Req) : s.refusalOf r = none ↔ ∀ p ∈ r.slices, s.refusalAt r p.1 p.2 = none :=
  List.findSome?_eq_none_iff

theorem State.exists_refusalAt {s : State} {r : Req} {h : Nat} (hh : s.refusalOf r = some h) :
    ∃ p ∈ r.slices, s.refusalAt r p.1 p.2 = some h := by
  obtain ⟨_, p, _, hslices, hp, -⟩ := List.findSome?_eq_some_iff.1 hh
  exact ⟨p, hslices ▸ by simp, hp⟩

/-! ### A request arrives at its slices (R322, R327, R328) -/

/-- A slice executes each of these kinds. -/
theorem EffKind.toSlice_of {k : EffKind} (h : (∃ bs rs sys, k = .turn bs rs sys) ∨ (∃ rs, k = .atomic rs) ∨ (∃ l va, k = .lock l va) ∨
    (∃ l, k = .unlock l)) : k.toSlice = true := by
  rcases h with ⟨_, _, _, rfl⟩ | ⟨_, rfl⟩ | ⟨_, _, rfl⟩ | ⟨_, rfl⟩ <;> rfl

/-- The request has to wait: for a line, or behind an accepted request of one. -/
def State.MustWait (s : State) (r : Req) : Prop :=
  (∃ l ∈ r.lines, s.lineReady r.eff l = false) ∨ ∃ k ∈ s.reqs, k.st = .waiting ∧ ∃ l ∈ r.lines, l ∈ k.lines

theorem State.ready_iff_not_mustWait (s : State) (r : Req) : ((r.lines.filter (fun l => !s.lineReady r.eff l)).isEmpty &&
    !s.reqs.any (fun k => decide (k.st = .waiting) && k.meets r)) = true ↔ ¬ s.MustWait r := by
  simp [State.MustWait, ← Req.meets_iff]

section
variable {s : State} {n : Nat} {r : Req} (h : s.req? n = some r)
include h

theorem exec_sliceRequest_of_kept (hk : r.st ≠ .travel ∨ ∃ k ∈ s.before n, k.st = .travel ∧ r.inLane k = true) :
    exec (.sliceRequest n) s = .next s := by
  refine congrArg Host.Outcome.next ?_
  dsimp only
  rw [h]
  refine if_pos (hk.imp id fun hbehind => .inl ?_)
  simpa using hbehind

variable (ht : r.st = .travel) (hb : ∀ k ∈ s.before n, k.st = .travel → r.inLane k = false) (hk : r.eff.kind.toSlice = true)
include ht hb hk

omit h in
theorem Req.first_of_lane : ¬ (r.st ≠ .travel ∨ (s.before n).any (fun k => decide (k.st = .travel) && r.inLane k) = true ∨
    (!r.eff.kind.toSlice) = true) := by
  simpa [ht, hk] using hb

theorem exec_sliceRequest_of_refusal {g : Nat} (hg : s.refusalOf r = some g) : exec (.sliceRequest n) s =
    .next (({ s with freeCtr := s.freeCtr + 1 } : State).modReq n (fun k => { k with
      st := .refused g, refusals := k.refusals + 1, mayComb := k.mayComb && k.combined.isEmpty })) := by
  refine congrArg Host.Outcome.next ?_
  dsimp only
  rw [h]
  refine (if_neg (Req.first_of_lane ht hb hk)).trans ?_
  rw [hg]

variable (hnone : s.refusalOf r = none)
include hnone

theorem exec_sliceRequest_of_ready (hready : ¬ s.MustWait r) : exec (.sliceRequest n) s = .next (s.serveReq r) := by
  refine congrArg Host.Outcome.next ?_
  dsimp only
  rw [h]
  refine (if_neg (Req.first_of_lane ht hb hk)).trans ?_
  rw [hnone]
  exact if_pos ((s.ready_iff_not_mustWait r).2 hready)

/-- The request waits; the fills of those of its lines that lack sectors, and that no slice is writing back, begin. -/
theorem exec_sliceRequest_of_mustWait (hwait : s.MustWait r) : ∃ t, exec (.sliceRequest n) s = .next t ∧ t.mem = s.mem ∧ t.cur = s.cur ∧
    t.req? n = some { r with st := .waiting, entry := true, turnNo := s.effSeq } ∧
    ∀ l, l ∈ t.fills ↔ l ∈ s.fills ∨ (l ∈ r.lines ∧ s.lineReady r.eff l = false ∧ l ∉ s.flushes) := by
  let miss := r.lines.filter (fun l => !s.lineReady r.eff l)
  let u : State := { s with
    effSeq := s.effSeq + 1
    fills := miss.filter (fun l => !s.fills.contains l && !s.flushes.contains l) ++ s.fills }
  let f (k : Req) : Req := { k with st := .waiting, entry := true, turnNo := s.effSeq }
  refine ⟨u.modReq n f, ?_, rfl, rfl, State.req?_modReq (s := u) (f := f) (fun _ => rfl) h, fun l => ?_⟩
  · refine congrArg Host.Outcome.next ?_
    dsimp only
    rw [h]
    refine (if_neg (Req.first_of_lane ht hb hk)).trans ?_
    rw [hnone]
    exact if_neg (mt (s.ready_iff_not_mustWait r).1 (not_not.2 hwait))
  · change l ∈ miss.filter (fun l => !s.fills.contains l && !s.flushes.contains l) ++ s.fills ↔ _
    unfold miss
    by_cases hl : l ∈ s.fills
    · simp [hl]
    · simp [hl, and_comm (a := l ∉ s.flushes)]

end

/-! ### Retries and replies (R322, R329) -/

section
variable {s : State} {n : Nat} {r : Req} (h : s.req? n = some r)
include h

theorem exec_requestRetry_of_not_refused (hr : ∀ g, r.st ≠ .refused g) : exec (.requestRetry n) s = .next s := by
  refine congrArg Host.Outcome.next ?_
  dsimp only
  rw [h]
  exact if_pos (by simp [mt r.isRefused_iff.1 (not_exists.2 hr)])

/-- A request of the quad to one of its lines stands refused before it. -/
def State.RetryBehind (s : State) (n : Nat) (r : Req) : Prop :=
  ∃ k ∈ s.before n, k.eff.quad = r.eff.quad ∧ (∃ l ∈ r.lines, l ∈ k.lines) ∧ ∃ g, k.st = .refused g

omit h in
theorem State.retryBehind_iff (s : State) (n : Nat) (r : Req) :
    (s.before n).any (fun k => k.eff.quad == r.eff.quad && k.meets r && k.isRefused) = true ↔ s.RetryBehind n r := by
  simp [State.RetryBehind, Req.meets_iff, Req.isRefused_iff, and_assoc]

theorem exec_requestRetry_of_behind (hb : s.RetryBehind n r) : exec (.requestRetry n) s = .next s := by
  refine congrArg Host.Outcome.next ?_
  dsimp only
  rw [h]
  exact if_pos (by simp [(s.retryBehind_iff n r).2 hb])

theorem exec_requestRetry {g : Nat} (hg : r.st = .refused g) (hb : ¬ s.RetryBehind n r) : exec (.requestRetry n) s =
    .next (s.modReq n (fun k => { k with st := .travel, slices := s.lineSlices k.eff.lines })) := by
  refine congrArg Host.Outcome.next ?_
  dsimp only
  rw [h]
  exact if_neg (by simp [r.isRefused_iff.2 ⟨g, hg⟩, mt (s.retryBehind_iff n r).1 hb])

theorem exec_replyArrival_of_not_replied (hr : ∀ ws, r.st ≠ .replied ws) : exec (.replyArrival n) s = .next s := by
  refine congrArg Host.Outcome.next ?_
  dsimp only
  rw [h]
  dsimp only
  split
  · next ws hws => exact absurd hws (hr ws)
  · rfl

omit h in
theorem State.replyBehind_iff (s : State) (r : Req) : s.replyBehind r = true ↔
    ∃ k ∈ s.reqs, (∃ v, k.st = .replied v) ∧ k.turnNo < r.turnNo ∧ k.inLane r = true := by
  simp [State.replyBehind, Req.isReplied_iff, and_assoc]

variable {ws : List Word} (hws : r.st = .replied ws)
include hws

theorem exec_replyArrival_of_kept (hk : r.combined ≠ [] ∨ s.replyBehind r = true) : exec (.replyArrival n) s = .next s := by
  refine congrArg Host.Outcome.next ?_
  dsimp only
  rw [h]
  dsimp only
  rw [hws]
  exact if_neg (by simpa [or_iff_not_imp_left] using hk)

theorem exec_replyArrival (hc : r.combined = []) (hb : s.replyBehind r ≠ true) : exec (.replyArrival n) s =
    .next (({ s with reqs := s.reqs.filter (fun k => k.eff.id != n) } : State).answer r.eff.uid n ws) := by
  refine congrArg Host.Outcome.next ?_
  dsimp only
  rw [h]
  dsimp only
  rw [hws]
  exact if_pos (by simp [hc, hb])

end

/-- An answer that no passed `at` waits for is a reply to its strand. -/
theorem State.answer_of_not_ahead {s : State} {n : Nat} (h : ∀ a ∈ s.ahead, a.eff ≠ n) (uid : Nat) (ws : List Word) :
    s.answer uid n ws = s.reply uid n ws := by
  unfold State.answer
  rw [List.find?_eq_none.2 fun a ha => by simpa using h a ha]

/-! ### A fill arrives (R327, R329) -/

/-- A line that is neither filled nor written back is still so once a request has been served. -/
theorem State.serveReq_underway (s : State) (r : Req) : (s.serveReq r).fills = s.fills ∧ (s.serveReq r).flushes = s.flushes := by
  obtain ⟨-, -, hfills, hflushes⟩ : _ ∧ _ ∧ _ ∧ _ := by simpa [State.fabric] using s.serveEff_fabric r.eff
  exact ⟨hfills, hflushes⟩

theorem State.serveWaiting_of_free {r : Req} {rs : List Req} {l : Nat} {s : State} (hr : r.lines = [l]) (hfill : l ∉ s.fills)
    (hflush : l ∉ s.flushes) : State.serveWaiting (r :: rs) [] s = State.serveWaiting rs [] (s.serveReq r) :=
  if_neg (by simp [hr, hfill, hflush])

/-- Two requests for the one line of a fill are both served, in their order. -/
theorem State.serveWaiting_pair {a b : Req} {l : Nat} {s : State} (ha : a.lines = [l]) (hb : b.lines = [l]) (hfill : l ∉ s.fills)
    (hflush : l ∉ s.flushes) : State.serveWaiting [a, b] [] s = (s.serveReq a).serveReq b := by
  obtain ⟨hfills, hflushes⟩ := s.serveReq_underway a
  rw [State.serveWaiting_of_free ha hfill hflush, State.serveWaiting_of_free hb (hfills ▸ hfill) (hflushes ▸ hflush)]
  rfl

theorem State.waitOrder_of_none {s : State} (h : ∀ r ∈ s.reqs, r.st ≠ .waiting) : s.waitOrder = [] := by
  have hnone : s.reqs.filter (fun r => decide (r.st = .waiting)) = [] := List.filter_eq_nil_iff.2 fun r hr => by simpa using h r hr
  unfold State.waitOrder
  rw [hnone]
  rfl

/-- Of two requests that wait, the second is served first when it alone is senior, or when the slices accepted it before one of its kind. -/
theorem State.waitOrder_pair {s : State} {a b : Req} (h : s.reqs = [a, b]) (ha : a.st = .waiting) (hb : b.st = .waiting) :
    s.waitOrder = if (b.senior && !a.senior) || (a.senior == b.senior && decide (b.turnNo < a.turnNo)) then [b, a] else [a, b] := by
  have hwait : s.reqs.filter (fun r => decide (r.st = .waiting)) = [a, b] := by simp [h, ha, hb]
  unfold State.waitOrder
  rw [hwait]
  by_cases hturn : b.turnNo < a.turnNo <;> cases hsa : a.senior <;> cases hsb : b.senior <;> simp [insertReq, hturn, hsa, hsb]

theorem exec_sliceFillArrival_of_not_filling {s : State} {l : Nat} (h : l ∉ s.fills) : exec (.sliceFillArrival l) s = .next s :=
  congrArg Host.Outcome.next (if_neg (by simpa using h))

theorem exec_sliceFillArrival {s : State} {l : Nat} (h : l ∈ s.fills) : exec (.sliceFillArrival l) s =
    .next (State.serveWaiting s.waitOrder [] { s with fills := s.fills.filter (fun k => k != l) }) :=
  congrArg Host.Outcome.next (if_pos (by simpa using h))

/-! ### Service (R327) -/

/-- A request that is served is answered, next in the order of service. -/
theorem State.req?_serveReq {s : State} {r : Req} (h : s.req? r.eff.id = some r) :
    (s.serveReq r).req? r.eff.id = some { r with st := .replied (s.serveEff r.eff).2, turnNo := s.effSeq } := by
  obtain ⟨hreqs, hseq, -⟩ : _ ∧ _ ∧ _ := by simpa [State.fabric] using s.serveEff_fabric r.eff
  let u : State := { (s.serveEff r.eff).1 with effSeq := (s.serveEff r.eff).1.effSeq + 1 }
  have hnamed : u.req? r.eff.id = some r := (congrArg (List.find? (fun k : Req => k.eff.id == r.eff.id)) hreqs).trans h
  rw [← hseq]
  exact State.req?_modReq (f := fun k => { k with st := .replied (s.serveEff r.eff).2, turnNo := (s.serveEff r.eff).1.effSeq })
    (fun _ => rfl) hnamed

theorem State.serveEff_lock_reply (s : State) {e : Eff} {line va : Nat} (hk : e.kind = .lock line va) :
    (s.serveEff e).2 = [w64 ((s.heatUp e.uid (512 * line)).lockLine (s.partOfUid e.uid) line va).2] := by
  unfold State.serveEff
  rw [hk]

end Sys2Proof.Machine
end

section
/-! Combining at stations and link ports, and the split of a combined reply (R339 to R342, R436). -/

namespace Sys2Proof.Machine

/-! ### Where two requests combine (R339, R436) -/

/-- The requests that a quad's station has absorbed. -/
def State.absorbed (s : State) (quad : Nat) : List Station :=
  (s.reqs.flatMap (·.combined)).filter (fun k => k.port == false && k.eff.quad == quad)

theorem State.station_eq (s : State) (x y : Req) (a : AtReq) : s.station x y a =
    if x.eff.quad ≠ y.eff.quad ∧ (s.absorbed y.eff.quad).length < 64 then some false
    else if keyHome a.key = 2 ∧ a.scope = 5 ∧ (x.eff.quad != y.eff.quad || (s.before y.eff.id).any (fun k => k.eff.id == x.eff.id)) = true ∧
      s.portEntries (s.outPort a) < 128 then some true
    else none := by
  have hport : (fun k : Station => !k.port && k.eff.quad == y.eff.quad) = fun k => k.port == false && k.eff.quad == y.eff.quad :=
    funext fun k => by cases k.port <;> rfl
  unfold State.station State.absorbed
  rw [← List.countP_eq_length_filter, ← hport]

section
variable {s : State} {x y : Req} {a : AtReq}

theorem State.station_of_quad (hquad : x.eff.quad ≠ y.eff.quad) (hroom : (s.absorbed y.eff.quad).length < 64) :
    s.station x y a = some false := by
  rw [State.station_eq, if_pos ⟨hquad, hroom⟩]

theorem State.station_of_shut (hquad : x.eff.quad = y.eff.quad ∨ 64 ≤ (s.absorbed y.eff.quad).length)
    (hport : keyHome a.key ≠ 2 ∨ a.scope ≠ 5 ∨ 128 ≤ s.portEntries (s.outPort a)) : s.station x y a = none := by
  rw [State.station_eq, if_neg (by omega), if_neg (by omega)]

theorem State.station_of_port (hfull : 64 ≤ (s.absorbed y.eff.quad).length) (hquad : x.eff.quad ≠ y.eff.quad) (hkey : keyHome a.key = 2)
    (hscope : a.scope = 5) (hroom : s.portEntries (s.outPort a) < 128) : s.station x y a = some true := by
  rw [State.station_eq, if_neg (by omega), if_pos ⟨hkey, hscope, by simp [hquad], hroom⟩]

end

theorem mayCombine_iff (a b : AtReq) : mayCombine a b = true ↔ a.key = b.key ∧ a.width = b.width ∧ a.op = b.op ∧ a.scope = b.scope ∧
    a.dom = b.dom ∧ a.trap = b.trap ∧ combinable a.op a.ac = true ∧ combinable b.op b.ac = true ∧ keyHome a.key ≠ 1 := by
  simp [mayCombine, and_assoc]

/-! ### A passing request absorbs a waiting one (R339) -/

/-- Both are on their way and may combine, and the passing one has room. -/
def State.MayAbsorb (s : State) (x y : Req) (a b : AtReq) : Prop :=
  x.st = .travel ∧ y.st = .travel ∧ x.mayComb = true ∧ y.mayComb = true ∧ y.combined.isEmpty = true ∧ x.combined.length < 4 ∧
    (!s.lineBehind x y) = true ∧ mayCombine a b = true

/-- The passing request, with the operand that both make together and an entry for the absorbed one. -/
def Req.absorb (x y : Req) (a b : AtReq) (port : Bool) : Req :=
  { x with
    eff := { x.eff with kind := .atomic [{ a with v := w64 (comb a.op a.width (a.v.toNat % 2 ^ a.width) (b.v.toNat % 2 ^ a.width)) }] }
    combined := x.combined ++ [⟨y.eff, a.v, port⟩] }

/-- The requests without one. -/
def State.without (s : State) (n : Nat) : State := { s with reqs := s.reqs.filter (fun k => k.eff.id != n) }

theorem State.req?_without_self (s : State) (n : Nat) : (s.without n).req? n = none :=
  List.find?_eq_none.2 fun k hk => by simpa using (List.mem_filter.1 hk).2

theorem State.req?_without_of_ne {s : State} {n m : Nat} (hne : m ≠ n) : (s.without n).req? m = s.req? m := by
  unfold State.without State.req?
  rw [List.find?_filter]
  congr 1
  funext k
  by_cases hk : k.eff.id = m
  · simp [hk, hne]
  · simp [hk]

theorem State.req?_modReq_of_none {s : State} {f : Req → Req} (hf : ∀ r, (f r).eff.id = r.eff.id) {n m : Nat} (h : s.req? m = none) :
    (s.modReq n f).req? m = none := by
  refine List.find?_eq_none.2 fun k hk => ?_
  obtain ⟨j, hj, rfl⟩ := List.mem_map.1 hk
  have hjm := List.find?_eq_none.1 h j hj
  split_ifs
  · rwa [hf]
  · exact hjm

section
variable {s : State} {p w : Nat} {x y : Req} {a b : AtReq} (hp : s.req? p = some x) (hw : s.req? w = some y) (ha : x.eff.single = some a)
  (hb : y.eff.single = some b)
include hp hw ha hb

theorem exec_stationCombine_of_no_station (h : s.station x y a = none) : exec (.stationCombine p w) s = .next s := by
  refine congrArg Host.Outcome.next ?_
  dsimp only
  rw [hp, hw]
  dsimp only
  rw [ha, hb]
  dsimp only
  rw [h]

theorem exec_stationCombine_of_apart (h : ¬ s.MayAbsorb x y a b) : exec (.stationCombine p w) s = .next s := by
  refine congrArg Host.Outcome.next ?_
  dsimp only
  rw [hp, hw]
  dsimp only
  rw [ha, hb]
  dsimp only
  split
  · rfl
  · exact if_neg h

theorem exec_stationCombine_of_kept (h : x.st ≠ .travel ∨ y.st ≠ .travel ∨ 4 ≤ x.combined.length ∨ mayCombine a b = false ∨
    s.lineBehind x y = true ∨ s.station x y a = none) : exec (.stationCombine p w) s = .next s := by
  by_cases hnone : s.station x y a = none
  · exact exec_stationCombine_of_no_station hp hw ha hb hnone
  · refine exec_stationCombine_of_apart hp hw ha hb fun ⟨hx, hy, _, _, _, hroom, hfirst, hmay⟩ => ?_
    rcases h with h | h | h | h | h | h
    · exact h hx
    · exact h hy
    · exact Nat.not_lt.2 h hroom
    · exact absurd hmay (by simp [h])
    · exact absurd hfirst (by simp [h])
    · exact hnone h

theorem exec_stationCombine {port : Bool} (hport : s.station x y a = some port) (h : s.MayAbsorb x y a b) :
    exec (.stationCombine p w) s = .next ((s.without w).modReq p (fun k => k.absorb y a b port)) := by
  refine congrArg Host.Outcome.next ?_
  dsimp only
  rw [hp, hw]
  dsimp only
  rw [ha, hb]
  dsimp only
  rw [hport]
  exact if_pos h

end

/-! ### The reply is split (R340) -/

section
variable {s : State} {n : Nat} {r : Req} (h : s.req? n = some r)
include h

theorem exec_replySplit_of_single (hc : r.combined = []) : exec (.replySplit n) s = .next s := by
  refine congrArg Host.Outcome.next ?_
  dsimp only
  rw [h]
  dsimp only
  rw [hc]
  split
  · next hlast _ => exact nomatch hlast
  · rfl

/-- A request that leaves the combined one `r`, answered. -/
def Req.released (r : Req) (k : Station) (ws : List Word) : Req :=
  { eff := k.eff, slices := r.slices, st := .replied ws, refusals := 0, combined := [], mayComb := false, entry := false,
    turnNo := r.turnNo }

/-- The request that was absorbed last leaves the combined one, answered with its own words. -/
theorem exec_replySplit {c old m e : Word} {cs : List Station} {k : Station} {q : AtReq} (hst : r.st = .replied [c, old, m, e])
    (hc : r.combined = cs ++ [k]) (hq : r.eff.single = some q) :
    let t := s.modReq n (fun x => { x with combined := x.combined.dropLast })
    exec (.replySplit n) s = .next { t with reqs := t.reqs ++ [r.released k (if c = 0 then
      [0, w64 (comb q.op q.width (old.toNat % 2 ^ q.width) (k.a.toNat % 2 ^ q.width)), m, e] else [c, old, m, e])] } := by
  intro t
  refine congrArg Host.Outcome.next ?_
  dsimp only
  rw [h]
  dsimp only
  rw [hst, hc, List.getLast?_concat, hq]
  rfl

theorem replySplit_spec {c old m e : Word} {cs : List Station} {k : Station} {q : AtReq} (hst : r.st = .replied [c, old, m, e])
    (hc : r.combined = cs ++ [k]) (hq : r.eff.single = some q) (hnew : ∀ j ∈ s.reqs, j.eff.id ≠ k.eff.id) :
    ∃ t, exec (.replySplit n) s = .next t ∧ t.mem = s.mem ∧ t.cur = s.cur ∧ t.req? n = some { r with combined := cs } ∧
      ∃ j, t.req? k.eff.id = some j ∧ j.eff = k.eff ∧ j.combined = [] ∧ j.st = .replied (if c = 0 then
        [0, w64 (comb q.op q.width (old.toNat % 2 ^ q.width) (k.a.toNat % 2 ^ q.width)), m, e] else [c, old, m, e]) := by
  let f (x : Req) : Req := { x with combined := x.combined.dropLast }
  have hkept : (s.modReq n f).req? n = some { r with combined := cs } := by
    rw [State.req?_modReq (f := f) (fun _ => rfl) h]
    simp [f, hc]
  have hgone : (s.modReq n f).req? k.eff.id = none :=
    State.req?_modReq_of_none (f := f) (fun _ => rfl) (List.find?_eq_none.2 fun j hj => by simpa using hnew j hj)
  refine ⟨_, exec_replySplit h hst hc hq, rfl, rfl, List.find?_append.trans ?_, r.released k _, List.find?_append.trans ?_,
    rfl, rfl, rfl⟩
  · exact congrArg (Option.or · _) hkept
  · refine (congrArg (Option.or · _) hgone).trans ?_
    exact List.find?_cons_of_pos (p := fun j : Req => j.eff.id == k.eff.id) (beq_self_eq_true k.eff.id)

end

/-! ### Nothing is there -/

theorem exec_of_no_request {s : State} {n : Nat} (h : s.req? n = none) :
    ∀ i ∈ [Instr.sliceRequest n, .requestRetry n, .replyArrival n, .replySplit n], exec i s = .next s := by
  have hnone (f : Req → State) : (match s.req? n with | none => s | some r => f r) = s := by rw [h]
  simp only [List.forall_mem_cons, List.not_mem_nil, false_imp_iff, implies_true, and_true]
  exact ⟨congrArg _ (hnone _), congrArg _ (hnone _), congrArg _ (hnone _), congrArg _ (hnone _)⟩

/-! ### The obligation -/

/-- Settles O56: the refusals and the stations by the conditions of the model's tests, in their order; a fill's second request is served
because serving the first leaves the fabric as it is (`State.serveEff_fabric`). -/
theorem requestEvents : Obligations.RequestEvents := by
  unfold Obligations.RequestEvents
  refine ⟨⟨fun s n => exec_of_no_request, fun s r l slice => ?refusal,
      fun s n r h => ⟨exec_sliceRequest_of_kept h, fun ht hb hkind => ?arrival,
        fun g hg => ⟨exec_requestRetry h hg, exec_requestRetry_of_behind h⟩, exec_requestRetry_of_not_refused h,
        exec_replyArrival_of_not_replied h, fun ws hws => ?reply⟩,
      fun s uid n ws h => State.answer_of_not_ahead h uid ws, fun s l => ?fill, fun s r line va h hk => ?lock⟩,
    fun s p w x y a b hne hp hw ha hb => ?combine,
    fun s n r q k cs c old m e h hst hc hq _ hnew => replySplit_spec h hst hc hq hnew,
    fun s n r h => exec_replySplit_of_single h, fun a b h => ?same⟩
  case refusal =>
    intro why moving here home
    exact ⟨fun hpeer => State.refusalAt_of_peer (by simpa [here] using hpeer),
      fun hl hs => State.refusalAt_of_moved hl fun h => hs ⟨hl, h⟩,
      fun ⟨hl, hs⟩ => State.refusalAt_of_moving hl hs, fun ⟨hl, hs⟩ => State.refusalAt_of_senior hl hs,
      fun ⟨hl, hs⟩ => State.refusalAt_of_underway hl hs, fun ⟨hl, hs⟩ => State.refusalAt_of_full hl hs,
      fun ⟨hl, hs⟩ => State.refusalAt_of_room hl hs, s.refusalOf_eq_none r, fun g => State.exists_refusalAt⟩
  case arrival =>
    intro waits
    have hk := EffKind.toSlice_of hkind
    refine ⟨fun g hg => ⟨_, exec_sliceRequest_of_refusal h ht hb hk hg, rfl, rfl, rfl, ?_⟩, exec_sliceRequest_of_ready h ht hb hk,
      exec_sliceRequest_of_mustWait h ht hb hk⟩
    exact State.req?_modReq (s := { s with freeCtr := s.freeCtr + 1 }) (f := fun k => { k with
      st := .refused g, refusals := k.refusals + 1, mayComb := k.mayComb && k.combined.isEmpty }) (fun _ => rfl) h
  case reply =>
    intro behind
    have hbehind : behind ↔ s.replyBehind r = true := (s.replyBehind_iff r).symm
    rw [hbehind]
    exact ⟨exec_replyArrival_of_kept h hws, exec_replyArrival h hws⟩
  case fill =>
    intro u
    have hout : l ∉ u.fills := by simp [u]
    refine ⟨exec_sliceFillArrival_of_not_filling, fun h hnone => ?_, fun a b h hflush hreqs hwa hwb hla hlb => ?_⟩
    · rw [exec_sliceFillArrival h, State.waitOrder_of_none hnone]
      rfl
    · intro senior
      rw [exec_sliceFillArrival h, State.waitOrder_pair hreqs hwa hwb, apply_ite (State.serveWaiting · [] u),
        State.serveWaiting_pair hlb hla hout hflush, State.serveWaiting_pair hla hlb hout hflush]
      rfl
  case lock =>
    rw [State.req?_serveReq h, s.serveEff_lock_reply hk]
  case combine =>
    intro taken
    refine ⟨State.station_of_quad, State.station_of_shut, State.station_of_port, exec_stationCombine_of_kept hp hw ha hb,
      fun port hx hy hxc hyc hyn hport hroom hmay hfirst => ?_⟩
    have habsorb : s.MayAbsorb x y a b := ⟨hx, hy, hxc, hyc, by simp [hyn], hroom, by simp [hfirst], hmay⟩
    exact ⟨_, exec_stationCombine hp hw ha hb hport habsorb, rfl, rfl,
      State.req?_modReq_of_none (f := fun k => k.absorb y a b port) (fun _ => rfl) (s.req?_without_self w),
      State.req?_modReq (f := fun k => k.absorb y a b port) (fun _ => rfl) ((State.req?_without_of_ne hne).trans hp)⟩
  case same =>
    obtain ⟨hkey, hwidth, hop, hscope, hdom, htrap, hca, hcb, -⟩ := (mayCombine_iff a b).1 h
    exact ⟨hkey, hwidth, hop, hscope, hdom, htrap, hca, hcb⟩

end Sys2Proof.Machine
end

section
/-! Resends, spares and repaired rows (R323, R428, R478, R480). -/

namespace Sys2Proof.Machine

/-! ### Segments and lanes (R323, R428, R480) -/

/-- The count of a segment's resends rises by one, in the entry it has or in a new one (R323). -/
def State.resent (s : State) (k : Nat) : List (Nat × Nat) :=
  if s.resends.any (fun r => r.1 == k) then s.resends.map (fun r => if r.1 = k then (r.1, r.2 + 1) else r)
  else (k, 1) :: s.resends

theorem exec_flitCrcFail (k : Nat) (s : State) : exec (.flitCrcFail k) s = .next { s with resends := s.resent k } :=
  congrArg Host.Outcome.next ((apply_ite (fun l => ({ s with resends := l } : State)) _ _ _).symm)

theorem State.resent_of_new {s : State} {k : Nat} (h : ∀ r ∈ s.resends, r.1 ≠ k) : s.resent k = (k, 1) :: s.resends :=
  if_neg fun hany => by
    obtain ⟨r, hr, hk⟩ := List.any_eq_true.1 hany
    exact h r hr (beq_iff_eq.1 hk)

theorem State.mem_resent {s : State} {k n : Nat} (h : (k, n) ∈ s.resends) : (k, n + 1) ∈ s.resent k := by
  have hany : s.resends.any (fun r => r.1 == k) = true := List.any_eq_true.2 ⟨_, h, beq_self_eq_true k⟩
  unfold State.resent
  rw [if_pos hany]
  exact List.mem_map.2 ⟨_, h, if_pos rfl⟩

theorem State.onLines_iff (s : State) : s.onLines = true ↔ ∃ r ∈ s.reqs, r.st = .travel := by simp [State.onLines]

theorem exec_segmentRetire_of_kept {s : State} {k : Nat} (h : k ∈ s.segments ∨ ∃ r ∈ s.reqs, r.st = .travel) :
    exec (.segmentRetire k) s = .next s :=
  congrArg Host.Outcome.next (if_pos (by simpa [← State.onLines_iff, or_comm] using h))

theorem exec_segmentRetire {s : State} {k : Nat} (hnew : k ∉ s.segments) (hidle : ∀ r ∈ s.reqs, r.st ≠ .travel) :
    exec (.segmentRetire k) s = .next { s with
      segments := k :: s.segments, resends := s.resends.filter (fun r => r.1 != k),
      lodge := { s.lodge with lrepl := s.lodge.lrepl + 1 } } :=
  congrArg Host.Outcome.next (if_neg (by simpa [State.onLines] using ⟨hidle, hnew⟩))

theorem laneGroup_eq (l : Nat × Nat) : laneGroup l.1 l.2 =
    if l.1 < 18 ∧ l.2 < 8 then some (l.1, 0) else if 18 ≤ l.1 ∧ l.1 < 22 ∧ l.2 < 128 then some (l.1, l.2 / 32) else none := by
  unfold laneGroup
  by_cases hport : l.1 < 18
  · simp [hport, Nat.not_le.2 hport]
  · by_cases hboundary : l.1 < 22
    · simp [hport, hboundary, Nat.le_of_not_lt hport]
    · simp [hport, hboundary]

/-- A lane may give way to its group's spare (R428, R480). -/
def State.MayReplace (s : State) (l : Nat × Nat) : Prop :=
  laneGroup l.1 l.2 ≠ none ∧ (∀ r ∈ s.reqs, r.st ≠ .travel) ∧ ∀ k ∈ s.lanes, laneGroup k.1 k.2 ≠ laneGroup l.1 l.2

theorem exec_laneReplace_of_kept {s : State} {k m : Nat} (h : ¬ s.MayReplace (k, m)) : exec (.laneReplace k m) s = .next s := by
  refine congrArg Host.Outcome.next ?_
  dsimp only
  split
  · rfl
  · next g hg =>
    refine if_pos ?_
    by_contra hfree
    refine h ⟨by simp [hg], ?_⟩
    simpa [hg, State.onLines] using hfree

theorem exec_laneReplace {s : State} {k m : Nat} (h : s.MayReplace (k, m)) : exec (.laneReplace k m) s = .next { s with
    lanes := (k, m) :: s.lanes, lodge := { s.lodge with lrepl := s.lodge.lrepl + 1 } } := by
  obtain ⟨hgroup, hidle, hspare⟩ := h
  obtain ⟨g, hg⟩ := Option.ne_none_iff_exists'.1 hgroup
  dsimp only at hg hspare
  refine congrArg Host.Outcome.next ?_
  dsimp only
  rw [hg] at hspare ⊢
  exact if_neg (by simpa [State.onLines] using ⟨hidle, fun a b => hspare (a, b)⟩)

/-! ### Islands (R478) -/

theorem exec_droopTrip (k : Nat) (s : State) : ∃ t, exec (.droopTrip k) s = .next t ∧ t = { s with stretched := t.stretched } ∧
    ∀ j, j ∈ t.stretched ↔ j ∈ s.stretched ∨ (j = k ∧ k < 848) := by
  refine ⟨_, rfl, ?_⟩
  dsimp only
  split_ifs with h
  · refine ⟨rfl, fun j => ?_⟩
    simp [h.1, or_comm]
  · refine ⟨rfl, fun j => ⟨.inl, Or.rec id ?_⟩⟩
    rintro ⟨rfl, hk⟩
    simpa [hk] using h

theorem exec_droopClear (k : Nat) (s : State) : ∃ t, exec (.droopClear k) s = .next t ∧ t = { s with stretched := t.stretched } ∧
    ∀ j, j ∈ t.stretched ↔ j ∈ s.stretched ∧ j ≠ k :=
  ⟨_, rfl, rfl, fun j => by simp⟩

/-! ### Lines of local memory that leave their slice (R307) -/

theorem State.dropLine_of_local {line : Nat} (h : line < 2 ^ 43) (s : State) : s.dropLine line =
    ({ s with lines := s.lines.filter (fun x => !(x.line == line)) } : State).noneRecs
      (fun r => keyHome r.key == 0 && keyPa r.key / 512 == line) :=
  if_neg (by omega)

/-- Lines of local memory leave their slices; nothing else than scope records changes with them. -/
theorem State.dropLines_of_local {ls : List Nat} (h : ∀ l ∈ ls, l < 2 ^ 43) (s : State) :
    ∃ rs, ls.foldl (fun (s : State) l => s.dropLine l) s = { s with
      lines := s.lines.filter (fun x => !ls.contains x.line), hrecs := rs } := by
  induction ls generalizing s with
  | nil => exact ⟨s.hrecs, by simp⟩
  | cons l ls ih =>
    obtain ⟨hl, hls⟩ := List.forall_mem_cons.1 h
    rw [List.foldl_cons, State.dropLine_of_local hl]
    obtain ⟨rs, hrs⟩ := ih hls _
    refine ⟨rs, hrs.trans ?_⟩
    have hlines : (s.lines.filter (fun x => !(x.line == l))).filter (fun x => !ls.contains x.line) =
        s.lines.filter (fun x => !(l :: ls).contains x.line) := by
      rw [List.filter_filter]
      refine List.filter_congr fun x _ => ?_
      rw [List.contains_cons, Bool.not_or, Bool.and_comm]
    rw [← hlines]
    rfl

/-! ### Repaired rows (R480) -/

/-- A line of local memory has a byte in the row. -/
def InRow (base len l : Nat) : Prop := l < 2 ^ 43 ∧ base < 512 * l + 512 ∧ 512 * l < base + len

/-- A request whose line lies in the row has been accepted and not yet served, or its reply holds an entry. -/
def State.RowBusy (s : State) (base len : Nat) : Prop :=
  ∃ r ∈ s.reqs, (∃ l ∈ r.lines, InRow base len l) ∧ (r.st = .waiting ∨ s.holdsEntry r = true)

theorem exec_hbmRowRepair_of_busy {s : State} {base len : Nat} (h : s.RowBusy base len) : exec (.hbmRowRepair base len) s = .next s :=
  congrArg Host.Outcome.next (if_pos (by simpa [State.RowBusy, InRow, and_assoc] using h))

/-- The row's lines leave their slices, and the repair is on record. -/
theorem exec_hbmRowRepair {s : State} {base len : Nat} (h : ¬ s.RowBusy base len) :
    ∃ t, exec (.hbmRowRepair base len) s = .next t ∧ t.mem = s.mem ∧ t.cur = s.cur ∧ t.rowFixes = (base, len) :: s.rowFixes ∧
      ∀ k, k ∈ t.lines ↔ k ∈ s.lines ∧ ¬ InRow base len k.line := by
  refine ⟨_, congrArg Host.Outcome.next (if_neg (by simpa [State.RowBusy, InRow, and_assoc] using h)), ?_⟩
  obtain ⟨rs, hdrop⟩ := State.dropLines_of_local (ls := (s.lines.map (·.line)).filter (fun l => decide (l < 2 ^ 43) &&
    decide (base < 512 * l + 512) && decide (512 * l < base + len))) (fun l hl => by
      simp only [List.mem_filter, Bool.and_eq_true, decide_eq_true_eq] at hl
      exact hl.2.1.1) s
  rw [hdrop]
  refine ⟨rfl, rfl, rfl, fun k => ?_⟩
  rw [List.mem_filter]
  refine and_congr_right fun hk => ?_
  simp only [List.contains_iff_mem, Bool.not_eq_true', ← Bool.not_eq_true, List.mem_filter, InRow, Bool.and_eq_true,
    decide_eq_true_eq, and_assoc, List.mem_map_of_mem hk, true_and]

/-! ### The obligation -/

/-- Settles O57: the conditions of the events are those of the statement, and a repaired row takes only lines of local memory from their
slices, which changes no byte (`State.dropLines_of_local`). What a segment's retirement waits for and raises, and the numbers of the
die boundaries, are the model's choice (log 22). -/
theorem repairEvents : Obligations.RepairEvents := by
  unfold Obligations.RepairEvents
  refine ⟨fun s k => ⟨⟨_, exec_flitCrcFail k s, rfl, State.resent_of_new, fun n => State.mem_resent⟩,
      exec_segmentRetire_of_kept, exec_segmentRetire, exec_droopTrip k s, exec_droopClear k s, fun m => ?lanes⟩,
    fun s base len => ⟨exec_hbmRowRepair_of_busy, fun hfree => ?rows⟩⟩
  case lanes =>
    intro group can
    have hgroup (l : Nat × Nat) : group l = laneGroup l.1 l.2 := (laneGroup_eq l).symm
    have hcan : can ↔ s.MayReplace (k, m) := by simp only [can, hgroup, State.MayReplace]
    rw [hcan]
    exact ⟨exec_laneReplace_of_kept, exec_laneReplace⟩
  case rows =>
    obtain ⟨t, hexec, hmem, hcur, hfixes, hlines⟩ := exec_hbmRowRepair hfree
    exact ⟨t, hexec, hmem, hcur, hfixes, fun k hk => (hlines k).1 hk, fun k hk hout => (hlines k).2 ⟨hk, hout⟩⟩

end Sys2Proof.Machine
end

section
/-! A locked line of a host page whose bucket moves (R319, R330, R432). The lines of host pages are written out to the host and leave
their slice before the locked lines of the bucket are fetched again. `tr.lock` locks lines of local memory alone, but what
`Obligations.ShunterEvents` says of locked lines it says of every line that a state holds. -/

namespace Sys2Proof.Machine

/-! ### The counterexample -/

/-- The first line of a host page, locked for partition 1. It lies in bucket 0. -/
def lockedHostLine : HLine := ⟨2 ^ 43, 1, some 1, true, 0, false, 0⟩

/-- Bucket 0, which holds that line alone, is to move from slice 0 to slice 1; no request is on the fabric. -/
def hostLineMoving : State := { State.reset with lines := [lockedHostLine], buckets := [⟨0, 0, some 1, 0, none⟩] }

theorem lockedHostLine_bucket : lineBucket lockedHostLine.line = 0 := by decide

/-- The move ends with no line in any slice. -/
theorem exec_bucketMoveFinish_hostLineMoving : ∃ t, exec (.bucketMoveFinish 0) hostLineMoving = .next t ∧ t.lines = [] :=
  ⟨_, rfl, by decide⟩

/-- Refutes O58: as a bucket's move ends, each locked line of the bucket is to be in its slice again without sectors. A line of a host
page is written out to the host instead (R432), locked or not, and is not fetched again. -/
theorem not_shunterEvents : ¬ Obligations.ShunterEvents := by
  unfold Obligations.ShunterEvents
  intro h
  obtain ⟨-, hmove, -⟩ := h
  obtain ⟨-, -, -, -, hfinish⟩ := hmove hostLineMoving 0 1 (by decide) (by decide)
  have hidle (r : Req) : r ∉ hostLineMoving.reqs := List.not_mem_nil
  obtain ⟨t, hend, -, -, -, -, -, -, -, hfetched⟩ := hfinish rfl (fun ⟨r, hr, _⟩ => hidle r hr) (by decide)
  obtain ⟨u, hrun, hnone⟩ := exec_bucketMoveFinish_hostLineMoving
  obtain rfl : u = t := Host.Outcome.next.inj (hrun.symm.trans hend)
  have hback := hfetched lockedHostLine List.mem_cons_self lockedHostLine_bucket rfl
  rw [hnone] at hback
  exact absurd hback List.not_mem_nil

end Sys2Proof.Machine
end

section
/-! `cp.cbcfg` of a controller on which a strand waits in its `cp.cbacq` (R373, R375). The controller is made anew, but the strands that
wait on it keep their places in its queue; what `Obligations.CopyResults` says a `cp.cbcfg` leaves has an empty queue. -/

namespace Sys2Proof.Machine

/-! ### The counterexample -/

/-- Controller 0 of crew 0: one slot of one sector, which is free. Strand 7 waits in its `cp.cbacq`. -/
def awaitedController : Cb := ⟨0, 0, 0, 1, 1, 1, 0, 0, 0, [], [], [7], []⟩

/-- Strand 1 of crew 0 with nothing under way. Its register 3 configures a controller of one slot of one sector at the start of its
allotment, as `awaitedController` is configured. -/
def controllerAwaited : State :=
  { State.reset with
    cur := { Strand.absent with
      uid := 1, status := .running, ident := { Ident.blank with alen := 4096 }
      sc := { Scalar.blank with regs := Scalar.blank.regs.set 3 (w64 (2 ^ 32 + 2 ^ 21)) } }
    quad := { Quad.empty 0 with d := { QuadData.empty with cbs := [awaitedController] } } }

theorem controllerAwaited_settled : controllerAwaited.Settled := by
  dsimp only [State.Settled, State.Quiet]
  and_intros <;> decide

/-- `cp.cbcfg` completes, and strand 7 still waits on the controller. -/
theorem exec_cpCbcfg_controllerAwaited :
    ∃ t, exec (.cpCbcfg 0 3) controllerAwaited = .next t ∧ t.quad.d.cbs.map (·.waitq) = [[7]] :=
  ⟨_, rfl, by decide⟩

/-- Refutes O46: a `cp.cbcfg` that makes a controller of the crew anew leaves the strands that wait on it in its queue, which the statement
says is empty. -/
theorem not_copyResults : ¬ Obligations.CopyResults := by
  unfold Obligations.CopyResults
  rintro ⟨-, hcontrollers⟩
  obtain ⟨-, -, -, hconfig⟩ := hcontrollers 0 0 3 controllerAwaited controllerAwaited_settled
  obtain ⟨-, -, hmade⟩ := hconfig (fun c hc => by obtain rfl : awaitedController = c := Option.some.inj hc; rfl)
  have hempty := hmade (by decide) (by decide) (by decide) (by decide) (by decide) (by decide) (by decide)
  obtain ⟨t, hrun, hwaits⟩ := exec_cpCbcfg_controllerAwaited
  obtain rfl := Host.Outcome.next.inj (hrun.symm.trans hempty)
  exact absurd hwaits (by decide)

end Sys2Proof.Machine
end

section
/-! Traps in program order (R394): what holds a trap back, and the trap of the vector stream's head. -/

namespace Sys2Proof.Machine

/-! ### Traps that wait -/

theorem State.stopFrom_of_holdsBack {b s : State} {e : Stop} (h : s.holdsBack e = true) : b.stopFrom s e = b.setWaiting := if_pos h

/-- A trap of the front end waits while a queued instruction may still complete. -/
theorem State.holdsBack_of_queued {s : State} {t : Trap} (hcause : t.cause ≠ cQDEADLOCK) (hlive : s.cur.status ≠ .ending)
    (hfront : s.cur.inStream = 0) (hqueued : s.cur.vq ≠ []) (hfirst : s.cur.tried = false) : s.holdsBack (.trap t) = true := by
  have hhead : s.headEntry = none := by simp [State.headEntry, hfront]
  have hstop : s.cur.mayStop = false := by simp [Strand.mayStop, hfirst, hqueued]
  simp [State.holdsBack, hhead, hstop, hcause, hlive]

theorem State.holdsBack_of_ahead {s : State} (t : Trap) (h : s.isAhead s.cur.uid = true) : s.holdsBack (.trap t) = true := by
  simp [State.holdsBack, h]

/-! ### The trap of a queued instruction -/

/-- A trap of the oldest queued instruction is taken where that instruction was passed. -/
theorem State.stopFrom_of_oldest {b s : State} {t : Trap} {e : Entry} (hlive : s.cur.status ≠ .ending) (hhead : s.headEntry = some e)
    (hahead : s.isAhead s.cur.uid = false) (holder : s.cur.behindOlder e = false) :
    b.stopFrom s (.trap t) = (s.unwind e).trapEntry t := by
  have hback : s.holdsBack (.trap t) = false := by simp [State.holdsBack, hhead, hahead, holder]
  simp [State.stopFrom, hback, State.stopped, hhead, hlive]

/-- Of the scalar state, an unwound strand has what stood at the queued instruction but for what older instructions have counted and
raised since. -/
theorem Strand.unwind_sc (x : Strand) (e : Entry) : (x.unwind e).sc.pc = e.snap.pc ∧ (x.unwind e).sc.trbase = e.snap.trbase ∧
    (x.unwind e).sc.regs = e.snap.regs ∧ (x.unwind e).sc.tnest = e.snap.tnest := by
  by_cases h : x.inStream = 0 <;> simp [Strand.unwind, Strand.scalarAt, h]

/-- An unwound strand queues nothing that is not older than the instruction. -/
theorem Strand.lt_of_mem_unwind {x : Strand} {e k : Entry} (hk : k ∈ (x.unwind e).vq ++ (x.unwind e).mq) : k.seq < e.seq := by
  rcases List.mem_append.1 hk with h | h <;> exact of_decide_eq_true (List.mem_filter.1 h).2

/-- A trap that has a handler leaves the streams as they stand. -/
theorem State.trapEntry_streams {s : State} (t : Trap) (hnest : s.cur.sc.tnest ≠ 3) (hbase : s.cur.sc.trbase ≠ 0) :
    (s.trapEntry t).cur.inStream = s.cur.inStream ∧ (s.trapEntry t).cur.vq = s.cur.vq ∧ (s.trapEntry t).cur.mq = s.cur.mq := by
  unfold State.trapEntry
  rw [if_neg (not_or.2 ⟨hnest, hbase⟩)]
  exact ⟨rfl, rfl, rfl⟩

/-- Settles O22: what holds a trap back, by the place it comes from; a trap that is not held back unwinds the strand to its
instruction. -/
theorem trapsInProgramOrder : Obligations.TrapsInProgramOrder := by
  unfold Obligations.TrapsInProgramOrder
  intro s b t hcause hlive
  refine ⟨fun hfront hqueued hfirst => State.stopFrom_of_holdsBack (State.holdsBack_of_queued hcause hlive hfront hqueued hfirst),
    fun h => State.stopFrom_of_holdsBack (State.holdsBack_of_ahead t h), ?_⟩
  intro e r hstream hqueue hahead holder hnest hbase u
  have hhead : s.headEntry = some e := by simp [State.headEntry, hstream, hqueue]
  obtain ⟨hpc, htrbase, hregs, htnest⟩ := s.cur.unwind_sc e
  have hhandler : (s.unwind e).cur.sc.tnest ≠ 3 ∧ (s.unwind e).cur.sc.trbase ≠ 0 := ⟨htnest ▸ hnest, htrbase ▸ hbase⟩
  obtain ⟨hsc, -, -⟩ := trapEntry_eq t hhandler.1 hhandler.2
  obtain ⟨hin, hvq, hmq⟩ := State.trapEntry_streams t hhandler.1 hhandler.2
  have hu : u = (s.unwind e).trapEntry t := State.stopFrom_of_oldest hlive hhead hahead holder
  rw [hu, hsc, hin, hvq, hmq]
  exact ⟨hpc, htrbase, hregs, rfl, fun k hk => Strand.lt_of_mem_unwind hk⟩

end Sys2Proof.Machine
end

section
/-! Fault-queue entries and parking (R399 to R401): what an entry writes, and where it goes when nothing holds it back. -/

namespace Sys2Proof.Machine

/-! ### Writes of memory -/

theorem State.memWrite_mem (s : State) (k : Nat) (bs : List Byte) : (s.memWrite k bs).mem = memSetN s.mem k bs := by
  unfold State.memWrite State.journal
  split_ifs
  · rfl
  · exact congrArg (memSetN · k bs) (State.modQuad_keeps (g := State.mem) (fun _ _ _ => rfl) s _ _)

/-- Bytes written outside the scratchpads enter no journal. -/
theorem State.memWrite_quad {s : State} {k : Nat} {bs : List Byte} (h : keyHome k ≠ 3) : (s.memWrite k bs).quad = s.quad := by
  unfold State.memWrite State.journal
  rw [if_pos h]

theorem State.memWrite_parts (s : State) (k : Nat) (bs : List Byte) : (s.memWrite k bs).parts = s.parts := by
  unfold State.memWrite State.journal
  split_ifs
  · rfl
  · exact State.modQuad_keeps (g := State.parts) (fun _ _ _ => rfl) s _ _

theorem State.part?_congr {s t : State} (h : t.parts = s.parts) (n : Nat) : t.part? n = s.part? n := by
  unfold State.part?
  rw [h]

theorem State.part?_id {s : State} {n : Nat} {p : Part} (h : s.part? n = some p) : p.id = n := by
  have hp := List.find?_some h
  simp only [Bool.and_eq_true, beq_iff_eq] at hp
  exact hp.1

theorem State.interrupt_keeps (s : State) (vec : Nat) :
    (s.interrupt vec).mem = s.mem ∧ (s.interrupt vec).parts = s.parts ∧ (s.interrupt vec).quad = s.quad := by
  unfold State.interrupt
  split_ifs <;> exact ⟨rfl, rfl, rfl⟩

/-! ### Entries (R399, R400) -/

/-- The key of the next entry of a partition's fault queue. -/
def Part.fqKey (p : Part) : Nat := homeKey 0 (p.fqbase.toNat * 4096 + 32 * (p.fqhead.toNat % p.fqEntries))

/-- The fault queue lies below the scratchpads. -/
theorem Part.fqKey_home (p : Part) : keyHome p.fqKey ≠ 3 := by
  have hbase := p.fqbase.isLt
  have hsize : 2 ^ p.fqsize.toNat ≤ 2 ^ 15 := Nat.pow_le_pow_right (by decide) (Nat.le_of_lt_succ p.fqsize.isLt)
  have hslot : p.fqhead.toNat % p.fqEntries < p.fqEntries := Nat.mod_lt _ (by unfold Part.fqEntries; positivity)
  unfold Part.fqEntries at hslot
  unfold keyHome Part.fqKey homeKey Part.fqEntries
  omega

/-- The bytes of an entry, with TIME after the 24 that are given. -/
def State.fqBytes (s : State) (bs : List Byte) : List Byte := bs ++ leBytes 8 (max s.timer 1)

theorem State.fqPut_eq (s : State) (p : Part) (bs : List Byte) :
    ∃ t : State, t = (s.memWrite p.fqKey (s.fqBytes bs)).modPart p.id (fun x => { x with fqhead := x.fqhead + 1 }) ∧
      (s.fqPut p bs = t ∨ s.fqPut p bs = t.interrupt p.vecbase) := by
  have htime : (if s.timer = 0 then 1 else s.timer) = max s.timer 1 := by split_ifs <;> omega
  refine ⟨_, rfl, ?_⟩
  unfold State.fqPut
  extract_lets t k s1
  have hs1 : s1 = (s.memWrite p.fqKey (s.fqBytes bs)).modPart p.id (fun x => { x with fqhead := x.fqhead + 1 }) := by
    simp only [s1, k, t, htime]
    rfl
  rw [hs1]
  split_ifs
  · exact .inr rfl
  · exact .inl rfl

/-- An entry changes memory and HEAD alone; its interrupt goes to the host. -/
theorem State.fqPut_spec (s : State) (p : Part) (bs : List Byte) :
    (s.fqPut p bs).mem = memSetN s.mem p.fqKey (s.fqBytes bs) ∧ (s.fqPut p bs).quad = s.quad ∧
    ∀ q, s.part? p.id = some q → (s.fqPut p bs).part? p.id = some { q with fqhead := q.fqhead + 1 } := by
  obtain ⟨t, rfl, ht⟩ := s.fqPut_eq p bs
  have hkeeps : (s.fqPut p bs).mem = (s.memWrite p.fqKey (s.fqBytes bs)).mem ∧
      (s.fqPut p bs).quad = (s.memWrite p.fqKey (s.fqBytes bs)).quad ∧
      (s.fqPut p bs).parts =
        ((s.memWrite p.fqKey (s.fqBytes bs)).modPart p.id (fun x => { x with fqhead := x.fqhead + 1 })).parts := by
    rcases ht with h | h
    · rw [h]
      exact ⟨rfl, rfl, rfl⟩
    · obtain ⟨hmem, hparts, hquad⟩ := State.interrupt_keeps
        ((s.memWrite p.fqKey (s.fqBytes bs)).modPart p.id (fun x => { x with fqhead := x.fqhead + 1 })) p.vecbase
      rw [h]
      exact ⟨hmem, hquad, hparts⟩
  obtain ⟨hmem, hquad, hparts⟩ := hkeeps
  refine ⟨hmem.trans (s.memWrite_mem _ _), hquad.trans (State.memWrite_quad p.fqKey_home), fun q hq => ?_⟩
  rw [State.part?_congr hparts]
  exact State.part?_modPart (f := fun x => { x with fqhead := x.fqhead + 1 }) (fun _ => rfl) (fun _ => rfl)
    ((State.part?_congr (s.memWrite_parts _ _) _).trans hq)

/-- Nothing holds an entry back: it is written at once. -/
theorem State.fqFor_of_room {s : State} {n : Nat} {p : Part} (hp : s.part? n = some p) (hheld : s.held = false) (hbase : p.fqbase ≠ 0)
    (hfull : p.fqFull = false) (hwait : p.fqwait = []) (bs : List Byte) : s.fqFor n bs = s.fqPut p bs := by
  unfold State.fqFor State.fqWrite
  rw [hheld, if_neg Bool.false_ne_true, hp]
  dsimp only
  rw [if_neg hbase, hfull, hwait]
  exact if_neg Bool.false_ne_true

/-! ### Parking (R400, R401) -/

/-- The current strand in its park-table slot, before the entry that reports it. -/
def State.parked (s : State) (p : Part) (rst : Nat) (elt : Bool) : State :=
  (s.modPart s.cur.ident.part (fun x => { x with
    parkSeq := nextSeq x.parkSeq, parked := ⟨freeSlot p, p.parkSeq, s.cur.uid⟩ :: x.parked })).modCur (fun x => { x with
    status := .parked, rstix := if elt then BitVec.ofNat 16 rst else x.rstix, parkSlot := some (freeSlot p), parkSeq := p.parkSeq })

theorem State.park_eq {s : State} {p : Part} (hp : s.part? s.cur.ident.part = some p) (va : Word) (kind : Nat) (wr : Bool) (rst : Nat)
    (elt : Bool) : s.park va kind wr rst elt = (s.parked p rst elt).fqFor s.cur.ident.part
      (fqEntry va (parkHandle p.parkSeq (freeSlot p)) cPAGE_NP kind (if wr then 17 else 1) rst) := by
  have hflags : 1 + (if wr then 16 else 0) = if wr then 17 else 1 := by cases wr <;> rfl
  unfold State.park
  extract_lets
  rw [hp, ← hflags]
  rfl

theorem State.part?_parked {s : State} {p : Part} (hp : s.part? s.cur.ident.part = some p) (rst : Nat) (elt : Bool) :
    (s.parked p rst elt).part? s.cur.ident.part =
      some { p with parkSeq := nextSeq p.parkSeq, parked := ⟨freeSlot p, p.parkSeq, s.cur.uid⟩ :: p.parked } :=
  State.part?_modPart (f := fun x => { x with
    parkSeq := nextSeq x.parkSeq, parked := ⟨freeSlot p, p.parkSeq, s.cur.uid⟩ :: x.parked }) (fun _ => rfl) (fun _ => rfl) hp

/-- Settles O36: an entry is one write of memory beside HEAD; parking is the strand's slot and such an entry. -/
theorem faultQueueEntry : Obligations.FaultQueueEntry := by
  unfold Obligations.FaultQueueEntry
  constructor
  · intro s p bs hwf hlen hp k t
    obtain ⟨hmem, hquad, hpart⟩ := s.fqPut_spec p bs
    have hkey : p.fqKey = k := by
      simp only [Part.fqKey, Part.fqEntries, k, Nat.mul_comm]
    have hbytes : (s.fqBytes bs).length = 32 := by rw [State.fqBytes, List.length_append, hlen]; rfl
    rw [hkey] at hmem
    refine ⟨?_, fun j hj => ?_, hpart p hp, s.fqPut_cur p bs, hquad⟩
    · have hread := memGetN_memSetN (s.fqBytes bs) k hwf
      rw [hbytes] at hread
      exact (congrArg (memGetN · k 32) hmem).trans hread
    · exact (congrArg (memGet · j) hmem).trans (memGet_memSetN_outside _ hwf (by rw [hbytes]; exact hj))
  · intro s p va kind rst wr elt hp hheld hbase hfull hwait t
    have hq := State.part?_parked hp rst elt
    have ht : t = (s.parked p rst elt).fqPut _ _ :=
      (State.park_eq hp va kind wr rst elt).trans (State.fqFor_of_room hq hheld hbase hfull hwait _)
    have hcur : t.cur = (s.parked p rst elt).cur := ht ▸ State.fqPut_cur _ _ _
    obtain ⟨hmem, -, hpart⟩ := (s.parked p rst elt).fqPut_spec
      { p with parkSeq := nextSeq p.parkSeq, parked := ⟨freeSlot p, p.parkSeq, s.cur.uid⟩ :: p.parked }
      (fqEntry va (parkHandle p.parkSeq (freeSlot p)) cPAGE_NP kind (if wr then 17 else 1) rst)
    have hid : p.id = s.cur.ident.part := State.part?_id hp
    have hqid : (s.parked p rst elt).part? p.id =
      some { p with parkSeq := nextSeq p.parkSeq, parked := ⟨freeSlot p, p.parkSeq, s.cur.uid⟩ :: p.parked } := hid ▸ hq
    rw [← ht] at hmem hpart
    rw [hcur]
    refine ⟨rfl, rfl, rfl, rfl, rfl, rfl, rfl, ⟨_, hid ▸ hpart _ hqid, rfl, rfl⟩, ?_⟩
    exact hmem.trans (s.memWrite_mem _ _).symm

end Sys2Proof.Machine
end

section
/-! `sy.resume` releases at DIE scope (R390, R402), and so waits while a byte of its strand is on its way home (R302), as the releasing `at`
forms do. The conditions of `Obligations.PrivilegedResults` do not speak of that byte. -/

namespace Sys2Proof.Machine

/-! ### The counterexample -/

/-- The strand of `atBehindSent` in privileged state, in a partition that is set up and has parked nothing. -/
def resumeBehindSent : State :=
  { atBehindSent with
    cur := { atBehindSent.cur with sc := { atBehindSent.cur.sc with prv := true } }
    parts := [{ Part.blank 0 with setUp := true }] }

theorem resumeBehindSent_settled : resumeBehindSent.Settled := by
  dsimp only [State.Settled, State.Quiet]
  and_intros <;> decide

/-- Its `sy.resume` of a handle that names nothing is not completed: the PC stays where it was. -/
theorem exec_syResume_resumeBehindSent :
    ∃ t, exec (.syResume 0) resumeBehindSent = .next t ∧ t.cur.sc.pc = 0 := ⟨_, rfl, rfl⟩

/-- Refutes O35: with a byte of the strand on its way home, which the conditions allow, a `sy.resume` waits and completes nothing. -/
theorem not_privilegedResults : ¬ Obligations.PrivilegedResults := by
  unfold Obligations.PrivilegedResults
  intro h
  obtain ⟨-, hprivileged⟩ := h 0 resumeBehindSent { Part.blank 0 with setUp := true } resumeBehindSent_settled rfl
  obtain ⟨-, hnone, -⟩ := hprivileged rfl
  obtain ⟨t, hwait, hpc⟩ := exec_syResume_resumeBehindSent
  have hmoved : t.cur.sc.pc = 4 := by
    rw [Host.Outcome.next.inj (hwait.symm.trans (hnone rfl))]
    rfl
  rw [hpc] at hmoved
  exact absurd hmoved (by decide)

end Sys2Proof.Machine
end

section
/-! A recall of a lent quad whose crews' strands all take part in a reduction that every member has joined (R445, R476). The recall saves
other crews that stop, and with one of them the join of a strand of it that waits in the same call. A member that gave the call another
number of members is itself in no joined reduction, so that it may be saved; without its join the strand on the recalled quad is in none
either, its crew is saved, and the recall completes at once. -/

namespace Sys2Proof.Machine

/-! ### The counterexample -/

/-- The join of a position of call 0 of collective 7. -/
def joinAt (pos : Nat) : CollMsg := ⟨7, 0, pos, true, 0, 0, 0, 2, [], []⟩

/-- A strand of a crew that waits in call 0 of collective 7 as member `pos` of `n`. -/
def memberStrand (uid crew quad : Nat) (st : Status) (n pos : Word) : Strand :=
  { Strand.absent with
    uid := uid, status := st, ident := { Ident.blank with crew := crew, quad := quad }, note := some [noteRed, 1, 0, 7, 0, n, pos] }

/-- Partition 0 has lent quad 0 to partition 1. Crew 5 stands there and stops, with a strand that runs in the joined call. The context of
crew 9 lies in the quad's depot; crew 6 of its launch stops on quad 1, where its strand has joined the call as one of three. -/
def recallOfJoined : State :=
  { State.reset with
    quad := { Quad.empty 0 with part := some 0, lentTo := some 1 }
    strands := [memberStrand 1 5 0 .running 2 0, memberStrand 2 6 1 .halted 3 1]
    launches := [{ stageLaunch with cores := true }]
    crews := [
      { stageCrew with id := 9, depot := true, stopping := true },
      { stageCrew with id := 6, quad := 1, stopping := true },
      { stageCrew with id := 5, launch := 0x800, stopping := true }]
    colls := [joinAt 0, joinAt 1]
    lodge := { Lodge.atReset with step := 8 } }

/-- The only crew on the quad that is no saved context is crew 5. -/
theorem recallOfJoined_crews : ∀ c ∈ recallOfJoined.crews, c.depot = false → [0].contains c.quad = true →
    c.stopping = true ∧ c.id = 5 := by decide

/-- Its strand runs in a reduction that every member has joined. -/
theorem recallOfJoined_strand : memberStrand 1 5 0 .running 2 0 ∈ recallOfJoined.liveOf 5 ∧
    recallOfJoined.inReduction (memberStrand 1 5 0 .running 2 0) = true :=
  ⟨List.mem_filter.2 ⟨List.mem_cons_self, by decide⟩, by decide⟩

/-- The recall is answered at once. -/
theorem exec_partitionRecall_recallOfJoined :
    ∃ t, exec (.partitionRecall 0 0 1 [0]) recallOfJoined = .next t ∧ t.lodge.rspSeq = 1 := ⟨_, rfl, by decide⟩

/-- Refutes O60: a recall is to wait while each crew on the quads has a strand that runs in a joined reduction. Here it completes: saving
another crew takes a join of that reduction back. -/
theorem not_lodgeRequests : ¬ Obligations.LodgeRequests := by
  unfold Obligations.LodgeRequests
  rintro ⟨⟨-, -, hlent, -⟩, -⟩
  obtain ⟨-, -, -, -, -, hwait, -⟩ := hlent recallOfJoined 0 0 1 [0] (by decide) rfl
  obtain ⟨t, hrun, -, hseq, -⟩ := hwait (by decide) (by decide) (by decide) (fun q hq => by
      obtain rfl := List.mem_singleton.1 hq
      exact ⟨rfl, rfl⟩) ⟨_, List.mem_cons_of_mem _ (List.mem_cons_of_mem _ List.mem_cons_self), by decide, rfl⟩
    (fun c hc hquad hdepot => by
      obtain ⟨hstop, hid⟩ := recallOfJoined_crews c hc hdepot (List.contains_iff_mem.2 hquad)
      obtain ⟨hmem, hjoined⟩ := recallOfJoined_strand
      exact ⟨hstop, _, hid ▸ hmem, rfl, hjoined⟩)
  obtain ⟨u, hend, hanswered⟩ := exec_partitionRecall_recallOfJoined
  obtain rfl : u = t := Host.Outcome.next.inj (hend.symm.trans hrun)
  exact absurd (hanswered.symm.trans hseq) (by decide)

end Sys2Proof.Machine
end

section
/-! A host access whose line pushes a host line out of a full set (R292, R431, R432). The slice then writes to the host what it owes of that
line, so that a read changes a byte at another home. -/

namespace Sys2Proof.Machine

theorem tailEvicts_wf : Memory.wf tailEvicts.mem = true := by decide

/-- A read of a byte of the last line of local memory writes the byte owed. -/
theorem exec_hostRead_tailEvicts : ∃ t, exec (.hostRead (2 ^ 52 - 512) 1) tailEvicts = .next t ∧ memGet t.mem (2 ^ 52) = 1 :=
  ⟨_, rfl, by decide⟩

theorem tailEvicts_unwritten : memGet tailEvicts.mem (2 ^ 52) = 0 := by decide

/-- Refutes O53: the statement says that a host read leaves memory as it was; in `tailEvicts` its line takes the place of a host line, of
which a byte is written out. -/
theorem not_hostAndNetworkEvents : ¬ Obligations.HostAndNetworkEvents := by
  unfold Obligations.HostAndNetworkEvents
  rintro ⟨haccess, -⟩
  obtain ⟨⟨t, hread, -, hmem, -⟩, -⟩ := haccess tailEvicts (2 ^ 52 - 512) 1 [] tailEvicts_wf rfl (by decide) (by decide)
  obtain ⟨u, hrun, howed⟩ := exec_hostRead_tailEvicts
  obtain rfl : u = t := Host.Outcome.next.inj (hrun.symm.trans hread)
  rw [hmem, tailEvicts_unwritten] at howed
  exact absurd howed (by decide)

end Sys2Proof.Machine
end

section
/-! A delivery whose line pushes a host line out of a full set (R292, R432, R439, R441). The slice then writes to the host what it owes of
that line, so that a delivery changes a byte that it does not carry. -/

namespace Sys2Proof.Machine

/-- A publication of one page, which begins at address 0. -/
def tailPub : Pub := ⟨0, 0, 0, 4096, [0], 1, 0, [], [], 0⟩

/-- A subscriber of this module, whose copy is the last page of local memory. -/
def tailSub : Sub := ⟨0, 0, 0, 8192, [2 ^ 52 - 4096], 0, 0, true⟩

/-- The delivery of the page's last line writes the byte owed. -/
theorem deliver_tailEvicts : memGet (tailEvicts.deliver tailPub tailSub [7] 1).mem (2 ^ 52) = 1 := by decide +kernel

/-- Refutes O47: the statement says that a delivery to this module changes its line and its version word alone; in `tailEvicts` its line
takes the place of a host line, of which a byte is written out. -/
theorem not_publicationResults : ¬ Obligations.PublicationResults := by
  unfold Obligations.PublicationResults
  rintro ⟨-, -, hdeliver, -⟩
  obtain ⟨-, -, hkeeps⟩ := hdeliver tailEvicts tailPub tailSub 7 7 1 tailEvicts_wf rfl rfl (by decide) (by decide) (by decide)
    (by decide) (.inl (by decide))
  have howed := hkeeps (2 ^ 52) (.inr (by decide)) (.inr (by decide))
  rw [deliver_tailEvicts, tailEvicts_unwritten] at howed
  exact absurd howed (by decide)

end Sys2Proof.Machine
end

section
/-! A mismatch that a strand is still charged with when its `xr.red` turns the descriptor's grain (R309, R310, R444). SEQ + 1 is stored in the
descriptor and turned home, and with that turn whatever an earlier one within the quad has found is logged in SCOPELOG. The conditions of
`Obligations.ReductionResult` do not speak of what is owed. -/

namespace Sys2Proof.Machine

/-! ### The counterexample -/

/-- A message of position 0 of two, to call 2 of collective 1 of one element of I32: its join, or the value 5. -/
def firstMember (join : Bool) : CollMsg := ⟨1, 2, 0, join, 1, 2, 0, 2, [7, 0], if join then [] else [5]⟩

/-- The descriptor of the same call at position 1 of the modules 7 and 0: the bytes that are not 0. -/
def lastDescriptor : Memory :=
  [(scratchKey 0 0, 1), (scratchKey 0 4, 2), (scratchKey 0 5, 1), (scratchKey 0 8, 7), (scratchKey 0 0x48, 2)]

/-- A strand under ETA = I32 and VLC = 1 with the descriptor at the start of its allotment, named by s4. The first member has joined and
sent its value, and a mismatch is owed: a grain that had CORE scope was turned for QUAD. -/
def mismatchOwed : State :=
  { State.reset with
    split := false
    cur := { Strand.absent with
      uid := 1, status := .running, vlg := 1, ident := { Ident.blank with alen := 4096 }, owedMis := [(1, 0, 2)]
      sc := { Scalar.blank with
        mode := 2 * 16 + 15 * 256 + 4 * 262144, vlc := 1, regs := Scalar.blank.regs.set 4 (w64 scratchBase) } }
    mem := lastDescriptor
    colls := [firstMember true, firstMember false] }

theorem mismatchOwed_settled : mismatchOwed.Settled := by
  dsimp only [State.Settled, State.Quiet]
  and_intros <;> decide

theorem mismatchOwed_padPlain : mismatchOwed.padPlain 0 128 := by
  dsimp only [State.padPlain]
  and_intros <;> decide +kernel

/-- Its descriptor as the statement reads it. -/
def descriptorRead : List Byte := memGetN mismatchOwed.mem (scratchKey 0 0) 128

/-- The first member is the only one before its position. -/
theorem mismatchOwed_position : leNat ((descriptorRead.drop 5).take 1) = 1 := by decide +kernel

theorem mismatchOwed_joined :
    joinOf (mismatchOwed.call (leNat ((descriptorRead.drop 0).take 4)) (leNat ((descriptorRead.drop 0x48).take 8))) 0 =
      some (firstMember true) ∧ (firstMember true).op = leNat ((descriptorRead.drop 6).take 1) ∧
    (firstMember true).npos = leNat ((descriptorRead.drop 4).take 1) ∧
    (firstMember true).devs = (redDevs descriptorRead).take (leNat ((descriptorRead.drop 4).take 1)) := by decide +kernel

/-- Its `xr.red` logs the mismatch. -/
theorem exec_xrRed_mismatchOwed {u : State} (h : exec (.xrRed 1 4) mismatchOwed = .next u) : u.cur.sc.scopelog ≠ 0 := by
  have hlog : (match exec (.xrRed 1 4) mismatchOwed with
    | .next t => t.cur.sc.scopelog != 0
    | _ => false) = true := by decide +kernel
  rw [h] at hlog
  exact bne_iff_ne.1 hlog

/-- Refutes O48: of the scalar state the statement lets the reduction change FLAGS, the generator and the PC; here SCOPELOG changes too. -/
theorem not_reductionResult : ¬ Obligations.ReductionResult := by
  unfold Obligations.ReductionResult
  intro h
  have hs := mismatchOwed_settled
  have hready : mismatchOwed.VecReady := by
    obtain ⟨hq, -⟩ := hs
    exact ⟨hq, rfl, rfl, rfl⟩
  have hcapacity : mismatchOwed.holdsVlc 32 := by
    dsimp only [State.holdsVlc]
    decide
  have hresult := h 1 4 mismatchOwed .i32 0 [5] hs hready rfl rfl rfl (by decide) ⟨by decide, by decide, by decide⟩ hcapacity rfl rfl
    mismatchOwed_padPlain (by decide) (by decide) (by decide +kernel) (by decide +kernel) (by decide +kernel)
  obtain ⟨u, hrun, -, hsc, -⟩ := hresult (by
    intro p hp
    obtain rfl : p = 0 := Nat.lt_one_iff.1 (lt_of_lt_of_eq hp mismatchOwed_position)
    obtain ⟨hjoin, hop, hnpos, hdevs⟩ := mismatchOwed_joined
    exact ⟨firstMember true, hjoin, rfl, rfl, hop, hnpos, hdevs⟩) (by decide +kernel)
  exact exec_xrRed_mismatchOwed hrun (congrArg Scalar.scopelog hsc)

end Sys2Proof.Machine
end

section
/-! Channels and their transfers (R353, R361): what a change of one channel leaves, and the transfer that stands where it was put. -/

namespace Sys2Proof.Machine

/-! ### Channels -/

theorem Strand.chan_modChan (x : Strand) (k : Nat) (f : Chan → Chan) {i : Nat} (hi : i < 4) :
    (x.modChan k f).chan i = if i = k then f (x.chan i) else x.chan i := by
  simp [Strand.chan, Strand.modChan, List.getD_eq_getElem?_getD, hi]

/-- A strand has four channels once one was changed. -/
theorem Strand.chan_modChan_of_le (x : Strand) (k : Nat) (f : Chan → Chan) {i : Nat} (hi : 4 ≤ i) :
    (x.modChan k f).chan i = Chan.zero := by
  simp [Strand.chan, Strand.modChan, List.getD_eq_getElem?_getD, hi]

theorem Strand.modChan_modChan (x : Strand) (k : Nat) (f g : Chan → Chan) :
    (x.modChan k f).modChan k g = x.modChan k (fun c => g (f c)) := by
  have hchans : ((List.range 4).map fun j => if j = k then g ((x.modChan k f).chan j) else (x.modChan k f).chan j) =
      (List.range 4).map fun j => if j = k then g (f (x.chan j)) else x.chan j := by
    refine List.map_congr_left fun j hj => ?_
    rw [x.chan_modChan k f (List.mem_range.1 hj)]
    split_ifs <;> rfl
  exact congrArg (fun l => { x with chans := l }) hchans

theorem Strand.modChan_congr {x : Strand} {k : Nat} {f g : Chan → Chan} (h : f (x.chan k) = g (x.chan k)) :
    x.modChan k f = x.modChan k g := by
  have hchans : ((List.range 4).map fun j => if j = k then f (x.chan j) else x.chan j) =
      (List.range 4).map fun j => if j = k then g (x.chan j) else x.chan j := by
    refine List.map_congr_left fun j _ => ?_
    split_ifs with hj
    · rw [hj, h]
    · rfl
  exact congrArg (fun l => { x with chans := l }) hchans

/-! ### A transfer that is put back -/

theorem State.strand?_putXfer (s : State) (uid ch : Nat) (t : Xfer) : (s.putXfer uid ch t).strand? uid =
    (s.strand? uid).map (fun x => x.modChan ch (fun c => { c with xfers := c.xfers.map (fun u => if u.ident = t.ident then t else u) })) := by
  have hput := State.strand?_modStrandAll (f := fun x => x.modChan ch (fun c =>
    { c with xfers := c.xfers.map (fun u => if u.ident = t.ident then t else u) })) (fun _ => rfl) (fun _ h => h) s uid uid
  rwa [if_pos rfl] at hput

/-- What is found under the identifier of a transfer that was put back is that transfer. -/
theorem State.xfer?_putXfer {s : State} {uid ch : Nat} {t u : Xfer} {x : Strand}
    (h : (s.putXfer uid ch t).xfer? uid ch t.ident = some (x, u)) : u = t := by
  unfold State.xfer? at h
  rw [State.strand?_putXfer] at h
  cases hx : s.strand? uid with
  | none => simp [hx] at h
  | some y =>
    simp only [hx, Option.map_some, Option.map_eq_some_iff, Prod.mk.injEq] at h
    obtain ⟨v, hv, -, rfl⟩ := h
    have hmem := List.mem_of_find?_eq_some hv
    have hid : v.ident = t.ident := by simpa using List.find?_some hv
    by_cases hch : ch < 4
    · rw [y.chan_modChan ch _ hch, if_pos rfl] at hmem
      obtain ⟨w, -, rfl⟩ := List.mem_map.1 hmem
      by_cases hw : w.ident = t.ident
      · exact if_pos hw
      · rw [if_neg hw] at hid
        exact absurd hid hw
    · rw [y.chan_modChan_of_le ch _ (not_lt.1 hch)] at hmem
      exact absurd hmem List.not_mem_nil

/-- A transfer with chunks to come and none complete does not end. -/
theorem State.settleXfer_putXfer {s : State} {uid ch : Nat} {t : Xfer} (hchunks : t.chunks = []) (hlimit : 0 < t.limit) :
    (s.putXfer uid ch t).settleXfer uid ch t.ident = s.putXfer uid ch t := by
  have hopen : (List.range t.limit).all (fun k => t.chunks.contains k) = false := by
    rw [hchunks, List.all_eq_false]
    exact ⟨0, List.mem_range.2 hlimit, by simp⟩
  unfold State.settleXfer
  split
  next => rfl
  next x u hfind =>
    obtain rfl := State.xfer?_putXfer hfind
    dsimp only
    rw [hopen, Bool.and_false, Bool.false_and, if_neg Bool.false_ne_true]

end Sys2Proof.Machine
end

section
/-! The start of a transfer (R353, R374): when it stays where it is, waits for a slot, or starts. -/

namespace Sys2Proof.Machine

/-! ### The queue of a controller -/

/-- The queue of a controller once a transfer has reached it: the transfers that have still to start, in their order. -/
def State.slotLine (s : State) (me : Nat × Nat × Nat) (c : Cb) : List (Nat × Nat × Nat) :=
  let q := c.waits.filter (fun w => match s.xfer? w.1 w.2.1 w.2.2 with | some (_, u) => !u.started | none => false)
  if me ∈ q then q else q ++ [me]

theorem State.slotLine_eq (s : State) (me : Nat × Nat × Nat) (c : Cb) : s.slotLine me c =
    let q := c.waits.filter (fun w => match s.xfer? w.1 w.2.1 w.2.2 with | some (_, u) => !u.started | none => false)
    if q.contains me then q else q ++ [me] := by
  simp only [State.slotLine, List.contains_iff_mem]

/-- A controller after a transfer has taken its next slot. -/
def Cb.taken (waits : List (Nat × Nat × Nat)) (c : Cb) : Cb :=
  { c with free := c.free - 1, pi := (c.pi + 1) % c.nslot, resv := c.resv ++ [(c.pi, false)], waits := waits }

/-- A transfer once it has started, with the slot that it has reserved. -/
def Xfer.begun (t : Xfer) (slot : Option (Nat × Nat)) : Xfer := { t with started := true, slot := slot }

theorem Xfer.limit_begun (t : Xfer) (hfail : t.fail = none) (slot : Option (Nat × Nat)) : (t.begun slot).limit = t.count := by
  have hnone : (t.begun slot).fail = none := hfail
  unfold Xfer.limit
  rw [hnone]
  rfl

/-! ### What a start does -/

section

variable {s : State} {uid ch : Nat} {x : Strand} {t : Xfer}

/-- The controller that a transfer names. -/
def State.slotCb (s : State) (x : Strand) (t : Xfer) : Option Cb :=
  (s.getQuad x.ident.quad).d.cbs.find? (fun c => c.idx == (regOf t.words 6).toNat % 8)

theorem State.startXfer_of_none (h : s.oldestXfer uid ch (fun t => !t.started) = none) : s.startXfer uid ch = s := by
  unfold State.startXfer
  rw [h]

variable (hx : s.oldestXfer uid ch (fun t => !t.started) = some (x, t))

include hx

theorem State.startXfer_of_kept (h : t.released = false ∨ x.served = false) : s.startXfer uid ch = s := by
  unfold State.startXfer
  rw [hx]
  rcases h with h | h <;> simp [h]

theorem State.startXfer_of_no_controller (hcb : cpCB t.words = true) (hnone : s.slotCb x t = none) : s.startXfer uid ch = s := by
  unfold State.slotCb at hnone
  unfold State.startXfer
  rw [hx]
  dsimp only
  rw [hcb, hnone, if_pos rfl]
  exact ite_self s

theorem State.startXfer_of_waiting {c : Cb} (hrel : t.released = true) (hserved : x.served = true) (hcb : cpCB t.words = true)
    (hc : s.slotCb x t = some c) (hwait : c.free ≤ 0 ∨ (s.slotLine (uid, ch, t.ident) c).head? ≠ some (uid, ch, t.ident)) :
    s.startXfer uid ch = s.modCb x.ident.quad c.idx (fun c' => { c' with waits := s.slotLine (uid, ch, t.ident) c }) := by
  unfold State.slotCb at hc
  rw [State.slotLine_eq] at hwait ⊢
  unfold State.startXfer
  rw [hx]
  dsimp only at hwait ⊢
  rw [hrel, hserved, hcb, hc, if_neg (by decide), if_pos rfl]
  exact if_pos hwait

/-- A transfer that nothing fails at its start is started, with its slot, and has all its chunks to come. -/
theorem State.startXfer_of_free (hrel : t.released = true) (hserved : x.served = true) (hchunks : t.chunks = []) (hfail : t.fail = none)
    (hcount : 0 < t.count) (hkind : cpKind t.words ≠ 4) (hflash : cpFlash t.words = false) (hcb : cpCB t.words = false) :
    s.startXfer uid ch = s.putXfer uid ch (t.begun none) := by
  have hmay : (!t.released || !x.served) = false := by rw [hrel, hserved]; rfl
  have hset := State.settleXfer_putXfer (s := s) (uid := uid) (ch := ch) (t := t.begun none) hchunks (t.limit_begun hfail none ▸ hcount)
  unfold State.startXfer
  rw [hx]
  dsimp only
  rw [hmay, hcb, if_neg Bool.false_ne_true, if_neg Bool.false_ne_true, hflash]
  refine Eq.trans ?_ hset
  simp [hkind]
  rfl

theorem State.startXfer_of_slot {c : Cb} (hrel : t.released = true) (hserved : x.served = true) (hchunks : t.chunks = [])
    (hfail : t.fail = none) (hcount : 0 < t.count) (hkind : cpKind t.words ≠ 4) (hflash : cpFlash t.words = false)
    (hcb : cpCB t.words = true) (hc : s.slotCb x t = some c) (hfree : 0 < c.free)
    (hfirst : (s.slotLine (uid, ch, t.ident) c).head? = some (uid, ch, t.ident)) :
    s.startXfer uid ch = (s.modCb x.ident.quad c.idx (Cb.taken ((s.slotLine (uid, ch, t.ident) c).drop 1))).putXfer uid ch
      (t.begun (some (c.idx, c.pi))) := by
  have hmay : (!t.released || !x.served) = false := by rw [hrel, hserved]; rfl
  have hset := State.settleXfer_putXfer
    (s := s.modCb x.ident.quad c.idx (Cb.taken ((s.slotLine (uid, ch, t.ident) c).drop 1))) (uid := uid) (ch := ch)
    (t := t.begun (some (c.idx, c.pi))) hchunks (t.limit_begun hfail _ ▸ hcount)
  have hgo : ¬ (c.free ≤ 0 ∨ (s.slotLine (uid, ch, t.ident) c).head? ≠ some (uid, ch, t.ident)) :=
    not_or.2 ⟨not_le.2 hfree, not_not.2 hfirst⟩
  unfold State.slotCb at hc
  rw [← hset]
  rw [State.slotLine_eq] at hgo ⊢
  unfold State.startXfer
  rw [hx]
  dsimp only at hgo ⊢
  rw [hmay, hcb, hc, if_neg Bool.false_ne_true, if_pos rfl, hflash]
  refine (if_neg hgo).trans ?_
  simp [hkind]
  rfl

end

end Sys2Proof.Machine
end

section
/-! Blocks of a flash transfer that arrive, and the end of a transfer on its channel (R361, R363, R367, R371, R463). -/

namespace Sys2Proof.Machine

/-! ### A block arrives -/

theorem Xfer.failAt_of_none {t : Xfer} (h : t.fail = none) (code f : Nat) : (t.failAt code f).fail = some (code, f) := by
  unfold Xfer.failAt
  rw [h]
  rfl

theorem Xfer.failAt_words (t : Xfer) (code f : Nat) : (t.failAt code f).words = t.words := by
  unfold Xfer.failAt
  split <;> split_ifs <;> rfl

/-- No chunk below the first one that touches a block touches it. -/
theorem Xfer.firstTouch_least {t : Xfer} {b f : Nat} (h : t.firstTouch b = some f) {k : Nat} (hk : k < f) :
    (chunkBlocks t.words k).contains b = false := by
  have hnot : (!(chunkBlocks t.words k).contains b) = true := (List.find?_range_eq_some.1 h).2.2 k hk
  simpa using hnot

section

variable {s : State} {uid ch b : Nat} {x : Strand} {t : Xfer}

theorem exec_flashBlockCheck_of_none (h : s.flashXfer uid ch b = none) : exec (.flashBlockCheck uid ch b) s = .next s := by
  show Host.Outcome.next (match s.flashXfer uid ch b with | some (x, t) => _ | none => s) = _
  rw [h]

theorem exec_nvmeError_of_none (h : s.flashXfer uid ch b = none) : exec (.nvmeError uid ch b) s = .next s := by
  show Host.Outcome.next (match s.flashXfer uid ch b with | some (_, t) => _ | none => s) = _
  rw [h]

variable (hx : s.flashXfer uid ch b = some (x, t))

include hx

theorem State.flashXfer_waits : cpFlash t.words = true ∧ t.blocks.contains b = false := by
  unfold State.flashXfer State.oldestXfer at hx
  cases hs : s.strand? uid with
  | none => simp [hs] at hx
  | some y =>
    simp only [hs, Option.map_eq_some_iff, Prod.mk.injEq] at hx
    obtain ⟨u, hu, -, rfl⟩ := hx
    have hp := List.find?_some hu
    simp only [Bool.and_eq_true, Bool.not_eq_true'] at hp
    obtain ⟨⟨⟨-, hflash⟩, -⟩, hblock⟩ := hp
    exact ⟨hflash, hblock⟩

theorem exec_nvmeError_of_touched {f : Nat} (hf : t.firstTouch b = some f) :
    exec (.nvmeError uid ch b) s = .next ((s.putXfer uid ch (t.failAt 8 f)).settleXfer uid ch t.ident) := by
  show Host.Outcome.next (match s.flashXfer uid ch b with
    | some (_, t) => (match t.firstTouch b with | some f => _ | none => s) | none => s) = _
  rw [hx]
  dsimp only
  rw [hf]

/-- A block that arrives and lets no chunk go on changes its transfer alone. -/
theorem exec_flashBlockCheck_of_idle (hserved : x.served = true)
    (hidle : ∀ k < (s.takeBlock t b).limit, (chunkBlocks (s.takeBlock t b).words k).contains b = true → (s.takeBlock t b).ready k = false) :
    exec (.flashBlockCheck uid ch b) s = .next ((s.putXfer uid ch (s.takeBlock t b)).settleXfer uid ch t.ident) := by
  have hnone : (List.range (s.takeBlock t b).limit).filter
      (fun k => (chunkBlocks (s.takeBlock t b).words k).contains b && (s.takeBlock t b).ready k) = [] := by
    refine List.filter_eq_nil_iff.2 fun k hk h => ?_
    obtain ⟨hblock, hready⟩ := Bool.and_eq_true_iff.1 h
    rw [hidle k (List.mem_range.1 hk) hblock] at hready
    exact Bool.false_ne_true hready
  show Host.Outcome.next (match s.flashXfer uid ch b with | some (x, t) => _ | none => s) = _
  rw [hx]
  dsimp only
  rw [hserved, hnone]
  rfl

/-- A block whose tag differs fails its transfer at the first chunk that touches it. -/
theorem exec_flashBlockCheck_of_differs {m : Image} {f : Nat} (hserved : x.served = true) (hf : t.firstTouch b = some f) (hfail : t.fail = none)
    (hm : s.xferImage t = some m) (hchk : cpCHK t.words = true) (htag : s.blockTag m b ≠ s.imgBytes m (m.toff + 16 * b) 16) :
    exec (.flashBlockCheck uid ch b) s = .next ((s.putXfer uid ch (t.failAt 7 f)).settleXfer uid ch t.ident) := by
  obtain ⟨-, hblock⟩ := State.flashXfer_waits hx
  have htake : s.takeBlock t b = t.failAt 7 f := by
    unfold State.takeBlock
    rw [hf]
    dsimp only
    rw [hblock, hm, hchk]
    simp [htag]
  rw [← htake]
  refine exec_flashBlockCheck_of_idle hx hserved fun k hk hb => ?_
  rw [htake] at hk hb
  rw [Xfer.limit, Xfer.failAt_of_none hfail] at hk
  rw [Xfer.failAt_words, t.firstTouch_least hf hk] at hb
  exact absurd hb Bool.false_ne_true

/-- A block whose tag agrees has passed; the chunks that touch it wait for others. -/
theorem exec_flashBlockCheck_of_agrees {m : Image} {f : Nat} (hserved : x.served = true) (hf : t.firstTouch b = some f) (hfail : t.fail = none)
    (hm : s.xferImage t = some m) (htag : s.blockTag m b = s.imgBytes m (m.toff + 16 * b) 16)
    (hwait : ∀ k < t.count, b ∈ chunkBlocks t.words k → ∃ c ∈ chunkBlocks t.words k, c ≠ b ∧ c ∉ t.blocks) :
    exec (.flashBlockCheck uid ch b) s =
      .next ((s.putXfer uid ch { t with blocks := b :: t.blocks }).settleXfer uid ch t.ident) := by
  obtain ⟨hflash, hblock⟩ := State.flashXfer_waits hx
  have htake : s.takeBlock t b = { t with blocks := b :: t.blocks } := by
    unfold State.takeBlock
    rw [hf]
    dsimp only
    rw [hblock, hm]
    simp [htag]
  rw [← htake]
  refine exec_flashBlockCheck_of_idle hx hserved fun k hk hb => ?_
  rw [htake] at hk hb ⊢
  have hlt : k < t.count := by
    rw [Xfer.limit, hfail] at hk
    exact hk
  obtain ⟨c, hc, hne, hleft⟩ := hwait k hlt (List.contains_iff_mem.1 hb)
  have hopen : (chunkBlocks t.words k).all (fun c => (b :: t.blocks).contains c) = false :=
    List.all_eq_false.2 ⟨c, hc, by simp [hne, hleft]⟩
  unfold Xfer.ready
  rw [hopen]
  simp [hflash]

end

/-! ### A transfer leaves its channel (R361, R363) -/

theorem Chan.close_of_failed {c : Chan} {t : Xfer} {f : Nat × Nat} (hf : t.fail = some f) :
    (c.close t).code = (if c.code = 0 then f.1 else c.code) ∧ (c.close t).fchunk = (if c.code = 0 then min f.2 4095 else c.fchunk) ∧
    (c.close t).fidlo = (if c.code = 0 then t.ident % 4096 else c.fidlo) := by
  simp [Chan.close, hf]

theorem Chan.close_cpdone {c : Chan} {t u : Xfer} {r : List Xfer} (hxfers : (c.close t).xfers = u :: r) (hu : 1 < u.ident) :
    (c.close t).cpdone = u.ident - 1 := by
  have hrest : c.xfers.filter (fun u => u.ident != t.ident) = u :: r := hxfers
  simp only [Chan.close, hrest, List.head?_cons]
  exact if_neg (by omega)

end Sys2Proof.Machine
end

section
/-! The one chunk of a LINEAR or FILL transfer within the scratchpad: its piece, its check, its landing and the end of its
transfer (R353, R363, R366). -/

namespace Sys2Proof.Machine

/-! ### Scratchpad addresses (R221, R297) -/

theorem toNat_scratchVa {off : Nat} (h : off ≤ 2 ^ 21) : (w64 (scratchBase + off)).toNat = scratchBase + off :=
  (BitVec.toNat_ofNat _ _).trans (Nat.mod_eq_of_lt (by unfold scratchBase; omega))

theorem pageRoom_scratchVa {off : Nat} (h : off ≤ 2 ^ 21) : pageRoom (w64 (scratchBase + off)) = 4096 - off % 4096 := by
  rw [pageRoom, toNat_scratchVa h]
  unfold scratchBase
  omega

theorem keyHome_scratchKey {q off : Nat} (hq : q < 144) (h : off < 2 ^ 21) : keyHome (scratchKey q off) = 3 := by
  unfold keyHome scratchKey
  omega

/-- The quad and the offset that the landing of a piece finds in its key. -/
theorem scratchKey_parts {q off : Nat} (h : off < 2 ^ 21) :
    (scratchKey q off - 3 * 2 ^ 52) / 2 ^ 21 = q ∧ scratchKey q off % 2 ^ 21 = off := by
  unfold scratchKey
  omega

/-! ### The piece of one row -/

/-- The source of a transfer's one row. -/
def rowSrc (ws : List Word) : PSrc := if cpKind ws = 3 then .fill 0 else .mem (regOf ws 0)

/-- A transfer of one row of n bytes, LINEAR or FILL, from memory. -/
structure OneRow (ws : List Word) (n : Nat) : Prop where
  kind : cpKind ws = 3 ∨ cpKind ws = 0 ∧ cpFlash ws = false
  rows : cpRows ws = 1
  rowb : cpRowb ws = n
  pos : 0 < n
  le : n ≤ 4096

namespace OneRow

variable {ws : List Word} {n : Nat} (h : OneRow ws n)

include h

theorem flash : cpFlash ws = false := by
  obtain hk | ⟨-, hf⟩ := h.kind
  · simp [cpFlash, hk]
  · exact hf

theorem kind_ne {k : Nat} (h3 : k ≠ 3) (h0 : k ≠ 0) : cpKind ws ≠ k := by
  obtain hk | ⟨hk, -⟩ := h.kind
  · exact fun e => h3 (e.symm.trans hk)
  · exact fun e => h0 (e.symm.trans hk)

theorem total : cpTotal ws = n := by rw [cpTotal, h.rowb, h.rows, mul_one]

theorem span : chunkSpan ws 0 = (0, n) := by
  have hle := h.le
  rw [chunkSpan, h.total]
  simp [hle]

theorem count {t : Xfer} (ht : t.words = ws) : t.count = 1 := by
  have htile : cpTile ws = false := by simp [cpTile, h.kind_ne]
  have hpos := h.pos
  have hle := h.le
  rw [Xfer.count, ht, htile, if_neg Bool.false_ne_true, h.total]
  omega

theorem runs (d : Word) : rowRuns ws (some d) 4097 0 n = [⟨rowSrc ws, some d, n⟩] := by
  have hsrc : (if cpKind ws = 3 then PSrc.fill (0 % n) else if cpFlash ws then .img ((regOf ws 3).toNat + 0)
      else .mem (regOf ws 0 + w64 (0 / n) * regOf ws 3 + w64 (0 % n))) = rowSrc ws := by
    rw [h.flash, if_neg Bool.false_ne_true]
    simp [rowSrc, w64]
  have hend : rowRuns ws (some d) 4096 (0 + min (n - 0 % n) (n - 0)) n = [] := by simp [rowRuns]
  have hpos := h.pos
  rw [rowRuns, if_neg (by omega), h.rowb]
  dsimp only
  rw [hsrc, hend]
  simp [w64]

end OneRow

theorem cutPiece_of_room {p : Piece} (hpos : 0 < p.n) (hroom : p.n ≤ p.room) (fuel : Nat) : cutPiece (fuel + 1) p = [p] := by
  rw [cutPiece, if_neg hpos.ne', if_pos hroom]

/-- A row that its pages hold is one piece. -/
theorem State.linearPieces_of_oneRow {s : State} {x : Strand} {t : Xfer} {n : Nat} (h : OneRow t.words n) (hslot : t.slot = none)
    (hroom : n ≤ (Piece.mk (rowSrc t.words) (some (regOf t.words 1)) n).room) :
    s.linearPieces x t 0 = [⟨rowSrc t.words, some (regOf t.words 1), n⟩] := by
  have hdst : s.xferDst x t = regOf t.words 1 := by rw [State.xferDst, hslot]
  rw [State.linearPieces, h.span, if_neg (h.kind_ne (by decide) (by decide)), hdst]
  dsimp only
  rw [h.runs, List.flatMap_singleton]
  exact cutPiece_of_room h.pos hroom 4096

/-! ### Its check: what it reads and has to write (R364, R366) -/

section

variable {s : State} {x : Strand} {n : Nat}

/-- An engine access within the strand's scratchpad reaches it. -/
theorem State.engSeg_scratch {off : Nat} (hoff : off + n ≤ x.ident.alen) (halen : x.ident.alen ≤ 2 ^ 21) (prv w : Bool) :
    s.engSeg x prv (w64 (scratchBase + off)) n w = (.ok (scratchKey x.ident.quad (x.ident.abase + off), 0, false, 32), s) := by
  have hva := toNat_scratchVa (off := off) (by omega)
  have hin : scratchBase ≤ (w64 (scratchBase + off)).toNat ∧
      (w64 (scratchBase + off)).toNat + n ≤ scratchBase + x.ident.alen := by omega
  rw [State.engSeg, if_pos hin, hva, Nat.add_sub_cancel_left]

theorem State.engTurn_of_no_marks {q : Nat} (h : ∀ w ∈ s.residents q, w.marks = []) (key : Nat) : s.engTurn q key n = false :=
  List.any_eq_false.2 fun w hw => by simp [h w hw]

theorem State.poisonIn_of_none (h : s.memPoison = []) (key : Nat) : s.poisonIn key n = none :=
  List.find?_eq_none.2 fun i _ => by simp [State.poisonedAt, h]

/-- A scratchpad without marks and poison is read. -/
theorem State.engRead_scratch {key : Nat} (hkey : keyHome key = 3) (hmarks : ∀ w ∈ s.residents x.ident.quad, w.marks = [])
    (hpoison : s.memPoison = []) (kid : Nat) (cach : Bool) (g va pol : Nat) :
    s.engRead x key kid cach g va n pol = (.ok (memGetN s.mem key n), s) := by
  rw [State.engRead, if_pos hkey, State.engTurn_of_no_marks hmarks, State.poisonIn_of_none hpoison]
  rfl

/-- The bytes of a transfer's one row: the pattern of a FILL, or what stands in the scratchpad at src. -/
def State.oneRowBytes (s : State) (x : Strand) (ws : List Word) (src n : Nat) : List Byte :=
  if cpKind ws = 3 then (List.range n).map (fun i => (leBytes 8 (regOf ws 7).toNat).getD (i % 8) 0)
  else memGetN s.mem (scratchKey x.ident.quad (x.ident.abase + src)) n

/-- What a transfer's one row has to write at dst. -/
def State.oneRowMove (s : State) (x : Strand) (ws : List Word) (src dst n : Nat) : Move :=
  ⟨scratchKey x.ident.quad (x.ident.abase + dst), s.oneRowBytes x ws src n, cpPOL ws, 0, scratchBase + dst, false, 32⟩

theorem State.oneRowBytes_length (ws : List Word) (src : Nat) : (s.oneRowBytes x ws src n).length = n := by
  unfold State.oneRowBytes
  split_ifs
  · rw [List.length_map, List.length_range]
  · rw [memGetN_eq_map, List.length_map, List.length_range]

end

/-- A transfer's one row lies within the scratchpad, each end within one page, and is not marked or poisoned. -/
structure State.InPad (s : State) (x : Strand) (ws : List Word) (src dst n : Nat) : Prop extends OneRow ws n where
  quad : x.ident.quad < 144
  top : x.ident.abase + x.ident.alen ≤ 2 ^ 21
  clean : s.memPoison = []
  plain : ∀ w ∈ s.residents x.ident.quad, w.marks = []
  source : cpKind ws = 0 → regOf ws 0 = w64 (scratchBase + src) ∧ src % 4096 + n ≤ 4096 ∧ src + n ≤ x.ident.alen
  dest : regOf ws 1 = w64 (scratchBase + dst)
  destPage : dst % 4096 + n ≤ 4096
  destPad : dst + n ≤ x.ident.alen

namespace State.InPad

variable {s : State} {x : Strand} {t : Xfer} {src dst n : Nat} (h : s.InPad x t.words src dst n)

include h

theorem room : n ≤ (Piece.mk (rowSrc t.words) (some (regOf t.words 1)) n).room := by
  have htop := h.top
  have hdestPad := h.destPad
  have hdestPage := h.destPage
  have hdst : n ≤ pageRoom (regOf t.words 1) := by
    rw [h.dest, pageRoom_scratchVa (by omega)]
    omega
  obtain hk | ⟨hk, -⟩ := h.kind
  · exact le_min (by simp [rowSrc, hk]) hdst
  · obtain ⟨hfrom, hpage, hpad⟩ := h.source hk
    refine le_min ?_ hdst
    simp only [rowSrc, hk, hfrom]
    refine le_of_le_of_eq ?_ (pageRoom_scratchVa (by omega)).symm
    omega

theorem runPiece : s.runPiece x t ⟨rowSrc t.words, some (regOf t.words 1), n⟩ = (.ok (s.oneRowMove x t.words src dst n), s) := by
  have htop := h.top
  have hdestPad := h.destPad
  have hto := s.engSeg_scratch (x := x) h.destPad (by omega) t.prv true
  have hva := toNat_scratchVa (off := dst) (by omega)
  obtain hk | ⟨hk, -⟩ := h.kind
  · have hsrc : rowSrc t.words = .fill 0 := if_pos hk
    have hbytes : s.oneRowBytes x t.words src n = _ := if_pos hk
    simp only [State.runPiece, hsrc, h.dest, hto, hva, State.oneRowMove, hbytes, Nat.zero_add]
  · obtain ⟨hfrom, -, hpad⟩ := h.source hk
    have hne : cpKind t.words ≠ 3 := by omega
    have hsrc : rowSrc t.words = .mem (w64 (scratchBase + src)) := (if_neg hne).trans (congrArg PSrc.mem hfrom)
    have hbytes : s.oneRowBytes x t.words src n = _ := if_neg hne
    have hpos := h.pos
    have hseg := s.engSeg_scratch (x := x) hpad (by omega) t.prv false
    have hread := s.engRead_scratch (x := x) (n := n) (keyHome_scratchKey h.quad (off := x.ident.abase + src) (by omega)) h.plain h.clean
      0 false 32 (w64 (scratchBase + src)).toNat (cpPOL t.words)
    simp only [State.runPiece, hsrc, hseg, hread, h.dest, hto, hva, State.oneRowMove, hbytes]

/-- The check of the one chunk passes, and reads the row. -/
theorem runChunk (hslot : t.slot = none) : s.runChunk x t 0 = ((none, [s.oneRowMove x t.words src dst n]), s) := by
  have hpieces := State.linearPieces_of_oneRow (s := s) (x := x) h.toOneRow hslot h.room
  unfold State.runChunk
  split
  next hk => exact absurd hk (h.kind_ne (by decide) (by decide))
  next hk => exact absurd hk (h.kind_ne (by decide) (by decide))
  next => rw [hpieces, State.runPieces, h.runPiece]; rfl

end State.InPad

end Sys2Proof.Machine
end

section
/-! The one chunk of a transfer within the scratchpad, from its check to the end of its transfer (R361, R363, R366), and the
copy engine's events. -/

namespace Sys2Proof.Machine

/-! ### The only transfer of a channel -/

theorem State.strand?_uid {s : State} {uid : Nat} {x : Strand} (h : s.strand? uid = some x) : x.uid = uid := by
  unfold State.strand? at h
  split_ifs at h with hcur
  · exact Option.some.inj h ▸ hcur.1
  · simpa using List.find?_some h

/-- Strand uid is x, and t is the only transfer of its channel ch. -/
def State.Carries (s : State) (uid ch : Nat) (x : Strand) (t : Xfer) : Prop :=
  s.strand? uid = some x ∧ (x.chan ch).xfers = [t]

/-- A strand whose one transfer on a channel has become t. -/
def Strand.carrying (x : Strand) (ch : Nat) (t : Xfer) : Strand := x.modChan ch (fun c => { c with xfers := [t] })

theorem Strand.carrying_carrying (x : Strand) (ch : Nat) (t u : Xfer) : (x.carrying ch t).carrying ch u = x.carrying ch u :=
  x.modChan_modChan ch _ _

theorem State.putXfer_mem (s : State) (uid ch : Nat) (t : Xfer) : (s.putXfer uid ch t).mem = s.mem :=
  State.modStrandAll_keeps (g := State.mem) (fun _ _ _ => rfl) (fun _ _ => rfl) (fun _ _ _ => rfl) s uid _

namespace State.Carries

variable {s : State} {uid ch : Nat} {x : Strand} {t : Xfer} (h : s.Carries uid ch x t)

include h

theorem xfer? : s.xfer? uid ch t.ident = some (x, t) := by
  obtain ⟨hx, ht⟩ := h
  unfold State.xfer?
  rw [hx]
  simp [ht]

theorem oldestXfer {p : Xfer → Bool} (hp : p t = true) : s.oldestXfer uid ch p = some (x, t) := by
  obtain ⟨hx, ht⟩ := h
  unfold State.oldestXfer
  rw [hx]
  simp [ht, hp]

/-- The transfer, changed under its identifier, takes its place. -/
theorem putXfer {u : Xfer} (hch : ch < 4) (hid : u.ident = t.ident) : (s.putXfer uid ch u).Carries uid ch (x.carrying ch u) u := by
  obtain ⟨hx, ht⟩ := h
  constructor
  · rw [State.strand?_putXfer, hx, Option.map_some]
    exact congrArg some (Strand.modChan_congr (by simp [ht, hid]))
  · rw [Strand.carrying, x.chan_modChan ch _ hch, if_pos rfl]

/-- What is outside the strands carries on. -/
theorem of_strand?_eq {s' : State} (hs : s'.strand? uid = s.strand? uid) : s'.Carries uid ch x t := ⟨hs.trans h.1, h.2⟩

end State.Carries

/-! ### A piece lands in the scratchpad (R316, R379) -/

section

variable {s : State} {x : Strand} {m : Move} {off : Nat} (hkey : m.key = scratchKey x.ident.quad off) (hoff : off < 2 ^ 21)
  (hquad : x.ident.quad < 144)

include hkey hoff hquad

/-- A piece of the scratchpad is written there, outside of every line and every reserved way. -/
theorem State.engLand_scratch : s.engLand x m = s.scratchWrite x.ident.quad off m.data := by
  have hhome := hkey ▸ keyHome_scratchKey hquad hoff
  obtain ⟨hq, ho⟩ := scratchKey_parts (q := x.ident.quad) hoff
  have hheat : s.engHeat x m.key m.data.length m.grain = s := if_pos (by omega)
  have hland (crew : Option Nat) : s.landMove x.ident.part crew m = (s.scratchWrite x.ident.quad off m.data, 0) := by
    rw [State.landMove, if_pos hhome, hkey, hq, ho]
  unfold State.engLand
  rw [hheat, hland]
  exact if_pos rfl

theorem State.engLand_scratch_mem : (s.engLand x m).mem = memSetN s.mem m.key m.data := by
  rw [State.engLand_scratch hkey hoff hquad, hkey]
  exact State.modQuad_keeps (g := State.mem) (fun _ _ _ => rfl) _ _ _

theorem State.engLand_scratch_strand? (uid : Nat) : (s.engLand x m).strand? uid = s.strand? uid := by
  rw [State.engLand_scratch hkey hoff hquad]
  exact State.modQuad_keeps (g := fun s : State => s.strand? uid) (fun _ _ _ => rfl) _ _ _

end

/-! ### The chunk is checked, lands, and ends its transfer -/

section

variable {s : State} {uid ch : Nat} {x : Strand} {t : Xfer} {m : Move}

/-- A transfer whose first chunk has been checked. -/
def Xfer.checked (t : Xfer) (m : Move) : Xfer := { t with next := 1, plan := [(0, [m])] }

/-- A transfer whose one chunk of n bytes has been written. -/
def Xfer.written (t : Xfer) (m : Move) (n : Nat) : Xfer :=
  { t.checked m with plan := [], chunks := [0], bytes := n, glob := t.glob || keyHome m.key != 3 }

theorem State.checkGo_of_runChunk (h : s.Carries uid ch x t) (hnext : t.next = 0) (hplan : t.plan = []) (hchunks : t.chunks = [])
    (hlimit : 0 < t.limit) (hflash : cpFlash t.words = false) (hrun : s.runChunk x t 0 = ((none, [m]), s)) :
    State.checkGo uid ch t.ident 0 1 s = s.putXfer uid ch (t.checked m) := by
  have hready : t.ready 0 = true := by rw [Xfer.ready, hflash]; rfl
  have hgo : ¬ (0 < 0 ∨ t.limit ≤ 0 ∨ (!t.ready 0) = true) := by rw [hready]; simp [hlimit.ne']
  have hopen : t.chunks.contains 0 = false := by rw [hchunks]; rfl
  rw [State.checkGo, h.xfer?]
  dsimp only
  rw [hnext, if_neg hgo, hopen, if_neg Bool.false_ne_true, hrun, hplan]
  rfl

/-- The source bytes that a row delivers (R363). -/
def rowDelivers (ws : List Word) (n : Nat) : Nat := if cpKind ws = 3 then 0 else n

theorem State.chunkBytes_of_oneRow {n : Nat} (h : OneRow t.words n) : s.chunkBytes x t 0 = rowDelivers t.words n := by
  unfold State.chunkBytes rowDelivers
  obtain hk | ⟨hk, -⟩ := h.kind
  · rw [hk]
    rfl
  · rw [hk, h.span]
    rfl

variable {n : Nat}

/-- The one checked piece is written, and its chunk completes. -/
theorem State.landChunks_of_checked (h : s.Carries uid ch x (t.checked m)) (hrow : OneRow t.words n) (hmask : cpMask t.words = 0)
    (hbytes : t.bytes = 0) (hchunks : t.chunks = []) :
    s.landChunks uid ch t.ident ((t.checked m).together 0) = (s.engLand x m).putXfer uid ch (t.written m (rowDelivers t.words n)) := by
  have htogether : (t.checked m).together 0 = fun j => j == 0 :=
    (if_neg (hrow.kind_ne (by decide) (by decide))).trans (if_pos (hrow.kind_ne (by decide) (by decide)))
  have hplan : (t.checked m).plan.filter (fun c => c.1 == 0) = [(0, [m])] := rfl
  have hfind : s.xfer? uid ch t.ident = some (x, t.checked m) := h.xfer?
  have hdelivers : t.bytes + (s.engLand x m).chunkBytes x (t.checked m) 0 = rowDelivers t.words n := by
    rw [hbytes, Nat.zero_add]
    exact State.chunkBytes_of_oneRow (t := t.checked m) hrow
  have hdone : (t.checked m).chunks = [] := hchunks
  have hold : (t.checked m).bytes = t.bytes := rfl
  unfold State.landChunks
  rw [hfind, htogether]
  dsimp only
  rw [hplan, List.foldl_cons, List.foldl_nil, hfind]
  dsimp only [List.foldl_cons, List.foldl_nil]
  unfold State.finishChunk
  rw [hdone, hold, hdelivers, State.strand?_uid h.1]
  refine (if_pos (Or.inl hmask)).trans (congrArg _ ?_)
  simp [Xfer.written, Xfer.checked]

/-- The strand after its transfer has ended. -/
def Strand.closing (x : Strand) (ch : Nat) (t : Xfer) : Strand := { x.modChan ch (fun c => c.close t) with waiting := false }

/-- A transfer whose one chunk has been written ends. -/
theorem State.settleXfer_of_written (h : s.Carries uid ch x (t.written m n)) {k : Nat} (hrow : OneRow t.words k) (hstarted : t.started = true)
    (hfail : t.fail = none) (hslot : t.slot = none) :
    (s.settleXfer uid ch t.ident).mem = s.mem ∧
    (s.settleXfer uid ch t.ident).strand? uid = some (x.closing ch (t.written m n)) := by
  have hfind : s.xfer? uid ch t.ident = some (x, t.written m n) := h.xfer?
  have hfails : (t.written m n).fail = none := hfail
  have hlimit : (t.written m n).limit = 1 := by
    rw [Xfer.limit, hfails]
    exact hrow.count rfl
  have hend : s.settleXfer uid ch t.ident = s.endXfer x ch (t.written m n) := by
    have hsig : cpSig t.words = false := by simp [cpSig, hrow.kind_ne]
    unfold State.settleXfer
    rw [hfind]
    dsimp only
    rw [hlimit]
    simp [Xfer.written, Xfer.checked, hstarted, hsig]
  have huid := State.strand?_uid h.1
  rw [hend]
  unfold State.endXfer
  have hnone : (t.written m n).slot = none := hslot
  rw [hnone, huid]
  constructor
  · exact State.modStrandAll_keeps (g := State.mem) (fun _ _ _ => rfl) (fun _ _ => rfl) (fun _ _ _ => rfl) _ _ _
  · refine (State.strand?_modStrandAll (f := fun y => y.closing ch (t.written m n)) (fun _ => rfl) (fun _ h => h) _ uid uid).trans
      ((if_pos rfl).trans ?_)
    exact congrArg (Option.map _) h.1

/-- The one chunk of a transfer within the scratchpad is written, and its transfer ends. -/
theorem State.doChunk_inPad {src dst : Nat} (h : s.Carries uid ch x t) (hch : ch < 4) (hpad : s.InPad x t.words src dst n)
    (hmask : cpMask t.words = 0) (hstarted : t.started = true) (hfail : t.fail = none) (hchunks : t.chunks = []) (hplan : t.plan = [])
    (hnext : t.next = 0) (hbytes : t.bytes = 0) (hslot : t.slot = none) :
    let m := s.oneRowMove x t.words src dst n
    let u := t.written m (rowDelivers t.words n)
    (s.doChunk uid ch t.ident 0).mem = memSetN s.mem m.key m.data ∧
    (s.doChunk uid ch t.ident 0).strand? uid = some ((x.carrying ch u).closing ch u) := by
  intro m u
  have hrow := hpad.toOneRow
  have hquad := hpad.quad
  have htop := hpad.top
  have hdest := hpad.destPad
  have hpos := hrow.pos
  have hoff : x.ident.abase + dst < 2 ^ 21 := by omega
  have hlimit : t.limit = 1 := by
    rw [Xfer.limit, hfail]
    exact hrow.count rfl
  have hcheck := State.checkGo_of_runChunk (m := m) h hnext hplan hchunks (by omega) hrow.flash (hpad.runChunk hslot)
  have h1 : (s.putXfer uid ch (t.checked m)).Carries uid ch (x.carrying ch (t.checked m)) (t.checked m) := h.putXfer hch rfl
  have hfind1 : (s.putXfer uid ch (t.checked m)).xfer? uid ch t.ident = some (_, t.checked m) := h1.xfer?
  have hland := State.landChunks_of_checked h1 hrow hmask hbytes hchunks
  have h2 := h1.of_strand?_eq (State.engLand_scratch_strand? (m := m) (x := x.carrying ch (t.checked m)) rfl hoff hquad uid)
  have h3 : State.Carries _ uid ch _ u := h2.putXfer (u := u) hch rfl
  rw [Strand.carrying_carrying] at h3
  have hmem : (((s.putXfer uid ch (t.checked m)).engLand (x.carrying ch (t.checked m)) m).putXfer uid ch u).mem =
      memSetN s.mem m.key m.data := by
    rw [State.putXfer_mem, State.engLand_scratch_mem (m := m) (x := x.carrying ch (t.checked m)) rfl hoff hquad, State.putXfer_mem]
  have hdo : s.doChunk uid ch t.ident 0 =
      (((s.putXfer uid ch (t.checked m)).engLand (x.carrying ch (t.checked m)) m).putXfer uid ch u).settleXfer uid ch t.ident := by
    have hfails : (t.checked m).fail.isSome = false := by rw [show (t.checked m).fail = none from hfail]; rfl
    unfold State.doChunk
    rw [h.xfer?]
    dsimp only
    rw [if_neg (hrow.kind_ne (by decide) (by decide)), hcheck, hfind1]
    dsimp only
    rw [hfails, if_neg Bool.false_ne_true, hland]
  obtain ⟨hmem', hstrand⟩ := State.settleXfer_of_written h3 hrow hstarted hfail hslot
  rw [hdo]
  exact ⟨hmem'.trans hmem, hstrand⟩

theorem Strand.closing_carrying (u : Xfer) (i : Nat) : ((x.carrying ch u).closing ch u).chan i =
    (x.modChan ch (fun c => ({ c with xfers := [u] } : Chan).close u)).chan i :=
  congrArg (fun y => y.chan i) (x.modChan_modChan ch (fun c => { c with xfers := [u] }) (fun c => c.close u))

/-- What the only transfer of a channel leaves there when it has ended without a failure. -/
theorem Strand.closing_carrying_chan {u : Xfer} (hch : ch < 4) (hfail : u.fail = none) (hid : u.ident < 2 ^ 47)
    (hnewest : (x.chan ch).bytesId ≤ u.ident) (hnextId : 1 < (x.chan ch).nextId) (hbytes : u.bytes < 2 ^ 32) :
    let y := (x.carrying ch u).closing ch u
    (y.chan ch).xfers = [] ∧ (y.chan ch).cpdone = (x.chan ch).nextId - 1 ∧ (y.chan ch).code = (x.chan ch).code ∧
    (y.chan ch).bytes = u.bytes ∧ ∀ i < 4, i ≠ ch → y.chan i = x.chan i := by
  intro y
  have hown : y.chan ch = ({ x.chan ch with xfers := [u] } : Chan).close u :=
    (x.closing_carrying u ch).trans ((x.chan_modChan ch _ hch).trans (if_pos rfl))
  have hnew : reached u.ident (x.chan ch).bytesId = true := by
    simp only [reached, decide_eq_true_eq]
    omega
  have hdone : prevId (x.chan ch).cpdone (x.chan ch).nextId = (x.chan ch).nextId - 1 := if_neg (by omega)
  rw [hown]
  refine ⟨?_, ?_, ?_, ?_, fun i hi hne => ?_⟩
  · simp [Chan.close]
  · simp [Chan.close, hdone]
  · simp [Chan.close, hfail]
  · exact (if_pos hnew).trans (Nat.mod_eq_of_lt hbytes)
  · exact (x.closing_carrying u i).trans ((x.chan_modChan ch _ hi).trans (if_neg hne))

/-- The event completes the one chunk of a channel's only transfer. -/
theorem exec_chunkComplete_of_carries (h : s.Carries uid ch x t) (hserved : x.served = true) (hrow : OneRow t.words n)
    (hstarted : t.started = true) (hfail : t.fail = none) (hchunks : t.chunks = []) :
    exec (.chunkComplete uid ch 0) s = .next (s.doChunk uid ch t.ident 0) := by
  have hlimit : t.limit = 1 := by
    rw [Xfer.limit, hfail]
    exact hrow.count rfl
  have hfind := h.oldestXfer
    (p := fun t => t.started && cpKind t.words != 4 && decide (0 < t.limit) && !t.chunks.contains 0)
    (by simp [hstarted, hrow.kind_ne, hlimit, hchunks])
  show Host.Outcome.next (match s.oldestXfer uid ch _ with | some (x, t) => _ | none => s) = _
  rw [hfind]
  exact congrArg _ (if_pos hserved)

end

/-! ### The bytes that land -/

theorem getD_leBytes {n i : Nat} (h : i < n) (v : Nat) : (leBytes n v).getD i 0 = BitVec.ofNat 8 (v / 256 ^ i) := by
  induction n generalizing i v with
  | zero => omega
  | succ n ih =>
    cases i with
    | zero => simp [leBytes]
    | succ i =>
      have hi := ih (i := i) (by omega) (v / 256)
      rw [leBytes, List.getD_cons_succ, hi, Nat.div_div_eq_div_mul, ← pow_succ']

/-- A byte of a run that was written is the run's. -/
theorem memGet_memSetN_inside {m : Memory} (h : m.wf = true) {bs : List Byte} {i : Nat} (hi : i < bs.length) (k : Nat) :
    memGet (memSetN m k bs) (k + i) = bs.getD i 0 := by
  have hrun := memGetN_memSetN bs k h
  rw [memGetN_eq_map] at hrun
  have hbyte := congrArg (fun l => l.getD i 0) hrun
  simpa [List.getD_eq_getElem?_getD, hi] using hbyte

theorem State.getD_oneRowBytes {s : State} {x : Strand} {ws : List Word} {src n i : Nat} (hi : i < n) :
    (s.oneRowBytes x ws src n).getD i 0 = if cpKind ws = 3 then BitVec.ofNat 8 ((regOf ws 7).toNat / 256 ^ (i % 8))
      else memGet s.mem (scratchKey x.ident.quad (x.ident.abase + src) + i) := by
  unfold State.oneRowBytes
  split_ifs
  · rw [← getD_leBytes (Nat.mod_lt i (by decide)) (regOf ws 7).toNat]
    simp [List.getD_eq_getElem?_getD, hi]
  · simp [memGetN_eq_map, List.getD_eq_getElem?_getD, hi]

theorem scratchKey_add (q a off i : Nat) : scratchKey q a + off + i = scratchKey q (a + off) + i := by
  unfold scratchKey
  omega

/-- Settles O52: each event by its lemma; the one chunk of a transfer within the scratchpad by following it from its check
to the end of its transfer. -/
theorem transferEvents : Obligations.TransferEvents := by
  refine ⟨fun s uid ch => ⟨fun h => congrArg Host.Outcome.next (State.startXfer_of_none h), fun x t hx => ?_⟩, ?_,
    fun s uid ch b => ⟨fun h => ⟨exec_flashBlockCheck_of_none h, exec_nvmeError_of_none h⟩, fun x t f hx hf hfail => ?_⟩, ?_⟩
  · refine ⟨fun h => congrArg _ (State.startXfer_of_kept hx h), fun hcb h => congrArg _ (State.startXfer_of_no_controller hx hcb h),
      fun c hrel hserved hcb hc hwait => congrArg _ (State.startXfer_of_waiting hx hrel hserved hcb hc hwait),
      fun hrel hserved hchunks hfail hcount hkind hflash => ⟨fun hcb => ?_, fun c hcb hc hfree hfirst => ?_⟩⟩
    · exact congrArg _ (State.startXfer_of_free hx hrel hserved hchunks hfail hcount hkind hflash hcb)
    · exact congrArg _ (State.startXfer_of_slot hx hrel hserved hchunks hfail hcount hkind hflash hcb hc hfree hfirst)
  · intro s uid ch n src dst x t hwf hx hserved hch hquad htop hclean hplain hxfers hstarted hfail hchunks hplan hnext hbytes hslot hid
      hnewest hnextId hmask hrows hrowb hpos hle hkind hdst hpage hdest
    have hrow : OneRow t.words n := ⟨hkind.imp_right fun ⟨hk, hf, _⟩ => ⟨hk, hf⟩, hrows, hrowb, hpos, hle⟩
    have hpad : s.InPad x t.words src dst n := ⟨hrow, hquad, htop, hclean, hplain, fun hk => by
      obtain hk' | ⟨-, -, hsrc⟩ := hkind
      · omega
      · exact hsrc, hdst, hpage, hdest⟩
    have hcar : s.Carries uid ch x t := ⟨hx, hxfers⟩
    obtain ⟨hmem, hstrand⟩ := State.doChunk_inPad hcar hch hpad hmask hstarted hfail hchunks hplan hnext hbytes hslot
    have hlength := s.oneRowBytes_length (x := x) (n := n) t.words src
    have hdelivers : rowDelivers t.words n < 2 ^ 32 := by
      unfold rowDelivers
      split_ifs <;> omega
    obtain ⟨hnone, hdone, hcode, hgot, hothers⟩ := Strand.closing_carrying_chan
      (x := x) (u := t.written (s.oneRowMove x t.words src dst n) (rowDelivers t.words n)) hch hfail hid hnewest hnextId hdelivers
    refine ⟨_, _, exec_chunkComplete_of_carries hcar hserved hrow hstarted hfail hchunks, hstrand, fun i hi => ?_, fun k hk => ?_,
      hnone, hdone, hcode, hgot, rfl, rfl, hothers⟩
    · rw [hmem, scratchKey_add, scratchKey_add]
      exact (memGet_memSetN_inside hwf (hlength.symm ▸ hi) _).trans (State.getD_oneRowBytes hi)
    · rw [hmem]
      refine memGet_memSetN_outside _ hwf ?_
      have hkey : (s.oneRowMove x t.words src dst n).key = scratchKey x.ident.quad (x.ident.abase + dst) := rfl
      have hdata : (s.oneRowMove x t.words src dst n).data.length = n := hlength
      rw [hkey, hdata]
      have hsplit := scratchKey_add x.ident.quad x.ident.abase dst 0
      omega
  · exact ⟨exec_nvmeError_of_touched hx hf, fun hserved m hm hchk =>
      ⟨exec_flashBlockCheck_of_differs hx hserved hf hfail hm hchk, exec_flashBlockCheck_of_agrees hx hserved hf hfail hm⟩⟩
  · intro c t f hf _
    obtain ⟨hcode, hchunk, hident⟩ := Chan.close_of_failed (c := c) hf
    rw [hcode, hchunk, hident]
    exact ⟨rfl, rfl, rfl, fun h => ⟨if_pos h, if_pos h, if_pos h⟩, fun h => ⟨if_neg h, if_neg h, if_neg h⟩,
      fun u r hxfers hu => Chan.close_cpdone hxfers hu⟩

end Sys2Proof.Machine
end

section
/-! Quads: what a write of one gives back; the checkpoint of a span's boundary, the release of the platform, the end of a rollback
and the copy of a spare (R410, R413, R416, R479). -/

namespace Sys2Proof.Machine

/-! ### A quad that is written -/

theorem find?_map_replaced {x : Quad} {l : List Quad} (h : l.any (fun y => y.id == x.id) = true) :
    (l.map (fun y => if y.id = x.id then x else y)).find? (fun y => y.id == x.id) = some x := by
  induction l with
  | nil => exact absurd h Bool.false_ne_true
  | cons y l ih =>
    by_cases hy : y.id = x.id
    · simp [hy]
    · rw [List.any_cons, beq_eq_false_iff_ne.2 hy, Bool.false_or] at h
      simp [hy, ih h]

theorem State.getQuad_setQuad (s : State) (x : Quad) : (s.setQuad x).getQuad x.id = x := by
  unfold State.setQuad
  split_ifs with hcur hany
  · exact if_pos rfl
  · simp [State.getQuad, hcur, find?_map_replaced hany]
  · have hnone : s.quads.find? (fun y => y.id == x.id) = none := by
      rw [List.find?_eq_none]
      intro y hy hid
      exact hany (List.any_eq_true.2 ⟨y, hy, hid⟩)
    simp [State.getQuad, hcur, hnone]

theorem State.getQuad_modQuad {f : Quad → Quad} {q : Nat} (s : State) (hid : (f (s.getQuad q)).id = q) :
    (s.modQuad q f).getQuad q = f (s.getQuad q) := by
  have hget := s.getQuad_setQuad (f (s.getQuad q))
  rwa [hid] at hget

/-- A quad that keeps its number, put back as the current one. -/
theorem State.modQuad_current {s : State} {f : Quad → Quad} (hid : (f s.quad).id = s.quad.id) :
    s.modQuad s.quad.id f = { s with quad := f s.quad } := by
  have hget : s.getQuad s.quad.id = s.quad := if_pos rfl
  unfold State.modQuad State.setQuad
  rw [hget, hid]
  exact if_pos rfl

/-! ### A span's boundary (R410) -/

theorem exec_spanBoundary_of_off {s : State} {n : Nat} (h : s.timer % 128 ≠ 0 ∨ (s.getQuad n).rolling = true) :
    exec (.spanBoundary n) s = .next s := by
  have hoff : (decide (s.timer % 128 ≠ 0) || (s.getQuad n).rolling) = true := by simpa using h
  exact congrArg Host.Outcome.next (if_pos hoff)

/-- A quad with a checkpoint in front of the newest two others. -/
def Quad.checkpointed (q : Quad) (now : Nat) (c : Ckpt) : Quad :=
  { q with ckpts := (c :: q.ckpts.filter (fun k => k.tick != now)).take 3 }

theorem exec_spanBoundary_of_on {s : State} {n : Nat} (htick : s.timer % 128 = 0) (hroll : (s.getQuad n).rolling = false) :
    exec (.spanBoundary n) s = .next (s.setQuad ((s.getQuad n).checkpointed s.timer (s.checkpoint (s.getQuad n)))) := by
  have hon : ¬ (decide (s.timer % 128 ≠ 0) || (s.getQuad n).rolling) = true := by simp [htick, hroll]
  exact congrArg Host.Outcome.next (if_neg hon)

theorem State.getQuad_checkpointed (s : State) (n : Nat) (c : Ckpt) :
    (s.setQuad ((s.getQuad n).checkpointed s.timer c)).getQuad n = (s.getQuad n).checkpointed s.timer c := by
  have hget := s.getQuad_setQuad ((s.getQuad n).checkpointed s.timer c)
  rwa [show ((s.getQuad n).checkpointed s.timer c).id = n from s.getQuad_id n] at hget

/-! ### The platform's release (R413) -/

theorem State.releaseDue_of_none {s : State} (h : ∀ e ∈ s.quad.plat, s.timer < e.tick) : s.releaseDue s.quad.id = s := by
  have hgo : s.quad.plat.filter (fun e => decide (e.tick ≤ s.timer)) = [] :=
    List.filter_eq_nil_iff.2 fun e he => by simpa using h e he
  have hstay : s.quad.plat.filter (fun e => !decide (e.tick ≤ s.timer)) = s.quad.plat :=
    List.filter_eq_self.2 fun e he => by simpa using h e he
  unfold State.releaseDue
  rw [show s.getQuad s.quad.id = s.quad from if_pos rfl]
  dsimp only
  rw [hgo, List.foldl_nil, State.modQuad_current rfl, hstay]
  rfl

/-- The effect that is due alone leaves. -/
theorem State.releaseDue_of_first {s : State} {e : Eff} {r : List Eff} (hplat : s.quad.plat = e :: r) (hdue : e.tick ≤ s.timer)
    (hrest : ∀ k ∈ r, s.timer < k.tick) :
    let t : State := { s with quad := { s.quad with plat := r, lastRel := max s.quad.lastRel e.tick } }
    s.releaseDue s.quad.id = if s.split && e.kind.travels then t.inject e else t.perform e := by
  have hgo : s.quad.plat.filter (fun e => decide (e.tick ≤ s.timer)) = [e] := by
    rw [hplat, List.filter_cons, if_pos (by simpa using hdue)]
    exact congrArg _ (List.filter_eq_nil_iff.2 fun k hk => by simpa using hrest k hk)
  have hstay : s.quad.plat.filter (fun e => !decide (e.tick ≤ s.timer)) = r := by
    rw [hplat, List.filter_cons, if_neg (by simpa using hdue)]
    exact List.filter_eq_self.2 fun k hk => by simpa using hrest k hk
  unfold State.releaseDue
  rw [show s.getQuad s.quad.id = s.quad from if_pos rfl]
  dsimp only
  rw [hgo, List.foldl_cons, List.foldl_nil, State.modQuad_current rfl, hstay]
  rfl

/-! ### A spare takes a quad's place (R479) -/

/-- A quad as its spare has it. -/
def Quad.spared (q : Quad) : Quad :=
  { q with d := { q.d with copies := [], tlb := [], atoms := [], recs := [] }, aging := false, agedAt := 0, ckpts := [] }

/-- The spares left for quad n. -/
def State.sparesOf (s : State) (n : Nat) : Nat := s.lodge.spares.getD (n / 36) 0

/-- Whether a spare may take quad n's place. -/
def State.mayCopy (s : State) (n : Nat) : Bool :=
  let q := s.getQuad n
  q.aging && (s.residents n).isEmpty && q.plat.isEmpty && !q.rolling && decide (0 < s.sparesOf n)

theorem exec_quadSpareCopy_of_not {s : State} {n : Nat} (h : s.mayCopy n = false) : exec (.quadSpareCopy n) s = .next s := by
  refine congrArg Host.Outcome.next (if_neg ?_)
  exact ne_of_eq_of_ne h Bool.false_ne_true

theorem exec_quadSpareCopy_of {s : State} {n : Nat} (h : s.mayCopy n = true) :
    exec (.quadSpareCopy n) s = .next { s.setQuad (s.getQuad n).spared with
      lodge := { s.lodge with spares := s.lodge.spares.set (n / 36) (s.sparesOf n - 1), qrepl := s.lodge.qrepl + 1 } } :=
  congrArg Host.Outcome.next (if_pos h)

end Sys2Proof.Machine
end

section
/-! Crews that are stopped when their quad ages (R404, R479). -/

namespace Sys2Proof.Machine

/-! ### What stopping crews leaves (R404) -/

section

variable {α : Type} {g : State → α} (hs : ∀ (s : State) a b, g { s with cur := a, strands := b } = g s)
  (hc : ∀ (s : State) a, g { s with crews := a } = g s)

include hs hc

/-- What reads neither strands nor crews is the same after a crew has been stopped. -/
theorem State.stopCrew_keeps (s : State) (c : Nat) : g (s.stopCrew c) = g s := (hc _ _).trans (hs s _ _)

theorem State.takeCrew_keeps (s : State) (c : Crew) : g (s.takeCrew c) = g s := by
  refine foldl_keeps (fun t d => ?_) (s.together c) s
  split_ifs
  · rfl
  · exact State.stopCrew_keeps hs hc t d.id

theorem State.clearOut_keeps (s : State) (quad : Nat) (all : Bool) : g (s.clearOut quad all) = g s :=
  foldl_keeps (fun t c => State.takeCrew_keeps hs hc t c) _ s

end

/-! ### Which crews are stopped -/

/-- The crew is there, of the launch and at the place where it was. -/
def State.Has (s : State) (c : Crew) : Prop :=
  ∃ d ∈ s.crews, d.id = c.id ∧ d.launch = c.launch ∧ d.depot = c.depot ∧ d.index = c.index

/-- A crew of a number stops. -/
def State.Stops (s : State) (i : Nat) : Prop := ∃ d ∈ s.crews, d.id = i ∧ d.stopping = true

section

variable {s : State} {c : Crew} {i j : Nat}

/-- Every crew is in the crews of a state in which one has been stopped, as it was but for STOPPING. -/
theorem State.mem_crews_stopCrew {d : Crew} (hd : d ∈ s.crews) :
    (if d.id = j then { d with stopping := true } else d) ∈ (s.stopCrew j).crews :=
  List.mem_map_of_mem (f := fun x : Crew => if x.id = j then { x with stopping := true } else x) hd

theorem State.Has.stopCrew (h : s.Has c) : (s.stopCrew j).Has c := by
  obtain ⟨d, hd, hid, hlaunch, hdepot, hindex⟩ := h
  refine ⟨_, State.mem_crews_stopCrew hd, ?_⟩
  split_ifs
  · exact ⟨hid, hlaunch, hdepot, hindex⟩
  · exact ⟨hid, hlaunch, hdepot, hindex⟩

theorem State.Stops.stopCrew (h : s.Stops i) : (s.stopCrew j).Stops i := by
  obtain ⟨d, hd, hid, hstop⟩ := h
  refine ⟨_, State.mem_crews_stopCrew hd, ?_⟩
  split_ifs
  · exact ⟨hid, rfl⟩
  · exact ⟨hid, hstop⟩

theorem State.Has.stops_stopCrew (h : s.Has c) : (s.stopCrew c.id).Stops c.id := by
  obtain ⟨d, hd, hid, -⟩ := h
  refine ⟨_, State.mem_crews_stopCrew hd, ?_⟩
  rw [if_pos hid]
  exact ⟨hid, rfl⟩

theorem State.Has.takeCrew (h : s.Has c) (b : Crew) : (s.takeCrew b).Has c := by
  refine List.foldlRecOn (motive := fun t : State => t.Has c) (s.together b) _ h fun t ht d _ => ?_
  split_ifs
  · exact ht
  · exact ht.stopCrew

theorem State.Stops.takeCrew (h : s.Stops i) (b : Crew) : (s.takeCrew b).Stops i := by
  refine List.foldlRecOn (motive := fun t : State => t.Stops i) (s.together b) _ h fun t ht d _ => ?_
  split_ifs
  · exact ht
  · exact ht.stopCrew

/-- A crew is one of those that are taken with it. -/
theorem State.mem_together {d : Crew} (hd : d ∈ s.crews) (hid : d.id = c.id) (hlaunch : d.launch = c.launch) (hdepot : d.depot = false)
    (hindex : d.index = c.index) : d ∈ s.together c := by
  have hmem : d ∈ s.crews.filter (fun d => d.launch == c.launch && !d.depot) :=
    List.mem_filter.2 ⟨hd, by simp [hlaunch, hdepot]⟩
  have hown : d ∈ (s.crews.filter (fun d => d.launch == c.launch && !d.depot)).filter (fun d => d.id == c.id) :=
    List.mem_filter.2 ⟨hmem, beq_iff_eq.2 hid⟩
  unfold State.together
  split
  next l _ =>
    split_ifs
    · exact hmem
    · exact List.mem_filter.2 ⟨hmem, by simp [hindex]⟩
    · exact hown
  next => exact hown

theorem State.Has.stops_takeCrew (h : s.Has c) (hdepot : c.depot = false) : (s.takeCrew c).Stops c.id := by
  obtain ⟨d, hd, hid, hlaunch, hplace, hindex⟩ := h
  have htogether := State.mem_together hd hid hlaunch (hplace.trans hdepot) hindex
  cases hstop : d.stopping with
  | true => exact State.Stops.takeCrew ⟨d, hd, hid, hstop⟩ c
  | false =>
    refine foldl_holds_of_mem (I := fun t : State => t.Has c) (P := fun t : State => t.Stops c.id) (a := d) (fun t b ht => ?_)
      (fun t b ht => ?_) (fun t ht => ?_) htogether ⟨d, hd, hid, hlaunch, hplace, hindex⟩
    · split_ifs
      · exact ht
      · exact ht.stopCrew
    · split_ifs
      · exact ht
      · exact ht.stopCrew
    · rw [hstop, if_neg Bool.false_ne_true, hid]
      exact ht.stops_stopCrew

/-- A crew of the quad that may be taken off it stops. -/
theorem State.stops_clearOut {quad : Nat} {all : Bool} (hc : c ∈ s.crews) (hquad : c.quad = quad) (hdepot : c.depot = false)
    (hall : all = true ∨ s.preemptible c = true) : (s.clearOut quad all).Stops c.id := by
  cases hstop : c.stopping with
  | true =>
    exact List.foldlRecOn (motive := fun t : State => t.Stops c.id) _ _ ⟨c, hc, rfl, hstop⟩ fun t ht d _ => ht.takeCrew d
  | false =>
    refine foldl_holds_of_mem (I := fun t : State => t.Has c) (P := fun t : State => t.Stops c.id) (fun t b ht => ht.takeCrew b)
      (fun t b ht => ht.takeCrew b) (fun t ht => ht.stops_takeCrew hdepot) (List.mem_filter.2 ⟨hc, ?_⟩) ⟨c, hc, rfl, rfl, rfl, rfl⟩
    obtain h | h := hall
    · simp [hquad, hdepot, hstop, h]
    · simp [hquad, hdepot, hstop, h]

end

/-! ### The flag and the time limit (R479) -/

/-- A quad that has begun to age. -/
def Quad.aged (q : Quad) (now : Nat) : Quad := { q with aging := true, agedAt := now }

theorem State.depot_of_preemptible {s : State} {c : Crew} (h : s.preemptible c = true) : c.depot = false := by
  have hon : (!c.depot && !c.stopping) = true := (Bool.and_eq_true_iff.1 h).1
  simpa using (Bool.and_eq_true_iff.1 hon).1

theorem exec_quadAgingFlag_of_not {s : State} {n : Nat} (h : 144 ≤ n ∨ (s.getQuad n).aging = true) :
    exec (.quadAgingFlag n) s = .next s := by
  refine congrArg Host.Outcome.next (if_neg ?_)
  rintro ⟨hlt, hyoung⟩
  obtain hle | haging := h
  · omega
  · rw [haging] at hyoung
    exact Bool.false_ne_true hyoung

/-- The flag marks the quad, and the crews that may be pre-empted stop. -/
theorem exec_quadAgingFlag_of {s : State} {n : Nat} (hn : n < 144) (hyoung : (s.getQuad n).aging = false) :
    ∃ t, exec (.quadAgingFlag n) s = .next t ∧ t.mem = s.mem ∧ t.getQuad n = (s.getQuad n).aged s.timer ∧
      ∀ c ∈ s.crews, c.quad = n → s.preemptible c = true → t.Stops c.id := by
  have hcrews : (s.modQuad n (fun q => q.aged s.timer)).crews = s.crews := State.modQuad_keeps (fun _ _ _ => rfl) _ _ _
  refine ⟨_, congrArg Host.Outcome.next (if_pos ⟨hn, by rw [hyoung]; rfl⟩), ?_, ?_, fun c hc hquad hpre => ?_⟩
  · exact (State.clearOut_keeps (g := State.mem) (fun _ _ _ => rfl) (fun _ _ => rfl) _ _ _).trans
      (State.modQuad_keeps (fun _ _ _ => rfl) _ _ _)
  · exact (State.clearOut_keeps (g := fun t => t.getQuad n) (fun _ _ _ => rfl) (fun _ _ => rfl) _ _ _).trans
      (State.getQuad_modQuad (f := fun q => q.aged s.timer) s (s.getQuad_id n))
  · refine State.stops_clearOut (hcrews ▸ hc) hquad (State.depot_of_preemptible hpre) (.inr ?_)
    exact (State.modQuad_keeps (g := fun t => t.preemptible c) (fun _ _ _ => rfl) _ _ _).trans hpre

theorem exec_noprePreemptTimeout_of_not {s : State} {n : Nat} (h : (s.getQuad n).aging = false ∨ s.timer < (s.getQuad n).agedAt + 1000000000) :
    exec (.noprePreemptTimeout n) s = .next s := by
  refine congrArg Host.Outcome.next (if_neg ?_)
  obtain h | h := h <;> simp [h]

/-- At the time limit every crew of the quad stops. -/
theorem exec_noprePreemptTimeout_of {s : State} {n : Nat} (haging : (s.getQuad n).aging = true)
    (hold : (s.getQuad n).agedAt + 1000000000 ≤ s.timer) :
    ∃ t, exec (.noprePreemptTimeout n) s = .next t ∧ t.mem = s.mem ∧
      ∀ c ∈ s.crews, c.quad = n → c.depot = false → t.Stops c.id := by
  refine ⟨_, congrArg Host.Outcome.next (if_pos (by simp [haging, hold])), ?_, fun c hc hquad hdepot => ?_⟩
  · exact State.clearOut_keeps (g := State.mem) (fun _ _ _ => rfl) (fun _ _ => rfl) _ _ _
  · exact State.stops_clearOut hc hquad hdepot (.inl rfl)

end Sys2Proof.Machine
end

section
/-! Crews that are lost with a strike that no checkpoint answers: what their end leaves of the strands, the other crews and the
launches (R264, R408, R419). -/

namespace Sys2Proof.Machine

/-! ### Strands by name and crew, crews and launches -/

/-- Each strand's name and crew. -/
def State.roster (s : State) : List (Nat × Nat) := s.all.map (fun x => (x.uid, x.ident.crew))

/-- What the end of a crew changes of no other crew. -/
def State.rolls (s : State) : List (Nat × Nat) × List Crew × List Launch := (s.roster, s.crews, s.launches)

section

variable {f : Strand → Strand} (hu : ∀ x, (f x).uid = x.uid) (hcrew : ∀ x, (f x).ident.crew = x.ident.crew)
  (hlive : ∀ x, x.status ≠ .absent → (f x).status ≠ .absent)

include hu hcrew hlive

theorem State.roster_modStrand (s : State) (uid : Nat) : (s.modStrand uid f).roster = s.roster := by
  have hone (x : Strand) : ((f x).uid, (f x).ident.crew) = (x.uid, x.ident.crew) := by rw [hu, hcrew]
  have hlist : (s.strands.map (fun x => if x.uid = uid then f x else x)).map (fun x => (x.uid, x.ident.crew)) =
      s.strands.map (fun x => (x.uid, x.ident.crew)) := by
    rw [List.map_map]
    refine List.map_congr_left fun x _ => ?_
    rw [Function.comp_apply]
    split_ifs
    · exact hone x
    · rfl
  unfold State.modStrand State.roster State.all
  by_cases hcur : s.cur.uid = uid ∧ s.cur.status ≠ .absent
  · rw [if_pos hcur, if_neg (hlive _ hcur.2), if_neg hcur.2, List.map_cons, List.map_cons, hone]
  · rw [if_neg hcur]
    by_cases habsent : s.cur.status = .absent
    · rw [if_pos habsent, if_pos habsent, hlist]
    · rw [if_neg habsent, if_neg habsent, List.map_cons, List.map_cons, hlist]

theorem State.rolls_modStrand (s : State) (uid : Nat) : (s.modStrand uid f).rolls = s.rolls := by
  have hrest : ((s.modStrand uid f).crews, (s.modStrand uid f).launches) = (s.crews, s.launches) :=
    State.modStrand_keeps (g := fun t => (t.crews, t.launches)) (fun _ _ _ => rfl) s uid f
  unfold State.rolls
  rw [State.roster_modStrand hu hcrew hlive]
  exact congrArg (Prod.mk s.roster) hrest

end

theorem State.rolls_modQuad (s : State) (q : Nat) (f : Quad → Quad) : (s.modQuad q f).rolls = s.rolls :=
  State.modQuad_keeps (fun _ _ _ => rfl) s q f

theorem State.rolls_setBar (s : State) (x : Barrier) : (s.setBar x).rolls = s.rolls := by
  unfold State.setBar
  split_ifs
  · exact s.rolls_modQuad _ _
  · rfl

theorem State.rolls_withdraw (s : State) (x : Strand) : (s.withdraw x).rolls = s.rolls := by
  unfold State.withdraw
  refine (State.rolls_modStrand (fun _ => by rfl) (fun _ => by rfl) (fun _ h => by exact h) _ x.uid).trans ?_
  exact foldl_keeps (g := State.rolls) (fun t _ => t.rolls_setBar _) _ s

theorem State.rolls_withdrawCrew (s : State) (c : Nat) : (s.withdrawCrew c).rolls = s.rolls :=
  foldl_keeps (g := State.rolls) (fun t x => t.rolls_withdraw x) _ s

theorem State.rolls_dropCbs (s : State) (q c : Nat) : (s.dropCbs q c).rolls = s.rolls := s.rolls_modQuad q _

theorem State.rolls_memWrite (s : State) (k : Nat) (bs : List Byte) : (s.memWrite k bs).rolls = s.rolls := by
  have hjournal : (s.journal k bs.length).rolls = s.rolls := by
    unfold State.journal
    split_ifs
    · rfl
    · exact s.rolls_modQuad _ _
  exact hjournal

theorem State.rolls_interrupt (s : State) (vec : Nat) : (s.interrupt vec).rolls = s.rolls := by
  unfold State.interrupt
  split_ifs <;> rfl

theorem State.rolls_fqWrite (s : State) (pid : Nat) (bs : List Byte) : (s.fqWrite pid bs).rolls = s.rolls := by
  unfold State.fqWrite
  split
  · rfl
  next p _ =>
    split_ifs
    · rfl
    · rfl
    · obtain ⟨t, rfl, h | h⟩ := s.fqPut_eq p bs
      · rw [h]
        exact s.rolls_memWrite _ _
      · rw [h, State.rolls_interrupt]
        exact s.rolls_memWrite _ _

/-! ### A strand by its name -/

theorem State.mem_all_of_strand? {s : State} {u : Nat} {x : Strand} (h : s.strand? u = some x) : x ∈ s.all ∧ x.uid = u := by
  unfold State.strand? at h
  unfold State.all
  split_ifs at h with hcur
  · obtain rfl := Option.some.inj h
    rw [if_neg hcur.2]
    exact ⟨List.mem_cons_self, hcur.1⟩
  · have hmem := List.mem_of_find?_eq_some h
    refine ⟨?_, by simpa using List.find?_some h⟩
    split_ifs
    · exact hmem
    · exact List.mem_cons_of_mem _ hmem

/-- No two strands have one name. -/
def State.Named (s : State) : Prop := (s.roster.map Prod.fst).Nodup

theorem State.named_iff {s : State} : s.Named ↔ (s.all.map (·.uid)).Nodup := by
  unfold State.Named State.roster
  rw [List.map_map]
  rfl

/-- A name stands for one strand, and so for one crew. -/
theorem State.Named.crew_eq {s : State} (h : s.Named) {u c : Nat} (hu : (u, c) ∈ s.roster) {x : Strand} (hx : s.strand? u = some x) :
    x.ident.crew = c := by
  obtain ⟨hmem, huid⟩ := State.mem_all_of_strand? hx
  have hx' : (x.uid, x.ident.crew) ∈ s.roster := List.mem_map_of_mem (f := fun x : Strand => (x.uid, x.ident.crew)) hmem
  have heq := List.inj_on_of_nodup_map h hx' hu huid
  exact congrArg Prod.snd heq

/-! ### Launches and crews that are changed -/

theorem State.launchOf_modLaunch {f : Launch → Launch} (hf : ∀ l, (f l).handle = l.handle) (s : State) (a h : Word) :
    (s.modLaunch a f).launchOf h = (s.launchOf h).map (fun l => if l.handle = a then f l else l) := by
  unfold State.launchOf State.modLaunch
  rw [List.find?_map]
  refine congrArg (fun p => (s.launches.find? p).map _) (funext fun l => ?_)
  rw [Function.comp_apply]
  split_ifs
  · rw [hf]
  · rfl

theorem State.crewOf_modCrew {f : Crew → Crew} (hf : ∀ c, (f c).id = c.id) (s : State) (a i : Nat) :
    (s.modCrew a f).crewOf i = (s.crewOf i).map (fun c => if c.id = a then f c else c) := by
  unfold State.crewOf State.modCrew
  rw [List.find?_map]
  refine congrArg (fun p => (s.crews.find? p).map _) (funext fun l => ?_)
  rw [Function.comp_apply]
  split_ifs
  · rw [hf]
  · rfl

/-- A launch's CTXLOST, when the launch is there. -/
def State.lostOf (s : State) (h : Word) : Option Bool := (s.launchOf h).map (·.ctxlost)

/-- The launch of a crew, when the crew is there. -/
def State.launchAt (s : State) (i : Nat) : Option Word := (s.crewOf i).map (·.launch)

theorem State.lostOf_modLaunch {f : Launch → Launch} (hf : ∀ l, (f l).handle = l.handle) (hlost : ∀ l, (f l).ctxlost = l.ctxlost) (s : State)
    (a h : Word) : (s.modLaunch a f).lostOf h = s.lostOf h := by
  unfold State.lostOf
  rw [State.launchOf_modLaunch hf, Option.map_map]
  refine congrArg (fun g => (s.launchOf h).map g) (funext fun l => ?_)
  rw [Function.comp_apply]
  split_ifs
  · exact hlost l
  · rfl

theorem State.launchAt_modCrew {f : Crew → Crew} (hf : ∀ c, (f c).id = c.id) (hl : ∀ c, (f c).launch = c.launch) (s : State) (a i : Nat) :
    (s.modCrew a f).launchAt i = s.launchAt i := by
  unfold State.launchAt
  rw [State.crewOf_modCrew hf, Option.map_map]
  refine congrArg (fun g => (s.crewOf i).map g) (funext fun c => ?_)
  rw [Function.comp_apply]
  split_ifs
  · exact hl c
  · rfl

/-! ### The end of one crew -/

/-- t is s but for crew c, as far as the names of strands, the launches of crews and CTXLOST go. -/
structure State.ButCrew (c : Nat) (s t : State) : Prop where
  roster : t.roster = s.roster
  others : ∀ i, i ≠ c → t.launchAt i = s.launchAt i
  lost : ∀ h, t.lostOf h = s.lostOf h

namespace State.ButCrew

variable {c : Nat} {s t u : State}

theorem of_rolls (h : t.rolls = s.rolls) : s.ButCrew c t := by
  have hroster : t.roster = s.roster := congrArg (·.1) h
  have hcrews : t.crews = s.crews := congrArg (·.2.1) h
  have hlaunches : t.launches = s.launches := congrArg (·.2.2) h
  refine ⟨hroster, fun i _ => ?_, fun k => ?_⟩
  · unfold State.launchAt State.crewOf
    rw [hcrews]
  · unfold State.lostOf State.launchOf
    rw [hlaunches]

theorem trans (h : s.ButCrew c t) (k : t.ButCrew c u) : s.ButCrew c u :=
  ⟨k.roster.trans h.roster, fun i hi => (k.others i hi).trans (h.others i hi), fun l => (k.lost l).trans (h.lost l)⟩

end State.ButCrew

theorem State.butCrew_modLaunch {f : Launch → Launch} (hf : ∀ l, (f l).handle = l.handle) (hlost : ∀ l, (f l).ctxlost = l.ctxlost)
    (c : Nat) (s : State) (a : Word) : s.ButCrew c (s.modLaunch a f) := ⟨rfl, fun _ _ => rfl, fun h => State.lostOf_modLaunch hf hlost s a h⟩

theorem State.butCrew_modCrew {f : Crew → Crew} (hf : ∀ c, (f c).id = c.id) (hl : ∀ c, (f c).launch = c.launch) (c : Nat) (s : State) (a : Nat) :
    s.ButCrew c (s.modCrew a f) := ⟨rfl, fun i _ => State.launchAt_modCrew hf hl s a i, fun _ => rfl⟩

/-- A crew that goes leaves the others. -/
theorem State.butCrew_drop (s : State) (c : Nat) : s.ButCrew c { s with crews := s.crews.filter (fun x => x.id != c) } := by
  refine ⟨rfl, fun i hi => congrArg (Option.map _) ?_, fun _ => rfl⟩
  unfold State.crewOf
  rw [List.find?_filter]
  refine congrArg (fun p => s.crews.find? p) (funext fun x => ?_)
  by_cases hx : x.id = i
  · simp [hx, hi]
  · simp [hx]

theorem State.butCrew_retireCrew (s : State) (c : Nat) : s.ButCrew c (s.retireCrew c) := by
  unfold State.retireCrew
  split
  · exact .of_rolls rfl
  next cr _ =>
    extract_lets s1
    have h1 : s.ButCrew c s1 := .trans (.of_rolls ((State.rolls_dropCbs _ cr.quad c).trans (s.rolls_withdrawCrew c)))
      (State.butCrew_modLaunch (fun _ => by rfl) (fun _ => by rfl) c _ cr.launch)
    exact (h1.trans (s1.butCrew_drop c)).trans (.of_rolls rfl)

/-- A strand of a crew retires, and with the last one its crew. -/
theorem State.butCrew_retireStrand {s : State} (hnamed : s.Named) {u c : Nat} (hu : (u, c) ∈ s.roster) (normal : Bool) :
    s.ButCrew c (s.retireStrand u normal) := by
  unfold State.retireStrand
  split
  · exact .of_rolls rfl
  next x hx =>
    obtain rfl := hnamed.crew_eq hu hx
    extract_lets s1 s2 s3 s4
    have h2 : s.ButCrew x.ident.crew s2 := by
      refine .trans (.of_rolls (t := s1) rfl) (State.butCrew_modCrew (fun c => ?_) (fun c => ?_) _ _ _)
      · split_ifs <;> rfl
      · split_ifs <;> rfl
    have h4 : s.ButCrew x.ident.crew s4 := by
      have h3 : s3.rolls = s2.rolls := State.rolls_modStrand (fun _ => by rfl) (fun _ => by rfl) (fun _ _ => by exact Status.noConfusion) s2 u
      exact h2.trans (.of_rolls h3)
    split_ifs
    · exact h4.trans (s4.butCrew_retireCrew _)
    · exact h4

/-- Strands of one crew retire one after another. -/
theorem State.butCrew_retireStrands {c : Nat} (normal : Bool) : ∀ (us : List Nat) {s : State}, s.Named → (∀ u ∈ us, (u, c) ∈ s.roster) →
    s.ButCrew c (us.foldl (fun (s : State) u => s.retireStrand u normal) s)
  | [], _, _, _ => .of_rolls rfl
  | u :: us, s, hnamed, hus => by
    have h1 := State.butCrew_retireStrand hnamed (hus u List.mem_cons_self) normal
    have hnamed1 : (s.retireStrand u normal).Named := by rwa [State.Named, h1.roster]
    exact h1.trans (State.butCrew_retireStrands normal us hnamed1 fun v hv => h1.roster ▸ hus v (List.mem_cons_of_mem _ hv))

/-! ### A crew that is lost (R408) -/

/-- The state when a crew's launch has been marked CTXLOST. -/
def State.marked (s : State) (h : Word) : State := s.modLaunch h (fun l => { l with ctxlost := true })

theorem State.lostOf_marked (s : State) (a h : Word) : (s.marked a).lostOf h = (s.lostOf h).map (fun b => b || h == a) := by
  unfold State.lostOf State.marked
  rw [State.launchOf_modLaunch (fun _ => by rfl), Option.map_map, Option.map_map]
  cases hl : s.launchOf h with
  | none => rfl
  | some l =>
    have hhandle : l.handle = h := by simpa using List.find?_some hl
    by_cases ha : h = a
    · simp [hhandle, ha]
    · simp [hhandle, ha]

/-- The loss of a crew marks its launch, and ends that crew alone. -/
theorem State.butCrew_loseCrew {s : State} (hnamed : s.Named) {c : Nat} {cr : Crew} (hc : s.crewOf c = some cr) :
    (s.marked cr.launch).ButCrew c (s.loseCrew c) := by
  unfold State.loseCrew
  rw [hc]
  dsimp -zeta only
  extract_lets live s1 s2 s3 wasFaulted ended s4
  have h2 : (s.marked cr.launch).ButCrew c s2 := .of_rolls (s1.rolls_fqWrite _ _)
  have h3 : (s.marked cr.launch).ButCrew c s3 := h2.trans (State.butCrew_modCrew (fun _ => by rfl) (fun _ => by rfl) c s2 c)
  have hroster : s3.roster = s.roster := h3.roster
  have hlive : ∀ u ∈ live, (u, c) ∈ s3.roster := by
    intro u hu
    obtain ⟨x, hx, rfl⟩ := List.mem_map.1 hu
    obtain ⟨hall, hcrew⟩ := List.mem_filter.1 hx
    have hx : x.ident.crew = c := by simpa using (Bool.and_eq_true_iff.1 hcrew).1
    rw [hroster, ← hx]
    exact List.mem_map_of_mem (f := fun x : Strand => (x.uid, x.ident.crew)) hall
  have hnamed3 : s3.Named := by rwa [State.Named, hroster]
  have h4 : (s.marked cr.launch).ButCrew c s4 := h3.trans (State.butCrew_retireStrands false live hnamed3 hlive)
  exact h4.trans (State.butCrew_modLaunch (fun _ => by rfl) (fun _ => by rfl) c s4 cr.launch)

/-- Crews are being lost: a launch is marked already, or stands and its crew is there to be lost. -/
def State.Losing (s : State) (i : Nat) (h : Word) : Prop :=
  s.Named ∧ (s.lostOf h = some true ∨ (s.lostOf h).isSome ∧ s.launchAt i = some h)

theorem State.named_loseCrew {s : State} (hnamed : s.Named) (c : Nat) : (s.loseCrew c).Named := by
  cases hc : s.crewOf c with
  | none =>
    unfold State.loseCrew
    rwa [hc]
  | some cr =>
    have hroster : (s.loseCrew c).roster = s.roster := (State.butCrew_loseCrew hnamed hc).roster
    rwa [State.Named, hroster]

/-- A launch's CTXLOST after the loss of a crew: set for the crew's launch, and kept. -/
theorem State.lostOf_loseCrew {s : State} (hnamed : s.Named) (c : Nat) (h : Word) :
    (s.loseCrew c).lostOf h = (s.lostOf h).map (fun b => b || s.launchAt c == some h) := by
  unfold State.launchAt
  cases hc : s.crewOf c with
  | none =>
    unfold State.loseCrew
    rw [hc]
    simp
  | some cr =>
    rw [(State.butCrew_loseCrew hnamed hc).lost, State.lostOf_marked]
    refine congrArg (fun g => (s.lostOf h).map g) (funext fun b => ?_)
    by_cases hh : h = cr.launch
    · simp [hh]
    · simp [hh, beq_eq_false_iff_ne.2 (Ne.symm hh)]

theorem State.launchAt_loseCrew {s : State} (hnamed : s.Named) {c i : Nat} (hi : i ≠ c) : (s.loseCrew c).launchAt i = s.launchAt i := by
  cases hc : s.crewOf c with
  | none =>
    unfold State.loseCrew
    rw [hc]
  | some cr => exact (State.butCrew_loseCrew hnamed hc).others i hi

theorem State.lostOf_loseCrew_of_lost {s : State} (hnamed : s.Named) (c : Nat) {h : Word} (hlost : s.lostOf h = some true) :
    (s.loseCrew c).lostOf h = some true := by
  rw [State.lostOf_loseCrew hnamed, hlost]
  rfl

theorem State.Losing.lost {s : State} {i : Nat} {h : Word} (hs : s.Losing i h) : (s.loseCrew i).lostOf h = some true := by
  obtain ⟨hnamed, hlost | ⟨hthere, hcrew⟩⟩ := hs
  · exact State.lostOf_loseCrew_of_lost hnamed i hlost
  · obtain ⟨b, hb⟩ := Option.isSome_iff_exists.1 hthere
    rw [State.lostOf_loseCrew hnamed, hb, hcrew]
    simp

theorem State.Losing.loseCrew {s : State} {i : Nat} {h : Word} (hs : s.Losing i h) (c : Nat) : (s.loseCrew c).Losing i h := by
  have hown := hs.lost
  obtain ⟨hnamed, hrest⟩ := hs
  refine ⟨State.named_loseCrew hnamed c, ?_⟩
  by_cases hic : i = c
  · exact .inl (hic ▸ hown)
  · obtain hlost | ⟨hthere, hcrew⟩ := hrest
    · exact .inl (State.lostOf_loseCrew_of_lost hnamed c hlost)
    · exact .inr ⟨by rw [State.lostOf_loseCrew hnamed, Option.isSome_map]; exact hthere, (State.launchAt_loseCrew hnamed hic).trans hcrew⟩

/-- Each of the crews that are lost marks its launch. -/
theorem State.lostOf_loseCrews {s : State} {i : Nat} {h : Word} (hs : s.Losing i h) {cs : List Nat} (hi : i ∈ cs) :
    (cs.foldl (fun (s : State) c => s.loseCrew c) s).lostOf h = some true := by
  have hend := foldl_holds_of_mem (step := State.loseCrew) (I := fun t => t.Losing i h) (P := fun t => t.Named ∧ t.lostOf h = some true)
    (a := i) (fun t c ht => ht.loseCrew c) (fun t c ht => ⟨State.named_loseCrew ht.1 c, State.lostOf_loseCrew_of_lost ht.1 c ht.2⟩)
    (fun t ht => ⟨State.named_loseCrew ht.1 i, ht.lost⟩) hi hs
  exact hend.2

/-! ### A strike that no checkpoint answers (R419) -/

/-- The state in which a quad without a usable checkpoint begins to lose its crews. -/
def State.struck (s : State) (quad : Nat) : State :=
  let mine (u : Nat) := (s.residents quad).any (fun x => x.uid == u)
  ({ s with ahead := s.ahead.filter (fun a => !mine a.strand.uid) } : State).modQuad quad (fun q =>
    { q with plat := [], ckpts := [], d := { q.d with copies := [] } })

theorem exec_strikeReport_of_none {s : State} (hnone : s.usable s.quad = none) (hplat : ∀ e ∈ s.quad.plat, s.timer < e.tick) :
    exec (.strikeReport s.quad.id) s = .next (((s.crews.filter (fun c => c.quad == s.quad.id && !c.depot)).map (·.id)).foldl
      (fun (s : State) c => s.loseCrew c) (s.struck s.quad.id)) := by
  refine congrArg Host.Outcome.next ?_
  show s.strike s.quad.id = _
  unfold State.strike
  rw [State.releaseDue_of_none hplat]
  dsimp only
  rw [show s.getQuad s.quad.id = s.quad from if_pos rfl, hnone]
  rfl

/-- Every crew of the struck quad finds its launch marked. -/
theorem State.losing_struck {s : State} (hids : (s.crews.map (·.id)).Nodup) (huids : (s.all.map (·.uid)).Nodup) (quad : Nat) {c : Crew}
    (hc : c ∈ s.crews) {l : Launch} (hl : s.launchOf c.launch = some l) : (s.struck quad).Losing c.id c.launch := by
  have hrolls : (s.struck quad).rolls = s.rolls := State.rolls_modQuad _ _ _
  have hsame : s.ButCrew (c.id + 1) (s.struck quad) := .of_rolls hrolls
  have hcrew : s.crewOf c.id = some c := by
    obtain ⟨d, hd⟩ := Option.isSome_iff_exists.1 (List.find?_isSome (p := fun x : Crew => x.id == c.id).2 ⟨c, hc, beq_self_eq_true c.id⟩)
    have hid : d.id = c.id := by simpa using List.find?_some hd
    obtain rfl := List.inj_on_of_nodup_map hids (List.mem_of_find?_eq_some hd) hc hid
    exact hd
  refine ⟨?_, .inr ⟨?_, ?_⟩⟩
  · rw [State.Named, hsame.roster]
    exact State.named_iff.2 huids
  · rw [hsame.lost, State.lostOf, hl]
    rfl
  · rw [hsame.others c.id (by omega), State.launchAt, hcrew]
    rfl

end Sys2Proof.Machine
end

section
/-! A rollback (R412, R416): the bytes that its journals give back, the quad that its checkpoint gives back, and the strand that
issues. -/

namespace Sys2Proof.Machine

/-! ### Journals (R412) -/

/-- The bytes of a sector that its journal gives back. -/
def Ckpt.undoes (c : Ckpt) (i : Nat) : List Nat := ((List.range 32).map (fun j => 32 * i + j)).filter (fun k => !c.cleared.contains k)

theorem Ckpt.mem_undoes {c : Ckpt} {i k : Nat} : k ∈ c.undoes i ↔ k / 32 = i ∧ k ∉ c.cleared := by
  simp only [Ckpt.undoes, List.mem_filter, List.mem_map, List.mem_range, Bool.not_eq_true', List.contains_eq_mem, decide_eq_false_iff_not]
  refine and_congr_left fun _ => ⟨?_, fun h => ⟨k % 32, by omega, by omega⟩⟩
  rintro ⟨j, hj, rfl⟩
  omega

/-- Bytes that get their old values back. -/
def restoreBytes (old : Memory) (m : Memory) (ks : List Nat) : Memory := ks.foldl (fun m k => memSet m k (memGet old k)) m

theorem wf_restoreBytes {old : Memory} (ks : List Nat) {m : Memory} (h : m.wf = true) : (restoreBytes old m ks).wf = true :=
  List.foldlRecOn (motive := fun m : Memory => m.wf = true) ks _ h fun _ hm k _ => wf_memSet k _ hm

theorem memGet_restoreBytes {old : Memory} {k : Nat} : ∀ (ks : List Nat) {m : Memory}, m.wf = true →
    memGet (restoreBytes old m ks) k = if k ∈ ks then memGet old k else memGet m k
  | [], _, _ => rfl
  | j :: ks, m, h => by
    refine (memGet_restoreBytes ks (wf_memSet j (memGet old j) h)).trans ?_
    rw [memGet_memSet j k _ h]
    by_cases hj : k = j
    · simp [hj]
    · simp [hj]

theorem Ckpt.undo_mem (c : Ckpt) (s : State) : (c.undo s).mem = c.touched.foldl (fun m i => restoreBytes c.scratch m (c.undoes i)) s.mem := by
  unfold Ckpt.undo
  refine (List.foldl_hom State.mem fun t i => ?_).symm
  rfl

theorem restoreSectors_spec {c : Ckpt} {k : Nat} : ∀ (is : List Nat) {m : Memory}, m.wf = true →
    (is.foldl (fun m i => restoreBytes c.scratch m (c.undoes i)) m).wf = true ∧
    memGet (is.foldl (fun m i => restoreBytes c.scratch m (c.undoes i)) m) k =
      if k / 32 ∈ is ∧ k ∉ c.cleared then memGet c.scratch k else memGet m k
  | [], _, h => ⟨h, by simp⟩
  | i :: is, m, h => by
    have hwf := wf_restoreBytes (old := c.scratch) (c.undoes i) h
    obtain ⟨hend, hget⟩ := restoreSectors_spec (c := c) (k := k) is hwf
    refine ⟨hend, hget.trans ?_⟩
    rw [memGet_restoreBytes _ h]
    simp only [Ckpt.mem_undoes]
    by_cases hi : k / 32 = i
    · by_cases hk : k ∈ c.cleared <;> simp [hi, hk]
    · simp [hi]

/-- A journal that is undone gives back the bytes of its sectors whose mask bit stands, and no others. -/
theorem Ckpt.memGet_undo {s : State} (h : Memory.wf s.mem = true) (c : Ckpt) (k : Nat) : Memory.wf (c.undo s).mem = true ∧
    memGet (c.undo s).mem k = if k / 32 ∈ c.touched ∧ k ∉ c.cleared then memGet c.scratch k else memGet s.mem k := by
  rw [Ckpt.undo_mem]
  exact restoreSectors_spec c.touched h

/-- What reads neither memory nor poison is the same after a journal has been undone. -/
theorem Ckpt.undo_keeps {α : Type} {g : State → α} (hg : ∀ (s : State) a b, g { s with mem := a, memPoison := b } = g s) (c : Ckpt)
    (s : State) : g (c.undo s) = g s :=
  foldl_keeps (g := g) (fun t _ => hg t _ _) c.touched s

/-! ### What a rollback gives back of its quad -/

/-- A quad but for its barriers, and for the strands in its checkpoints. -/
def Quad.frame (q : Quad) : Quad := { q with d := { q.d with bars := [] }, ckpts := q.ckpts.map (fun c => { c with strands := [] }) }

/-- A strand but for its arrivals and its records of barriers. -/
def Strand.frame (x : Strand) : Strand := { x with arrs := [], barRecs := [] }

/-- What the barriers of a rollback's strands leave: the quad's frame, memory, and the frame of the strand that issues. -/
def State.frames (s : State) : Quad × Memory × Strand := (s.quad.frame, s.mem, s.cur.frame)

theorem State.frame_modQuad {f : Quad → Quad} (hid : ∀ x, (f x).id = x.id) (hf : ∀ x, (f x).frame = x.frame) (s : State) (q : Nat) :
    (s.modQuad q f).quad.frame = s.quad.frame := by
  by_cases h : s.quad.id = q
  · subst h
    rw [State.modQuad_current (hid _)]
    exact hf _
  · have hother : (f (s.getQuad q)).id = q := (hid _).trans (s.getQuad_id q)
    unfold State.modQuad State.setQuad
    rw [hother, if_neg h]
    split_ifs <;> rfl

theorem State.frames_setBar (s : State) (x : Barrier) : (s.setBar x).frames = s.frames := by
  unfold State.setBar
  split_ifs
  · have hquad : (s.modQuad (barQuad x.id) fun q => { q with d := { q.d with bars := putBar q.d.bars x } }).quad.frame = s.quad.frame :=
      State.frame_modQuad (fun _ => by rfl) (fun _ => by rfl) s _
    have hrest : _ = (s.mem, s.cur.frame) :=
      State.modQuad_keeps (g := fun t : State => (t.mem, t.cur.frame)) (fun _ _ _ => rfl) s (barQuad x.id)
        (fun q => { q with d := { q.d with bars := putBar q.d.bars x } })
    exact Prod.ext hquad hrest
  · rfl

theorem Strand.frame_see (now : Nat) (b : Barrier) (x : Strand) : (if x.status = .depot then x else x.see now b).frame = x.frame := by
  split_ifs <;> rfl

theorem Quad.frame_see (q : Quad) (f : Strand → Strand) :
    ({ q with ckpts := q.ckpts.map (fun c => { c with strands := c.strands.map f }) } : Quad).frame = q.frame := by
  simp [Quad.frame]

theorem State.frames_deliverPhases (s : State) (x : Barrier) : (s.deliverPhases x).frames = s.frames := by
  have hcur := s.cur.frame_see s.timer x
  unfold State.deliverPhases
  extract_lets s1 f
  split_ifs
  · exact congrArg (fun y => (s.quad.frame, s.mem, y)) hcur
  · exact Prod.ext (s.quad.frame_see (Strand.see s.timer x)) (congrArg (Prod.mk s.mem) hcur)

theorem State.frames_settleBar (s : State) (x : Barrier) : (s.settleBar x).frames = s.frames := by
  unfold State.settleBar
  extract_lets y s1
  have hs1 : s1.frames = s.frames := s.frames_setBar y
  split_ifs
  · exact (s1.frames_deliverPhases y).trans hs1
  · exact hs1

theorem State.frames_modStrand {f : Strand → Strand} (hf : ∀ x, (f x).frame = x.frame) (s : State) (uid : Nat) :
    (s.modStrand uid f).frames = s.frames := by
  unfold State.modStrand
  split_ifs
  · exact congrArg (fun y => (s.quad.frame, s.mem, y)) (hf s.cur)
  · rfl

theorem State.frames_rejoin (s : State) (uid : Nat) (p : Nat → Bool) : (s.rejoin uid p).frames = s.frames := by
  unfold State.rejoin
  split
  · rfl
  · extract_lets back s1
    have hs1 : s1.frames = s.frames := State.frames_modStrand (fun _ => by rfl) s uid
    exact (foldl_keeps (g := State.frames) (fun t m => t.frames_settleBar _) back s1).trans hs1

/-! ### The strands that come back -/

/-- A strand takes the place of the one of its name, with its place in the park table and its joins. -/
def State.bringBack (tick : Nat) (s : State) (y : Strand) : State :=
  ((s.modStrand y.uid (fun _ => y)).reparkStrand y).reviveJoins tick y.uid

theorem State.bringBack_keeps {α : Type} {g : State → α} (hs : ∀ (s : State) a b, g { s with cur := a, strands := b } = g s)
    (hp : ∀ (s : State) a, g { s with parts := a } = g s) (hv : ∀ (s : State) a b, g { s with colls := a, voided := b } = g s) (tick : Nat)
    (s : State) (y : Strand) : g (s.bringBack tick y) = g s := by
  have hrepark (t : State) : g (t.reparkStrand y) = g t := by
    unfold State.reparkStrand
    split_ifs <;> exact hp t _
  exact (hv _ _ _).trans ((hrepark _).trans (State.modStrand_keeps hs s y.uid _))

theorem State.bringBack_cur (tick : Nat) (s : State) (y : Strand) : (s.bringBack tick y).cur = (s.modStrand y.uid (fun _ => y)).cur := by
  have hrepark (t : State) : (t.reparkStrand y).cur = t.cur := by
    unfold State.reparkStrand
    split_ifs <;> rfl
  exact hrepark _

section

variable {tick u : Nat} {y : Strand}

/-- The strand that issues, once it has come back, stays. -/
theorem State.cur_bringBack_stays {back : List Strand} (hone : ∀ z ∈ back, z.uid = u → z = y) {t : State} (hcur : t.cur = y)
    (hu : y.uid = u) : (back.foldl (State.bringBack tick) t).cur = y := by
  refine List.foldlRecOn (motive := fun t : State => t.cur = y) back _ hcur fun t ht z hz => ?_
  rw [State.bringBack_cur]
  unfold State.modStrand
  split_ifs with h
  · exact hone z hz (h.1.symm.trans (ht ▸ hu))
  · exact ht

/-- The strand that issues comes back when its copy is among those that do. -/
theorem State.cur_bringBack : ∀ {back : List Strand}, (∀ z ∈ back, z.uid = u → z = y) → y ∈ back → y.uid = u → ∀ {t : State},
    t.cur.uid = u → t.cur.status ≠ .absent → (back.foldl (State.bringBack tick) t).cur = y
  | [], _, hmem, _, _, _, _ => absurd hmem List.not_mem_nil
  | z :: back, hone, hmem, hu, t, hcur, hlive => by
    have hstep : (t.bringBack tick z).cur = if z.uid = u then z else t.cur := by
      rw [State.bringBack_cur]
      unfold State.modStrand
      by_cases h : z.uid = u
      · rw [if_pos ⟨hcur.trans h.symm, hlive⟩, if_pos h]
      · rw [if_neg (fun k => h (k.1.symm.trans hcur)), if_neg h]
    have hrest : ∀ w ∈ back, w.uid = u → w = y := fun w hw => hone w (List.mem_cons_of_mem _ hw)
    rw [List.foldl_cons]
    by_cases h : z.uid = u
    · refine State.cur_bringBack_stays hrest ?_ hu
      rw [hstep, if_pos h]
      exact hone z List.mem_cons_self h
    · have hback : y ∈ back := (List.mem_cons.1 hmem).resolve_left (fun e => h (e ▸ hu))
      rw [if_neg h] at hstep
      exact State.cur_bringBack hrest hback hu (hstep.symm ▸ hcur) (hstep.symm ▸ hlive)

end

/-- What a strand that comes back waits for: a request for a token that has not been granted is made again. -/
def State.rolledHanded (s : State) (now kept : Strand) : Option Handed :=
  let asks := match kept.handed with
    | some h => s.tokReqs.any (fun r => r.uid == now.uid && r.eff == h.id)
    | none => false
  if asks then none else kept.handed

/-- The copy of a strand with ROLLED, at the strand's placement. -/
def Strand.rolledAt (now kept : Strand) (h : Option Handed) : Strand :=
  { kept with handed := h, sc := { kept.sc with rolled := true }, ident := now.ident, waiting := false, tried := false }

/-- A strand of a crew and a partition that do not stop comes back as its copy, and runs when it was halted. -/
theorem State.rolledStrand_of_running {s : State} {now kept : Strand} (hpart : ∀ p, s.part? now.ident.part = some p → p.halted = false)
    (hcrew : ∀ k, s.crewOf now.ident.crew = some k → k.stopping = false) : s.rolledStrand now kept =
      if kept.status = .halted then { now.rolledAt kept (s.rolledHanded now kept) with status := .running }
      else now.rolledAt kept (s.rolledHanded now kept) := by
  have hp : (match s.part? now.ident.part with | some p => p.halted | none => false) = false := by
    split
    · exact hpart _ ‹_›
    · rfl
  have hk : (s.crewOf now.ident.crew).elim false (·.stopping) = false := by
    cases h : s.crewOf now.ident.crew with
    | none => rfl
    | some k => exact hcrew k h
  unfold State.rolledStrand
  extract_lets asks sc y stop
  have hstop : stop = false := Bool.or_eq_false_iff.2 ⟨hp, hk⟩
  have hgo : ¬ (stop = true ∧ y.status = .running) := fun h => Bool.false_ne_true (hstop.symm.trans h.1)
  rw [if_neg hgo]
  by_cases hhalted : kept.status = .halted
  · rw [if_pos ⟨by rw [hstop]; rfl, hhalted⟩, if_pos hhalted]
    rfl
  · rw [if_neg (fun h => hhalted h.2), if_neg hhalted]
    rfl

/-! ### A strand that stops keeps its name -/

theorem Strand.setVreg_uid (x : Strand) (n : Nat) (b : BitVec 16384) : (x.setVreg n b).uid = x.uid := by
  rw [Strand.setVreg_eq]

theorem Strand.covered_uid (x : Strand) (kind reg lo hi : Nat) : (x.covered kind reg lo hi).uid = x.uid := by
  unfold Strand.covered
  refine foldl_keeps (g := Strand.uid) (fun y m => ?_) _ x
  extract_lets
  split_ifs <;> rfl

theorem Strand.setSlot_uid (x : Strand) (k e : Nat) (v : Word) : (x.setSlot k e v).uid = x.uid :=
  (Strand.covered_uid _ 1 _ _ _).trans (x.setVreg_uid _ _)

theorem Strand.uid_setSlots (e : Nat) (ps : List (Nat × Word)) (x : Strand) :
    (ps.foldl (fun (y : Strand) p => y.setSlot p.1 e p.2) x).uid = x.uid := by
  refine foldl_keeps (g := Strand.uid) (fun y p => ?_) ps x
  exact y.setSlot_uid p.1 e p.2

theorem Strand.undoElement_uid (x : Strand) : x.undoElement.uid = x.uid := by
  unfold Strand.undoElement
  split
  · rfl
  next r _ =>
    extract_lets y
    have hy : y.uid = x.uid := Strand.uid_setSlots r.e _ x
    exact hy

theorem undoQueues_uid (x : Strand) (seq : Nat) : (undoQueues x seq).uid = x.uid := by
  unfold undoQueues
  refine (foldl_keeps (g := Strand.uid) (fun y l => ?_) _ _).trans rfl
  split <;> rfl

theorem undoTiles_uid (x : Strand) (seq : Nat) : (undoTiles x seq).uid = x.uid := by
  unfold undoTiles
  split <;> rfl

theorem Strand.unwind_uid (x : Strand) (e : Entry) : (x.unwind e).uid = x.uid :=
  (undoTiles_uid _ _).trans (undoQueues_uid x e.seq)

theorem Strand.atStop_uid (x : Strand) : x.atStop.uid = x.uid := by
  unfold Strand.atStop
  extract_lets rst y z
  have hz : z.uid = y.uid := by
    unfold z
    split
    · exact y.unwind_uid _
    · rfl
  exact hz.trans x.undoElement_uid

theorem State.rolledStrand_uid (s : State) (now kept : Strand) : (s.rolledStrand now kept).uid = kept.uid := by
  unfold State.rolledStrand
  extract_lets asks sc y stop
  split_ifs
  · exact y.atStop_uid
  · rfl
  · rfl

end Sys2Proof.Machine
end

section
/-! A strike that a checkpoint answers (R416, R419), and the quads' events. -/

namespace Sys2Proof.Machine

/-! ### The state between a rollback's journals and its strands -/

/-- A quad that has gone back to a checkpoint, with barriers as given. -/
def Quad.rolledTo (q : Quad) (c : Ckpt) (bars : List Barrier) : Quad :=
  { q with d := { c.data with copies := [], tlb := q.d.tlb, bars := bars }, plat := [],
           ckpts := q.ckpts.filter (fun k => decide (k.tick ≤ c.tick)), rolling := true }

/-- The strands that a rollback of the current quad brings back. -/
def State.rolledBack (s : State) (c : Ckpt) : List Strand :=
  (s.residents s.quad.id).filterMap (fun x => (c.strands.find? (fun y => y.uid == x.uid)).map (fun y => s.rolledStrand x y))

/-- The checkpoints whose spans a rollback takes back. -/
def State.spansSince (s : State) (c : Ckpt) : List Ckpt := s.quad.ckpts.filter (fun k => decide (c.tick ≤ k.tick))

/-- A rollback undoes its journals, brings back its strands, and settles their barriers, which touch no frame. -/
theorem State.rollTo_frames (s : State) (c : Ckpt) : ∃ (s1 s2 : State) (bars : List Barrier),
    s1.mem = s.mem ∧ s2.mem = ((s.spansSince c).foldl (fun (s : State) k => k.undo s) s1).mem ∧
    s2.quad = s.quad.rolledTo c bars ∧ s2.cur = s.cur ∧
    (s.rollTo s.quad.id c).frames = ((s.rolledBack c).foldl (State.bringBack c.tick) s2).frames := by
  have hcurrent : s.getQuad s.quad.id = s.quad := if_pos rfl
  unfold State.rollTo
  rw [hcurrent]
  extract_lets now back gone mine since heldBy src data a b w r s2 s3 ended s4
  have ha : a = { s.ageMirRecs with quad := s.quad.rolledTo c data.bars } := State.modQuad_current (s := s.ageMirRecs) rfl
  have hb : (b.quad, b.cur) = (a.quad, a.cur) :=
    foldl_keeps (g := fun t : State => (t.quad, t.cur)) (fun t k => k.undo_keeps (g := fun t : State => (t.quad, t.cur)) (fun _ _ _ => rfl) t)
      since a
  have hw : (w.quad, w.cur, w.mem) = (b.quad, b.cur, b.mem) :=
    foldl_keeps (g := fun t : State => (t.quad, t.cur, t.mem)) (fun _ _ => by rfl) c.windows b
  have hr : (r.quad, r.cur, r.mem) = (w.quad, w.cur, w.mem) :=
    foldl_keeps (g := fun t : State => (t.quad, t.cur, t.mem)) (fun _ _ => by rfl) _ w
  simp only [Prod.mk.injEq] at hb hw hr
  obtain ⟨hbquad, hbcur⟩ := hb
  obtain ⟨hwquad, hwcur, hwmem⟩ := hw
  obtain ⟨hrquad, hrcur, hrmem⟩ := hr
  refine ⟨a, s2, data.bars, ?_, hrmem.trans hwmem, ?_, ?_, ?_⟩
  · rw [ha]
    rfl
  · refine (hrquad.trans hwquad).trans (hbquad.trans ?_)
    rw [ha]
  · refine (hrcur.trans hwcur).trans (hbcur.trans ?_)
    rw [ha]
    rfl
  · have hrejoin := foldl_keeps (g := State.frames) (step := fun (t : State) (y : Strand) => t.rejoin y.uid (fun b => !wideBar b))
      (fun t y => t.frames_rejoin y.uid _) (back ++ ended) s4
    have hended : s4.frames = s3.frames :=
      foldl_keeps (g := State.frames) (fun t y => State.frames_modStrand (fun _ => by rfl) t y.uid) ended s3
    exact hrejoin.trans hended

/-! ### What a rollback gives back -/

/-- The checkpoint that a report uses is old enough, nothing later has left, and it is the newest such one (R416, R419). -/
theorem State.usable_spec {s : State} {q : Quad} {c : Ckpt} (h : s.usable q = some c) :
    c.tick + 96 ≤ s.timer ∧ q.lastRel < c.tick + 224 ∧ (q.ckpts.Pairwise (fun a b => b.tick < a.tick) →
      ∀ k ∈ q.ckpts, k.tick + 96 ≤ s.timer → q.lastRel < k.tick + 224 → k.tick ≤ c.tick) := by
  obtain ⟨hc, before, after, hlist, hnone⟩ := List.find?_eq_some_iff_append.1 h
  simp only [Bool.and_eq_true, decide_eq_true_eq] at hc
  refine ⟨hc.1, hc.2, fun hsorted k hk hold hrel => ?_⟩
  rw [hlist] at hsorted hk
  obtain hk | hk := List.mem_append.1 hk
  · have hnot := hnone k hk
    simp [hold, hrel] at hnot
  · obtain rfl | hk := List.mem_cons.1 hk
    · exact le_rfl
    · exact Nat.le_of_lt ((List.pairwise_cons.1 (List.pairwise_append.1 hsorted).2.1).1 k hk)

theorem exec_strikeReport_of_some {s : State} {c : Ckpt} (hc : s.usable s.quad = some c) (hplat : ∀ e ∈ s.quad.plat, s.timer < e.tick) :
    exec (.strikeReport s.quad.id) s = .next (s.rollTo s.quad.id c) := by
  refine congrArg Host.Outcome.next ?_
  show s.strike s.quad.id = _
  unfold State.strike
  rw [State.releaseDue_of_none hplat]
  dsimp only
  rw [show s.getQuad s.quad.id = s.quad from if_pos rfl, hc]

/-- The quad after a rollback, but for barriers and for the strands in its checkpoints. -/
theorem State.rollTo_quad (s : State) (c : Ckpt) : ∃ bars, (s.rollTo s.quad.id c).quad.frame = (s.quad.rolledTo c bars).frame := by
  obtain ⟨s1, s2, bars, -, -, hquad, -, hframes⟩ := s.rollTo_frames c
  have hback := foldl_keeps (g := State.quad) (step := State.bringBack c.tick)
    (State.bringBack_keeps (fun _ _ _ => rfl) (fun _ _ => rfl) (fun _ _ _ => rfl) c.tick) (s.rolledBack c) s2
  refine ⟨bars, (congrArg Prod.fst hframes).trans ?_⟩
  exact congrArg Quad.frame (hback.trans hquad)

/-- The checkpoints of a quad with another's frame are its ones, but for their strands. -/
theorem Quad.mem_ckpts_of_frame_eq {p q : Quad} (h : p.frame = q.frame) {k : Ckpt} (hk : k ∈ p.ckpts) : ∃ j ∈ q.ckpts, j.tick = k.tick := by
  have hticks : p.frame.ckpts.map Ckpt.tick = q.frame.ckpts.map Ckpt.tick := by rw [h]
  have hmap (q : Quad) : q.frame.ckpts.map Ckpt.tick = q.ckpts.map Ckpt.tick := by simp [Quad.frame]
  rw [hmap, hmap] at hticks
  exact List.mem_map.1 (hticks ▸ List.mem_map_of_mem (f := Ckpt.tick) hk)

theorem Strand.of_frame_eq {x y : Strand} (h : x.frame = y.frame) : x.sc = y.sc ∧ x.v = y.v ∧ x.masks = y.masks ∧ x.tiles = y.tiles ∧
    x.q0 = y.q0 ∧ x.q1 = y.q1 ∧ x.status = y.status ∧ x.ident = y.ident :=
  ⟨(congrArg Strand.sc h :), (congrArg Strand.v h :), (congrArg Strand.masks h :), (congrArg Strand.tiles h :), (congrArg Strand.q0 h :),
    (congrArg Strand.q1 h :), (congrArg Strand.status h :), (congrArg Strand.ident h :)⟩

/-- Memory after a rollback is memory after its journals. -/
theorem State.rollTo_mem (s : State) (c : Ckpt) : ∃ s1 : State, s1.mem = s.mem ∧
    (s.rollTo s.quad.id c).mem = ((s.spansSince c).foldl (fun (s : State) k => k.undo s) s1).mem := by
  obtain ⟨s1, s2, bars, hmem1, hmem2, -, -, hframes⟩ := s.rollTo_frames c
  have hback := foldl_keeps (g := State.mem) (step := State.bringBack c.tick)
    (State.bringBack_keeps (fun _ _ _ => rfl) (fun _ _ => rfl) (fun _ _ _ => rfl) c.tick) (s.rolledBack c) s2
  have hmem : (s.rollTo s.quad.id c).mem = _ := congrArg (fun p => p.2.1) hframes
  exact ⟨s1, hmem1, hmem.trans (hback.trans hmem2)⟩

theorem State.memGet_rollTo_outside {s : State} (h : Memory.wf s.mem = true) (c : Ckpt) {k : Nat}
    (hk : ∀ j ∈ s.spansSince c, k / 32 ∉ j.touched ∨ k ∈ j.cleared) : memGet (s.rollTo s.quad.id c).mem k = memGet s.mem k := by
  obtain ⟨s1, hmem1, hmem⟩ := s.rollTo_mem c
  have hend := List.foldlRecOn (motive := fun t : State => Memory.wf t.mem = true ∧ memGet t.mem k = memGet s.mem k) (s.spansSince c)
    (fun (s : State) k => k.undo s) (b := s1) ⟨hmem1 ▸ h, by rw [hmem1]⟩ (fun t ht j hj => by
      obtain ⟨hwf, hget⟩ := Ckpt.memGet_undo ht.1 j k
      have hnot : ¬ (k / 32 ∈ j.touched ∧ k ∉ j.cleared) := fun hboth => (hk j hj).elim (· hboth.1) hboth.2
      exact ⟨hwf, hget.trans ((if_neg hnot).trans ht.2)⟩)
  rw [hmem]
  exact hend.2

theorem State.memGet_rollTo_inside {s : State} (h : Memory.wf s.mem = true) {c : Ckpt} {k : Nat} (hone : s.spansSince c = [c])
    (htouched : k / 32 ∈ c.touched) (hmask : k ∉ c.cleared) : memGet (s.rollTo s.quad.id c).mem k = memGet c.scratch k := by
  obtain ⟨s1, hmem1, hmem⟩ := s.rollTo_mem c
  rw [hmem, hone]
  exact (Ckpt.memGet_undo (hmem1 ▸ h) c k).2.trans (if_pos ⟨htouched, hmask⟩)

/-- The strand that issues comes back as its copy in the checkpoint. -/
theorem State.rollTo_cur {s : State} {c : Ckpt} {y : Strand} (hon : s.cur.onQuad s.quad.id = true)
    (hy : c.strands.find? (fun y => y.uid == s.cur.uid) = some y) (huids : (s.all.map (·.uid)).Nodup) :
    (s.rollTo s.quad.id c).cur.frame = (s.rolledStrand s.cur y).frame := by
  obtain ⟨s1, s2, bars, -, -, -, hcur, hframes⟩ := s.rollTo_frames c
  have hlive : s.cur.status ≠ .absent := by
    intro h
    simp [Strand.onQuad, h] at hon
  have hall : s.cur ∈ s.all := by
    unfold State.all
    rw [if_neg hlive]
    exact List.mem_cons_self
  have huid (x z : Strand) (hz : c.strands.find? (fun y => y.uid == x.uid) = some z) : (s.rolledStrand x z).uid = x.uid := by
    rw [State.rolledStrand_uid]
    simpa using List.find?_some hz
  have hmem : s.rolledStrand s.cur y ∈ s.rolledBack c :=
    List.mem_filterMap.2 ⟨s.cur, List.mem_filter.2 ⟨hall, hon⟩, by rw [hy]; rfl⟩
  have hone : ∀ z ∈ s.rolledBack c, z.uid = s.cur.uid → z = s.rolledStrand s.cur y := by
    intro z hz hzu
    obtain ⟨x, hx, hmap⟩ := List.mem_filterMap.1 hz
    obtain ⟨w, hw, rfl⟩ := Option.map_eq_some_iff.1 hmap
    obtain rfl := List.inj_on_of_nodup_map huids (List.mem_filter.1 hx).1 hall ((huid x w hw).symm.trans hzu)
    rw [Option.some.inj (hw.symm.trans hy)]
  have hback := State.cur_bringBack (tick := c.tick) hone hmem (huid s.cur y hy) (t := s2) (by rw [hcur]) (by rwa [hcur])
  have hframe : (s.rollTo s.quad.id c).cur.frame = _ := congrArg (fun p => p.2.2) hframes
  rw [hframe]
  exact congrArg Strand.frame hback

/-! ### The events -/

/-- Settles O55: the boundary, the release, the rollback, the loss of crews and the aging of a quad, each by its lemmas. -/
theorem quadEvents : Obligations.QuadEvents := by
  refine ⟨fun s n => ⟨fun h => exec_spanBoundary_of_off h, fun htick hroll => ?_⟩,
    fun s => ⟨fun h => congrArg _ (State.releaseDue_of_none h), fun e r hplat hdue hrest => ?_⟩, fun s n => ?_, fun s c hc hplat => ?_,
    fun s hnone hplat hids huids => ?_, fun s n => ?_⟩
  · refine ⟨_, exec_spanBoundary_of_on htick hroll, State.setQuad_cur _ _, ?_, ?_⟩
    · exact State.setQuad_keeps (g := State.mem) (fun _ _ _ => rfl) _ _
    · refine (s.getQuad_checkpointed n _).trans ?_
      have hid := s.getQuad_id n
      generalize s.getQuad n = q at hid
      subst hid
      rfl
  · exact ⟨congrArg _ (State.releaseDue_of_first hplat hdue hrest), _, rfl, rfl, rfl, rfl, rfl, rfl⟩
  · refine ⟨_, rfl, ?_, ?_, State.getQuad_modQuad s (s.getQuad_id n)⟩
    · exact State.modQuad_keeps (g := State.cur) (fun _ _ _ => rfl) _ _ _
    · exact State.modQuad_keeps (g := State.mem) (fun _ _ _ => rfl) _ _ _
  · obtain ⟨hold, hrel, hnewest⟩ := State.usable_spec hc
    obtain ⟨bars, hquad⟩ := s.rollTo_quad c
    refine ⟨hold, hrel, hnewest, _, exec_strikeReport_of_some hc hplat, congrArg (fun q => q.rolling) hquad, congrArg (fun q => q.plat) hquad,
      fun k hk => ?_, congrArg (fun q => q.d.sem) hquad, congrArg (fun q => q.d.words) hquad, congrArg (fun q => q.d.out) hquad,
      congrArg (fun q => q.d.copies) hquad, fun hwf k => ⟨State.memGet_rollTo_outside hwf c, State.memGet_rollTo_inside hwf⟩,
      fun y hon hy hpart hcrew huids => ?_⟩
    · obtain ⟨j, hj, htick⟩ := Quad.mem_ckpts_of_frame_eq hquad hk
      obtain ⟨hmem, hle⟩ := List.mem_filter.1 hj
      exact ⟨htick ▸ of_decide_eq_true hle, j, hmem, htick⟩
    · have hcur := State.rollTo_cur hon hy huids
      rw [State.rolledStrand_of_running hpart hcrew] at hcur
      by_cases hhalted : y.status = .halted
      · rw [if_pos hhalted] at hcur
        obtain ⟨hsc, hv, hmasks, htiles, hq0, hq1, hstatus, hident⟩ := Strand.of_frame_eq hcur
        exact ⟨hsc, hv, hmasks, htiles, hq0, hq1, hstatus.trans (if_pos hhalted).symm, hident⟩
      · rw [if_neg hhalted] at hcur
        obtain ⟨hsc, hv, hmasks, htiles, hq0, hq1, hstatus, hident⟩ := Strand.of_frame_eq hcur
        exact ⟨hsc, hv, hmasks, htiles, hq0, hq1, hstatus.trans (if_neg hhalted).symm, hident⟩
  · refine ⟨_, exec_strikeReport_of_none hnone hplat, fun c hc hquad hdepot l hl => ?_⟩
    have hmem : c.id ∈ (s.crews.filter (fun c => c.quad == s.quad.id && !c.depot)).map (·.id) :=
      List.mem_map_of_mem (List.mem_filter.2 ⟨hc, by simp [hquad, hdepot]⟩)
    have hlost := State.lostOf_loseCrews (State.losing_struck hids huids s.quad.id hc hl) hmem
    exact Option.map_eq_some_iff.1 hlost
  · have hspares : (s.mayCopy n = true) ↔ ((s.getQuad n).aging = true ∧ s.residents n = [] ∧ (s.getQuad n).plat = [] ∧
        (s.getQuad n).rolling = false ∧ s.lodge.spares.getD (n / 36) 0 ≠ 0) := by
      simp [State.mayCopy, State.sparesOf, Nat.pos_iff_ne_zero, and_assoc]
    refine ⟨fun h => exec_quadAgingFlag_of_not h, fun hn hyoung => exec_quadAgingFlag_of hn hyoung,
      fun h => exec_noprePreemptTimeout_of_not h, fun haging hold => exec_noprePreemptTimeout_of haging hold, fun h => ?_,
      fun haging hempty hplat hroll hleft => ?_⟩
    · refine exec_quadSpareCopy_of_not (Bool.eq_false_iff.2 fun hmay => ?_)
      obtain ⟨haging, hempty, hplat, hroll, hleft⟩ := hspares.1 hmay
      obtain h | h | h | h | h := h
      · exact Bool.false_ne_true (h.symm.trans haging)
      · exact h hempty
      · exact h hplat
      · exact Bool.false_ne_true (hroll.symm.trans h)
      · exact hleft h
    · refine ⟨_, exec_quadSpareCopy_of (hspares.2 ⟨haging, hempty, hplat, hroll, hleft⟩), ?_, State.setQuad_cur _ _, rfl, rfl, ?_⟩
      · exact State.setQuad_keeps (g := State.mem) (fun _ _ _ => rfl) _ _
      · have hget := s.getQuad_setQuad (s.getQuad n).spared
        rwa [show (s.getQuad n).spared.id = n from s.getQuad_id n] at hget

end Sys2Proof.Machine
end
